-- ==== Sys2Proof/Word.lean ====
section
/-! DEFINITION. The word types of the model: bytes and the 32-bit register word (R4, chapter 00). -/

namespace Sys2Proof

/-- One byte, the smallest unit of every memory of the module (R4). -/
abbrev Byte := BitVec 8

/-- A register word: registers are 32 bits wide unless their description states 64 bits (R8). -/
abbrev Word := BitVec 32

end Sys2Proof
end

