-- ==== Sys2Proof/Syntax.lean ====
section
/-! DEFINITION. The commands of the module, one constructor per row of spec/opcode_table.json, and the types of their operands. -/

namespace Sys2Proof

/-! ### Operands of the commands of the tile sequencers (R260–R282) -/

/-- MARK: W1–W4 of R266. `area` is the 48-bit address of the wide drive area. -/
structure MarkOp where
  markId : Nat
  areaHbm : Bool
  area : Nat
  areaLen : Nat
  deriving DecidableEq, Repr

/-- LAUNCH: REL and the 48-bit COUNT. -/
structure LaunchOp where
  rel : Bool
  count : Nat
  deriving DecidableEq, Repr

/-- SIGNAL: target logical tile, counter, increment and the AFTER unit mask. -/
structure SignalOp where
  tile : Nat
  ctr : Nat
  inc : Nat
  after : Nat
  deriving DecidableEq, Repr

/-- WAIT: counter and value. -/
structure WaitOp where
  ctr : Nat
  value : Nat
  deriving DecidableEq, Repr

/-- SETVER: COMMITTED and VER. -/
structure SetverOp where
  committed : Bool
  ver : Nat
  deriving DecidableEq, Repr

/-- SETTOWN: bank, port and owner code. -/
structure SettownOp where
  bank : Nat
  port : Nat
  owner : Nat
  deriving DecidableEq, Repr

/-- PWRITE of R269. -/
structure PwriteOp where
  array : Nat
  planeB : Bool
  desc : Nat
  block0 : Nat
  listEn : Bool
  listK : Nat
  listDesc : Nat
  listBlock : Nat
  cfa : Nat
  cfaEn : Bool
  deriving DecidableEq, Repr

/-- FIRE and TFIRE of R270. -/
structure FireOp where
  mask : Nat
  feed : Bool
  segmap : Nat
  drv : Nat
  stride : Nat
  deriving DecidableEq, Repr

/-- FLUSH of R272. -/
structure FlushOp where
  seg : Nat
  toWgb : Bool
  outDesc : Nat
  inDesc : Nat
  wDesc : Nat
  addr : Nat
  deriving DecidableEq, Repr

/-- DMEOP of R273. -/
structure DmeOp where
  mode : Nat
  toWgb : Bool
  aFeed : Bool
  bFeed : Bool
  aImg : Bool
  aT : Bool
  bT : Bool
  aAddr : Nat
  bAddr : Nat
  dAddr : Nat
  m : Nat
  n : Nat
  k : Nat
  aDesc : Nat
  bDesc : Nat
  dDesc : Nat
  deriving DecidableEq, Repr

/-- VDISP of R274. -/
structure VdispOp where
  entry : Nat
  drive : Bool
  descEn : Bool
  desc : Nat
  arg1 : Nat
  arg2 : Nat
  arg3 : Nat
  arg4 : Nat
  deriving DecidableEq, Repr

/-- KLOAD of R274; `count` is COUNT itself, the field holds COUNT − 1. -/
structure KloadOp where
  base : Nat
  count : Nat
  desc : Nat
  block0 : Nat
  deriving DecidableEq, Repr

/-- LOAD of R275. -/
structure LoadOp where
  feed : Bool
  vchk : Bool
  desc : Nat
  block0 : Nat
  count : Nat
  settAddr : Nat
  rowlen : Nat
  deriving DecidableEq, Repr

/-- STORE of R276. -/
structure StoreOp where
  pack : Bool
  shared : Bool
  desc : Nat
  block0 : Nat
  count : Nat
  settAddr : Nat
  images : Nat
  deriving DecidableEq, Repr

/-- WGCLR of R277. -/
structure WgclrOp where
  slot : Nat
  count : Nat
  deriving DecidableEq, Repr

/-- WGFLUSH of R277. -/
structure WgflushOp where
  slot : Nat
  bf16 : Bool
  clr : Bool
  count : Nat
  bucket : Nat
  offset : Nat
  samples : Nat
  desc : Nat
  deriving DecidableEq, Repr

/-- XCLOSE of R278. -/
structure XcloseOp where
  bucket : Nat
  samples : Nat
  deriving DecidableEq, Repr

/-- GRPUPD of R279: the first CNT value words. -/
structure GrpupdOp where
  group : Nat
  reg : Nat
  vals : List Word
  deriving DecidableEq, Repr

/-- A command of a stream, as the sequencer decodes it at fetch (R266). -/
inductive SeqCmd
  | nop
  | mark (o : MarkOp)
  | launch (o : LaunchOp)
  | fence (units : Nat)
  | signal (o : SignalOp)
  | wait (o : WaitOp)
  | sigclr (ctr : Nat)
  | setver (o : SetverOp)
  | settown (o : SettownOp)
  | pwrite (o : PwriteOp)
  | swap (mask : Nat)
  | fire (o : FireOp)
  | tfire (o : FireOp)
  | flush (o : FlushOp)
  | dmeop (o : DmeOp)
  | vdisp (o : VdispOp)
  | kload (o : KloadOp)
  | load (o : LoadOp)
  | store (o : StoreOp)
  | wgclr (o : WgclrOp)
  | wgflush (o : WgflushOp)
  | xclose (o : XcloseOp)
  | missue (bucket : Nat)
  | grpupd (o : GrpupdOp)
  deriving DecidableEq, Repr

/-! ### Operands of the instructions of the vector unit (R205) -/

/-- The fields of a VU instruction beside its opcode (R205), and how many attempts at its fetch failed parity (R406, R407). -/
structure VuFields where
  pred : Fin 8
  w : Bool
  bs : Bool
  vd : Fin 32
  va : Fin 32
  vb : Fin 32
  vc : Fin 32
  imm : Word
  fetchBad : Fin 4
  deriving DecidableEq, Repr

/-! ### Operands of link, host and power events -/

/-- What a peer's identity exchange showed (R370, R481): whether the certificates verify, whether the signature does, whether the key usage allows
signatures, and the module, key digest and configuration digest they name. -/
structure PeerCert where
  certOk : Bool
  sigOk : Bool
  keyUsage : Bool
  module : Nat
  key : List Byte
  digest : List Byte
  deriving DecidableEq, Repr

/-- What a start-up finds outside the module (R520, R536, R537): the PCI Express link that trains, the host's reference clock and its offset, and stacks
that fail training. -/
structure StartEnv where
  width : Nat
  flit : Bool
  speed : Nat
  refclk : Bool
  ppm : BitVec 16
  badStacks : List (Fin 24)
  deriving DecidableEq, Repr

/-- What the ADC converted for one slot: the raw codes of its N conversions, and the biased one (R500, R507). -/
structure AdcSlot where
  codes : List (BitVec 16)
  bias : BitVec 16
  deriving DecidableEq, Repr

/-- A command or event of the module: one constructor per row of the table, in its order; each docstring is the rule that governs it. -/
inductive Instr
  /-- REGISTER_WRITE: R5. -/
  | registerWrite (hub : Bool) (off : Nat) (len : Nat) (v : Word)
  /-- REG64_LOW_READ: R9. -/
  | reg64LowRead (hub : Bool) (off : Nat) (len : Nat)
  /-- REG64_HIGH_READ: R9. -/
  | reg64HighRead (hub : Bool) (off : Nat) (len : Nat)
  /-- COMMAND_FETCH: R262. -/
  | commandFetch (t : Fin 64) (bad : Fin 4) (par : Fin 10)
  /-- COMMAND_COMPLETE: R265. -/
  | commandComplete (t : Fin 64) (unit : Fin 7) (res : List (Nat × Nat)) (bad : List Nat)
  /-- NOP: R266. -/
  | nop (t : Fin 64)
  /-- MARK: R282. -/
  | mark (t : Fin 64) (o : MarkOp)
  /-- LAUNCH: R271. -/
  | launch (t : Fin 64) (o : LaunchOp)
  /-- FENCE: R280. -/
  | fence (t : Fin 64) (units : Nat)
  /-- SIGNAL: R280. -/
  | signal (t : Fin 64) (o : SignalOp)
  /-- SIGNAL_ARRIVE: R280. -/
  | signalArrive (t : Fin 64)
  /-- WAIT: R280. -/
  | wait (t : Fin 64) (o : WaitOp)
  /-- SIGCLR: R280. -/
  | sigclr (t : Fin 64) (ctr : Nat)
  /-- SETVER: R267. -/
  | setver (t : Fin 64) (o : SetverOp)
  /-- SETTOWN: R281. -/
  | settown (t : Fin 64) (o : SettownOp)
  /-- PWRITE: R269. -/
  | pwrite (t : Fin 64) (o : PwriteOp)
  /-- SWAP: R70. -/
  | swap (t : Fin 64) (mask : Nat)
  /-- FIRE: R270. -/
  | fire (t : Fin 64) (o : FireOp)
  /-- TFIRE: R86. -/
  | tfire (t : Fin 64) (o : FireOp)
  /-- FLUSH: R272. -/
  | flush (t : Fin 64) (o : FlushOp)
  /-- DMEOP: R273. -/
  | dmeop (t : Fin 64) (o : DmeOp)
  /-- VDISP: R274. -/
  | vdisp (t : Fin 64) (o : VdispOp)
  /-- KLOAD: R228. -/
  | kload (t : Fin 64) (o : KloadOp)
  /-- LOAD: R275. -/
  | load (t : Fin 64) (o : LoadOp)
  /-- STORE: R276. -/
  | store (t : Fin 64) (o : StoreOp)
  /-- WGCLR: R277. -/
  | wgclr (t : Fin 64) (o : WgclrOp)
  /-- WGFLUSH: R277. -/
  | wgflush (t : Fin 64) (o : WgflushOp)
  /-- XCLOSE: R278. -/
  | xclose (t : Fin 64) (o : XcloseOp)
  /-- MISSUE: R279. -/
  | missue (t : Fin 64) (bucket : Nat)
  /-- GRPUPD: R279. -/
  | grpupd (t : Fin 64) (o : GrpupdOp)
  /-- SEQ_RESUME: R285. -/
  | seqResume (t : Fin 64)
  /-- SEQ_SKIP: R285. -/
  | seqSkip (t : Fin 64)
  /-- SEQ_RUN: R257. -/
  | seqRun (t : Fin 64) (run : Bool)
  /-- SEQ_LONG: R288. -/
  | seqLong (t : Fin 64) (no : Option Nat)
  /-- PLANE_STAGED: R60. -/
  | planeStaged (t : Fin 64) (a : Fin 16)
  /-- PLANE_WRITE_DONE: R64. -/
  | planeWriteDone (t : Fin 64) (a : Fin 16)
  /-- SWAP_EXECUTE: R71. -/
  | swapExecute (t : Fin 64) (a : Fin 16)
  /-- LAUNCH_GRANT: R191. -/
  | launchGrant
  /-- PASS_CONVERT: R85. -/
  | passConvert (t : Fin 64) (mask : Nat)
  /-- FOX_WORK_DONE: R116. -/
  | foxWorkDone (t : Fin 64) (a : Fin 16)
  /-- BLOCK_WINDOW_CLOSE: R120. -/
  | blockWindowClose (t : Fin 64) (b : Fin 256)
  /-- FOX_WINDOW_CLOSE: R121. -/
  | foxWindowClose (t : Fin 64)
  /-- CHECK_BARRIER_END: R125. -/
  | checkBarrierEnd (t : Fin 64)
  /-- REWIND: R128. -/
  | rewind (t : Fin 64)
  /-- HOLD_CLR: R131. -/
  | holdClr (t : Fin 64)
  /-- ARR_CTRL_WIDE: R99. -/
  | arrCtrlWide (t : Fin 64) (a : Fin 16) (v : Option Bool)
  /-- PLANE_REFRESH_REQUEST: R93. -/
  | planeRefreshRequest (t : Fin 64) (a : Fin 16) (b : Bool)
  /-- REFRESH_LATE: R94. -/
  | refreshLate (t : Fin 64) (a : Fin 16) (b : Bool)
  /-- PLANE_EXPIRE: R96. -/
  | planeExpire (t : Fin 64) (a : Fin 16) (b : Bool)
  /-- CAL_START: R152. -/
  | calStart (t : Fin 64)
  /-- CAL_COMMIT: R155. -/
  | calCommit (t : Fin 64)
  /-- CAL_ABORT: R154. -/
  | calAbort (t : Fin 64)
  /-- CAL_AGE_TRIGGER: R152. -/
  | calAgeTrigger (t : Fin 64)
  /-- SUB_WINDOW_CLOSE: R143. -/
  | subWindowClose (t : Fin 64)
  /-- CAL_PRODUCT: R144. -/
  | calProduct (t : Fin 64)
  /-- MEASUREMENT_END: R146. -/
  | measurementEnd (t : Fin 64)
  /-- TRIM_COMMIT_APPLY: R155. -/
  | trimCommitApply (t : Fin 64)
  /-- CAL_REMAP: R159. -/
  | calRemap (t : Fin 64) (a : Fin 16) (k : Fin 8) (valid : Bool) (col : Fin 512)
  /-- REMAP_RFSH: R159. -/
  | remapRfsh (t : Fin 64) (a : Fin 16)
  /-- TRIM_FLASH_WRITEBACK: R158. -/
  | trimFlashWriteback
  /-- SETT_HANDOVER: R171. -/
  | settHandover (t : Fin 64) (b : Fin 48) (w : Word)
  /-- HANDOVER_COMPLETE: R171. -/
  | handoverComplete (t : Fin 64) (b : Fin 48) (p : Fin 2)
  /-- OWN_TIMEOUT: R173. -/
  | ownTimeout (t : Fin 64) (unit : Fin 16)
  /-- HOST_SETT_ACCESS: R174. -/
  | hostSettAccess (t : Fin 64) (off : Nat) (len : Nat) (data : Option (List Byte)) (coll : Bool)
  /-- WGB_ADD: R183. -/
  | wgbAdd (t : Fin 64) (vuAdds : List (Nat × Word))
  /-- VU_NOP: R209. -/
  | vuNop (t : Fin 64) (f : VuFields)
  /-- VADD: R209. -/
  | vadd (t : Fin 64) (f : VuFields)
  /-- VSUB: R209. -/
  | vsub (t : Fin 64) (f : VuFields)
  /-- VMUL: R209. -/
  | vmul (t : Fin 64) (f : VuFields)
  /-- VFMA: R209. -/
  | vfma (t : Fin 64) (f : VuFields)
  /-- VMAX: R209. -/
  | vmax (t : Fin 64) (f : VuFields)
  /-- VMIN: R209. -/
  | vmin (t : Fin 64) (f : VuFields)
  /-- VABS: R210. -/
  | vabs (t : Fin 64) (f : VuFields)
  /-- VNEG: R210. -/
  | vneg (t : Fin 64) (f : VuFields)
  /-- VMOV: R210. -/
  | vmov (t : Fin 64) (f : VuFields)
  /-- VMOVI: R210. -/
  | vmovi (t : Fin 64) (f : VuFields)
  /-- VEXP2: R211. -/
  | vexp2 (t : Fin 64) (f : VuFields)
  /-- VLOG2: R211. -/
  | vlog2 (t : Fin 64) (f : VuFields)
  /-- VRCP: R211. -/
  | vrcp (t : Fin 64) (f : VuFields)
  /-- VRSQRT: R211. -/
  | vrsqrt (t : Fin 64) (f : VuFields)
  /-- VEXP: R211. -/
  | vexp (t : Fin 64) (f : VuFields)
  /-- VTANH: R211. -/
  | vtanh (t : Fin 64) (f : VuFields)
  /-- VSIGM: R211. -/
  | vsigm (t : Fin 64) (f : VuFields)
  /-- VIADD: R209. -/
  | viadd (t : Fin 64) (f : VuFields)
  /-- VISUB: R209. -/
  | visub (t : Fin 64) (f : VuFields)
  /-- VIMUL: R209. -/
  | vimul (t : Fin 64) (f : VuFields)
  /-- VAND: R209. -/
  | vand (t : Fin 64) (f : VuFields)
  /-- VOR: R209. -/
  | vor (t : Fin 64) (f : VuFields)
  /-- VXOR: R209. -/
  | vxor (t : Fin 64) (f : VuFields)
  /-- VSHL: R209. -/
  | vshl (t : Fin 64) (f : VuFields)
  /-- VSHR: R209. -/
  | vshr (t : Fin 64) (f : VuFields)
  /-- VSRA: R209. -/
  | vsra (t : Fin 64) (f : VuFields)
  /-- VIOTA: R209. -/
  | viota (t : Fin 64) (f : VuFields)
  /-- VCMP: R208. -/
  | vcmp (t : Fin 64) (f : VuFields)
  /-- VICMP: R209. -/
  | vicmp (t : Fin 64) (f : VuFields)
  /-- VSEL: R209. -/
  | vsel (t : Fin 64) (f : VuFields)
  /-- PAND: R209. -/
  | pand (t : Fin 64) (f : VuFields)
  /-- POR: R209. -/
  | por (t : Fin 64) (f : VuFields)
  /-- PXOR: R209. -/
  | pxor (t : Fin 64) (f : VuFields)
  /-- PNOT: R209. -/
  | pnot (t : Fin 64) (f : VuFields)
  /-- PCNT: R209. -/
  | pcnt (t : Fin 64) (f : VuFields)
  /-- VCVT: R213. -/
  | vcvt (t : Fin 64) (f : VuFields)
  /-- VDCVT: R216. -/
  | vdcvt (t : Fin 64) (f : VuFields)
  /-- VLD: R221. -/
  | vld (t : Fin 64) (f : VuFields) (bad : List Nat)
  /-- VST: R221. -/
  | vst (t : Fin 64) (f : VuFields)
  /-- VLDP: R209. -/
  | vldp (t : Fin 64) (f : VuFields) (bad : List Nat)
  /-- VSTP: R209. -/
  | vstp (t : Fin 64) (f : VuFields)
  /-- VGATHER: R221. -/
  | vgather (t : Fin 64) (f : VuFields) (bad : List Nat)
  /-- VSCATTER: R221. -/
  | vscatter (t : Fin 64) (f : VuFields)
  /-- VRSUM: R212. -/
  | vrsum (t : Fin 64) (f : VuFields)
  /-- VRMAX: R209. -/
  | vrmax (t : Fin 64) (f : VuFields)
  /-- VRMIN: R209. -/
  | vrmin (t : Fin 64) (f : VuFields)
  /-- VRARGMAX: R209. -/
  | vrargmax (t : Fin 64) (f : VuFields)
  /-- VSCAN: R212. -/
  | vscan (t : Fin 64) (f : VuFields)
  /-- VRISUM: R209. -/
  | vrisum (t : Fin 64) (f : VuFields)
  /-- SMOVI: R209. -/
  | smovi (t : Fin 64) (f : VuFields)
  /-- SADD: R209. -/
  | sadd (t : Fin 64) (f : VuFields)
  /-- SSUB: R209. -/
  | ssub (t : Fin 64) (f : VuFields)
  /-- SMUL: R209. -/
  | smul (t : Fin 64) (f : VuFields)
  /-- SLT: R209. -/
  | slt (t : Fin 64) (f : VuFields)
  /-- VEXT: R209. -/
  | vext (t : Fin 64) (f : VuFields)
  /-- SLD: R209. -/
  | sld (t : Fin 64) (f : VuFields) (bad : List Nat)
  /-- SST: R209. -/
  | sst (t : Fin 64) (f : VuFields)
  /-- VCX: R223. -/
  | vcx (t : Fin 64) (f : VuFields)
  /-- VCXR: R223. -/
  | vcxr (t : Fin 64) (f : VuFields)
  /-- VRND: R225. -/
  | vrnd (t : Fin 64) (f : VuFields)
  /-- VRNDU: R225. -/
  | vrndu (t : Fin 64) (f : VuFields)
  /-- RSEED: R226. -/
  | rseed (t : Fin 64) (f : VuFields)
  /-- LOOP: R230. -/
  | loop (t : Fin 64) (f : VuFields)
  /-- BNZ: R230. -/
  | bnz (t : Fin 64) (f : VuFields)
  /-- BZ: R230. -/
  | bz (t : Fin 64) (f : VuFields)
  /-- END: R229. -/
  | vuEnd (t : Fin 64) (f : VuFields)
  /-- VU_WATCHDOG: R232. -/
  | vuWatchdog (t : Fin 64)
  /-- VU_RNG_SEED_WRITE: R226. -/
  | vuRngSeedWrite (t : Fin 64) (seed : BitVec 64)
  /-- STREAMER_ISSUE: R306. -/
  | streamerIssue (t : Fin 64)
  /-- BLOCK_RETURN: R298. -/
  | blockReturn (t : Fin 64) (job : Nat) (k : Nat) (bad : Fin 4)
  /-- WRITE_ACK: R298. -/
  | writeAck (t : Fin 64) (job : Nat) (k : Nat)
  /-- PREFETCH_PROBE: R308. -/
  | prefetchProbe (t : Fin 64)
  /-- TORN_REREAD: R395. -/
  | tornReread (t : Fin 64) (job : Nat) (k : Nat)
  /-- MC_ACCEPT: R303. -/
  | mcAccept (m : Fin 24)
  /-- MC_SERVE: R304. -/
  | mcServe (m : Fin 24) (corr : Nat) (unc : Bool)
  /-- ACCUM_ADD: R320. -/
  | accumAdd (m : Fin 24) (res : List (Nat × Nat)) (bad : Fin 4)
  /-- MARTEN_UPDATE_START: R329. -/
  | martenUpdateStart (m : Fin 24)
  /-- BLOCK_VISIT: R330. -/
  | blockVisit (m : Fin 24) (res : Fin 3) (bad : Fin 4) (listBad : Fin 4)
  /-- PROG_END: R335. -/
  | progEnd (m : Fin 24)
  /-- ADD: R335. -/
  | add (m : Fin 24) (d a b : Fin 32)
  /-- SUB: R335. -/
  | sub (m : Fin 24) (d a b : Fin 32)
  /-- MUL: R335. -/
  | mul (m : Fin 24) (d a b : Fin 32)
  /-- FMA: R335. -/
  | fma (m : Fin 24) (d a b c : Fin 32)
  /-- MAX: R335. -/
  | max (m : Fin 24) (d a b : Fin 32)
  /-- MIN: R335. -/
  | min (m : Fin 24) (d a b : Fin 32)
  /-- ABS: R335. -/
  | abs (m : Fin 24) (d a : Fin 32)
  /-- NEG: R335. -/
  | neg (m : Fin 24) (d a : Fin 32)
  /-- SIGN: R335. -/
  | sign (m : Fin 24) (d a : Fin 32)
  /-- SQRT: R335. -/
  | sqrt (m : Fin 24) (d a : Fin 32)
  /-- RSQRT: R335. -/
  | rsqrt (m : Fin 24) (d a : Fin 32)
  /-- RCP: R335. -/
  | rcp (m : Fin 24) (d a : Fin 32)
  /-- CLAMP: R335. -/
  | clamp (m : Fin 24) (d a b : Fin 32)
  /-- MOV: R335. -/
  | mov (m : Fin 24) (d a : Fin 32)
  /-- RROW: R335. -/
  | rrow (m : Fin 24) (d a : Fin 32)
  /-- RCOL: R335. -/
  | rcol (m : Fin 24) (d a : Fin 32)
  /-- RALL: R335. -/
  | rall (m : Fin 24) (d a : Fin 32)
  /-- RMEAN: R335. -/
  | rmean (m : Fin 24) (d a : Fin 32)
  /-- BUCKET_RETRY: R414. -/
  | bucketRetry (bucket : Nat)
  /-- MRT_SEED_WRITE: R346. -/
  | mrtSeedWrite (m : Fin 24) (seed : BitVec 64)
  /-- PORT_BRING_UP: R350. -/
  | portBringUp (p : Fin 48)
  /-- TRAINING_BLOCK_RX: R351. -/
  | trainingBlockRx (p : Fin 48) (lane : Fin 4) (inv : Bool) (logical : Fin 4) (peer : BitVec 18) (port : Fin 64)
  /-- LANE_SET_RX: R352. -/
  | laneSetRx (p : Fin 48) (set : BitVec 4)
  /-- IDENTITY_RX: R370. -/
  | identityRx (p : Fin 48) (c : PeerCert)
  /-- ACTIVATION_DIGEST_RX: R371. -/
  | activationDigestRx (p : Fin 48) (step : Nat) (digest : List Byte)
  /-- DIGEST_TIMEOUT: R371. -/
  | digestTimeout (p : Fin 48)
  /-- FLIT_SEND: R364. -/
  | flitSend (p : Fin 48)
  /-- FLIT_RX: R354. -/
  | flitRx (p : Fin 48) (b : List Byte) (corr unc : Nat)
  /-- ACK_TIMEOUT: R356. -/
  | ackTimeout (p : Fin 48)
  /-- FAST_RETRAIN: R358. -/
  | fastRetrain (p : Fin 48)
  /-- LANE_LOCK_LOSS: R358. -/
  | laneLockLoss (p : Fin 48) (lane : Fin 4)
  /-- PL_RETRAIN: R358. -/
  | plRetrain (p : Fin 48)
  /-- PACKET_FORWARD: R366. -/
  | packetForward (p : Fin 48) (vc : Fin 4)
  /-- ACCUM: R378. -/
  | accum (p : Fin 49)
  /-- CLOSE: R379. -/
  | close (p : Fin 49)
  /-- BCAST: R387. -/
  | bcast (p : Fin 49)
  /-- COMMIT_NOTICE: R389. -/
  | commitNotice (p : Fin 49)
  /-- SUPERSEDE_PACKET: R425. -/
  | supersedePacket (p : Fin 49)
  /-- RESEND: R390. -/
  | resend (p : Fin 49)
  /-- RESEND_DATA: R387. -/
  | resendData (p : Fin 49)
  /-- BUCKET_DEADLINE: R381. -/
  | bucketDeadline (bucket : Nat)
  /-- PUBLISH: R385. -/
  | publish (bucket : Nat)
  /-- STEP_COMMIT: R388. -/
  | stepCommit
  /-- RESEND_TIMEOUT: R390. -/
  | resendTimeout (bucket : Nat) (ver : Nat)
  /-- COMMIT_NOTICE_SEND: R424. -/
  | commitNoticeSend (bucket : Nat)
  /-- CHECKSUM_WINDOW_CLOSE: R418. -/
  | checksumWindowClose (t : Fin 64) (a : Fin 16)
  /-- GUARDBAND_ESCALATE: R427. -/
  | guardbandEscalate (n : Fin 68)
  /-- OWL_LEVEL_WRITE: R427. -/
  | owlLevelWrite (n : Fin 68) (v : Fin 8)
  /-- DEN_SCAN_START: R431. -/
  | denScanStart
  /-- SCAN_DONE: R432. -/
  | scanDone (pass : Bool)
  /-- OWL_DATAGRAM_SEND: R435. -/
  | owlDatagramSend
  /-- FIRMWARE_RECORD_COMPOSE: R437. -/
  | firmwareRecordCompose (raw : Bool)
  /-- OVERFLOW: R464. -/
  | overflow (q : Fin 16)
  /-- EVQ_MODERATION_TIMEOUT: R465. -/
  | evqModerationTimeout (q : Fin 16)
  /-- EVQ_CFG_EN: R461. -/
  | evqCfgEn (q : Fin 16) (w : Word)
  /-- EVQ_HEAD: R463. -/
  | evqHead (q : Fin 16) (v : BitVec 20)
  /-- BAR2_ACCESS: R442. -/
  | bar2Access (size : Fin 6) (off : Nat) (len : Nat) (data : Option (List Byte))
  /-- MBX_RING: R446. -/
  | mbxRing (p : Fin 64)
  /-- MBX_ACK: R446. -/
  | mbxAck (p : Fin 64)
  /-- MAILBOX_TAKE: R449. -/
  | mailboxTake (bad : Fin 4)
  /-- GET_INFO: R451. -/
  | getInfo (pair : Fin 64)
  /-- STAGE_CONFIG: R401. -/
  | stageConfig (pair : Fin 64)
  /-- LOAD_STREAMS: R452. -/
  | loadStreams (pair : Fin 64)
  /-- STREAM_CTRL: R453. -/
  | streamCtrl (pair : Fin 64)
  /-- SNAPSHOT: R454. -/
  | snapshot (pair : Fin 64)
  /-- TAKEOVER: R455. -/
  | takeover (pair : Fin 64)
  /-- UPDATE_RETRY: R455. -/
  | updateRetry (pair : Fin 64)
  /-- SUPERSEDE: R423. -/
  | supersede (pair : Fin 64)
  /-- BUCKET_ARRIVED: R455. -/
  | bucketArrived (pair : Fin 64)
  /-- BUCKET_HOLD: R455. -/
  | bucketHold (pair : Fin 64)
  /-- SET_LEDGER: R457. -/
  | setLedger (pair : Fin 64)
  /-- FW_STOP: R456. -/
  | fwStop (pair : Fin 64)
  /-- GET_CERT: R488. -/
  | getCert (pair : Fin 64)
  /-- ATTEST: R482. -/
  | attest (pair : Fin 64)
  /-- FW_STAGE: R485. -/
  | fwStage (pair : Fin 64) (data : List Byte) (ok : Bool)
  /-- FW_STATUS: R488. -/
  | fwStatus (pair : Fin 64)
  /-- OWNER_KEY_SET: R489. -/
  | ownerKeySet (pair : Fin 64)
  /-- GET_DIGEST: R488. -/
  | getDigest (pair : Fin 64)
  /-- SVN_COMMIT: R489. -/
  | svnCommit (pair : Fin 64)
  /-- HIF_CPY_GO: R459. -/
  | hifCpyGo (e : Fin 8) (hub : Bool) (w : Word)
  /-- HIF_CPY_ABORT: R460. -/
  | hifCpyAbort (e : Fin 8) (hub : Bool) (units : Nat) (data : List Byte)
  /-- COPY_DONE: R459. -/
  | copyDone (e : Fin 8) (data : List Byte) (err : Option Nat) (pois : Option Nat)
  /-- PERST: R535. -/
  | perst (moved : List (Nat × List Byte)) (width : Nat) (flit : Bool) (speed : Fin 8)
  /-- FW_WATCHDOG: R472. -/
  | fwWatchdog
  /-- CORE_STALL: R471. -/
  | coreStall (core : Fin 4)
  /-- LIVE_UPDATE_TIMEOUT: R487. -/
  | liveUpdateTimeout
  /-- MGMT_FRAME_RX: R473. -/
  | mgmtFrameRx (f : List Byte)
  /-- UART_CHAR_RX: R490. -/
  | uartCharRx (b : Byte)
  /-- HELP: R492. -/
  | help
  /-- INFO: R492. -/
  | info
  /-- RD: R492. -/
  | rd (off : Nat) (n : Nat)
  /-- TILES: R492. -/
  | tiles
  /-- PORTS: R492. -/
  | ports
  /-- TEMP: R492. -/
  | temp
  /-- EVENTS: R492. -/
  | events (n : Nat)
  /-- BAUD: R490. -/
  | baud (rate : Nat)
  /-- UNLOCK: R493. -/
  | unlock
  /-- RESP: R493. -/
  | resp (groups : Option (List Word))
  /-- WR: R492. -/
  | wr (off : Nat) (v : Word)
  /-- STREAM: R492. -/
  | stream (mask : BitVec 64) (action : Nat)
  /-- OWNER_ARM: R489. -/
  | ownerArm
  /-- LOCK: R493. -/
  | lock
  /-- MONITOR_IDLE_LOCK: R493. -/
  | monitorIdleLock
  /-- UART_STUCK: R494. -/
  | uartStuck
  /-- TAD_START: R501. -/
  | tadStart
  /-- TAD_STOP: R501. -/
  | tadStop
  /-- TAD_REFSEL: R498. -/
  | tadRefsel (sel : Fin 4)
  /-- REF_SETTLED: R499. -/
  | refSettled (v : BitVec 16)
  /-- PERIOD_TICK: R501. -/
  | periodTick
  /-- SEQUENCE_END: R502. -/
  | sequenceEnd (m : List AdcSlot)
  /-- HOUSEKEEPING: R504. -/
  | housekeeping (codes : List (BitVec 16))
  /-- TAD_CAL_ZERO: R508. -/
  | tadCalZero (chan : Fin 16) (acq : BitVec 8)
  /-- TAD_CAL_FULL: R508. -/
  | tadCalFull (chan : Fin 16) (acq : BitVec 8)
  /-- TAD_CAL_STORE: R510. -/
  | tadCalStore
  /-- TAD_CAL_LOAD: R510. -/
  | tadCalLoad
  /-- TAD_CAL_STEP_DONE: R509. -/
  | tadCalStepDone (l : List (BitVec 16))
  /-- BDG_ENABLE: R513. -/
  | bdgEnable (c : Fin 8) (hub : Bool) (w : Word)
  /-- BDG_DISABLE: R513. -/
  | bdgDisable (c : Fin 8) (hub : Bool)
  /-- BDG_KICK: R511. -/
  | bdgKick (c : Fin 8) (hub : Bool)
  /-- BDG_REQUEST_EDGE: R515. -/
  | bdgRequestEdge (c : Fin 8) (asserted : Bool)
  /-- BDG_MIN_INT_EXPIRE: R515. -/
  | bdgMinIntExpire (c : Fin 8)
  /-- BDG_BURST: R514. -/
  | bdgBurst (ext : List Word) (bad : List Nat)
  /-- PWR_EN_ASSERT: R536. -/
  | pwrEnAssert (e : StartEnv)
  /-- PWR_EN_DEASSERT: R537. -/
  | pwrEnDeassert
  /-- POWER_ON_RESET: R532. -/
  | powerOnReset (e : StartEnv)
  /-- STANDBY_LOSS: R545. -/
  | standbyLoss
  /-- RESET_N: R532. -/
  | resetN (asserted : Bool) (e : StartEnv)
  /-- MODULE_RESET: R532. -/
  | moduleReset (e : StartEnv)
  /-- HUB_RESET: R533. -/
  | hubReset
  /-- DIE_RESET: R534. -/
  | dieReset (dies : BitVec 4)
  /-- TILE_RESET: R533. -/
  | tileReset (n : BitVec 7)
  /-- MAIN_REVERSE: R524. -/
  | mainReverse
  /-- MAIN_SHORT: R524. -/
  | mainShort
  /-- MAIN_UNDERVOLT: R524. -/
  | mainUndervolt (low : Bool)
  /-- BROWNOUT: R524. -/
  | brownout
  /-- MAIN_OVERVOLT: R524. -/
  | mainOvervolt
  /-- MAIN_RESTORED: R524. -/
  | mainRestored (e : StartEnv)
  /-- THERMAL_TRIP: R524. -/
  | thermalTrip
  /-- PLL_UNLOCK: R521. -/
  | pllUnlock (long : Bool) (e : StartEnv)
  /-- POWER_SAMPLE: R526. -/
  | powerSample (w : BitVec 16)
  /-- THROTTLE_ASSERT: R528. -/
  | throttleAssert
  /-- THROTTLE_RELEASE: R528. -/
  | throttleRelease
  /-- THROTTLE_STUCK: R530. -/
  | throttleStuck
  /-- STANDBY_UART_LINE: R525. -/
  | standbyUartLine
  /-- PER_BANK_REFRESH: R290. -/
  | perBankRefresh (m : Fin 24) (temp : BitVec 8)
  /-- MAIN_SHORT_RETRY: R524. -/
  | mainShortRetry (ok : Bool) (e : StartEnv)
  /-- UART_RX_RELEASE: R494. -/
  | uartRxRelease
  /-- UNLOCK_LOCKOUT_END: R493. -/
  | unlockLockoutEnd
  /-- MANAGEMENT_LINK_CHANGE: R473. -/
  | managementLinkChange (up : Bool)
  /-- D3HOT_CHANGE: R440. -/
  | d3hotChange (on : Bool)
  /-- HOST_REFCLK_CHANGE: R520. -/
  | hostRefclkChange (present : Bool) (ppm : BitVec 16)
  deriving DecidableEq, Repr

end Sys2Proof
end

