-- ==== Sys2Proof/Decode.lean ====
section
/-! DEFINITION. The words of the table's rows. The block has no opcodes of its own: spec/opcode_table.json gives no row any bits, so no word spells a
command. (The command words that lie in streams in HBM are decoded by the tile sequencers, Machine/SeqDecode.lean.) -/

namespace Sys2Proof

/-- The command that a word spells by the table's bits: none, as the table gives none. -/
def decodeTableWord (_nbits _w : Nat) : Option Instr := none

end Sys2Proof
end

