-- ==== Sys2Proof/Machine/Sparse.lean ====
section
/-! DEFINITION. A sparse table by natural-number key, in ONE canonical form: keys strictly rising, and no entry equal to what
an unlisted key reads as. Memories, register words, tiles, queues and buffers of State are such tables. -/

namespace Sys2Proof.Machine

/-- What key `k` reads as in the table `l`: its entry, or the default of an unlisted key. -/
def sget {α : Type} (d : Nat → α) : List (Nat × α) → Nat → α
  | [], k => d k
  | (k', v) :: t, k => if k = k' then v else sget d t k

/-- Put (`keep`) or remove the entry of key `k`, keeping the keys in rising order. -/
def sput {α : Type} (k : Nat) (v : α) (keep : Bool) : List (Nat × α) → List (Nat × α)
  | [] => if keep then [(k, v)] else []
  | (k', v') :: t =>
    if k' < k then (k', v') :: sput k v keep t
    else if k' = k then (if keep then (k, v) :: t else t)
    else (if keep then (k, v) :: (k', v') :: t else (k', v') :: t)

/-- Write `v` at key `k`; writing the default removes the entry, so equal tables are equal data. -/
def sset {α : Type} [DecidableEq α] (d : Nat → α) (l : List (Nat × α)) (k : Nat) (v : α) : List (Nat × α) :=
  sput k v (decide (v ≠ d k)) l

/-- The canonical form: keys strictly rising and no entry at its default. -/
def swf {α : Type} [DecidableEq α] (d : Nat → α) : List (Nat × α) → Bool
  | [] => true
  | (k, v) :: t => decide (v ≠ d k) && t.all (fun p => decide (k < p.1)) && swf d t

/-- Write the values `vs` at consecutive keys from `k`. -/
def ssetList {α : Type} [DecidableEq α] (d : Nat → α) : List (Nat × α) → Nat → List α → List (Nat × α)
  | l, _, [] => l
  | l, k, v :: vs => ssetList d (sset d l k v) (k + 1) vs

/-- Read `n` values at consecutive keys from `k`. -/
def sgetList {α : Type} (d : Nat → α) (l : List (Nat × α)) (k n : Nat) : List α :=
  (List.range n).map fun i => sget d l (k + i)

end Sys2Proof.Machine
end

