-- ==== Sys2Proof/Machine/Operands.lean ====
section
/-! DEFINITION. Operand forms of chapter 02: the element formats, their values, rounding (R45), conversions (R47–R53) and
the arithmetic of special values (R39–R44). Arithmetic is exact over the rationals and rounded once where the spec rounds. -/

namespace Sys2Proof.Machine

/-- The format codes 0x0–0xA of R21. -/
inductive Fmt
  | fp32 | bf16 | e5m2 | e4m3 | b4g32 | b4g512 | f4g32 | b2g32 | b8g32 | int32 | uint8
  deriving DecidableEq, Repr

/-- The FMT codes of R21; 0xB–0xF are reserved. -/
def fmtOfCode : Nat → Option Fmt
  | 0 => some .fp32 | 1 => some .bf16 | 2 => some .e5m2 | 3 => some .e4m3 | 4 => some .b4g32 | 5 => some .b4g512
  | 6 => some .f4g32 | 7 => some .b2g32 | 8 => some .b8g32 | 9 => some .int32 | 10 => some .uint8 | _ => none

/-- The code of a format in the table of R21. -/
def fmtCode : Fmt → Nat
  | .fp32 => 0 | .bf16 => 1 | .e5m2 => 2 | .e4m3 => 3 | .b4g32 => 4 | .b4g512 => 5
  | .f4g32 => 6 | .b2g32 => 7 | .b8g32 => 8 | .int32 => 9 | .uint8 => 10

/-- Bits per element (R21). -/
def fmtBits : Fmt → Nat
  | .fp32 => 32 | .bf16 => 16 | .e5m2 => 8 | .e4m3 => 8 | .b4g32 => 4 | .b4g512 => 4
  | .f4g32 => 4 | .b2g32 => 2 | .b8g32 => 8 | .int32 => 32 | .uint8 => 8

/-- Elements per tensor block (R21): B2/32 is limited to 31,744 by the sidecar. -/
def fmtElems : Fmt → Nat
  | .fp32 => 2048 | .bf16 => 4096 | .e5m2 => 8192 | .e4m3 => 8192 | .b4g32 => 16384 | .b4g512 => 16384
  | .f4g32 => 16384 | .b2g32 => 31744 | .b8g32 => 8192 | .int32 => 2048 | .uint8 => 8192

/-- Group size: elements that share one E8 scale (R21); none for the formats without scales. -/
def fmtGroup : Fmt → Option Nat
  | .b4g32 => some 32 | .b4g512 => some 512 | .f4g32 => some 32 | .b2g32 => some 32 | .b8g32 => some 32 | _ => none

/-- Scale bytes in the sidecar of a block (R21). -/
def fmtScaleBytes (f : Fmt) : Nat :=
  match fmtGroup f with
  | some g => fmtElems f / g
  | none => 0

/-- The value of an element or of an engine's operand: NaN, a signed zero, or a non-zero rational (infinities never
survive a read, R39). -/
inductive FVal
  | nan
  | zero (neg : Bool)
  | num (q : Rat)
  deriving DecidableEq, Repr

/-- The counts a conversion or an arithmetic operation adds to the four CNV counters (R54). -/
structure Cnv where
  sat : Nat := 0
  inf : Nat := 0
  rsvd : Nat := 0
  nan : Nat := 0
  deriving DecidableEq, Repr

/-- Counts of two operations together. -/
def cnvAdd (a b : Cnv) : Cnv :=
  { sat := a.sat + b.sat, inf := a.inf + b.inf, rsvd := a.rsvd + b.rsvd, nan := a.nan + b.nan }

/-- Counts of a list of operations. -/
def cnvSum (l : List Cnv) : Cnv := l.foldl cnvAdd {}

/-- The two rounding modes of R45; SR carries the 16-bit random value drawn for this rounding. -/
inductive Rnd
  | rne
  | sr (r : Nat)
  deriving DecidableEq, Repr

/-- 2^e as a rational. -/
def pow2 (e : Int) : Rat := if 0 ≤ e then ((2 ^ e.toNat : Nat) : Rat) else 1 / ((2 ^ (-e).toNat : Nat) : Rat)

/-- The exponent E with 2^E ≤ q < 2^(E+1), for q > 0. -/
def ilog2 (q : Rat) : Int :=
  let k : Int := (Nat.log2 q.num.natAbs : Int) - (Nat.log2 q.den : Int)
  if pow2 (k + 1) ≤ q then k + 1 else if pow2 k ≤ q then k else k - 1

/-- Magnitude of a rational. -/
def rabs (q : Rat) : Rat := if q < 0 then -q else q

/-- Round a non-negative magnitude, in units of the destination spacing, to an integer (R45): RNE, or SR with d the first
16 bits of the fraction, up if r < d. -/
def roundMag (r : Rnd) (x : Rat) : Nat :=
  let f := x.floor.toNat
  let frac := x - (f : Rat)
  match r with
  | .rne => if frac < 1 / 2 then f else if 1 / 2 < frac then f + 1 else if f % 2 = 0 then f else f + 1
  | .sr v => if v < (frac * 65536).floor.toNat then f + 1 else f

/-- The rational of a value; zero for a zero and for NaN (callers test NaN first). -/
def fvalRat : FVal → Rat
  | .nan => 0
  | .zero _ => 0
  | .num q => q

/-- The value of an exact rational sum: an exact zero is +0 (R42). -/
def ofSum (q : Rat) : FVal := if q = 0 then .zero false else .num q

/-- Sign of a value; NaN counts as positive. -/
def fvalNeg : FVal → Bool
  | .nan => false
  | .zero n => n
  | .num q => decide (q < 0)

/-- Exact sum; NaN propagates (R41), an exact zero is +0 (R42). -/
def fAdd : FVal → FVal → FVal
  | .nan, _ => .nan
  | _, .nan => .nan
  | a, b => ofSum (fvalRat a + fvalRat b)

/-- Negation: the sign changes, zero included. -/
def fNeg : FVal → FVal
  | .nan => .nan
  | .zero n => .zero (!n)
  | .num q => .num (-q)

/-- Magnitude. -/
def fAbs : FVal → FVal
  | .nan => .nan
  | .zero _ => .zero false
  | .num q => .num (rabs q)

/-- Exact difference. -/
def fSub (a b : FVal) : FVal := fAdd a (fNeg b)

/-- Exact product: a zero product carries the exclusive-or of the signs (R42). -/
def fMul : FVal → FVal → FVal
  | .nan, _ => .nan
  | _, .nan => .nan
  | .num a, .num b => .num (a * b)
  | a, b => .zero (xor (fvalNeg a) (fvalNeg b))

/-- a × b + c, exact: a sum, so an exact zero is +0 (R42). -/
def fFma (a b c : FVal) : FVal := fAdd (fMul a b) c

/-- Strictly less, both numbers; false with a NaN (R44). -/
def fLt : FVal → FVal → Bool
  | .nan, _ => false
  | _, .nan => false
  | a, b => decide (fvalRat a < fvalRat b)

/-- Equal as numbers: +0 and −0 are equal; false with a NaN (R44). -/
def fEq : FVal → FVal → Bool
  | .nan, _ => false
  | _, .nan => false
  | a, b => decide (fvalRat a = fvalRat b)

/-- Maximum under R43: a NaN gives way to a number, and +0 is above −0. -/
def fMax : FVal → FVal → FVal
  | .nan, b => b
  | a, .nan => a
  | .zero a, .zero b => .zero (a && b)
  | a, b => if fvalRat a < fvalRat b then b else a

/-- Minimum under R43. -/
def fMin : FVal → FVal → FVal
  | .nan, b => b
  | a, .nan => a
  | .zero a, .zero b => .zero (a || b)
  | a, b => if fvalRat b < fvalRat a then b else a

/-- A floating-point destination format (R26): significand bits `p`, the exponent of the smallest normal, whether it has
subnormals, and its largest finite magnitude. -/
structure FpFmt where
  p : Nat
  emin : Int
  sub : Bool
  maxFin : Rat
  bits : Nat
  fracBits : Nat
  bias : Int
  nanBits : Nat
  deriving DecidableEq, Repr

/-- FP32 of R26. -/
def fpFp32 : FpFmt :=
  { p := 24, emin := -126, sub := false, maxFin := (2 - pow2 (-23)) * pow2 127, bits := 32, fracBits := 23, bias := 127, nanBits := 0x7FC00000 }
/-- BF16 of R26. -/
def fpBf16 : FpFmt :=
  { p := 8, emin := -126, sub := false, maxFin := (2 - pow2 (-7)) * pow2 127, bits := 16, fracBits := 7, bias := 127, nanBits := 0x7FC0 }
/-- E5M2 of R26. -/
def fpE5m2 : FpFmt :=
  { p := 3, emin := -14, sub := true, maxFin := 57344, bits := 8, fracBits := 2, bias := 15, nanBits := 0x7F }
/-- E4M3 of R26. -/
def fpE4m3 : FpFmt :=
  { p := 4, emin := -6, sub := true, maxFin := 448, bits := 8, fracBits := 3, bias := 7, nanBits := 0x7F }
/-- F4 (E2M1) of R31; it has no NaN encoding (a NaN in a block format is a NaN group, R50). -/
def fpF4 : FpFmt :=
  { p := 2, emin := 0, sub := true, maxFin := 6, bits := 4, fracBits := 1, bias := 1, nanBits := 0 }

/-- The spacing of a format at magnitude `a` (R45): one unit in the last place; below the smallest normal, the subnormal
spacing where the format has subnormals, else the spacing of an unbounded exponent (R27). -/
def fpSpacing (f : FpFmt) (a : Rat) : Rat :=
  let e := ilog2 a
  let e' := if f.sub && decide (e < f.emin) then f.emin else e
  pow2 (e' - ((f.p : Int) - 1))

/-- Round a value to a format (R27, R40, R45): the rounded value and 1 if it saturated. -/
def fpRound (f : FpFmt) (r : Rnd) : FVal → FVal × Nat
  | .nan => (.nan, 0)
  | .zero n => (.zero n, 0)
  | .num q =>
    let a := rabs q
    let u := fpSpacing f a
    let m := (roundMag r (a / u) : Rat) * u
    let neg := decide (q < 0)
    if m = 0 then (.zero neg, 0)
    else if f.maxFin < m then (.num (if neg then -f.maxFin else f.maxFin), 1)
    else if !f.sub && decide (m < pow2 f.emin) then (.zero neg, 0)
    else (.num (if neg then -m else m), 0)

/-- The bit pattern of a value that the format represents exactly. -/
def fpEncode (f : FpFmt) : FVal → Nat
  | .nan => f.nanBits
  | .zero n => if n then 2 ^ (f.bits - 1) else 0
  | .num q =>
    let a := rabs q
    let sgn := if q < 0 then 2 ^ (f.bits - 1) else 0
    let e := ilog2 a
    if e < f.emin then
      sgn + (a / pow2 (f.emin - ((f.p : Int) - 1))).floor.toNat
    else
      let m := (a / pow2 (e - ((f.p : Int) - 1))).floor.toNat
      sgn + (e + f.bias).toNat * 2 ^ f.fracBits + (m - 2 ^ f.fracBits)

/-- The value of a bit pattern as an engine reads it, and 1 if it was an infinity (R26, R27, R28, R39). -/
def fpDecode (f : FpFmt) (hasInf : Bool) (w : Nat) : FVal × Nat :=
  let neg := decide ((w / 2 ^ (f.bits - 1)) % 2 = 1)
  let ebits := f.bits - 1 - f.fracBits
  let e := (w / 2 ^ f.fracBits) % 2 ^ ebits
  let m := w % 2 ^ f.fracBits
  let sg : Rat → FVal := fun a => .num (if neg then -a else a)
  if hasInf && decide (e = 2 ^ ebits - 1) then
    (if m = 0 then (sg f.maxFin, 1) else (.nan, 0))
  else if e = 0 then
    (if m = 0 || !f.sub then (.zero neg, 0) else (sg ((m : Rat) * pow2 (f.emin - (f.fracBits : Int))), 0))
  else if f.bits = 8 && !hasInf && decide (e = 15) && decide (m = 7) then (.nan, 0)
  else (sg (((2 ^ f.fracBits + m : Nat) : Rat) * pow2 ((e : Int) - f.bias - (f.fracBits : Int))), 0)

/-- Value of an FP32 word as every engine reads it. -/
def fp32Dec (w : Word) : FVal := (fpDecode fpFp32 true w.toNat).1

/-- 1 if the FP32 word is an infinity, which R39 replaces and counts. -/
def fp32Inf (w : Word) : Nat := (fpDecode fpFp32 true w.toNat).2

/-- Round a value to FP32 and encode it: the word, and 1 if it saturated (R40). -/
def fp32Enc (r : Rnd) (v : FVal) : Word × Nat :=
  let x := fpRound fpFp32 r v
  (BitVec.ofNat 32 (fpEncode fpFp32 x.1), x.2)

/-- The canonical FP32 NaN of R26. -/
def fp32NaN : Word := 0x7FC00000#32

/-- Round to FP32 with RNE, the word alone. -/
def fp32Of (v : FVal) : Word := (fp32Enc .rne v).1

/-- An FP32 operation on exact values rounded once by RNE, with its counts (R39, R40). -/
def fp32Op (ops : List Word) (f : List FVal → FVal) : Word × Cnv :=
  let r := fp32Enc .rne (f (ops.map fp32Dec))
  (r.1, { sat := r.2, inf := (ops.map fp32Inf).sum })

/-- A finite, normal, non-zero FP32 word: what a tensor scale must be (R36). -/
def fp32Normal (w : Word) : Bool :=
  let e := (w.toNat / 2 ^ 23) % 256
  decide (e ≠ 0) && decide (e ≠ 255)

/-- The value 2^(e−127) of an E8 scale byte; none for the NaN group 0xFF (R29). -/
def e8Val (e : Nat) : Option Rat := if e = 255 then none else some (pow2 ((e : Int) - 127))

/-- The code limit Lf of R47: 7 for B4, 127 for B8, 1 for B2, 6 for F4. -/
def codeLimit : Fmt → Rat
  | .b4g32 => 7 | .b4g512 => 7 | .b8g32 => 127 | .b2g32 => 1 | .f4g32 => 6 | _ => 0

/-- The signed value of a `bits`-wide two's complement code. -/
def sext (bits c : Nat) : Int := if c < 2 ^ (bits - 1) then (c : Int) else (c : Int) - (2 ^ bits : Nat)

/-- The value of a block-format code, and 1 if it is the reserved code, which reads as the lowest code (R30–R32). -/
def codeVal (f : Fmt) (c : Nat) : FVal × Nat :=
  match f with
  | .f4g32 => ((fpDecode fpF4 false c).1, 0)
  | _ =>
    let b := fmtBits f
    let rsvd := decide (c % 2 ^ b = 2 ^ (b - 1))
    let v : Int := if rsvd then sext b c + 1 else sext b c
    (if v = 0 then .zero false else .num (v : Rat), if rsvd then 1 else 0)

/-- The value 2^(e−127) × code of an element (R29, R35 less the tensor scale), with its counts. -/
def elemVal (f : Fmt) (scale code : Nat) : FVal × Cnv :=
  let c := codeVal f code
  match e8Val scale with
  | none => (.nan, { rsvd := c.2 })
  | some s => (match c.1 with | .num q => .num (q * s) | v => v, { rsvd := c.2 })

/-- Max mode of R47 and R48: the smallest e in 0x00–0xFE with a ≤ Lf × 2^(e−127); 0xFE if none, 0x7F for a zero group. -/
def chooseScale (f : Fmt) (vals : List FVal) : Nat :=
  let a := vals.foldl (fun m v => if m < rabs (fvalRat v) then rabs (fvalRat v) else m) 0
  if a = 0 then 127
  else match (List.range 255).find? (fun (e : Nat) => decide (a ≤ codeLimit f * pow2 ((e : Int) - 127))) with
    | some e => e
    | none => 254

/-- One element onto the code grid of a group scale (R45, R49): the code and 1 if it saturated. -/
def encodeCode (f : Fmt) (r : Rnd) (scale : Nat) (v : FVal) : Nat × Nat :=
  let s := pow2 ((scale : Int) - 127)
  match f with
  | .f4g32 =>
    let x := fpRound fpF4 r (match v with | .num q => .num (q / s) | z => z)
    (fpEncode fpF4 x.1, x.2)
  | _ =>
    match v with
    | .num q =>
      let m := roundMag r (rabs q / s)
      let lim := (codeLimit f).floor.toNat
      let m' := if lim < m then lim else m
      ((if q < 0 then (2 ^ fmtBits f - m') % 2 ^ fmtBits f else m'), if lim < m then 1 else 0)
    | _ => (0, 0)

/-- Is a value NaN. -/
def fIsNan : FVal → Bool
  | .nan => true
  | _ => false

/-- Convert one group into a block format (R47–R50): chosen or given scale, codes and counts. -/
def encodeGroup (f : Fmt) (given : Option Nat) (rs : List Rnd) (vals : List FVal) : Nat × List Nat × Cnv :=
  if vals.any fIsNan || decide (given = some 255) then
    (255, vals.map fun _ => 0, { nan := 1 })
  else if given.isNone && vals.all fun v => decide (fvalRat v = 0) then (127, vals.map fun _ => 0, {})
  else
    let e := match given with
      | some g => g
      | none => chooseScale f vals
    let cs := (vals.zip (rs ++ List.replicate vals.length Rnd.rne)).map fun p => encodeCode f p.2 e p.1
    (e, cs.map (·.1), { sat := (cs.map (·.2)).sum })

/-- Convert a value to INT32 or UINT8 (R51): the code, saturating, NaN as 0. -/
def encodeInt (lo hi : Int) (bits : Nat) (r : Rnd) (v : FVal) : Nat × Cnv :=
  match v with
  | .nan => (0, { nan := 1 })
  | .zero _ => (0, {})
  | .num q =>
    let m : Int := (roundMag r (rabs q) : Int)
    let x : Int := if q < 0 then -m else m
    if x < lo then ((lo % (2 ^ bits : Nat)).toNat, { sat := 1 })
    else if hi < x then ((hi % (2 ^ bits : Nat)).toNat, { sat := 1 })
    else ((x % (2 ^ bits : Nat)).toNat, {})

/-- Convert a value to a format without scales, with its counts (R40, R45, R51). -/
def encodeElem (f : Fmt) (r : Rnd) (v : FVal) : Nat × Cnv :=
  let fp : FpFmt → Nat × Cnv := fun g => let x := fpRound g r v; (fpEncode g x.1, { sat := x.2 })
  match f with
  | .fp32 => fp fpFp32
  | .bf16 => fp fpBf16
  | .e5m2 => fp fpE5m2
  | .e4m3 => fp fpE4m3
  | .int32 => encodeInt (-2147483648) 2147483647 32 r v
  | .uint8 => encodeInt 0 255 8 r v
  | _ => (0, {})

/-- Value of an integer. -/
def fOfInt (i : Int) : FVal := if i = 0 then .zero false else .num (i : Rat)

/-- Value of an element of a format without scales as an engine reads it, with its counts (R26, R39). -/
def decodeElem (f : Fmt) (c : Nat) : FVal × Cnv :=
  let fp : FpFmt → Bool → FVal × Cnv := fun g inf => let x := fpDecode g inf c; (x.1, { inf := x.2 })
  match f with
  | .fp32 => fp fpFp32 true
  | .bf16 => fp fpBf16 true
  | .e5m2 => fp fpE5m2 true
  | .e4m3 => fp fpE4m3 false
  | .int32 => (fOfInt (sext 32 c), {})
  | .uint8 => (fOfInt (c : Int), {})
  | _ => (.nan, {})

/-- Whether a format is a block format, with E8 scales. -/
def fmtIsBlock (f : Fmt) : Bool := (fmtGroup f).isSome

/-- The format multiplies by 2^u before rounding (R53): E5M2, E4M3, F4 and the block formats. -/
def fmtTakesBias : Fmt → Bool
  | .fp32 => false | .bf16 => false | .int32 => false | .uint8 => false | _ => true

/-- Multiply a value by 2^u, exactly (R53). -/
def scale2 (u : Int) : FVal → FVal
  | .num q => .num (q * pow2 u)
  | v => v

/-- Little-endian number of a byte list (R4). -/
def leNat : List Byte → Nat
  | [] => 0
  | b :: bs => b.toNat + 256 * leNat bs

/-- The `n` bytes of a number, low byte first (R4). -/
def leBytes : Nat → Nat → List Byte
  | 0, _ => []
  | n + 1, v => BitVec.ofNat 8 v :: leBytes n (v / 256)

/-- The number in bytes `off` to `off + n − 1` of a byte list. -/
def fieldLe (bs : List Byte) (off n : Nat) : Nat := leNat ((bs.drop off).take n)

/-- Element `i` of a packed payload (R33): codes are packed from the low end of each byte. -/
def payloadElem (f : Fmt) (bs : List Byte) (i : Nat) : Nat :=
  let w := fmtBits f
  if 8 ≤ w then fieldLe bs (i * (w / 8)) (w / 8)
  else ((bs.getD (i * w / 8) 0).toNat / 2 ^ (i * w % 8)) % 2 ^ w

/-- Pack element codes into bytes (R33), from the low end of each byte. -/
def packElems (f : Fmt) (cs : List Nat) : List Byte :=
  let w := fmtBits f
  if 8 ≤ w then cs.flatMap (leBytes (w / 8))
  else
    let per := 8 / w
    (List.range ((cs.length + per - 1) / per)).map fun i =>
      BitVec.ofNat 8 (((List.range per).map fun k => (cs.getD (i * per + k) 0) * 2 ^ (w * k)).sum)

/-- A tensor block: 8,192 payload bytes and 1,024 sidecar bytes (R23, R24). -/
def blockBytes : Nat := 9216

/-- Payload bytes of a block. -/
def payloadBytes : Nat := 8192

/-- The trailer fields of R24, read from a block's bytes; trailer byte 0 is block byte 9,184. -/
structure Trailer where
  crc : Nat
  version : Nat
  tag : Nat
  tid : Nat
  block : Nat
  format : Nat
  flags : Nat
  summary : Nat
  deriving DecidableEq, Repr

/-- Read the trailer of a block (R24). -/
def trailerOf (b : List Byte) : Trailer :=
  { crc := fieldLe b 9184 4, version := fieldLe b 9188 6, tag := fieldLe b 9194 4, tid := fieldLe b 9198 4,
    block := fieldLe b 9202 4, format := fieldLe b 9206 2, flags := fieldLe b 9208 2, summary := fieldLe b 9210 6 }

/-- The 32 bytes of a trailer (R24). -/
def trailerBytes (t : Trailer) : List Byte :=
  leBytes 4 t.crc ++ leBytes 6 t.version ++ leBytes 4 t.tag ++ leBytes 4 t.tid ++ leBytes 4 t.block ++
  leBytes 2 t.format ++ leBytes 2 t.flags ++ leBytes 6 t.summary

/-- FLAGS bits of R24. -/
def flagMarten : Nat := 1
/-- FLAGS bit 1: an accumulate engine. -/
def flagAccum : Nat := 2
/-- FLAGS bit 2: the streamer, in every block it packs from drive images. -/
def flagPacked : Nat := 4

/-- Value of element `i` of a block as an engine reads it, less the tensor scale, with its counts (R29–R34). -/
def blockElem (f : Fmt) (b : List Byte) (i : Nat) : FVal × Cnv :=
  let c := payloadElem f b i
  match fmtGroup f with
  | some g => elemVal f (b.getD (payloadBytes + i / g) 0).toNat c
  | none => decodeElem f c

end Sys2Proof.Machine
end

