-- ==== Sys2Proof/Machine/RegMap.lean ====
section
/-! DEFINITION. The register table: every register the chapters of the spec define, by block kind and offset, with its access
types (R5) as masks and its reset value. Reset words that the spec takes from fuses, straps or training stand as 0 here; the operations that
read those registers supply them from the fuse state. -/

namespace Sys2Proof.Machine

/-- One 32-bit word of a register (a 64-bit register has two): its offset in its block kind's window, its repeats (count and
stride, outer and inner), the bits a write sets (RW and RWH), the bits a written 1 clears (RW1C), the action bits (WO) and the reset word. -/
structure RegDesc where
  off : Nat
  c1 : Nat
  s1 : Nat
  c2 : Nat
  s2 : Nat
  rw : Nat
  w1c : Nat
  wo : Nat
  reset : Nat
  /-- 0 for a 32-bit register; 1 for the low and 2 for the high word of a 64-bit one. -/
  half : Nat
  deriving DecidableEq, Repr

/-- Register words of the hub windows, part 0. -/
def hubRegs0 : List RegDesc := [
  ⟨0x0, 1, 0x0, 1, 0x0, 0x0, 0x0, 0x0, 0x482400A0, 0⟩,
  ⟨0x4, 1, 0x0, 1, 0x0, 0x0, 0x0, 0x0, 0x0, 0⟩,
  ⟨0x8, 1, 0x0, 1, 0x0, 0x0, 0x0, 0x0, 0x0, 0⟩,
  ⟨0xC, 1, 0x0, 1, 0x0, 0x0, 0x7, 0x0, 0x0, 0⟩,
  ⟨0x10, 1, 0x0, 1, 0x0, 0x0, 0x0, 0x0, 0x0, 1⟩,
  ⟨0x14, 1, 0x0, 1, 0x0, 0x1F0, 0x0, 0x0, 0x0, 2⟩,
  ⟨0x100, 8, 0x40, 1, 0x0, 0xFFFFFFFF, 0x0, 0x0, 0x0, 1⟩,
  ⟨0x104, 8, 0x40, 1, 0x0, 0xFFFFFFFF, 0x0, 0x0, 0x0, 2⟩,
  ⟨0x108, 8, 0x40, 1, 0x0, 0xFFFFFFFF, 0x0, 0x0, 0x0, 1⟩,
  ⟨0x10C, 8, 0x40, 1, 0x0, 0xFFFFFFFF, 0x0, 0x0, 0x0, 2⟩,
  ⟨0x110, 8, 0x40, 1, 0x0, 0xFFFFFFC0, 0x0, 0x0, 0x0, 0⟩,
  ⟨0x114, 8, 0x40, 1, 0x0, 0x3F1B, 0x0, 0xC0000000, 0x0, 0⟩,
  ⟨0x118, 8, 0x40, 1, 0x0, 0x0, 0x0, 0x0, 0x0, 0⟩,
  ⟨0x400, 1, 0x0, 1, 0x0, 0xFFFFFFFF, 0x0, 0x0, 0x0, 0⟩,
  ⟨0x404, 1, 0x0, 1, 0x0, 0xFFFFFFFF, 0x0, 0x0, 0x0, 0⟩,
  ⟨0x10000, 1, 0x0, 1, 0x0, 0x3F01, 0x0, 0x0, 0x0, 0⟩,
  ⟨0x10004, 1, 0x0, 1, 0x0, 0x0, 0x0, 0x3F, 0x0, 0⟩,
  ⟨0x10008, 1, 0x0, 1, 0x0, 0x0, 0x0, 0x3F, 0x0, 0⟩,
  ⟨0x10010, 4, 0x4, 1, 0x0, 0x0, 0x0, 0x0, 0x0, 0⟩,
  ⟨0x10020, 1, 0x0, 1, 0x0, 0x0, 0x3, 0x0, 0x0, 0⟩,
  ⟨0x10100, 1, 0x0, 1, 0x0, 0xFFFFFFFF, 0x0, 0x0, 0x0, 0⟩,
  ⟨0x10104, 1, 0x0, 1, 0x0, 0xFFFFFFFF, 0x0, 0x0, 0x0, 0⟩,
  ⟨0x10108, 1, 0x0, 1, 0x0, 0xFFFFFFFF, 0x0, 0x0, 0x0, 0⟩,
  ⟨0x1010C, 1, 0x0, 1, 0x0, 0xFFFFFFFF, 0x0, 0x0, 0x0, 0⟩,
  ⟨0x20000, 16, 0x40, 1, 0x0, 0xFFFFF000, 0x0, 0x0, 0x0, 1⟩,
  ⟨0x20004, 16, 0x40, 1, 0x0, 0xFFFFFFFF, 0x0, 0x0, 0x0, 2⟩,
  ⟨0x20008, 16, 0x40, 1, 0x0, 0x3FF3F9F, 0x0, 0x0, 0x6, 0⟩,
  ⟨0x2000C, 16, 0x40, 1, 0x0, 0xFFFF1FFF, 0x0, 0x0, 0x1, 0⟩,
  ⟨0x20010, 16, 0x40, 1, 0x0, 0xFFFFF, 0x0, 0x0, 0x0, 0⟩,
  ⟨0x20014, 16, 0x40, 1, 0x0, 0x0, 0x0, 0x0, 0x0, 0⟩,
  ⟨0x20018, 16, 0x40, 1, 0x0, 0x0, 0x3, 0x0, 0x0, 0⟩,
  ⟨0x2001C, 16, 0x40, 1, 0x0, 0xFFFFFFFF, 0x0, 0x0, 0x0, 0⟩,
  ⟨0x20800, 1, 0x0, 1, 0x0, 0xFFFFFFFF, 0x0, 0x0, 0x0, 0⟩,
  ⟨0x20804, 1, 0x0, 1, 0x0, 0xFFFFFFFF, 0x0, 0x0, 0x0, 0⟩,
  ⟨0x30000, 1, 0x0, 1, 0x0, 0xFF01, 0x0, 0x0, 0x1001, 0⟩,
  ⟨0x30004, 1, 0x0, 1, 0x0, 0x0, 0x7E, 0x0, 0x0, 0⟩,
  ⟨0x30008, 1, 0x0, 1, 0x0, 0x0, 0x0, 0x0, 0x0, 0⟩,
  ⟨0x3000C, 1, 0x0, 1, 0x0, 0x0, 0x0, 0x0, 0x0, 0⟩,
  ⟨0x30010, 4, 0x4, 1, 0x0, 0xFFFFFFFF, 0x0, 0x0, 0x0, 0⟩,
  ⟨0x30020, 4, 0x4, 1, 0x0, 0xFFFFFFFF, 0x0, 0x0, 0x0, 0⟩]

/-- Register words of the hub windows, part 1. -/
def hubRegs1 : List RegDesc := [
  ⟨0x30030, 1, 0x0, 1, 0x0, 0xFFFFFFFF, 0x0, 0x0, 0xC096C097, 0⟩,
  ⟨0x30034, 1, 0x0, 1, 0x0, 0x0, 0x0, 0x0, 0x0, 0⟩,
  ⟨0x30100, 1, 0x0, 1, 0x0, 0xFFFFFFFF, 0x0, 0x0, 0x0, 0⟩,
  ⟨0x30104, 1, 0x0, 1, 0x0, 0xFFFFFFFF, 0x0, 0x0, 0x0, 0⟩,
  ⟨0x30108, 1, 0x0, 1, 0x0, 0xFFFFFFFF, 0x0, 0x0, 0x0, 0⟩,
  ⟨0x3010C, 1, 0x0, 1, 0x0, 0xFFFFFFFF, 0x0, 0x0, 0x0, 0⟩,
  ⟨0x30110, 1, 0x0, 1, 0x0, 0xFFFFFFFF, 0x0, 0x0, 0x0, 0⟩,
  ⟨0x30400, 64, 0x4, 1, 0x0, 0x0, 0x0, 0x0, 0x0, 0⟩,
  ⟨0x30500, 68, 0x4, 1, 0x0, 0x0, 0x0, 0x0, 0x0, 0⟩,
  ⟨0x40000, 1, 0x0, 1, 0x0, 0x0, 0x8, 0x0, 0x0, 0⟩,
  ⟨0x40004, 1, 0x0, 1, 0x0, 0x0, 0x0, 0x0, 0x0, 0⟩,
  ⟨0x40100, 1, 0x0, 1, 0x0, 0xFFFFFFFF, 0x0, 0x0, 0x0, 0⟩,
  ⟨0x50000, 1, 0x0, 1, 0x0, 0x3, 0x0, 0x0, 0x1, 0⟩,
  ⟨0x50004, 1, 0x0, 1, 0x0, 0xFFFFFFFF, 0x0, 0x0, 0x960A28, 0⟩,
  ⟨0x50008, 1, 0x0, 1, 0x0, 0x0, 0x0, 0x0, 0x0, 0⟩,
  ⟨0x5000C, 1, 0x0, 1, 0x0, 0x0, 0x3E, 0x0, 0x0, 0⟩,
  ⟨0x50010, 1, 0x0, 1, 0x0, 0xFFFF0000, 0x0, 0x0, 0x3E80000, 0⟩,
  ⟨0x50014, 1, 0x0, 1, 0x0, 0xFF, 0x0, 0x0, 0x64, 0⟩,
  ⟨0x50018, 1, 0x0, 1, 0x0, 0x0, 0x3F, 0x0, 0x0, 0⟩,
  ⟨0x5001C, 1, 0x0, 1, 0x0, 0x0, 0x0, 0xC00F807F, 0x0, 0⟩,
  ⟨0x50020, 1, 0x0, 1, 0x0, 0x0, 0x0, 0x0, 0x0, 0⟩,
  ⟨0x50100, 1, 0x0, 1, 0x0, 0xFFFFFFFF, 0x0, 0x0, 0x0, 0⟩,
  ⟨0x50104, 1, 0x0, 1, 0x0, 0xFFFFFFFF, 0x0, 0x0, 0x0, 0⟩,
  ⟨0x50108, 1, 0x0, 1, 0x0, 0xFFFFFFFF, 0x0, 0x0, 0x0, 0⟩,
  ⟨0x5010C, 1, 0x0, 1, 0x0, 0xFFFFFFFF, 0x0, 0x0, 0x0, 0⟩,
  ⟨0x60000, 1, 0x0, 1, 0x0, 0x3F3D, 0x0, 0xC0, 0x100, 0⟩,
  ⟨0x60004, 1, 0x0, 1, 0x0, 0x0, 0x0, 0x0, 0x0, 0⟩,
  ⟨0x60008, 1, 0x0, 1, 0x0, 0xFFFFFF, 0x0, 0x0, 0x3E8, 0⟩,
  ⟨0x6000C, 1, 0x0, 1, 0x0, 0xFFFF, 0x0, 0x0, 0x3E8, 0⟩,
  ⟨0x60010, 1, 0x0, 1, 0x0, 0x0, 0x3FE, 0x0, 0x0, 0⟩,
  ⟨0x60014, 1, 0x0, 1, 0x0, 0x7FFF7FFF, 0x0, 0x0, 0x20000020, 0⟩,
  ⟨0x60018, 1, 0x0, 1, 0x0, 0xFFF0, 0x0, 0x7, 0x0, 0⟩,
  ⟨0x6001C, 1, 0x0, 1, 0x0, 0xFFFF, 0x0, 0x0, 0x0, 0⟩,
  ⟨0x60020, 1, 0x0, 1, 0x0, 0x0, 0x0, 0x0, 0x0, 0⟩,
  ⟨0x60100, 32, 0x4, 1, 0x0, 0xFFF0F03F, 0x0, 0x0, 0x0, 0⟩,
  ⟨0x60180, 32, 0x4, 1, 0x0, 0xFFFFFFFF, 0x0, 0x0, 0x7FFF8000, 0⟩,
  ⟨0x60200, 32, 0x4, 1, 0x0, 0x0, 0x0, 0x0, 0x0, 0⟩,
  ⟨0x60280, 17, 0x4, 1, 0x0, 0x0, 0x0, 0x0, 0x0, 0⟩,
  ⟨0x60400, 16, 0x4, 1, 0x0, 0xFFFF, 0x0, 0x0, 0x0, 0⟩,
  ⟨0x60440, 24, 0x4, 1, 0x0, 0x0, 0x0, 0x0, 0x0, 0⟩]

/-- Register words of the hub windows, part 2. -/
def hubRegs2 : List RegDesc := [
  ⟨0x60500, 16, 0x4, 1, 0x0, 0xFFFF, 0x0, 0x0, 0x8000, 0⟩,
  ⟨0x60540, 24, 0x4, 1, 0x0, 0x0, 0x0, 0x0, 0x8000, 0⟩,
  ⟨0x60800, 1, 0x0, 1, 0x0, 0xFFFFFFFF, 0x0, 0x0, 0x0, 0⟩,
  ⟨0x60804, 1, 0x0, 1, 0x0, 0xFFFFFFFF, 0x0, 0x0, 0x0, 0⟩,
  ⟨0x60808, 1, 0x0, 1, 0x0, 0xFFFFFFFF, 0x0, 0x0, 0x0, 0⟩,
  ⟨0x6080C, 1, 0x0, 1, 0x0, 0xFFFFFFFF, 0x0, 0x0, 0x0, 0⟩,
  ⟨0x60810, 1, 0x0, 1, 0x0, 0xFFFFFFFF, 0x0, 0x0, 0x0, 0⟩,
  ⟨0x60814, 1, 0x0, 1, 0x0, 0xFFFFFFFF, 0x0, 0x0, 0x0, 0⟩,
  ⟨0x70100, 8, 0x20, 1, 0x0, 0xFFFFFFFF, 0x0, 0x0, 0x0, 0⟩,
  ⟨0x70104, 8, 0x20, 1, 0x0, 0xFFFFFFFF, 0x0, 0x0, 0x0, 0⟩,
  ⟨0x70108, 8, 0x20, 1, 0x0, 0x7FFFF, 0x0, 0x0, 0x1, 0⟩,
  ⟨0x7010C, 8, 0x20, 1, 0x0, 0x7E01FFFF, 0x0, 0x80000000, 0x40E, 0⟩,
  ⟨0x70110, 8, 0x20, 1, 0x0, 0xFFFFFFFF, 0x0, 0x0, 0x1000C8, 0⟩,
  ⟨0x70114, 8, 0x20, 1, 0x0, 0x0, 0x0, 0x0, 0x0, 0⟩,
  ⟨0x70118, 8, 0x20, 1, 0x0, 0x3FFFF, 0x0, 0x0, 0x0, 0⟩,
  ⟨0x7011C, 8, 0x20, 1, 0x0, 0x0, 0x3F, 0x0, 0x0, 0⟩,
  ⟨0x70400, 8, 0x10, 1, 0x0, 0xFFFFFFFF, 0x0, 0x0, 0x0, 0⟩,
  ⟨0x70404, 8, 0x10, 1, 0x0, 0xFFFFFFFF, 0x0, 0x0, 0x0, 0⟩,
  ⟨0x70408, 8, 0x10, 1, 0x0, 0xFFFFFFFF, 0x0, 0x0, 0x0, 0⟩,
  ⟨0x7040C, 8, 0x10, 1, 0x0, 0xFFFFFFFF, 0x0, 0x0, 0x0, 0⟩,
  ⟨0x90000, 1, 0x0, 1, 0x0, 0xFF03, 0x0, 0x0, 0x4003, 0⟩,
  ⟨0x90004, 1, 0x0, 1, 0x0, 0xF03, 0x0, 0x0, 0x200, 0⟩,
  ⟨0x90008, 1, 0x0, 1, 0x0, 0x0, 0x1FFF, 0x0, 0x0, 0⟩,
  ⟨0x9000C, 1, 0x0, 1, 0x0, 0x0, 0x0, 0x0, 0x0, 0⟩,
  ⟨0x90010, 1, 0x0, 1, 0x0, 0xFFFF0FFF, 0x0, 0x0, 0x1400080, 0⟩,
  ⟨0x90014, 1, 0x0, 1, 0x0, 0x1F1F, 0x0, 0x0, 0xA0E, 0⟩,
  ⟨0x90018, 1, 0x0, 1, 0x0, 0x3F0F, 0x0, 0x0, 0x0, 0⟩,
  ⟨0x9001C, 1, 0x0, 1, 0x0, 0x0, 0x0, 0x0, 0x0, 0⟩,
  ⟨0x90020, 1, 0x0, 1, 0x0, 0x0, 0x0, 0x0, 0x0, 0⟩,
  ⟨0x90028, 1, 0x0, 1, 0x0, 0x0, 0x0, 0x0, 0x0, 1⟩,
  ⟨0x9002C, 1, 0x0, 1, 0x0, 0x0, 0x0, 0x0, 0x0, 2⟩,
  ⟨0x90030, 1, 0x0, 1, 0x0, 0x0, 0x0, 0x0, 0x0, 1⟩,
  ⟨0x90034, 1, 0x0, 1, 0x0, 0x0, 0x0, 0x0, 0x0, 2⟩,
  ⟨0x90040, 4, 0x4, 1, 0x0, 0xFFFFFFFF, 0x0, 0x0, 0x0, 0⟩,
  ⟨0x90050, 4, 0x4, 1, 0x0, 0xFFFFFFFF, 0x0, 0x0, 0x0, 0⟩,
  ⟨0x90060, 1, 0x0, 1, 0x0, 0xFFFFFFFF, 0x0, 0x0, 0x0, 0⟩,
  ⟨0x90064, 1, 0x0, 1, 0x0, 0xFFFF, 0x0, 0x0, 0x0, 0⟩,
  ⟨0x90068, 1, 0x0, 1, 0x0, 0xFFFFFFFF, 0x0, 0x0, 0xC094C095, 0⟩,
  ⟨0x9006C, 1, 0x0, 1, 0x0, 0x0, 0x0, 0x0, 0x0, 0⟩,
  ⟨0x90070, 1, 0x0, 1, 0x0, 0x0, 0x0, 0x0, 0x0, 0⟩]

/-- Register words of the hub windows, part 3. -/
def hubRegs3 : List RegDesc := [
  ⟨0x90100, 1, 0x0, 1, 0x0, 0xFFFFFFFF, 0x0, 0x0, 0x0, 0⟩,
  ⟨0x90104, 1, 0x0, 1, 0x0, 0xFFFFFFFF, 0x0, 0x0, 0x0, 0⟩,
  ⟨0x90108, 1, 0x0, 1, 0x0, 0xFFFFFFFF, 0x0, 0x0, 0x0, 0⟩,
  ⟨0x9010C, 1, 0x0, 1, 0x0, 0xFFFFFFFF, 0x0, 0x0, 0x0, 0⟩,
  ⟨0x90110, 1, 0x0, 1, 0x0, 0xFFFFFFFF, 0x0, 0x0, 0x0, 0⟩,
  ⟨0x90114, 1, 0x0, 1, 0x0, 0xFFFFFFFF, 0x0, 0x0, 0x0, 0⟩,
  ⟨0x90118, 1, 0x0, 1, 0x0, 0xFFFFFFFF, 0x0, 0x0, 0x0, 0⟩,
  ⟨0x9011C, 1, 0x0, 1, 0x0, 0xFFFFFFFF, 0x0, 0x0, 0x0, 0⟩,
  ⟨0x90120, 1, 0x0, 1, 0x0, 0xFFFFFFFF, 0x0, 0x0, 0x0, 0⟩,
  ⟨0x90124, 1, 0x0, 1, 0x0, 0xFFFFFFFF, 0x0, 0x0, 0x0, 0⟩,
  ⟨0x90128, 1, 0x0, 1, 0x0, 0xFFFFFFFF, 0x0, 0x0, 0x0, 0⟩,
  ⟨0x9012C, 1, 0x0, 1, 0x0, 0xFFFFFFFF, 0x0, 0x0, 0x0, 0⟩,
  ⟨0x90130, 1, 0x0, 1, 0x0, 0xFFFFFFFF, 0x0, 0x0, 0x0, 0⟩,
  ⟨0x90134, 1, 0x0, 1, 0x0, 0xFFFFFFFF, 0x0, 0x0, 0x0, 0⟩,
  ⟨0x90138, 1, 0x0, 1, 0x0, 0xFFFFFFFF, 0x0, 0x0, 0x0, 0⟩,
  ⟨0x9013C, 1, 0x0, 1, 0x0, 0xFFFFFFFF, 0x0, 0x0, 0x0, 0⟩,
  ⟨0x90140, 1, 0x0, 1, 0x0, 0xFFFFFFFF, 0x0, 0x0, 0x0, 0⟩,
  ⟨0x90144, 1, 0x0, 1, 0x0, 0xFFFFFFFF, 0x0, 0x0, 0x0, 0⟩,
  ⟨0x90148, 1, 0x0, 1, 0x0, 0xFFFFFFFF, 0x0, 0x0, 0x0, 0⟩,
  ⟨0x9014C, 1, 0x0, 1, 0x0, 0xFFFFFFFF, 0x0, 0x0, 0x0, 0⟩,
  ⟨0x90150, 1, 0x0, 1, 0x0, 0xFFFFFFFF, 0x0, 0x0, 0x0, 0⟩,
  ⟨0x90154, 1, 0x0, 1, 0x0, 0xFFFFFFFF, 0x0, 0x0, 0x0, 0⟩,
  ⟨0x90158, 1, 0x0, 1, 0x0, 0xFFFFFFFF, 0x0, 0x0, 0x0, 0⟩,
  ⟨0x9015C, 1, 0x0, 1, 0x0, 0xFFFFFFFF, 0x0, 0x0, 0x0, 0⟩,
  ⟨0x90160, 1, 0x0, 1, 0x0, 0xFFFFFFFF, 0x0, 0x0, 0x0, 0⟩,
  ⟨0x90164, 1, 0x0, 1, 0x0, 0xFFFFFFFF, 0x0, 0x0, 0x0, 0⟩,
  ⟨0x90400, 68, 0x4, 1, 0x0, 0x7, 0x0, 0x0, 0x0, 0⟩,
  ⟨0xA0000, 1, 0x0, 1, 0x0, 0x3, 0x0, 0x0, 0x2, 0⟩,
  ⟨0xA0004, 1, 0x0, 1, 0x0, 0x0, 0x0, 0x0, 0x0, 0⟩,
  ⟨0xA0008, 1, 0x0, 1, 0x0, 0x0, 0x0, 0x0, 0x0, 0⟩,
  ⟨0xA000C, 1, 0x0, 1, 0x0, 0x0, 0x0, 0x0, 0x0, 0⟩,
  ⟨0xA0010, 1, 0x0, 1, 0x0, 0x0, 0x0, 0x0, 0x0, 1⟩,
  ⟨0xA0014, 1, 0x0, 1, 0x0, 0x0, 0x0, 0x0, 0x0, 2⟩,
  ⟨0xA0018, 1, 0x0, 1, 0x0, 0x0, 0x0, 0x0, 0x0, 1⟩,
  ⟨0xA001C, 1, 0x0, 1, 0x0, 0x0, 0x0, 0x0, 0x0, 2⟩,
  ⟨0xA0020, 1, 0x0, 1, 0x0, 0x0, 0x0, 0x0, 0x0, 1⟩,
  ⟨0xA0024, 1, 0x0, 1, 0x0, 0x0, 0x0, 0x0, 0x0, 2⟩,
  ⟨0xA0028, 1, 0x0, 1, 0x0, 0x0, 0x0, 0x0, 0x0, 1⟩,
  ⟨0xA002C, 1, 0x0, 1, 0x0, 0x0, 0x0, 0x0, 0x0, 2⟩,
  ⟨0xA0030, 1, 0x0, 1, 0x0, 0x0, 0x0, 0x0, 0x0, 1⟩]

/-- Register words of the hub windows, part 4. -/
def hubRegs4 : List RegDesc := [
  ⟨0xA0034, 1, 0x0, 1, 0x0, 0x0, 0x0, 0x0, 0x0, 2⟩,
  ⟨0xA0038, 1, 0x0, 1, 0x0, 0x0, 0x0, 0x0, 0x3840200, 0⟩,
  ⟨0xA003C, 1, 0x0, 1, 0x0, 0x0, 0x0, 0x0, 0x7D0, 0⟩,
  ⟨0xA0040, 1, 0x0, 1, 0x0, 0x0, 0x0, 0x0, 0x1388, 0⟩,
  ⟨0xA0044, 1, 0x0, 1, 0x0, 0x0, 0x0, 0x0, 0xA0008, 0⟩,
  ⟨0xA0048, 1, 0x0, 1, 0x0, 0x0, 0x1FE, 0x0, 0x0, 0⟩,
  ⟨0xA0050, 1, 0x0, 1, 0x0, 0x3FFF, 0x0, 0x0, 0x0, 0⟩,
  ⟨0xA0054, 1, 0x0, 1, 0x0, 0x0, 0x0, 0x0, 0x0, 0⟩,
  ⟨0xA0058, 1, 0x0, 1, 0x0, 0x0, 0x0, 0x0, 0x0, 0⟩,
  ⟨0xA005C, 1, 0x0, 1, 0x0, 0x0, 0x0, 0x0, 0x0, 0⟩,
  ⟨0xA0060, 1, 0x0, 1, 0x0, 0x0, 0x0, 0x0, 0x0, 1⟩,
  ⟨0xA0064, 1, 0x0, 1, 0x0, 0x0, 0x0, 0x0, 0x0, 2⟩,
  ⟨0xA0100, 1, 0x0, 1, 0x0, 0xFFFFFFFF, 0x0, 0x0, 0x0, 0⟩,
  ⟨0xA0104, 1, 0x0, 1, 0x0, 0xFFFFFFFF, 0x0, 0x0, 0x0, 0⟩,
  ⟨0xA0108, 1, 0x0, 1, 0x0, 0xFFFFFFFF, 0x0, 0x0, 0x0, 0⟩,
  ⟨0xA010C, 1, 0x0, 1, 0x0, 0xFFFFFFFF, 0x0, 0x0, 0x0, 0⟩,
  ⟨0xA0110, 1, 0x0, 1, 0x0, 0xFFFFFFFF, 0x0, 0x0, 0x0, 0⟩,
  ⟨0xA0114, 1, 0x0, 1, 0x0, 0xFFFFFFFF, 0x0, 0x0, 0x0, 0⟩,
  ⟨0xA0118, 1, 0x0, 1, 0x0, 0xFFFFFFFF, 0x0, 0x0, 0x0, 0⟩,
  ⟨0xA011C, 1, 0x0, 1, 0x0, 0xFFFFFFFF, 0x0, 0x0, 0x0, 0⟩,
  ⟨0xA0120, 1, 0x0, 1, 0x0, 0xFFFFFFFF, 0x0, 0x0, 0x0, 0⟩,
  ⟨0xA0124, 1, 0x0, 1, 0x0, 0xFFFFFFFF, 0x0, 0x0, 0x0, 0⟩,
  ⟨0xA0128, 1, 0x0, 1, 0x0, 0xFFFFFFFF, 0x0, 0x0, 0x0, 0⟩,
  ⟨0xA012C, 1, 0x0, 1, 0x0, 0xFFFFFFFF, 0x0, 0x0, 0x0, 0⟩,
  ⟨0xA0130, 1, 0x0, 1, 0x0, 0xFFFFFFFF, 0x0, 0x0, 0x0, 0⟩,
  ⟨0xA0134, 1, 0x0, 1, 0x0, 0xFFFFFFFF, 0x0, 0x0, 0x0, 0⟩,
  ⟨0xA0138, 1, 0x0, 1, 0x0, 0xFFFFFFFF, 0x0, 0x0, 0x0, 0⟩,
  ⟨0xA013C, 1, 0x0, 1, 0x0, 0xFFFFFFFF, 0x0, 0x0, 0x0, 0⟩,
  ⟨0xA0140, 1, 0x0, 1, 0x0, 0xFFFFFFFF, 0x0, 0x0, 0x0, 0⟩,
  ⟨0xA0144, 1, 0x0, 1, 0x0, 0xFFFFFFFF, 0x0, 0x0, 0x0, 0⟩,
  ⟨0xA0148, 1, 0x0, 1, 0x0, 0xFFFFFFFF, 0x0, 0x0, 0x0, 0⟩,
  ⟨0xA014C, 1, 0x0, 1, 0x0, 0xFFFFFFFF, 0x0, 0x0, 0x0, 0⟩,
  ⟨0xA0150, 1, 0x0, 1, 0x0, 0xFFFFFFFF, 0x0, 0x0, 0x0, 0⟩,
  ⟨0xA0154, 1, 0x0, 1, 0x0, 0xFFFFFFFF, 0x0, 0x0, 0x0, 0⟩,
  ⟨0xA0158, 1, 0x0, 1, 0x0, 0xFFFFFFFF, 0x0, 0x0, 0x0, 0⟩,
  ⟨0xA015C, 1, 0x0, 1, 0x0, 0xFFFFFFFF, 0x0, 0x0, 0x0, 0⟩,
  ⟨0xA0160, 1, 0x0, 1, 0x0, 0xFFFFFFFF, 0x0, 0x0, 0x0, 0⟩,
  ⟨0xA0164, 1, 0x0, 1, 0x0, 0xFFFFFFFF, 0x0, 0x0, 0x0, 0⟩,
  ⟨0xA0168, 1, 0x0, 1, 0x0, 0xFFFFFFFF, 0x0, 0x0, 0x0, 0⟩,
  ⟨0xC0000, 1, 0x0, 1, 0x0, 0x0, 0x0, 0x0, 0x0, 0⟩]

/-- Register words of the hub windows, part 5. -/
def hubRegs5 : List RegDesc := [
  ⟨0xC0004, 1, 0x0, 1, 0x0, 0x0, 0x0, 0x0, 0x0, 0⟩,
  ⟨0xC0008, 1, 0x0, 1, 0x0, 0x0, 0x0, 0x1, 0x0, 0⟩,
  ⟨0xC000C, 1, 0x0, 1, 0x0, 0x0, 0x7, 0x0, 0x0, 0⟩,
  ⟨0xC0040, 16, 0x4, 1, 0x0, 0x0, 0x0, 0x0, 0x0, 0⟩,
  ⟨0xC0080, 16, 0x4, 1, 0x0, 0x0, 0x0, 0x0, 0x0, 0⟩,
  ⟨0xC00C0, 16, 0x4, 1, 0x0, 0x0, 0x0, 0x0, 0x0, 0⟩,
  ⟨0xC0100, 16, 0x4, 1, 0x0, 0x0, 0x0, 0x0, 0x0, 0⟩]

/-- Every register word of a hub window. -/
def hubRegs : List RegDesc := hubRegs0 ++ hubRegs1 ++ hubRegs2 ++ hubRegs3 ++ hubRegs4 ++ hubRegs5

/-- Register words of the tile windows, part 0. -/
def tileRegs0 : List RegDesc := [
  ⟨0x0, 1, 0x0, 1, 0x0, 0x0, 0x0, 0x0, 0x0, 0⟩,
  ⟨0x4, 1, 0x0, 1, 0x0, 0x7, 0x0, 0x0, 0x0, 0⟩,
  ⟨0x8, 1, 0x0, 1, 0x0, 0x0, 0x3, 0x0, 0x0, 0⟩,
  ⟨0xC, 1, 0x0, 1, 0x0, 0x0, 0x0, 0x0, 0x0, 0⟩,
  ⟨0x10, 1, 0x0, 1, 0x0, 0x0, 0x0, 0x0, 0x0, 1⟩,
  ⟨0x14, 1, 0x0, 1, 0x0, 0x0, 0x0, 0x0, 0x0, 2⟩,
  ⟨0x20, 1, 0x0, 1, 0x0, 0xFFFFFFC0, 0x0, 0x0, 0x0, 1⟩,
  ⟨0x24, 1, 0x0, 1, 0x0, 0xFFFF, 0x0, 0x0, 0x0, 2⟩,
  ⟨0x28, 1, 0x0, 1, 0x0, 0xFFFFFF, 0x0, 0x0, 0x0, 0⟩,
  ⟨0x2C, 1, 0x0, 1, 0x0, 0xFFFFFF, 0x0, 0x0, 0x0, 0⟩,
  ⟨0x30, 1, 0x0, 1, 0x0, 0xFFFFFF, 0x0, 0x0, 0x0, 0⟩,
  ⟨0x34, 1, 0x0, 1, 0x0, 0x0, 0x0, 0x0, 0x0, 0⟩,
  ⟨0x38, 1, 0x0, 1, 0x0, 0xFFFF0001, 0x0, 0x6, 0x640000, 0⟩,
  ⟨0x3C, 1, 0x0, 1, 0x0, 0x0, 0x300, 0x0, 0x0, 0⟩,
  ⟨0x40, 1, 0x0, 1, 0x0, 0x0, 0x0, 0x0, 0x0, 0⟩,
  ⟨0x48, 1, 0x0, 1, 0x0, 0xFFFFFFE0, 0x0, 0x0, 0x0, 1⟩,
  ⟨0x4C, 1, 0x0, 1, 0x0, 0xFFFFFFFF, 0x0, 0x0, 0x0, 2⟩,
  ⟨0x50, 1, 0x0, 1, 0x0, 0x0, 0x0, 0x0, 0x0, 1⟩,
  ⟨0x54, 1, 0x0, 1, 0x0, 0x0, 0x0, 0x0, 0x0, 2⟩,
  ⟨0x60, 16, 0x4, 1, 0x0, 0xFFFFFFFF, 0x0, 0x0, 0x0, 0⟩,
  ⟨0x100, 1, 0x0, 1, 0x0, 0xFFFFFFFF, 0x0, 0x0, 0x0, 0⟩,
  ⟨0x104, 1, 0x0, 1, 0x0, 0xFFFFFFFF, 0x0, 0x0, 0x0, 0⟩,
  ⟨0x108, 1, 0x0, 1, 0x0, 0xFFFFFFFF, 0x0, 0x0, 0x0, 0⟩,
  ⟨0x10C, 1, 0x0, 1, 0x0, 0xFFFFFFFF, 0x0, 0x0, 0x0, 0⟩,
  ⟨0x110, 1, 0x0, 1, 0x0, 0xFFFFFFFF, 0x0, 0x0, 0x0, 0⟩,
  ⟨0x114, 1, 0x0, 1, 0x0, 0xFFFFFFFF, 0x0, 0x0, 0x0, 0⟩,
  ⟨0x118, 1, 0x0, 1, 0x0, 0xFFFFFFFF, 0x0, 0x0, 0x0, 0⟩,
  ⟨0x11C, 1, 0x0, 1, 0x0, 0xFFFFFFFF, 0x0, 0x0, 0x0, 0⟩,
  ⟨0x120, 1, 0x0, 1, 0x0, 0xFFFFFFFF, 0x0, 0x0, 0x0, 0⟩,
  ⟨0x124, 1, 0x0, 1, 0x0, 0xFFFFFFFF, 0x0, 0x0, 0x0, 0⟩,
  ⟨0x10000, 16, 0x1000, 1, 0x0, 0x1F1, 0x0, 0x0, 0xA1, 0⟩,
  ⟨0x10004, 16, 0x1000, 1, 0x0, 0x0, 0x0, 0x0, 0x0, 0⟩,
  ⟨0x10008, 16, 0x1000, 1, 0x0, 0x8000FFFF, 0x0, 0x0, 0x800003E8, 0⟩,
  ⟨0x1000C, 16, 0x1000, 1, 0x0, 0x0, 0x0, 0x0, 0x70000, 0⟩,
  ⟨0x10010, 16, 0x1000, 1, 0x0, 0x0, 0x0, 0x0, 0x0, 0⟩,
  ⟨0x10014, 16, 0x1000, 1, 0x0, 0x0, 0x0, 0x0, 0x0, 0⟩,
  ⟨0x10018, 16, 0x1000, 1, 0x0, 0x0, 0x3F, 0x0, 0x0, 0⟩,
  ⟨0x1001C, 16, 0x1000, 1, 0x0, 0x0, 0x0, 0x0, 0x0, 0⟩,
  ⟨0x10020, 16, 0x1000, 1, 0x0, 0x0, 0x0, 0x0, 0x0, 1⟩,
  ⟨0x10024, 16, 0x1000, 1, 0x0, 0x0, 0x0, 0x0, 0x0, 2⟩]

/-- Register words of the tile windows, part 1. -/
def tileRegs1 : List RegDesc := [
  ⟨0x10028, 16, 0x1000, 1, 0x0, 0x0, 0x0, 0x0, 0x0, 0⟩,
  ⟨0x10030, 16, 0x1000, 1, 0x0, 0x0, 0x0, 0x0, 0x0, 1⟩,
  ⟨0x10034, 16, 0x1000, 1, 0x0, 0x0, 0x0, 0x0, 0x0, 2⟩,
  ⟨0x10038, 16, 0x1000, 1, 0x0, 0x0, 0x0, 0x0, 0x0, 0⟩,
  ⟨0x10040, 16, 0x1000, 1, 0x0, 0x0, 0x0, 0x0, 0x0, 1⟩,
  ⟨0x10044, 16, 0x1000, 1, 0x0, 0x0, 0x0, 0x0, 0x0, 2⟩,
  ⟨0x10048, 16, 0x1000, 1, 0x0, 0x0, 0x0, 0x0, 0x0, 1⟩,
  ⟨0x1004C, 16, 0x1000, 1, 0x0, 0x0, 0x0, 0x0, 0x0, 2⟩,
  ⟨0x10050, 16, 0x1000, 1, 0x0, 0x0, 0x0, 0x0, 0x0, 0⟩,
  ⟨0x10054, 16, 0x1000, 1, 0x0, 0x0, 0x0, 0x0, 0x0, 0⟩,
  ⟨0x10058, 16, 0x1000, 1, 0x0, 0x0, 0x0, 0x0, 0x0, 1⟩,
  ⟨0x1005C, 16, 0x1000, 1, 0x0, 0x0, 0x0, 0x0, 0x0, 2⟩,
  ⟨0x10060, 16, 0x1000, 1, 0x0, 0x0, 0x0, 0x0, 0x0, 1⟩,
  ⟨0x10064, 16, 0x1000, 1, 0x0, 0x0, 0x0, 0x0, 0x0, 2⟩,
  ⟨0x10068, 16, 0x1000, 1, 0x0, 0x0, 0x0, 0x0, 0x0, 0⟩,
  ⟨0x1006C, 16, 0x1000, 1, 0x0, 0x0, 0x0, 0x0, 0x0, 0⟩,
  ⟨0x10100, 16, 0x1000, 1, 0x0, 0xFFFFFFFF, 0x0, 0x0, 0x0, 0⟩,
  ⟨0x10104, 16, 0x1000, 1, 0x0, 0xFFFFFFFF, 0x0, 0x0, 0x0, 0⟩,
  ⟨0x10108, 16, 0x1000, 1, 0x0, 0xFFFFFFFF, 0x0, 0x0, 0x0, 0⟩,
  ⟨0x1010C, 16, 0x1000, 1, 0x0, 0xFFFFFFFF, 0x0, 0x0, 0x0, 0⟩,
  ⟨0x10110, 16, 0x1000, 1, 0x0, 0xFFFFFFFF, 0x0, 0x0, 0x0, 0⟩,
  ⟨0x10114, 16, 0x1000, 1, 0x0, 0xFFFFFFFF, 0x0, 0x0, 0x0, 0⟩,
  ⟨0x10118, 16, 0x1000, 1, 0x0, 0xFFFFFFFF, 0x0, 0x0, 0x0, 0⟩,
  ⟨0x1011C, 16, 0x1000, 1, 0x0, 0xFFFFFFFF, 0x0, 0x0, 0x0, 0⟩,
  ⟨0x10120, 16, 0x1000, 1, 0x0, 0xFFFFFFFF, 0x0, 0x0, 0x0, 0⟩,
  ⟨0x10124, 16, 0x1000, 1, 0x0, 0xFFFFFFFF, 0x0, 0x0, 0x0, 0⟩,
  ⟨0x20000, 1, 0x0, 1, 0x0, 0x1FFFF, 0x0, 0x0, 0x1108F, 0⟩,
  ⟨0x20004, 1, 0x0, 1, 0x0, 0x1F, 0x0, 0x0, 0xF, 0⟩,
  ⟨0x20008, 1, 0x0, 1, 0x0, 0xFFFF, 0x0, 0x0, 0x20, 0⟩,
  ⟨0x2000C, 1, 0x0, 1, 0x0, 0xFFFFF, 0x0, 0x0, 0x4000, 0⟩,
  ⟨0x20010, 1, 0x0, 1, 0x0, 0x0, 0x0, 0x0, 0x0, 0⟩,
  ⟨0x20014, 1, 0x0, 1, 0x0, 0x0, 0x0, 0x0, 0x0, 0⟩,
  ⟨0x20018, 1, 0x0, 1, 0x0, 0x0, 0x1F, 0x0, 0x0, 0⟩,
  ⟨0x2001C, 1, 0x0, 1, 0x0, 0x0, 0x0, 0x1, 0x0, 0⟩,
  ⟨0x20100, 1, 0x0, 1, 0x0, 0xFFFFFFFF, 0x0, 0x0, 0x0, 0⟩,
  ⟨0x20104, 1, 0x0, 1, 0x0, 0xFFFFFFFF, 0x0, 0x0, 0x0, 0⟩,
  ⟨0x20108, 1, 0x0, 1, 0x0, 0xFFFFFFFF, 0x0, 0x0, 0x0, 0⟩,
  ⟨0x2010C, 1, 0x0, 1, 0x0, 0xFFFFFFFF, 0x0, 0x0, 0x0, 0⟩,
  ⟨0x20110, 1, 0x0, 1, 0x0, 0xFFFFFFFF, 0x0, 0x0, 0x0, 0⟩,
  ⟨0x20114, 1, 0x0, 1, 0x0, 0xFFFFFFFF, 0x0, 0x0, 0x0, 0⟩]

/-- Register words of the tile windows, part 2. -/
def tileRegs2 : List RegDesc := [
  ⟨0x20118, 1, 0x0, 1, 0x0, 0xFFFFFFFF, 0x0, 0x0, 0x0, 0⟩,
  ⟨0x2011C, 1, 0x0, 1, 0x0, 0xFFFFFFFF, 0x0, 0x0, 0x0, 0⟩,
  ⟨0x20120, 1, 0x0, 1, 0x0, 0xFFFFFFFF, 0x0, 0x0, 0x0, 0⟩,
  ⟨0x20124, 1, 0x0, 1, 0x0, 0xFFFFFFFF, 0x0, 0x0, 0x0, 0⟩,
  ⟨0x21000, 256, 0x8, 1, 0x0, 0x0, 0x0, 0x0, 0x0, 0⟩,
  ⟨0x21004, 256, 0x8, 1, 0x0, 0x0, 0x0, 0x0, 0x0, 0⟩,
  ⟨0x22000, 1, 0x0, 1, 0x0, 0xFFFF0001, 0x0, 0x0, 0x4000001, 0⟩,
  ⟨0x22004, 1, 0x0, 1, 0x0, 0xFFFF, 0x0, 0x0, 0x40, 0⟩,
  ⟨0x22008, 1, 0x0, 1, 0x0, 0xFFFF, 0x0, 0x0, 0x1, 0⟩,
  ⟨0x2200C, 1, 0x0, 1, 0x0, 0x0, 0x0, 0x0, 0x0, 0⟩,
  ⟨0x22100, 1, 0x0, 1, 0x0, 0xFFFFFFFF, 0x0, 0x0, 0x0, 0⟩,
  ⟨0x22104, 1, 0x0, 1, 0x0, 0xFFFFFFFF, 0x0, 0x0, 0x0, 0⟩,
  ⟨0x22108, 1, 0x0, 1, 0x0, 0xFFFFFFFF, 0x0, 0x0, 0x0, 0⟩,
  ⟨0x2210C, 1, 0x0, 1, 0x0, 0xFFFFFFFF, 0x0, 0x0, 0x0, 0⟩,
  ⟨0x22110, 1, 0x0, 1, 0x0, 0xFFFFFFFF, 0x0, 0x0, 0x0, 0⟩,
  ⟨0x22114, 1, 0x0, 1, 0x0, 0xFFFFFFFF, 0x0, 0x0, 0x0, 0⟩,
  ⟨0x24000, 1, 0x0, 1, 0x0, 0x3F, 0x0, 0x0, 0x3B, 0⟩,
  ⟨0x24004, 1, 0x0, 1, 0x0, 0x1FF, 0x0, 0x0, 0x40, 0⟩,
  ⟨0x24008, 1, 0x0, 1, 0x0, 0xFFFFFF, 0x0, 0x0, 0x14000, 0⟩,
  ⟨0x2400C, 1, 0x0, 1, 0x0, 0xFFFF3F0F, 0x0, 0x0, 0x642008, 0⟩,
  ⟨0x24010, 1, 0x0, 1, 0x0, 0xFFFF, 0x0, 0x0, 0x2020, 0⟩,
  ⟨0x24014, 1, 0x0, 1, 0x0, 0x3F, 0x0, 0x0, 0x2F, 0⟩,
  ⟨0x24018, 1, 0x0, 1, 0x0, 0x0, 0x0, 0x7, 0x0, 0⟩,
  ⟨0x2401C, 1, 0x0, 1, 0x0, 0x0, 0xFE, 0x0, 0x0, 0⟩,
  ⟨0x24020, 1, 0x0, 1, 0x0, 0x0, 0x0, 0x0, 0x0, 0⟩,
  ⟨0x24024, 1, 0x0, 1, 0x0, 0x0, 0x0, 0x0, 0x0, 0⟩,
  ⟨0x24030, 1, 0x0, 1, 0x0, 0xF, 0x0, 0x0, 0x0, 0⟩,
  ⟨0x24040, 1, 0x0, 1, 0x0, 0xFF, 0x0, 0x0, 0x0, 0⟩,
  ⟨0x24044, 1, 0x0, 1, 0x0, 0x0, 0x0, 0x0, 0x0, 0⟩,
  ⟨0x24048, 1, 0x0, 1, 0x0, 0x0, 0x0, 0x0, 0x0, 0⟩,
  ⟨0x24050, 1, 0x0, 1, 0x0, 0x3F3F, 0x0, 0x0, 0x0, 0⟩,
  ⟨0x24054, 1, 0x0, 1, 0x0, 0x0, 0x0, 0x0, 0x0, 0⟩,
  ⟨0x24058, 1, 0x0, 1, 0x0, 0x0, 0x0, 0x0, 0x0, 0⟩,
  ⟨0x24080, 8, 0x4, 1, 0x0, 0x800001FF, 0x0, 0x20000000, 0x0, 0⟩,
  ⟨0x240C0, 8, 0x4, 1, 0x0, 0x3F3F, 0x0, 0x0, 0x0, 0⟩,
  ⟨0x240E0, 8, 0x4, 1, 0x0, 0x0, 0x0, 0x0, 0x0, 0⟩,
  ⟨0x24100, 1, 0x0, 1, 0x0, 0xFFFFFFFF, 0x0, 0x0, 0x0, 0⟩,
  ⟨0x24104, 1, 0x0, 1, 0x0, 0xFFFFFFFF, 0x0, 0x0, 0x0, 0⟩,
  ⟨0x24108, 1, 0x0, 1, 0x0, 0xFFFFFFFF, 0x0, 0x0, 0x0, 0⟩,
  ⟨0x2410C, 1, 0x0, 1, 0x0, 0xFFFFFFFF, 0x0, 0x0, 0x0, 0⟩]

/-- Register words of the tile windows, part 3. -/
def tileRegs3 : List RegDesc := [
  ⟨0x24110, 1, 0x0, 1, 0x0, 0xFFFFFFFF, 0x0, 0x0, 0x0, 0⟩,
  ⟨0x24114, 1, 0x0, 1, 0x0, 0xFFFFFFFF, 0x0, 0x0, 0x0, 0⟩,
  ⟨0x24118, 1, 0x0, 1, 0x0, 0xFFFFFFFF, 0x0, 0x0, 0x0, 0⟩,
  ⟨0x2411C, 1, 0x0, 1, 0x0, 0xFFFFFFFF, 0x0, 0x0, 0x0, 0⟩,
  ⟨0x24120, 1, 0x0, 1, 0x0, 0xFFFFFFFF, 0x0, 0x0, 0x0, 0⟩,
  ⟨0x25000, 512, 0x4, 1, 0x0, 0x3F3F, 0x0, 0x0, 0x0, 0⟩,
  ⟨0x25800, 512, 0x4, 1, 0x0, 0x3F3F, 0x0, 0x0, 0x0, 0⟩,
  ⟨0x26000, 512, 0x4, 1, 0x0, 0x0, 0x0, 0x0, 0x0, 0⟩,
  ⟨0x26800, 512, 0x4, 1, 0x0, 0x0, 0x0, 0x0, 0x0, 0⟩,
  ⟨0x27000, 512, 0x4, 1, 0x0, 0x0, 0x0, 0x0, 0x0, 0⟩,
  ⟨0x27800, 512, 0x4, 1, 0x0, 0x0, 0x0, 0x0, 0x0, 0⟩,
  ⟨0x28000, 48, 0x4, 1, 0x0, 0xF0F, 0x0, 0x0, 0x1, 0⟩,
  ⟨0x280C0, 1, 0x0, 1, 0x0, 0xFFFF, 0x0, 0x0, 0x3E8, 0⟩,
  ⟨0x280C4, 1, 0x0, 1, 0x0, 0x0, 0xF, 0x0, 0x0, 0⟩,
  ⟨0x28100, 1, 0x0, 1, 0x0, 0xFFFFFFFF, 0x0, 0x0, 0x0, 0⟩,
  ⟨0x28104, 1, 0x0, 1, 0x0, 0xFFFFFFFF, 0x0, 0x0, 0x0, 0⟩,
  ⟨0x28108, 1, 0x0, 1, 0x0, 0xFFFFFFFF, 0x0, 0x0, 0x0, 0⟩,
  ⟨0x2810C, 1, 0x0, 1, 0x0, 0xFFFFFFFF, 0x0, 0x0, 0x0, 0⟩,
  ⟨0x28110, 1, 0x0, 1, 0x0, 0xFFFFFFFF, 0x0, 0x0, 0x0, 0⟩,
  ⟨0x30000, 1, 0x0, 1, 0x0, 0xFF, 0x0, 0x0, 0x8, 0⟩,
  ⟨0x30004, 1, 0x0, 1, 0x0, 0x0, 0x0, 0x0, 0x0, 0⟩,
  ⟨0x30100, 1, 0x0, 1, 0x0, 0xFFFFFFFF, 0x0, 0x0, 0x0, 0⟩,
  ⟨0x30104, 1, 0x0, 1, 0x0, 0xFFFFFFFF, 0x0, 0x0, 0x0, 0⟩,
  ⟨0x30108, 1, 0x0, 1, 0x0, 0xFFFFFFFF, 0x0, 0x0, 0x0, 0⟩,
  ⟨0x3010C, 1, 0x0, 1, 0x0, 0xFFFFFFFF, 0x0, 0x0, 0x0, 0⟩,
  ⟨0x30110, 1, 0x0, 1, 0x0, 0xFFFFFFFF, 0x0, 0x0, 0x0, 0⟩,
  ⟨0x30114, 1, 0x0, 1, 0x0, 0xFFFFFFFF, 0x0, 0x0, 0x0, 0⟩,
  ⟨0x30F00, 1, 0x0, 1, 0x0, 0xFFFFFFFF, 0x0, 0x0, 0x0, 0⟩,
  ⟨0x30F04, 1, 0x0, 1, 0x0, 0xFFFFFFFF, 0x0, 0x0, 0x0, 0⟩,
  ⟨0x30F08, 1, 0x0, 1, 0x0, 0xFFFFFFFF, 0x0, 0x0, 0x0, 0⟩,
  ⟨0x30F0C, 1, 0x0, 1, 0x0, 0xFFFFFFFF, 0x0, 0x0, 0x0, 0⟩,
  ⟨0x34000, 1, 0x0, 1, 0x0, 0xFFFF0000, 0x0, 0x0, 0x3D090000, 0⟩,
  ⟨0x34004, 1, 0x0, 1, 0x0, 0x0, 0x0, 0x0, 0x0, 0⟩,
  ⟨0x34008, 1, 0x0, 1, 0x0, 0x0, 0x1, 0x0, 0x0, 0⟩,
  ⟨0x3400C, 1, 0x0, 1, 0x0, 0x0, 0x0, 0x0, 0x0, 0⟩,
  ⟨0x34010, 1, 0x0, 1, 0x0, 0x0, 0x0, 0x0, 0x0, 0⟩,
  ⟨0x34018, 1, 0x0, 1, 0x0, 0xFFFFFFFF, 0x0, 0x0, 0x0, 1⟩,
  ⟨0x3401C, 1, 0x0, 1, 0x0, 0xFFFFFFFF, 0x0, 0x0, 0x0, 2⟩,
  ⟨0x34020, 5, 0x8, 1, 0x0, 0x0, 0x0, 0x0, 0x0, 1⟩,
  ⟨0x34024, 5, 0x8, 1, 0x0, 0x0, 0x0, 0x0, 0x0, 2⟩]

/-- Register words of the tile windows, part 4. -/
def tileRegs4 : List RegDesc := [
  ⟨0x34100, 1, 0x0, 1, 0x0, 0xFFFFFFFF, 0x0, 0x0, 0x0, 0⟩,
  ⟨0x34104, 1, 0x0, 1, 0x0, 0xFFFFFFFF, 0x0, 0x0, 0x0, 0⟩,
  ⟨0x34108, 1, 0x0, 1, 0x0, 0xFFFFFFFF, 0x0, 0x0, 0x0, 0⟩,
  ⟨0x3410C, 1, 0x0, 1, 0x0, 0xFFFFFFFF, 0x0, 0x0, 0x0, 0⟩,
  ⟨0x34110, 1, 0x0, 1, 0x0, 0xFFFFFFFF, 0x0, 0x0, 0x0, 0⟩,
  ⟨0x34114, 1, 0x0, 1, 0x0, 0xFFFFFFFF, 0x0, 0x0, 0x0, 0⟩,
  ⟨0x34F00, 1, 0x0, 1, 0x0, 0xFFFFFFFF, 0x0, 0x0, 0x0, 0⟩,
  ⟨0x34F04, 1, 0x0, 1, 0x0, 0xFFFFFFFF, 0x0, 0x0, 0x0, 0⟩,
  ⟨0x34F08, 1, 0x0, 1, 0x0, 0xFFFFFFFF, 0x0, 0x0, 0x0, 0⟩,
  ⟨0x34F0C, 1, 0x0, 1, 0x0, 0xFFFFFFFF, 0x0, 0x0, 0x0, 0⟩,
  ⟨0x38000, 1, 0x0, 1, 0x0, 0x3F1F01, 0x0, 0x0, 0x200801, 0⟩,
  ⟨0x38004, 1, 0x0, 1, 0x0, 0x7F, 0x0, 0x0, 0x32, 0⟩,
  ⟨0x38008, 1, 0x0, 1, 0x0, 0x0, 0x0, 0x0, 0x0, 0⟩,
  ⟨0x3800C, 1, 0x0, 1, 0x0, 0x0, 0x1, 0x0, 0x0, 0⟩,
  ⟨0x38010, 1, 0x0, 1, 0x0, 0xFFFF, 0x0, 0x0, 0x0, 0⟩,
  ⟨0x38100, 1, 0x0, 1, 0x0, 0xFFFFFFFF, 0x0, 0x0, 0x0, 0⟩,
  ⟨0x38104, 1, 0x0, 1, 0x0, 0xFFFFFFFF, 0x0, 0x0, 0x0, 0⟩,
  ⟨0x38108, 1, 0x0, 1, 0x0, 0xFFFFFFFF, 0x0, 0x0, 0x0, 0⟩,
  ⟨0x3810C, 1, 0x0, 1, 0x0, 0xFFFFFFFF, 0x0, 0x0, 0x0, 0⟩,
  ⟨0x38110, 1, 0x0, 1, 0x0, 0xFFFFFFFF, 0x0, 0x0, 0x0, 0⟩,
  ⟨0x38114, 1, 0x0, 1, 0x0, 0xFFFFFFFF, 0x0, 0x0, 0x0, 0⟩,
  ⟨0x38118, 1, 0x0, 1, 0x0, 0xFFFFFFFF, 0x0, 0x0, 0x0, 0⟩,
  ⟨0x3811C, 1, 0x0, 1, 0x0, 0xFFFFFFFF, 0x0, 0x0, 0x0, 0⟩,
  ⟨0x38120, 1, 0x0, 1, 0x0, 0xFFFFFFFF, 0x0, 0x0, 0x0, 0⟩,
  ⟨0x38124, 1, 0x0, 1, 0x0, 0xFFFFFFFF, 0x0, 0x0, 0x0, 0⟩,
  ⟨0x38128, 1, 0x0, 1, 0x0, 0xFFFFFFFF, 0x0, 0x0, 0x0, 0⟩,
  ⟨0x3812C, 1, 0x0, 1, 0x0, 0xFFFFFFFF, 0x0, 0x0, 0x0, 0⟩,
  ⟨0x38130, 1, 0x0, 1, 0x0, 0xFFFFFFFF, 0x0, 0x0, 0x0, 0⟩,
  ⟨0x38134, 1, 0x0, 1, 0x0, 0xFFFFFFFF, 0x0, 0x0, 0x0, 0⟩,
  ⟨0x38138, 1, 0x0, 1, 0x0, 0xFFFFFFFF, 0x0, 0x0, 0x0, 0⟩,
  ⟨0x38F00, 1, 0x0, 1, 0x0, 0xFFFFFFFF, 0x0, 0x0, 0x0, 0⟩,
  ⟨0x38F04, 1, 0x0, 1, 0x0, 0xFFFFFFFF, 0x0, 0x0, 0x0, 0⟩,
  ⟨0x38F08, 1, 0x0, 1, 0x0, 0xFFFFFFFF, 0x0, 0x0, 0x0, 0⟩,
  ⟨0x38F0C, 1, 0x0, 1, 0x0, 0xFFFFFFFF, 0x0, 0x0, 0x0, 0⟩]

/-- Every register word of a tile window. -/
def tileRegs : List RegDesc := tileRegs0 ++ tileRegs1 ++ tileRegs2 ++ tileRegs3 ++ tileRegs4

/-- Register words of the mc windows, part 0. -/
def mcRegs0 : List RegDesc := [
  ⟨0x0, 1, 0x0, 1, 0x0, 0xFFFF01, 0x0, 0x0, 0x40C001, 0⟩,
  ⟨0x4, 1, 0x0, 1, 0x0, 0xFFFF, 0x0, 0x0, 0xC8, 0⟩,
  ⟨0x8, 1, 0x0, 1, 0x0, 0x0, 0x0, 0x0, 0x0, 0⟩,
  ⟨0xC, 1, 0x0, 1, 0x0, 0x0, 0x0, 0x0, 0x0, 0⟩,
  ⟨0x10, 1, 0x0, 1, 0x0, 0x0, 0x1, 0x0, 0x0, 0⟩,
  ⟨0x14, 1, 0x0, 1, 0x0, 0xFFFFF, 0x0, 0x0, 0x0, 0⟩,
  ⟨0x18, 1, 0x0, 1, 0x0, 0x0, 0x0, 0x0, 0x0, 0⟩,
  ⟨0x100, 1, 0x0, 1, 0x0, 0xFFFFFFFF, 0x0, 0x0, 0x0, 0⟩,
  ⟨0x104, 1, 0x0, 1, 0x0, 0xFFFFFFFF, 0x0, 0x0, 0x0, 0⟩,
  ⟨0x108, 1, 0x0, 1, 0x0, 0xFFFFFFFF, 0x0, 0x0, 0x0, 0⟩,
  ⟨0x10C, 1, 0x0, 1, 0x0, 0xFFFFFFFF, 0x0, 0x0, 0x0, 0⟩,
  ⟨0x110, 1, 0x0, 1, 0x0, 0xFFFFFFFF, 0x0, 0x0, 0x0, 0⟩,
  ⟨0x114, 1, 0x0, 1, 0x0, 0xFFFFFFFF, 0x0, 0x0, 0x0, 0⟩,
  ⟨0x118, 1, 0x0, 1, 0x0, 0xFFFFFFFF, 0x0, 0x0, 0x0, 0⟩,
  ⟨0x11C, 1, 0x0, 1, 0x0, 0xFFFFFFFF, 0x0, 0x0, 0x0, 0⟩,
  ⟨0x120, 1, 0x0, 1, 0x0, 0xFFFFFFFF, 0x0, 0x0, 0x0, 0⟩,
  ⟨0x124, 1, 0x0, 1, 0x0, 0xFFFFFFFF, 0x0, 0x0, 0x0, 0⟩,
  ⟨0x800, 1, 0x0, 1, 0x0, 0x0, 0x0, 0x0, 0x0, 0⟩,
  ⟨0x804, 1, 0x0, 1, 0x0, 0x0, 0x3, 0x0, 0x0, 0⟩,
  ⟨0x900, 1, 0x0, 1, 0x0, 0xFFFFFFFF, 0x0, 0x0, 0x0, 0⟩,
  ⟨0x904, 1, 0x0, 1, 0x0, 0xFFFFFFFF, 0x0, 0x0, 0x0, 0⟩,
  ⟨0x908, 1, 0x0, 1, 0x0, 0xFFFFFFFF, 0x0, 0x0, 0x0, 0⟩,
  ⟨0x90C, 1, 0x0, 1, 0x0, 0xFFFFFFFF, 0x0, 0x0, 0x0, 0⟩,
  ⟨0x910, 1, 0x0, 1, 0x0, 0xFFFFFFFF, 0x0, 0x0, 0x0, 0⟩,
  ⟨0x914, 1, 0x0, 1, 0x0, 0xFFFFFFFF, 0x0, 0x0, 0x0, 0⟩,
  ⟨0x918, 1, 0x0, 1, 0x0, 0xFFFFFFFF, 0x0, 0x0, 0x0, 0⟩,
  ⟨0x91C, 1, 0x0, 1, 0x0, 0xFFFFFFFF, 0x0, 0x0, 0x0, 0⟩,
  ⟨0xF00, 1, 0x0, 1, 0x0, 0xFFFFFFFF, 0x0, 0x0, 0x0, 0⟩,
  ⟨0xF04, 1, 0x0, 1, 0x0, 0xFFFFFFFF, 0x0, 0x0, 0x0, 0⟩,
  ⟨0xF08, 1, 0x0, 1, 0x0, 0xFFFFFFFF, 0x0, 0x0, 0x0, 0⟩,
  ⟨0xF0C, 1, 0x0, 1, 0x0, 0xFFFFFFFF, 0x0, 0x0, 0x0, 0⟩,
  ⟨0x8000, 1, 0x0, 1, 0x0, 0x3, 0x0, 0x0, 0x1, 0⟩,
  ⟨0x8004, 1, 0x0, 1, 0x0, 0x0, 0x0, 0x0, 0x0, 0⟩,
  ⟨0x8008, 1, 0x0, 1, 0x0, 0x0, 0xF, 0x0, 0x0, 0⟩,
  ⟨0x800C, 1, 0x0, 1, 0x0, 0x0, 0x0, 0x0, 0x0, 0⟩,
  ⟨0x8010, 1, 0x0, 1, 0x0, 0xFFFFFFC0, 0x0, 0x0, 0x0, 1⟩,
  ⟨0x8014, 1, 0x0, 1, 0x0, 0xF, 0x0, 0x0, 0x0, 2⟩,
  ⟨0x8018, 1, 0x0, 1, 0x0, 0x7FFF, 0x0, 0x0, 0x0, 0⟩,
  ⟨0x8020, 1, 0x0, 1, 0x0, 0xFFFFFFFF, 0x0, 0x0, 0x0, 1⟩,
  ⟨0x8024, 1, 0x0, 1, 0x0, 0xFFFFFFFF, 0x0, 0x0, 0x0, 2⟩]

/-- Register words of the mc windows, part 1. -/
def mcRegs1 : List RegDesc := [
  ⟨0x8028, 3, 0x8, 1, 0x0, 0x0, 0x0, 0x0, 0x0, 1⟩,
  ⟨0x802C, 3, 0x8, 1, 0x0, 0x0, 0x0, 0x0, 0x0, 2⟩,
  ⟨0x8040, 1, 0x0, 1, 0x0, 0xFFF, 0x0, 0x0, 0x0, 0⟩,
  ⟨0x8080, 16, 0x4, 1, 0x0, 0xFFFFFFFF, 0x0, 0x0, 0x0, 0⟩,
  ⟨0x8100, 1, 0x0, 1, 0x0, 0xFFFFFFFF, 0x0, 0x0, 0x0, 0⟩,
  ⟨0x8104, 1, 0x0, 1, 0x0, 0xFFFFFFFF, 0x0, 0x0, 0x0, 0⟩,
  ⟨0x8108, 1, 0x0, 1, 0x0, 0xFFFFFFFF, 0x0, 0x0, 0x0, 0⟩,
  ⟨0x810C, 1, 0x0, 1, 0x0, 0xFFFFFFFF, 0x0, 0x0, 0x0, 0⟩,
  ⟨0x8110, 1, 0x0, 1, 0x0, 0xFFFFFFFF, 0x0, 0x0, 0x0, 0⟩,
  ⟨0x8114, 1, 0x0, 1, 0x0, 0xFFFFFFFF, 0x0, 0x0, 0x0, 0⟩,
  ⟨0x8118, 1, 0x0, 1, 0x0, 0xFFFFFFFF, 0x0, 0x0, 0x0, 0⟩,
  ⟨0x811C, 1, 0x0, 1, 0x0, 0xFFFFFFFF, 0x0, 0x0, 0x0, 0⟩,
  ⟨0x8120, 1, 0x0, 1, 0x0, 0xFFFFFFFF, 0x0, 0x0, 0x0, 0⟩,
  ⟨0x8124, 1, 0x0, 1, 0x0, 0xFFFFFFFF, 0x0, 0x0, 0x0, 0⟩,
  ⟨0x8F00, 1, 0x0, 1, 0x0, 0xFFFFFFFF, 0x0, 0x0, 0x0, 0⟩,
  ⟨0x8F04, 1, 0x0, 1, 0x0, 0xFFFFFFFF, 0x0, 0x0, 0x0, 0⟩,
  ⟨0x8F08, 1, 0x0, 1, 0x0, 0xFFFFFFFF, 0x0, 0x0, 0x0, 0⟩,
  ⟨0x8F0C, 1, 0x0, 1, 0x0, 0xFFFFFFFF, 0x0, 0x0, 0x0, 0⟩,
  ⟨0x9000, 16, 0x80, 32, 0x4, 0xFFFFFFFF, 0x0, 0x0, 0x0, 0⟩]

/-- Every register word of a mc window. -/
def mcRegs : List RegDesc := mcRegs0 ++ mcRegs1

/-- Register words of the port windows, part 0. -/
def portRegs0 : List RegDesc := [
  ⟨0x0, 1, 0x0, 1, 0x0, 0xFFFF7F01, 0x0, 0x2, 0x3E83701, 0⟩,
  ⟨0x4, 1, 0x0, 1, 0x0, 0xFFFF, 0x0, 0x0, 0xC8, 0⟩,
  ⟨0x8, 1, 0x0, 1, 0x0, 0x0, 0x0, 0x0, 0x0, 0⟩,
  ⟨0xC, 1, 0x0, 1, 0x0, 0x0, 0x0, 0x0, 0x0, 0⟩,
  ⟨0x10, 1, 0x0, 1, 0x0, 0x0, 0x0, 0x0, 0x0, 0⟩,
  ⟨0x14, 1, 0x0, 1, 0x0, 0x0, 0x3FE, 0x0, 0x0, 0⟩,
  ⟨0x18, 1, 0x0, 1, 0x0, 0x0, 0x0, 0x0, 0x0, 0⟩,
  ⟨0x1C, 1, 0x0, 1, 0x0, 0x0, 0x0, 0x0, 0x0, 0⟩,
  ⟨0x20, 1, 0x0, 1, 0x0, 0xC00003FF, 0x0, 0x0, 0x0, 0⟩,
  ⟨0x24, 1, 0x0, 1, 0x0, 0x0, 0x0, 0x0, 0x0, 0⟩,
  ⟨0x28, 1, 0x0, 1, 0x0, 0x0, 0x0, 0x0, 0x0, 0⟩,
  ⟨0x100, 1, 0x0, 1, 0x0, 0xFFFFFFFF, 0x0, 0x0, 0x0, 0⟩,
  ⟨0x104, 1, 0x0, 1, 0x0, 0xFFFFFFFF, 0x0, 0x0, 0x0, 0⟩,
  ⟨0x108, 1, 0x0, 1, 0x0, 0xFFFFFFFF, 0x0, 0x0, 0x0, 0⟩,
  ⟨0x10C, 1, 0x0, 1, 0x0, 0xFFFFFFFF, 0x0, 0x0, 0x0, 0⟩,
  ⟨0x110, 1, 0x0, 1, 0x0, 0xFFFFFFFF, 0x0, 0x0, 0x0, 0⟩,
  ⟨0x114, 1, 0x0, 1, 0x0, 0xFFFFFFFF, 0x0, 0x0, 0x0, 0⟩,
  ⟨0x118, 1, 0x0, 1, 0x0, 0xFFFFFFFF, 0x0, 0x0, 0x0, 0⟩,
  ⟨0x11C, 1, 0x0, 1, 0x0, 0xFFFFFFFF, 0x0, 0x0, 0x0, 0⟩,
  ⟨0x120, 1, 0x0, 1, 0x0, 0xFFFFFFFF, 0x0, 0x0, 0x0, 0⟩,
  ⟨0x124, 1, 0x0, 1, 0x0, 0xFFFFFFFF, 0x0, 0x0, 0x0, 0⟩,
  ⟨0x128, 1, 0x0, 1, 0x0, 0xFFFFFFFF, 0x0, 0x0, 0x0, 0⟩,
  ⟨0x12C, 1, 0x0, 1, 0x0, 0xFFFFFFFF, 0x0, 0x0, 0x0, 0⟩,
  ⟨0x130, 1, 0x0, 1, 0x0, 0xFFFFFFFF, 0x0, 0x0, 0x0, 0⟩,
  ⟨0x134, 1, 0x0, 1, 0x0, 0xFFFFFFFF, 0x0, 0x0, 0x0, 0⟩,
  ⟨0x138, 1, 0x0, 1, 0x0, 0xFFFFFFFF, 0x0, 0x0, 0x0, 0⟩,
  ⟨0x13C, 1, 0x0, 1, 0x0, 0xFFFFFFFF, 0x0, 0x0, 0x0, 0⟩,
  ⟨0x140, 1, 0x0, 1, 0x0, 0xFFFFFFFF, 0x0, 0x0, 0x0, 0⟩,
  ⟨0x144, 1, 0x0, 1, 0x0, 0xFFFFFFFF, 0x0, 0x0, 0x0, 0⟩,
  ⟨0x148, 4, 0x4, 1, 0x0, 0xFFFFFFFF, 0x0, 0x0, 0x0, 0⟩,
  ⟨0x158, 1, 0x0, 1, 0x0, 0xFFFFFFFF, 0x0, 0x0, 0x0, 0⟩,
  ⟨0x15C, 1, 0x0, 1, 0x0, 0xFFFFFFFF, 0x0, 0x0, 0x0, 0⟩]

/-- Every register word of a port window. -/
def portRegs : List RegDesc := portRegs0

/-- Does a register word stand at offset `o` of its window. -/
def regAt (d : RegDesc) (o : Nat) : Bool :=
  if o < d.off then false
  else
    let r := o - d.off
    let i := if d.s1 = 0 then 0 else r / d.s1
    let r' := r - i * d.s1
    let j := if d.s2 = 0 then 0 else r' / d.s2
    decide (i < d.c1) && decide (j < d.c2) && decide (r' = j * d.s2)

/-- The register word at an offset of a block kind's table. -/
def regFind (l : List RegDesc) (o : Nat) : Option RegDesc := l.find? fun d => regAt d o

/-- Key of the window of physical tile n: the model keys a tile's registers by silicon, so that a takeover moves the window
and not the contents (R3, R197). -/
def tileBase (n : Nat) : Nat := 0x10000000 + n * 0x100000
/-- Key of the window of memory controller m (chapter 00). -/
def mcBase (m : Nat) : Nat := 0x02000000 + m * 0x10000
/-- Key of the block of peer port p (chapter 00). -/
def portBase (p : Nat) : Nat := 0x03000000 + p * 0x1000

/-- The register word a key names. Keys from tileBase are physical tiles; the per-array copies of the CAL window (R157) stand
0x40000 above the tile's base, 0x4000 an array. -/
def regOfKey (k : Nat) : Option RegDesc :=
  if 0x10000000 ≤ k then
    let o := (k - 0x10000000) % 0x100000
    regFind tileRegs (if o < 0x40000 then o else 0x24000 + (o - 0x40000) % 0x4000)
  else if 0x03000000 ≤ k then regFind portRegs ((k - 0x03000000) % 0x1000)
  else if 0x02000000 ≤ k then regFind mcRegs ((k - 0x02000000) % 0x10000)
  else regFind hubRegs k

/-- MGT_PTILE_STATEn at reset: a tile below p16 is CARRYING its own logical tile, p16 of each die is the spare. -/
def ptileReset (n : Nat) : Word :=
  if n % 17 = 16 then 1 else BitVec.ofNat 32 ((16 * (n / 17) + n % 17) * 16)

/-- What a register word reads at reset, by key (R11). -/
def resetWord (k : Nat) : Word :=
  if 0x30400 ≤ k ∧ k < 0x30500 ∧ k % 4 = 0 then
    -- MGT_TILE_MAPt: die t / 16, physical tile t mod 16 (R196)
    BitVec.ofNat 32 ((k - 0x30400) / 4 / 16 * 32 + (k - 0x30400) / 4 % 16)
  else if 0x30500 ≤ k ∧ k < 0x30500 + 68 * 4 ∧ k % 4 = 0 then
    -- MGT_PTILE_STATE of physical tile 17d + p: logical 16d + p for p below 16, and 0 for the spare (R196)
    ptileReset ((k - 0x30500) / 4)
  else if k = 0x30010 ∨ k = 0x90040 then 0xFF020000
  else if k = 0x3001C ∨ k = 0x9004C then 0x00000001
  else match regOfKey k with
  | some d => BitVec.ofNat 32 d.reset
  | none => 0

/-- A field of a register: the register's offset in its window, the field's bits, and the register's repeat strides. Fields of
a 64-bit register count bits over both words. -/
structure Fld where
  off : Nat
  hi : Nat
  lo : Nat
  s1 : Nat
  s2 : Nat
  deriving DecidableEq, Repr

/-- Element `i` of a repeated register. -/
def fldAt (f : Fld) (i : Nat) : Fld := { f with off := f.off + i * f.s1 }
/-- Element `i`, `j` of a twice repeated register. -/
def fldAt2 (f : Fld) (i j : Nat) : Fld := { f with off := f.off + i * f.s1 + j * f.s2 }

end Sys2Proof.Machine
end

