-- ==== Sys2Proof/Machine/Fields.lean ====
section
/-! DEFINITION. The names of the registers and of their fields, PREFIX_REGISTER and PREFIX_REGISTER_FIELD, as the chapters' tables give them. -/

namespace Sys2Proof.Machine.R

/-- ARR_CTRL (03_analogue_arrays). -/
def ARR_CTRL : Fld := ⟨0x10000, 31, 0, 0x1000, 0x0⟩
def ARR_CTRL_WIDE : Fld := ⟨0x10000, 8, 8, 0x1000, 0x0⟩
def ARR_CTRL_HEADROOM : Fld := ⟨0x10000, 7, 6, 0x1000, 0x0⟩
def ARR_CTRL_DITHER : Fld := ⟨0x10000, 5, 5, 0x1000, 0x0⟩
def ARR_CTRL_WV_EN : Fld := ⟨0x10000, 4, 4, 0x1000, 0x0⟩
def ARR_CTRL_ENABLE : Fld := ⟨0x10000, 0, 0, 0x1000, 0x0⟩
/-- ARR_STATE (03_analogue_arrays). -/
def ARR_STATE : Fld := ⟨0x10004, 31, 0, 0x1000, 0x0⟩
def ARR_STATE_STATE_B : Fld := ⟨0x10004, 15, 12, 0x1000, 0x0⟩
def ARR_STATE_STATE_A : Fld := ⟨0x10004, 11, 8, 0x1000, 0x0⟩
def ARR_STATE_RFSH_B : Fld := ⟨0x10004, 2, 2, 0x1000, 0x0⟩
def ARR_STATE_RFSH_A : Fld := ⟨0x10004, 1, 1, 0x1000, 0x0⟩
def ARR_STATE_ACT_B : Fld := ⟨0x10004, 0, 0, 0x1000, 0x0⟩
/-- ARR_RFSH_CFG (03_analogue_arrays). -/
def ARR_RFSH_CFG : Fld := ⟨0x10008, 31, 0, 0x1000, 0x0⟩
def ARR_RFSH_CFG_AUTO : Fld := ⟨0x10008, 31, 31, 0x1000, 0x0⟩
def ARR_RFSH_CFG_INTERVAL : Fld := ⟨0x10008, 15, 0, 0x1000, 0x0⟩
/-- ARR_TEMP (03_analogue_arrays). -/
def ARR_TEMP : Fld := ⟨0x1000C, 31, 0, 0x1000, 0x0⟩
def ARR_TEMP_BAND : Fld := ⟨0x1000C, 18, 16, 0x1000, 0x0⟩
def ARR_TEMP_TEMP : Fld := ⟨0x1000C, 15, 0, 0x1000, 0x0⟩
/-- ARR_AGE_A (03_analogue_arrays). -/
def ARR_AGE_A : Fld := ⟨0x10010, 31, 0, 0x1000, 0x0⟩
def ARR_AGE_A_AGE : Fld := ⟨0x10010, 31, 0, 0x1000, 0x0⟩
/-- ARR_AGE_B (03_analogue_arrays). -/
def ARR_AGE_B : Fld := ⟨0x10014, 31, 0, 0x1000, 0x0⟩
def ARR_AGE_B_AGE : Fld := ⟨0x10014, 31, 0, 0x1000, 0x0⟩
/-- ARR_STATUS (03_analogue_arrays). -/
def ARR_STATUS : Fld := ⟨0x10018, 31, 0, 0x1000, 0x0⟩
def ARR_STATUS_INVALID : Fld := ⟨0x10018, 5, 5, 0x1000, 0x0⟩
def ARR_STATUS_SRC_MISMATCH : Fld := ⟨0x10018, 4, 4, 0x1000, 0x0⟩
def ARR_STATUS_WV_RESID : Fld := ⟨0x10018, 3, 3, 0x1000, 0x0⟩
def ARR_STATUS_EXPIRED_B : Fld := ⟨0x10018, 2, 2, 0x1000, 0x0⟩
def ARR_STATUS_EXPIRED_A : Fld := ⟨0x10018, 1, 1, 0x1000, 0x0⟩
def ARR_STATUS_RFSH_LATE : Fld := ⟨0x10018, 0, 0, 0x1000, 0x0⟩
/-- ARR_CS_LAST (03_analogue_arrays). -/
def ARR_CS_LAST : Fld := ⟨0x1001C, 31, 0, 0x1000, 0x0⟩
def ARR_CS_LAST_D : Fld := ⟨0x1001C, 31, 0, 0x1000, 0x0⟩
/-- ARR_SRC_A (03_analogue_arrays). -/
def ARR_SRC_A : Fld := ⟨0x10020, 63, 0, 0x1000, 0x0⟩
def ARR_SRC_A_SETT : Fld := ⟨0x10020, 63, 63, 0x1000, 0x0⟩
def ARR_SRC_A_ADDR : Fld := ⟨0x10020, 47, 0, 0x1000, 0x0⟩
/-- ARR_SRC_B (03_analogue_arrays). -/
def ARR_SRC_B : Fld := ⟨0x10030, 63, 0, 0x1000, 0x0⟩
def ARR_SRC_B_SETT : Fld := ⟨0x10030, 63, 63, 0x1000, 0x0⟩
def ARR_SRC_B_ADDR : Fld := ⟨0x10030, 47, 0, 0x1000, 0x0⟩
/-- ARR_TID_A (03_analogue_arrays). -/
def ARR_TID_A : Fld := ⟨0x10028, 31, 0, 0x1000, 0x0⟩
def ARR_TID_A_TID : Fld := ⟨0x10028, 31, 0, 0x1000, 0x0⟩
/-- ARR_TID_B (03_analogue_arrays). -/
def ARR_TID_B : Fld := ⟨0x10038, 31, 0, 0x1000, 0x0⟩
def ARR_TID_B_TID : Fld := ⟨0x10038, 31, 0, 0x1000, 0x0⟩
/-- ARR_VER_A (03_analogue_arrays). -/
def ARR_VER_A : Fld := ⟨0x10040, 63, 0, 0x1000, 0x0⟩
def ARR_VER_A_VERSION : Fld := ⟨0x10040, 47, 0, 0x1000, 0x0⟩
/-- ARR_VER_B (03_analogue_arrays). -/
def ARR_VER_B : Fld := ⟨0x10048, 63, 0, 0x1000, 0x0⟩
def ARR_VER_B_VERSION : Fld := ⟨0x10048, 47, 0, 0x1000, 0x0⟩
/-- ARR_STRIDE_A (03_analogue_arrays). -/
def ARR_STRIDE_A : Fld := ⟨0x10050, 31, 0, 0x1000, 0x0⟩
def ARR_STRIDE_A_STRIDE : Fld := ⟨0x10050, 31, 0, 0x1000, 0x0⟩
/-- ARR_STRIDE_B (03_analogue_arrays). -/
def ARR_STRIDE_B : Fld := ⟨0x10054, 31, 0, 0x1000, 0x0⟩
def ARR_STRIDE_B_STRIDE : Fld := ⟨0x10054, 31, 0, 0x1000, 0x0⟩
/-- ARR_LIST_A (03_analogue_arrays). -/
def ARR_LIST_A : Fld := ⟨0x10058, 63, 0, 0x1000, 0x0⟩
def ARR_LIST_A_VALID : Fld := ⟨0x10058, 63, 63, 0x1000, 0x0⟩
def ARR_LIST_A_SETT : Fld := ⟨0x10058, 62, 62, 0x1000, 0x0⟩
def ARR_LIST_A_K : Fld := ⟨0x10058, 50, 48, 0x1000, 0x0⟩
def ARR_LIST_A_ADDR : Fld := ⟨0x10058, 47, 0, 0x1000, 0x0⟩
/-- ARR_LIST_B (03_analogue_arrays). -/
def ARR_LIST_B : Fld := ⟨0x10060, 63, 0, 0x1000, 0x0⟩
def ARR_LIST_B_VALID : Fld := ⟨0x10060, 63, 63, 0x1000, 0x0⟩
def ARR_LIST_B_SETT : Fld := ⟨0x10060, 62, 62, 0x1000, 0x0⟩
def ARR_LIST_B_K : Fld := ⟨0x10060, 50, 48, 0x1000, 0x0⟩
def ARR_LIST_B_ADDR : Fld := ⟨0x10060, 47, 0, 0x1000, 0x0⟩
/-- ARR_LTID_A (03_analogue_arrays). -/
def ARR_LTID_A : Fld := ⟨0x10068, 31, 0, 0x1000, 0x0⟩
def ARR_LTID_A_LTID : Fld := ⟨0x10068, 31, 0, 0x1000, 0x0⟩
/-- ARR_LTID_B (03_analogue_arrays). -/
def ARR_LTID_B : Fld := ⟨0x1006C, 31, 0, 0x1000, 0x0⟩
def ARR_LTID_B_LTID : Fld := ⟨0x1006C, 31, 0, 0x1000, 0x0⟩
/-- ACC_CTRL (04_accumulation_and_error_control). -/
def ACC_CTRL : Fld := ⟨0x20000, 31, 0, 0x0, 0x0⟩
def ACC_CTRL_ESC_EN : Fld := ⟨0x20000, 16, 16, 0x0, 0x0⟩
def ACC_CTRL_WIDE_HOLD : Fld := ⟨0x20000, 15, 8, 0x0, 0x0⟩
def ACC_CTRL_PCT_K : Fld := ⟨0x20000, 7, 4, 0x0, 0x0⟩
def ACC_CTRL_P_M1 : Fld := ⟨0x20000, 3, 0, 0x0, 0x0⟩
/-- ACC_WIN (04_accumulation_and_error_control). -/
def ACC_WIN : Fld := ⟨0x20004, 31, 0, 0x0, 0x0⟩
def ACC_WIN_WIN_LOG2 : Fld := ⟨0x20004, 4, 0, 0x0, 0x0⟩
/-- ACC_SAT_TH (04_accumulation_and_error_control). -/
def ACC_SAT_TH : Fld := ⟨0x20008, 31, 0, 0x0, 0x0⟩
def ACC_SAT_TH_TH : Fld := ⟨0x20008, 15, 0, 0x0, 0x0⟩
/-- ACC_ZERO_TH (04_accumulation_and_error_control). -/
def ACC_ZERO_TH : Fld := ⟨0x2000C, 31, 0, 0x0, 0x0⟩
def ACC_ZERO_TH_TH : Fld := ⟨0x2000C, 19, 0, 0x0, 0x0⟩
/-- ACC_ESC_STATE (04_accumulation_and_error_control). -/
def ACC_ESC_STATE : Fld := ⟨0x20010, 31, 0, 0x0, 0x0⟩
def ACC_ESC_STATE_MARK_ID : Fld := ⟨0x20010, 31, 16, 0x0, 0x0⟩
def ACC_ESC_STATE_HR_OFS : Fld := ⟨0x20010, 14, 12, 0x0, 0x0⟩
def ACC_ESC_STATE_DMODE : Fld := ⟨0x20010, 11, 10, 0x0, 0x0⟩
def ACC_ESC_STATE_REPLAYS : Fld := ⟨0x20010, 9, 8, 0x0, 0x0⟩
def ACC_ESC_STATE_WIDE_RUN : Fld := ⟨0x20010, 7, 7, 0x0, 0x0⟩
def ACC_ESC_STATE_REWIND : Fld := ⟨0x20010, 6, 6, 0x0, 0x0⟩
def ACC_ESC_STATE_CAUSE : Fld := ⟨0x20010, 2, 0, 0x0, 0x0⟩
/-- ACC_ESC_LAST (04_accumulation_and_error_control). -/
def ACC_ESC_LAST : Fld := ⟨0x20014, 31, 0, 0x0, 0x0⟩
def ACC_ESC_LAST_CAUSE : Fld := ⟨0x20014, 18, 16, 0x0, 0x0⟩
def ACC_ESC_LAST_FOX : Fld := ⟨0x20014, 8, 8, 0x0, 0x0⟩
def ACC_ESC_LAST_BLOCK : Fld := ⟨0x20014, 7, 0, 0x0, 0x0⟩
/-- ACC_STATUS (04_accumulation_and_error_control). -/
def ACC_STATUS : Fld := ⟨0x20018, 31, 0, 0x0, 0x0⟩
def ACC_STATUS_HOLD_EVICT : Fld := ⟨0x20018, 4, 4, 0x0, 0x0⟩
def ACC_STATUS_WIDE_XING : Fld := ⟨0x20018, 3, 3, 0x0, 0x0⟩
def ACC_STATUS_FINAL_SAT : Fld := ⟨0x20018, 2, 2, 0x0, 0x0⟩
def ACC_STATUS_WCLIP : Fld := ⟨0x20018, 1, 1, 0x0, 0x0⟩
def ACC_STATUS_XING : Fld := ⟨0x20018, 0, 0, 0x0, 0x0⟩
/-- ACC_HOLD_CLR (04_accumulation_and_error_control). -/
def ACC_HOLD_CLR : Fld := ⟨0x2001C, 31, 0, 0x0, 0x0⟩
def ACC_HOLD_CLR_CLR : Fld := ⟨0x2001C, 0, 0, 0x0, 0x0⟩
/-- ACC_BLK_SAT (04_accumulation_and_error_control). -/
def ACC_BLK_SAT : Fld := ⟨0x21000, 31, 0, 0x8, 0x0⟩
def ACC_BLK_SAT_COUNT : Fld := ⟨0x21000, 20, 0, 0x8, 0x0⟩
/-- ACC_BLK_ZERO (04_accumulation_and_error_control). -/
def ACC_BLK_ZERO : Fld := ⟨0x21004, 31, 0, 0x8, 0x0⟩
def ACC_BLK_ZERO_COUNT : Fld := ⟨0x21004, 20, 0, 0x8, 0x0⟩
/-- FOX_CTRL (04_accumulation_and_error_control). -/
def FOX_CTRL : Fld := ⟨0x22000, 31, 0, 0x0, 0x0⟩
def FOX_CTRL_WIN : Fld := ⟨0x22000, 31, 16, 0x0, 0x0⟩
def FOX_CTRL_ENABLE : Fld := ⟨0x22000, 0, 0, 0x0, 0x0⟩
/-- FOX_ICLIP_TH (04_accumulation_and_error_control). -/
def FOX_ICLIP_TH : Fld := ⟨0x22004, 31, 0, 0x0, 0x0⟩
def FOX_ICLIP_TH_TH : Fld := ⟨0x22004, 15, 0, 0x0, 0x0⟩
/-- FOX_WCLIP_TH (04_accumulation_and_error_control). -/
def FOX_WCLIP_TH : Fld := ⟨0x22008, 31, 0, 0x0, 0x0⟩
def FOX_WCLIP_TH_TH : Fld := ⟨0x22008, 15, 0, 0x0, 0x0⟩
/-- FOX_WIN_STATE (04_accumulation_and_error_control). -/
def FOX_WIN_STATE : Fld := ⟨0x2200C, 31, 0, 0x0, 0x0⟩
def FOX_WIN_STATE_WCLIP : Fld := ⟨0x2200C, 31, 16, 0x0, 0x0⟩
def FOX_WIN_STATE_ICLIP : Fld := ⟨0x2200C, 15, 0, 0x0, 0x0⟩
/-- CAL_CTRL (05_calibration_and_repair). -/
def CAL_CTRL : Fld := ⟨0x24000, 31, 0, 0x0, 0x0⟩
def CAL_CTRL_AGE_EN : Fld := ⟨0x24000, 5, 5, 0x0, 0x0⟩
def CAL_CTRL_TEMP_EN : Fld := ⟨0x24000, 4, 4, 0x0, 0x0⟩
def CAL_CTRL_ROWS_EN : Fld := ⟨0x24000, 3, 3, 0x0, 0x0⟩
def CAL_CTRL_AUTO_REMAP : Fld := ⟨0x24000, 2, 2, 0x0, 0x0⟩
def CAL_CTRL_AUTO_CMT : Fld := ⟨0x24000, 1, 1, 0x0, 0x0⟩
def CAL_CTRL_ENABLE : Fld := ⟨0x24000, 0, 0, 0x0, 0x0⟩
/-- CAL_TRIG (05_calibration_and_repair). -/
def CAL_TRIG : Fld := ⟨0x24004, 31, 0, 0x0, 0x0⟩
def CAL_TRIG_DT : Fld := ⟨0x24004, 8, 0, 0x0, 0x0⟩
/-- CAL_AGE (05_calibration_and_repair). -/
def CAL_AGE : Fld := ⟨0x24008, 31, 0, 0x0, 0x0⟩
def CAL_AGE_UNITS : Fld := ⟨0x24008, 23, 0, 0x0, 0x0⟩
/-- CAL_WIN (05_calibration_and_repair). -/
def CAL_WIN : Fld := ⟨0x2400C, 31, 0, 0x0, 0x0⟩
def CAL_WIN_TIMEOUT : Fld := ⟨0x2400C, 31, 16, 0x0, 0x0⟩
def CAL_WIN_NSUB : Fld := ⟨0x2400C, 13, 8, 0x0, 0x0⟩
def CAL_WIN_SUB_LOG2 : Fld := ⟨0x2400C, 3, 0, 0x0, 0x0⟩
/-- CAL_TH (05_calibration_and_repair). -/
def CAL_TH : Fld := ⟨0x24010, 31, 0, 0x0, 0x0⟩
def CAL_TH_MIN_SPREAD : Fld := ⟨0x24010, 15, 8, 0x0, 0x0⟩
def CAL_TH_RESID : Fld := ⟨0x24010, 7, 0, 0x0, 0x0⟩
/-- CAL_HOLD (05_calibration_and_repair). -/
def CAL_HOLD : Fld := ⟨0x24014, 31, 0, 0x0, 0x0⟩
def CAL_HOLD_BANK : Fld := ⟨0x24014, 5, 0, 0x0, 0x0⟩
/-- CAL_CMD (05_calibration_and_repair). -/
def CAL_CMD : Fld := ⟨0x24018, 31, 0, 0x0, 0x0⟩
def CAL_CMD_ABORT : Fld := ⟨0x24018, 2, 2, 0x0, 0x0⟩
def CAL_CMD_COMMIT : Fld := ⟨0x24018, 1, 1, 0x0, 0x0⟩
def CAL_CMD_START : Fld := ⟨0x24018, 0, 0, 0x0, 0x0⟩
/-- CAL_STATUS (05_calibration_and_repair). -/
def CAL_STATUS : Fld := ⟨0x2401C, 31, 0, 0x0, 0x0⟩
def CAL_STATUS_ARRAY : Fld := ⟨0x2401C, 23, 20, 0x0, 0x0⟩
def CAL_STATUS_HOLD_WAIT : Fld := ⟨0x2401C, 19, 19, 0x0, 0x0⟩
def CAL_STATUS_PEND : Fld := ⟨0x2401C, 18, 18, 0x0, 0x0⟩
def CAL_STATUS_STAGED : Fld := ⟨0x2401C, 17, 17, 0x0, 0x0⟩
def CAL_STATUS_BUSY : Fld := ⟨0x2401C, 16, 16, 0x0, 0x0⟩
def CAL_STATUS_NO_SPARE : Fld := ⟨0x2401C, 7, 7, 0x0, 0x0⟩
def CAL_STATUS_REMAP_DUP : Fld := ⟨0x2401C, 6, 6, 0x0, 0x0⟩
def CAL_STATUS_WR_IGN : Fld := ⟨0x2401C, 5, 5, 0x0, 0x0⟩
def CAL_STATUS_TRIM_LIM : Fld := ⟨0x2401C, 4, 4, 0x0, 0x0⟩
def CAL_STATUS_NO_SPREAD : Fld := ⟨0x2401C, 3, 3, 0x0, 0x0⟩
def CAL_STATUS_FAIL_ROW : Fld := ⟨0x2401C, 2, 2, 0x0, 0x0⟩
def CAL_STATUS_FAIL_COL : Fld := ⟨0x2401C, 1, 1, 0x0, 0x0⟩
/-- CAL_LAST_TEMP (05_calibration_and_repair). -/
def CAL_LAST_TEMP : Fld := ⟨0x24020, 31, 0, 0x0, 0x0⟩
def CAL_LAST_TEMP_TEMP : Fld := ⟨0x24020, 15, 0, 0x0, 0x0⟩
/-- CAL_AGE_CNT (05_calibration_and_repair). -/
def CAL_AGE_CNT : Fld := ⟨0x24024, 31, 0, 0x0, 0x0⟩
def CAL_AGE_CNT_COUNT : Fld := ⟨0x24024, 23, 0, 0x0, 0x0⟩
/-- CAL_ARR_SEL (05_calibration_and_repair). -/
def CAL_ARR_SEL : Fld := ⟨0x24030, 31, 0, 0x0, 0x0⟩
def CAL_ARR_SEL_ARRAY : Fld := ⟨0x24030, 3, 0, 0x0, 0x0⟩
/-- CAL_REF_STG (05_calibration_and_repair). -/
def CAL_REF_STG : Fld := ⟨0x24040, 31, 0, 0x0, 0x0⟩
def CAL_REF_STG_REF : Fld := ⟨0x24040, 7, 0, 0x0, 0x0⟩
/-- CAL_REF_ACT (05_calibration_and_repair). -/
def CAL_REF_ACT : Fld := ⟨0x24044, 31, 0, 0x0, 0x0⟩
def CAL_REF_ACT_REF : Fld := ⟨0x24044, 7, 0, 0x0, 0x0⟩
/-- CAL_FUSE (05_calibration_and_repair). -/
def CAL_FUSE : Fld := ⟨0x24048, 31, 0, 0x0, 0x0⟩
def CAL_FUSE_COLS : Fld := ⟨0x24048, 7, 4, 0x0, 0x0⟩
def CAL_FUSE_ROWS : Fld := ⟨0x24048, 3, 0, 0x0, 0x0⟩
/-- CAL_REMAP (05_calibration_and_repair). -/
def CAL_REMAP : Fld := ⟨0x24080, 31, 0, 0x4, 0x0⟩
def CAL_REMAP_VALID : Fld := ⟨0x24080, 31, 31, 0x4, 0x0⟩
def CAL_REMAP_PEND : Fld := ⟨0x24080, 30, 30, 0x4, 0x0⟩
def CAL_REMAP_RFSH : Fld := ⟨0x24080, 29, 29, 0x4, 0x0⟩
def CAL_REMAP_COL : Fld := ⟨0x24080, 8, 0, 0x4, 0x0⟩
/-- CAL_COL_STG (05_calibration_and_repair). -/
def CAL_COL_STG : Fld := ⟨0x25000, 31, 0, 0x4, 0x0⟩
def CAL_COL_STG_GAIN : Fld := ⟨0x25000, 13, 8, 0x4, 0x0⟩
def CAL_COL_STG_OFFSET : Fld := ⟨0x25000, 5, 0, 0x4, 0x0⟩
/-- CAL_COL_ACT (05_calibration_and_repair). -/
def CAL_COL_ACT : Fld := ⟨0x26000, 31, 0, 0x4, 0x0⟩
def CAL_COL_ACT_GAIN : Fld := ⟨0x26000, 13, 8, 0x4, 0x0⟩
def CAL_COL_ACT_OFFSET : Fld := ⟨0x26000, 5, 0, 0x4, 0x0⟩
/-- CAL_ROW_STG (05_calibration_and_repair). -/
def CAL_ROW_STG : Fld := ⟨0x25800, 31, 0, 0x4, 0x0⟩
def CAL_ROW_STG_GAIN : Fld := ⟨0x25800, 13, 8, 0x4, 0x0⟩
def CAL_ROW_STG_OFFSET : Fld := ⟨0x25800, 5, 0, 0x4, 0x0⟩
/-- CAL_ROW_ACT (05_calibration_and_repair). -/
def CAL_ROW_ACT : Fld := ⟨0x26800, 31, 0, 0x4, 0x0⟩
def CAL_ROW_ACT_GAIN : Fld := ⟨0x26800, 13, 8, 0x4, 0x0⟩
def CAL_ROW_ACT_OFFSET : Fld := ⟨0x26800, 5, 0, 0x4, 0x0⟩
/-- CAL_SPARE_STG (05_calibration_and_repair). -/
def CAL_SPARE_STG : Fld := ⟨0x240C0, 31, 0, 0x4, 0x0⟩
def CAL_SPARE_STG_GAIN : Fld := ⟨0x240C0, 13, 8, 0x4, 0x0⟩
def CAL_SPARE_STG_OFFSET : Fld := ⟨0x240C0, 5, 0, 0x4, 0x0⟩
/-- CAL_SPARE_ACT (05_calibration_and_repair). -/
def CAL_SPARE_ACT : Fld := ⟨0x240E0, 31, 0, 0x4, 0x0⟩
def CAL_SPARE_ACT_GAIN : Fld := ⟨0x240E0, 13, 8, 0x4, 0x0⟩
def CAL_SPARE_ACT_OFFSET : Fld := ⟨0x240E0, 5, 0, 0x4, 0x0⟩
/-- CAL_CS_STG (05_calibration_and_repair). -/
def CAL_CS_STG : Fld := ⟨0x24050, 31, 0, 0x0, 0x0⟩
def CAL_CS_STG_GAIN : Fld := ⟨0x24050, 13, 8, 0x0, 0x0⟩
def CAL_CS_STG_OFFSET : Fld := ⟨0x24050, 5, 0, 0x0, 0x0⟩
/-- CAL_CS_ACT (05_calibration_and_repair). -/
def CAL_CS_ACT : Fld := ⟨0x24054, 31, 0, 0x0, 0x0⟩
def CAL_CS_ACT_GAIN : Fld := ⟨0x24054, 13, 8, 0x0, 0x0⟩
def CAL_CS_ACT_OFFSET : Fld := ⟨0x24054, 5, 0, 0x0, 0x0⟩
/-- CAL_COL_FIT (05_calibration_and_repair). -/
def CAL_COL_FIT : Fld := ⟨0x27000, 31, 0, 0x4, 0x0⟩
def CAL_COL_FIT_VALID : Fld := ⟨0x27000, 31, 31, 0x4, 0x0⟩
def CAL_COL_FIT_FAIL : Fld := ⟨0x27000, 30, 30, 0x4, 0x0⟩
def CAL_COL_FIT_REASON : Fld := ⟨0x27000, 29, 28, 0x4, 0x0⟩
def CAL_COL_FIT_GAIN_DEV : Fld := ⟨0x27000, 27, 16, 0x4, 0x0⟩
def CAL_COL_FIT_OFFSET : Fld := ⟨0x27000, 15, 8, 0x4, 0x0⟩
def CAL_COL_FIT_RESID : Fld := ⟨0x27000, 7, 0, 0x4, 0x0⟩
/-- CAL_ROW_FIT (05_calibration_and_repair). -/
def CAL_ROW_FIT : Fld := ⟨0x27800, 31, 0, 0x4, 0x0⟩
def CAL_ROW_FIT_VALID : Fld := ⟨0x27800, 31, 31, 0x4, 0x0⟩
def CAL_ROW_FIT_FAIL : Fld := ⟨0x27800, 30, 30, 0x4, 0x0⟩
def CAL_ROW_FIT_REASON : Fld := ⟨0x27800, 29, 28, 0x4, 0x0⟩
def CAL_ROW_FIT_GAIN_DEV : Fld := ⟨0x27800, 27, 16, 0x4, 0x0⟩
def CAL_ROW_FIT_OFFSET : Fld := ⟨0x27800, 15, 8, 0x4, 0x0⟩
def CAL_ROW_FIT_RESID : Fld := ⟨0x27800, 7, 0, 0x4, 0x0⟩
/-- CAL_CS_FIT (05_calibration_and_repair). -/
def CAL_CS_FIT : Fld := ⟨0x24058, 31, 0, 0x0, 0x0⟩
def CAL_CS_FIT_VALID : Fld := ⟨0x24058, 31, 31, 0x0, 0x0⟩
def CAL_CS_FIT_FAIL : Fld := ⟨0x24058, 30, 30, 0x0, 0x0⟩
def CAL_CS_FIT_REASON : Fld := ⟨0x24058, 29, 28, 0x0, 0x0⟩
def CAL_CS_FIT_GAIN_DEV : Fld := ⟨0x24058, 27, 16, 0x0, 0x0⟩
def CAL_CS_FIT_OFFSET : Fld := ⟨0x24058, 15, 8, 0x0, 0x0⟩
def CAL_CS_FIT_RESID : Fld := ⟨0x24058, 7, 0, 0x0, 0x0⟩
/-- TILE_ID (06_tile). -/
def TILE_ID : Fld := ⟨0x0, 31, 0, 0x0, 0x0⟩
def TILE_ID_LOGICAL : Fld := ⟨0x0, 13, 8, 0x0, 0x0⟩
def TILE_ID_DIE : Fld := ⟨0x0, 7, 6, 0x0, 0x0⟩
def TILE_ID_PHYS : Fld := ⟨0x0, 4, 0, 0x0, 0x0⟩
/-- TILE_CTRL (06_tile). -/
def TILE_CTRL : Fld := ⟨0x4, 31, 0, 0x0, 0x0⟩
def TILE_CTRL_CLK_HALF : Fld := ⟨0x4, 2, 2, 0x0, 0x0⟩
def TILE_CTRL_VOFS : Fld := ⟨0x4, 1, 0, 0x0, 0x0⟩
/-- TILE_STATUS (06_tile). -/
def TILE_STATUS : Fld := ⟨0x8, 31, 0, 0x0, 0x0⟩
def TILE_STATUS_WGB_SAT : Fld := ⟨0x8, 1, 1, 0x0, 0x0⟩
def TILE_STATUS_LAUNCH_LATE : Fld := ⟨0x8, 0, 0, 0x0, 0x0⟩
/-- TILE_THR (06_tile). -/
def TILE_THR : Fld := ⟨0xC, 31, 0, 0x0, 0x0⟩
def TILE_THR_SRC : Fld := ⟨0xC, 2, 1, 0x0, 0x0⟩
def TILE_THR_ACTIVE : Fld := ⟨0xC, 0, 0, 0x0, 0x0⟩
/-- TILE_LAUNCH (06_tile). -/
def TILE_LAUNCH : Fld := ⟨0x10, 63, 0, 0x0, 0x0⟩
def TILE_LAUNCH_COUNT : Fld := ⟨0x10, 47, 0, 0x0, 0x0⟩
/-- SETT_OWN (06_tile). -/
def SETT_OWN : Fld := ⟨0x28000, 31, 0, 0x4, 0x0⟩
def SETT_OWN_PEND1 : Fld := ⟨0x28000, 21, 21, 0x4, 0x0⟩
def SETT_OWN_PEND0 : Fld := ⟨0x28000, 20, 20, 0x4, 0x0⟩
def SETT_OWN_OWNER1 : Fld := ⟨0x28000, 11, 8, 0x4, 0x0⟩
def SETT_OWN_OWNER0 : Fld := ⟨0x28000, 3, 0, 0x4, 0x0⟩
/-- SETT_CTRL (06_tile). -/
def SETT_CTRL : Fld := ⟨0x280C0, 31, 0, 0x0, 0x0⟩
def SETT_CTRL_STALL_LIM : Fld := ⟨0x280C0, 15, 0, 0x0, 0x0⟩
/-- SETT_STATUS (06_tile). -/
def SETT_STATUS : Fld := ⟨0x280C4, 31, 0, 0x0, 0x0⟩
def SETT_STATUS_OWN_TIMEOUT : Fld := ⟨0x280C4, 3, 3, 0x0, 0x0⟩
def SETT_STATUS_ALIAS_ERR : Fld := ⟨0x280C4, 2, 2, 0x0, 0x0⟩
def SETT_STATUS_HOST_DENY : Fld := ⟨0x280C4, 1, 1, 0x0, 0x0⟩
def SETT_STATUS_BAD_OWNER : Fld := ⟨0x280C4, 0, 0, 0x0, 0x0⟩
/-- DME_CTRL (06_tile). -/
def DME_CTRL : Fld := ⟨0x30000, 31, 0, 0x0, 0x0⟩
def DME_CTRL_IDLE_TC : Fld := ⟨0x30000, 7, 0, 0x0, 0x0⟩
/-- DME_STATE (06_tile). -/
def DME_STATE : Fld := ⟨0x30004, 31, 0, 0x0, 0x0⟩
def DME_STATE_MODE : Fld := ⟨0x30004, 9, 8, 0x0, 0x0⟩
def DME_STATE_BUSY : Fld := ⟨0x30004, 7, 7, 0x0, 0x0⟩
def DME_STATE_GROUPS : Fld := ⟨0x30004, 5, 0, 0x0, 0x0⟩
/-- MGT_TILE_MAP (06_tile). -/
def MGT_TILE_MAP : Fld := ⟨0x30400, 31, 0, 0x4, 0x0⟩
def MGT_TILE_MAP_DIE : Fld := ⟨0x30400, 6, 5, 0x4, 0x0⟩
def MGT_TILE_MAP_PHYS : Fld := ⟨0x30400, 4, 0, 0x4, 0x0⟩
/-- MGT_PTILE_STATE (06_tile). -/
def MGT_PTILE_STATE : Fld := ⟨0x30500, 31, 0, 0x4, 0x0⟩
def MGT_PTILE_STATE_LOGICAL : Fld := ⟨0x30500, 9, 4, 0x4, 0x0⟩
def MGT_PTILE_STATE_STATE : Fld := ⟨0x30500, 1, 0, 0x4, 0x0⟩
/-- VU_CTRL (07_vector_unit). -/
def VU_CTRL : Fld := ⟨0x34000, 31, 0, 0x0, 0x0⟩
def VU_CTRL_WDOG : Fld := ⟨0x34000, 31, 16, 0x0, 0x0⟩
/-- VU_STATE (07_vector_unit). -/
def VU_STATE : Fld := ⟨0x34004, 31, 0, 0x0, 0x0⟩
def VU_STATE_BUSY : Fld := ⟨0x34004, 31, 31, 0x0, 0x0⟩
def VU_STATE_LOOP_DEPTH : Fld := ⟨0x34004, 30, 28, 0x0, 0x0⟩
def VU_STATE_PC : Fld := ⟨0x34004, 12, 0, 0x0, 0x0⟩
/-- VU_STATUS (07_vector_unit). -/
def VU_STATUS : Fld := ⟨0x34008, 31, 0, 0x0, 0x0⟩
def VU_STATUS_FAULT : Fld := ⟨0x34008, 0, 0, 0x0, 0x0⟩
/-- VU_FAULT (07_vector_unit). -/
def VU_FAULT : Fld := ⟨0x3400C, 31, 0, 0x0, 0x0⟩
def VU_FAULT_CAUSE : Fld := ⟨0x3400C, 31, 28, 0x0, 0x0⟩
def VU_FAULT_PC : Fld := ⟨0x3400C, 12, 0, 0x0, 0x0⟩
/-- VU_DESC (07_vector_unit). -/
def VU_DESC : Fld := ⟨0x34010, 31, 0, 0x0, 0x0⟩
def VU_DESC_GRAD : Fld := ⟨0x34010, 31, 31, 0x0, 0x0⟩
def VU_DESC_DRIVE : Fld := ⟨0x34010, 30, 30, 0x0, 0x0⟩
def VU_DESC_UBIAS : Fld := ⟨0x34010, 6, 0, 0x0, 0x0⟩
/-- VU_RNG_SEED (07_vector_unit). -/
def VU_RNG_SEED : Fld := ⟨0x34018, 63, 0, 0x0, 0x0⟩
def VU_RNG_SEED_SEED : Fld := ⟨0x34018, 63, 0, 0x0, 0x0⟩
/-- VU_RNG_CTR (07_vector_unit). -/
def VU_RNG_CTR : Fld := ⟨0x34020, 63, 0, 0x8, 0x0⟩
def VU_RNG_CTR_COUNT : Fld := ⟨0x34020, 47, 0, 0x8, 0x0⟩
/-- TILE_SEQ_BASE (09_command_streams). -/
def TILE_SEQ_BASE : Fld := ⟨0x20, 63, 0, 0x0, 0x0⟩
def TILE_SEQ_BASE_ADDR : Fld := ⟨0x20, 47, 6, 0x0, 0x0⟩
/-- TILE_SEQ_LEN (09_command_streams). -/
def TILE_SEQ_LEN : Fld := ⟨0x28, 31, 0, 0x0, 0x0⟩
def TILE_SEQ_LEN_LEN : Fld := ⟨0x28, 23, 0, 0x0, 0x0⟩
/-- TILE_SEQ_PTR (09_command_streams). -/
def TILE_SEQ_PTR : Fld := ⟨0x2C, 31, 0, 0x0, 0x0⟩
def TILE_SEQ_PTR_PTR : Fld := ⟨0x2C, 23, 0, 0x0, 0x0⟩
/-- TILE_SEQ_TAIL (09_command_streams). -/
def TILE_SEQ_TAIL : Fld := ⟨0x30, 31, 0, 0x0, 0x0⟩
def TILE_SEQ_TAIL_TAIL : Fld := ⟨0x30, 23, 0, 0x0, 0x0⟩
/-- TILE_SEQ_MARKPTR (09_command_streams). -/
def TILE_SEQ_MARKPTR : Fld := ⟨0x34, 31, 0, 0x0, 0x0⟩
def TILE_SEQ_MARKPTR_MARK : Fld := ⟨0x34, 23, 0, 0x0, 0x0⟩
/-- TILE_SEQ_CTRL (09_command_streams). -/
def TILE_SEQ_CTRL : Fld := ⟨0x38, 31, 0, 0x0, 0x0⟩
def TILE_SEQ_CTRL_CMD_LIM : Fld := ⟨0x38, 31, 16, 0x0, 0x0⟩
def TILE_SEQ_CTRL_SKIP : Fld := ⟨0x38, 2, 2, 0x0, 0x0⟩
def TILE_SEQ_CTRL_RESUME : Fld := ⟨0x38, 1, 1, 0x0, 0x0⟩
def TILE_SEQ_CTRL_RUN : Fld := ⟨0x38, 0, 0, 0x0, 0x0⟩
/-- TILE_SEQ_STATUS (09_command_streams). -/
def TILE_SEQ_STATUS : Fld := ⟨0x3C, 31, 0, 0x0, 0x0⟩
def TILE_SEQ_STATUS_HALT : Fld := ⟨0x3C, 9, 9, 0x0, 0x0⟩
def TILE_SEQ_STATUS_LONG : Fld := ⟨0x3C, 8, 8, 0x0, 0x0⟩
def TILE_SEQ_STATUS_STATE : Fld := ⟨0x3C, 1, 0, 0x0, 0x0⟩
/-- TILE_SEQ_FAIL (09_command_streams). -/
def TILE_SEQ_FAIL : Fld := ⟨0x40, 31, 0, 0x0, 0x0⟩
def TILE_SEQ_FAIL_STATUS : Fld := ⟨0x40, 31, 24, 0x0, 0x0⟩
def TILE_SEQ_FAIL_INDEX : Fld := ⟨0x40, 23, 0, 0x0, 0x0⟩
/-- TILE_SEQ_DESC (09_command_streams). -/
def TILE_SEQ_DESC : Fld := ⟨0x48, 63, 0, 0x0, 0x0⟩
def TILE_SEQ_DESC_CNT : Fld := ⟨0x48, 63, 48, 0x0, 0x0⟩
def TILE_SEQ_DESC_ADDR : Fld := ⟨0x48, 47, 5, 0x0, 0x0⟩
/-- TILE_SEQ_VER (09_command_streams). -/
def TILE_SEQ_VER : Fld := ⟨0x50, 63, 0, 0x0, 0x0⟩
def TILE_SEQ_VER_VERSION : Fld := ⟨0x50, 63, 0, 0x0, 0x0⟩
/-- TILE_SIG (09_command_streams). -/
def TILE_SIG : Fld := ⟨0x60, 31, 0, 0x4, 0x0⟩
def TILE_SIG_COUNT : Fld := ⟨0x60, 31, 0, 0x4, 0x0⟩
/-- STR_CTRL (10_memory_system). -/
def STR_CTRL : Fld := ⟨0x38000, 31, 0, 0x0, 0x0⟩
def STR_CTRL_PF_SLOTS : Fld := ⟨0x38000, 21, 16, 0x0, 0x0⟩
def STR_CTRL_PF_DEPTH : Fld := ⟨0x38000, 12, 8, 0x0, 0x0⟩
def STR_CTRL_PF_EN : Fld := ⟨0x38000, 0, 0, 0x0, 0x0⟩
/-- STR_PF_AGE (10_memory_system). -/
def STR_PF_AGE : Fld := ⟨0x38004, 31, 0, 0x0, 0x0⟩
def STR_PF_AGE_MAX_AGE : Fld := ⟨0x38004, 6, 0, 0x0, 0x0⟩
/-- STR_STATE (10_memory_system). -/
def STR_STATE : Fld := ⟨0x38008, 31, 0, 0x0, 0x0⟩
def STR_STATE_CAP_MAX : Fld := ⟨0x38008, 21, 16, 0x0, 0x0⟩
def STR_STATE_PF_USED : Fld := ⟨0x38008, 13, 8, 0x0, 0x0⟩
def STR_STATE_SLOTS : Fld := ⟨0x38008, 5, 0, 0x0, 0x0⟩
/-- STR_STATUS (10_memory_system). -/
def STR_STATUS : Fld := ⟨0x3800C, 31, 0, 0x0, 0x0⟩
def STR_STATUS_POISON : Fld := ⟨0x3800C, 0, 0, 0x0, 0x0⟩
/-- STR_LAT_MAX (10_memory_system). -/
def STR_LAT_MAX : Fld := ⟨0x38010, 31, 0, 0x0, 0x0⟩
def STR_LAT_MAX_MC_CLKS : Fld := ⟨0x38010, 15, 0, 0x0, 0x0⟩
/-- MC_CTRL (10_memory_system). -/
def MC_CTRL : Fld := ⟨0x0, 31, 0, 0x0, 0x0⟩
def MC_CTRL_WR_LO : Fld := ⟨0x0, 23, 16, 0x0, 0x0⟩
def MC_CTRL_WR_HI : Fld := ⟨0x0, 15, 8, 0x0, 0x0⟩
def MC_CTRL_MERGE_EN : Fld := ⟨0x0, 0, 0, 0x0, 0x0⟩
/-- MC_AGE (10_memory_system). -/
def MC_AGE : Fld := ⟨0x4, 31, 0, 0x0, 0x0⟩
def MC_AGE_LIM : Fld := ⟨0x4, 15, 0, 0x0, 0x0⟩
/-- MC_STATE (10_memory_system). -/
def MC_STATE : Fld := ⟨0x8, 31, 0, 0x0, 0x0⟩
def MC_STATE_RFSH_2X : Fld := ⟨0x8, 31, 31, 0x0, 0x0⟩
def MC_STATE_WR_Q : Fld := ⟨0x8, 24, 16, 0x0, 0x0⟩
def MC_STATE_RD_Q : Fld := ⟨0x8, 10, 0, 0x0, 0x0⟩
/-- MC_TEMP (10_memory_system). -/
def MC_TEMP : Fld := ⟨0xC, 31, 0, 0x0, 0x0⟩
def MC_TEMP_TEMP : Fld := ⟨0xC, 7, 0, 0x0, 0x0⟩
/-- MC_STATUS (10_memory_system). -/
def MC_STATUS : Fld := ⟨0x10, 31, 0, 0x0, 0x0⟩
def MC_STATUS_ECC_UNCORR : Fld := ⟨0x10, 0, 0, 0x0, 0x0⟩
/-- MC_EPOCH_SEL (10_memory_system). -/
def MC_EPOCH_SEL : Fld := ⟨0x14, 31, 0, 0x0, 0x0⟩
def MC_EPOCH_SEL_Q : Fld := ⟨0x14, 19, 0, 0x0, 0x0⟩
/-- MC_EPOCH (10_memory_system). -/
def MC_EPOCH : Fld := ⟨0x18, 31, 0, 0x0, 0x0⟩
def MC_EPOCH_EPOCH : Fld := ⟨0x18, 15, 0, 0x0, 0x0⟩
/-- MRT_CTRL (11_marten_update_unit). -/
def MRT_CTRL : Fld := ⟨0x8000, 31, 0, 0x0, 0x0⟩
def MRT_CTRL_NAN_HOLD : Fld := ⟨0x8000, 1, 1, 0x0, 0x0⟩
def MRT_CTRL_ENABLE : Fld := ⟨0x8000, 0, 0, 0x0, 0x0⟩
/-- MRT_STATE (11_marten_update_unit). -/
def MRT_STATE : Fld := ⟨0x8004, 31, 0, 0x0, 0x0⟩
def MRT_STATE_BUSY : Fld := ⟨0x8004, 31, 31, 0x0, 0x0⟩
def MRT_STATE_ENTRY : Fld := ⟨0x8004, 29, 16, 0x0, 0x0⟩
def MRT_STATE_SLICE : Fld := ⟨0x8004, 15, 10, 0x0, 0x0⟩
def MRT_STATE_BLOCK : Fld := ⟨0x8004, 9, 6, 0x0, 0x0⟩
/-- MRT_STATUS (11_marten_update_unit). -/
def MRT_STATUS : Fld := ⟨0x8008, 31, 0, 0x0, 0x0⟩
def MRT_STATUS_NO_ENTRY : Fld := ⟨0x8008, 3, 3, 0x0, 0x0⟩
def MRT_STATUS_REARM : Fld := ⟨0x8008, 2, 2, 0x0, 0x0⟩
def MRT_STATUS_NAN : Fld := ⟨0x8008, 1, 1, 0x0, 0x0⟩
def MRT_STATUS_FAIL : Fld := ⟨0x8008, 0, 0, 0x0, 0x0⟩
/-- MRT_LAST (11_marten_update_unit). -/
def MRT_LAST : Fld := ⟨0x800C, 31, 0, 0x0, 0x0⟩
def MRT_LAST_RESULT : Fld := ⟨0x800C, 31, 28, 0x0, 0x0⟩
def MRT_LAST_ENTRY : Fld := ⟨0x800C, 27, 14, 0x0, 0x0⟩
def MRT_LAST_SLICE : Fld := ⟨0x800C, 13, 8, 0x0, 0x0⟩
def MRT_LAST_BLOCK : Fld := ⟨0x800C, 7, 4, 0x0, 0x0⟩
def MRT_LAST_LIST : Fld := ⟨0x800C, 3, 3, 0x0, 0x0⟩
/-- MRT_BKT_BASE (11_marten_update_unit). -/
def MRT_BKT_BASE : Fld := ⟨0x8010, 63, 0, 0x0, 0x0⟩
def MRT_BKT_BASE_ADDR : Fld := ⟨0x8010, 35, 6, 0x0, 0x0⟩
/-- MRT_BKT_CNT (11_marten_update_unit). -/
def MRT_BKT_CNT : Fld := ⟨0x8018, 31, 0, 0x0, 0x0⟩
def MRT_BKT_CNT_CNT : Fld := ⟨0x8018, 14, 0, 0x0, 0x0⟩
/-- MRT_SEED (11_marten_update_unit). -/
def MRT_SEED : Fld := ⟨0x8020, 63, 0, 0x0, 0x0⟩
def MRT_SEED_SEED : Fld := ⟨0x8020, 63, 0, 0x0, 0x0⟩
/-- MRT_RNG_CTR (11_marten_update_unit). -/
def MRT_RNG_CTR : Fld := ⟨0x8028, 63, 0, 0x8, 0x0⟩
def MRT_RNG_CTR_COUNT : Fld := ⟨0x8028, 47, 0, 0x8, 0x0⟩
/-- MRT_GRP_SEL (11_marten_update_unit). -/
def MRT_GRP_SEL : Fld := ⟨0x8040, 31, 0, 0x0, 0x0⟩
def MRT_GRP_SEL_GROUP : Fld := ⟨0x8040, 11, 0, 0x0, 0x0⟩
/-- MRT_GRP_DATA (11_marten_update_unit). -/
def MRT_GRP_DATA : Fld := ⟨0x8080, 31, 0, 0x4, 0x0⟩
def MRT_GRP_DATA_VALUE : Fld := ⟨0x8080, 31, 0, 0x4, 0x0⟩
/-- MRT_PROG (11_marten_update_unit). -/
def MRT_PROG : Fld := ⟨0x9000, 31, 0, 0x80, 0x4⟩
def MRT_PROG_WORD : Fld := ⟨0x9000, 31, 0, 0x80, 0x4⟩
/-- MC_ACC_STATE (11_marten_update_unit). -/
def MC_ACC_STATE : Fld := ⟨0x800, 31, 0, 0x0, 0x0⟩
def MC_ACC_STATE_BUSY : Fld := ⟨0x800, 31, 31, 0x0, 0x0⟩
def MC_ACC_STATE_HOLD_Q : Fld := ⟨0x800, 4, 0, 0x0, 0x0⟩
/-- MC_ACC_STATUS (11_marten_update_unit). -/
def MC_ACC_STATUS : Fld := ⟨0x804, 31, 0, 0x0, 0x0⟩
def MC_ACC_STATUS_RES_FAIL : Fld := ⟨0x804, 1, 1, 0x0, 0x0⟩
def MC_ACC_STATUS_RANGE : Fld := ⟨0x804, 0, 0, 0x0, 0x0⟩
/-- PL_CTRL (12_peer_links). -/
def PL_CTRL : Fld := ⟨0x0, 31, 0, 0x0, 0x0⟩
def PL_CTRL_RETRY : Fld := ⟨0x0, 31, 16, 0x0, 0x0⟩
def PL_CTRL_RETRAIN_MAX : Fld := ⟨0x0, 14, 12, 0x0, 0x0⟩
def PL_CTRL_REPLAY_MAX : Fld := ⟨0x0, 11, 8, 0x0, 0x0⟩
def PL_CTRL_RETRAIN : Fld := ⟨0x0, 1, 1, 0x0, 0x0⟩
def PL_CTRL_ENABLE : Fld := ⟨0x0, 0, 0, 0x0, 0x0⟩
/-- PL_ACK_TO (12_peer_links). -/
def PL_ACK_TO : Fld := ⟨0x4, 31, 0, 0x0, 0x0⟩
def PL_ACK_TO_TO : Fld := ⟨0x4, 15, 0, 0x0, 0x0⟩
/-- PL_STATE (12_peer_links). -/
def PL_STATE : Fld := ⟨0x8, 31, 0, 0x0, 0x0⟩
def PL_STATE_PEER_PORT : Fld := ⟨0x8, 21, 16, 0x0, 0x0⟩
def PL_STATE_WIDTH : Fld := ⟨0x8, 10, 8, 0x0, 0x0⟩
def PL_STATE_QREASON : Fld := ⟨0x8, 7, 6, 0x0, 0x0⟩
def PL_STATE_ADMIT : Fld := ⟨0x8, 5, 4, 0x0, 0x0⟩
def PL_STATE_LINK : Fld := ⟨0x8, 2, 0, 0x0, 0x0⟩
/-- PL_PEER (12_peer_links). -/
def PL_PEER : Fld := ⟨0xC, 31, 0, 0x0, 0x0⟩
def PL_PEER_VALID : Fld := ⟨0xC, 31, 31, 0x0, 0x0⟩
def PL_PEER_MODULE : Fld := ⟨0xC, 17, 0, 0x0, 0x0⟩
/-- PL_LANE (12_peer_links). -/
def PL_LANE : Fld := ⟨0x10, 31, 0, 0x0, 0x0⟩
def PL_LANE_USED0 : Fld := ⟨0x10, 4, 4, 0x0, 0x0⟩
def PL_LANE_OK0 : Fld := ⟨0x10, 3, 3, 0x0, 0x0⟩
def PL_LANE_INV0 : Fld := ⟨0x10, 2, 2, 0x0, 0x0⟩
def PL_LANE_LOGICAL0 : Fld := ⟨0x10, 1, 0, 0x0, 0x0⟩
def PL_LANE_USED1 : Fld := ⟨0x10, 12, 12, 0x0, 0x0⟩
def PL_LANE_OK1 : Fld := ⟨0x10, 11, 11, 0x0, 0x0⟩
def PL_LANE_INV1 : Fld := ⟨0x10, 10, 10, 0x0, 0x0⟩
def PL_LANE_LOGICAL1 : Fld := ⟨0x10, 9, 8, 0x0, 0x0⟩
def PL_LANE_USED2 : Fld := ⟨0x10, 20, 20, 0x0, 0x0⟩
def PL_LANE_OK2 : Fld := ⟨0x10, 19, 19, 0x0, 0x0⟩
def PL_LANE_INV2 : Fld := ⟨0x10, 18, 18, 0x0, 0x0⟩
def PL_LANE_LOGICAL2 : Fld := ⟨0x10, 17, 16, 0x0, 0x0⟩
def PL_LANE_USED3 : Fld := ⟨0x10, 28, 28, 0x0, 0x0⟩
def PL_LANE_OK3 : Fld := ⟨0x10, 27, 27, 0x0, 0x0⟩
def PL_LANE_INV3 : Fld := ⟨0x10, 26, 26, 0x0, 0x0⟩
def PL_LANE_LOGICAL3 : Fld := ⟨0x10, 25, 24, 0x0, 0x0⟩
/-- PL_STATUS (12_peer_links). -/
def PL_STATUS : Fld := ⟨0x14, 31, 0, 0x0, 0x0⟩
def PL_STATUS_HOP_DROP : Fld := ⟨0x14, 9, 9, 0x0, 0x0⟩
def PL_STATUS_TREE_DROP : Fld := ⟨0x14, 8, 8, 0x0, 0x0⟩
def PL_STATUS_TAG_REJ : Fld := ⟨0x14, 7, 7, 0x0, 0x0⟩
def PL_STATUS_PCRC : Fld := ⟨0x14, 6, 6, 0x0, 0x0⟩
def PL_STATUS_REFUSED : Fld := ⟨0x14, 5, 5, 0x0, 0x0⟩
def PL_STATUS_QUAR : Fld := ⟨0x14, 4, 4, 0x0, 0x0⟩
def PL_STATUS_DOWN : Fld := ⟨0x14, 3, 3, 0x0, 0x0⟩
def PL_STATUS_RETRAIN : Fld := ⟨0x14, 2, 2, 0x0, 0x0⟩
def PL_STATUS_NARROW : Fld := ⟨0x14, 1, 1, 0x0, 0x0⟩
/-- PL_CRD_LO (12_peer_links). -/
def PL_CRD_LO : Fld := ⟨0x18, 31, 0, 0x0, 0x0⟩
def PL_CRD_LO_VC1 : Fld := ⟨0x18, 25, 16, 0x0, 0x0⟩
def PL_CRD_LO_VC0 : Fld := ⟨0x18, 9, 0, 0x0, 0x0⟩
/-- PL_CRD_HI (12_peer_links). -/
def PL_CRD_HI : Fld := ⟨0x1C, 31, 0, 0x0, 0x0⟩
def PL_CRD_HI_VC3 : Fld := ⟨0x1C, 25, 16, 0x0, 0x0⟩
def PL_CRD_HI_VC2 : Fld := ⟨0x1C, 9, 0, 0x0, 0x0⟩
/-- PL_RT_SEL (12_peer_links). -/
def PL_RT_SEL : Fld := ⟨0x20, 31, 0, 0x0, 0x0⟩
def PL_RT_SEL_TABLE : Fld := ⟨0x20, 31, 30, 0x0, 0x0⟩
def PL_RT_SEL_INDEX : Fld := ⟨0x20, 9, 0, 0x0, 0x0⟩
/-- PL_RT_DATA (12_peer_links). -/
def PL_RT_DATA : Fld := ⟨0x24, 31, 0, 0x0, 0x0⟩
def PL_RT_DATA_VALUE : Fld := ⟨0x24, 31, 0, 0x0, 0x0⟩
/-- PL_RT_DATA_HI (12_peer_links). -/
def PL_RT_DATA_HI : Fld := ⟨0x28, 31, 0, 0x0, 0x0⟩
def PL_RT_DATA_HI_VALID : Fld := ⟨0x28, 31, 31, 0x0, 0x0⟩
def PL_RT_DATA_HI_MASK_HI : Fld := ⟨0x28, 15, 0, 0x0, 0x0⟩
/-- XCH_CTRL (13_gradient_exchange). -/
def XCH_CTRL : Fld := ⟨0xA0000, 31, 0, 0x0, 0x0⟩
def XCH_CTRL_RESEND_EN : Fld := ⟨0xA0000, 1, 1, 0x0, 0x0⟩
def XCH_CTRL_ENABLE : Fld := ⟨0xA0000, 0, 0, 0x0, 0x0⟩
/-- XCH_ID (13_gradient_exchange). -/
def XCH_ID : Fld := ⟨0xA0004, 31, 0, 0x0, 0x0⟩
def XCH_ID_MODULE : Fld := ⟨0xA0004, 17, 0, 0x0, 0x0⟩
/-- XCH_TAG (13_gradient_exchange). -/
def XCH_TAG : Fld := ⟨0xA0008, 31, 0, 0x0, 0x0⟩
def XCH_TAG_TAG : Fld := ⟨0xA0008, 31, 0, 0x0, 0x0⟩
/-- XCH_TAG_NEXT (13_gradient_exchange). -/
def XCH_TAG_NEXT : Fld := ⟨0xA000C, 31, 0, 0x0, 0x0⟩
def XCH_TAG_NEXT_TAG : Fld := ⟨0xA000C, 31, 0, 0x0, 0x0⟩
/-- XCH_ACT_STEP (13_gradient_exchange). -/
def XCH_ACT_STEP : Fld := ⟨0xA0010, 63, 0, 0x0, 0x0⟩
def XCH_ACT_STEP_STEP : Fld := ⟨0xA0010, 63, 0, 0x0, 0x0⟩
/-- XCH_COMMITTED (13_gradient_exchange). -/
def XCH_COMMITTED : Fld := ⟨0xA0018, 63, 0, 0x0, 0x0⟩
def XCH_COMMITTED_VALUE : Fld := ⟨0xA0018, 63, 0, 0x0, 0x0⟩
/-- XCH_CONFIRMED (13_gradient_exchange). -/
def XCH_CONFIRMED : Fld := ⟨0xA0020, 63, 0, 0x0, 0x0⟩
def XCH_CONFIRMED_VALUE : Fld := ⟨0xA0020, 63, 0, 0x0, 0x0⟩
/-- XCH_TIMER (13_gradient_exchange). -/
def XCH_TIMER : Fld := ⟨0xA0028, 63, 0, 0x0, 0x0⟩
def XCH_TIMER_VALUE : Fld := ⟨0xA0028, 63, 0, 0x0, 0x0⟩
/-- XCH_PAIR_OFS (13_gradient_exchange). -/
def XCH_PAIR_OFS : Fld := ⟨0xA0030, 63, 0, 0x0, 0x0⟩
def XCH_PAIR_OFS_OFS : Fld := ⟨0xA0030, 47, 0, 0x0, 0x0⟩
/-- XCH_PARAM0 (13_gradient_exchange). -/
def XCH_PARAM0 : Fld := ⟨0xA0038, 31, 0, 0x0, 0x0⟩
def XCH_PARAM0_QUORUM : Fld := ⟨0xA0038, 25, 16, 0x0, 0x0⟩
def XCH_PARAM0_SEND_BF16 : Fld := ⟨0xA0038, 9, 9, 0x0, 0x0⟩
def XCH_PARAM0_LATE_CARRY : Fld := ⟨0xA0038, 8, 8, 0x0, 0x0⟩
def XCH_PARAM0_SYNC_N_M1 : Fld := ⟨0xA0038, 7, 0, 0x0, 0x0⟩
/-- XCH_PARAM1 (13_gradient_exchange). -/
def XCH_PARAM1 : Fld := ⟨0xA003C, 31, 0, 0x0, 0x0⟩
def XCH_PARAM1_DEADLINE : Fld := ⟨0xA003C, 23, 0, 0x0, 0x0⟩
/-- XCH_PARAM2 (13_gradient_exchange). -/
def XCH_PARAM2 : Fld := ⟨0xA0040, 31, 0, 0x0, 0x0⟩
def XCH_PARAM2_RESEND_TO : Fld := ⟨0xA0040, 19, 0, 0x0, 0x0⟩
/-- XCH_PARAM3 (13_gradient_exchange). -/
def XCH_PARAM3 : Fld := ⟨0xA0044, 31, 0, 0x0, 0x0⟩
def XCH_PARAM3_TORN_WAIT : Fld := ⟨0xA0044, 25, 16, 0x0, 0x0⟩
def XCH_PARAM3_TORN_RETRIES : Fld := ⟨0xA0044, 7, 0, 0x0, 0x0⟩
/-- XCH_STATUS (13_gradient_exchange). -/
def XCH_STATUS : Fld := ⟨0xA0048, 31, 0, 0x0, 0x0⟩
def XCH_STATUS_STAGE_REF : Fld := ⟨0xA0048, 8, 8, 0x0, 0x0⟩
def XCH_STATUS_RESEND_FAIL : Fld := ⟨0xA0048, 7, 7, 0x0, 0x0⟩
def XCH_STATUS_TORN_FAIL : Fld := ⟨0xA0048, 6, 6, 0x0, 0x0⟩
def XCH_STATUS_OVERRUN : Fld := ⟨0xA0048, 5, 5, 0x0, 0x0⟩
def XCH_STATUS_SAMPLE_SAT : Fld := ⟨0xA0048, 4, 4, 0x0, 0x0⟩
def XCH_STATUS_FUTURE : Fld := ⟨0xA0048, 3, 3, 0x0, 0x0⟩
def XCH_STATUS_SHORT : Fld := ⟨0xA0048, 2, 2, 0x0, 0x0⟩
def XCH_STATUS_NO_BUCKET : Fld := ⟨0xA0048, 1, 1, 0x0, 0x0⟩
/-- XCH_OBKT_SEL (13_gradient_exchange). -/
def XCH_OBKT_SEL : Fld := ⟨0xA0050, 31, 0, 0x0, 0x0⟩
def XCH_OBKT_SEL_INDEX : Fld := ⟨0xA0050, 13, 0, 0x0, 0x0⟩
/-- XCH_OBKT_STATE (13_gradient_exchange). -/
def XCH_OBKT_STATE : Fld := ⟨0xA0054, 31, 0, 0x0, 0x0⟩
def XCH_OBKT_STATE_LAST_KIND : Fld := ⟨0xA0054, 28, 27, 0x0, 0x0⟩
def XCH_OBKT_STATE_EXTENDED : Fld := ⟨0xA0054, 26, 26, 0x0, 0x0⟩
def XCH_OBKT_STATE_TIMING : Fld := ⟨0xA0054, 25, 25, 0x0, 0x0⟩
def XCH_OBKT_STATE_ARRIVED : Fld := ⟨0xA0054, 18, 0, 0x0, 0x0⟩
/-- XCH_OBKT_SAMP (13_gradient_exchange). -/
def XCH_OBKT_SAMP : Fld := ⟨0xA0058, 31, 0, 0x0, 0x0⟩
def XCH_OBKT_SAMP_VALUE : Fld := ⟨0xA0058, 31, 0, 0x0, 0x0⟩
/-- XCH_OBKT_T0 (13_gradient_exchange). -/
def XCH_OBKT_T0 : Fld := ⟨0xA005C, 31, 0, 0x0, 0x0⟩
def XCH_OBKT_T0_VALUE : Fld := ⟨0xA005C, 31, 0, 0x0, 0x0⟩
/-- XCH_OBKT_VER (13_gradient_exchange). -/
def XCH_OBKT_VER : Fld := ⟨0xA0060, 63, 0, 0x0, 0x0⟩
def XCH_OBKT_VER_VERSION : Fld := ⟨0xA0060, 63, 0, 0x0, 0x0⟩
/-- OWL_CTRL (14_integrity_and_faults). -/
def OWL_CTRL : Fld := ⟨0x90000, 31, 0, 0x0, 0x0⟩
def OWL_CTRL_RATE : Fld := ⟨0x90000, 15, 8, 0x0, 0x0⟩
def OWL_CTRL_BDG_EN : Fld := ⟨0x90000, 1, 1, 0x0, 0x0⟩
def OWL_CTRL_NET_EN : Fld := ⟨0x90000, 0, 0, 0x0, 0x0⟩
/-- OWL_ESC (14_integrity_and_faults). -/
def OWL_ESC : Fld := ⟨0x90004, 31, 0, 0x0, 0x0⟩
def OWL_ESC_MC_LIM : Fld := ⟨0x90004, 11, 8, 0x0, 0x0⟩
def OWL_ESC_GB_MODE : Fld := ⟨0x90004, 1, 0, 0x0, 0x0⟩
/-- OWL_STATUS (14_integrity_and_faults). -/
def OWL_STATUS : Fld := ⟨0x90008, 31, 0, 0x0, 0x0⟩
def OWL_STATUS_DROP : Fld := ⟨0x90008, 12, 12, 0x0, 0x0⟩
def OWL_STATUS_BUCKET_FAIL : Fld := ⟨0x90008, 11, 11, 0x0, 0x0⟩
def OWL_STATUS_DRAIN : Fld := ⟨0x90008, 10, 10, 0x0, 0x0⟩
def OWL_STATUS_RETIRE : Fld := ⟨0x90008, 9, 9, 0x0, 0x0⟩
def OWL_STATUS_SUSPECT : Fld := ⟨0x90008, 8, 8, 0x0, 0x0⟩
def OWL_STATUS_SUPERSEDE : Fld := ⟨0x90008, 7, 7, 0x0, 0x0⟩
def OWL_STATUS_TAINT : Fld := ⟨0x90008, 6, 6, 0x0, 0x0⟩
def OWL_STATUS_CS_WIN : Fld := ⟨0x90008, 5, 5, 0x0, 0x0⟩
def OWL_STATUS_CS_XING : Fld := ⟨0x90008, 4, 4, 0x0, 0x0⟩
def OWL_STATUS_MC_FAULT : Fld := ⟨0x90008, 3, 3, 0x0, 0x0⟩
def OWL_STATUS_RES_FAIL : Fld := ⟨0x90008, 2, 2, 0x0, 0x0⟩
def OWL_STATUS_BLK_FAIL : Fld := ⟨0x90008, 1, 1, 0x0, 0x0⟩
def OWL_STATUS_PAR_FAIL : Fld := ⟨0x90008, 0, 0, 0x0, 0x0⟩
/-- OWL_MODSTATE (14_integrity_and_faults). -/
def OWL_MODSTATE : Fld := ⟨0x9000C, 31, 0, 0x0, 0x0⟩
def OWL_MODSTATE_MC_FAULTS : Fld := ⟨0x9000C, 23, 16, 0x0, 0x0⟩
def OWL_MODSTATE_REPLACE : Fld := ⟨0x9000C, 8, 8, 0x0, 0x0⟩
def OWL_MODSTATE_STATE : Fld := ⟨0x9000C, 1, 0, 0x0, 0x0⟩
/-- OWL_CS_CFG0 (14_integrity_and_faults). -/
def OWL_CS_CFG0 : Fld := ⟨0x90010, 31, 0, 0x0, 0x0⟩
def OWL_CS_CFG0_MS_TH : Fld := ⟨0x90010, 31, 16, 0x0, 0x0⟩
def OWL_CS_CFG0_PASS_TH : Fld := ⟨0x90010, 11, 0, 0x0, 0x0⟩
/-- OWL_CS_CFG1 (14_integrity_and_faults). -/
def OWL_CS_CFG1 : Fld := ⟨0x90014, 31, 0, 0x0, 0x0⟩
def OWL_CS_CFG1_MIN_LOG2 : Fld := ⟨0x90014, 12, 8, 0x0, 0x0⟩
def OWL_CS_CFG1_WIN_LOG2 : Fld := ⟨0x90014, 4, 0, 0x0, 0x0⟩
/-- OWL_CS_SEL (14_integrity_and_faults). -/
def OWL_CS_SEL : Fld := ⟨0x90018, 31, 0, 0x0, 0x0⟩
def OWL_CS_SEL_TILE : Fld := ⟨0x90018, 13, 8, 0x0, 0x0⟩
def OWL_CS_SEL_ARRAY : Fld := ⟨0x90018, 3, 0, 0x0, 0x0⟩
/-- OWL_CS_STATE (14_integrity_and_faults). -/
def OWL_CS_STATE : Fld := ⟨0x9001C, 31, 0, 0x0, 0x0⟩
def OWL_CS_STATE_COMMITS : Fld := ⟨0x9001C, 29, 28, 0x0, 0x0⟩
def OWL_CS_STATE_N : Fld := ⟨0x9001C, 23, 0, 0x0, 0x0⟩
/-- OWL_CS_MS (14_integrity_and_faults). -/
def OWL_CS_MS : Fld := ⟨0x90020, 31, 0, 0x0, 0x0⟩
def OWL_CS_MS_MS : Fld := ⟨0x90020, 15, 0, 0x0, 0x0⟩
/-- OWL_CS_VLO (14_integrity_and_faults). -/
def OWL_CS_VLO : Fld := ⟨0x90028, 63, 0, 0x0, 0x0⟩
def OWL_CS_VLO_VERSION : Fld := ⟨0x90028, 63, 0, 0x0, 0x0⟩
/-- OWL_CS_VHI (14_integrity_and_faults). -/
def OWL_CS_VHI : Fld := ⟨0x90030, 63, 0, 0x0, 0x0⟩
def OWL_CS_VHI_VERSION : Fld := ⟨0x90030, 63, 0, 0x0, 0x0⟩
/-- OWL_DST_IP (14_integrity_and_faults). -/
def OWL_DST_IP : Fld := ⟨0x90040, 31, 0, 0x4, 0x0⟩
def OWL_DST_IP_ADDR : Fld := ⟨0x90040, 31, 0, 0x4, 0x0⟩
/-- OWL_SRC_IP (14_integrity_and_faults). -/
def OWL_SRC_IP : Fld := ⟨0x90050, 31, 0, 0x4, 0x0⟩
def OWL_SRC_IP_ADDR : Fld := ⟨0x90050, 31, 0, 0x4, 0x0⟩
/-- OWL_DMAC_LO (14_integrity_and_faults). -/
def OWL_DMAC_LO : Fld := ⟨0x90060, 31, 0, 0x0, 0x0⟩
def OWL_DMAC_LO_BYTES : Fld := ⟨0x90060, 31, 0, 0x0, 0x0⟩
/-- OWL_DMAC_HI (14_integrity_and_faults). -/
def OWL_DMAC_HI : Fld := ⟨0x90064, 31, 0, 0x0, 0x0⟩
def OWL_DMAC_HI_BYTES : Fld := ⟨0x90064, 15, 0, 0x0, 0x0⟩
/-- OWL_PORT (14_integrity_and_faults). -/
def OWL_PORT : Fld := ⟨0x90068, 31, 0, 0x0, 0x0⟩
def OWL_PORT_DST : Fld := ⟨0x90068, 31, 16, 0x0, 0x0⟩
def OWL_PORT_SRC : Fld := ⟨0x90068, 15, 0, 0x0, 0x0⟩
/-- OWL_SEQ (14_integrity_and_faults). -/
def OWL_SEQ : Fld := ⟨0x9006C, 31, 0, 0x0, 0x0⟩
def OWL_SEQ_SEQ : Fld := ⟨0x9006C, 31, 0, 0x0, 0x0⟩
/-- OWL_FIFO (14_integrity_and_faults). -/
def OWL_FIFO : Fld := ⟨0x90070, 31, 0, 0x0, 0x0⟩
def OWL_FIFO_LEVEL : Fld := ⟨0x90070, 8, 0, 0x0, 0x0⟩
/-- OWL_PTILE_ESC (14_integrity_and_faults). -/
def OWL_PTILE_ESC : Fld := ⟨0x90400, 31, 0, 0x4, 0x0⟩
def OWL_PTILE_ESC_EVENTS : Fld := ⟨0x90400, 31, 24, 0x4, 0x0⟩
def OWL_PTILE_ESC_LAST_CAUSE : Fld := ⟨0x90400, 15, 12, 0x4, 0x0⟩
def OWL_PTILE_ESC_SCAN : Fld := ⟨0x90400, 9, 8, 0x4, 0x0⟩
def OWL_PTILE_ESC_LEVEL : Fld := ⟨0x90400, 2, 0, 0x4, 0x0⟩
/-- HIF_ID (15_host_interface). -/
def HIF_ID : Fld := ⟨0x0, 31, 0, 0x0, 0x0⟩
def HIF_ID_DEVICE : Fld := ⟨0x0, 31, 16, 0x0, 0x0⟩
def HIF_ID_REV : Fld := ⟨0x0, 7, 0, 0x0, 0x0⟩
/-- HIF_LINK (15_host_interface). -/
def HIF_LINK : Fld := ⟨0x4, 31, 0, 0x0, 0x0⟩
def HIF_LINK_WIDTH : Fld := ⟨0x4, 12, 8, 0x0, 0x0⟩
def HIF_LINK_FLIT : Fld := ⟨0x4, 4, 4, 0x0, 0x0⟩
def HIF_LINK_SPEED : Fld := ⟨0x4, 3, 0, 0x0, 0x0⟩
/-- HIF_FW (15_host_interface). -/
def HIF_FW : Fld := ⟨0x8, 31, 0, 0x0, 0x0⟩
def HIF_FW_STATE : Fld := ⟨0x8, 31, 28, 0x0, 0x0⟩
def HIF_FW_BEAT : Fld := ⟨0x8, 23, 0, 0x0, 0x0⟩
/-- HIF_STATUS (15_host_interface). -/
def HIF_STATUS : Fld := ⟨0xC, 31, 0, 0x0, 0x0⟩
def HIF_STATUS_CPL_ERR : Fld := ⟨0xC, 2, 2, 0x0, 0x0⟩
def HIF_STATUS_RANGE : Fld := ⟨0xC, 1, 1, 0x0, 0x0⟩
def HIF_STATUS_RSV : Fld := ⟨0xC, 0, 0, 0x0, 0x0⟩
/-- HIF_BAR2_BASE (15_host_interface). -/
def HIF_BAR2_BASE : Fld := ⟨0x10, 63, 0, 0x0, 0x0⟩
def HIF_BAR2_BASE_BASE : Fld := ⟨0x10, 40, 36, 0x0, 0x0⟩
/-- HIF_CPY_LEN (15_host_interface). -/
def HIF_CPY_LEN : Fld := ⟨0x110, 31, 0, 0x40, 0x0⟩
def HIF_CPY_LEN_LEN64 : Fld := ⟨0x110, 31, 6, 0x40, 0x0⟩
/-- HIF_CPY_CTRL (15_host_interface). -/
def HIF_CPY_CTRL : Fld := ⟨0x114, 31, 0, 0x40, 0x0⟩
def HIF_CPY_CTRL_GO : Fld := ⟨0x114, 31, 31, 0x40, 0x0⟩
def HIF_CPY_CTRL_ABORT : Fld := ⟨0x114, 30, 30, 0x40, 0x0⟩
def HIF_CPY_CTRL_VEC : Fld := ⟨0x114, 13, 8, 0x40, 0x0⟩
def HIF_CPY_CTRL_EVT : Fld := ⟨0x114, 4, 4, 0x40, 0x0⟩
def HIF_CPY_CTRL_IRQ : Fld := ⟨0x114, 3, 3, 0x40, 0x0⟩
def HIF_CPY_CTRL_DIR : Fld := ⟨0x114, 1, 0, 0x40, 0x0⟩
/-- HIF_CPY_STAT (15_host_interface). -/
def HIF_CPY_STAT : Fld := ⟨0x118, 31, 0, 0x40, 0x0⟩
def HIF_CPY_STAT_BUSY : Fld := ⟨0x118, 31, 31, 0x40, 0x0⟩
def HIF_CPY_STAT_RESULT : Fld := ⟨0x118, 3, 0, 0x40, 0x0⟩
/-- MBX_CTRL (15_host_interface). -/
def MBX_CTRL : Fld := ⟨0x10000, 31, 0, 0x0, 0x0⟩
def MBX_CTRL_VEC : Fld := ⟨0x10000, 13, 8, 0x0, 0x0⟩
def MBX_CTRL_IRQ_EN : Fld := ⟨0x10000, 0, 0, 0x0, 0x0⟩
/-- MBX_RING (15_host_interface). -/
def MBX_RING : Fld := ⟨0x10004, 31, 0, 0x0, 0x0⟩
def MBX_RING_PAIR : Fld := ⟨0x10004, 5, 0, 0x0, 0x0⟩
/-- MBX_ACK (15_host_interface). -/
def MBX_ACK : Fld := ⟨0x10008, 31, 0, 0x0, 0x0⟩
def MBX_ACK_PAIR : Fld := ⟨0x10008, 5, 0, 0x0, 0x0⟩
/-- MBX_STATE (15_host_interface). -/
def MBX_STATE : Fld := ⟨0x10010, 31, 0, 0x4, 0x0⟩
def MBX_STATE_STATE0 : Fld := ⟨0x10010, 1, 0, 0x4, 0x0⟩
def MBX_STATE_STATE1 : Fld := ⟨0x10010, 3, 2, 0x4, 0x0⟩
def MBX_STATE_STATE2 : Fld := ⟨0x10010, 5, 4, 0x4, 0x0⟩
def MBX_STATE_STATE3 : Fld := ⟨0x10010, 7, 6, 0x4, 0x0⟩
def MBX_STATE_STATE4 : Fld := ⟨0x10010, 9, 8, 0x4, 0x0⟩
def MBX_STATE_STATE5 : Fld := ⟨0x10010, 11, 10, 0x4, 0x0⟩
def MBX_STATE_STATE6 : Fld := ⟨0x10010, 13, 12, 0x4, 0x0⟩
def MBX_STATE_STATE7 : Fld := ⟨0x10010, 15, 14, 0x4, 0x0⟩
def MBX_STATE_STATE8 : Fld := ⟨0x10010, 17, 16, 0x4, 0x0⟩
def MBX_STATE_STATE9 : Fld := ⟨0x10010, 19, 18, 0x4, 0x0⟩
def MBX_STATE_STATE10 : Fld := ⟨0x10010, 21, 20, 0x4, 0x0⟩
def MBX_STATE_STATE11 : Fld := ⟨0x10010, 23, 22, 0x4, 0x0⟩
def MBX_STATE_STATE12 : Fld := ⟨0x10010, 25, 24, 0x4, 0x0⟩
def MBX_STATE_STATE13 : Fld := ⟨0x10010, 27, 26, 0x4, 0x0⟩
def MBX_STATE_STATE14 : Fld := ⟨0x10010, 29, 28, 0x4, 0x0⟩
def MBX_STATE_STATE15 : Fld := ⟨0x10010, 31, 30, 0x4, 0x0⟩
/-- MBX_STATUS (15_host_interface). -/
def MBX_STATUS : Fld := ⟨0x10020, 31, 0, 0x0, 0x0⟩
def MBX_STATUS_ACK_BAD : Fld := ⟨0x10020, 1, 1, 0x0, 0x0⟩
def MBX_STATUS_RING_BUSY : Fld := ⟨0x10020, 0, 0, 0x0, 0x0⟩
/-- EVQ_BASE (15_host_interface). -/
def EVQ_BASE : Fld := ⟨0x20000, 63, 0, 0x40, 0x0⟩
def EVQ_BASE_ADDR : Fld := ⟨0x20000, 63, 12, 0x40, 0x0⟩
/-- EVQ_CFG (15_host_interface). -/
def EVQ_CFG : Fld := ⟨0x20008, 31, 0, 0x40, 0x0⟩
def EVQ_CFG_CLASSES : Fld := ⟨0x20008, 25, 16, 0x40, 0x0⟩
def EVQ_CFG_VEC : Fld := ⟨0x20008, 13, 8, 0x40, 0x0⟩
def EVQ_CFG_EN : Fld := ⟨0x20008, 7, 7, 0x40, 0x0⟩
def EVQ_CFG_SIZE_LOG2 : Fld := ⟨0x20008, 4, 0, 0x40, 0x0⟩
/-- EVQ_MOD (15_host_interface). -/
def EVQ_MOD : Fld := ⟨0x2000C, 31, 0, 0x40, 0x0⟩
def EVQ_MOD_TIME : Fld := ⟨0x2000C, 31, 16, 0x40, 0x0⟩
def EVQ_MOD_CNT : Fld := ⟨0x2000C, 12, 0, 0x40, 0x0⟩
/-- EVQ_HEAD (15_host_interface). -/
def EVQ_HEAD : Fld := ⟨0x20010, 31, 0, 0x40, 0x0⟩
def EVQ_HEAD_INDEX : Fld := ⟨0x20010, 19, 0, 0x40, 0x0⟩
/-- EVQ_TAIL (15_host_interface). -/
def EVQ_TAIL : Fld := ⟨0x20014, 31, 0, 0x40, 0x0⟩
def EVQ_TAIL_PHASE : Fld := ⟨0x20014, 31, 31, 0x40, 0x0⟩
def EVQ_TAIL_INDEX : Fld := ⟨0x20014, 19, 0, 0x40, 0x0⟩
/-- EVQ_STATUS (15_host_interface). -/
def EVQ_STATUS : Fld := ⟨0x20018, 31, 0, 0x40, 0x0⟩
def EVQ_STATUS_HEAD_BAD : Fld := ⟨0x20018, 1, 1, 0x40, 0x0⟩
def EVQ_STATUS_OVF : Fld := ⟨0x20018, 0, 0, 0x40, 0x0⟩
/-- MGT_CTRL (16_management_and_security). -/
def MGT_CTRL : Fld := ⟨0x30000, 31, 0, 0x0, 0x0⟩
def MGT_CTRL_RATE : Fld := ⟨0x30000, 15, 8, 0x0, 0x0⟩
def MGT_CTRL_NET_EN : Fld := ⟨0x30000, 0, 0, 0x0, 0x0⟩
/-- MGT_STATUS (16_management_and_security). -/
def MGT_STATUS : Fld := ⟨0x30004, 31, 0, 0x0, 0x0⟩
def MGT_STATUS_LINK_DOWN : Fld := ⟨0x30004, 6, 6, 0x0, 0x0⟩
def MGT_STATUS_UART_STUCK : Fld := ⟨0x30004, 5, 5, 0x0, 0x0⟩
def MGT_STATUS_UNLOCK_FAIL : Fld := ⟨0x30004, 4, 4, 0x0, 0x0⟩
def MGT_STATUS_FW_ROLLBACK : Fld := ⟨0x30004, 3, 3, 0x0, 0x0⟩
def MGT_STATUS_FW_RESTART : Fld := ⟨0x30004, 2, 2, 0x0, 0x0⟩
def MGT_STATUS_CORE_STALL : Fld := ⟨0x30004, 1, 1, 0x0, 0x0⟩
/-- MGT_MAC_LO (16_management_and_security). -/
def MGT_MAC_LO : Fld := ⟨0x30008, 31, 0, 0x0, 0x0⟩
def MGT_MAC_LO_BYTES : Fld := ⟨0x30008, 31, 0, 0x0, 0x0⟩
/-- MGT_MAC_HI (16_management_and_security). -/
def MGT_MAC_HI : Fld := ⟨0x3000C, 31, 0, 0x0, 0x0⟩
def MGT_MAC_HI_BYTES : Fld := ⟨0x3000C, 15, 0, 0x0, 0x0⟩
/-- MGT_DST_IP (16_management_and_security). -/
def MGT_DST_IP : Fld := ⟨0x30010, 31, 0, 0x4, 0x0⟩
def MGT_DST_IP_ADDR : Fld := ⟨0x30010, 31, 0, 0x4, 0x0⟩
/-- MGT_SRC_IP (16_management_and_security). -/
def MGT_SRC_IP : Fld := ⟨0x30020, 31, 0, 0x4, 0x0⟩
def MGT_SRC_IP_ADDR : Fld := ⟨0x30020, 31, 0, 0x4, 0x0⟩
/-- MGT_PORT (16_management_and_security). -/
def MGT_PORT : Fld := ⟨0x30030, 31, 0, 0x0, 0x0⟩
def MGT_PORT_DST : Fld := ⟨0x30030, 31, 16, 0x0, 0x0⟩
def MGT_PORT_SRC : Fld := ⟨0x30030, 15, 0, 0x0, 0x0⟩
/-- MGT_MON (16_management_and_security). -/
def MGT_MON : Fld := ⟨0x30034, 31, 0, 0x0, 0x0⟩
def MGT_MON_BAUD : Fld := ⟨0x30034, 7, 4, 0x0, 0x0⟩
def MGT_MON_LOCKOUT : Fld := ⟨0x30034, 1, 1, 0x0, 0x0⟩
def MGT_MON_UNLOCKED : Fld := ⟨0x30034, 0, 0, 0x0, 0x0⟩
/-- SEC_STATE (16_management_and_security). -/
def SEC_STATE : Fld := ⟨0xC0000, 31, 0, 0x0, 0x0⟩
def SEC_STATE_FAIL_B : Fld := ⟨0xC0000, 15, 12, 0x0, 0x0⟩
def SEC_STATE_FAIL_A : Fld := ⟨0xC0000, 11, 8, 0x0, 0x0⟩
def SEC_STATE_OWNER_REQ : Fld := ⟨0xC0000, 3, 3, 0x0, 0x0⟩
def SEC_STATE_OWNER_SET : Fld := ⟨0xC0000, 2, 2, 0x0, 0x0⟩
def SEC_STATE_RECOVERY : Fld := ⟨0xC0000, 1, 1, 0x0, 0x0⟩
def SEC_STATE_SLOT : Fld := ⟨0xC0000, 0, 0, 0x0, 0x0⟩
/-- SEC_SVN (16_management_and_security). -/
def SEC_SVN : Fld := ⟨0xC0004, 31, 0, 0x0, 0x0⟩
def SEC_SVN_SVN : Fld := ⟨0xC0004, 6, 0, 0x0, 0x0⟩
/-- SEC_CTRL (16_management_and_security). -/
def SEC_CTRL : Fld := ⟨0xC0008, 31, 0, 0x0, 0x0⟩
def SEC_CTRL_OWNER_ARM : Fld := ⟨0xC0008, 0, 0, 0x0, 0x0⟩
/-- SEC_STATUS (16_management_and_security). -/
def SEC_STATUS : Fld := ⟨0xC000C, 31, 0, 0x0, 0x0⟩
def SEC_STATUS_OWNER_PROG : Fld := ⟨0xC000C, 2, 2, 0x0, 0x0⟩
def SEC_STATUS_BOOT_FAIL : Fld := ⟨0xC000C, 1, 1, 0x0, 0x0⟩
def SEC_STATUS_FALLBACK : Fld := ⟨0xC000C, 0, 0, 0x0, 0x0⟩
/-- TAD_RES (17_telemetry_adc_and_dma). -/
def TAD_RES : Fld := ⟨0x60200, 31, 0, 0x4, 0x0⟩
def TAD_RES_SLOT : Fld := ⟨0x60200, 31, 27, 0x4, 0x0⟩
def TAD_RES_CHAN : Fld := ⟨0x60200, 26, 21, 0x4, 0x0⟩
def TAD_RES_SAT : Fld := ⟨0x60200, 20, 20, 0x4, 0x0⟩
def TAD_RES_RANGE : Fld := ⟨0x60200, 19, 19, 0x4, 0x0⟩
def TAD_RES_OPEN : Fld := ⟨0x60200, 18, 18, 0x4, 0x0⟩
def TAD_RES_SHORT : Fld := ⟨0x60200, 17, 17, 0x4, 0x0⟩
def TAD_RES_ODD : Fld := ⟨0x60200, 16, 16, 0x4, 0x0⟩
def TAD_RES_CODE : Fld := ⟨0x60200, 15, 0, 0x4, 0x0⟩
/-- TAD_HK (17_telemetry_adc_and_dma). -/
def TAD_HK : Fld := ⟨0x60280, 31, 0, 0x4, 0x0⟩
def TAD_HK_SLOT : Fld := ⟨0x60280, 31, 27, 0x4, 0x0⟩
def TAD_HK_CHAN : Fld := ⟨0x60280, 26, 21, 0x4, 0x0⟩
def TAD_HK_SAT : Fld := ⟨0x60280, 20, 20, 0x4, 0x0⟩
def TAD_HK_RANGE : Fld := ⟨0x60280, 19, 19, 0x4, 0x0⟩
def TAD_HK_OPEN : Fld := ⟨0x60280, 18, 18, 0x4, 0x0⟩
def TAD_HK_SHORT : Fld := ⟨0x60280, 17, 17, 0x4, 0x0⟩
def TAD_HK_ODD : Fld := ⟨0x60280, 16, 16, 0x4, 0x0⟩
def TAD_HK_CODE : Fld := ⟨0x60280, 15, 0, 0x4, 0x0⟩
/-- TAD_CTRL (17_telemetry_adc_and_dma). -/
def TAD_CTRL : Fld := ⟨0x60000, 31, 0, 0x0, 0x0⟩
def TAD_CTRL_SEQ_LEN : Fld := ⟨0x60000, 13, 8, 0x0, 0x0⟩
def TAD_CTRL_STOP : Fld := ⟨0x60000, 7, 7, 0x0, 0x0⟩
def TAD_CTRL_START : Fld := ⟨0x60000, 6, 6, 0x0, 0x0⟩
def TAD_CTRL_MODE : Fld := ⟨0x60000, 5, 4, 0x0, 0x0⟩
def TAD_CTRL_REFSEL : Fld := ⟨0x60000, 3, 2, 0x0, 0x0⟩
def TAD_CTRL_ENABLE : Fld := ⟨0x60000, 0, 0, 0x0, 0x0⟩
/-- TAD_STAT (17_telemetry_adc_and_dma). -/
def TAD_STAT : Fld := ⟨0x60004, 31, 0, 0x0, 0x0⟩
def TAD_STAT_SLOT : Fld := ⟨0x60004, 9, 5, 0x0, 0x0⟩
def TAD_STAT_BUSY : Fld := ⟨0x60004, 2, 2, 0x0, 0x0⟩
def TAD_STAT_CAL : Fld := ⟨0x60004, 1, 1, 0x0, 0x0⟩
def TAD_STAT_SETTLED : Fld := ⟨0x60004, 0, 0, 0x0, 0x0⟩
/-- TAD_PER (17_telemetry_adc_and_dma). -/
def TAD_PER : Fld := ⟨0x60008, 31, 0, 0x0, 0x0⟩
def TAD_PER_PERIOD : Fld := ⟨0x60008, 23, 0, 0x0, 0x0⟩
/-- TAD_REF_WAIT (17_telemetry_adc_and_dma). -/
def TAD_REF_WAIT : Fld := ⟨0x6000C, 31, 0, 0x0, 0x0⟩
def TAD_REF_WAIT_WAIT : Fld := ⟨0x6000C, 15, 0, 0x0, 0x0⟩
/-- TAD_STATUS (17_telemetry_adc_and_dma). -/
def TAD_STATUS : Fld := ⟨0x60010, 31, 0, 0x0, 0x0⟩
def TAD_STATUS_CAL_ERR : Fld := ⟨0x60010, 9, 9, 0x0, 0x0⟩
def TAD_STATUS_PORT_LOST : Fld := ⟨0x60010, 8, 8, 0x0, 0x0⟩
def TAD_STATUS_PER_SKIP : Fld := ⟨0x60010, 7, 7, 0x0, 0x0⟩
def TAD_STATUS_REF_BAD : Fld := ⟨0x60010, 6, 6, 0x0, 0x0⟩
def TAD_STATUS_ABORT : Fld := ⟨0x60010, 5, 5, 0x0, 0x0⟩
def TAD_STATUS_SHORT : Fld := ⟨0x60010, 4, 4, 0x0, 0x0⟩
def TAD_STATUS_OPEN : Fld := ⟨0x60010, 3, 3, 0x0, 0x0⟩
def TAD_STATUS_RANGE : Fld := ⟨0x60010, 2, 2, 0x0, 0x0⟩
def TAD_STATUS_SAT : Fld := ⟨0x60010, 1, 1, 0x0, 0x0⟩
/-- TAD_BIAS_TH (17_telemetry_adc_and_dma). -/
def TAD_BIAS_TH : Fld := ⟨0x60014, 31, 0, 0x0, 0x0⟩
def TAD_BIAS_TH_OPEN_TH : Fld := ⟨0x60014, 30, 16, 0x0, 0x0⟩
def TAD_BIAS_TH_SHORT_TH : Fld := ⟨0x60014, 14, 0, 0x0, 0x0⟩
/-- TAD_CAL_CMD (17_telemetry_adc_and_dma). -/
def TAD_CAL_CMD : Fld := ⟨0x60018, 31, 0, 0x0, 0x0⟩
def TAD_CAL_CMD_ACQ : Fld := ⟨0x60018, 15, 8, 0x0, 0x0⟩
def TAD_CAL_CMD_CHAN : Fld := ⟨0x60018, 7, 4, 0x0, 0x0⟩
def TAD_CAL_CMD_STEP : Fld := ⟨0x60018, 2, 0, 0x0, 0x0⟩
/-- TAD_CAL_FS (17_telemetry_adc_and_dma). -/
def TAD_CAL_FS : Fld := ⟨0x6001C, 31, 0, 0x0, 0x0⟩
def TAD_CAL_FS_CODE : Fld := ⟨0x6001C, 15, 0, 0x0, 0x0⟩
/-- TAD_CAL_STAT (17_telemetry_adc_and_dma). -/
def TAD_CAL_STAT : Fld := ⟨0x60020, 31, 0, 0x0, 0x0⟩
def TAD_CAL_STAT_ERR : Fld := ⟨0x60020, 7, 4, 0x0, 0x0⟩
def TAD_CAL_STAT_STORED : Fld := ⟨0x60020, 1, 1, 0x0, 0x0⟩
def TAD_CAL_STAT_BUSY : Fld := ⟨0x60020, 0, 0, 0x0, 0x0⟩
/-- TAD_SLOT (17_telemetry_adc_and_dma). -/
def TAD_SLOT : Fld := ⟨0x60100, 31, 0, 0x4, 0x0⟩
def TAD_SLOT_ACQ : Fld := ⟨0x60100, 31, 24, 0x4, 0x0⟩
def TAD_SLOT_AVG_LOG2 : Fld := ⟨0x60100, 23, 20, 0x4, 0x0⟩
def TAD_SLOT_LIM_EN : Fld := ⟨0x60100, 15, 15, 0x4, 0x0⟩
def TAD_SLOT_BIAS : Fld := ⟨0x60100, 14, 14, 0x4, 0x0⟩
def TAD_SLOT_DOM : Fld := ⟨0x60100, 13, 12, 0x4, 0x0⟩
def TAD_SLOT_CHAN : Fld := ⟨0x60100, 5, 0, 0x4, 0x0⟩
/-- BDG_CFG (17_telemetry_adc_and_dma). -/
def BDG_CFG : Fld := ⟨0x7010C, 31, 0, 0x20, 0x0⟩
def BDG_CFG_KICK : Fld := ⟨0x7010C, 31, 31, 0x20, 0x0⟩
def BDG_CFG_VEC : Fld := ⟨0x7010C, 30, 25, 0x20, 0x0⟩
def BDG_CFG_BURST : Fld := ⟨0x7010C, 16, 10, 0x20, 0x0⟩
def BDG_CFG_HOLD : Fld := ⟨0x7010C, 9, 9, 0x20, 0x0⟩
def BDG_CFG_FULL_IE : Fld := ⟨0x7010C, 8, 8, 0x20, 0x0⟩
def BDG_CFG_HALF_IE : Fld := ⟨0x7010C, 7, 7, 0x20, 0x0⟩
def BDG_CFG_CIRC : Fld := ⟨0x7010C, 6, 6, 0x20, 0x0⟩
def BDG_CFG_DST_INC : Fld := ⟨0x7010C, 5, 5, 0x20, 0x0⟩
def BDG_CFG_SRC_INC : Fld := ⟨0x7010C, 4, 4, 0x20, 0x0⟩
def BDG_CFG_REQ : Fld := ⟨0x7010C, 3, 1, 0x20, 0x0⟩
def BDG_CFG_EN : Fld := ⟨0x7010C, 0, 0, 0x20, 0x0⟩
/-- BDG_INT (17_telemetry_adc_and_dma). -/
def BDG_INT : Fld := ⟨0x70110, 31, 0, 0x20, 0x0⟩
def BDG_INT_STUCK_N : Fld := ⟨0x70110, 31, 16, 0x20, 0x0⟩
def BDG_INT_MIN_INT : Fld := ⟨0x70110, 15, 0, 0x20, 0x0⟩
/-- BDG_STAT (17_telemetry_adc_and_dma). -/
def BDG_STAT : Fld := ⟨0x7011C, 31, 0, 0x20, 0x0⟩
def BDG_STAT_ERR_CODE : Fld := ⟨0x7011C, 11, 10, 0x20, 0x0⟩
def BDG_STAT_HELD : Fld := ⟨0x7011C, 9, 9, 0x20, 0x0⟩
def BDG_STAT_BUSY : Fld := ⟨0x7011C, 8, 8, 0x20, 0x0⟩
def BDG_STAT_ERR : Fld := ⟨0x7011C, 5, 5, 0x20, 0x0⟩
def BDG_STAT_STUCK : Fld := ⟨0x7011C, 4, 4, 0x20, 0x0⟩
def BDG_STAT_TOO_FAST : Fld := ⟨0x7011C, 3, 3, 0x20, 0x0⟩
def BDG_STAT_DONE : Fld := ⟨0x7011C, 2, 2, 0x20, 0x0⟩
def BDG_STAT_FULL : Fld := ⟨0x7011C, 1, 1, 0x20, 0x0⟩
def BDG_STAT_HALF : Fld := ⟨0x7011C, 0, 0, 0x20, 0x0⟩
/-- CLK_STATUS (18_clocks_power_startup). -/
def CLK_STATUS : Fld := ⟨0x40000, 31, 0, 0x0, 0x0⟩
def CLK_STATUS_UNLOCK : Fld := ⟨0x40000, 3, 3, 0x0, 0x0⟩
def CLK_STATUS_REFCLK : Fld := ⟨0x40000, 2, 2, 0x0, 0x0⟩
def CLK_STATUS_PLL_LOCK : Fld := ⟨0x40000, 1, 1, 0x0, 0x0⟩
def CLK_STATUS_ROOT_OK : Fld := ⟨0x40000, 0, 0, 0x0, 0x0⟩
/-- CLK_PPM (18_clocks_power_startup). -/
def CLK_PPM : Fld := ⟨0x40004, 31, 0, 0x0, 0x0⟩
def CLK_PPM_PPM : Fld := ⟨0x40004, 15, 0, 0x0, 0x0⟩
/-- PWR_CTRL (18_clocks_power_startup). -/
def PWR_CTRL : Fld := ⟨0x50000, 31, 0, 0x0, 0x0⟩
def PWR_CTRL_THR_MASK : Fld := ⟨0x50000, 1, 1, 0x0, 0x0⟩
def PWR_CTRL_CAP_EN : Fld := ⟨0x50000, 0, 0, 0x0, 0x0⟩
/-- PWR_CAP (18_clocks_power_startup). -/
def PWR_CAP : Fld := ⟨0x50004, 31, 0, 0x0, 0x0⟩
def PWR_CAP_RELEASE : Fld := ⟨0x50004, 31, 16, 0x0, 0x0⟩
def PWR_CAP_LIMIT : Fld := ⟨0x50004, 15, 0, 0x0, 0x0⟩
/-- PWR_NOW (18_clocks_power_startup). -/
def PWR_NOW : Fld := ⟨0x50008, 31, 0, 0x0, 0x0⟩
def PWR_NOW_MEAN10 : Fld := ⟨0x50008, 15, 0, 0x0, 0x0⟩
/-- PWR_IN (18_clocks_power_startup). -/
def PWR_IN : Fld := ⟨0x5000C, 31, 0, 0x0, 0x0⟩
def PWR_IN_CODE : Fld := ⟨0x5000C, 31, 24, 0x0, 0x0⟩
def PWR_IN_TRIP : Fld := ⟨0x5000C, 5, 5, 0x0, 0x0⟩
def PWR_IN_MAIN_OV : Fld := ⟨0x5000C, 4, 4, 0x0, 0x0⟩
def PWR_IN_MAIN_UV : Fld := ⟨0x5000C, 3, 3, 0x0, 0x0⟩
def PWR_IN_MAIN_SHORT : Fld := ⟨0x5000C, 2, 2, 0x0, 0x0⟩
def PWR_IN_MAIN_REV : Fld := ⟨0x5000C, 1, 1, 0x0, 0x0⟩
def PWR_IN_MAIN_OK : Fld := ⟨0x5000C, 0, 0, 0x0, 0x0⟩
/-- PWR_THR (18_clocks_power_startup). -/
def PWR_THR : Fld := ⟨0x50010, 31, 0, 0x0, 0x0⟩
def PWR_THR_STUCK_MS : Fld := ⟨0x50010, 31, 16, 0x0, 0x0⟩
def PWR_THR_FILTERED : Fld := ⟨0x50010, 1, 1, 0x0, 0x0⟩
def PWR_THR_PIN : Fld := ⟨0x50010, 0, 0, 0x0, 0x0⟩
/-- PWR_THERM (18_clocks_power_startup). -/
def PWR_THERM : Fld := ⟨0x50014, 31, 0, 0x0, 0x0⟩
def PWR_THERM_THR : Fld := ⟨0x50014, 7, 0, 0x0, 0x0⟩
/-- PWR_STATUS (18_clocks_power_startup). -/
def PWR_STATUS : Fld := ⟨0x50018, 31, 0, 0x0, 0x0⟩
def PWR_STATUS_RST_REF : Fld := ⟨0x50018, 5, 5, 0x0, 0x0⟩
def PWR_STATUS_THR_STUCK : Fld := ⟨0x50018, 4, 4, 0x0, 0x0⟩
def PWR_STATUS_THR_TOGGLE : Fld := ⟨0x50018, 3, 3, 0x0, 0x0⟩
def PWR_STATUS_THERMAL : Fld := ⟨0x50018, 2, 2, 0x0, 0x0⟩
def PWR_STATUS_UV : Fld := ⟨0x50018, 1, 1, 0x0, 0x0⟩
def PWR_STATUS_CAP : Fld := ⟨0x50018, 0, 0, 0x0, 0x0⟩
/-- PWR_RST (18_clocks_power_startup). -/
def PWR_RST : Fld := ⟨0x5001C, 31, 0, 0x0, 0x0⟩
def PWR_RST_MODULE : Fld := ⟨0x5001C, 31, 31, 0x0, 0x0⟩
def PWR_RST_HUB : Fld := ⟨0x5001C, 30, 30, 0x0, 0x0⟩
def PWR_RST_DIE : Fld := ⟨0x5001C, 19, 16, 0x0, 0x0⟩
def PWR_RST_TILE : Fld := ⟨0x5001C, 15, 15, 0x0, 0x0⟩
def PWR_RST_PTILE : Fld := ⟨0x5001C, 6, 0, 0x0, 0x0⟩
/-- PWR_RST_CAUSE (18_clocks_power_startup). -/
def PWR_RST_CAUSE : Fld := ⟨0x50020, 31, 0, 0x0, 0x0⟩
def PWR_RST_CAUSE_CAUSE : Fld := ⟨0x50020, 3, 0, 0x0, 0x0⟩
/-- HIF_CPY_SRC (15_host_interface). -/
def HIF_CPY_SRC : Fld := ⟨0x100, 63, 0, 0x40, 0x0⟩
def HIF_CPY_SRC_ADDR : Fld := ⟨0x100, 63, 0, 0x40, 0x0⟩
/-- HIF_CPY_DST (15_host_interface). -/
def HIF_CPY_DST : Fld := ⟨0x108, 63, 0, 0x40, 0x0⟩
def HIF_CPY_DST_ADDR : Fld := ⟨0x108, 63, 0, 0x40, 0x0⟩
/-- TAD_LIM (17_telemetry_adc_and_dma). -/
def TAD_LIM : Fld := ⟨0x60180, 31, 0, 0x4, 0x0⟩
def TAD_LIM_HI : Fld := ⟨0x60180, 31, 16, 0x4, 0x0⟩
def TAD_LIM_LO : Fld := ⟨0x60180, 15, 0, 0x4, 0x0⟩
/-- TAD_OFS (17_telemetry_adc_and_dma). -/
def TAD_OFS : Fld := ⟨0x60400, 31, 0, 0x4, 0x0⟩
def TAD_OFS_OFS : Fld := ⟨0x60400, 15, 0, 0x4, 0x0⟩
/-- TAD_GAIN (17_telemetry_adc_and_dma). -/
def TAD_GAIN : Fld := ⟨0x60500, 31, 0, 0x4, 0x0⟩
def TAD_GAIN_GAIN : Fld := ⟨0x60500, 15, 0, 0x4, 0x0⟩
/-- TAD_OFS_INT (17_telemetry_adc_and_dma). -/
def TAD_OFS_INT : Fld := ⟨0x60440, 31, 0, 0x4, 0x0⟩
def TAD_OFS_INT_OFS : Fld := ⟨0x60440, 15, 0, 0x4, 0x0⟩
/-- TAD_GAIN_INT (17_telemetry_adc_and_dma). -/
def TAD_GAIN_INT : Fld := ⟨0x60540, 31, 0, 0x4, 0x0⟩
def TAD_GAIN_INT_GAIN : Fld := ⟨0x60540, 15, 0, 0x4, 0x0⟩
/-- BDG_SRC (17_telemetry_adc_and_dma). -/
def BDG_SRC : Fld := ⟨0x70100, 31, 0, 0x20, 0x0⟩
def BDG_SRC_ADDR : Fld := ⟨0x70100, 31, 0, 0x20, 0x0⟩
/-- BDG_DST (17_telemetry_adc_and_dma). -/
def BDG_DST : Fld := ⟨0x70104, 31, 0, 0x20, 0x0⟩
def BDG_DST_ADDR : Fld := ⟨0x70104, 31, 0, 0x20, 0x0⟩
/-- BDG_LEN (17_telemetry_adc_and_dma). -/
def BDG_LEN : Fld := ⟨0x70108, 31, 0, 0x20, 0x0⟩
def BDG_LEN_LEN : Fld := ⟨0x70108, 18, 0, 0x20, 0x0⟩
/-- BDG_POS (17_telemetry_adc_and_dma). -/
def BDG_POS : Fld := ⟨0x70114, 31, 0, 0x20, 0x0⟩
def BDG_POS_P : Fld := ⟨0x70114, 17, 0, 0x20, 0x0⟩
/-- BDG_RDPTR (17_telemetry_adc_and_dma). -/
def BDG_RDPTR : Fld := ⟨0x70118, 31, 0, 0x20, 0x0⟩
def BDG_RDPTR_INDEX : Fld := ⟨0x70118, 17, 0, 0x20, 0x0⟩
/-- SEC_VKEY (16_management_and_security). -/
def SEC_VKEY : Fld := ⟨0xC0040, 31, 0, 0x4, 0x0⟩
def SEC_VKEY_BYTES : Fld := ⟨0xC0040, 31, 0, 0x4, 0x0⟩
/-- SEC_OKEY (16_management_and_security). -/
def SEC_OKEY : Fld := ⟨0xC0080, 31, 0, 0x4, 0x0⟩
def SEC_OKEY_BYTES : Fld := ⟨0xC0080, 31, 0, 0x4, 0x0⟩
/-- SEC_ROOT (16_management_and_security). -/
def SEC_ROOT : Fld := ⟨0xC00C0, 31, 0, 0x4, 0x0⟩
def SEC_ROOT_BYTES : Fld := ⟨0xC00C0, 31, 0, 0x4, 0x0⟩
/-- SEC_MEAS (16_management_and_security). -/
def SEC_MEAS : Fld := ⟨0xC0100, 31, 0, 0x4, 0x0⟩
def SEC_MEAS_BYTES : Fld := ⟨0xC0100, 31, 0, 0x4, 0x0⟩
/-- ARR_MVM_CNT (03_analogue_arrays). -/
def ARR_MVM_CNT : Fld := ⟨0x10100, 31, 0, 0x1000, 0x0⟩
def ARR_MVM_CNT_COUNT : Fld := ⟨0x10100, 31, 0, 0x1000, 0x0⟩
/-- ARR_TMVM_CNT (03_analogue_arrays). -/
def ARR_TMVM_CNT : Fld := ⟨0x10104, 31, 0, 0x1000, 0x0⟩
def ARR_TMVM_CNT_COUNT : Fld := ⟨0x10104, 31, 0, 0x1000, 0x0⟩
/-- ARR_ZERO_SKIP (03_analogue_arrays). -/
def ARR_ZERO_SKIP : Fld := ⟨0x10108, 31, 0, 0x1000, 0x0⟩
def ARR_ZERO_SKIP_COUNT : Fld := ⟨0x10108, 31, 0, 0x1000, 0x0⟩
/-- ARR_PASS2_CNT (03_analogue_arrays). -/
def ARR_PASS2_CNT : Fld := ⟨0x1010C, 31, 0, 0x1000, 0x0⟩
def ARR_PASS2_CNT_COUNT : Fld := ⟨0x1010C, 31, 0, 0x1000, 0x0⟩
/-- ARR_PASS4_CNT (03_analogue_arrays). -/
def ARR_PASS4_CNT : Fld := ⟨0x10110, 31, 0, 0x1000, 0x0⟩
def ARR_PASS4_CNT_COUNT : Fld := ⟨0x10110, 31, 0, 0x1000, 0x0⟩
/-- ARR_WV_REWRITE (03_analogue_arrays). -/
def ARR_WV_REWRITE : Fld := ⟨0x10114, 31, 0, 0x1000, 0x0⟩
def ARR_WV_REWRITE_COUNT : Fld := ⟨0x10114, 31, 0, 0x1000, 0x0⟩
/-- ARR_WV_RESID (03_analogue_arrays). -/
def ARR_WV_RESID : Fld := ⟨0x10118, 31, 0, 0x1000, 0x0⟩
def ARR_WV_RESID_COUNT : Fld := ⟨0x10118, 31, 0, 0x1000, 0x0⟩
/-- ARR_SWAP_WAIT (03_analogue_arrays). -/
def ARR_SWAP_WAIT : Fld := ⟨0x1011C, 31, 0, 0x1000, 0x0⟩
def ARR_SWAP_WAIT_COUNT : Fld := ⟨0x1011C, 31, 0, 0x1000, 0x0⟩
/-- ARR_RFSH_CNT (03_analogue_arrays). -/
def ARR_RFSH_CNT : Fld := ⟨0x10120, 31, 0, 0x1000, 0x0⟩
def ARR_RFSH_CNT_COUNT : Fld := ⟨0x10120, 31, 0, 0x1000, 0x0⟩
/-- ARR_RFSH_WAIT (03_analogue_arrays). -/
def ARR_RFSH_WAIT : Fld := ⟨0x10124, 31, 0, 0x1000, 0x0⟩
def ARR_RFSH_WAIT_COUNT : Fld := ⟨0x10124, 31, 0, 0x1000, 0x0⟩
/-- ACC_PROMO_CNT (04_accumulation_and_error_control). -/
def ACC_PROMO_CNT : Fld := ⟨0x20100, 31, 0, 0x0, 0x0⟩
def ACC_PROMO_CNT_COUNT : Fld := ⟨0x20100, 31, 0, 0x0, 0x0⟩
/-- ACC_PROMO_FORCED (04_accumulation_and_error_control). -/
def ACC_PROMO_FORCED : Fld := ⟨0x20104, 31, 0, 0x0, 0x0⟩
def ACC_PROMO_FORCED_COUNT : Fld := ⟨0x20104, 31, 0, 0x0, 0x0⟩
/-- ACC_FINAL_SAT (04_accumulation_and_error_control). -/
def ACC_FINAL_SAT : Fld := ⟨0x20108, 31, 0, 0x0, 0x0⟩
def ACC_FINAL_SAT_COUNT : Fld := ⟨0x20108, 31, 0, 0x0, 0x0⟩
/-- ACC_XING_CNT (04_accumulation_and_error_control). -/
def ACC_XING_CNT : Fld := ⟨0x2010C, 31, 0, 0x0, 0x0⟩
def ACC_XING_CNT_COUNT : Fld := ⟨0x2010C, 31, 0, 0x0, 0x0⟩
/-- ACC_REPLAY_CNT (04_accumulation_and_error_control). -/
def ACC_REPLAY_CNT : Fld := ⟨0x20110, 31, 0, 0x0, 0x0⟩
def ACC_REPLAY_CNT_COUNT : Fld := ⟨0x20110, 31, 0, 0x0, 0x0⟩
/-- ACC_WIDE_RUN_CNT (04_accumulation_and_error_control). -/
def ACC_WIDE_RUN_CNT : Fld := ⟨0x20114, 31, 0, 0x0, 0x0⟩
def ACC_WIDE_RUN_CNT_COUNT : Fld := ⟨0x20114, 31, 0, 0x0, 0x0⟩
/-- ACC_WIDE_XING (04_accumulation_and_error_control). -/
def ACC_WIDE_XING : Fld := ⟨0x20118, 31, 0, 0x0, 0x0⟩
def ACC_WIDE_XING_COUNT : Fld := ⟨0x20118, 31, 0, 0x0, 0x0⟩
/-- ACC_HOLD_RUN (04_accumulation_and_error_control). -/
def ACC_HOLD_RUN : Fld := ⟨0x2011C, 31, 0, 0x0, 0x0⟩
def ACC_HOLD_RUN_COUNT : Fld := ⟨0x2011C, 31, 0, 0x0, 0x0⟩
/-- ACC_MARK_WAIT (04_accumulation_and_error_control). -/
def ACC_MARK_WAIT : Fld := ⟨0x20120, 31, 0, 0x0, 0x0⟩
def ACC_MARK_WAIT_COUNT : Fld := ⟨0x20120, 31, 0, 0x0, 0x0⟩
/-- ACC_RELOAD_CNT (04_accumulation_and_error_control). -/
def ACC_RELOAD_CNT : Fld := ⟨0x20124, 31, 0, 0x0, 0x0⟩
def ACC_RELOAD_CNT_COUNT : Fld := ⟨0x20124, 31, 0, 0x0, 0x0⟩
/-- FOX_IOUT_CNT (04_accumulation_and_error_control). -/
def FOX_IOUT_CNT : Fld := ⟨0x22100, 31, 0, 0x0, 0x0⟩
def FOX_IOUT_CNT_COUNT : Fld := ⟨0x22100, 31, 0, 0x0, 0x0⟩
/-- FOX_ICLIP_CNT (04_accumulation_and_error_control). -/
def FOX_ICLIP_CNT : Fld := ⟨0x22104, 31, 0, 0x0, 0x0⟩
def FOX_ICLIP_CNT_COUNT : Fld := ⟨0x22104, 31, 0, 0x0, 0x0⟩
/-- FOX_WOUT_CNT (04_accumulation_and_error_control). -/
def FOX_WOUT_CNT : Fld := ⟨0x22108, 31, 0, 0x0, 0x0⟩
def FOX_WOUT_CNT_COUNT : Fld := ⟨0x22108, 31, 0, 0x0, 0x0⟩
/-- FOX_WCLIP_CNT (04_accumulation_and_error_control). -/
def FOX_WCLIP_CNT : Fld := ⟨0x2210C, 31, 0, 0x0, 0x0⟩
def FOX_WCLIP_CNT_COUNT : Fld := ⟨0x2210C, 31, 0, 0x0, 0x0⟩
/-- FOX_ROWREAD_CNT (04_accumulation_and_error_control). -/
def FOX_ROWREAD_CNT : Fld := ⟨0x22110, 31, 0, 0x0, 0x0⟩
def FOX_ROWREAD_CNT_COUNT : Fld := ⟨0x22110, 31, 0, 0x0, 0x0⟩
/-- FOX_STALL (04_accumulation_and_error_control). -/
def FOX_STALL : Fld := ⟨0x22114, 31, 0, 0x0, 0x0⟩
def FOX_STALL_COUNT : Fld := ⟨0x22114, 31, 0, 0x0, 0x0⟩
/-- CAL_SWEEP_CNT (05_calibration_and_repair). -/
def CAL_SWEEP_CNT : Fld := ⟨0x24100, 31, 0, 0x0, 0x0⟩
def CAL_SWEEP_CNT_COUNT : Fld := ⟨0x24100, 31, 0, 0x0, 0x0⟩
/-- CAL_CMT_CNT (05_calibration_and_repair). -/
def CAL_CMT_CNT : Fld := ⟨0x24104, 31, 0, 0x0, 0x0⟩
def CAL_CMT_CNT_COUNT : Fld := ⟨0x24104, 31, 0, 0x0, 0x0⟩
/-- CAL_FIT_SKIP (05_calibration_and_repair). -/
def CAL_FIT_SKIP : Fld := ⟨0x24108, 31, 0, 0x0, 0x0⟩
def CAL_FIT_SKIP_COUNT : Fld := ⟨0x24108, 31, 0, 0x0, 0x0⟩
/-- CAL_FAIL_CNT (05_calibration_and_repair). -/
def CAL_FAIL_CNT : Fld := ⟨0x2410C, 31, 0, 0x0, 0x0⟩
def CAL_FAIL_CNT_COUNT : Fld := ⟨0x2410C, 31, 0, 0x0, 0x0⟩
/-- CAL_TRIM_LIM (05_calibration_and_repair). -/
def CAL_TRIM_LIM : Fld := ⟨0x24110, 31, 0, 0x0, 0x0⟩
def CAL_TRIM_LIM_COUNT : Fld := ⟨0x24110, 31, 0, 0x0, 0x0⟩
/-- CAL_SUB_DROP (05_calibration_and_repair). -/
def CAL_SUB_DROP : Fld := ⟨0x24114, 31, 0, 0x0, 0x0⟩
def CAL_SUB_DROP_COUNT : Fld := ⟨0x24114, 31, 0, 0x0, 0x0⟩
/-- CAL_HOLD_READ (05_calibration_and_repair). -/
def CAL_HOLD_READ : Fld := ⟨0x24118, 31, 0, 0x0, 0x0⟩
def CAL_HOLD_READ_COUNT : Fld := ⟨0x24118, 31, 0, 0x0, 0x0⟩
/-- CAL_WR_IGN (05_calibration_and_repair). -/
def CAL_WR_IGN : Fld := ⟨0x2411C, 31, 0, 0x0, 0x0⟩
def CAL_WR_IGN_COUNT : Fld := ⟨0x2411C, 31, 0, 0x0, 0x0⟩
/-- CAL_REMAP_CNT (05_calibration_and_repair). -/
def CAL_REMAP_CNT : Fld := ⟨0x24120, 31, 0, 0x0, 0x0⟩
def CAL_REMAP_CNT_COUNT : Fld := ⟨0x24120, 31, 0, 0x0, 0x0⟩
/-- TILE_SLIP_CNT (06_tile). -/
def TILE_SLIP_CNT : Fld := ⟨0x100, 31, 0, 0x0, 0x0⟩
def TILE_SLIP_CNT_COUNT : Fld := ⟨0x100, 31, 0, 0x0, 0x0⟩
/-- TILE_LAUNCH_LATE (06_tile). -/
def TILE_LAUNCH_LATE : Fld := ⟨0x104, 31, 0, 0x0, 0x0⟩
def TILE_LAUNCH_LATE_COUNT : Fld := ⟨0x104, 31, 0, 0x0, 0x0⟩
/-- TILE_THR_TC (06_tile). -/
def TILE_THR_TC : Fld := ⟨0x108, 31, 0, 0x0, 0x0⟩
def TILE_THR_TC_COUNT : Fld := ⟨0x108, 31, 0, 0x0, 0x0⟩
/-- TILE_WGB_ADD (06_tile). -/
def TILE_WGB_ADD : Fld := ⟨0x10C, 31, 0, 0x0, 0x0⟩
def TILE_WGB_ADD_COUNT : Fld := ⟨0x10C, 31, 0, 0x0, 0x0⟩
/-- TILE_WGB_SAT (06_tile). -/
def TILE_WGB_SAT : Fld := ⟨0x110, 31, 0, 0x0, 0x0⟩
def TILE_WGB_SAT_COUNT : Fld := ⟨0x110, 31, 0, 0x0, 0x0⟩
/-- SETT_HANDOVER_CNT (06_tile). -/
def SETT_HANDOVER_CNT : Fld := ⟨0x28100, 31, 0, 0x0, 0x0⟩
def SETT_HANDOVER_CNT_COUNT : Fld := ⟨0x28100, 31, 0, 0x0, 0x0⟩
/-- SETT_OWN_STALL (06_tile). -/
def SETT_OWN_STALL : Fld := ⟨0x28104, 31, 0, 0x0, 0x0⟩
def SETT_OWN_STALL_COUNT : Fld := ⟨0x28104, 31, 0, 0x0, 0x0⟩
/-- SETT_HOST_DENY (06_tile). -/
def SETT_HOST_DENY : Fld := ⟨0x28108, 31, 0, 0x0, 0x0⟩
def SETT_HOST_DENY_COUNT : Fld := ⟨0x28108, 31, 0, 0x0, 0x0⟩
/-- SETT_ALIAS_ERR (06_tile). -/
def SETT_ALIAS_ERR : Fld := ⟨0x2810C, 31, 0, 0x0, 0x0⟩
def SETT_ALIAS_ERR_COUNT : Fld := ⟨0x2810C, 31, 0, 0x0, 0x0⟩
/-- SETT_DP_COLL (06_tile). -/
def SETT_DP_COLL : Fld := ⟨0x28110, 31, 0, 0x0, 0x0⟩
def SETT_DP_COLL_COUNT : Fld := ⟨0x28110, 31, 0, 0x0, 0x0⟩
/-- DME_OP_CNT (06_tile). -/
def DME_OP_CNT : Fld := ⟨0x30100, 31, 0, 0x0, 0x0⟩
def DME_OP_CNT_COUNT : Fld := ⟨0x30100, 31, 0, 0x0, 0x0⟩
/-- DME_BUSY_TC (06_tile). -/
def DME_BUSY_TC : Fld := ⟨0x30104, 31, 0, 0x0, 0x0⟩
def DME_BUSY_TC_COUNT : Fld := ⟨0x30104, 31, 0, 0x0, 0x0⟩
/-- DME_FREEZE_FEED (06_tile). -/
def DME_FREEZE_FEED : Fld := ⟨0x30108, 31, 0, 0x0, 0x0⟩
def DME_FREEZE_FEED_COUNT : Fld := ⟨0x30108, 31, 0, 0x0, 0x0⟩
/-- DME_FREEZE_DRAIN (06_tile). -/
def DME_FREEZE_DRAIN : Fld := ⟨0x3010C, 31, 0, 0x0, 0x0⟩
def DME_FREEZE_DRAIN_COUNT : Fld := ⟨0x3010C, 31, 0, 0x0, 0x0⟩
/-- DME_RAMP_TC (06_tile). -/
def DME_RAMP_TC : Fld := ⟨0x30110, 31, 0, 0x0, 0x0⟩
def DME_RAMP_TC_COUNT : Fld := ⟨0x30110, 31, 0, 0x0, 0x0⟩
/-- DME_CAL_TC (06_tile). -/
def DME_CAL_TC : Fld := ⟨0x30114, 31, 0, 0x0, 0x0⟩
def DME_CAL_TC_COUNT : Fld := ⟨0x30114, 31, 0, 0x0, 0x0⟩
/-- VU_DISP_CNT (07_vector_unit). -/
def VU_DISP_CNT : Fld := ⟨0x34100, 31, 0, 0x0, 0x0⟩
def VU_DISP_CNT_COUNT : Fld := ⟨0x34100, 31, 0, 0x0, 0x0⟩
/-- VU_INSN_CNT (07_vector_unit). -/
def VU_INSN_CNT : Fld := ⟨0x34104, 31, 0, 0x0, 0x0⟩
def VU_INSN_CNT_COUNT : Fld := ⟨0x34104, 31, 0, 0x0, 0x0⟩
/-- VU_BUSY_TC (07_vector_unit). -/
def VU_BUSY_TC : Fld := ⟨0x34108, 31, 0, 0x0, 0x0⟩
def VU_BUSY_TC_COUNT : Fld := ⟨0x34108, 31, 0, 0x0, 0x0⟩
/-- VU_LDST_WAIT (07_vector_unit). -/
def VU_LDST_WAIT : Fld := ⟨0x3410C, 31, 0, 0x0, 0x0⟩
def VU_LDST_WAIT_COUNT : Fld := ⟨0x3410C, 31, 0, 0x0, 0x0⟩
/-- VU_FAULT_CNT (07_vector_unit). -/
def VU_FAULT_CNT : Fld := ⟨0x34110, 31, 0, 0x0, 0x0⟩
def VU_FAULT_CNT_COUNT : Fld := ⟨0x34110, 31, 0, 0x0, 0x0⟩
/-- VU_LOAD_CNT (07_vector_unit). -/
def VU_LOAD_CNT : Fld := ⟨0x34114, 31, 0, 0x0, 0x0⟩
def VU_LOAD_CNT_COUNT : Fld := ⟨0x34114, 31, 0, 0x0, 0x0⟩
/-- TILE_CMD_CNT (09_command_streams). -/
def TILE_CMD_CNT : Fld := ⟨0x114, 31, 0, 0x0, 0x0⟩
def TILE_CMD_CNT_COUNT : Fld := ⟨0x114, 31, 0, 0x0, 0x0⟩
/-- TILE_CRC_RETRY (09_command_streams). -/
def TILE_CRC_RETRY : Fld := ⟨0x118, 31, 0, 0x0, 0x0⟩
def TILE_CRC_RETRY_COUNT : Fld := ⟨0x118, 31, 0, 0x0, 0x0⟩
/-- TILE_CMD_FAIL (09_command_streams). -/
def TILE_CMD_FAIL : Fld := ⟨0x11C, 31, 0, 0x0, 0x0⟩
def TILE_CMD_FAIL_COUNT : Fld := ⟨0x11C, 31, 0, 0x0, 0x0⟩
/-- TILE_WAIT_TC (09_command_streams). -/
def TILE_WAIT_TC : Fld := ⟨0x120, 31, 0, 0x0, 0x0⟩
def TILE_WAIT_TC_COUNT : Fld := ⟨0x120, 31, 0, 0x0, 0x0⟩
/-- TILE_LONG_CNT (09_command_streams). -/
def TILE_LONG_CNT : Fld := ⟨0x124, 31, 0, 0x0, 0x0⟩
def TILE_LONG_CNT_COUNT : Fld := ⟨0x124, 31, 0, 0x0, 0x0⟩
/-- STR_RD_REQ (10_memory_system). -/
def STR_RD_REQ : Fld := ⟨0x38100, 31, 0, 0x0, 0x0⟩
def STR_RD_REQ_COUNT : Fld := ⟨0x38100, 31, 0, 0x0, 0x0⟩
/-- STR_WR_REQ (10_memory_system). -/
def STR_WR_REQ : Fld := ⟨0x38104, 31, 0, 0x0, 0x0⟩
def STR_WR_REQ_COUNT : Fld := ⟨0x38104, 31, 0, 0x0, 0x0⟩
/-- STR_SPLIT_CNT (10_memory_system). -/
def STR_SPLIT_CNT : Fld := ⟨0x38108, 31, 0, 0x0, 0x0⟩
def STR_SPLIT_CNT_COUNT : Fld := ⟨0x38108, 31, 0, 0x0, 0x0⟩
/-- STR_STALL_MEM (10_memory_system). -/
def STR_STALL_MEM : Fld := ⟨0x3810C, 31, 0, 0x0, 0x0⟩
def STR_STALL_MEM_COUNT : Fld := ⟨0x3810C, 31, 0, 0x0, 0x0⟩
/-- STR_STALL_BANKCAP (10_memory_system). -/
def STR_STALL_BANKCAP : Fld := ⟨0x38110, 31, 0, 0x0, 0x0⟩
def STR_STALL_BANKCAP_COUNT : Fld := ⟨0x38110, 31, 0, 0x0, 0x0⟩
/-- STR_STALL_FEED (10_memory_system). -/
def STR_STALL_FEED : Fld := ⟨0x38114, 31, 0, 0x0, 0x0⟩
def STR_STALL_FEED_COUNT : Fld := ⟨0x38114, 31, 0, 0x0, 0x0⟩
/-- STR_STALL_DRAIN (10_memory_system). -/
def STR_STALL_DRAIN : Fld := ⟨0x38118, 31, 0, 0x0, 0x0⟩
def STR_STALL_DRAIN_COUNT : Fld := ⟨0x38118, 31, 0, 0x0, 0x0⟩
/-- STR_STALL_FENCE (10_memory_system). -/
def STR_STALL_FENCE : Fld := ⟨0x3811C, 31, 0, 0x0, 0x0⟩
def STR_STALL_FENCE_COUNT : Fld := ⟨0x3811C, 31, 0, 0x0, 0x0⟩
/-- STR_STALL_OWN (10_memory_system). -/
def STR_STALL_OWN : Fld := ⟨0x38120, 31, 0, 0x0, 0x0⟩
def STR_STALL_OWN_COUNT : Fld := ⟨0x38120, 31, 0, 0x0, 0x0⟩
/-- STR_STALL_REPLAY (10_memory_system). -/
def STR_STALL_REPLAY : Fld := ⟨0x38124, 31, 0, 0x0, 0x0⟩
def STR_STALL_REPLAY_COUNT : Fld := ⟨0x38124, 31, 0, 0x0, 0x0⟩
/-- STR_PF_ISSUED (10_memory_system). -/
def STR_PF_ISSUED : Fld := ⟨0x38128, 31, 0, 0x0, 0x0⟩
def STR_PF_ISSUED_COUNT : Fld := ⟨0x38128, 31, 0, 0x0, 0x0⟩
/-- STR_PF_USED (10_memory_system). -/
def STR_PF_USED : Fld := ⟨0x3812C, 31, 0, 0x0, 0x0⟩
def STR_PF_USED_COUNT : Fld := ⟨0x3812C, 31, 0, 0x0, 0x0⟩
/-- STR_PF_STALE (10_memory_system). -/
def STR_PF_STALE : Fld := ⟨0x38130, 31, 0, 0x0, 0x0⟩
def STR_PF_STALE_COUNT : Fld := ⟨0x38130, 31, 0, 0x0, 0x0⟩
/-- STR_PF_LATE (10_memory_system). -/
def STR_PF_LATE : Fld := ⟨0x38134, 31, 0, 0x0, 0x0⟩
def STR_PF_LATE_COUNT : Fld := ⟨0x38134, 31, 0, 0x0, 0x0⟩
/-- STR_PF_UNUSED (10_memory_system). -/
def STR_PF_UNUSED : Fld := ⟨0x38138, 31, 0, 0x0, 0x0⟩
def STR_PF_UNUSED_COUNT : Fld := ⟨0x38138, 31, 0, 0x0, 0x0⟩
/-- MC_RD_CNT (10_memory_system). -/
def MC_RD_CNT : Fld := ⟨0x100, 31, 0, 0x0, 0x0⟩
def MC_RD_CNT_COUNT : Fld := ⟨0x100, 31, 0, 0x0, 0x0⟩
/-- MC_WR_CNT (10_memory_system). -/
def MC_WR_CNT : Fld := ⟨0x104, 31, 0, 0x0, 0x0⟩
def MC_WR_CNT_COUNT : Fld := ⟨0x104, 31, 0, 0x0, 0x0⟩
/-- MC_MERGE_CNT (10_memory_system). -/
def MC_MERGE_CNT : Fld := ⟨0x108, 31, 0, 0x0, 0x0⟩
def MC_MERGE_CNT_COUNT : Fld := ⟨0x108, 31, 0, 0x0, 0x0⟩
/-- MC_ROW_HIT (10_memory_system). -/
def MC_ROW_HIT : Fld := ⟨0x10C, 31, 0, 0x0, 0x0⟩
def MC_ROW_HIT_COUNT : Fld := ⟨0x10C, 31, 0, 0x0, 0x0⟩
/-- MC_ROW_MISS (10_memory_system). -/
def MC_ROW_MISS : Fld := ⟨0x110, 31, 0, 0x0, 0x0⟩
def MC_ROW_MISS_COUNT : Fld := ⟨0x110, 31, 0, 0x0, 0x0⟩
/-- MC_AGE_FORCE (10_memory_system). -/
def MC_AGE_FORCE : Fld := ⟨0x114, 31, 0, 0x0, 0x0⟩
def MC_AGE_FORCE_COUNT : Fld := ⟨0x114, 31, 0, 0x0, 0x0⟩
/-- MC_QFULL_TC (10_memory_system). -/
def MC_QFULL_TC : Fld := ⟨0x118, 31, 0, 0x0, 0x0⟩
def MC_QFULL_TC_COUNT : Fld := ⟨0x118, 31, 0, 0x0, 0x0⟩
/-- MC_PROBE_CNT (10_memory_system). -/
def MC_PROBE_CNT : Fld := ⟨0x11C, 31, 0, 0x0, 0x0⟩
def MC_PROBE_CNT_COUNT : Fld := ⟨0x11C, 31, 0, 0x0, 0x0⟩
/-- MC_ECC_CORR (10_memory_system). -/
def MC_ECC_CORR : Fld := ⟨0x120, 31, 0, 0x0, 0x0⟩
def MC_ECC_CORR_COUNT : Fld := ⟨0x120, 31, 0, 0x0, 0x0⟩
/-- MC_ECC_UNCORR (10_memory_system). -/
def MC_ECC_UNCORR : Fld := ⟨0x124, 31, 0, 0x0, 0x0⟩
def MC_ECC_UNCORR_COUNT : Fld := ⟨0x124, 31, 0, 0x0, 0x0⟩
/-- MRT_UPD_CNT (11_marten_update_unit). -/
def MRT_UPD_CNT : Fld := ⟨0x8100, 31, 0, 0x0, 0x0⟩
def MRT_UPD_CNT_COUNT : Fld := ⟨0x8100, 31, 0, 0x0, 0x0⟩
/-- MRT_BLK_CNT (11_marten_update_unit). -/
def MRT_BLK_CNT : Fld := ⟨0x8104, 31, 0, 0x0, 0x0⟩
def MRT_BLK_CNT_COUNT : Fld := ⟨0x8104, 31, 0, 0x0, 0x0⟩
/-- MRT_RESTAMP (11_marten_update_unit). -/
def MRT_RESTAMP : Fld := ⟨0x8108, 31, 0, 0x0, 0x0⟩
def MRT_RESTAMP_COUNT : Fld := ⟨0x8108, 31, 0, 0x0, 0x0⟩
/-- MRT_BUSY_MC (11_marten_update_unit). -/
def MRT_BUSY_MC : Fld := ⟨0x810C, 31, 0, 0x0, 0x0⟩
def MRT_BUSY_MC_COUNT : Fld := ⟨0x810C, 31, 0, 0x0, 0x0⟩
/-- MRT_RES_RETRY (11_marten_update_unit). -/
def MRT_RES_RETRY : Fld := ⟨0x8110, 31, 0, 0x0, 0x0⟩
def MRT_RES_RETRY_COUNT : Fld := ⟨0x8110, 31, 0, 0x0, 0x0⟩
/-- MRT_FAIL_CNT (11_marten_update_unit). -/
def MRT_FAIL_CNT : Fld := ⟨0x8114, 31, 0, 0x0, 0x0⟩
def MRT_FAIL_CNT_COUNT : Fld := ⟨0x8114, 31, 0, 0x0, 0x0⟩
/-- MRT_NAN_BLK (11_marten_update_unit). -/
def MRT_NAN_BLK : Fld := ⟨0x8118, 31, 0, 0x0, 0x0⟩
def MRT_NAN_BLK_COUNT : Fld := ⟨0x8118, 31, 0, 0x0, 0x0⟩
/-- MRT_OUT_KEPT (11_marten_update_unit). -/
def MRT_OUT_KEPT : Fld := ⟨0x811C, 31, 0, 0x0, 0x0⟩
def MRT_OUT_KEPT_COUNT : Fld := ⟨0x811C, 31, 0, 0x0, 0x0⟩
/-- MRT_OUT_DROP (11_marten_update_unit). -/
def MRT_OUT_DROP : Fld := ⟨0x8120, 31, 0, 0x0, 0x0⟩
def MRT_OUT_DROP_COUNT : Fld := ⟨0x8120, 31, 0, 0x0, 0x0⟩
/-- MRT_REARM_CNT (11_marten_update_unit). -/
def MRT_REARM_CNT : Fld := ⟨0x8124, 31, 0, 0x0, 0x0⟩
def MRT_REARM_CNT_COUNT : Fld := ⟨0x8124, 31, 0, 0x0, 0x0⟩
/-- MC_ACC_PKT (11_marten_update_unit). -/
def MC_ACC_PKT : Fld := ⟨0x900, 31, 0, 0x0, 0x0⟩
def MC_ACC_PKT_COUNT : Fld := ⟨0x900, 31, 0, 0x0, 0x0⟩
/-- MC_ACC_ELEM (11_marten_update_unit). -/
def MC_ACC_ELEM : Fld := ⟨0x904, 31, 0, 0x0, 0x0⟩
def MC_ACC_ELEM_COUNT : Fld := ⟨0x904, 31, 0, 0x0, 0x0⟩
/-- MC_ACC_INIT (11_marten_update_unit). -/
def MC_ACC_INIT : Fld := ⟨0x908, 31, 0, 0x0, 0x0⟩
def MC_ACC_INIT_COUNT : Fld := ⟨0x908, 31, 0, 0x0, 0x0⟩
/-- MC_ACC_REBIAS (11_marten_update_unit). -/
def MC_ACC_REBIAS : Fld := ⟨0x90C, 31, 0, 0x0, 0x0⟩
def MC_ACC_REBIAS_COUNT : Fld := ⟨0x90C, 31, 0, 0x0, 0x0⟩
/-- MC_ACC_HOLD_MC (11_marten_update_unit). -/
def MC_ACC_HOLD_MC : Fld := ⟨0x910, 31, 0, 0x0, 0x0⟩
def MC_ACC_HOLD_MC_COUNT : Fld := ⟨0x910, 31, 0, 0x0, 0x0⟩
/-- MC_ACC_RANGE (11_marten_update_unit). -/
def MC_ACC_RANGE : Fld := ⟨0x914, 31, 0, 0x0, 0x0⟩
def MC_ACC_RANGE_COUNT : Fld := ⟨0x914, 31, 0, 0x0, 0x0⟩
/-- MC_ACC_RES_RETRY (11_marten_update_unit). -/
def MC_ACC_RES_RETRY : Fld := ⟨0x918, 31, 0, 0x0, 0x0⟩
def MC_ACC_RES_RETRY_COUNT : Fld := ⟨0x918, 31, 0, 0x0, 0x0⟩
/-- MC_ACC_RES_FAIL (11_marten_update_unit). -/
def MC_ACC_RES_FAIL : Fld := ⟨0x91C, 31, 0, 0x0, 0x0⟩
def MC_ACC_RES_FAIL_COUNT : Fld := ⟨0x91C, 31, 0, 0x0, 0x0⟩
/-- PL_TX_FLIT (12_peer_links). -/
def PL_TX_FLIT : Fld := ⟨0x100, 31, 0, 0x0, 0x0⟩
def PL_TX_FLIT_COUNT : Fld := ⟨0x100, 31, 0, 0x0, 0x0⟩
/-- PL_RX_FLIT (12_peer_links). -/
def PL_RX_FLIT : Fld := ⟨0x104, 31, 0, 0x0, 0x0⟩
def PL_RX_FLIT_COUNT : Fld := ⟨0x104, 31, 0, 0x0, 0x0⟩
/-- PL_FEC_CORR (12_peer_links). -/
def PL_FEC_CORR : Fld := ⟨0x108, 31, 0, 0x0, 0x0⟩
def PL_FEC_CORR_COUNT : Fld := ⟨0x108, 31, 0, 0x0, 0x0⟩
/-- PL_FEC_UNCORR (12_peer_links). -/
def PL_FEC_UNCORR : Fld := ⟨0x10C, 31, 0, 0x0, 0x0⟩
def PL_FEC_UNCORR_COUNT : Fld := ⟨0x10C, 31, 0, 0x0, 0x0⟩
/-- PL_CRC_ERR (12_peer_links). -/
def PL_CRC_ERR : Fld := ⟨0x110, 31, 0, 0x0, 0x0⟩
def PL_CRC_ERR_COUNT : Fld := ⟨0x110, 31, 0, 0x0, 0x0⟩
/-- PL_REPLAY_CNT (12_peer_links). -/
def PL_REPLAY_CNT : Fld := ⟨0x114, 31, 0, 0x0, 0x0⟩
def PL_REPLAY_CNT_COUNT : Fld := ⟨0x114, 31, 0, 0x0, 0x0⟩
/-- PL_REPLAY_FLIT (12_peer_links). -/
def PL_REPLAY_FLIT : Fld := ⟨0x118, 31, 0, 0x0, 0x0⟩
def PL_REPLAY_FLIT_COUNT : Fld := ⟨0x118, 31, 0, 0x0, 0x0⟩
/-- PL_ACK_TO_CNT (12_peer_links). -/
def PL_ACK_TO_CNT : Fld := ⟨0x11C, 31, 0, 0x0, 0x0⟩
def PL_ACK_TO_CNT_COUNT : Fld := ⟨0x11C, 31, 0, 0x0, 0x0⟩
/-- PL_WIN_STALL (12_peer_links). -/
def PL_WIN_STALL : Fld := ⟨0x120, 31, 0, 0x0, 0x0⟩
def PL_WIN_STALL_COUNT : Fld := ⟨0x120, 31, 0, 0x0, 0x0⟩
/-- PL_RETRAIN_CNT (12_peer_links). -/
def PL_RETRAIN_CNT : Fld := ⟨0x124, 31, 0, 0x0, 0x0⟩
def PL_RETRAIN_CNT_COUNT : Fld := ⟨0x124, 31, 0, 0x0, 0x0⟩
/-- PL_DOWN_CNT (12_peer_links). -/
def PL_DOWN_CNT : Fld := ⟨0x128, 31, 0, 0x0, 0x0⟩
def PL_DOWN_CNT_COUNT : Fld := ⟨0x128, 31, 0, 0x0, 0x0⟩
/-- PL_LOST_PKT (12_peer_links). -/
def PL_LOST_PKT : Fld := ⟨0x12C, 31, 0, 0x0, 0x0⟩
def PL_LOST_PKT_COUNT : Fld := ⟨0x12C, 31, 0, 0x0, 0x0⟩
/-- PL_TAG_REJ (12_peer_links). -/
def PL_TAG_REJ : Fld := ⟨0x130, 31, 0, 0x0, 0x0⟩
def PL_TAG_REJ_COUNT : Fld := ⟨0x130, 31, 0, 0x0, 0x0⟩
/-- PL_PCRC_ERR (12_peer_links). -/
def PL_PCRC_ERR : Fld := ⟨0x134, 31, 0, 0x0, 0x0⟩
def PL_PCRC_ERR_COUNT : Fld := ⟨0x134, 31, 0, 0x0, 0x0⟩
/-- PL_DROP_ROUTE (12_peer_links). -/
def PL_DROP_ROUTE : Fld := ⟨0x138, 31, 0, 0x0, 0x0⟩
def PL_DROP_ROUTE_COUNT : Fld := ⟨0x138, 31, 0, 0x0, 0x0⟩
/-- PL_TREE_DROP (12_peer_links). -/
def PL_TREE_DROP : Fld := ⟨0x13C, 31, 0, 0x0, 0x0⟩
def PL_TREE_DROP_COUNT : Fld := ⟨0x13C, 31, 0, 0x0, 0x0⟩
/-- PL_HOP_DROP (12_peer_links). -/
def PL_HOP_DROP : Fld := ⟨0x140, 31, 0, 0x0, 0x0⟩
def PL_HOP_DROP_COUNT : Fld := ⟨0x140, 31, 0, 0x0, 0x0⟩
/-- PL_PKT_ERR (12_peer_links). -/
def PL_PKT_ERR : Fld := ⟨0x144, 31, 0, 0x0, 0x0⟩
def PL_PKT_ERR_COUNT : Fld := ⟨0x144, 31, 0, 0x0, 0x0⟩
/-- PL_CRD_STALL (12_peer_links). -/
def PL_CRD_STALL : Fld := ⟨0x148, 31, 0, 0x4, 0x0⟩
def PL_CRD_STALL_COUNT : Fld := ⟨0x148, 31, 0, 0x4, 0x0⟩
/-- PL_ALT_CNT (12_peer_links). -/
def PL_ALT_CNT : Fld := ⟨0x158, 31, 0, 0x0, 0x0⟩
def PL_ALT_CNT_COUNT : Fld := ⟨0x158, 31, 0, 0x0, 0x0⟩
/-- PL_QUAR_CNT (12_peer_links). -/
def PL_QUAR_CNT : Fld := ⟨0x15C, 31, 0, 0x0, 0x0⟩
def PL_QUAR_CNT_COUNT : Fld := ⟨0x15C, 31, 0, 0x0, 0x0⟩
/-- XCH_ACC_RX (13_gradient_exchange). -/
def XCH_ACC_RX : Fld := ⟨0xA0100, 31, 0, 0x0, 0x0⟩
def XCH_ACC_RX_COUNT : Fld := ⟨0xA0100, 31, 0, 0x0, 0x0⟩
/-- XCH_CLOSE_RX (13_gradient_exchange). -/
def XCH_CLOSE_RX : Fld := ⟨0xA0104, 31, 0, 0x0, 0x0⟩
def XCH_CLOSE_RX_COUNT : Fld := ⟨0xA0104, 31, 0, 0x0, 0x0⟩
/-- XCH_LATE_DROP (13_gradient_exchange). -/
def XCH_LATE_DROP : Fld := ⟨0xA0108, 31, 0, 0x0, 0x0⟩
def XCH_LATE_DROP_COUNT : Fld := ⟨0xA0108, 31, 0, 0x0, 0x0⟩
/-- XCH_LATE_CARRY (13_gradient_exchange). -/
def XCH_LATE_CARRY : Fld := ⟨0xA010C, 31, 0, 0x0, 0x0⟩
def XCH_LATE_CARRY_COUNT : Fld := ⟨0xA010C, 31, 0, 0x0, 0x0⟩
/-- XCH_STALE_DROP (13_gradient_exchange). -/
def XCH_STALE_DROP : Fld := ⟨0xA0110, 31, 0, 0x0, 0x0⟩
def XCH_STALE_DROP_COUNT : Fld := ⟨0xA0110, 31, 0, 0x0, 0x0⟩
/-- XCH_FUTURE_DROP (13_gradient_exchange). -/
def XCH_FUTURE_DROP : Fld := ⟨0xA0114, 31, 0, 0x0, 0x0⟩
def XCH_FUTURE_DROP_COUNT : Fld := ⟨0xA0114, 31, 0, 0x0, 0x0⟩
/-- XCH_NOT_CONTRIB (13_gradient_exchange). -/
def XCH_NOT_CONTRIB : Fld := ⟨0xA0118, 31, 0, 0x0, 0x0⟩
def XCH_NOT_CONTRIB_COUNT : Fld := ⟨0xA0118, 31, 0, 0x0, 0x0⟩
/-- XCH_DUP_CLOSE (13_gradient_exchange). -/
def XCH_DUP_CLOSE : Fld := ⟨0xA011C, 31, 0, 0x0, 0x0⟩
def XCH_DUP_CLOSE_COUNT : Fld := ⟨0xA011C, 31, 0, 0x0, 0x0⟩
/-- XCH_INCOMPLETE (13_gradient_exchange). -/
def XCH_INCOMPLETE : Fld := ⟨0xA0120, 31, 0, 0x0, 0x0⟩
def XCH_INCOMPLETE_COUNT : Fld := ⟨0xA0120, 31, 0, 0x0, 0x0⟩
/-- XCH_CLOSE_FULL (13_gradient_exchange). -/
def XCH_CLOSE_FULL : Fld := ⟨0xA0124, 31, 0, 0x0, 0x0⟩
def XCH_CLOSE_FULL_COUNT : Fld := ⟨0xA0124, 31, 0, 0x0, 0x0⟩
/-- XCH_CLOSE_PARTIAL (13_gradient_exchange). -/
def XCH_CLOSE_PARTIAL : Fld := ⟨0xA0128, 31, 0, 0x0, 0x0⟩
def XCH_CLOSE_PARTIAL_COUNT : Fld := ⟨0xA0128, 31, 0, 0x0, 0x0⟩
/-- XCH_CLOSE_SHORT (13_gradient_exchange). -/
def XCH_CLOSE_SHORT : Fld := ⟨0xA012C, 31, 0, 0x0, 0x0⟩
def XCH_CLOSE_SHORT_COUNT : Fld := ⟨0xA012C, 31, 0, 0x0, 0x0⟩
/-- XCH_EXTEND (13_gradient_exchange). -/
def XCH_EXTEND : Fld := ⟨0xA0130, 31, 0, 0x0, 0x0⟩
def XCH_EXTEND_COUNT : Fld := ⟨0xA0130, 31, 0, 0x0, 0x0⟩
/-- XCH_SAMPLE_SAT (13_gradient_exchange). -/
def XCH_SAMPLE_SAT : Fld := ⟨0xA0134, 31, 0, 0x0, 0x0⟩
def XCH_SAMPLE_SAT_COUNT : Fld := ⟨0xA0134, 31, 0, 0x0, 0x0⟩
/-- XCH_BC_TX (13_gradient_exchange). -/
def XCH_BC_TX : Fld := ⟨0xA0138, 31, 0, 0x0, 0x0⟩
def XCH_BC_TX_COUNT : Fld := ⟨0xA0138, 31, 0, 0x0, 0x0⟩
/-- XCH_BC_RX (13_gradient_exchange). -/
def XCH_BC_RX : Fld := ⟨0xA013C, 31, 0, 0x0, 0x0⟩
def XCH_BC_RX_COUNT : Fld := ⟨0xA013C, 31, 0, 0x0, 0x0⟩
/-- XCH_BC_BAD (13_gradient_exchange). -/
def XCH_BC_BAD : Fld := ⟨0xA0140, 31, 0, 0x0, 0x0⟩
def XCH_BC_BAD_COUNT : Fld := ⟨0xA0140, 31, 0, 0x0, 0x0⟩
/-- XCH_BC_DUP (13_gradient_exchange). -/
def XCH_BC_DUP : Fld := ⟨0xA0144, 31, 0, 0x0, 0x0⟩
def XCH_BC_DUP_COUNT : Fld := ⟨0xA0144, 31, 0, 0x0, 0x0⟩
/-- XCH_RESEND_REQ (13_gradient_exchange). -/
def XCH_RESEND_REQ : Fld := ⟨0xA0148, 31, 0, 0x0, 0x0⟩
def XCH_RESEND_REQ_COUNT : Fld := ⟨0xA0148, 31, 0, 0x0, 0x0⟩
/-- XCH_RESEND_FAIL (13_gradient_exchange). -/
def XCH_RESEND_FAIL : Fld := ⟨0xA014C, 31, 0, 0x0, 0x0⟩
def XCH_RESEND_FAIL_COUNT : Fld := ⟨0xA014C, 31, 0, 0x0, 0x0⟩
/-- XCH_COMMIT_CNT (13_gradient_exchange). -/
def XCH_COMMIT_CNT : Fld := ⟨0xA0150, 31, 0, 0x0, 0x0⟩
def XCH_COMMIT_CNT_COUNT : Fld := ⟨0xA0150, 31, 0, 0x0, 0x0⟩
/-- XCH_OVERRUN (13_gradient_exchange). -/
def XCH_OVERRUN : Fld := ⟨0xA0154, 31, 0, 0x0, 0x0⟩
def XCH_OVERRUN_COUNT : Fld := ⟨0xA0154, 31, 0, 0x0, 0x0⟩
/-- XCH_TORN_RETRY (13_gradient_exchange). -/
def XCH_TORN_RETRY : Fld := ⟨0xA0158, 31, 0, 0x0, 0x0⟩
def XCH_TORN_RETRY_COUNT : Fld := ⟨0xA0158, 31, 0, 0x0, 0x0⟩
/-- XCH_TORN_FAIL (13_gradient_exchange). -/
def XCH_TORN_FAIL : Fld := ⟨0xA015C, 31, 0, 0x0, 0x0⟩
def XCH_TORN_FAIL_COUNT : Fld := ⟨0xA015C, 31, 0, 0x0, 0x0⟩
/-- XCH_NO_BUCKET (13_gradient_exchange). -/
def XCH_NO_BUCKET : Fld := ⟨0xA0160, 31, 0, 0x0, 0x0⟩
def XCH_NO_BUCKET_COUNT : Fld := ⟨0xA0160, 31, 0, 0x0, 0x0⟩
/-- XCH_ROUTE_DROP (13_gradient_exchange). -/
def XCH_ROUTE_DROP : Fld := ⟨0xA0164, 31, 0, 0x0, 0x0⟩
def XCH_ROUTE_DROP_COUNT : Fld := ⟨0xA0164, 31, 0, 0x0, 0x0⟩
/-- XCH_NOT_OWNED (13_gradient_exchange). -/
def XCH_NOT_OWNED : Fld := ⟨0xA0168, 31, 0, 0x0, 0x0⟩
def XCH_NOT_OWNED_COUNT : Fld := ⟨0xA0168, 31, 0, 0x0, 0x0⟩
/-- OWL_REC_CNT (14_integrity_and_faults). -/
def OWL_REC_CNT : Fld := ⟨0x90100, 31, 0, 0x0, 0x0⟩
def OWL_REC_CNT_COUNT : Fld := ⟨0x90100, 31, 0, 0x0, 0x0⟩
/-- OWL_TX_CNT (14_integrity_and_faults). -/
def OWL_TX_CNT : Fld := ⟨0x90104, 31, 0, 0x0, 0x0⟩
def OWL_TX_CNT_COUNT : Fld := ⟨0x90104, 31, 0, 0x0, 0x0⟩
/-- OWL_DROP_RATE (14_integrity_and_faults). -/
def OWL_DROP_RATE : Fld := ⟨0x90108, 31, 0, 0x0, 0x0⟩
def OWL_DROP_RATE_COUNT : Fld := ⟨0x90108, 31, 0, 0x0, 0x0⟩
/-- OWL_DROP_FIFO (14_integrity_and_faults). -/
def OWL_DROP_FIFO : Fld := ⟨0x9010C, 31, 0, 0x0, 0x0⟩
def OWL_DROP_FIFO_COUNT : Fld := ⟨0x9010C, 31, 0, 0x0, 0x0⟩
/-- OWL_PAR_RETRY (14_integrity_and_faults). -/
def OWL_PAR_RETRY : Fld := ⟨0x90110, 31, 0, 0x0, 0x0⟩
def OWL_PAR_RETRY_COUNT : Fld := ⟨0x90110, 31, 0, 0x0, 0x0⟩
/-- OWL_PAR_FAIL (14_integrity_and_faults). -/
def OWL_PAR_FAIL : Fld := ⟨0x90114, 31, 0, 0x0, 0x0⟩
def OWL_PAR_FAIL_COUNT : Fld := ⟨0x90114, 31, 0, 0x0, 0x0⟩
/-- OWL_BLK_RETRY (14_integrity_and_faults). -/
def OWL_BLK_RETRY : Fld := ⟨0x90118, 31, 0, 0x0, 0x0⟩
def OWL_BLK_RETRY_COUNT : Fld := ⟨0x90118, 31, 0, 0x0, 0x0⟩
/-- OWL_BLK_FAIL (14_integrity_and_faults). -/
def OWL_BLK_FAIL : Fld := ⟨0x9011C, 31, 0, 0x0, 0x0⟩
def OWL_BLK_FAIL_COUNT : Fld := ⟨0x9011C, 31, 0, 0x0, 0x0⟩
/-- OWL_DME_RES_RETRY (14_integrity_and_faults). -/
def OWL_DME_RES_RETRY : Fld := ⟨0x90120, 31, 0, 0x0, 0x0⟩
def OWL_DME_RES_RETRY_COUNT : Fld := ⟨0x90120, 31, 0, 0x0, 0x0⟩
/-- OWL_DME_RES_FAIL (14_integrity_and_faults). -/
def OWL_DME_RES_FAIL : Fld := ⟨0x90124, 31, 0, 0x0, 0x0⟩
def OWL_DME_RES_FAIL_COUNT : Fld := ⟨0x90124, 31, 0, 0x0, 0x0⟩
/-- OWL_MC_FAULT (14_integrity_and_faults). -/
def OWL_MC_FAULT : Fld := ⟨0x90128, 31, 0, 0x0, 0x0⟩
def OWL_MC_FAULT_COUNT : Fld := ⟨0x90128, 31, 0, 0x0, 0x0⟩
/-- OWL_CS_XING (14_integrity_and_faults). -/
def OWL_CS_XING : Fld := ⟨0x9012C, 31, 0, 0x0, 0x0⟩
def OWL_CS_XING_COUNT : Fld := ⟨0x9012C, 31, 0, 0x0, 0x0⟩
/-- OWL_CS_WIN (14_integrity_and_faults). -/
def OWL_CS_WIN : Fld := ⟨0x90130, 31, 0, 0x0, 0x0⟩
def OWL_CS_WIN_COUNT : Fld := ⟨0x90130, 31, 0, 0x0, 0x0⟩
/-- OWL_CS_WIN_FAIL (14_integrity_and_faults). -/
def OWL_CS_WIN_FAIL : Fld := ⟨0x90134, 31, 0, 0x0, 0x0⟩
def OWL_CS_WIN_FAIL_COUNT : Fld := ⟨0x90134, 31, 0, 0x0, 0x0⟩
/-- OWL_CS_THIN (14_integrity_and_faults). -/
def OWL_CS_THIN : Fld := ⟨0x90138, 31, 0, 0x0, 0x0⟩
def OWL_CS_THIN_COUNT : Fld := ⟨0x90138, 31, 0, 0x0, 0x0⟩
/-- OWL_CHK_REPLAY (14_integrity_and_faults). -/
def OWL_CHK_REPLAY : Fld := ⟨0x9013C, 31, 0, 0x0, 0x0⟩
def OWL_CHK_REPLAY_COUNT : Fld := ⟨0x9013C, 31, 0, 0x0, 0x0⟩
/-- OWL_TAINT (14_integrity_and_faults). -/
def OWL_TAINT : Fld := ⟨0x90140, 31, 0, 0x0, 0x0⟩
def OWL_TAINT_COUNT : Fld := ⟨0x90140, 31, 0, 0x0, 0x0⟩
/-- OWL_TAINT_DROP (14_integrity_and_faults). -/
def OWL_TAINT_DROP : Fld := ⟨0x90144, 31, 0, 0x0, 0x0⟩
def OWL_TAINT_DROP_COUNT : Fld := ⟨0x90144, 31, 0, 0x0, 0x0⟩
/-- OWL_TAINT_REC (14_integrity_and_faults). -/
def OWL_TAINT_REC : Fld := ⟨0x90148, 31, 0, 0x0, 0x0⟩
def OWL_TAINT_REC_COUNT : Fld := ⟨0x90148, 31, 0, 0x0, 0x0⟩
/-- OWL_SUPERSEDE_TX (14_integrity_and_faults). -/
def OWL_SUPERSEDE_TX : Fld := ⟨0x9014C, 31, 0, 0x0, 0x0⟩
def OWL_SUPERSEDE_TX_COUNT : Fld := ⟨0x9014C, 31, 0, 0x0, 0x0⟩
/-- OWL_SUPERSEDE_RX (14_integrity_and_faults). -/
def OWL_SUPERSEDE_RX : Fld := ⟨0x90150, 31, 0, 0x0, 0x0⟩
def OWL_SUPERSEDE_RX_COUNT : Fld := ⟨0x90150, 31, 0, 0x0, 0x0⟩
/-- OWL_REPUBLISH (14_integrity_and_faults). -/
def OWL_REPUBLISH : Fld := ⟨0x90154, 31, 0, 0x0, 0x0⟩
def OWL_REPUBLISH_COUNT : Fld := ⟨0x90154, 31, 0, 0x0, 0x0⟩
/-- OWL_SUSPECT (14_integrity_and_faults). -/
def OWL_SUSPECT : Fld := ⟨0x90158, 31, 0, 0x0, 0x0⟩
def OWL_SUSPECT_COUNT : Fld := ⟨0x90158, 31, 0, 0x0, 0x0⟩
/-- OWL_RETIRE (14_integrity_and_faults). -/
def OWL_RETIRE : Fld := ⟨0x9015C, 31, 0, 0x0, 0x0⟩
def OWL_RETIRE_COUNT : Fld := ⟨0x9015C, 31, 0, 0x0, 0x0⟩
/-- OWL_SCAN_PASS (14_integrity_and_faults). -/
def OWL_SCAN_PASS : Fld := ⟨0x90160, 31, 0, 0x0, 0x0⟩
def OWL_SCAN_PASS_COUNT : Fld := ⟨0x90160, 31, 0, 0x0, 0x0⟩
/-- OWL_SCAN_FAIL (14_integrity_and_faults). -/
def OWL_SCAN_FAIL : Fld := ⟨0x90164, 31, 0, 0x0, 0x0⟩
def OWL_SCAN_FAIL_COUNT : Fld := ⟨0x90164, 31, 0, 0x0, 0x0⟩
/-- TAD_SEQ_CNT (17_telemetry_adc_and_dma). -/
def TAD_SEQ_CNT : Fld := ⟨0x60800, 31, 0, 0x0, 0x0⟩
def TAD_SEQ_CNT_COUNT : Fld := ⟨0x60800, 31, 0, 0x0, 0x0⟩
/-- TAD_ABORT_CNT (17_telemetry_adc_and_dma). -/
def TAD_ABORT_CNT : Fld := ⟨0x60804, 31, 0, 0x0, 0x0⟩
def TAD_ABORT_CNT_COUNT : Fld := ⟨0x60804, 31, 0, 0x0, 0x0⟩
/-- TAD_PER_SKIP (17_telemetry_adc_and_dma). -/
def TAD_PER_SKIP : Fld := ⟨0x60808, 31, 0, 0x0, 0x0⟩
def TAD_PER_SKIP_COUNT : Fld := ⟨0x60808, 31, 0, 0x0, 0x0⟩
/-- TAD_PORT_LOST (17_telemetry_adc_and_dma). -/
def TAD_PORT_LOST : Fld := ⟨0x6080C, 31, 0, 0x0, 0x0⟩
def TAD_PORT_LOST_COUNT : Fld := ⟨0x6080C, 31, 0, 0x0, 0x0⟩
/-- TAD_FAULT_CNT (17_telemetry_adc_and_dma). -/
def TAD_FAULT_CNT : Fld := ⟨0x60810, 31, 0, 0x0, 0x0⟩
def TAD_FAULT_CNT_COUNT : Fld := ⟨0x60810, 31, 0, 0x0, 0x0⟩
/-- TAD_CAL_IGN (17_telemetry_adc_and_dma). -/
def TAD_CAL_IGN : Fld := ⟨0x60814, 31, 0, 0x0, 0x0⟩
def TAD_CAL_IGN_COUNT : Fld := ⟨0x60814, 31, 0, 0x0, 0x0⟩
/-- BDG_BURST (17_telemetry_adc_and_dma). -/
def BDG_BURST : Fld := ⟨0x70400, 31, 0, 0x10, 0x0⟩
def BDG_BURST_COUNT : Fld := ⟨0x70400, 31, 0, 0x10, 0x0⟩
/-- BDG_LOST (17_telemetry_adc_and_dma). -/
def BDG_LOST : Fld := ⟨0x70404, 31, 0, 0x10, 0x0⟩
def BDG_LOST_COUNT : Fld := ⟨0x70404, 31, 0, 0x10, 0x0⟩
/-- BDG_HELD (17_telemetry_adc_and_dma). -/
def BDG_HELD : Fld := ⟨0x70408, 31, 0, 0x10, 0x0⟩
def BDG_HELD_COUNT : Fld := ⟨0x70408, 31, 0, 0x10, 0x0⟩
/-- BDG_STUCK (17_telemetry_adc_and_dma). -/
def BDG_STUCK : Fld := ⟨0x7040C, 31, 0, 0x10, 0x0⟩
def BDG_STUCK_COUNT : Fld := ⟨0x7040C, 31, 0, 0x10, 0x0⟩
/-- HIF_RSV_DENY (15_host_interface). -/
def HIF_RSV_DENY : Fld := ⟨0x400, 31, 0, 0x0, 0x0⟩
def HIF_RSV_DENY_COUNT : Fld := ⟨0x400, 31, 0, 0x0, 0x0⟩
/-- HIF_BAR2_RANGE (15_host_interface). -/
def HIF_BAR2_RANGE : Fld := ⟨0x404, 31, 0, 0x0, 0x0⟩
def HIF_BAR2_RANGE_COUNT : Fld := ⟨0x404, 31, 0, 0x0, 0x0⟩
/-- MBX_CMD_CNT (15_host_interface). -/
def MBX_CMD_CNT : Fld := ⟨0x10100, 31, 0, 0x0, 0x0⟩
def MBX_CMD_CNT_COUNT : Fld := ⟨0x10100, 31, 0, 0x0, 0x0⟩
/-- MBX_FAIL_CNT (15_host_interface). -/
def MBX_FAIL_CNT : Fld := ⟨0x10104, 31, 0, 0x0, 0x0⟩
def MBX_FAIL_CNT_COUNT : Fld := ⟨0x10104, 31, 0, 0x0, 0x0⟩
/-- MBX_RING_BUSY (15_host_interface). -/
def MBX_RING_BUSY : Fld := ⟨0x10108, 31, 0, 0x0, 0x0⟩
def MBX_RING_BUSY_COUNT : Fld := ⟨0x10108, 31, 0, 0x0, 0x0⟩
/-- MBX_ACK_BAD (15_host_interface). -/
def MBX_ACK_BAD : Fld := ⟨0x1010C, 31, 0, 0x0, 0x0⟩
def MBX_ACK_BAD_COUNT : Fld := ⟨0x1010C, 31, 0, 0x0, 0x0⟩
/-- EVQ_DROP (15_host_interface). -/
def EVQ_DROP : Fld := ⟨0x2001C, 31, 0, 0x40, 0x0⟩
def EVQ_DROP_COUNT : Fld := ⟨0x2001C, 31, 0, 0x40, 0x0⟩
/-- EVQ_UNROUTED (15_host_interface). -/
def EVQ_UNROUTED : Fld := ⟨0x20800, 31, 0, 0x0, 0x0⟩
def EVQ_UNROUTED_COUNT : Fld := ⟨0x20800, 31, 0, 0x0, 0x0⟩
/-- EVQ_REC_CNT (15_host_interface). -/
def EVQ_REC_CNT : Fld := ⟨0x20804, 31, 0, 0x0, 0x0⟩
def EVQ_REC_CNT_COUNT : Fld := ⟨0x20804, 31, 0, 0x0, 0x0⟩
/-- MGT_NET_DROP (16_management_and_security). -/
def MGT_NET_DROP : Fld := ⟨0x30100, 31, 0, 0x0, 0x0⟩
def MGT_NET_DROP_COUNT : Fld := ⟨0x30100, 31, 0, 0x0, 0x0⟩
/-- MGT_RX_DISCARD (16_management_and_security). -/
def MGT_RX_DISCARD : Fld := ⟨0x30104, 31, 0, 0x0, 0x0⟩
def MGT_RX_DISCARD_COUNT : Fld := ⟨0x30104, 31, 0, 0x0, 0x0⟩
/-- MGT_FW_RESTART (16_management_and_security). -/
def MGT_FW_RESTART : Fld := ⟨0x30108, 31, 0, 0x0, 0x0⟩
def MGT_FW_RESTART_COUNT : Fld := ⟨0x30108, 31, 0, 0x0, 0x0⟩
/-- MGT_FW_ROLLBACK (16_management_and_security). -/
def MGT_FW_ROLLBACK : Fld := ⟨0x3010C, 31, 0, 0x0, 0x0⟩
def MGT_FW_ROLLBACK_COUNT : Fld := ⟨0x3010C, 31, 0, 0x0, 0x0⟩
/-- MGT_UNLOCK_FAIL (16_management_and_security). -/
def MGT_UNLOCK_FAIL : Fld := ⟨0x30110, 31, 0, 0x0, 0x0⟩
def MGT_UNLOCK_FAIL_COUNT : Fld := ⟨0x30110, 31, 0, 0x0, 0x0⟩
/-- CLK_UNLOCK_CNT (18_clocks_power_startup). -/
def CLK_UNLOCK_CNT : Fld := ⟨0x40100, 31, 0, 0x0, 0x0⟩
def CLK_UNLOCK_CNT_COUNT : Fld := ⟨0x40100, 31, 0, 0x0, 0x0⟩
/-- PWR_CAP_US (18_clocks_power_startup). -/
def PWR_CAP_US : Fld := ⟨0x50100, 31, 0, 0x0, 0x0⟩
def PWR_CAP_US_COUNT : Fld := ⟨0x50100, 31, 0, 0x0, 0x0⟩
/-- PWR_TOGGLE_CNT (18_clocks_power_startup). -/
def PWR_TOGGLE_CNT : Fld := ⟨0x50104, 31, 0, 0x0, 0x0⟩
def PWR_TOGGLE_CNT_COUNT : Fld := ⟨0x50104, 31, 0, 0x0, 0x0⟩
/-- PWR_RST_REF (18_clocks_power_startup). -/
def PWR_RST_REF : Fld := ⟨0x50108, 31, 0, 0x0, 0x0⟩
def PWR_RST_REF_COUNT : Fld := ⟨0x50108, 31, 0, 0x0, 0x0⟩
/-- PWR_THR_US (18_clocks_power_startup). -/
def PWR_THR_US : Fld := ⟨0x5010C, 31, 0, 0x0, 0x0⟩
def PWR_THR_US_COUNT : Fld := ⟨0x5010C, 31, 0, 0x0, 0x0⟩
/-- VU_CNV_SAT (02_number_formats). -/
def VU_CNV_SAT : Fld := ⟨0x34F00, 31, 0, 0x0, 0x0⟩
def VU_CNV_SAT_COUNT : Fld := ⟨0x34F00, 31, 0, 0x0, 0x0⟩
/-- VU_CNV_INF (02_number_formats). -/
def VU_CNV_INF : Fld := ⟨0x34F04, 31, 0, 0x0, 0x0⟩
def VU_CNV_INF_COUNT : Fld := ⟨0x34F04, 31, 0, 0x0, 0x0⟩
/-- VU_CNV_RSVD (02_number_formats). -/
def VU_CNV_RSVD : Fld := ⟨0x34F08, 31, 0, 0x0, 0x0⟩
def VU_CNV_RSVD_COUNT : Fld := ⟨0x34F08, 31, 0, 0x0, 0x0⟩
/-- VU_CNV_NAN (02_number_formats). -/
def VU_CNV_NAN : Fld := ⟨0x34F0C, 31, 0, 0x0, 0x0⟩
def VU_CNV_NAN_COUNT : Fld := ⟨0x34F0C, 31, 0, 0x0, 0x0⟩
/-- DME_CNV_SAT (02_number_formats). -/
def DME_CNV_SAT : Fld := ⟨0x30F00, 31, 0, 0x0, 0x0⟩
def DME_CNV_SAT_COUNT : Fld := ⟨0x30F00, 31, 0, 0x0, 0x0⟩
/-- DME_CNV_INF (02_number_formats). -/
def DME_CNV_INF : Fld := ⟨0x30F04, 31, 0, 0x0, 0x0⟩
def DME_CNV_INF_COUNT : Fld := ⟨0x30F04, 31, 0, 0x0, 0x0⟩
/-- DME_CNV_RSVD (02_number_formats). -/
def DME_CNV_RSVD : Fld := ⟨0x30F08, 31, 0, 0x0, 0x0⟩
def DME_CNV_RSVD_COUNT : Fld := ⟨0x30F08, 31, 0, 0x0, 0x0⟩
/-- DME_CNV_NAN (02_number_formats). -/
def DME_CNV_NAN : Fld := ⟨0x30F0C, 31, 0, 0x0, 0x0⟩
def DME_CNV_NAN_COUNT : Fld := ⟨0x30F0C, 31, 0, 0x0, 0x0⟩
/-- STR_CNV_SAT (02_number_formats). -/
def STR_CNV_SAT : Fld := ⟨0x38F00, 31, 0, 0x0, 0x0⟩
def STR_CNV_SAT_COUNT : Fld := ⟨0x38F00, 31, 0, 0x0, 0x0⟩
/-- STR_CNV_INF (02_number_formats). -/
def STR_CNV_INF : Fld := ⟨0x38F04, 31, 0, 0x0, 0x0⟩
def STR_CNV_INF_COUNT : Fld := ⟨0x38F04, 31, 0, 0x0, 0x0⟩
/-- STR_CNV_RSVD (02_number_formats). -/
def STR_CNV_RSVD : Fld := ⟨0x38F08, 31, 0, 0x0, 0x0⟩
def STR_CNV_RSVD_COUNT : Fld := ⟨0x38F08, 31, 0, 0x0, 0x0⟩
/-- STR_CNV_NAN (02_number_formats). -/
def STR_CNV_NAN : Fld := ⟨0x38F0C, 31, 0, 0x0, 0x0⟩
def STR_CNV_NAN_COUNT : Fld := ⟨0x38F0C, 31, 0, 0x0, 0x0⟩
/-- MC_CNV_SAT (02_number_formats). -/
def MC_CNV_SAT : Fld := ⟨0xF00, 31, 0, 0x0, 0x0⟩
def MC_CNV_SAT_COUNT : Fld := ⟨0xF00, 31, 0, 0x0, 0x0⟩
/-- MC_CNV_INF (02_number_formats). -/
def MC_CNV_INF : Fld := ⟨0xF04, 31, 0, 0x0, 0x0⟩
def MC_CNV_INF_COUNT : Fld := ⟨0xF04, 31, 0, 0x0, 0x0⟩
/-- MC_CNV_RSVD (02_number_formats). -/
def MC_CNV_RSVD : Fld := ⟨0xF08, 31, 0, 0x0, 0x0⟩
def MC_CNV_RSVD_COUNT : Fld := ⟨0xF08, 31, 0, 0x0, 0x0⟩
/-- MC_CNV_NAN (02_number_formats). -/
def MC_CNV_NAN : Fld := ⟨0xF0C, 31, 0, 0x0, 0x0⟩
def MC_CNV_NAN_COUNT : Fld := ⟨0xF0C, 31, 0, 0x0, 0x0⟩
/-- MRT_CNV_SAT (02_number_formats). -/
def MRT_CNV_SAT : Fld := ⟨0x8F00, 31, 0, 0x0, 0x0⟩
def MRT_CNV_SAT_COUNT : Fld := ⟨0x8F00, 31, 0, 0x0, 0x0⟩
/-- MRT_CNV_INF (02_number_formats). -/
def MRT_CNV_INF : Fld := ⟨0x8F04, 31, 0, 0x0, 0x0⟩
def MRT_CNV_INF_COUNT : Fld := ⟨0x8F04, 31, 0, 0x0, 0x0⟩
/-- MRT_CNV_RSVD (02_number_formats). -/
def MRT_CNV_RSVD : Fld := ⟨0x8F08, 31, 0, 0x0, 0x0⟩
def MRT_CNV_RSVD_COUNT : Fld := ⟨0x8F08, 31, 0, 0x0, 0x0⟩
/-- MRT_CNV_NAN (02_number_formats). -/
def MRT_CNV_NAN : Fld := ⟨0x8F0C, 31, 0, 0x0, 0x0⟩
def MRT_CNV_NAN_COUNT : Fld := ⟨0x8F0C, 31, 0, 0x0, 0x0⟩

end Sys2Proof.Machine.R
end

