-- ==== Sys2Proof/Config.lean ====
section
/-! DEFINITION. The free values of the model: constants with no body, where the spec leaves a value open. Nothing can evaluate them
or prove a value of them, so a statement holds whatever they are. -/

namespace Sys2Proof.Config

/-- The deviation of a converter's code from the exact quotient, in codes: dither, cell write error and residual gain and offset
(R58, R81–R83, R140). Free: the spec gives the expected code only. Indexed by State.freeCtr. -/
opaque convDev : Nat → Int

/-- Cells a write-verify pass marks for rewriting, first and second, and cells left off (R65): free, indexed by State.freeCtr. -/
opaque verifyCells : Nat → Nat

/-- The measured deviation of a checksum cell in units of 1/64 LSB before its clamp (R415): free. -/
opaque checkDev : Nat → Int

/-- The deviation of a code read through the row-read port: non-zero only for a cell more than 0.5 LSB off (R112). Free. -/
opaque rowReadDev : Nat → Int

/-- The deviation of a sum in FP32 whose order of additions the spec does not fix (R56): free, indexed by State.freeCtr. -/
opaque sumDev : Nat → Rat

/-- The deviation of a transcendental result from the correctly rounded one, in units in the last place before its bound (R211): free. -/
opaque ulpDev : Nat → Int

/-- A word that the spec leaves open, such as HBM content after a reset that reaches the stack (R292). -/
opaque freeWord : Nat → BitVec 32

/-- A random 64-bit value the hub draws (monitor and link nonces, R481, R493). -/
opaque freeNonce : Nat → BitVec 512

/-- Local address of the local accumulation area that Smiteale allocates for a bucket (R377): free. -/
opaque areaBase : Nat → Nat

/-- Local address, in units of 64 bytes, of an MC's bucket table, by MC; and of the slice areas and the publication area of a bucket at an MC, by
a number that names the MC, the bucket and its shape (R318): Smiteale's choice, free. -/
opaque tableBase : Nat → Nat
/-- Slice areas; see `tableBase`. -/
opaque sliceBase : Nat → Nat
/-- Publication area; see `tableBase`. -/
opaque pubBase : Nat → Nat

/-- Time in tc that steps 3 to 5 of a live update take, by its start (R486): free. -/
opaque handTime : Nat → Nat

end Sys2Proof.Config
end

