-- ==== Sys2Proof/Machine/TileState.lean ====
section
/-! DEFINITION. The state a physical tile holds beside its registers: planes, lanes, fox work, the sequencer, the streamer, sett memory,
the wide gradient buffer, the calibration unit and the VU (chapters 03–10). Registers themselves stand in State.regs. -/

namespace Sys2Proof.Machine

/-- A descriptor as the sequencer reads it at fetch (R263). -/
structure Desc where
  tid : Nat
  scale : Nat
  fmt : Nat
  layout : Nat
  grad : Bool
  pgroup : Nat
  ubias : Int
  sett : Bool
  base : Nat
  pos : Nat
  stride : Nat
  deriving DecidableEq, Repr

/-- A fetched command that waits for issue: its ring index, the command, the descriptors read at fetch, and the failure found
at fetch (0 for none, R284). -/
structure Fetched where
  idx : Nat
  cmd : SeqCmd
  descs : List (Nat × Desc)
  status : Nat
  deriving DecidableEq, Repr

/-- An issued command that has not completed. `ran`: its effect has taken place; `fin`: all its work has ended and only
completion in queue order is left (R166). -/
structure Issued where
  no : Nat
  idx : Nat
  cmd : SeqCmd
  descs : List (Nat × Desc)
  ver : Nat
  t0 : Nat
  ran : Bool
  fin : Bool
  long : Bool
  deriving DecidableEq, Repr

/-- The six source registers of one plane (R97, R129). -/
structure SrcRec where
  src : Nat
  stride : Nat
  list : Nat
  tid : Nat
  ltid : Nat
  ver : Nat
  deriving DecidableEq, Repr

/-- What a MARK records of one array (R129). -/
structure ArrMark where
  actB : Bool
  a : SrcRec
  b : SrcRec
  deriving DecidableEq, Repr

/-- The records a MARK takes (R282): its index and operands, the version register, the planes and the generator. -/
structure MarkRec where
  idx : Nat
  op : MarkOp
  ver : Nat
  arrs : List ArrMark
  /-- Seed and the five draw counters at the mark (R227). -/
  rng : List Nat
  deriving DecidableEq, Repr

/-- What the stream waits on: a FENCE or a WAIT (R280). -/
inductive SeqWait
  | fence (units no idx : Nat)
  | wait (ctr value idx : Nat)
  deriving DecidableEq, Repr

/-- A weight-outlier entry (R113). -/
structure Outlier where
  row : Nat
  col : Nat
  res : Int
  deriving DecidableEq, Repr

/-- The content of one plane: codes by 512·row + column, column weight-scale bytes, checksum codes, row residues, column sums
and checksum deviations (R59, R61, R415), the outlier list, the remap it was written with (R159), the sum of the CLIP fields
(R118), and the moment its age counts from (R91). -/
structure Plane where
  code : List (Nat × Int) := []
  exps : List (Nat × Nat) := []
  cks : List (Nat × Int) := []
  rho : List (Nat × Int) := []
  tsum : List (Nat × Int) := []
  kap : List (Nat × Int) := []
  outl : List Outlier := []
  remap : List (Nat × Nat) := []
  clip : Nat := 0
  aged : Nat := 0
  deriving DecidableEq, Repr

/-- One slice of a wide firing (R134): which input slice, which plane, and the factor. -/
structure SliceSpec where
  high : Bool
  planeB : Bool
  factor : Nat
  deriving DecidableEq, Repr

/-- One pass of a firing (R78–R80): its rows or columns, load, largest magnitude, range exponent, and when its last convert clock ends. -/
structure Pass where
  lo : Nat
  hi : Nat
  load : Nat
  k : Nat
  r : Nat
  endAt : Nat
  deriving DecidableEq, Repr

/-- A firing that waits at an array or runs in it. `codes` are the drive codes of the image as read (R74); `launch` the count it names,
`since` when it became due (for the ac of slip). -/
structure Firing where
  no : Nat
  seg : Nat
  tr : Bool
  codes : List Int
  scale : Nat
  launch : Option Nat
  slice : Option SliceSpec
  t0 : Nat
  /-- the first ac in which it could have started and was not granted (R191) -/
  slipAc : Option Nat
  /-- its image is still to come from the feed queue (R270, R300) -/
  feed : Bool := false
  deriving DecidableEq, Repr

/-- An array's queue in command order: firings and swaps. -/
inductive ArrOp
  | fire (f : Firing)
  | swap (no : Nat) (launch : Option Nat) (t0 : Nat)
  deriving DecidableEq, Repr

/-- A firing that has started: the codes it drives (clipped or sliced), its passes still to convert. -/
structure Running where
  f : Firing
  x : List Int
  planeB : Bool
  passes : List Pass
  ver : Nat
  deriving DecidableEq, Repr

/-- A fox-path job of one firing (R116): kept input residuals, the driven codes, and the plane used. -/
structure FoxJob where
  no : Nat
  seg : Nat
  scale : Nat
  planeB : Bool
  x : List Int
  kept : List (Nat × Int)
  deriving DecidableEq, Repr

/-- A plane write or refresh in progress: the plane, whether it is a refresh, whether it is wide, the command it serves, the content the
rows are written from, and the states the planes had before a refresh. -/
structure PlaneJob where
  jobId : Nat
  planeB : Bool
  refresh : Bool
  wide : Bool
  no : Option Nat
  src : SrcRec
  ver : Nat
  cfa : Option Nat
  oldState : Nat
  rows : Bool
  content : Plane
  content2 : Plane
  stamp : Nat
  deriving DecidableEq, Repr

/-- The open checksum window of an array (R418); `sumZ2` in units of 2^−16. `cfg` are the thresholds it runs under. -/
structure CsWindow where
  n : Nat := 0
  sumZ2 : Nat := 0
  vlo : Nat := 0
  vhi : Nat := 0
  commits : Nat := 0
  cfg0 : Nat := 0x01400080
  cfg1 : Nat := 0x00000A0E
  deriving DecidableEq, Repr

/-- One array. -/
structure Arr where
  a : Plane := {}
  b : Plane := {}
  ops : List ArrOp := []
  run : Option Running := none
  fox : List FoxJob := []
  job : Option PlaneJob := none
  /-- staged blocks of the staging area by number 0–16 (R299) -/
  stage : List (Nat × List Byte) := []
  rfshWantA : Bool := false
  rfshWantB : Bool := false
  expA : Nat := 0
  expB : Nat := 0
  /-- the active plane a narrow execution would have (R135) -/
  trackB : Bool := false
  /-- planes hold wide-run content (R135) -/
  wideRun : Bool := false
  /-- the recorded source of the wide content in the planes -/
  wideSrc : SrcRec := ⟨0, 0, 0, 0, 0, 0⟩
  /-- wide mode in force: ARR_CTRL.WIDE as of the last moment it could take effect (R99) -/
  modeWide : Bool := false
  /-- a plane's present age has reached 1.5 I and was reported (R94) -/
  lateA : Bool := false
  lateB : Bool := false
  freeAt : Nat := 0
  cs : CsWindow := {}
  deriving DecidableEq, Repr

/-- One accumulator lane (R104, R106, the flags of R119). -/
structure Lane where
  n : Int := 0
  eref : Int := 0
  cnt : Nat := 0
  wide : Rat := 0
  nan : Bool := false
  fs : Bool := false
  fz : Bool := false
  fc : Bool := false
  deriving DecidableEq, Repr

/-- The micro-batch in progress: whether a non-repeatable command has issued (R124), whether it had a check replay (R419), its pending
crossings by cause, a pending check replay, and the barrier of R125. -/
structure Micro where
  nonRep : Bool := false
  chkDone : Bool := false
  pend : List Nat := []
  chkPend : Bool := false
  fired : Bool := false
  barrierFrom : Option Nat := none
  /-- VDCVT executed since the mark (R218) -/
  wideN : Nat := 0
  /-- SETVER values loaded in the first execution, by index (R267) -/
  setvers : List (Nat × Nat) := []
  /-- a wide run came from the hold table (R131) -/
  held : Bool := false
  deriving DecidableEq, Repr

/-- Which work a streamer job does (R298). -/
inductive JobKind
  | load (o : LoadOp)
  | kload (o : KloadOp)
  | store (o : StoreOp)
  | pwrite (o : PwriteOp)
  | refresh (arr : Nat) (planeB : Bool)
  | hold (arr : Nat) (planeB : Bool)
  | wideDrv
  deriving DecidableEq, Repr

/-- Progress of one block of a streamer job. -/
inductive BlkPhase
  | wait | flight | served | held | torn | done
  deriving DecidableEq, Repr

/-- One block of a streamer job: where it lies, what it must carry, and how far it is. `parts` counts sub-requests still to be served; a prefetched block that has arrived is `held` until its command is the head. -/
structure BlkReq where
  k : Nat
  addr : Nat
  len : Nat
  sett : Bool
  tid : Nat
  blk : Nat
  fmt : Nat
  layout : Nat
  data : List Byte
  phase : BlkPhase
  att : Nat
  torn : Nat
  parts : Nat
  pois : Bool
  pf : Bool
  epochs : List (Nat × Nat)
  tIssue : Nat
  tServe : Nat
  tTorn : Nat
  checked : Bool
  deriving DecidableEq, Repr

/-- A job of the streamer, in command order. -/
structure StrJob where
  id : Nat
  no : Option Nat
  kind : JobKind
  write : Bool
  ver : Option Nat
  settDst : Nat
  blks : List BlkReq
  deriving DecidableEq, Repr

/-- A command that takes items from the feed queue (R300): its number, how many it takes, and the arrays an image each is for (none: a DMEOP). -/
structure FeedUse where
  no : Nat
  need : Nat
  arrs : List Nat
  deriving DecidableEq, Repr

/-- One item of the feed queue (R300): a drive image or an operand row, by bytes. -/
structure FeedItem where
  image : Bool
  bytes : List Byte
  deriving DecidableEq, Repr

/-- One kept sub-window's point of one converter (R145): measured and expected sums and the number of passes. -/
structure CalPoint where
  m : Int
  x : Int
  p : Nat
  deriving DecidableEq, Repr

/-- A closed sub-window that waits for its expected sums (R144): the plane that fired, its sums and marks. -/
structure CalSub where
  tr : Bool
  planeB : Bool
  sumM : List (Nat × Int)
  sumP : List (Nat × Nat)
  sumS : List (Nat × Int)
  marks : List Nat
  deriving DecidableEq, Repr

/-- The calibration unit (R141–R155). Converters are numbered 0–511 column, 512–519 spare, 520 checksum, 1024 + i row i. -/
structure CalUnit where
  arr : Nat := 0
  began : Nat := 0
  fwd : Nat := 0
  tra : Nat := 0
  sumM : List (Nat × Int) := []
  sumP : List (Nat × Nat) := []
  sumS : List (Nat × Int) := []
  marks : List Nat := []
  sumMT : List (Nat × Int) := []
  sumPT : List (Nat × Nat) := []
  sumST : List (Nat × Int) := []
  marksT : List Nat := []
  subs : List CalSub := []
  points : List (Nat × List CalPoint) := []
  nofit : List Nat := []
  staged : Bool := false
  cmtHeld : Bool := false
  cmtDue : Option Nat := none
  fromSweep : Bool := false
  /-- data columns the sweep judged failing, with their array -/
  failing : List (Nat × Nat) := []
  /-- a completed sweep's trims wait for their writeback to flash (R158) -/
  wbDue : Bool := false
  deriving DecidableEq, Repr

/-- A running loop of the VU (R230): first instruction, one past the last, and repetitions left. -/
structure VuLoop where
  first : Nat
  last : Nat
  left : Nat
  deriving DecidableEq, Repr

/-- The vector unit (chapter 07): vector lanes by 512·register + lane, predicates, scalars, instruction memory, and the dispatch that runs. -/
structure Vu where
  v : List (Nat × Word) := []
  p : List (Nat × BitVec 1024) := []
  s : List (Nat × Word) := []
  imem : List (Nat × BitVec 64) := []
  run : Bool := false
  no : Nat := 0
  pc : Nat := 0
  drive : Bool := false
  loops : List VuLoop := []
  tStart : Nat := 0
  desc : Option Desc := none
  /-- the seed in force while one written during a dispatch waits for its end (R226) -/
  seedHeld : Option Nat := none
  deriving DecidableEq, Repr

/-- The wide-hold table (R131): mark identifiers with their counts, least recently used first. -/
abbrev HoldTable := List (Nat × Nat)

/-- A physical tile. -/
structure Tile where
  sett : List (Nat × Byte) := []
  wgb : List (Nat × Word) := []
  arrs : List (Nat × Arr) := []
  lanes : List (Nat × Lane) := []
  blkCodes : List (Nat × Nat) := []
  foxFired : Nat := 0
  fetched : List Fetched := []
  issued : List Issued := []
  nextNo : Nat := 0
  seqWait : Option SeqWait := none
  waitLong : Bool := false
  /-- SIGNALs whose AFTER condition does not hold yet, with their command numbers (R280) -/
  sigWait : List (Nat × SignalOp) := []
  waitFrom : Nat := 0
  launchSet : Option LaunchOp := none
  micro : Micro := {}
  mark : Option MarkRec := none
  hold : HoldTable := []
  jobs : List StrJob := []
  nextJob : Nat := 0
  feed : List FeedItem := []
  /-- commands that take from the feed queue, in issue order, and what the first of them has taken so far (R300) -/
  feedQ : List FeedUse := []
  taken : List (List Byte) := []
  /-- units that wait for a sett port (R173): owner code, since when, and whether OWN_TIMEOUT was reported -/
  ownWait : List (Nat × Nat × Bool) := []
  /-- wide-buffer adds of the DME drain and of flushes not yet applied (R183, R186): command number, first slot, values -/
  wgbPend : List (Nat × Nat × List Word) := []
  cal : CalUnit := {}
  vu : Vu := {}
  /-- until when some array of the tile fires, and the firing ac not yet counted as an ageing unit (R152) -/
  busyUntil : Nat := 0
  ageAc : Nat := 0
  wideTids : List Nat := []
  deriving DecidableEq, Repr

end Sys2Proof.Machine
end

