-- ==== Sys2Proof/Machine/HubState.lean ====
section
/-! DEFINITION. The state of the hub that is not in registers: mailboxes, event queues, host copies (chapter 15), firmware slots, the monitor
(chapter 16), the telemetry ADC and Badger (chapter 17), inputs and power (chapter 18). -/

namespace Sys2Proof.Machine

/-- A RUNNING mailbox command (R446, R449): its pair, the copied request page, when it was taken, and the runs of it that were restarted. -/
structure MbxCmd where
  pair : Nat
  op : Nat
  page : List Byte
  since : Nat
  /-- SNAPSHOT: the attempt's version and the restarts so far -/
  snap : Option (Nat × Nat) := none
  deriving DecidableEq, Repr

/-- A running host copy (R459): direction, addresses, and units of 64 bytes, as they stood at GO. -/
structure CpyJob where
  dir : Nat
  src : Nat
  dst : Nat
  n : Nat
  deriving DecidableEq, Repr

/-- What an event queue keeps beside its registers (R464, R465): drops since the last OVERFLOW record, whether it is armed, records since it was
armed, and when the first of them was written. -/
structure EvqState where
  drops : Nat := 0
  armed : Bool := false
  n : Nat := 0
  firstAt : Option Nat := none
  deriving DecidableEq, Repr

/-- A live update in progress (R486): the old slot, the new one, and when step 4 began. -/
structure Handover where
  old : Nat
  new : Nat
  at' : Option Nat
  deriving DecidableEq, Repr

/-- The firmware and identity store (R475–R480, R485): preferred slot of the boot record, the measurement of each slot's accepted image (empty for
none), certificates (device, intermediate), the identity modulus, the owner modulus, when SEC_CTRL.OWNER_ARM was last written, and a handover in progress. -/
structure Sec where
  prefer : Nat := 0
  meas : List (List Byte) := [[], []]
  certs : List (List Byte) := [[], []]
  idMod : List Byte := []
  okey : List Byte := []
  armAt : Option Nat := none
  hand : Option Handover := none
  deriving DecidableEq, Repr

/-- The serial monitor (R490–R494): the line being edited and whether it is too long, the nonce with its time, the answer so far, failures in a row,
when the lockout began, when input last came, since when the line is low, whether it is stuck, and since when it is high again. -/
structure Mon where
  line : List Byte := []
  long : Bool := false
  nonce : Option (List Byte × Nat) := none
  answer : List Byte := []
  fails : Nat := 0
  lockAt : Option Nat := none
  last : Nat := 0
  stuck : Bool := false
  deriving DecidableEq, Repr

/-- The telemetry ADC (R498–R510): whether START is in force (MODE 1 or 2), a START that waits, the slots of the running sequence with its start, the
words of the TAD port and how many Badger took, ODD, the flags of each slot in the previous sequence, since when the reference settles, the last
tick of the period and of housekeeping, the calibration step that runs (STEP, channel, ACQ) and since when it converts, and the values in flash
(channel, OFS, GAIN). -/
structure Tad where
  run : Bool := false
  late : Bool := false
  seq : Option (List Word × Nat) := none
  port : List Word := []
  portRd : Nat := 0
  odd : Bool := false
  flags : List (Nat × Nat) := []
  refAt : Option Nat := none
  tick : Nat := 0
  hkAt : Nat := 0
  cal : Option (Nat × Nat × Nat) := none
  calAt : Option Nat := none
  flash : List (Nat × Nat × Nat) := []
  deriving DecidableEq, Repr

/-- A Badger channel (R514–R516): P, a held or waiting request, when its last burst began, bursts since the last deassertion, the request line, and
whether that line is stuck. -/
structure BdgCh where
  req : Bool := false
  held : Bool := false
  lastAt : Option Nat := none
  run : Nat := 0
  line : Bool := false
  stuck : Bool := false
  deriving DecidableEq, Repr

/-- What keeps main power off (R524): nothing of its own, a short with its one retry due, or PWR_EN, which must be deasserted and asserted again. -/
inductive OffWhy
  | standby | shortRetry | latched
  deriving DecidableEq, Repr

/-- Inputs and power (R520–R531): 12 V present and since when, 54 V within 40–60 V, PWR_EN, RESET_N and THROTTLE_N as they stand, the hub powered, why
it is off, when the last short was, the power samples of the last 10 ms, the cap with its start, undervoltage and thermal throttling, when THROTTLE_N
was asserted last, short releases in the last ms, and whether a stuck line was reported; from when the µs of the cap, of FILTERED and the tc of the
limits are still to be counted; FAULT_N and PWRGD as last driven; the link and reference clock that training gave. -/
structure Pwr where
  stby : Bool := true
  stbyAt : Nat := 0
  inOk : Bool := true
  en : Bool := false
  rstN : Bool := false
  thrPin : Bool := false
  on : Bool := false
  why : OffWhy := .standby
  shortAt : Nat := 0
  samples : List Nat := []
  cap : Option Nat := none
  uv : Bool := false
  therm : Bool := false
  pinAt : Nat := 0
  shorts : List Nat := []
  stuckRep : Bool := false
  capCnt : Nat := 0
  thrCnt : Nat := 0
  limCnt : Nat := 0
  fault : Bool := false
  good : Bool := false
  width : Nat := 0
  flit : Bool := false
  speed : Nat := 0
  refclk : Bool := false
  ppm : BitVec 16 := 0
  deriving DecidableEq, Repr

end Sys2Proof.Machine
end

