-- ==== Sys2Proof/Machine/ModState.lean ====
section
/-! DEFINITION. The state of the blocks outside the tiles that is not in registers: memory controllers with their accumulate engines and Marten
units (chapters 10, 11), peer ports (chapter 12), the configuration set and the exchange logic (chapter 13), records and outputs (chapter 14). -/

namespace Sys2Proof.Machine

/-! ### Memory controllers, accumulate engines, Marten -/

/-- A request of a streamer at a memory controller, or on its way to one (R303): when it reached the MC, in order and in time, its bytes, and
the block requests it serves, as (physical tile, streamer job, block). -/
structure McReq where
  stamp : Nat
  at' : Nat
  src : Nat
  write : Bool
  addr : Nat
  len : Nat
  data : List Byte
  dests : List (Nat × Nat × Nat)
  deriving DecidableEq, Repr

/-- A run of elements accepted for one MC (R320): bucket, first element offset, format, bias, version and element codes. `area`: it goes to the
local accumulation area (R376). `step`: the open version of the step it was accepted into. `since`: when it entered the hold queue (R323). -/
structure AccPkt where
  bucket : Nat
  off : Nat
  bf16 : Bool
  u : Int
  ver : Nat
  data : List Nat
  area : Bool
  step : Nat
  since : Nat
  deriving DecidableEq, Repr

/-- The armed record of a bucket at an MC (R327): the group's 16 registers and the 32 words of its program. -/
structure Armed where
  bucket : Nat
  regs : List Word
  prog : List Word
  deriving DecidableEq, Repr

/-- The operand buffers of a visit (R330, R334): element operands 0–7, row, column and scalar operands, and the program's next word. -/
structure MVisit where
  el : List (List Word)
  rows : List (List Word)
  cols : List (List Word)
  sc : List Word
  pc : Nat
  ended : Bool
  deriving DecidableEq, Repr

/-- An update in progress (R329): the bucket's table entry, K, the armed copy, the block to visit next, the blocks projected in the slice, and
the outlier candidates of the slice. -/
structure MUpd where
  bucket : Nat
  entry : Nat
  k : Word
  d : Nat
  armed : Option Armed
  sigma : Nat
  blk : Nat
  visit : Option MVisit
  full : List Nat
  cands : List Outlier
  t0 : Nat
  deriving DecidableEq, Repr

/-- A memory controller: requests in the network, its queues, write epochs by local region (R307), open rows by bank set (row + 1, 0 none),
the source accepted last (R303), whether it drains writes (R304); its accumulate engine's packets; and its Marten unit. -/
structure Mc where
  net : List McReq := []
  rdq : List McReq := []
  wrq : List McReq := []
  epochs : List (Nat × Nat) := []
  openRow : List (Nat × Nat) := []
  lastSrc : Nat := 0
  draining : Bool := false
  stamp : Nat := 0
  accq : List AccPkt := []
  holdq : List AccPkt := []
  /-- touched update blocks of local accumulation areas, as (bucket, 16σ + k), and the areas' bias values (R376) -/
  areaT : List (Nat × Nat) := []
  areaU : List (Nat × Int) := []
  /-- group registers by 16·group + index (R326) -/
  grp : List (Nat × Word) := []
  armed : List Armed := []
  /-- QUEUED buckets in order with the armed copy each update uses (R328), and the copies of FAILED ones (R414) -/
  mq : List (Nat × Option Armed) := []
  failArm : List (Nat × Option Armed) := []
  upd : Option MUpd := none
  /-- blocks visited in the latest update of a bucket, as (bucket, 16σ + k) (R323) -/
  visited : List (Nat × Nat) := []
  deriving DecidableEq, Repr

/-! ### The configuration set (R398–R400, R483) -/

/-- A module record of the geometry table: identifier, key digest, and per port the peer module, peer port and whether it is expected. -/
structure GMod where
  id : Nat
  key : List Byte
  ports : List (Nat × Nat × Bool)
  route : Nat × Nat
  deriving DecidableEq, Repr

/-- A bucket record with its contributor list. -/
structure GBkt where
  bucket : Nat
  owner : Nat
  tree : Nat
  nslice : Nat
  succ : Nat
  mcFirst : Nat
  group : Nat
  fmt : Nat
  outk : Nat
  pscale : Nat
  ptid : Nat
  pblk0 : Nat
  ltid : Nat
  lblk0 : Nat
  mtid : Nat
  contribs : List Nat
  deriving DecidableEq, Repr

/-- A placement record. -/
structure GPlace where
  tid : Nat
  cnt : Nat
  base : Nat
  stride : Nat
  deriving DecidableEq, Repr

/-- Routes of one module: 1,024 unicast entries, 64 trees as (mask, valid), and the overrides as (ingress port, index, entry). -/
structure GRoute where
  entries : List Nat
  trees : List (Nat × Bool)
  overrides : List (Nat × Nat × Nat)
  deriving DecidableEq, Repr

/-- The geometry table. -/
structure Geom where
  retain : Nat
  ns : Nat
  bwd : Nat
  pairOfs : Nat
  mods : List GMod
  bkts : List GBkt
  places : List GPlace
  routes : List (Nat × GRoute)
  deriving DecidableEq, Repr

/-- A configuration set (R398): its digest, firmware measurement, geometry, group registers and programs, policies and exchange parameters. -/
structure CfgSet where
  digest : List Byte
  fw : List Byte
  geom : Geom
  grp : List Word
  progs : List Word
  fmtPol : List Word
  calPol : List Word
  xch : List Word
  deriving DecidableEq, Repr

/-! ### Exchange (chapter 13) -/

/-- What an owner has accepted from one contributor for one base version (R379, R382). -/
structure Contrib where
  src : Nat
  ver : Nat
  acc : Nat
  close : Option Nat
  counted : Bool
  deriving DecidableEq, Repr

/-- The close record of an owned bucket (R378–R386, R423). -/
structure OBkt where
  bucket : Nat
  /-- the open version b -/
  ver : Nat
  timing : Bool := false
  t0 : Nat := 0
  extended : Bool := false
  samp : Nat := 0
  contribs : List Contrib := []
  lastKind : Nat := 0
  lastD : Nat := 0
  lastA : Nat := 0
  /-- closed, its update not finished at every MC -/
  busy : Bool := false
  failed : Bool := false
  failAt : Nat := 0
  retried : Bool := false
  /-- results of the MCs in this update -/
  res : List (Nat × Nat) := []
  /-- the version in `ver` has been broadcast -/
  published : Bool := true
  held : Bool := false
  /-- superseded range, and supersedes that wait until the bucket is OPEN, as (f, l, base) -/
  sup : Option (Nat × Nat) := none
  supWait : List (Nat × Nat) := []
  /-- highest version whose notice was sent -/
  noticed : Nat := 0
  deriving DecidableEq, Repr

/-- One version of a bucket that the receive path collects (R387, R390): positions written, when the last came, when it was full, requests made. -/
structure RVer where
  ver : Nat
  got : List Nat
  lastAt : Nat
  fullAt : Option Nat
  reqs : Nat
  reqAt : Nat
  gone : Bool
  failed : Bool
  deriving DecidableEq, Repr

/-- The receive side of a bucket of the geometry table: versions in progress, notices and superseded ranges (R387–R390). -/
structure RBkt where
  bucket : Nat
  vers : List RVer := []
  notices : List Nat := []
  supers : List (Nat × Nat) := []
  deriving DecidableEq, Repr

/-- A packet as it lies in a queue: its bytes, and the port it came by (48: local delivery). -/
structure PktIn where
  port : Nat
  bytes : List Byte
  deriving DecidableEq, Repr

/-! ### Peer ports (chapter 12) -/

/-- A flit in the replay buffer or on its way into one: type (1 data, 2 control), VC, SOP, EOP, ABORT, payload. -/
structure TxFlit where
  typ : Nat
  vc : Nat
  sop : Bool
  eop : Bool
  abort : Bool
  data : List Byte
  /-- times sent, its sequence number once it has one, and when it was last sent -/
  sent : Nat := 0
  seq : Nat := 0
  at' : Nat := 0
  deriving DecidableEq, Repr

/-- A packet queued at an egress port: flits not yet sent. `ended`: its last flit is in the list; `from'`: the ingress port and VC of a packet still
arriving. -/
structure TxPkt where
  vc : Nat
  flits : List TxFlit
  ended : Bool
  from' : Option (Nat × Nat)
  deriving DecidableEq, Repr

/-- A packet that arrives on a VC: its bytes, whether its end has come, and how it goes on once routed. -/
structure RxPkt where
  bytes : List Byte
  /-- flits received, and flits that still stand in the receive buffer -/
  n : Nat
  flits : Nat
  ended : Bool
  abort : Bool
  bad : Bool
  /-- routed by PACKET_FORWARD: the egress ports, and whether it is still to be delivered here -/
  route : Option (List Nat × Bool)
  deriving DecidableEq, Repr

/-- What a lane learned from training blocks (R350, R351): locked, inverted, logical number, and the sender's module and port. -/
structure LaneInfo where
  ok : Bool
  inv : Bool
  logical : Nat
  peer : Nat
  port : Nat
  deriving DecidableEq, Repr

/-- The identity a peer proved (R370): whether certificate and signature hold, its module, port and key digest, and its configuration digest. -/
structure PeerId where
  valid : Bool
  module : Nat
  port : Nat
  key : List Byte
  digest : List Byte
  deriving DecidableEq, Repr

/-- A peer port. -/
structure Port where
  lanes : List (Nat × LaneInfo) := []
  /-- true during a fast retrain -/
  fast : Bool := false
  retrains : Nat := 0
  downAt : Nat := 0
  refusedAt : Option Nat := none
  nonce : Nat := 0
  peerId : Option PeerId := none
  /-- digests received by activation step, and the local activation that waits for its peer's digest -/
  digests : List (Nat × List Byte) := []
  await : Option (Nat × Nat) := none
  txq : List TxPkt := []
  ctl : List (List Byte) := []
  replay : List TxFlit := []
  /-- flits of the replay buffer to be sent again, from this index; none: none -/
  resend : Option Nat := none
  nextSeq : Nat := 0
  rxSeq : Nat := 0
  nak : Bool := false
  nakSent : Bool := false
  vcTurn : Nat := 0
  /-- credits: cumulative count received and credits spent, by VC; flits in the receive buffer and cumulative freed count, by VC -/
  crdRx : List Nat := [0, 0, 0, 0]
  crdHave : List Nat := [0, 0, 0, 0]
  crdFreed : List Nat := [0, 0, 0, 0]
  rx : List (Nat × List RxPkt) := []
  deriving DecidableEq, Repr

/-! ### Records and outputs -/

/-- A firmware record not yet written (R437, R466): type, class, version, unit and operands; `seq` of its raw record, 0xFFFF_FFFF for none. -/
structure FwEvent where
  typ : Nat
  cls : Nat
  ver : Nat
  kind : Nat
  unit : Nat
  op0 : Nat
  op1 : Nat
  detail : List Nat
  seq : Nat
  deriving DecidableEq, Repr

/-- What the module sends outside: a write to host memory, an interrupt vector, a datagram on the management port, characters of the monitor, a
flit on a port, a pin, a word that Badger writes to a hub port. -/
inductive Out
  | hostWrite (addr : Nat) (bytes : List Byte)
  | msix (vec : Nat)
  | datagram (bytes : List Byte)
  | uart (chars : List Byte)
  | flit (port : Nat) (bytes : List Byte)
  | pin (name : String) (v : Bool)
  | bdgWord (port : Nat) (w : Word)
  deriving DecidableEq, Repr

end Sys2Proof.Machine
end

