-- ==== Sys2Proof/Machine/State.lean ====
section
/-! DEFINITION. The state of the module, the reasons a command can stop, and the state after power-on reset. -/

namespace Sys2Proof.Machine

/-- Why a command stops with a fault. The spec leaves no command of the table without an effect, so this model never faults: a
command whose condition does not hold changes nothing. Closed; safe. -/
inductive Fault
  /-- Raised by nobody; kept so that the type has a name for an access the spec would call non-existent. Safe. -/
  | noSuchPlace
  deriving DecidableEq, Repr

/-- Why a command is refused. -/
inductive Refusal
  /-- Raised by the dispatcher for a command that has no meaning yet. Safe: nothing is claimed of it. -/
  | notModelled (mnemonic : String)
  deriving DecidableEq, Repr

/-- A raw record of Owl (R433); `detail` are the eight DETAIL words. -/
structure RawRec where
  seq : Nat
  launch : Nat
  reg : Nat
  bit : Nat
  kind : Nat
  unit : Nat
  detail : List Nat
  net : Bool
  bdg : Bool
  deriving DecidableEq, Repr

/-- A SIGNAL on its way to a tile's counter, sent once its AFTER condition held (R280). -/
structure SigMsg where
  tile : Nat
  ctr : Nat
  inc : Nat
  deriving DecidableEq, Repr

/-- The state of the module. -/
structure State where
  pending : List Instr := []
  now : Nat := 0
  freeCtr : Nat := 0
  regs : List (Nat × Word) := []
  fuses : List (Nat × Word) := []
  /-- trims in flash by register key, and when they were last written back (R158) -/
  flashTrims : List (Nat × Word) := []
  trimWb : Option Nat := none
  latches : List (Nat × Word) := []
  /-- low words of the seed registers written and not yet followed by their high words, by register key (R226, R346) -/
  seedLow : List (Nat × Word) := []
  hbm : List (Nat × Byte) := []
  tiles : List (Nat × Tile) := []
  mcs : List (Nat × Mc) := []
  launchAt : Option Nat := none
  sigs : List SigMsg := []
  /-- the ac of the last grant round, and the tile the rotation of R191 starts from -/
  lastGrant : Option Nat := none
  grantRot : Nat := 0
  owlFifo : List RawRec := []
  /-- tainted base versions (R420), and the version from which a drain taints every later one (R429) -/
  taints : List Nat := []
  taintFrom : Option Nat := none
  /-- physical tiles with a suspect event Smiteale has not yet acted on (R427), with its cause -/
  suspects : List (Nat × Nat) := []
  /-- the configuration set in force, and the staged one with its activation step (R398–R402) -/
  cfg : Option CfgSet := none
  staged : Option (CfgSet × Nat) := none
  /-- the tag before the last activation, and its activation step (R402); when the hub left reset, for XCH_TIMER -/
  prevTag : Nat := 0
  actAt : Nat := 0
  hubAt : Nat := 0
  obkts : List OBkt := []
  rbkts : List RBkt := []
  /-- ACCUM packets sent by (bucket, version) (R375) -/
  accSent : List (Nat × Nat × Nat) := []
  /-- packets delivered to this module by itself (R385) -/
  localRx : List PktIn := []
  /-- ranges of versions passed under R425, and the highest version committed, or passed in its turn (R388) -/
  passed : List (Nat × Nat) := []
  doneV : Nat := 0
  /-- failed checksum windows Smiteale has not acted on, as (physical tile, array, v_lo, v_hi), and the ranges of all failed ones (R421, R424) -/
  csFails : List (Nat × Nat × Nat × Nat) := []
  failWins : List (Nat × Nat) := []
  /-- the ledger tensor, 0 for none (R457) -/
  ledger : Nat := 0
  ports : List (Nat × Port) := []
  fwEvents : List FwEvent := []
  out : List Out := []
  /-- the bytes the last read returned to its requester -/
  hostResp : List Byte := []
  /-- pages of the mailbox SRAM (R445), POSTED pairs in the order they were rung, RUNNING commands, and buckets under BUCKET_HOLD -/
  mbx : List (Nat × Byte) := []
  mbxPosted : List Nat := []
  mbxRun : List MbxCmd := []
  /-- event queues, the MSI-X table and its pending bits, firmware records composed (newest last, at most 64), their number, and the times at
  which records left on the network in the last ms (R435, R474) -/
  evqs : List (Nat × EvqState) := []
  msix : List (Nat × Word) := []
  msixPend : List Nat := []
  fwRecs : List (List Byte) := []
  fwNum : Nat := 0
  fwNet : List Nat := []
  owlNet : List Nat := []
  /-- raw records taken through Badger and not yet composed (R437) -/
  fwRaw : List RawRec := []
  mgmtDown : Bool := false
  /-- the firmware slots in flash, slot B from 2^26 -/
  flash : List (Nat × Byte) := []
  sec : Sec := {}
  /-- copies that run, by engine (R459) -/
  cpy : List (Nat × CpyJob) := []
  mon : Mon := {}
  beatAt : Nat := 0
  /-- a hub core that stopped, and since when HIF_FW.BEAT stands for a reason other than the firmware's own (R471, R472) -/
  stall : Option Nat := none
  tad : Tad := {}
  bdg : List (Nat × BdgCh) := []
  bdgMem : List (Nat × Word) := []
  bdgLast : Nat := 0
  /-- DEN tiles in order of entry (R431), with whether each passed a scan before (R428); retirements under way -/
  den : List Nat := []
  scanned : List Nat := []
  retiring : List Nat := []
  pwr : Pwr := {}
  hubUp : Bool := false
  d3hot : Bool := false
  deriving DecidableEq, Repr

/-- The module right after power-on reset. -/
def State.reset : State := {}

end Sys2Proof.Machine
end

