-- ==== Sys2Proof/Machine/Ops.lean ====
section
/-! DEFINITION. The named operations over registers, memories and tiles that the meanings share. -/

namespace Sys2Proof.Machine

/-! ### Registers -/

/-- The register word at a key: what was last written or held, or its reset value (R5, R11). -/
def rdReg (s : State) (k : Nat) : Word := sget resetWord s.regs k

/-- Store a register word, by the hardware: no access type applies. -/
def wrReg (s : State) (k : Nat) (w : Word) : State := { s with regs := sset resetWord s.regs k w }

/-- A field's value in the window at `base`; fields of 64-bit registers count over both words. -/
def fld (s : State) (base : Nat) (f : Fld) : Nat :=
  let lo := (rdReg s (base + f.off)).toNat
  let w := if f.hi < 32 then lo else lo + (rdReg s (base + f.off + 4)).toNat * 2 ^ 32
  w / 2 ^ f.lo % 2 ^ (f.hi - f.lo + 1)

/-- Is a one-bit field set. -/
def fldOn (s : State) (base : Nat) (f : Fld) : Bool := decide (fld s base f ≠ 0)

/-- Replace bits hi..lo of a number by a value. -/
def putBits (w hi lo v : Nat) : Nat :=
  let n := 2 ^ (hi - lo + 1)
  w - (w / 2 ^ lo % n) * 2 ^ lo + (v % n) * 2 ^ lo

/-- Set a field of the window at `base`, by the hardware. -/
def setFld (s : State) (base : Nat) (f : Fld) (v : Nat) : State :=
  let k := base + f.off
  if f.hi < 32 then wrReg s k (BitVec.ofNat 32 (putBits (rdReg s k).toNat f.hi f.lo v))
  else
    let w := (rdReg s k).toNat + (rdReg s (k + 4)).toNat * 2 ^ 32
    let w' := putBits w f.hi f.lo v
    wrReg (wrReg s k (BitVec.ofNat 32 w')) (k + 4) (BitVec.ofNat 32 (w' / 2 ^ 32))

/-- Set a one-bit field from a Bool. -/
def setBit (s : State) (base : Nat) (f : Fld) (b : Bool) : State := setFld s base f (if b then 1 else 0)

/-- Add to a counter, which saturates at its field's maximum (chapter 00, "counted"; R137). -/
def count (s : State) (base : Nat) (f : Fld) (n : Nat) : State :=
  setFld s base f (min (fld s base f + n) (2 ^ (f.hi - f.lo + 1) - 1))

/-- Add a list of counts to counters of one window. -/
def countAll (s : State) (base : Nat) : List (Fld × Nat) → State
  | [] => s
  | (f, n) :: t => countAll (if n = 0 then s else count s base f n) base t

/-- A field as a two's complement number. -/
def fldInt (s : State) (base : Nat) (f : Fld) : Int := sext (f.hi - f.lo + 1) (fld s base f)

/-- The two's complement code of an integer in `bits` bits. -/
def tc (bits : Nat) (i : Int) : Nat := (i % (2 ^ bits : Nat)).toNat

/-- Clamp a natural number into a range. -/
def clampN (lo hi v : Nat) : Nat := if v < lo then lo else if hi < v then hi else v

/-- Clamp an integer into a range. -/
def clampI (lo hi v : Int) : Int := if v < lo then lo else if hi < v then hi else v

/-! ### Time -/

/-- Tile clocks in one µs (1.6 GHz); ac is 4 tc, mc 2 tc, hc 8 tc (chapter 00). -/
def tcUs : Nat := 1600
/-- Tile clocks in one ms. -/
def tcMs : Nat := 1600000

/-- The launch count (R187): array clocks since the launch controller was released, modulo 2^48; 0 before. -/
def launchCount (s : State) : Nat :=
  match s.launchAt with
  | some t => (s.now - t) / 4 % 2 ^ 48
  | none => 0

/-- Take the next free-value index. -/
def nextFree (s : State) : Nat × State := (s.freeCtr, { s with freeCtr := s.freeCtr + 1 })

/-! ### Tiles -/

/-- Physical tile n (17d + p). -/
def tileAt (s : State) (n : Nat) : Tile := sget (fun _ => {}) s.tiles n

/-- Store physical tile n. -/
def setTile (s : State) (n : Nat) (t : Tile) : State := { s with tiles := sset (fun _ => {}) s.tiles n t }

/-- Change physical tile n. -/
def modTile (s : State) (n : Nat) (f : Tile → Tile) : State := setTile s n (f (tileAt s n))

/-- The physical tile that carries logical tile t (R3, R12, R196): 17 × die + physical index of MGT_TILE_MAPt. -/
def phys (s : State) (t : Nat) : Nat :=
  17 * fld s 0 (fldAt R.MGT_TILE_MAP_DIE t) + fld s 0 (fldAt R.MGT_TILE_MAP_PHYS t)

/-- The logical tile that a physical tile carries, where its state is CARRYING (R195). -/
def logicalOf (s : State) (n : Nat) : Option Nat :=
  if fld s 0 (fldAt R.MGT_PTILE_STATE_STATE n) = 0 then some (fld s 0 (fldAt R.MGT_PTILE_STATE_LOGICAL n)) else none

/-- Array a of a tile. -/
def arrAt (t : Tile) (a : Nat) : Arr := sget (fun _ => {}) t.arrs a

/-- Store array a of a tile. -/
def setArr (t : Tile) (a : Nat) (x : Arr) : Tile := { t with arrs := sset (fun _ => {}) t.arrs a x }

/-- Change array a of physical tile n. -/
def modArr (s : State) (n a : Nat) (f : Arr → Arr) : State := modTile s n fun t => setArr t a (f (arrAt t a))

/-- A lane of the accumulator. -/
def laneAt (t : Tile) (l : Nat) : Lane := sget (fun _ => {}) t.lanes l

/-- Store a lane. -/
def setLane (t : Tile) (l : Nat) (x : Lane) : Tile := { t with lanes := sset (fun _ => {}) t.lanes l x }

/-! ### HBM -/

/-- What a byte of HBM that nothing has written reads as: the spec leaves it undefined after reset (R292); DESIGN CHOICE 0.
-/
def hbmDefault (_ : Nat) : Byte := 0

/-- First address beyond the stacks (R293). -/
def hbmEnd : Nat := 0x18000000000

/-- `n` bytes of HBM. -/
def hbmRead (s : State) (a n : Nat) : List Byte := sgetList hbmDefault s.hbm a n

/-- Store bytes in HBM; a write beyond the stacks reaches nothing. -/
def hbmWrite (s : State) (a : Nat) (bs : List Byte) : State :=
  { s with hbm := ssetList hbmDefault s.hbm a (bs.take (hbmEnd - a)) }

/-- Stack of an address (R294): ((r mod 24) + q) mod 24. -/
def stackOf (a : Nat) : Nat := let r := a / 65536; (r % 24 + r / 24) % 24
/-- Local region of an address. -/
def localRegion (a : Nat) : Nat := a / 65536 / 24
/-- Bank set of an address (R294). -/
def bankSetOf (a : Nat) : Nat := let q := localRegion a; (q % 64) ^^^ ((q / 64) % 64)
/-- Row of an address (R294). -/
def rowOf (a : Nat) : Nat := localRegion a / 64

end Sys2Proof.Machine
end

