-- ==== Sys2Proof/Machine/Flags.lean ====
section
/-! DEFINITION. Status bits and what setting one does: the sticky bits of the status registers report an event, for which Owl
produces a raw record in hardware (R433, R436). -/

namespace Sys2Proof.Machine

/-- UNIT_KIND, UNIT and the BAR0 offset of the register word at a key (R433). -/
def unitOfKey (s : State) (k : Nat) : Nat × Nat × Nat :=
  if 0x10000000 ≤ k then
    let n := (k - 0x10000000) / 0x100000
    let o := (k - 0x10000000) % 0x100000
    match logicalOf s n with
    | some t =>
      if 0x10000 ≤ o ∧ o < 0x20000 then (5, 16 * t + (o - 0x10000) / 0x1000, 0x01000000 + t * 0x40000 + o)
      else (1, t, 0x01000000 + t * 0x40000 + o)
    | none => (2, n, o)
  else if 0x03000000 ≤ k then (4, (k - 0x03000000) / 0x1000, k)
  else if 0x02000000 ≤ k then (3, (k - 0x02000000) / 0x10000, k)
  else (0, 0, k)

/-- May the host reach the module now: the hub is up, its link trained at x4 or wider, and the function is not in D3hot (R440). -/
def hostUp (s : State) : Bool := s.hubUp && !s.d3hot && decide (4 ≤ s.pwr.width)

/-- Count a record that finds the FIFO full: dropped and counted; the first such drop sets OWL_STATUS.DROP, whose own record is
dropped too (R436). -/
def owlDrop (s : State) : State :=
  let s1 := count s 0 R.OWL_DROP_FIFO 1
  if fldOn s1 0 R.OWL_STATUS_DROP then s1
  else
    let s2 := setFld s1 0 R.OWL_STATUS_DROP 1
    let s3 := setFld s2 0 R.OWL_SEQ (fld s2 0 R.OWL_SEQ + 1)
    count (count s3 0 R.OWL_REC_CNT 1) 0 R.OWL_DROP_FIFO 1

/-- Produce a raw record (R433): SEQ rises for every record produced, dropped ones included. -/
def owlRecord (s : State) (reg bit kind unit : Nat) (detail : List Nat) : State :=
  let r : RawRec := { seq := fld s 0 R.OWL_SEQ, launch := launchCount s, reg := reg, bit := bit, kind := kind, unit := unit,
                      detail := detail, net := fldOn s 0 R.OWL_CTRL_NET_EN, bdg := fldOn s 0 R.OWL_CTRL_BDG_EN }
  let s1 := count (setFld s 0 R.OWL_SEQ (r.seq + 1)) 0 R.OWL_REC_CNT 1
  if s1.owlFifo.length < 256 then
    if r.net || r.bdg then { s1 with owlFifo := s1.owlFifo ++ [r] } else s1
  else owlDrop s1

/-- Set a sticky status bit, and report its event with the given DETAIL words; without any, DETAIL0 is the register's value after
the bit was set (R434). -/
def raiseD (s : State) (base : Nat) (f : Fld) (detail : List Nat) : State :=
  let s1 := setFld s base f 1
  let k := base + f.off
  let u := unitOfKey s1 k
  owlRecord s1 u.2.2 f.lo u.1 u.2.1 (if detail = [] then [(rdReg s1 k).toNat] else detail)

/-- Set a sticky status bit and report its event. -/
def raiseBit (s : State) (base : Nat) (f : Fld) : State := raiseD s base f []

/-- Queue a firmware record that no raw record brings (R437, R466). -/
def pushEv (s : State) (typ cls ver kind unit op0 op1 : Nat) (detail : List Nat) : State :=
  { s with fwEvents := s.fwEvents ++ [{ typ := typ, cls := cls, ver := ver, kind := kind, unit := unit, op0 := op0, op1 := op1, detail := detail, seq := 0xFFFFFFFF }] }

/-- Queue named firmware records that the raw record with number q brings (R437, R467): only where that record is on its way to Smiteale through Badger. -/
def pushNamed (s : State) (q : Nat) (l : List FwEvent) : State :=
  if s.owlFifo.any fun r => decide (r.seq = q) && r.bdg then { s with fwEvents := s.fwEvents ++ l } else s

/-- Set a sticky status bit that is tied to a named event (R467): its raw record, and the named firmware record with that record's SEQ. -/
def raiseNamed (s : State) (base : Nat) (f : Fld) (raw : List Nat) (typ cls ver op0 op1 : Nat) (detail : List Nat) : State :=
  let q := fld s 0 R.OWL_SEQ
  let u := unitOfKey s (base + f.off)
  pushNamed (raiseD s base f raw) q [{ typ := typ, cls := cls, ver := ver, kind := u.1, unit := u.2.1, op0 := op0, op1 := op1, detail := detail, seq := q }]

/-- Raise a bit only where a condition holds. -/
def raiseIf (c : Bool) (s : State) (base : Nat) (f : Fld) : State := if c then raiseBit s base f else s

/-- Add the counts of a conversion to the CNV counters at `base` + offset (R54): SAT, INF, RSVD, NAN in the block whose CNV_SAT field is given. -/
def countCnv (s : State) (base : Nat) (sat : Fld) (c : Cnv) : State :=
  countAll s base [(sat, c.sat), ({ sat with off := sat.off + 4 }, c.inf), ({ sat with off := sat.off + 8 }, c.rsvd),
    ({ sat with off := sat.off + 12 }, c.nan)]

/-- The parity path of R406: `bad` attempts of a transfer failed. Repeats are counted; a third failure is a poisoned delivery. The path
and address are those of DETAIL0–1 (R434). -/
def parity (s : State) (bad path addr : Nat) : State :=
  let s1 := if bad = 0 then s else count s 0 R.OWL_PAR_RETRY (min bad 2)
  if bad < 3 then s1
  else raiseD (count s1 0 R.OWL_PAR_FAIL 1) 0 R.OWL_STATUS_PAR_FAIL [path, addr]

/-- `par` failed transfers in a row of one read that is itself repeated while it comes poisoned: every third of them is a failure (R406). At most nine. -/
def parityRuns (s : State) (par path addr : Nat) : State := [0, 3, 6].foldl (fun s i => parity s (min 3 (par - i)) path addr) s

end Sys2Proof.Machine
end

