-- ==== Sys2Proof/Machine/Sett.lean ====
section
/-! DEFINITION. Sett memory, its ownership and aliases (R167–R177), and the wide gradient buffer (R183–R186). -/

namespace Sys2Proof.Machine

/-- Bytes of sett memory (R167): 12 MiB; addresses above it within a region are unassigned (R168). -/
def settSize : Nat := 12582912

/-- Access kind of a 26-bit sett address (R168): 0 normal, 1 set alias, 2 clear alias, 3 reserved. -/
def settKind (a : Nat) : Nat := a / 2 ^ 24 % 4

/-- Bank of a sett byte address. -/
def settBank (a : Nat) : Nat := a % 2 ^ 24 / 262144

/-- Banks that an access of `len` bytes at `a` touches; unassigned bytes lie in no bank. -/
def settBanks (a len : Nat) : List Nat :=
  let lo := settBank a
  let hi := (a % 2 ^ 24 + (len - 1)) / 262144
  (List.range (hi + 1 - lo)).map (lo + ·) |>.filter (· < 48)

/-- OWNERp and PENDp of a bank. -/
def ownerFld (b p : Nat) : Fld := fldAt (if p = 0 then R.SETT_OWN_OWNER0 else R.SETT_OWN_OWNER1) b
/-- PENDp of a bank. -/
def pendFld (b p : Nat) : Fld := fldAt (if p = 0 then R.SETT_OWN_PEND0 else R.SETT_OWN_PEND1) b

/-- Does a unit own a port now: its code stands in OWNERp and no handover is pending (R171). -/
def ownsPort (s : State) (n unit b p : Nat) : Bool :=
  decide (fld s (tileBase n) (ownerFld b p) = unit) && decide (fld s (tileBase n) (pendFld b p) = 0)

/-- Does a unit own some port of a bank. -/
def ownsBank (s : State) (n unit b : Nat) : Bool :=
  ownsPort s n unit b 0 || (decide (b < 4) && ownsPort s n unit b 1)

/-- May a unit access `len` bytes at `a`: it owns a port of every bank touched (R173, R220). -/
def settOwned (s : State) (n unit a len : Nat) : Bool := (settBanks a len).all fun b => ownsBank s n unit b

/-- A byte of sett memory; unassigned bytes read 0 (R168). -/
def settByte (t : Tile) (o : Nat) : Byte := if o < settSize then sget (fun _ => (0 : Byte)) t.sett o else 0

/-- Read bytes of sett memory; a read through an alias is a normal read (R176). -/
def settRead (t : Tile) (a len : Nat) : List Byte := (List.range len).map fun i => settByte t (a % 2 ^ 24 + i)

/-- Store one byte; a write of an unassigned byte is ignored (R168). -/
def settPut (t : Tile) (o : Nat) (b : Byte) : Tile :=
  if o < settSize then { t with sett := sset (fun _ => (0 : Byte)) t.sett o b } else t

/-- Store bytes by an access kind: normal, OR through the set alias, AND NOT through the clear alias (R176). -/
def settPutAll (kind : Nat) : Tile → Nat → List Byte → Tile
  | t, _, [] => t
  | t, o, b :: bs =>
    let old := settByte t o
    settPutAll kind (settPut t o (if kind = 0 then b else if kind = 1 then old ||| b else old &&& (~~~ b))) (o + 1) bs

/-- Is an access through an alias one that R177 refuses: not 4-byte aligned or not whole words. -/
def aliasBad (a len : Nat) : Bool := decide (settKind a ≠ 0) && (decide (a % 4 ≠ 0) || decide (len % 4 ≠ 0))

/-- Refuse an alias write: nothing changes, it is counted and reported (R177). -/
def aliasRefuse (s : State) (n : Nat) : State :=
  raiseBit (count s (tileBase n) R.SETT_ALIAS_ERR 1) (tileBase n) R.SETT_STATUS_ALIAS_ERR

/-- A write of a unit or the host to sett memory, with the alias rules (R176, R177). Ownership is the caller's test. -/
def settWrite (s : State) (n a : Nat) (bs : List Byte) : State :=
  if aliasBad a bs.length then aliasRefuse s n
  else modTile s n fun t => settPutAll (settKind a) t (a % 2 ^ 24) bs

/-- A unit begins to wait for a port it does not own (R173). -/
def ownWaitStart (s : State) (n unit : Nat) : State :=
  modTile s n fun t => if t.ownWait.any (fun w => decide (w.1 = unit)) then t else { t with ownWait := t.ownWait ++ [(unit, s.now, false)] }

/-- A unit's wait for a port ends: its tc are counted (R173). -/
def ownWaitEnd (s : State) (n unit : Nat) : State :=
  match (tileAt s n).ownWait.find? (fun w => decide (w.1 = unit)) with
  | none => s
  | some w =>
    let s1 := count s (tileBase n) R.SETT_OWN_STALL (s.now - w.2.1)
    let s2 := if unit = 2 then count s1 (tileBase n) R.STR_STALL_OWN (s.now - w.2.1) else s1
    modTile s2 n fun t => { t with ownWait := t.ownWait.filter (fun v => decide (v.1 ≠ unit)) }

/-- Write OWNERp of a bank (R171, R172): a reserved code and port 1 of a single-port bank are ignored; the value it reads changes
nothing; any other starts a handover or replaces the pending owner. -/
def setOwner (s : State) (n b p o : Nat) : State :=
  let tb := tileBase n
  if 6 < o then raiseBit s tb R.SETT_STATUS_BAD_OWNER
  else if p = 1 ∧ 4 ≤ b then s
  else if 48 ≤ b then s
  else if fld s tb (ownerFld b p) = o then s
  else setFld (setFld s tb (ownerFld b p) o) tb (pendFld b p) 1

/-- SETT_HANDOVER: a host write of SETT_OWNb, judged field by field (R171). -/
def execSettHandover (t : Fin 64) (b : Fin 48) (w : Word) (s : State) : Host.Outcome State Fault Refusal :=
  if !hostUp s then .next s
  else
    let n := phys s t
    let s1 := setOwner s n b 0 (w.toNat % 16)
    .next (if b.val < 4 then setOwner s1 n b 1 (w.toNat / 256 % 16) else s1)

/-- OWN_TIMEOUT: a unit has waited STALL_LIM µs for a port (R173); it keeps waiting. -/
def execOwnTimeout (t : Fin 64) (unit : Fin 16) (s : State) : Host.Outcome State Fault Refusal :=
  let n := phys s t
  let lim := max 1 (fld s (tileBase n) R.SETT_CTRL_STALL_LIM) * tcUs
  if (tileAt s n).ownWait.any (fun w => decide (w.1 = unit.val) && decide (w.2.1 + lim ≤ s.now) && !w.2.2) then
    .next (raiseBit (modTile s n fun x => { x with ownWait := x.ownWait.map fun w => if w.1 = unit.val then (w.1, w.2.1, true) else w })
      (tileBase n) R.SETT_STATUS_OWN_TIMEOUT)
  else .next s

/-- HOST_SETT_ACCESS: a BAR4 access of whole 32-bit words to the tile's aperture (R168, R174–R177). `data` is what a write carries; none
reads `len` bytes. `coll`: another owner's access meets the same word in the same tc (R175). -/
def execHostSettAccess (t : Fin 64) (off len : Nat) (data : Option (List Byte)) (coll : Bool) (s : State) : Host.Outcome State Fault Refusal :=
  if !hostUp s then .next s
  else
    let n := phys s t
    let tb := tileBase n
    let a := off % 2 ^ 26
    let sz := match data with
      | some bs => bs.length
      | none => len
    if settKind a = 3 then .next (if data.isSome then s else { s with hostResp := List.replicate sz 0 })
    else if !settOwned s n 1 a sz then
      let s1 := raiseBit (count s tb R.SETT_HOST_DENY 1) tb R.SETT_STATUS_HOST_DENY
      .next (if data.isSome then s1 else { s1 with hostResp := List.replicate sz 0xFF })
    else
      let s1 := if coll && (settBanks a sz).any (· < 4) then count s tb R.SETT_DP_COLL 1 else s
      match data with
      | some bs => .next (settWrite s1 n a bs)
      | none => .next { s1 with hostResp := settRead (tileAt s1 n) a sz }

/-! ### Wide gradient buffer -/

/-- A slot of the wide gradient buffer; every slot holds +0 after a reset (R186). -/
def wgbSlot (t : Tile) (i : Nat) : Word := sget (fun _ => (0 : Word)) t.wgb i

/-- One add (R183, R184): slot + value rounded to FP32 with RNE; 1 where it saturated. -/
def wgbAddOne (t : Tile) (i : Nat) (v : Word) : Tile × Nat :=
  let r := fp32Enc .rne (fAdd (fp32Dec (wgbSlot t i)) (fp32Dec v))
  ({ t with wgb := sset (fun _ => (0 : Word)) t.wgb i r.1 }, r.2)

/-- Adds in order, each with its own rounding; the number that saturated. -/
def wgbAddAll : Tile → List (Nat × Word) → Tile × Nat
  | t, [] => (t, 0)
  | t, (i, v) :: vs =>
    let r := wgbAddOne t i v
    let q := wgbAddAll r.1 vs
    (q.1, r.2 + q.2)

/-- Apply adds to a tile's buffer, with the counts of R183 and R184. -/
def wgbApply (s : State) (n : Nat) (adds : List (Nat × Word)) : State :=
  let r := wgbAddAll (tileAt s n) adds
  let s1 := count (setTile s n r.1) (tileBase n) R.TILE_WGB_ADD adds.length
  if r.2 = 0 then s1
  else raiseBit (count s1 (tileBase n) R.TILE_WGB_SAT r.2) (tileBase n) R.TILE_STATUS_WGB_SAT

/-- Values at consecutive slots. -/
def slotAdds (slot : Nat) (vs : List Word) : List (Nat × Word) := (List.range vs.length).zip vs |>.map fun p => (slot + p.1, p.2)

/-- WGB_ADD: the oldest adds of the DME drain or of a flush reach the buffer, with the adds the VU delivers in the same tc (R183). -/
def execWgbAdd (t : Fin 64) (vuAdds : List (Nat × Word)) (s : State) : Host.Outcome State Fault Refusal :=
  let n := phys s t
  let vu := vuAdds.filter (fun p => decide (p.1 < 1048576))
  match (tileAt s n).wgbPend with
  | [] => .next (if vu = [] then s else wgbApply s n vu)
  | (_, slot, vs) :: rest =>
    let s1 := wgbApply s n (slotAdds slot vs ++ vu)
    .next (modTile s1 n fun x => { x with wgbPend := rest })

end Sys2Proof.Machine
end

