-- ==== Sys2Proof/Machine/Contain.lean ====
section
/-! DEFINITION. Containment (R419, R420, R426): what an unrecovered detection in a tile does, suspect events and taints. -/

namespace Sys2Proof.Machine

/-- A suspect event against a physical tile (R426); Smiteale acts on it under R427. -/
def suspect (s : State) (n cause : Nat) : State :=
  let s1 := count s 0 R.OWL_SUSPECT 1
  let s2 := count s1 0 (fldAt R.OWL_PTILE_ESC_EVENTS n) 1
  let s3 := setFld s2 0 (fldAt R.OWL_PTILE_ESC_LAST_CAUSE n) cause
  let s4 := raiseD s3 0 R.OWL_STATUS_SUSPECT [cause, fld s3 0 (fldAt R.OWL_PTILE_ESC_LEVEL n)]
  { s4 with suspects := s4.suspects ++ [(n, cause)] }

/-- Is a base version tainted (R420, R429). -/
def tainted (s : State) (v : Nat) : Bool :=
  s.taints.contains v || (match s.taintFrom with
    | some f => decide (f ≤ v)
    | none => false)

/-- A taint of version v (R420): counted and reported. -/
def taint (s : State) (v : Nat) : State :=
  let s1 := raiseBit (count s 0 R.OWL_TAINT 1) 0 R.OWL_STATUS_TAINT
  { s1 with taints := if s1.taints.contains v then s1.taints else s1.taints ++ [v] }

/-- The version register of a tile's sequencer (R267). -/
def seqVer (s : State) (n : Nat) : Nat := fld s (tileBase n) R.TILE_SEQ_VER_VERSION

/-- May the micro-batch in progress be check-replayed (R419): it has issued no non-repeatable command, has had no check replay, REPLAYS
is below 2, and it is no wide run. -/
def canCheckReplay (s : State) (n : Nat) : Bool :=
  let t := tileAt s n
  t.mark.isSome && !t.micro.nonRep && !t.micro.chkDone && decide (fld s (tileBase n) R.ACC_ESC_STATE_REPLAYS < 2) &&
    decide (fld s (tileBase n) R.ACC_ESC_STATE_WIDE_RUN = 0)

/-- An unrecovered detection in a tile (R419): a check replay where the micro-batch allows one, else a suspect event and a taint of the
tile's version. A detection that meets a check replay already due joins it. -/
def detect (s : State) (n : Nat) : State :=
  if (tileAt s n).micro.chkPend then s
  else if canCheckReplay s n then
    setFld (modTile s n fun t => { t with micro := { t.micro with chkPend := true } }) (tileBase n) R.ACC_ESC_STATE_REWIND 1
  else taint (suspect s n 1) (seqVer s n)

/-! ### Checksum windows (R418) -/

/-- Window length. -/
def winLog2 (cfg1 : Nat) : Nat := clampN 10 20 (cfg1 % 32)
/-- Least length of a judged window. -/
def minLog2 (cfg1 : Nat) : Nat := min (clampN 4 16 (cfg1 / 256 % 32)) (winLog2 cfg1)

/-- Has one of the three events that close a window come. -/
def winDue (w : CsWindow) : Bool :=
  decide (2 ^ winLog2 w.cfg1 ≤ w.n) || (decide (1 ≤ w.commits) && decide (2 ^ minLog2 w.cfg1 ≤ w.n)) || decide (2 ≤ w.commits)

/-- Close a window: judged against MS_TH or counted thin; a new one opens. -/
def closeWin (s : State) (n a : Nat) : State :=
  let w := (arrAt (tileAt s n) a).cs
  let s1 := modArr s n a fun x => { x with cs := { cfg0 := fld s 0 R.OWL_CS_CFG0, cfg1 := fld s 0 R.OWL_CS_CFG1 } }
  if w.n < 2 ^ minLog2 w.cfg1 then count s1 0 R.OWL_CS_THIN 1
  else
    let s2 := count s1 0 R.OWL_CS_WIN 1
    if w.sumZ2 ≤ max 0x100 (w.cfg0 / 65536) * w.n * 256 then s2
    else
      let s3 := raiseD (count s2 0 R.OWL_CS_WIN_FAIL 1) 0 R.OWL_STATUS_CS_WIN
        [16 * (logicalOf s n).getD 0 + a, w.sumZ2 / (256 * w.n), w.n, 0, w.vlo % 2 ^ 32, w.vlo / 2 ^ 32, w.vhi % 2 ^ 32, w.vhi / 2 ^ 32]
      { s3 with csFails := s3.csFails ++ [(n, a, w.vlo, w.vhi)], failWins := s3.failWins ++ [(w.vlo, w.vhi)] }

/-- Close a window that is due. -/
def closeDue (s : State) (n a : Nat) : State := if winDue (arrAt (tileAt s n) a).cs then closeWin s n a else s

/-- A commit counts in every array's window (R418). -/
def windowsCommit (s : State) : State :=
  (List.range 64).foldl (fun s t => (List.range 16).foldl (fun s a =>
    let s1 := closeDue s (phys s t) a
    modArr s1 (phys s1 t) a fun x => { x with cs := { x.cs with commits := x.cs.commits + 1 } }) s) s

/-- Does Smiteale run: it takes commands and acts on conditions (R449, R456), and no core of the hub processor has stopped (R471). -/
def fwReady (s : State) : Bool := decide (fld s 0 R.HIF_FW_STATE = 2) && s.stall.isNone

end Sys2Proof.Machine
end

