-- ==== Sys2Proof/Machine/Check.lean ====
section
/-! DEFINITION. The check values: CRC-16 of a command (R261), CRC-32C of a block (R408), and the block check (R409). -/

namespace Sys2Proof.Machine

/-- One bit of the CRC-16 with polynomial 0x1021, most significant bit first (R261). -/
def crc16Bit (c : BitVec 16) (b : Bool) : BitVec 16 :=
  if xor c.msb b then (c <<< 1) ^^^ 0x1021#16 else c <<< 1

/-- One byte of the CRC-16, its most significant bit first. -/
def crc16Byte (c : BitVec 16) (b : Byte) : BitVec 16 :=
  [7, 6, 5, 4, 3, 2, 1, 0].foldl (fun (c : BitVec 16) (i : Nat) => crc16Bit c (b.getLsbD i)) c

/-- The CRC-16 of R261: initial value 0xFFFF, no final exclusive-or. -/
def crc16 (bs : List Byte) : BitVec 16 := bs.foldl crc16Byte 0xFFFF#16

/-- CRC of a command: over its 32 bytes with bytes 2 and 3 taken as 0 (R261). -/
def cmdCrc (bs : List Byte) : Nat := (crc16 (bs.take 2 ++ [0, 0] ++ (bs.drop 4).take 28)).toNat

/-- One bit of the reflected CRC-32C (R408); 0x82F63B78 is 0x1EDC6F41 reflected. -/
def crc32Bit (c : BitVec 32) : BitVec 32 :=
  if c.getLsbD 0 then (c >>> 1) ^^^ 0x82F63B78#32 else c >>> 1

/-- One byte of the reflected CRC-32C. -/
def crc32Byte (c : BitVec 32) (b : Byte) : BitVec 32 :=
  [0, 1, 2, 3, 4, 5, 6, 7].foldl (fun (c : BitVec 32) (_ : Nat) => crc32Bit c) (c ^^^ b.setWidth 32)

/-- CRC-32C with initial value and final exclusive-or 0xFFFF_FFFF (R408). -/
def crc32c (bs : List Byte) : Nat := ((bs.foldl crc32Byte 0xFFFFFFFF#32) ^^^ 0xFFFFFFFF#32).toNat

/-- CRC-32C of a block: bytes 0–9,183 and then 9,188–9,215 (R408). -/
def blockCrc (b : List Byte) : Nat := crc32c (b.take 9184 ++ (b.drop 9188).take 28)

/-- What a consumer expects of a block (R409). -/
structure Expect where
  tid : Nat
  blk : Nat
  fmt : Nat
  layout : Nat
  deriving DecidableEq, Repr

/-- The failures of a block check by bit, as DETAIL4 of R434 numbers them: 0 CRC, 1 FMT, 2 LAYOUT, 3 identifier or index,
4 poison; 0 where the block passes (R409). -/
def blockCheck (e : Expect) (poison : Bool) (b : List Byte) : Nat :=
  let t := trailerOf b
  (if t.crc = blockCrc b then 0 else 1) +
  (if t.format % 16 = e.fmt ∧ e.fmt ≤ 10 then 0 else 2) +
  (if t.format / 16 % 16 = e.layout then 0 else 4) +
  (if t.tid = e.tid ∧ t.block = e.blk then 0 else 8) +
  (if poison then 16 else 0)

/-- A block from its payload, scale bytes and trailer fields, with a fresh CRC-32C (R23, R24, R411). -/
def mkBlock (payload scales : List Byte) (t : Trailer) : List Byte :=
  let body := payload ++ List.replicate (8192 - payload.length) 0 ++ scales ++ List.replicate (992 - scales.length) 0
  let t0 := { t with crc := 0 }
  let b0 := body ++ trailerBytes t0
  body ++ trailerBytes { t with crc := blockCrc b0 }

/-- The same block with another version and fresh CRC: what a unit does that copies or restamps a block (R411). -/
def restamp (b : List Byte) (t : Trailer) : List Byte :=
  let body := b.take 9184
  let b0 := body ++ trailerBytes { t with crc := 0 }
  body ++ trailerBytes { t with crc := blockCrc b0 }

end Sys2Proof.Machine
end

