-- ==== Sys2Proof/Machine/Mc.lean ====
section
/-! DEFINITION. The memory controllers (R290–R308, R313): acceptance, choice and service of requests, merging, write epochs, refresh. -/

namespace Sys2Proof.Machine

/-- MC m. -/
def mcAt (s : State) (m : Nat) : Mc := sget (fun _ => {}) s.mcs m

/-- Store MC m, and show its queue lengths in MC_STATE. -/
def setMc (s : State) (m : Nat) (x : Mc) : State :=
  let s1 := { s with mcs := sset (fun _ => {}) s.mcs m x }
  setFld (setFld s1 (mcBase m) R.MC_STATE_RD_Q x.rdq.length) (mcBase m) R.MC_STATE_WR_Q x.wrq.length

/-- The parts of a byte range that lie in one region each (R295), as (address, length). -/
def regionParts (addr len : Nat) : List (Nat × Nat) :=
  let r := addr / 65536
  let room := 65536 * (r + 1) - addr
  if len ≤ room then [(addr, len)] else [(addr, room), (addr + room, len - room)]

/-- Write epoch of the region of an address (R307). -/
def epochOf (s : State) (addr : Nat) : Nat := sget (fun _ => 0) (mcAt s (stackOf addr)).epochs (localRegion addr)

/-- A served write raises the write epoch of its region by 1, modulo 2^16 (R307). -/
def bumpEpoch (s : State) (addr : Nat) : State :=
  let m := stackOf addr
  let x := mcAt s m
  let q := localRegion addr
  { s with mcs := sset (fun _ => {}) s.mcs m { x with epochs := sset (fun _ => 0) x.epochs q ((sget (fun _ => 0) x.epochs q + 1) % 65536) } }

/-- The regions from `addr` over `len` bytes, as parts; at most `fuel` regions. -/
def allParts : Nat → Nat → Nat → List (Nat × Nat)
  | 0, _, _ => []
  | f + 1, addr, len =>
    if len = 0 then []
    else
      let room := 65536 * (addr / 65536 + 1) - addr
      if len ≤ room then [(addr, len)] else (addr, room) :: allParts f (addr + room) (len - room)

/-- A read that a unit other than a streamer makes of its stack or of HBM: counted at each MC it reaches (R313). -/
def memRead (s : State) (addr len : Nat) : List Byte × State :=
  (hbmRead s addr len, (allParts (len / 65536 + 2) addr len).foldl (fun s p => count s (mcBase (stackOf p.1)) R.MC_RD_CNT 1) s)

/-- A write that a unit other than a streamer makes: stored, counted, and each region's epoch raised once (R307, R313). -/
def memWrite (s : State) (addr : Nat) (bs : List Byte) : State :=
  (allParts (bs.length / 65536 + 2) addr bs.length).foldl (fun s p => bumpEpoch (count s (mcBase (stackOf p.1)) R.MC_WR_CNT 1) p.1) (hbmWrite s addr bs)

/-- Do two requests' bytes overlap. -/
def reqOverlap (a b : McReq) : Bool := decide (a.addr < b.addr + b.len) && decide (b.addr < a.addr + a.len)

/-- The oldest request of a list by a test. -/
def oldest (p : McReq → Bool) (l : List McReq) : Option McReq :=
  l.foldl (fun acc r => if p r then (match acc with | some q => if r.stamp < q.stamp then some r else acc | none => some r) else acc) none

/-- Requests whose bytes overlap are served in the order they reached the MC (R304): step back to the oldest request that must precede. -/
def precede (l : List McReq) : Nat → McReq → McReq
  | 0, r => r
  | f + 1, r =>
    match oldest (fun q => decide (q.stamp < r.stamp) && reqOverlap q r) l with
    | some q => precede l f q
    | none => r

/-- Age limit in tile clocks (R304): LIM × 10 ns, LIM at least 10. -/
def mcLim (s : State) (m : Nat) : Nat := max 10 (fld s (mcBase m) R.MC_AGE_LIM) * 16

/-- Drain start level (R304). -/
def mcHi (s : State) (m : Nat) : Nat := max 1 (fld s (mcBase m) R.MC_CTRL_WR_HI)
/-- Drain stop level (R304). -/
def mcLo (s : State) (m : Nat) : Nat := min (fld s (mcBase m) R.MC_CTRL_WR_LO) (mcHi s m - 1)

/-- Is a read's row open in its bank set. -/
def rowHit (x : Mc) (r : McReq) : Bool := decide (sget (fun _ => 0) x.openRow (bankSetOf r.addr) = rowOf r.addr + 1)

/-- The MC's choice (R304), with what it counts: 0 nothing, 1 an age-limit choice, 2 a row hit, 3 a miss. -/
def mcChoose (s : State) (m : Nat) : Option (McReq × Nat) :=
  let x := mcAt s m
  let l := x.rdq ++ x.wrq
  match oldest (fun r => decide (r.at' + mcLim s m ≤ s.now)) l with
  | some r => some (precede l l.length r, 1)
  | none =>
    let d := if x.draining then oldest (fun _ => true) x.wrq else none
    match d with
    | some r => some (precede l l.length r, 0)
    | none =>
      match oldest (rowHit x) x.rdq with
      | some r => some (precede l l.length r, 2)
      | none =>
        match oldest (fun _ => true) x.rdq with
        | some r => some (precede l l.length r, 3)
        | none => none

/-- Change one block of a streamer job. -/
def modBlk (s : State) (n job k : Nat) (f : BlkReq → BlkReq) : State :=
  modTile s n fun t => { t with jobs := t.jobs.map fun j => if j.id = job then { j with blks := j.blks.map fun b => if b.k = k then f b else b } else j }

/-- One part of a block request has been served: read data and its epoch arrive, or a write is done. -/
def partServed (now : Nat) (r : McReq) (data : List Byte) (ep : Nat) (pois : Bool) (b : BlkReq) : BlkReq :=
  let b1 := { b with parts := b.parts - 1, pois := b.pois || pois,
                     epochs := if r.write then b.epochs else b.epochs ++ [(r.addr / 65536, ep)],
                     data := if r.write then b.data else b.data.take (r.addr - b.addr) ++ data ++ b.data.drop (r.addr - b.addr + r.len) }
  if b1.parts = 0 then { b1 with phase := .served, tServe := now } else b1

/-- The queues after a request left them, and the drain state. -/
def mcRemove (s : State) (m : Nat) (r : McReq) : State :=
  let x := mcAt s m
  let w := x.wrq.filter fun q => decide (q.stamp ≠ r.stamp)
  let x1 := { x with rdq := x.rdq.filter (fun q => decide (q.stamp ≠ r.stamp)), wrq := w, draining := x.draining && decide (mcLo s m < w.length),
                     openRow := sset (fun _ => 0) x.openRow (bankSetOf r.addr) (rowOf r.addr + 1) }
  setMc s m x1

/-- MC_SERVE: the MC chooses and serves one queued request (R304, R305, R307, R291). `corr` errors the stack corrected and `unc` says that it
reported the read uncorrectable. -/
def mcServe (s : State) (m corr : Nat) (unc : Bool) : State :=
  let mb := mcBase m
  match mcChoose s m with
  | none => s
  | some (r, why) =>
    let s1 := if why = 1 then count s mb R.MC_AGE_FORCE 1
              else if r.write then s
              else if why = 2 then count s mb R.MC_ROW_HIT 1 else if why = 3 then count s mb R.MC_ROW_MISS 1 else s
    let s2 := mcRemove s1 m r
    if r.write then
      let s3 := bumpEpoch (count (hbmWrite s2 r.addr r.data) mb R.MC_WR_CNT 1) r.addr
      r.dests.foldl (fun s w => modBlk s w.1 w.2.1 w.2.2 (partServed s.now r [] 0 false)) s3
    else
      let data := hbmRead s2 r.addr r.len
      let ep := epochOf s2 r.addr
      let s3 := count s2 mb R.MC_RD_CNT 1
      let s4 := if corr = 0 then s3 else count s3 mb R.MC_ECC_CORR corr
      let s5 := if unc then raiseBit (count s4 mb R.MC_ECC_UNCORR 1) mb R.MC_STATUS_ECC_UNCORR else s4
      r.dests.foldl (fun s w => modBlk s w.1 w.2.1 w.2.2 (partServed s.now r data ep unc)) s5

/-- MC_SERVE. -/
def execMcServe (m : Fin 24) (corr : Nat) (unc : Bool) (s : State) : Host.Outcome State Fault Refusal := .next (mcServe s m corr unc)

/-- Has the queue a request would enter room (R303). -/
def mcRoom (x : Mc) (r : McReq) : Bool := if r.write then decide (x.wrq.length < 256) else decide (x.rdq.length < 1024)

/-- The read in the queue that a new read joins (R305): same address and length, and no write to overlapping bytes came between them. -/
def mergeWith (x : Mc) (r : McReq) : Option McReq :=
  x.rdq.find? fun q => decide (q.addr = r.addr) && decide (q.len = r.len) && !(x.wrq.any fun w => decide (q.stamp < w.stamp) && reqOverlap w r)

/-- Accept one request that reached the MC. -/
def mcEnter (s : State) (m : Nat) (r0 : McReq) : State :=
  let x := mcAt s m
  let r := { r0 with stamp := x.stamp, at' := s.now }
  let x1 := { x with net := x.net.erase r0, stamp := x.stamp + 1, lastSrc := r.src }
  if r.write then
    let w := x1.wrq ++ [r]
    setMc s m { x1 with wrq := w, draining := x.draining || decide (mcHi s m ≤ w.length) }
  else
    match (if fldOn s (mcBase m) R.MC_CTRL_MERGE_EN then mergeWith x r else none) with
    | some q =>
      count (setMc s m { x1 with rdq := x1.rdq.map fun p => if p.stamp = q.stamp then { p with dests := p.dests ++ r.dests } else p }) (mcBase m) R.MC_MERGE_CNT 1
    | none => setMc s m { x1 with rdq := x1.rdq ++ [r] }

/-- The waiting request whose source comes next in rotation after the last one accepted (R303), each source's oldest first. -/
def nextSource (x : Mc) (ok : McReq → Bool) : Option McReq :=
  let heads := (List.range 68).filterMap fun i =>
    let src := (x.lastSrc + 1 + i) % 68
    x.net.find? fun r => decide (r.src = src)
  heads.find? ok

/-- MC_ACCEPT: the MC accepts one request, in rotating order among the sources that wait; a refused one is counted (R303). -/
def mcAccept (s : State) (m : Nat) : State :=
  let x := mcAt s m
  let s1 := if x.net.any (fun r => !mcRoom x r) then count s (mcBase m) R.MC_QFULL_TC 1 else s
  match nextSource x (mcRoom x) with
  | some r => mcEnter s1 m r
  | none => s1

/-- MC_ACCEPT. -/
def execMcAccept (m : Fin 24) (s : State) : Host.Outcome State Fault Refusal := .next (mcAccept s m)

/-- PER_BANK_REFRESH: the refresh interval runs out; the sensor reads `temp` °C in two's complement, and refresh runs at half the interval
above 85 °C (R290). -/
def perBankRefresh (s : State) (m : Nat) (temp : BitVec 8) : State :=
  let s1 := setFld s (mcBase m) R.MC_TEMP_TEMP temp.toNat
  setBit s1 (mcBase m) R.MC_STATE_RFSH_2X (decide (85 < temp.toInt))

/-- PER_BANK_REFRESH. -/
def execPerBankRefresh (m : Fin 24) (temp : BitVec 8) (s : State) : Host.Outcome State Fault Refusal := .next (perBankRefresh s m temp)

end Sys2Proof.Machine
end

