-- ==== Sys2Proof/Machine/Ledger.lean ====
section
/-! DEFINITION. The rollout ledger (R457, R458): its records and their taint marks. -/

namespace Sys2Proof.Machine

/-- The placement of a tensor in the geometry table in force (R393, R400). -/
def placeOf (s : State) (tid : Nat) : Option GPlace := s.cfg.bind fun c => c.geom.places.find? fun p => decide (p.tid = tid)

/-- The copies of a tensor: their offsets (R392). -/
def copyOffsets (s : State) (tid : Nat) : List Nat := if 2 ^ 31 ≤ tid then [0, fld s 0 R.XCH_PAIR_OFS_OFS] else [0]

/-- Taint marks that a record takes for versions of a test (R458). -/
def taintBits (inV : Nat → Bool) (b : List Byte) : Nat :=
  (if inV (fieldLe b 0 8) then 4 else 0) + (if inV (fieldLe b 8 8) && decide (fieldLe b 8 8 ≠ 0) then 8 else 0)

/-- Taint the record in one block: Smiteale checks it, sets its marks, counts it and rewrites it (R411, R458). -/
def taintBlock (s : State) (tid blk addr : Nat) (inV : Nat → Bool) : State :=
  let r := memRead s addr 9216
  let b := r.1
  let t := trailerOf b
  let fl := fieldLe b 28 2
  let m := taintBits inV b
  if blockCheck { tid := tid, blk := blk, fmt := t.format % 16, layout := 3 } false b ≠ 0 ∨ fl % 2 = 0 ∨ m = 0 then r.2
  else
    let fl' := (BitVec.ofNat 16 fl ||| BitVec.ofNat 16 m).toNat
    count (memWrite r.2 addr (restamp (b.take 28 ++ leBytes 2 fl' ++ b.drop 30) t)) 0 R.OWL_TAINT_REC 1

/-- Taint every record of the ledger for versions of a test (R421, R425). -/
def taintLedger (s : State) (inV : Nat → Bool) : State :=
  if s.ledger = 0 then s
  else
    match placeOf s s.ledger with
    | none => s
    | some p =>
      (copyOffsets s s.ledger).foldl (fun s o =>
        (List.range p.cnt).foldl (fun s i => taintBlock s p.tid i (p.base + i * p.stride + o) inV) s) s

end Sys2Proof.Machine
end

