-- ==== Sys2Proof/Machine/Array.lean ====
section
/-! DEFINITION. The arithmetic of the arrays and of the accumulator (chapters 03 and 04): drive images, passes, ranges, converter codes,
lane entries, promotions, crossings, and the loading of a plane. -/

namespace Sys2Proof.Machine

/-- Register base of array a of physical tile n. -/
def arrBase (n a : Nat) : Nat := tileBase n + a * 0x1000

/-- Code of plane state (R67). -/
def psEmpty : Nat := 0
/-- STAGING. -/
def psStaging : Nat := 1
/-- WRITING. -/
def psWriting : Nat := 2
/-- READY. -/
def psReady : Nat := 3
/-- ACTIVE. -/
def psActive : Nat := 4
/-- INVALID. -/
def psInvalid : Nat := 5
/-- EXPIRED. -/
def psExpired : Nat := 6

/-- STATE of a plane. -/
def planeState (s : State) (n a : Nat) (b : Bool) : Nat :=
  fld s (arrBase n a) (if b then R.ARR_STATE_STATE_B else R.ARR_STATE_STATE_A)

/-- Set STATE of a plane. -/
def setPlaneState (s : State) (n a : Nat) (b : Bool) (v : Nat) : State :=
  setFld s (arrBase n a) (if b then R.ARR_STATE_STATE_B else R.ARR_STATE_STATE_A) v

/-- Is plane B the active plane. -/
def actB (s : State) (n a : Nat) : Bool := fldOn s (arrBase n a) R.ARR_STATE_ACT_B

/-- The content of a plane. -/
def planeOf (x : Arr) (b : Bool) : Plane := if b then x.b else x.a

/-- Replace the content of a plane. -/
def setPlane (x : Arr) (b : Bool) (p : Plane) : Arr := if b then { x with b := p } else { x with a := p }

/-- Wide mode of an array: ARR_CTRL.WIDE in force, or wide content of a wide run (R99, R135). -/
def arrWide (s : State) (n a : Nat) : Bool :=
  (arrAt (tileAt s n) a).wideRun || (arrAt (tileAt s n) a).modeWide

/-- Refresh interval I of an array in tile clocks (R92): by the band in use, or INTERVAL ms. -/
def rfshInterval (s : State) (n a : Nat) : Nat :=
  if fldOn s (arrBase n a) R.ARR_RFSH_CFG_AUTO then
    (match fld s (arrBase n a) R.ARR_TEMP_BAND with
      | 0 => 2000 | 1 => 1000 | 2 => 500 | 3 => 250 | 4 => 125 | 5 => 64 | 6 => 32 | _ => 16) * tcMs
  else max 1 (fld s (arrBase n a) R.ARR_RFSH_CFG_INTERVAL) * tcMs

/-- Does a plane's age count now: it is READY, ACTIVE or EXPIRED (R91). -/
def ages (st : Nat) : Bool := decide (st = psReady) || decide (st = psActive) || decide (st = psExpired)

/-- Has a plane's age reached `num`/2 × I (R91–R96). -/
def ageReached (s : State) (n a : Nat) (b : Bool) (num : Nat) : Bool :=
  ages (planeState s n a b) && decide (num * rfshInterval s n a ≤ 2 * (s.now - (planeOf (arrAt (tileAt s n) a) b).aged))

/-- Weight code of a plane's site. -/
def wCode (p : Plane) (i j : Nat) : Int := sget (fun _ => (0 : Int)) p.code (512 * i + j)

/-! ### Drive images -/

/-- Is a drive image one that FIRE refuses (R110, R270): byte 528 neither 0x05 nor 0x08, or B8/32 scales that differ. -/
def imageBad (img : List Byte) : Bool :=
  let f := (img.getD 528 0).toNat
  if f = 5 then false
  else if f = 8 then !((List.range 16).all fun i => decide (img.getD (512 + i) 0 = img.getD 512 0))
  else true

/-- The 512 drive codes of an image and the number of reserved codes read (R32, R74, R216). -/
def imageCodes (img : List Byte) : List Int × Nat :=
  let f := if (img.getD 528 0).toNat = 8 then Fmt.b8g32 else Fmt.b4g512
  let cs := (List.range 512).map fun i => codeVal f (payloadElem f img i)
  (cs.map fun c => (fvalRat c.1).num, (cs.map (·.2)).sum)

/-- The drive-scale byte of an image. -/
def imageScale (img : List Byte) : Nat := (img.getD 512 0).toNat

/-- Clip a drive code to ±7 (R111). -/
def clip7 (x : Int) : Int := clampI (-7) 7 x

/-! ### Passes -/

/-- The load of codes lo to hi − 1 (R76). -/
def loadOf (x : List Int) (lo hi : Nat) : Nat := ((x.drop lo).take (hi - lo)).foldl (fun a v => a + v.natAbs) 0

/-- Largest magnitude of codes lo to hi − 1. -/
def maxMag (x : List Int) (lo hi : Nat) : Nat := ((x.drop lo).take (hi - lo)).foldl (fun a v => max a v.natAbs) 0

/-- The passes of a vector by the table of R78, before empty ones are skipped. -/
def passRanges (x : List Int) : List (Nat × Nat) :=
  let l01 := loadOf x 0 256
  let l23 := loadOf x 256 512
  if l01 + l23 ≤ 1152 then [(0, 512)]
  else if l01 ≤ 1152 ∧ l23 ≤ 1152 then [(0, 256), (256, 512)]
  else [(0, 128), (128, 256), (256, 384), (384, 512)]

/-- Range exponent of a pass (R80). -/
def rangeExp (load hr : Nat) : Nat :=
  match [0, 1, 2, 3].find? (fun (r : Nat) => decide (7 * load ≤ 127 * 4 ^ r * 2 ^ hr)) with
  | some r => r
  | none => 3

/-- Effective headroom (R127): ARR_CTRL.HEADROOM + HR_OFS, within 0 to 3. -/
def headroom (s : State) (n a : Nat) : Nat :=
  (clampI 0 3 ((fld s (arrBase n a) R.ARR_CTRL_HEADROOM : Nat) + fldInt s (tileBase n) R.ACC_ESC_STATE_HR_OFS)).toNat

/-- The passes of a vector that starts its drive at tile clock `t0` (R78–R80): k + 5 ac each, with no gap. -/
def mkPasses (x : List Int) (hr t0 : Nat) : List Pass :=
  ((passRanges x).foldl (fun (acc : List Pass × Nat) (r : Nat × Nat) =>
    let l := loadOf x r.1 r.2
    if l = 0 then acc
    else
      let k := maxMag x r.1 r.2
      let e := acc.2 + (k + 5) * 4
      (acc.1 ++ [{ lo := r.1, hi := r.2, load := l, k := k, r := rangeExp l hr, endAt := e }], e)) ([], t0)).1

/-- Nearest integer of a rational, ties to even. -/
def rneInt (q : Rat) : Int := if q < 0 then -((roundMag .rne (-q) : Nat) : Int) else ((roundMag .rne q : Nat) : Int)

/-- A converter code (R81–R83): the exact quotient with a free deviation, rounded and clamped; never beyond ±lim. -/
def convCode (free : Nat) (lim exact quantum : Int) : Int :=
  clampI (-lim) lim (rneInt ((exact : Rat) / (quantum : Rat)) + Config.convDev free)

/-! ### Lanes -/

/-- Round to the wide accumulator's 24-bit significand (R106). -/
def round24 (q : Rat) : Rat :=
  if q = 0 then 0
  else
    let a := rabs q
    let u := pow2 (ilog2 a - 23)
    let m := (roundMag .rne (a / u) : Rat) * u
    if q < 0 then -m else m

/-- A promotion: N × 2^E_ref into the wide accumulator, and the narrow adder emptied (R106). -/
def promote (l : Lane) : Lane :=
  { l with wide := round24 (l.wide + (l.n : Rat) * pow2 l.eref), n := 0, cnt := 0 }

/-- One entry into a lane (R104) with promote interval P: the lane, promotions and forced promotions. -/
def laneEnter (P : Nat) (l : Lane) (e v : Int) : Lane × Nat × Nat :=
  let forced := decide (l.cnt ≠ 0) && (decide (e < l.eref) || decide (l.eref + 6 < e))
  let l1 := if forced then promote l else l
  let l2 := if l1.cnt = 0 then { l1 with eref := e, n := v, cnt := 1 }
            else { l1 with n := l1.n + v * (2 ^ (e - l1.eref).toNat : Nat), cnt := l1.cnt + 1 }
  let due := decide (P ≤ l2.cnt)
  let l3 := if due then promote l2 else l2
  (l3, (if forced then 1 else 0) + (if due then 1 else 0), if forced then 1 else 0)

/-- One entry of a wide run (R134): no shift and no P; a promotion is forced ahead of an entry of another exponent, or one that would carry
|N| above 2^23 − 1. -/
def laneEnterWide (l : Lane) (e v : Int) : Lane × Nat × Nat :=
  let forced := decide (l.cnt ≠ 0) && (decide (e ≠ l.eref) || decide (8388607 < (l.n + v).natAbs))
  let l1 := if forced then promote l else l
  let l2 := if l1.cnt = 0 then { l1 with eref := e, n := v, cnt := 1 } else { l1 with n := l1.n + v, cnt := l1.cnt + 1 }
  (l2, if forced then 1 else 0, if forced then 1 else 0)

/-- Add an exact fox correction to the wide accumulator as one rounding (R116). -/
def laneFox (l : Lane) (f e : Int) : Lane :=
  if f = 0 then l else { l with wide := round24 (l.wide + (f : Rat) * pow2 e) }

/-! ### Crossings (R122, R127) -/

/-- Threshold fields: a written 0 acts as 1. -/
def thOf (v : Nat) : Nat := max 1 v

/-- Block window length W (R120). -/
def winW (s : State) (n : Nat) : Nat := 2 ^ clampN 10 20 (fld s (tileBase n) R.ACC_WIN_WIN_LOG2)

/-- A crossing (R122): recorded and counted; with ESC_EN set and no wide run it starts the escalation of its cause (R127): weight
clips act at once, the others make a rewind due. A crossing during a wide run starts none (R130). -/
def crossing (s : State) (n cause : Nat) (fox : Bool) (block : Nat) : State :=
  let tb := tileBase n
  let s1 := count s tb R.ACC_XING_CNT 1
  let s2 := setFld s1 tb R.ACC_ESC_LAST_CAUSE cause
  let s3 := setFld (setBit s2 tb R.ACC_ESC_LAST_FOX fox) tb R.ACC_ESC_LAST_BLOCK (if fox then 0 else block)
  let s4 := raiseBit s3 tb R.ACC_STATUS_XING
  if fldOn s4 tb R.ACC_ESC_STATE_WIDE_RUN then
    raiseBit (count s4 tb R.ACC_WIDE_XING 1) tb R.ACC_STATUS_WIDE_XING
  else if !fldOn s4 tb R.ACC_CTRL_ESC_EN then s4
  else if cause = 4 then
    raiseBit (setFld s4 tb R.ACC_ESC_STATE_CAUSE 4) tb R.ACC_STATUS_WCLIP
  else if (tileAt s4 n).mark.isNone then s4
  else
    setFld (modTile s4 n fun t => { t with micro := { t.micro with
      pend := if t.micro.pend.contains cause then t.micro.pend else t.micro.pend ++ [cause] } }) tb R.ACC_ESC_STATE_REWIND 1

/-- Add to a fox-window count and cross where it passes its threshold (R121, R122). `w`: the weight-clip count, else input residuals. -/
def foxWindowAdd (s : State) (n : Nat) (w : Bool) (k : Nat) : State :=
  if k = 0 then s
  else
    let tb := tileBase n
    let f := if w then R.FOX_WIN_STATE_WCLIP else R.FOX_WIN_STATE_ICLIP
    let th := thOf (fld s tb (if w then R.FOX_WCLIP_TH_TH else R.FOX_ICLIP_TH_TH))
    let old := fld s tb f
    let new := min 0xFFFF (old + k)
    let s1 := setFld s tb f new
    if old ≤ th ∧ th < new then crossing s1 n (if w then 4 else 2) true 0 else s1

/-- Close the fox window: its counts return to 0 (R121). -/
def foxWindowReset (s : State) (n : Nat) : State :=
  setFld (modTile s n fun t => { t with foxFired := 0 }) (tileBase n) R.FOX_WIN_STATE 0

/-- Length of the fox window in firings (R121). -/
def foxWin (s : State) (n : Nat) : Nat := max 16 (fld s (tileBase n) R.FOX_CTRL_WIN)

/-- Count one firing in the fox window; a window already full ends first. -/
def foxFiring (s : State) (n : Nat) : State :=
  let s1 := if foxWin s n ≤ (tileAt s n).foxFired then foxWindowReset s n else s
  modTile s1 n fun t => { t with foxFired := t.foxFired + 1 }

/-- Close the window of one output block (R120). -/
def blockWindowReset (s : State) (n b : Nat) : State :=
  let s1 := setFld s (tileBase n) (fldAt R.ACC_BLK_SAT_COUNT b) 0
  let s2 := setFld s1 (tileBase n) (fldAt R.ACC_BLK_ZERO_COUNT b) 0
  modTile s2 n fun t => { t with blkCodes := sset (fun _ => 0) t.blkCodes b 0 }

/-- Codes entering an output block in one clock (R120, R122): the code count and the two block counters rise, and each crosses where it
passes its threshold; a window that is already full closes first. -/
def blockCount (s : State) (n b codes sat zer : Nat) : State :=
  let tb := tileBase n
  let s0 := if winW s n ≤ sget (fun _ => 0) (tileAt s n).blkCodes b then blockWindowReset s n b else s
  let s1 := modTile s0 n fun t => { t with blkCodes := sset (fun _ => 0) t.blkCodes b (sget (fun _ => 0) t.blkCodes b + codes) }
  let os := fld s1 tb (fldAt R.ACC_BLK_SAT_COUNT b)
  let oz := fld s1 tb (fldAt R.ACC_BLK_ZERO_COUNT b)
  let s2 := setFld (setFld s1 tb (fldAt R.ACC_BLK_SAT_COUNT b) (os + sat)) tb (fldAt R.ACC_BLK_ZERO_COUNT b) (oz + zer)
  let ts := thOf (fld s tb R.ACC_SAT_TH_TH)
  let tz := thOf (fld s tb R.ACC_ZERO_TH_TH)
  let s3 := if os ≤ ts ∧ ts < os + sat then crossing s2 n 3 false b else s2
  if tz ≤ winW s n ∧ oz ≤ tz ∧ tz < oz + zer then crossing s3 n 1 false b else s3

/-! ### Loading a plane -/

/-- Row sum S_i of a plane's codes (R61). -/
def rowSum (code : List (Nat × Int)) (i : Nat) : Int :=
  (List.range 512).foldl (fun a j => a + sget (fun _ => (0 : Int)) code (512 * i + j)) 0

/-- Column sum T_j (R61). -/
def colSum (code : List (Nat × Int)) (j : Nat) : Int :=
  (List.range 512).foldl (fun a i => a + sget (fun _ => (0 : Int)) code (512 * i + j)) 0

/-- A table of integers from a function on 0–511. -/
def tab512 (f : Nat → Int) : List (Nat × Int) :=
  (List.range 512).foldl (fun l i => sset (fun _ => (0 : Int)) l i (f i)) []

/-- The weight codes of 16 B4/512 blocks (R59) by 512·row + column, and the reserved codes read (R62): element i of group j of block k is
row i of column 32k + j. -/
def sliceCodes (blks : List (List Byte)) : List (Nat × Int) × Nat :=
  (List.range 262144).foldl (fun (acc : List (Nat × Int) × Nat) (e : Nat) =>
    let c := codeVal .b4g512 (payloadElem .b4g512 (blks.getD (e / 16384) []) (e % 16384))
    let col := e / 512
    let row := e % 512
    (sset (fun _ => (0 : Int)) acc.1 (512 * row + col) (fvalRat c.1).num, acc.2 + c.2)) ([], 0)

/-- Weight-scale bytes of the 512 columns (R59). -/
def sliceExps (blks : List (List Byte)) : List (Nat × Nat) :=
  (List.range 512).foldl (fun l j => sset (fun _ => 0) l j ((blks.getD (j / 32) []).getD (8192 + j % 32) 0).toNat) []

/-- The used entries of list k of an INT32 list block (R113, R114). -/
def listEntries (blk : List Byte) (k : Nat) : List Outlier :=
  (List.range 256).filterMap fun e =>
    let w := fieldLe blk (1024 * k + 4 * e) 4
    if w % 256 = 0 then none
    else some { row := w / 2 ^ 23, col := w / 2 ^ 14 % 512, res := sext 8 (w % 256) }

/-- Sum of the CLIP fields of the source blocks (R118, R119). -/
def clipSum (blks : List (List Byte)) : Nat := (blks.map fun b => fieldLe b (9184 + 30) 2).sum

/-- A plane's content from its codes (R61): checksum codes c_i = RNE(−S_i / 512), residues and column sums; the checksum deviations κ_i
are measured at the row writes (R415) and come in with them. -/
def mkPlane (code : List (Nat × Int)) (exps : List (Nat × Nat)) (outl : List Outlier) (clip : Nat) : Plane :=
  { code := code, exps := exps,
    cks := tab512 fun i => rneInt (-(rowSum code i : Rat) / 512),
    rho := tab512 fun i => -(rowSum code i) - 512 * rneInt (-(rowSum code i : Rat) / 512),
    tsum := tab512 fun j => colSum code j,
    outl := outl, clip := clip }

/-- Nearest integer of v / 15 for |v| ≤ 112 (R133); no ties arise. -/
def slice15 (v : Int) : Int := rneInt ((v : Rat) / 15)

/-- Residual of an entry limited to ±105 (R113). -/
def res105 (r : Int) : Int := clampI (-105) 105 r

/-- The merged weight of a wide write before its limit (R133): the code plus the limited residuals of its list entries. -/
def mergedRaw (code : List (Nat × Int)) (outl : List Outlier) (i j : Nat) : Int :=
  (outl.filter fun o => decide (o.row = i ∧ o.col = j)).foldl (fun a o => a + res105 o.res) (sget (fun _ => (0 : Int)) code (512 * i + j))

/-- The two slices of a wide write (R133), and how many weights the limit of ±112 changed. -/
def wideSlices (code : List (Nat × Int)) (outl : List Outlier) : List (Nat × Int) × List (Nat × Int) × Nat :=
  (List.range 262144).foldl (fun (acc : List (Nat × Int) × List (Nat × Int) × Nat) (e : Nat) =>
    let raw := mergedRaw code outl (e / 512) (e % 512)
    let w := clampI (-112) 112 raw
    let h := slice15 w
    (sset (fun _ => (0 : Int)) acc.1 e h, sset (fun _ => (0 : Int)) acc.2.1 e (w - 15 * h), acc.2.2 + (if raw = w then 0 else 1))) ([], [], 0)

/-- The source registers of a plane (R97). -/
def srcOf (s : State) (n a : Nat) (b : Bool) : SrcRec :=
  let k := arrBase n a
  { src := fld s k (if b then R.ARR_SRC_B else R.ARR_SRC_A), stride := fld s k (if b then R.ARR_STRIDE_B else R.ARR_STRIDE_A),
    list := fld s k (if b then R.ARR_LIST_B else R.ARR_LIST_A), tid := fld s k (if b then R.ARR_TID_B else R.ARR_TID_A),
    ltid := fld s k (if b then R.ARR_LTID_B else R.ARR_LTID_A), ver := fld s k (if b then R.ARR_VER_B else R.ARR_VER_A) }

/-- Write the source registers of a plane (R269). -/
def setSrc (s : State) (n a : Nat) (b : Bool) (r : SrcRec) : State :=
  let k := arrBase n a
  let s1 := setFld s k (if b then R.ARR_SRC_B else R.ARR_SRC_A) r.src
  let s2 := setFld s1 k (if b then R.ARR_STRIDE_B else R.ARR_STRIDE_A) r.stride
  let s3 := setFld s2 k (if b then R.ARR_LIST_B else R.ARR_LIST_A) r.list
  let s4 := setFld s3 k (if b then R.ARR_TID_B else R.ARR_TID_A) r.tid
  let s5 := setFld s4 k (if b then R.ARR_LTID_B else R.ARR_LTID_A) r.ltid
  setFld s5 k (if b then R.ARR_VER_B else R.ARR_VER_A) r.ver

/-- Has a plane a recorded source: a written plane's stride is at least 9,216 (R263, R269). -/
def hasSrc (r : SrcRec) : Bool := decide (r.stride ≠ 0)

/-- The remap in force for a write (R159, R160): spare k to column for the valid entries, the lower k of two that name one column. -/
def remapOf (s : State) (n a : Nat) : List (Nat × Nat) :=
  let b := tileBase n + 0x40000 + a * 0x4000
  (List.range 8).filterMap fun k =>
    let f := fun (g : Fld) (i : Nat) => fld s (b - 0x24000) (fldAt g i)
    if f R.CAL_REMAP_VALID k = 0 then none
    else if (List.range k).any (fun i => decide (f R.CAL_REMAP_VALID i = 1) && decide (f R.CAL_REMAP_COL i = f R.CAL_REMAP_COL k)) then none
    else some (k, f R.CAL_REMAP_COL k)

/-- The checksum deviations of a row write of every row (R415): free, in units of 1/64 LSB, clamped to −128 to +127. Level 0 carries no
write error (R58). -/
def measureKappa (s : State) (cks : List (Nat × Int)) : List (Nat × Int) :=
  tab512 fun i => if sget (fun _ => (0 : Int)) cks i = 0 then 0 else clampI (-128) 127 (Config.checkDev (s.freeCtr + i))

/-- A plane comes into force (R118): the CLIP sum of its source blocks joins the weight-clip counts. -/
def planeInForce (s : State) (n a : Nat) (b : Bool) : State :=
  let c := (planeOf (arrAt (tileAt s n) a) b).clip
  if c = 0 then s else foxWindowAdd (count s (tileBase n) R.FOX_WCLIP_CNT c) n true c

end Sys2Proof.Machine
end

