-- ==== Sys2Proof/Machine/CalSums.lean ====
section
/-! DEFINITION. The sums of the calibration unit over a sub-window (R141–R143). -/

namespace Sys2Proof.Machine

/-- Add to an integer table. -/
def iadd (l : List (Nat × Int)) (k : Nat) (v : Int) : List (Nat × Int) :=
  sset (fun _ => (0 : Int)) l k (sget (fun _ => (0 : Int)) l k + v)

/-- Add to a count table. -/
def nadd (l : List (Nat × Nat)) (k v : Nat) : List (Nat × Nat) :=
  sset (fun _ => 0) l k (sget (fun _ => 0) l k + v)

/-- Does a firing of array a enter the calibration sums (R141, R142): a sweep measures it, dither is on, and it is no wide or slice firing. -/
def calMeasures (s : State) (n a : Nat) : Bool :=
  let tb := tileBase n
  fldOn s tb R.CAL_STATUS_BUSY && !fldOn s tb R.CAL_STATUS_HOLD_WAIT && decide (fld s tb R.CAL_STATUS_ARRAY = a) &&
    fldOn s (arrBase n a) R.ARR_CTRL_DITHER && !arrWide s n a

/-- The sums of one pass (R141): codes per converter, and x × 4^(3 − r) per driven line. `cks`: the checksum converter's code, forward only. -/
def calPass (c : CalUnit) (tr : Bool) (p : Pass) (x : List Int) (codes : List Int) (cks : Option Int) : CalUnit :=
  let cb := if tr then 1024 else 0
  let sb := if tr then 0 else 1024
  let idx := List.range 512
  let addM := fun (m : List (Nat × Int)) => (idx.zip codes).foldl (fun m q => iadd m (cb + q.1) q.2) m
  let addP := fun (m : List (Nat × Nat)) => idx.foldl (fun m j => nadd m (cb + j) 1) m
  let addS := fun (m : List (Nat × Int)) => (List.range (p.hi - p.lo)).foldl (fun m i => iadd m (sb + p.lo + i) (x.getD (p.lo + i) 0 * 4 ^ (3 - p.r))) m
  let marks := ((idx.zip codes).filter fun q => decide (q.2.natAbs = 127)).map fun q => cb + q.1
  if tr then { c with sumMT := addM c.sumMT, sumPT := addP c.sumPT, sumST := addS c.sumST, marksT := c.marksT ++ marks.filter (fun m => !c.marksT.contains m) }
  else
    let m0 := addM c.sumM
    let p0 := addP c.sumP
    { c with sumM := (match cks with | some v => iadd m0 520 v | none => m0), sumP := (match cks with | some _ => nadd p0 520 1 | none => p0),
             sumS := addS c.sumS, marks := c.marks ++ marks.filter (fun m => !c.marks.contains m) }

/-- The unit with empty sums: a new sub-window. -/
def calFresh (c : CalUnit) : CalUnit :=
  { c with fwd := 0, tra := 0, sumM := [], sumP := [], sumS := [], marks := [], sumMT := [], sumPT := [], sumST := [], marksT := [] }

/-- Firings that cap a sub-window (R143): 2^SUB_LOG2 within 16 to 4,096. -/
def calCap (s : State) (n : Nat) : Nat := 2 ^ clampN 4 12 (fld s (tileBase n) R.CAL_WIN_SUB_LOG2)

/-- End the sub-window (R143): kept with at least 16 firings, else discarded and counted; forward and transposed sums are judged apart. -/
def calClose (s : State) (n : Nat) : State :=
  let tb := tileBase n
  let c := (tileAt s n).cal
  let pb := actB s n (fld s tb R.CAL_STATUS_ARRAY)
  let keepF : Bool := decide (16 ≤ c.fwd)
  let keepT : Bool := decide (16 ≤ c.tra) && fldOn s tb R.CAL_CTRL_ROWS_EN
  let drop := (if keepF then 0 else 1) + (if c.tra ≠ 0 ∧ c.tra < 16 then 1 else 0)
  let subs := (if keepF then [{ tr := false, planeB := pb, sumM := c.sumM, sumP := c.sumP, sumS := c.sumS, marks := c.marks }] else []) ++
    (if keepT then [{ tr := true, planeB := pb, sumM := c.sumMT, sumP := c.sumPT, sumS := c.sumST, marks := c.marksT }] else [])
  let s1 := if drop = 0 then s else count s tb R.CAL_SUB_DROP drop
  modTile s1 n fun t => { t with cal := { calFresh t.cal with subs := t.cal.subs ++ subs } }

/-- End the sub-window of an array where a sweep measures it: at a swap, or where its active plane's content changes (R143). -/
def calCloseIf (s : State) (n a : Nat) : State :=
  let tb := tileBase n
  if fldOn s tb R.CAL_STATUS_BUSY && !fldOn s tb R.CAL_STATUS_HOLD_WAIT && decide (fld s tb R.CAL_STATUS_ARRAY = a) then calClose s n else s

/-- SUB_WINDOW_CLOSE: the sub-window of the array under measurement reaches its firing cap (R143). A swap or a change of content ends it in
the command that makes the change. -/
def execSubWindowClose (t : Fin 64) (s : State) : Host.Outcome State Fault Refusal :=
  let n := phys s t
  let tb := tileBase n
  if fldOn s tb R.CAL_STATUS_BUSY && !fldOn s tb R.CAL_STATUS_HOLD_WAIT && decide (calCap s n ≤ (tileAt s n).cal.fwd) then .next (calClose s n)
  else .next s

end Sys2Proof.Machine
end

