-- ==== Sys2Proof/Machine/SeqDecode.lean ====
section
/-! DEFINITION. The command format of the streams (R260–R266), descriptors (R263, R264), and the checks a sequencer makes at fetch (R262,
R168, R272–R277, R281, R282, R293, R297). -/

namespace Sys2Proof.Machine

/-- Failure statuses of R284. -/
def stCrc : Nat := 1
/-- OPCODE. -/
def stOpcode : Nat := 2
/-- FIELD. -/
def stField : Nat := 3
/-- DESC. -/
def stDesc : Nat := 4
/-- FORMAT. -/
def stFormat : Nat := 5
/-- SCALE. -/
def stScale : Nat := 6
/-- PLANE_ACTIVE. -/
def stPlaneActive : Nat := 7
/-- PLANE_STATE. -/
def stPlaneState : Nat := 8
/-- WIDE_SWAP. -/
def stWideSwap : Nat := 9
/-- ARRAY_OFF. -/
def stArrayOff : Nat := 10
/-- ORDER. -/
def stOrder : Nat := 11
/-- BLOCK_CHECK. -/
def stBlockCheck : Nat := 12
/-- VU_FAULT. -/
def stVuFault : Nat := 13
/-- LAUNCH. -/
def stLaunch : Nat := 14
/-- WIDE_AREA. -/
def stWideArea : Nat := 15
/-- TORN. -/
def stTorn : Nat := 16
/-- NOT_OWNER. -/
def stNotOwner : Nat := 17

/-- Bits hi..lo of a word. -/
def bits (w hi lo : Nat) : Nat := w / 2 ^ lo % 2 ^ (hi - lo + 1)

/-- One bit of a word. -/
def bitOn (w i : Nat) : Bool := decide (w / 2 ^ i % 2 = 1)

/-- Do the operand words W1–W7 use only the bits of the masks; unused words have mask 0 (R262). -/
def onlyBits (ws masks : List Nat) : Bool :=
  (List.range 7).all fun i => decide ((ws.getD (i + 1) 0) &&& (0xFFFFFFFF - masks.getD i 0) = 0)

/-- Decode the operands of an opcode (R266); none where a reserved bit, an unused word or a range is broken. -/
def decodeOps (opc : Nat) (ws : List Nat) : Option (Option SeqCmd) :=
  let w := fun i => ws.getD i 0
  let chk : List Nat → Bool → SeqCmd → Option (Option SeqCmd) := fun m c r => some (if onlyBits ws m && c then some r else none)
  match opc with
  | 0x00 => chk [] true .nop
  | 0x01 => chk [0x1FFFF, 0xFFFFFFFF, 0xFFFF, 0xFFFFFFFF] (decide (w 2 % 64 = 0))
      (.mark { markId := bits (w 1) 15 0, areaHbm := bitOn (w 1) 16, area := w 2 + w 3 * 2 ^ 32, areaLen := w 4 })
  | 0x02 => chk [1, 0xFFFFFFFF, 0xFFFF] true (.launch { rel := bitOn (w 1) 0, count := w 2 + w 3 * 2 ^ 32 })
  | 0x03 => chk [0x7F] true (.fence (bits (w 1) 6 0))
  | 0x04 => chk [0xFFFF0F3F, 0x7F] (decide (bits (w 1) 31 16 ≠ 0))
      (.signal { tile := bits (w 1) 5 0, ctr := bits (w 1) 11 8, inc := bits (w 1) 31 16, after := bits (w 2) 6 0 })
  | 0x05 => chk [0xF, 0xFFFFFFFF] true (.wait { ctr := bits (w 1) 3 0, value := w 2 })
  | 0x06 => chk [0xF] true (.sigclr (bits (w 1) 3 0))
  | 0x07 => chk [1, 0xFFFFFFFF, 0xFFFFFFFF] true (.setver { committed := bitOn (w 1) 0, ver := w 2 + w 3 * 2 ^ 32 })
  | 0x08 => chk [0xF013F] (decide (bits (w 1) 5 0 < 48) && (decide (bits (w 1) 8 8 = 0) || decide (bits (w 1) 5 0 < 4)))
      (.settown { bank := bits (w 1) 5 0, port := bits (w 1) 8 8, owner := bits (w 1) 19 16 })
  | 0x10 => chk [0xFFFF001F, 0xFFFFFFFF, 0xFFFF000F, 0xFFFFFFFF, 0x83FFFFFF]
      (!bitOn (w 5) 31 || (decide (bits (w 5) 25 0 % 64 = 0) && decide (settKind (bits (w 5) 25 0) ≠ 3)))
      (.pwrite { array := bits (w 1) 3 0, planeB := bitOn (w 1) 4, desc := bits (w 1) 31 16, block0 := w 2, listEn := bitOn (w 3) 0,
                 listK := bits (w 3) 3 1, listDesc := bits (w 3) 31 16, listBlock := w 4, cfa := bits (w 5) 25 0, cfaEn := bitOn (w 5) 31 })
  | 0x11 => chk [0xFFFF] true (.swap (bits (w 1) 15 0))
  | 0x12 => chk [0x1FFFF, 0xFFFFFFFF, 0xFFFFFFFF, 0x3FFFFFF, 0xFFFF] true
      (.fire { mask := bits (w 1) 15 0, feed := bitOn (w 1) 16, segmap := w 2 + w 3 * 2 ^ 32, drv := bits (w 4) 25 0, stride := bits (w 5) 15 0 })
  | 0x13 => chk [0x1FFFF, 0xFFFFFFFF, 0xFFFFFFFF, 0x3FFFFFF, 0xFFFF] true
      (.tfire { mask := bits (w 1) 15 0, feed := bitOn (w 1) 16, segmap := w 2 + w 3 * 2 ^ 32, drv := bits (w 4) 25 0, stride := bits (w 5) 15 0 })
  | 0x18 => chk [0xFFFF001F, 0xFFFFFFFF, 0xFFFFFFFF] (if bitOn (w 1) 4 then decide (w 3 + 511 ≤ 1048575) else decide (w 3 < 2 ^ 26))
      (.flush { seg := bits (w 1) 3 0, toWgb := bitOn (w 1) 4, outDesc := bits (w 1) 31 16, inDesc := bits (w 2) 15 0, wDesc := bits (w 2) 31 16, addr := w 3 })
  | 0x20 => chk [0xFF, 0x3FFFFFF, 0x3FFFFFF, 0x3FFFFFF, 0xFFFFFFFF, 0xFFFFFFFF, 0xFFFFFFFF]
      (decide (bits (w 5) 15 0 ≠ 0) && decide (bits (w 5) 31 16 ≠ 0) && decide (bits (w 6) 15 0 ≠ 0) &&
        (!bitOn (w 1) 2 || decide (bits (w 4) 25 0 + bits (w 5) 15 0 * bits (w 5) 31 16 ≤ 1048576)))
      (.dmeop { mode := bits (w 1) 1 0, toWgb := bitOn (w 1) 2, aFeed := bitOn (w 1) 3, bFeed := bitOn (w 1) 4, aImg := bitOn (w 1) 5,
                aT := bitOn (w 1) 6, bT := bitOn (w 1) 7, aAddr := bits (w 2) 25 0, bAddr := bits (w 3) 25 0, dAddr := bits (w 4) 25 0,
                m := bits (w 5) 15 0, n := bits (w 5) 31 16, k := bits (w 6) 15 0, aDesc := bits (w 6) 31 16, bDesc := bits (w 7) 15 0,
                dDesc := bits (w 7) 31 16 })
  | 0x28 => chk [0xFFFF7FFF, 0xFFFFFFFF, 0xFFFFFFFF, 0xFFFFFFFF, 0xFFFFFFFF] true
      (.vdisp { entry := bits (w 1) 12 0, drive := bitOn (w 1) 13, descEn := bitOn (w 1) 14, desc := bits (w 1) 31 16, arg1 := w 2, arg2 := w 3,
                arg3 := w 4, arg4 := w 5 })
  | 0x29 => chk [0xFFFF0077, 0xFFFFFFFF] (decide (bits (w 1) 2 0 + bits (w 1) 6 4 + 1 ≤ 8))
      (.kload { base := bits (w 1) 2 0, count := bits (w 1) 6 4 + 1, desc := bits (w 1) 31 16, block0 := w 2 })
  | 0x30 => chk [0xFFFF0003, 0xFFFFFFFF, 0xFFFF, 0x3FFFFFF, 0xFFFF] true
      (.load { feed := bitOn (w 1) 0, vchk := bitOn (w 1) 1, desc := bits (w 1) 31 16, block0 := w 2, count := bits (w 3) 15 0,
               settAddr := bits (w 4) 25 0, rowlen := bits (w 5) 15 0 })
  | 0x31 => chk [0xFFFF0003, 0xFFFFFFFF, 0xFFFF, 0x3FFFFFF, 0xFFFF] true
      (.store { pack := bitOn (w 1) 0, shared := bitOn (w 1) 1, desc := bits (w 1) 31 16, block0 := w 2, count := bits (w 3) 15 0,
                settAddr := bits (w 4) 25 0, images := bits (w 5) 15 0 })
  | 0x38 => chk [0xFFFFF, 0x1FFFFF] (decide (bits (w 1) 19 0 + bits (w 2) 20 0 ≤ 1048576))
      (.wgclr { slot := bits (w 1) 19 0, count := bits (w 2) 20 0 })
  | 0x39 => chk [0x3FFFFF, 0x1FFFFF, 0xFFFFFFFF, 0x1FFFFFF, 0xFFFFFFFF, 0xFFFF] (decide (bits (w 1) 19 0 + bits (w 2) 20 0 ≤ 1048576))
      (.wgflush { slot := bits (w 1) 19 0, bf16 := bitOn (w 1) 20, clr := bitOn (w 1) 21, count := bits (w 2) 20 0, bucket := w 3,
                  offset := bits (w 4) 24 0, samples := w 5, desc := bits (w 6) 15 0 })
  | 0x40 => chk [0xFFFFFFFF, 0xFFFFFFFF] true (.xclose { bucket := w 1, samples := w 2 })
  | 0x41 => chk [0xFFFFFFFF] true (.missue (w 1))
  | 0x42 =>
      let cnt := bits (w 1) 22 20
      chk ([0x7F0FFF] ++ (List.range 6).map fun i => if i < cnt then 0xFFFFFFFF else 0)
        (decide (1 ≤ cnt) && decide (cnt ≤ 6) && decide (bits (w 1) 19 16 + cnt ≤ 16))
        (.grpupd { group := bits (w 1) 11 0, reg := bits (w 1) 19 16, vals := (List.range cnt).map fun i => BitVec.ofNat 32 (w (i + 2)) })
  | _ => none

/-- The opcode of a command (R266). -/
def opcodeOf : SeqCmd → Nat
  | .nop => 0x00 | .mark _ => 0x01 | .launch _ => 0x02 | .fence _ => 0x03 | .signal _ => 0x04 | .wait _ => 0x05 | .sigclr _ => 0x06
  | .setver _ => 0x07 | .settown _ => 0x08 | .pwrite _ => 0x10 | .swap _ => 0x11 | .fire _ => 0x12 | .tfire _ => 0x13 | .flush _ => 0x18
  | .dmeop _ => 0x20 | .vdisp _ => 0x28 | .kload _ => 0x29 | .load _ => 0x30 | .store _ => 0x31 | .wgclr _ => 0x38 | .wgflush _ => 0x39
  | .xclose _ => 0x40 | .missue _ => 0x41 | .grpupd _ => 0x42

/-- Decode a command's eight words (R260, R262, R266): the status and the command. -/
def decodeSeq (bs : List Byte) : Nat × SeqCmd :=
  let ws := (List.range 8).map fun i => fieldLe bs (4 * i) 4
  let w0 := ws.getD 0 0
  match decodeOps (w0 % 256) ws with
  | none => (stOpcode, .nop)
  | some none => (stField, .nop)
  | some (some c) => if w0 / 256 % 256 = 0 then (0, c) else (stField, .nop)

/-- A bit as a number. -/
def bit01 (b : Bool) : Nat := if b then 1 else 0

/-- The operand words W1 to W7 of a command, lowest first, by the table of R266; words not given are 0. -/
def operandWords : SeqCmd → List Nat
  | .nop => []
  | .mark o => [o.markId + bit01 o.areaHbm * 2 ^ 16, o.area % 2 ^ 32, o.area / 2 ^ 32, o.areaLen]
  | .launch o => [bit01 o.rel, o.count % 2 ^ 32, o.count / 2 ^ 32]
  | .fence u => [u]
  | .signal o => [o.tile + o.ctr * 2 ^ 8 + o.inc * 2 ^ 16, o.after]
  | .wait o => [o.ctr, o.value]
  | .sigclr c => [c]
  | .setver o => [bit01 o.committed, o.ver % 2 ^ 32, o.ver / 2 ^ 32]
  | .settown o => [o.bank + o.port * 2 ^ 8 + o.owner * 2 ^ 16]
  | .pwrite o => [o.array + bit01 o.planeB * 2 ^ 4 + o.desc * 2 ^ 16, o.block0, bit01 o.listEn + o.listK * 2 + o.listDesc * 2 ^ 16, o.listBlock,
      o.cfa + bit01 o.cfaEn * 2 ^ 31]
  | .swap m => [m]
  | .fire o => [o.mask + bit01 o.feed * 2 ^ 16, o.segmap % 2 ^ 32, o.segmap / 2 ^ 32, o.drv, o.stride]
  | .tfire o => [o.mask + bit01 o.feed * 2 ^ 16, o.segmap % 2 ^ 32, o.segmap / 2 ^ 32, o.drv, o.stride]
  | .flush o => [o.seg + bit01 o.toWgb * 2 ^ 4 + o.outDesc * 2 ^ 16, o.inDesc + o.wDesc * 2 ^ 16, o.addr]
  | .dmeop o => [o.mode + bit01 o.toWgb * 2 ^ 2 + bit01 o.aFeed * 2 ^ 3 + bit01 o.bFeed * 2 ^ 4 + bit01 o.aImg * 2 ^ 5 + bit01 o.aT * 2 ^ 6 + bit01 o.bT * 2 ^ 7,
      o.aAddr, o.bAddr, o.dAddr, o.m + o.n * 2 ^ 16, o.k + o.aDesc * 2 ^ 16, o.bDesc + o.dDesc * 2 ^ 16]
  | .vdisp o => [o.entry + bit01 o.drive * 2 ^ 13 + bit01 o.descEn * 2 ^ 14 + o.desc * 2 ^ 16, o.arg1, o.arg2, o.arg3, o.arg4]
  | .kload o => [o.base + (o.count - 1) * 2 ^ 4 + o.desc * 2 ^ 16, o.block0]
  | .load o => [bit01 o.feed + bit01 o.vchk * 2 + o.desc * 2 ^ 16, o.block0, o.count, o.settAddr, o.rowlen]
  | .store o => [bit01 o.pack + bit01 o.shared * 2 + o.desc * 2 ^ 16, o.block0, o.count, o.settAddr, o.images]
  | .wgclr o => [o.slot, o.count]
  | .wgflush o => [o.slot + bit01 o.bf16 * 2 ^ 20 + bit01 o.clr * 2 ^ 21, o.count, o.bucket, o.offset, o.samples, o.desc]
  | .xclose o => [o.bucket, o.samples]
  | .missue b => [b]
  | .grpupd o => (o.group + o.reg * 2 ^ 16 + o.vals.length * 2 ^ 20) :: o.vals.map BitVec.toNat

/-- The 32 bytes of a command as a stream stores them (R260, R261). -/
def encodeSeq (c : SeqCmd) : List Byte :=
  let ops := operandWords c
  let bs := leBytes 4 (opcodeOf c) ++ (List.range 7).flatMap fun i => leBytes 4 (ops.getD i 0)
  bs.take 2 ++ leBytes 2 (cmdCrc bs) ++ bs.drop 4

/-- Decode a descriptor (R263) and judge it (R264, R297): the status and the descriptor. -/
def decodeDesc (bs : List Byte) : Nat × Desc :=
  let at' := fieldLe bs 8 4
  let base := fieldLe bs 12 8
  let d : Desc :=
    { tid := fieldLe bs 0 4, scale := fieldLe bs 4 4, fmt := bits at' 3 0, layout := bits at' 7 4, grad := bitOn at' 8, pgroup := bits at' 20 9,
      ubias := sext 7 (bits at' 27 21), sett := bitOn base 63, base := base % 2 ^ 48, pos := fieldLe bs 20 8, stride := fieldLe bs 28 4 }
  let st :=
    if 10 < d.fmt then stFormat
    else if !fp32Normal (BitVec.ofNat 32 d.scale) then stScale
    else if bits at' 31 28 ≠ 0 ∨ bits base 62 48 ≠ 0 ∨ d.stride % 64 ≠ 0 ∨ d.stride < 9216 ∨ 3 < d.layout then stField
    else if d.sett && (decide (2 ^ 26 ≤ d.base) || decide (settKind d.base = 3)) then stField
    else 0
  (st, d)

/-- The descriptor indices a command names (R264). -/
def descsOf : SeqCmd → List Nat
  | .pwrite o => o.desc :: (if o.listEn then [o.listDesc] else [])
  | .flush o => (if o.toWgb then [] else [o.outDesc]) ++ [o.inDesc, o.wDesc]
  | .dmeop o => [o.aDesc, o.bDesc] ++ (if o.toWgb then [] else [o.dDesc])
  | .vdisp o => if o.descEn then [o.desc] else []
  | .kload o => [o.desc]
  | .load o => [o.desc]
  | .store o => [o.desc]
  | .wgflush o => [o.desc]
  | _ => []

/-- Descriptor `i` among those read at fetch. -/
def descGet (ds : List (Nat × Desc)) (i : Nat) : Option Desc := (ds.find? fun p => decide (p.1 = i)).map (·.2)

/-- Read the descriptors a command names from the tile's table (R263, R264): the first failure, and what was read. -/
def readDescs (s : State) (n : Nat) (c : SeqCmd) : Nat × List (Nat × Desc) :=
  let base := fld s (tileBase n) R.TILE_SEQ_DESC_ADDR * 32
  let cnt := fld s (tileBase n) R.TILE_SEQ_DESC_CNT
  (descsOf c).foldl (fun (acc : Nat × List (Nat × Desc)) (i : Nat) =>
    if acc.1 ≠ 0 then acc
    else if cnt ≤ i then (stDesc, acc.2)
    else
      let d := decodeDesc (hbmRead s (base + 32 * i) 32)
      (d.1, acc.2 ++ [(i, d.2)])) (0, [])

/-- Address of block i of a tensor (R264). -/
def blkAddr (d : Desc) (i : Nat) : Nat := d.base + i * d.stride

/-- Do blocks lie within HBM (R293), or in sett memory outside the reserved access kind (R168). -/
def blocksOk (d : Desc) (b0 cnt : Nat) : Bool :=
  if cnt = 0 then true
  else
    let last := blkAddr d (b0 + cnt - 1) + 9216
    if d.sett then decide (last ≤ 3 * 2 ^ 24) else decide (last ≤ hbmEnd)

/-- Is a run of sett addresses free of the reserved access kind (R168). -/
def settOk (a len : Nat) : Bool := decide (a % 2 ^ 26 + (len - 1) < 3 * 2 ^ 24)

/-- Bytes of a DME operand row (R273): elements packed, then scale bytes for a block format, padded to a 64-byte boundary. -/
def rowBytes (f : Fmt) (len : Nat) : Nat :=
  let e := (len * fmtBits f + 7) / 8
  let sc := match fmtGroup f with
    | some g => (len + g - 1) / g
    | none => 0
  (e + sc + 63) / 64 * 64

/-- The formats a DME mode takes (R178); mode 3 has no stream operand, its B being 16-bit integers. -/
def dmeFmts (mode a b : Nat) : Bool :=
  if mode = 0 then [4, 5, 6, 7].contains a && [2, 3].contains b
  else if mode = 1 then [2, 3, 8].contains a && [2, 3].contains b
  else if mode = 2 then decide (a = 1) && decide (b = 1)
  else false

/-- Drive images per IMAGE-layout block (R238): 32 of B4/512, 16 of B8/32. -/
def imagesPerBlock (fmt : Nat) : Nat := if fmt = 5 then 32 else 16

/-- The checks of a command at fetch that need its descriptors (R168, R272–R276, R293, R297): 0 or a status. -/
def checkCmd (c : SeqCmd) (ds : List (Nat × Desc)) : Nat :=
  let dflt : Desc := { tid := 0, scale := 0, fmt := 0, layout := 0, grad := false, pgroup := 0, ubias := 0, sett := false, base := 0, pos := 0, stride := 0 }
  let d := fun i => (descGet ds i).getD dflt
  let ok : Bool :=
    match c with
    | .pwrite o =>
      decide ((d o.desc).layout = 1) && decide ((d o.desc).fmt = 5) && blocksOk (d o.desc) o.block0 16 &&
      (!o.listEn || (decide ((d o.listDesc).layout = 3) && decide ((d o.listDesc).fmt = 9) && blocksOk (d o.listDesc) o.listBlock 1)) &&
      (!o.cfaEn || settOk o.cfa 2048)
    | .fire o => o.feed || (List.range 16).all fun j => !decide (j < ((List.range 16).filter fun a => bitOn o.mask a).length) || settOk (o.drv + 64 * o.stride * j) 576
    | .tfire o => o.feed || (List.range 16).all fun j => !decide (j < ((List.range 16).filter fun a => bitOn o.mask a).length) || settOk (o.drv + 64 * o.stride * j) 576
    | .flush o =>
      o.toWgb || (decide ((d o.outDesc).fmt ≤ 3) && settOk o.addr (512 * (match fmtOfCode (d o.outDesc).fmt with | some f => fmtBits f / 8 | none => 0)))
    | .dmeop o =>
      let fa := (fmtOfCode (d o.aDesc).fmt).getD .fp32
      let fb := (fmtOfCode (d o.bDesc).fmt).getD .fp32
      let fd := (fmtOfCode (d o.dDesc).fmt).getD .fp32
      let ra := if o.aT then o.k else o.m
      let la := if o.aT then o.m else o.k
      let rb := if o.bT then o.k else o.n
      let lb := if o.bT then o.n else o.k
      dmeFmts o.mode (d o.aDesc).fmt (d o.bDesc).fmt && (!o.aImg || ([5, 8].contains (d o.aDesc).fmt && decide (la ≤ 512))) &&
      (o.aFeed || settOk o.aAddr (if o.aImg then ra * 576 else ra * rowBytes fa la)) &&
      (o.bFeed || settOk o.bAddr (rb * rowBytes fb lb)) &&
      (o.toWgb || ([1, 3, 4].contains (d o.dDesc).fmt && settOk o.dAddr (rowBytes fd (o.m * o.n))))
    | .kload o => decide ((d o.desc).layout = 3) && decide ((d o.desc).fmt = 9) && blocksOk (d o.desc) o.block0 o.count
    | .load o =>
      blocksOk (d o.desc) o.block0 o.count &&
      (if o.feed then
        (if (d o.desc).layout = 2 then [5, 8].contains (d o.desc).fmt && decide (o.rowlen = 0)
         else decide ((d o.desc).layout = 0) && decide (1 ≤ o.rowlen) &&
          (match fmtOfCode (d o.desc).fmt with
           | some f => decide (o.rowlen % ((fmtGroup f).getD 1) = 0) && decide (o.count * fmtElems f % o.rowlen = 0)
           | none => false))
       else decide (o.rowlen = 0) && settOk o.settAddr (9216 * o.count))
    | .store o =>
      blocksOk (d o.desc) o.block0 o.count && settOk o.settAddr (if o.pack then 576 * o.images else 9216 * o.count) &&
      (!o.pack || (decide ((d o.desc).layout = 2) && [5, 8].contains (d o.desc).fmt && decide (1 ≤ o.images) &&
        decide (o.images ≤ o.count * imagesPerBlock (d o.desc).fmt)))
    | _ => true
  if ok then 0 else stField

/-- What the sequencer makes of a command's bytes at fetch: CRC, opcode and fields, descriptors, and the checks that need them. -/
def fetchEntry (s : State) (n idx : Nat) (bs : List Byte) : Fetched :=
  let c := decodeSeq bs
  if c.1 ≠ 0 then { idx := idx, cmd := .nop, descs := [], status := c.1 }
  else
    let ds := readDescs s n c.2
    if ds.1 ≠ 0 then { idx := idx, cmd := c.2, descs := [], status := ds.1 }
    else { idx := idx, cmd := c.2, descs := ds.2, status := checkCmd c.2 ds.2 }

end Sys2Proof.Machine
end

