-- ==== Sys2Proof/Machine/Seq.lean ====
section
/-! DEFINITION. The tile sequencer (chapter 09): halting, the head of the fetched commands, issue, unit queues and completion. -/

namespace Sys2Proof.Machine

/-- STOPPED, RUNNING, WAITING and HALTED of TILE_SEQ_STATUS.STATE. -/
def sqStopped : Nat := 0
/-- RUNNING. -/
def sqRunning : Nat := 1
/-- WAITING. -/
def sqWaiting : Nat := 2
/-- HALTED. -/
def sqHalted : Nat := 3

/-- State of a sequencer. -/
def seqState (s : State) (n : Nat) : Nat := fld s (tileBase n) R.TILE_SEQ_STATUS_STATE

/-- The bits of UNITS and AFTER that a command belongs to (R266, R280): 0 arrays, 1 accumulator, 2 DME, 3 VU, 4 streamer, 5 wide buffer,
6 sends; none for a sequencer command. The first is the unit whose queue it waits in. -/
def unitsOf : SeqCmd → List Nat
  | .pwrite _ => [4, 0]
  | .swap _ => [0]
  | .fire _ => [0]
  | .tfire _ => [0]
  | .flush _ => [1]
  | .dmeop _ => [2]
  | .vdisp _ => [3]
  | .kload _ => [4, 3]
  | .load _ => [4]
  | .store _ => [4]
  | .wgclr _ => [5]
  | .wgflush _ => [5, 6]
  | .xclose _ => [6]
  | .missue _ => [6]
  | .grpupd _ => [6]
  | _ => []

/-- Does a command belong to a unit of a mask. -/
def inUnits (mask : Nat) (c : SeqCmd) : Bool := (unitsOf c).any fun u => bitOn mask u

/-- Commands that R124 and R266 count as non-repeatable. -/
def nonRepeatable : SeqCmd → Bool
  | .signal _ => true
  | .flush o => o.toWgb
  | .dmeop o => o.toWgb
  | .store o => o.shared
  | .wgflush _ => true
  | .xclose _ => true
  | .missue _ => true
  | _ => false

/-- Count the prefetched blocks of jobs that are discarded unconsumed (R309). -/
def dropPrefetch (s : State) (n : Nat) : State :=
  let k := ((tileAt s n).jobs.map fun j => (j.blks.filter (·.pf)).length).sum
  let s1 := if k = 0 then s else count s (tileBase n) R.STR_PF_UNUSED k
  let s2 := setFld s1 (tileBase n) R.STR_STATE_PF_USED 0
  modTile s2 n fun t => { t with jobs := t.jobs.map fun j => { j with blks := j.blks.map fun b => if b.pf then { b with pf := false, phase := .wait, epochs := [] } else b } }

/-- A failed command halts its stream (R284, R285). Found at fetch or issue, PTR holds its index; found at execution, the index of the
first command not yet issued. Fetched commands are fetched again when the stream continues. -/
def haltSeq (s : State) (n status idx : Nat) (atExec : Bool) : State :=
  let tb := tileBase n
  let t := tileAt s n
  let next := match t.fetched with
    | f :: _ => f.idx
    | [] => fld s tb R.TILE_SEQ_PTR_PTR
  let s1 := if seqState s n = sqHalted then s else setFld s tb R.TILE_SEQ_PTR_PTR (if atExec then next else idx)
  let s2 := setFld s1 tb R.TILE_SEQ_STATUS_STATE sqHalted
  let s3 := setFld (setFld s2 tb R.TILE_SEQ_FAIL_STATUS status) tb R.TILE_SEQ_FAIL_INDEX idx
  let s4 := count s3 tb R.TILE_CMD_FAIL 1
  let s5 := raiseNamed s4 tb R.TILE_SEQ_STATUS_HALT [] 0x10 1 (fld s4 tb R.TILE_SEQ_VER_VERSION) idx 0 [status, idx]
  dropPrefetch (modTile s5 n fun t => { t with fetched := [], seqWait := none, launchSet := none }) n

/-- An issued command fails at execution: it leaves its queue and the stream halts. -/
def failExec (s : State) (n no status : Nat) : State :=
  match (tileAt s n).issued.find? (fun i => decide (i.no = no)) with
  | none => s
  | some i => haltSeq (modTile s n fun t => { t with issued := t.issued.filter (fun j => decide (j.no ≠ no)) }) n status i.idx true

/-- A failure found at fetch acts when its entry is the next to issue (R284, R285). -/
def settleHead (s : State) (n : Nat) : State :=
  match (tileAt s n).fetched with
  | f :: _ => if f.status ≠ 0 ∧ seqState s n ≠ sqHalted then haltSeq s n f.status f.idx false else s
  | [] => s

/-- May the sequencer issue now: it runs, waits on no FENCE or WAIT, and no rewind is in progress (R128, R280). -/
def canIssue (s : State) (n : Nat) : Bool :=
  decide (seqState s n = sqRunning) && !fldOn s (tileBase n) R.ACC_ESC_STATE_REWIND

/-- Commands that stand in a unit's queue: issued, and their work not ended (R259). -/
def queueLen (t : Tile) (u : Nat) : Nat := (t.issued.filter fun i => decide ((unitsOf i.cmd).head? = some u) && !i.fin).length

/-- The result of judging the head command for issue. -/
inductive HeadJudge
  /-- it does not issue now -/
  | hold
  /-- it fails at issue -/
  | fail (status idx : Nat)
  /-- it waits at the check barrier (R125) -/
  | barrier
  /-- it issues -/
  | go (f : Fetched)
  deriving DecidableEq, Repr

/-- Judge the head command (R124, R125, R259, R271): a free place in its unit's queue, the LAUNCH rule, the order rule, and the check barrier
before the first non-repeatable command and before a closing mark. -/
def judgeHead (s : State) (n : Nat) (c : SeqCmd) : HeadJudge :=
  let t := tileAt s n
  match t.fetched with
  | [] => .hold
  | f :: _ =>
    if !(canIssue s n) || !decide (f.cmd = c) || decide (f.status ≠ 0) then .hold
    else if t.launchSet.isSome && (match c with | .fire _ => false | .tfire _ => false | .swap _ => false | _ => true) then .fail stLaunch f.idx
    else if (match (unitsOf c).head? with | some u => decide (32 ≤ queueLen t u) | none => false) then .hold
    else if t.micro.nonRep && (match c with | .fire _ => true | .tfire _ => true | .vdisp o => o.drive | _ => false) then .fail stOrder f.idx
    else if t.micro.fired && ((nonRepeatable c && !t.micro.nonRep) || (match c with | .mark _ => true | _ => false)) then .barrier
    else .go f

/-- Take the head off the fetched commands and enter it as issued, with the version register at issue (R268). -/
def popIssue (s : State) (n : Nat) (f : Fetched) : State × Nat :=
  let t := tileAt s n
  let no := t.nextNo
  let i : Issued := { no := no, idx := f.idx, cmd := f.cmd, descs := f.descs, ver := seqVer s n, t0 := s.now, ran := false, fin := false, long := false }
  let s1 := modTile s n fun t => { t with fetched := t.fetched.tail, issued := t.issued ++ [i], nextNo := no + 1, launchSet := none,
                                          micro := { t.micro with nonRep := t.micro.nonRep || nonRepeatable f.cmd } }
  (count s1 (tileBase n) R.TILE_CMD_CNT 1, no)

/-- Take a sequencer command off the fetched commands: it completes at issue (R265). -/
def popSeq (s : State) (n : Nat) (f : Fetched) : State :=
  let s1 := modTile s n fun t => { t with fetched := t.fetched.tail, nextNo := t.nextNo + 1, launchSet := none,
                                          micro := { t.micro with nonRep := t.micro.nonRep || nonRepeatable f.cmd } }
  count s1 (tileBase n) R.TILE_CMD_CNT 1

/-- A command that waits at the check barrier: the wait starts (R125). -/
def startBarrier (s : State) (n : Nat) : State :=
  modTile s n fun t => { t with micro := { t.micro with barrierFrom := some (t.micro.barrierFrom.getD s.now) } }

/-- Issue the head command of logical tile t if it is `c` and may issue, by `go`; afterwards a failed entry that is now next halts. -/
def issueWith (s : State) (t : Fin 64) (c : SeqCmd) (go : Nat → Fetched → State → State) : State :=
  let n := phys s t
  match judgeHead s n c with
  | .hold => s
  | .fail st idx => haltSeq s n st idx false
  | .barrier => startBarrier s n
  | .go f => settleHead (go n f s) n

/-- Mark an issued command's effect as taken, and its work as ended. -/
def finCmd (s : State) (n no : Nat) : State :=
  modTile s n fun t => { t with issued := t.issued.map fun i => if i.no = no then { i with ran := true, fin := true } else i }

/-- Mark an issued command's effect as taken; its work goes on. -/
def ranCmd (s : State) (n no : Nat) : State :=
  modTile s n fun t => { t with issued := t.issued.map fun i => if i.no = no then { i with ran := true } else i }

/-- Has a command of another unit mask before number `no` not completed (R280). -/
def unitsBusy (t : Tile) (mask no : Nat) : Bool := t.issued.any fun i => decide (i.no < no) && inUnits mask i.cmd

/-- Send the SIGNALs whose AFTER condition now holds (R280). -/
def releaseSignals (s : State) (n : Nat) : State :=
  let t := tileAt s n
  let ready := t.sigWait.filter fun w => !unitsBusy t w.2.after w.1
  let s1 := modTile s n fun t => { t with sigWait := t.sigWait.filter fun w => unitsBusy t w.2.after w.1 }
  { s1 with sigs := s1.sigs ++ ready.map fun w => { tile := w.2.tile, ctr := w.2.ctr, inc := w.2.inc } }

/-- End a wait of the stream: it runs again, and the tc in the WAITING state are counted (R289). -/
def endWait (s : State) (n : Nat) : State :=
  let tb := tileBase n
  let s1 := count s tb R.TILE_WAIT_TC (s.now - (tileAt s n).waitFrom)
  let s2 := modTile s1 n fun t => { t with seqWait := none, waitLong := false }
  settleHead (if seqState s2 n = sqWaiting then setFld s2 tb R.TILE_SEQ_STATUS_STATE sqRunning else s2) n

/-- Does the FENCE or WAIT that the stream waits on hold now (R280). -/
def waitHolds (s : State) (n : Nat) : Bool :=
  match (tileAt s n).seqWait with
  | none => false
  | some (.fence u no _) => !unitsBusy (tileAt s n) u no
  | some (.wait c v _) => decide (v ≤ fld s (tileBase n) (fldAt R.TILE_SIG_COUNT c))

/-- After a command left its queue: signals and a fence that waited on it go on (R280). -/
def afterComplete (s : State) (n : Nat) : State :=
  let s1 := releaseSignals s n
  if waitHolds s1 n then endWait s1 n else s1

/-- The stream begins to wait (R280). -/
def startWait (s : State) (n : Nat) (w : SeqWait) : State :=
  let s1 := modTile s n fun t => { t with seqWait := some w, waitFrom := s.now, waitLong := false }
  setFld s1 (tileBase n) R.TILE_SEQ_STATUS_STATE sqWaiting

/-! ### Fetch and the sequencer's own commands -/

/-- COMMAND_FETCH: fetch ring entry PTR (R257, R259, R262). `par` transfers of it fail parity in a row, every third of which poisons an attempt (R406,
R407); `bad` attempts see a word poisoned otherwise. A CRC that does not match fails every attempt. -/
def execCommandFetch (t : Fin 64) (bad : Fin 4) (par : Fin 10) (s : State) : Host.Outcome State Fault Refusal :=
  let n := phys s t
  let tb := tileBase n
  let ptr := fld s tb R.TILE_SEQ_PTR_PTR
  let len := fld s tb R.TILE_SEQ_LEN_LEN
  let x := tileAt s n
  if !fldOn s tb R.TILE_SEQ_CTRL_RUN || decide (seqState s n = sqHalted) || decide (seqState s n = sqStopped) || decide (len < 2) ||
     decide (ptr = fld s tb R.TILE_SEQ_TAIL_TAIL) || decide (256 ≤ x.fetched.length) || x.fetched.any (fun f => decide (f.status ≠ 0)) then .next s
  else
    let bs := hbmRead s (fld s tb R.TILE_SEQ_BASE_ADDR * 64 + 32 * ptr) 32
    let wrong := if fieldLe bs 2 2 = cmdCrc bs then min 3 (bad.val + par.val / 3) else 3
    let s0 := parityRuns s par.val 0 (fld s tb R.TILE_SEQ_BASE_ADDR * 64 + 32 * ptr)
    let s1 := if wrong = 0 then s0 else count s0 tb R.TILE_CRC_RETRY (min wrong 2)
    let f := if wrong = 3 then { idx := ptr, cmd := .nop, descs := [], status := stCrc } else fetchEntry s n ptr bs
    let s2 := setFld s1 tb R.TILE_SEQ_PTR_PTR ((ptr + 1) % len)
    .next (settleHead (modTile s2 n fun y => { y with fetched := y.fetched ++ [f] }) n)

/-- NOP does nothing and completes at issue (R265, R266). -/
def execNop (t : Fin 64) (s : State) : Host.Outcome State Fault Refusal :=
  .next (issueWith s t .nop fun n f s => popSeq s n f)

/-- LAUNCH sets the count for the command that follows (R271). -/
def execLaunch (t : Fin 64) (o : LaunchOp) (s : State) : Host.Outcome State Fault Refusal :=
  .next (issueWith s t (.launch o) fun n f s => modTile (popSeq s n f) n fun x => { x with launchSet := some o })

/-- FENCE waits until every earlier command to its units has completed (R280). -/
def execFence (t : Fin 64) (units : Nat) (s : State) : Host.Outcome State Fault Refusal :=
  .next (issueWith s t (.fence units) fun n f s =>
    let no := (tileAt s n).nextNo
    let s1 := popSeq s n f
    if unitsBusy (tileAt s1 n) units no then startWait s1 n (.fence units no f.idx) else s1)

/-- WAIT waits until the tile's own counter is at least VALUE (R280). -/
def execWait (t : Fin 64) (o : WaitOp) (s : State) : Host.Outcome State Fault Refusal :=
  .next (issueWith s t (.wait o) fun n f s =>
    let s1 := popSeq s n f
    if o.value ≤ fld s1 (tileBase n) (fldAt R.TILE_SIG_COUNT o.ctr) then s1 else startWait s1 n (.wait o.ctr o.value f.idx))

/-- SIGNAL is sent once every earlier command to the AFTER units has completed (R280). -/
def execSignal (t : Fin 64) (o : SignalOp) (s : State) : Host.Outcome State Fault Refusal :=
  .next (issueWith s t (.signal o) fun n f s =>
    let no := (tileAt s n).nextNo
    let s1 := popSeq s n f
    releaseSignals (modTile s1 n fun x => { x with sigWait := x.sigWait ++ [(no, o)] }) n)

/-- SIGNAL_ARRIVE: the oldest increment on its way to logical tile t reaches its counter, which saturates (R280). -/
def execSignalArrive (t : Fin 64) (s : State) : Host.Outcome State Fault Refusal :=
  match s.sigs.find? (fun m => decide (m.tile = t.val)) with
  | none => .next s
  | some m =>
    let n := phys s t
    let s1 := count { s with sigs := s.sigs.erase m } (tileBase n) (fldAt R.TILE_SIG_COUNT m.ctr) m.inc
    .next (if waitHolds s1 n then endWait s1 n else s1)

/-- SIGCLR clears one of the tile's own counters at issue (R280). -/
def execSigclr (t : Fin 64) (ctr : Nat) (s : State) : Host.Outcome State Fault Refusal :=
  .next (issueWith s t (.sigclr ctr) fun n f s => setFld (popSeq s n f) (tileBase n) (fldAt R.TILE_SIG_COUNT ctr) 0)

/-- The value SETVER loads (R267): in a replay, the value it loaded in the micro-batch's first execution. -/
def setverValue (s : State) (n idx : Nat) (o : SetverOp) : Nat :=
  match (tileAt s n).micro.setvers.find? (fun p => decide (p.1 = idx)) with
  | some p => p.2
  | none => if o.committed then fld s 0 R.XCH_COMMITTED else o.ver

/-- SETVER loads the version register with VER or with the committed version (R267). -/
def execSetver (t : Fin 64) (o : SetverOp) (s : State) : Host.Outcome State Fault Refusal :=
  .next (issueWith s t (.setver o) fun n f s =>
    let v := setverValue s n f.idx o
    let s1 := setFld (popSeq s n f) (tileBase n) R.TILE_SEQ_VER_VERSION v
    let sv := (tileAt s1 n).micro.setvers
    let sv' := if sv.any (fun p => decide (p.1 = f.idx)) then sv else sv ++ [(f.idx, v)]
    modTile s1 n fun x => { x with micro := { x.micro with setvers := sv' } })

/-- SETTOWN writes an owner into one port of one bank, as SETT_OWNb does (R281, R171). -/
def execSettown (t : Fin 64) (o : SettownOp) (s : State) : Host.Outcome State Fault Refusal :=
  .next (issueWith s t (.settown o) fun n f s => setOwner (popSeq s n f) n o.bank o.port o.owner)

/-- CHECK_BARRIER_END: every firing has delivered its codes and fox work, so the barrier is passed; the ac of waiting are counted (R125). -/
def execCheckBarrierEnd (t : Fin 64) (s : State) : Host.Outcome State Fault Refusal :=
  let n := phys s t
  let x := tileAt s n
  let quiet := x.arrs.all fun p => p.2.run.isNone && p.2.fox.isEmpty && !(p.2.ops.any fun o => match o with | .fire _ => true | .swap _ _ _ => false)
  match x.micro.barrierFrom with
  | none => .next s
  | some t0 =>
    if !quiet || fldOn s (tileBase n) R.ACC_ESC_STATE_REWIND then .next s
    else
      let s1 := count s (tileBase n) R.ACC_MARK_WAIT ((s.now - t0) / 4)
      .next (modTile s1 n fun y => { y with micro := { y.micro with fired := false, barrierFrom := none } })

/-- SEQ_RUN: a host write of TILE_SEQ_CTRL.RUN starts or stops the fetch (R257). A stop leaves PTR at the first command not yet issued. -/
def seqRun (s : State) (n : Nat) (run : Bool) : State :=
  let tb := tileBase n
  let s1 := setBit s tb R.TILE_SEQ_CTRL_RUN run
  if run then (if seqState s1 n = sqStopped then setFld s1 tb R.TILE_SEQ_STATUS_STATE sqRunning else s1)
  else if seqState s1 n = sqHalted then s1
  else
    let next := match (tileAt s1 n).fetched with
      | f :: _ => f.idx
      | [] => fld s1 tb R.TILE_SEQ_PTR_PTR
    let s2 := setFld (setFld s1 tb R.TILE_SEQ_PTR_PTR next) tb R.TILE_SEQ_STATUS_STATE sqStopped
    dropPrefetch (modTile s2 n fun t => { t with fetched := [] }) n

/-- RESUME and SKIP (R285): both clear HALTED; SKIP advances PTR by one first. A stream without RUN stays stopped. -/
def seqContinue (s : State) (n : Nat) (skip : Bool) : State :=
  let tb := tileBase n
  if seqState s n ≠ sqHalted then s
  else
    let len := fld s tb R.TILE_SEQ_LEN_LEN
    let p := fld s tb R.TILE_SEQ_PTR_PTR
    let s1 := if skip then setFld s tb R.TILE_SEQ_PTR_PTR (if len = 0 then p + 1 else (p + 1) % len) else s
    setFld s1 tb R.TILE_SEQ_STATUS_STATE (if fldOn s1 tb R.TILE_SEQ_CTRL_RUN then sqRunning else sqStopped)

/-- SEQ_RUN. -/
def execSeqRun (t : Fin 64) (run : Bool) (s : State) : Host.Outcome State Fault Refusal :=
  .next (if hostUp s then seqRun s (phys s t) run else s)

/-- SEQ_RESUME. -/
def execSeqResume (t : Fin 64) (s : State) : Host.Outcome State Fault Refusal :=
  .next (if hostUp s then seqContinue s (phys s t) false else s)

/-- SEQ_SKIP. -/
def execSeqSkip (t : Fin 64) (s : State) : Host.Outcome State Fault Refusal :=
  .next (if hostUp s then seqContinue s (phys s t) true else s)

/-- Limit of R288 in tc. -/
def cmdLim (s : State) (n : Nat) : Nat := max 1 (fld s (tileBase n) R.TILE_SEQ_CTRL_CMD_LIM) * tcMs

/-- SEQ_LONG: a command, WAIT or FENCE that reached CMD_LIM reports once and keeps waiting (R288). `no` none: the wait of the stream. -/
def execSeqLong (t : Fin 64) (no : Option Nat) (s : State) : Host.Outcome State Fault Refusal :=
  let n := phys s t
  let x := tileAt s n
  let due := match no with
    | none => x.seqWait.isSome && !x.waitLong && decide (x.waitFrom + cmdLim s n ≤ s.now)
    | some k => x.issued.any fun i => decide (i.no = k) && !i.long && decide (i.t0 + cmdLim s n ≤ s.now)
  if !due then .next s
  else
    let s1 := modTile s n fun y => match no with
      | none => { y with waitLong := true }
      | some k => { y with issued := y.issued.map fun i => if i.no = k then { i with long := true } else i }
    let info : Nat × Nat := match no with
      | none => (match x.seqWait with | some (.fence _ _ i) => (0x03, i) | some (.wait _ _ i) => (0x05, i) | none => (0, 0))
      | some k => (match x.issued.find? (fun (i : Issued) => decide (i.no = k)) with | some i => (opcodeOf i.cmd, i.idx) | none => (0, 0))
    .next (raiseNamed (count s1 (tileBase n) R.TILE_LONG_CNT 1) (tileBase n) R.TILE_SEQ_STATUS_LONG [] 0x11 1 (seqVer s n) info.2 0 [info.1, info.2])

end Sys2Proof.Machine
end

