-- ==== Sys2Proof/Machine/Jobs.lean ====
section
/-! DEFINITION. Jobs of a tile's streamer (R298): their blocks, their places, and how they enter and leave its queue. -/

namespace Sys2Proof.Machine

/-- Address of block i of a tensor that a streamer reads under version `ver`: a paired tensor in HBM has its copy ver mod 2 (R264, R392). -/
def readAddr (s : State) (d : Desc) (ver i : Nat) : Nat :=
  blkAddr d i + (if !d.sett && decide (2 ^ 31 ≤ d.tid) then ver % 2 * fld s 0 R.XCH_PAIR_OFS_OFS else 0)

/-- A block request not yet issued. -/
def newBlk (k addr : Nat) (sett : Bool) (tid blk fmt layout : Nat) : BlkReq :=
  { k := k, addr := addr, len := 9216, sett := sett, tid := tid, blk := blk, fmt := fmt, layout := layout, data := [], phase := .wait, att := 0, torn := 0,
    parts := 0, pois := false, pf := false, epochs := [], tIssue := 0, tServe := 0, tTorn := 0, checked := false }

/-- Requests for blocks b0 to b0 + cnt − 1 of a tensor, numbered from `k0`. -/
def descBlks (s : State) (d : Desc) (ver b0 cnt k0 : Nat) : List BlkReq :=
  (List.range cnt).map fun i => newBlk (k0 + i) (readAddr s d ver (b0 + i)) d.sett d.tid (b0 + i) d.fmt d.layout

/-- Enter a job at the end of the streamer's queue; its number. -/
def addJob (s : State) (n : Nat) (no : Option Nat) (kind : JobKind) (write : Bool) (ver : Option Nat) (dst : Nat) (blks : List BlkReq) : State × Nat :=
  let id := (tileAt s n).nextJob
  (modTile s n fun t => { t with jobs := t.jobs ++ [{ id := id, no := no, kind := kind, write := write, ver := ver, settDst := dst, blks := blks }],
                                 nextJob := id + 1 }, id)

/-- Does a block request hold a slot (R298). -/
def holdsSlot (b : BlkReq) : Bool :=
  match b.phase with
  | .wait => false
  | .done => false
  | _ => !b.sett

/-- Show slot use in STR_STATE. -/
def showSlots (s : State) (n : Nat) : State :=
  let l := (tileAt s n).jobs.flatMap (·.blks) |>.filter holdsSlot
  setFld (setFld s (tileBase n) R.STR_STATE_SLOTS l.length) (tileBase n) R.STR_STATE_PF_USED (l.filter (·.pf)).length

/-- Take a job off the queue; prefetched blocks it still holds are unused (R309). -/
def dropJob (s : State) (n id : Nat) : State :=
  let k := (((tileAt s n).jobs.filter fun j => decide (j.id = id)).map fun j => (j.blks.filter (·.pf)).length).sum
  let s1 := if k = 0 then s else count s (tileBase n) R.STR_PF_UNUSED k
  showSlots (modTile s1 n fun t => { t with jobs := t.jobs.filter fun j => decide (j.id ≠ id) }) n

/-- Find a job of a tile. -/
def jobOf (t : Tile) (id : Nat) : Option StrJob := t.jobs.find? fun j => decide (j.id = id)

/-- Is a job at the streamer's head (R308): the oldest command, or work of the tile itself (refreshes, hold copies, wide drive entries), which
stands in no command queue. -/
def isHead (t : Tile) (id : Nat) : Bool :=
  match t.jobs.find? fun j => decide (j.id = id) with
  | none => false
  | some j => j.no.isNone || (match t.jobs.find? (fun i => i.no.isSome) with | some h => decide (h.id = id) | none => false)

/-- A block check failed for the last time (R410, R434): counted and reported. -/
def blockFail (s : State) (b : BlkReq) (why : Nat) : State :=
  raiseD (count s 0 R.OWL_BLK_FAIL 1) 0 R.OWL_STATUS_BLK_FAIL
    [b.tid, b.blk, b.addr % 2 ^ 32, b.addr / 2 ^ 32 + (if b.sett then 2 ^ 31 else 0), why, 0, 0, 0]

/-- The descriptor at an index among those read with a command; an empty one where it is missing. -/
def descOr (ds : List (Nat × Desc)) (i : Nat) : Desc :=
  (descGet ds i).getD { tid := 0, scale := 0, fmt := 0, layout := 0, grad := false, pgroup := 0, ubias := 0, sett := false, base := 0, pos := 0, stride := 0 }

/-- An issued command by number. -/
def issuedOf (t : Tile) (no : Nat) : Option Issued := t.issued.find? fun i => decide (i.no = no)

end Sys2Proof.Machine
end

