-- ==== Sys2Proof/Machine/Rng.lean ====
section
/-! DEFINITION. The random generator of a tile (R224–R227) and the draws that conversions take. -/

namespace Sys2Proof.Machine

/-- The output function h of R224 (SplitMix64). -/
def mix64 (z0 : BitVec 64) : BitVec 64 :=
  let z1 := (z0 ^^^ (z0 >>> 30)) * 0xBF58476D1CE4E5B9#64
  let z2 := (z1 ^^^ (z1 >>> 27)) * 0x94D049BB133111EB#64
  z2 ^^^ (z2 >>> 31)

/-- Value of lane i of draw n of consumer c under a seed (R224). -/
def drawLane (seed c n i : Nat) : BitVec 64 :=
  mix64 (BitVec.ofNat 64 seed + BitVec.ofNat 64 ((c * 2 ^ 48 + n) * 512 + i + 1) * 0x9E3779B97F4A7C15#64)

/-- The seed in force of physical tile n's generator: VU_RNG_SEED, unless a seed written while a dispatch runs waits for its end. -/
def rngSeed (s : State) (n : Nat) : Nat := (tileAt s n).vu.seedHeld.getD (fld s (tileBase n) R.VU_RNG_SEED_SEED)

/-- All five draw counters to 0 (R226). -/
def clearDraws (s : State) (n : Nat) : State :=
  (List.range 5).foldl (fun s c => setFld s (tileBase n) (fldAt R.VU_RNG_CTR_COUNT c) 0) s

/-- Write the seed (R226): it and the cleared counters take effect at the end of a running dispatch. -/
def writeSeed (s : State) (n seed : Nat) : State :=
  let s1 := setFld s (tileBase n) R.VU_RNG_SEED_SEED seed
  if (tileAt s n).vu.run then modTile s1 n fun t => { t with vu := { t.vu with seedHeld := some (rngSeed s n) } } else clearDraws s1 n

/-- RSEED: a new seed in force at once, and every counter to 0 (R226). -/
def reseed (s : State) (n seed : Nat) : State :=
  clearDraws (if (tileAt s n).vu.seedHeld.isSome then modTile s n fun t => { t with vu := { t.vu with seedHeld := some seed } }
    else setFld s (tileBase n) R.VU_RNG_SEED_SEED seed) n

/-- Draw counter of a consumer. -/
def rngCtr (s : State) (n c : Nat) : Nat := fld s (tileBase n) (fldAt R.VU_RNG_CTR_COUNT c)

/-- Take `k` draws of a consumer: its counter rises and wraps at 2^48 (R225). -/
def takeDraws (s : State) (n c k : Nat) : State :=
  setFld s (tileBase n) (fldAt R.VU_RNG_CTR_COUNT c) ((rngCtr s n c + k) % 2 ^ 48)

/-- Rounding of element e of a conversion (R45, R225): RNE, or SR with bits 15:0 of lane e mod 512 of draw e / 512 from the present one. -/
def rndOf (s : State) (n c : Nat) (sr : Bool) (e : Nat) : Rnd :=
  if sr then .sr ((drawLane (rngSeed s n) c ((rngCtr s n c + e / 512) % 2 ^ 48) (e % 512)).toNat % 65536) else .rne

/-- Draws that a conversion of `len` elements takes: one per 512 elements begun, where it rounds by SR. -/
def drawsFor (sr : Bool) (len : Nat) : Nat := if sr then (len + 511) / 512 else 0

/-- Convert a run of values into a format (R46–R51, R53): codes, scale bytes and counts. `u` is the update exponent bias, applied where the
format takes it. -/
def convertRun (f : Fmt) (u : Int) (rnd : Nat → Rnd) (vals : List FVal) : List Nat × List Byte × Cnv :=
  let vs := if fmtTakesBias f then vals.map (scale2 u) else vals
  match fmtGroup f with
  | none =>
    let r := ((List.range vs.length).zip vs).map fun p => encodeElem f (rnd p.1) p.2
    (r.map (·.1), [], cnvSum (r.map (·.2)))
  | some g =>
    let gs := (List.range ((vs.length + g - 1) / g)).map fun q =>
      encodeGroup f none ((List.range g).map fun i => rnd (q * g + i)) ((vs.drop (q * g)).take g)
    (gs.flatMap (·.2.1), gs.map fun x => BitVec.ofNat 8 x.1, cnvSum (gs.map (·.2.2)))

end Sys2Proof.Machine
end

