-- ==== Sys2Proof/Machine/Bucket.lean ====
section
/-! DEFINITION. Buckets at the memory controllers (R314–R319) and the accumulate engine (R320–R325, R413). -/

namespace Sys2Proof.Machine

/-! ### Local addresses (R314) -/

/-- Global HBM address of local address L on stack m. -/
def localGlobal (m L : Nat) : Nat :=
  let q := L / 65536
  (24 * q + (((m : Int) - (q : Int)) % 24).toNat) * 65536 + L % 65536

/-- Read a stack by local address, counted as reads of the MC. -/
def localRead (s : State) (m L n : Nat) : List Byte × State :=
  (allParts (n / 65536 + 2) L n).foldl (fun acc p => let r := memRead acc.2 (localGlobal m p.1) p.2; (acc.1 ++ r.1, r.2)) ([], s)

/-- The bytes at a local address, as an engine reads its table. -/
def localPeek (s : State) (m L n : Nat) : List Byte := (localRead s m L n).1

/-- Write a stack by local address. -/
def localWrite (s : State) (m L : Nat) (bs : List Byte) : State :=
  (allParts (bs.length / 65536 + 2) L bs.length).foldl (fun s p => memWrite s (localGlobal m p.1) ((bs.drop (p.1 - L)).take p.2)) s

/-- Change Mc m without touching its registers. -/
def modMc (s : State) (m : Nat) (f : Mc → Mc) : State := { s with mcs := sset (fun _ => {}) s.mcs m (f (mcAt s m)) }

/-- Local address of an entry of an MC's bucket table. -/
def bktAddr (s : State) (m idx : Nat) : Nat := fld s (mcBase m) R.MRT_BKT_BASE_ADDR * 64 + 256 * idx

/-! ### The bucket table (R318) -/

/-- A bucket table entry (R318). -/
structure BktEntry where
  idx : Nat
  bucket : Nat
  group : Nat
  nslice : Nat
  mcFirst : Nat
  fmt : Nat
  outk : Nat
  pscale : Nat
  ptid : Nat
  pblk0 : Nat
  ltid : Nat
  lblk0 : Nat
  mtid : Nat
  sbase : Nat
  pubbase : Nat
  state : Nat
  div : Nat
  vnew : Nat
  /-- no byte that R318 gives as 0 is set -/
  zeros : Bool
  deriving DecidableEq, Repr

/-- Read a table entry. -/
def readEntry (s : State) (m idx : Nat) : BktEntry :=
  let b := localPeek s m (bktAddr s m idx) 256
  let z := fun (o n : Nat) => decide (fieldLe b o n = 0)
  { idx := idx, bucket := fieldLe b 0 4, group := fieldLe b 4 2 % 4096, nslice := fieldLe b 6 1, mcFirst := fieldLe b 7 1, fmt := fieldLe b 8 1,
    outk := fieldLe b 9 1, pscale := fieldLe b 12 4, ptid := fieldLe b 16 4, pblk0 := fieldLe b 20 4, ltid := fieldLe b 24 4, lblk0 := fieldLe b 28 4,
    mtid := fieldLe b 32 4, sbase := fieldLe b 40 8, pubbase := fieldLe b 48 8, state := fieldLe b 192 4, div := fieldLe b 196 4, vnew := fieldLe b 200 8,
    zeros := decide (fieldLe b 4 2 / 4096 = 0) && z 10 2 && z 36 4 && z 56 8 && z 208 48 }

/-- Entries in force: at most 16,384. -/
def bktCount (s : State) (m : Nat) : Nat := min 16384 (fld s (mcBase m) R.MRT_BKT_CNT_CNT)

/-- Binary search on BUCKET between two indices (R319). -/
def bktSearch (s : State) (m bucket : Nat) : Nat → Nat → Nat → Option Nat
  | 0, _, _ => none
  | f + 1, lo, hi =>
    if hi ≤ lo then none
    else
      let mid := (lo + hi) / 2
      let b := fieldLe (localPeek s m (bktAddr s m mid) 4) 0 4
      if b = bucket then some mid else if b < bucket then bktSearch s m bucket f (mid + 1) hi else bktSearch s m bucket f lo mid

/-- The entry of a bucket. -/
def findEntry (s : State) (m bucket : Nat) : Option BktEntry := (bktSearch s m bucket 16 0 (bktCount s m)).map (readEntry s m)

/-- PHASE of an entry: 0 OPEN, 1 CLOSED, 2 QUEUED, 3 UPDATING, 4 FAILED. -/
def phaseOf (e : BktEntry) : Nat := e.state % 8
/-- ARMED. -/
def armedOf (e : BktEntry) : Bool := bitOn e.state 3
/-- UACC_VALID. -/
def uaccValid (e : BktEntry) : Bool := bitOn e.state 4
/-- U_ACC. -/
def uaccOf (e : BktEntry) : Int := sext 7 (bits e.state 11 5)

/-- A STATE word. -/
def stateWord (phase : Nat) (armed valid : Bool) (u : Int) : Nat :=
  phase + (if armed then 8 else 0) + (if valid then 16 else 0) + 32 * tc 7 u

/-- Write an entry's STATE. -/
def putState (s : State) (m : Nat) (e : BktEntry) (w : Nat) : State := localWrite s m (bktAddr s m e.idx + 192) (leBytes 4 w)

/-- Change an entry's PHASE and ARMED. -/
def putPhase (s : State) (m : Nat) (e : BktEntry) (phase : Nat) (armed : Bool) : State :=
  putState s m e (stateWord phase armed (uaccValid e) (uaccOf e))

/-- Is a touched bit set: bit 16σ + k. -/
def touched (s : State) (m idx bit : Nat) : Bool :=
  bitOn (fieldLe (localPeek s m (bktAddr s m idx + 64 + bit / 8) 1) 0 1) (bit % 8)

/-- Set or clear a touched bit. -/
def putTouched (s : State) (m idx bit : Nat) (v : Bool) : State :=
  let a := bktAddr s m idx + 64 + bit / 8
  let b := fieldLe (localPeek s m a 1) 0 1
  localWrite s m a (leBytes 1 (putBits b (bit % 8) (bit % 8) (if v then 1 else 0)))

/-- Blocks of state 1 and state 2 per update block (R316). -/
def stateBlocks (fmt : Nat) : Nat × Nat :=
  ((match fmt % 4 with | 1 => 8 | 2 => 4 | _ => 0), (match fmt / 4 % 4 with | 1 => 8 | 2 => 4 | 3 => 1 | _ => 0))

/-- DENSE. -/
def denseOf (e : BktEntry) : Bool := bitOn e.fmt 4

/-- Bytes of an update block's record (R316). -/
def recBytes (fmt : Nat) : Nat := (16 + (stateBlocks fmt).1 + (stateBlocks fmt).2) * 9216

/-- Local address of update block k of slice σ (R315, R316). -/
def recAddr (e : BktEntry) (sigma k : Nat) : Nat := e.sbase + (16 * (sigma / 24) + k) * recBytes e.fmt

/-- Local address of the gradient target of update block k. -/
def targetAddr (e : BktEntry) (sigma k : Nat) : Nat := recAddr e sigma k + (8 + (stateBlocks e.fmt).1 + (stateBlocks e.fmt).2) * 9216

/-- Local address of the publication area of a slice (R317). -/
def pubAddr (e : BktEntry) (sigma : Nat) : Nat := e.pubbase + 17 * (sigma / 24) * 9216

/-- MC that holds slice σ (R315). -/
def sliceMc (mcFirst sigma : Nat) : Nat := (mcFirst + sigma) % 24

/-- The slices an MC holds, ascending. -/
def mcSlices (e : BktEntry) (m : Nat) : List Nat := (List.range e.nslice).filter fun σ => decide (sliceMc e.mcFirst σ = m)

/-- Does an entry keep R316 to R318. -/
def entryOk (e : BktEntry) : Bool :=
  e.zeros && decide (1 ≤ e.nslice) && decide (e.nslice ≤ 64) && decide (e.mcFirst < 24) && decide (e.fmt / 32 = 0) && decide (e.fmt % 4 ≠ 3) &&
  decide (e.outk ≤ 8) && fp32Normal (BitVec.ofNat 32 e.pscale) && decide (e.sbase % 64 = 0) && decide (e.pubbase % 64 = 0) &&
  decide (e.sbase + 48 * recBytes e.fmt ≤ 2 ^ 36) && decide (e.pubbase + 51 * 9216 ≤ 2 ^ 36)

/-! ### Block reads with their check (R409, R410) -/

/-- Read a block and check it, at most 3 attempts; `bad` attempts arrive poisoned. True: it passed. -/
def readChecked (s : State) (m L : Nat) (e : Expect) (bad : Nat) : List Byte × Bool × State :=
  let r := localRead s m L 9216
  let why := blockCheck e false r.1
  if why = 0 ∧ bad < 3 then (r.1, true, if bad = 0 then r.2 else count r.2 0 R.OWL_BLK_RETRY bad)
  else
    let g := localGlobal m L
    let s1 := count (count r.2 0 R.OWL_BLK_RETRY 2) 0 R.OWL_BLK_FAIL 1
    (r.1, false, raiseD s1 0 R.OWL_STATUS_BLK_FAIL [e.tid, e.blk, g % 2 ^ 32, g / 2 ^ 32, why + (if bad < 3 then 0 else 16), 0, 0, 0])

/-- FP32 words of a block's payload. -/
def blockWords (b : List Byte) : List Word := (List.range 2048).map fun i => BitVec.ofNat 32 (fieldLe b (4 * i) 4)

/-- Payload bytes of FP32 words. -/
def wordBytes (l : List Word) : List Byte := l.flatMap fun w => leBytes 4 w.toNat

/-! ### MC faults and draining (R413, R429) -/

/-- The module starts to drain (R429): it taints every version from the lowest version register of a running or waiting tile, or from its
committed version, and a DRAIN record is due for each owned bucket. -/
def drainModule (s : State) : State :=
  if fld s 0 R.OWL_MODSTATE_STATE ≠ 0 then s
  else
    let vs := (List.range 64).filterMap fun t =>
      let n := phys s t
      let st := fld s (tileBase n) R.TILE_SEQ_STATUS_STATE
      if st = 1 ∨ st = 2 then some (fld s (tileBase n) R.TILE_SEQ_VER_VERSION) else none
    let c := fld s 0 R.XCH_COMMITTED
    let v := match vs with
      | [] => c
      | x :: t => t.foldl min x
    let s0 := raiseBit (count (setFld { s with taintFrom := some v } 0 R.OWL_MODSTATE_STATE 1) 0 R.OWL_TAINT 1) 0 R.OWL_STATUS_TAINT
    let q := fld s0 0 R.OWL_SEQ
    let s1 := raiseBit s0 0 R.OWL_STATUS_DRAIN
    let own : List GBkt := match s.cfg with
      | some g => g.geom.bkts.filter fun b => decide (b.owner = fld s 0 R.XCH_ID_MODULE)
      | none => []
    pushNamed s1 q (own.map fun b => { typ := 0x43, cls := 6, ver := c, kind := 0, unit := 0, op0 := 0, op1 := 0, detail := [b.bucket, b.succ], seq := q })

/-- An MC fault (R413). -/
def mcFault (s : State) (m bucket : Nat) : State :=
  let s1 := count (count s 0 R.OWL_MC_FAULT 1) 0 R.OWL_MODSTATE_MC_FAULTS 1
  let s2 := raiseD s1 0 R.OWL_STATUS_MC_FAULT [m, bucket, 0, 0, 0, 0, 0, 0]
  if max 1 (fld s2 0 R.OWL_ESC_MC_LIM) ≤ fld s2 0 R.OWL_MODSTATE_MC_FAULTS then drainModule s2 else s2

/-! ### The accumulate engine -/

/-- What the engine adds into: the local address of update block (σ, k), its identifiers, whether it was touched, and its bias (R316, R377). -/
structure AccTarget where
  nslice : Nat
  addr : Nat → Nat → Nat
  tid : Nat
  blk0 : Nat

/-- Random values of consumer 2 of an MC's generator (R346): element e of a packet. -/
def accRnd (s : State) (m e : Nat) : Rnd :=
  .sr ((drawLane (fld s (mcBase m) R.MRT_SEED_SEED) 2 ((fld s (mcBase m) (fldAt R.MRT_RNG_CTR_COUNT 2) + e / 512) % 2 ^ 48) (e % 512)).toNat % 65536)

/-- Take draws of a consumer of an MC's generator. -/
def mcDraws (s : State) (m c k : Nat) : State :=
  let f := fldAt R.MRT_RNG_CTR_COUNT c
  setFld s (mcBase m) f ((fld s (mcBase m) f + k) % 2 ^ 48)

/-- One element: value × 2^(U_ACC − u_pkt), within FP32 (R27, R40), added to the target and rounded by SR (R320). -/
def accElem (bf16 : Bool) (du : Int) (r : Rnd) (old : Word) (c : Nat) : Word × Cnv :=
  let v := if bf16 then fpDecode fpBf16 true c else fpDecode fpFp32 true c
  let x := fpRound fpFp32 .rne (scale2 du v.1)
  let o := fpDecode fpFp32 true old.toNat
  let y := fp32Enc r (fAdd o.1 x.1)
  (y.1, { sat := x.2 + y.2, inf := v.2 + o.2 })

/-- Add elements, as (element of the update block, draw position, code), into one target block of 2,048 elements that begins at `b0`. -/
def accInto (bf16 : Bool) (du : Int) (rnd : Nat → Rnd) (b0 : Nat) (old : List Word) (el : List (Nat × Nat × Nat)) : List Word × Cnv :=
  let r := old.zipIdx.map fun w =>
    match el.find? fun e => decide (e.1 = b0 + w.2) with
    | some e => accElem bf16 du (rnd e.2.1) w.1 e.2.2
    | none => (w.1, {})
  (r.map (·.1), cnvSum (r.map (·.2)))

/-- A gradient target block with its fresh trailer (R321). -/
def targetBlock (s : State) (tid blk ver : Nat) (ws : List Word) : List Byte :=
  mkBlock (wordBytes ws) [] { crc := 0, version := ver % 2 ^ 48, tag := fld s 0 R.XCH_TAG_TAG, tid := tid, block := blk, format := 0, flags := flagAccum, summary := 0 }

/-- Add the elements of one update block (R321): all eight target blocks where it is the first packet, else the blocks the elements touch, each
checked first; a block that fails its check is left as it is (R410). -/
def accBlock (s : State) (m L tid blk0 ver : Nat) (bf16 : Bool) (du : Int) (first : Bool) (el : List (Nat × Nat × Nat)) (bad : Nat) : State :=
  (List.range 8).foldl (fun st b =>
    let mine := el.filter fun e => decide (e.1 / 2048 = b)
    if !first && mine.isEmpty then st
    else if first then
      let r := accInto bf16 du (accRnd s m) (2048 * b) (List.replicate 2048 0) mine
      let st1 := countAll st (mcBase m) [(R.MC_ACC_INIT, 1), (R.MC_ACC_ELEM, mine.length)]
      countCnv (localWrite st1 m (L + 9216 * b) (targetBlock st tid (blk0 + b) ver r.1)) (mcBase m) R.MC_CNV_SAT r.2
    else
      let rd := readChecked st m (L + 9216 * b) { tid := tid, blk := blk0 + b, fmt := 0, layout := 0 } bad
      if !rd.2.1 then rd.2.2
      else
        let r := accInto bf16 du (accRnd s m) (2048 * b) (blockWords rd.1) mine
        countCnv (localWrite (count rd.2.2 (mcBase m) R.MC_ACC_ELEM mine.length) m (L + 9216 * b) (targetBlock rd.2.2 tid (blk0 + b) ver r.1)) (mcBase m) R.MC_CNV_SAT r.2) s

/-- The update blocks a packet touches: (σ, k). -/
def pktBlocks (p : AccPkt) : List (Nat × Nat) :=
  ((List.range p.data.length).map fun i => let e := p.off + i; (e / 262144, e / 16384 % 16)).eraseDups

/-- Elements of a packet that lie in one update block: (element, position in the packet, code). -/
def pktElems (p : AccPkt) (sigma k : Nat) : List (Nat × Nat × Nat) :=
  (p.data.zipIdx.filter fun c => decide ((p.off + c.2) / 16384 = 16 * sigma + k)).map fun c => ((p.off + c.2) % 16384, c.2, c.1)

/-- Must a packet wait in the hold queue (R323, R384): one accepted into a step after the one whose update is due. -/
def mustHold (s : State) (m : Nat) (p : AccPkt) : Bool :=
  !p.area && (match findEntry s m p.bucket with
    | none => false
    | some e => decide (1 ≤ phaseOf e) && decide (e.vnew ≤ p.step) && (pktBlocks p).any fun b => decide (b.1 < e.nslice) && !(mcAt s m).visited.contains (p.bucket, 16 * b.1 + b.2))

/-- The bucket record of the geometry table in force. -/
def geomBkt (s : State) (bucket : Nat) : Option GBkt := s.cfg.bind fun c => c.geom.bkts.find? fun b => decide (b.bucket = bucket)

/-- Base of a bucket's local accumulation area, which Smiteale allocates (R377): the spec gives no address. -/
def areaAddr (bucket sigma k : Nat) : Nat := (Config.areaBase bucket) + (16 * (sigma / 24) + k) * 73728

/-- Elements beyond the bucket are dropped and counted (R320). -/
def rangeDrop (s : State) (m n : Nat) : State :=
  if n = 0 then s else raiseBit (count s (mcBase m) R.MC_ACC_RANGE n) (mcBase m) R.MC_ACC_STATUS_RANGE

/-- Add one packet (R320–R322, R324, R325). `res`: residue mismatches by update block number k; two drop the packet's elements for that block. `bad`:
poisoned attempts of each target read. -/
def accPacket (s : State) (m : Nat) (p : AccPkt) (res : List (Nat × Nat)) (bad : Nat) : State :=
  let mb := mcBase m
  let g := geomBkt s p.bucket
  let e := findEntry s m p.bucket
  if !p.area && e.isNone then raiseBit (count s mb R.MC_ACC_RANGE p.data.length) mb R.MRT_STATUS_NO_ENTRY
  else
    let ns := if p.area then (match g with | some b => b.nslice | none => 0) else (match e with | some x => x.nslice | none => 0)
    let inR := (List.range p.data.length).filter fun i => decide ((p.off + i) / 262144 < ns)
    let s0 := rangeDrop s m (p.data.length - inR.length)
    if inR = [] then s0
    else
      let group := if p.area then (match g with | some b => b.group | none => 0) else (match e with | some x => x.group | none => 0)
      let u14 := sext 7 ((sget (fun _ => (0 : Word)) (mcAt s m).grp (16 * group + 14)).toNat % 128)
      let have' := if p.area then (mcAt s m).areaU.find? (fun a => decide (a.1 = p.bucket)) |>.map (·.2)
                   else e.bind fun x => if uaccValid x then some (uaccOf x) else none
      let u := have'.getD u14
      let s1 := if have'.isSome then s0
                else if p.area then modMc s0 m fun x => { x with areaU := x.areaU ++ [(p.bucket, u)] }
                else match e with
                  | some x => putState s0 m x (stateWord (phaseOf x) (armedOf x) true u)
                  | none => s0
      let s2 := countAll s1 mb [(R.MC_ACC_PKT, 1), (R.MC_ACC_REBIAS, if p.u = u then 0 else 1)]
      let s3 := (pktBlocks p).foldl (fun st b =>
        if ns ≤ b.1 then st
        else
          let bit := 16 * b.1 + b.2
          let el := pktElems p b.1 b.2
          let mis := match res.find? fun r => decide (r.1 = b.2) with
            | some r => r.2
            | none => 0
          let st1 := if mis = 0 then st else count st mb R.MC_ACC_RES_RETRY 1
          if 2 ≤ mis then mcFault (raiseBit (count st1 mb R.MC_ACC_RES_FAIL 1) mb R.MC_ACC_STATUS_RES_FAIL) m p.bucket
          else
            let tch := if p.area then (mcAt st m).areaT.contains (p.bucket, bit) else (match e with | some x => touched st m x.idx bit | none => false)
            let L := if p.area then areaAddr p.bucket b.1 b.2 else (match e with | some x => targetAddr x b.1 b.2 | none => 0)
            let tid := if p.area then (match g with | some x => x.mtid | none => 0) + 3 else (match e with | some x => x.mtid | none => 0) + 3
            let blk0 := 8 * ((if p.area then (match g with | some x => x.pblk0 | none => 0) else (match e with | some x => x.pblk0 | none => 0)) + bit)
            let st2 := accBlock st1 m L (tid % 2 ^ 32) (blk0 % 2 ^ 32) p.ver p.bf16
              (u - p.u) (!tch) el bad
            if tch then st2
            else if p.area then modMc st2 m fun x => { x with areaT := x.areaT ++ [(p.bucket, bit)] }
            else match e with
              | some x => putTouched st2 m x.idx bit true
              | none => st2) s2
      mcDraws s3 m 2 ((p.data.length + 511) / 512)

/-- Show the hold queue. -/
def showHold (s : State) (m : Nat) : State := setFld s (mcBase m) R.MC_ACC_STATE_HOLD_Q (mcAt s m).holdq.length

/-- ACCUM_ADD: the accumulate engine adds the next packet that may proceed; a packet that must wait enters the hold queue (R323). -/
def accumAdd (s : State) (m : Nat) (res : List (Nat × Nat)) (bad : Nat) : State :=
  let x := mcAt s m
  match x.holdq.find? fun p => !mustHold s m p with
  | some p =>
    let s1 := count (modMc s m fun y => { y with holdq := y.holdq.erase p }) (mcBase m) R.MC_ACC_HOLD_MC ((s.now - p.since) / 2)
    accPacket (showHold s1 m) m p res bad
  | none =>
    match x.accq with
    | [] => s
    | p :: rest =>
      if !mustHold s m p then accPacket (modMc s m fun y => { y with accq := rest }) m p res bad
      else if x.holdq.length < 16 then showHold (modMc s m fun y => { y with accq := rest, holdq := y.holdq ++ [{ p with since := s.now }] }) m
      else match rest.find? fun q => !mustHold s m q with
        | some q => accPacket (modMc s m fun y => { y with accq := y.accq.erase q }) m q res bad
        | none => s

/-- ACCUM_ADD. -/
def execAccumAdd (m : Fin 24) (res : List (Nat × Nat)) (bad : Fin 4) (s : State) : Host.Outcome State Fault Refusal :=
  .next (accumAdd s m res bad)

end Sys2Proof.Machine
end

