-- ==== Sys2Proof/Machine/Packets.lean ====
section
/-! DEFINITION. Packets (R360, R397), flits of a packet, routes and trees (R366, R368), and how packets enter egress ports. -/

namespace Sys2Proof.Machine

/-- Port p. -/
def portAt (s : State) (p : Nat) : Port := sget (fun _ => {}) s.ports p

/-- Change port p. -/
def modPort (s : State) (p : Nat) (f : Port → Port) : State := { s with ports := sset (fun _ => {}) s.ports p (f (portAt s p)) }

/-- The module's own identifier. -/
def myId (s : State) : Nat := fld s 0 R.XCH_ID_MODULE

/-- LINK of a port: 0 DISABLED, 1 DOWN, 2 TRAINING, 3 IDENTIFY, 4 UP. -/
def linkOf (s : State) (p : Nat) : Nat := fld s (portBase p) R.PL_STATE_LINK
/-- ADMIT of a port: 0 none, 1 ADMITTED, 2 QUARANTINED, 3 REFUSED. -/
def admitOf (s : State) (p : Nat) : Nat := fld s (portBase p) R.PL_STATE_ADMIT

/-! ### Headers -/

/-- The fields of a packet header (R360). -/
structure Hdr where
  dest : Nat
  kind : Nat
  cls : Nat
  src : Nat
  tree : Nat
  len : Nat
  tag : Nat
  hops : Nat
  deriving DecidableEq, Repr

/-- Read a packet's header. -/
def hdrOf (b : List Byte) : Hdr :=
  let w0 := fieldLe b 0 3
  let w1 := fieldLe b 3 3
  { dest := bits w0 17 0, kind := bits w0 21 18, cls := bits w0 23 22, src := bits w1 17 0, tree := bits w1 23 18, len := fieldLe b 6 2, tag := fieldLe b 8 4,
    hops := fieldLe b 12 1 }

/-- PCRC of a packet (R360): over bytes 0–43 with HOPS taken as 0, then the payload. -/
def pcrcOf (b : List Byte) : Nat := crc32c (b.take 12 ++ [0] ++ (b.drop 13).take 31 ++ b.drop 48)

/-- A packet's bytes: `words` are the class words, bytes 16 to 43. -/
def mkPkt (h : Hdr) (words payload : List Byte) : List Byte :=
  let b := leBytes 3 (h.dest + h.kind * 2 ^ 18 + h.cls * 2 ^ 22) ++ leBytes 3 (h.src + h.tree * 2 ^ 18) ++ leBytes 2 payload.length ++ leBytes 4 h.tag ++
    [0, 0, 0, 0] ++ words.take 28 ++ List.replicate (28 - words.length) 0
  b ++ leBytes 4 (crc32c (b ++ payload)) ++ payload

/-- CLASS that a KIND travels in (R397); none for a reserved KIND. -/
def kindClass : Nat → Option Nat
  | 1 => some 1 | 2 => some 1 | 3 => some 2 | 4 => some 2 | 5 => some 2 | 6 => some 0 | 7 => some 3 | _ => none

/-- The configuration tag that applies to a version (R402). -/
def tagFor (s : State) (w : Nat) : Nat :=
  match s.staged with
  | some (c, a) => if a ≤ w then leNat (c.digest.take 4) else if s.actAt ≤ w then fld s 0 R.XCH_TAG_TAG else s.prevTag
  | none => if s.actAt ≤ w then fld s 0 R.XCH_TAG_TAG else s.prevTag

/-- A packet of this module. -/
def myPkt (s : State) (dest kind tree tagVer : Nat) (words payload : List Byte) : List Byte :=
  mkPkt { dest := dest, kind := kind, cls := (kindClass kind).getD 0, src := myId s, tree := tree, len := payload.length, tag := tagFor s tagVer, hops := 0 } words payload

/-! ### Egress -/

/-- Flits of a packet on a VC: 240 payload bytes each, the first with SOP and the last with EOP. -/
def flitsOf (vc : Nat) (b : List Byte) : List TxFlit :=
  let n := (b.length + 239) / 240
  (List.range n).map fun i => { typ := 1, vc := vc, sop := decide (i = 0), eop := decide (i + 1 = n), abort := false, data := (b.drop (240 * i)).take 240 }

/-- Queue a whole packet at an egress port. -/
def queuePkt (s : State) (p : Nat) (b : List Byte) : State :=
  let vc := (hdrOf b).cls
  modPort s p fun x => { x with txq := x.txq ++ [{ vc := vc, flits := flitsOf vc b, ended := true, from' := none }] }

/-- May a packet leave by a port (R366, R370): it is UP and ADMITTED, or QUARANTINED and the packet is a request or response between the two modules. -/
def egressOk (s : State) (p : Nat) (h : Hdr) : Bool :=
  let peer := fld s (portBase p) R.PL_PEER_MODULE
  decide (linkOf s p = 4) && (decide (admitOf s p = 1) ||
    (decide (admitOf s p = 2) && (decide (h.cls = 0) || decide (h.cls = 3)) &&
      (decide (h.src = myId s) || decide (h.dest = myId s) || decide (h.src = peer) || decide (h.dest = peer))))

/-- The module's own routes in the configuration set in force. -/
def myRoutes (s : State) : Option GRoute := s.cfg.bind fun c => (c.geom.routes.find? fun r => decide (r.1 = myId s)).map (·.2)

/-- A unicast entry (PL_RT_DATA's layout): of an ingress port's table with its overrides, or of the local table (48). -/
def routeEntry (s : State) (ingress idx : Nat) : Nat :=
  match myRoutes s with
  | none => 0
  | some r =>
    match r.overrides.find? fun o => decide (o.1 = ingress) && decide (o.2.1 = idx) with
    | some o => if ingress < 48 then o.2.2 else r.entries.getD idx 0
    | none => r.entries.getD idx 0

/-- Entry index for a destination (R366): the group entry of another group, else the member entry. -/
def routeIdx (s : State) (dest : Nat) : Nat := if dest / 512 = myId s / 512 then 512 + dest % 512 else dest / 512

/-- The egress port of a unicast packet (R366), and whether it is the alternate. -/
def unicastPort (s : State) (ingress : Nat) (h : Hdr) : Option (Nat × Bool) :=
  let e := routeEntry s ingress (routeIdx s h.dest)
  let pr := bits e 5 0
  let al := bits e 13 8
  if bitOn e 7 && decide (pr < 48) && egressOk s pr h then some (pr, false)
  else if bitOn e 15 && decide (al < 48) && egressOk s al h then some (al, true) else none

/-- The mask of a broadcast tree; none where it is invalid. -/
def treeMask (s : State) (t : Nat) : Option Nat :=
  match (myRoutes s).bind fun r => r.trees[t]? with
  | some (m, true) => some m
  | _ => none

/-- Ports of a mask. -/
def maskPorts (m : Nat) : List Nat := (List.range 48).filter fun p => bitOn m p

/-- Send a packet of this module to one module (R366): local delivery, a port, or dropped and counted. -/
def sendUnicast (s : State) (b : List Byte) : State :=
  let h := hdrOf b
  if h.dest = myId s then { s with localRx := s.localRx ++ [{ port := 48, bytes := b }] }
  else
    match unicastPort s 48 h with
    | some (p, alt) => queuePkt (if alt then count s (portBase p) R.PL_ALT_CNT 1 else s) p b
    | none => count s 0 R.XCH_ROUTE_DROP 1

/-- Send a packet of this module on a tree, and deliver it here (R368, R385). -/
def sendTree (s : State) (tree : Nat) (b : List Byte) : State :=
  let s0 := { s with localRx := s.localRx ++ [{ port := 48, bytes := b }] }
  match treeMask s tree with
  | none => s0
  | some m => (maskPorts m).foldl (fun s p => if egressOk s p (hdrOf b) then queuePkt s p b else count s (portBase p) R.PL_LOST_PKT 1) s0

/-! ### Receive buffers (R362, R363) -/

/-- Packets in the receive buffer of a VC. -/
def rxOf (s : State) (p vc : Nat) : List RxPkt := sget (fun _ => []) (portAt s p).rx vc

/-- Store them. -/
def setRx (s : State) (p vc : Nat) (l : List RxPkt) : State := modPort s p fun x => { x with rx := sset (fun _ => []) x.rx vc l }

/-- Free credits of a VC (R363). -/
def freeCredits (s : State) (p vc n : Nat) : State :=
  if n = 0 then s else modPort s p fun x => { x with crdFreed := x.crdFreed.set vc ((x.crdFreed.getD vc 0 + n) % 4096) }

/-- Flits of a packet from an ingress buffer that an egress port has not sent. -/
def unsent (s : State) (e p vc : Nat) : Nat :=
  (((portAt s e).txq.filter fun t => decide (t.from' = some (p, vc))).map fun t => t.flits.length).sum

/-- Bring the buffer of the head packet of a VC up to date: flits leave it once every copy was sent or delivered; a whole packet leaves the queue. -/
def rxSettle (s : State) (p vc : Nat) : State :=
  match rxOf s p vc with
  | [] => s
  | h :: t =>
    match h.route with
    | none => s
    | some (es, loc) =>
      let left := if loc then h.n else (es.map fun e => unsent s e p vc).foldl max 0
      let s1 := freeCredits s p vc (h.flits - left)
      if h.ended && decide (left = 0) && !loc then setRx s1 p vc t else setRx s1 p vc ({ h with flits := left } :: t)

/-- Drop the head packet of a VC; flits of it that still arrive are dropped too. -/
def rxDrop (s : State) (p vc : Nat) : State :=
  match rxOf s p vc with
  | [] => s
  | h :: t => rxSettle (setRx s p vc ({ h with route := some ([], false) } :: t)) p vc

/-- May a packet be delivered here: it is whole, and addressed to this module or routed here. -/
def localReady (s : State) (h : RxPkt) : Bool :=
  h.ended && !h.abort && !h.bad && (match h.route with
    | some (_, loc) => loc
    | none => decide (kindClass (hdrOf h.bytes).kind ≠ some 2) && decide ((hdrOf h.bytes).dest = myId s))

/-- The packet that the module takes next of a class from a port, 48 for its own deliveries, with the state after it was taken. -/
def takeLocal (s : State) (p vc : Nat) : Option (List Byte × State) :=
  if p < 48 then
    match rxOf s p vc with
    | h :: t => if localReady s h then some (h.bytes, rxSettle (setRx s p vc ({ h with route := some ((h.route.map (·.1)).getD [], false) } :: t)) p vc) else none
    | [] => none
  else
    match s.localRx.find? fun x => decide ((hdrOf x.bytes).cls = vc) with
    | some x => some (x.bytes, { s with localRx := s.localRx.erase x })
    | none => none

/-- Raise a bit of a port's status, where the packet came by a port. -/
def portCount (s : State) (p : Nat) (f : Fld) (bit : Option Fld) : State :=
  if 48 ≤ p then s
  else
    let s1 := count s (portBase p) f 1
    match bit with
    | some b => raiseBit s1 (portBase p) b
    | none => s1

/-- The destination's checks of R361: PCRC, and TAG of accumulate and broadcast packets against the tag of a version (R402). -/
def destCheck (s : State) (p : Nat) (b : List Byte) (ver : Nat) : Bool × State :=
  if 48 ≤ p then (true, s)
  else if pcrcOf b ≠ fieldLe b 44 4 then (false, portCount s p R.PL_PCRC_ERR (some R.PL_STATUS_PCRC))
  else
    let h := hdrOf b
    if (h.cls = 1 ∨ h.cls = 2) ∧ h.tag ≠ tagFor s ver then (false, portCount s p R.PL_TAG_REJ (some R.PL_STATUS_TAG_REJ)) else (true, s)

/-- XCH_TIMER in µs: from when the hub left reset. -/
def xchTimer (s : State) : Nat := (s.now - s.hubAt) / tcUs

end Sys2Proof.Machine
end

