-- ==== Sys2Proof/Machine/Close.lean ====
section
/-! DEFINITION. Close records of owned buckets (R378–R384), the closing table (R381), arming (R327, R328), supersedes (R423) and the reports of
Marten units (R333, R414). -/

namespace Sys2Proof.Machine

/-- The close record of an owned bucket. -/
def obkt (s : State) (b : Nat) : Option OBkt := s.obkts.find? fun o => decide (o.bucket = b)

/-- Change the close record of a bucket. -/
def modO (s : State) (b : Nat) (f : OBkt → OBkt) : State := { s with obkts := s.obkts.map fun o => if o.bucket = b then f o else o }

/-- MCs that hold a slice of a bucket. -/
def holders (g : GBkt) : List Nat := ((List.range g.nslice).map (sliceMc g.mcFirst)).eraseDups

/-- Queue a bucket's update at an MC (R328): QUEUED, with the armed copy it will use. -/
def queueUpdate (s : State) (m : Nat) (e : BktEntry) (a : Option Armed) (armed : Bool) : State :=
  modMc (putPhase s m e 2 armed) m fun x => { x with mq := x.mq ++ [(e.bucket, a)] }

/-- The armed copy of a bucket at an MC. -/
def armedCopy (s : State) (m bucket : Nat) : Option Armed := (mcAt s m).armed.find? fun a => decide (a.bucket = bucket)

/-- A MISSUE reaches a Marten (R319, R327, R328): it copies the group's registers and program, and a CLOSED bucket becomes QUEUED. -/
def armAt (s : State) (m bucket : Nat) : State :=
  let mb := mcBase m
  match findEntry s m bucket with
  | none => raiseBit s mb R.MRT_STATUS_NO_ENTRY
  | some e =>
    let regs := (List.range 16).map fun i => sget (fun _ => (0 : Word)) (mcAt s m).grp (16 * e.group + i)
    let pg := (regs.getD 15 0).toNat % 16
    let prog := (List.range 32).map fun i => rdReg s (mb + R.MRT_PROG.off + 128 * pg + 4 * i)
    let a : Armed := { bucket := bucket, regs := regs, prog := prog }
    let s1 := if armedOf e then raiseBit (count s mb R.MRT_REARM_CNT 1) mb R.MRT_STATUS_REARM else s
    let s2 := modMc s1 m fun x => { x with armed := x.armed.filter (fun y => decide (y.bucket ≠ bucket)) ++ [a] }
    if phaseOf e = 1 then modMc (queueUpdate s2 m e (some a) false) m fun x => { x with armed := x.armed.filter fun y => decide (y.bucket ≠ bucket) }
    else putPhase s2 m e (phaseOf e) true

/-- Is every holding MC's result OK. -/
def allOk (g : GBkt) (o : OBkt) : Bool := (holders g).all fun m => o.res.contains (m, 0)

/-- A Marten unit reports the result of its part of an update (R333, R385, R386, R414). -/
def mcReport (s : State) (m bucket result sigma blk : Nat) : State :=
  match obkt s bucket, geomBkt s bucket with
  | some o, some g =>
    let res := o.res.filter (fun r => decide (r.1 ≠ m)) ++ [(m, result)]
    let s1 := modO s bucket fun x => { x with res := res, busy := !allOk g { x with res := res }, failed := x.failed || decide (result ≠ 0),
                                              failAt := if result ≠ 0 ∧ !x.failed then s.now else x.failAt }
    if result ≠ 0 ∧ o.retried then raiseNamed s1 0 R.OWL_STATUS_BUCKET_FAIL [] 0x42 3 o.ver 0 0 [bucket, result, sigma, blk] else s1
  | _, _ => s

/-- Write DIV and VNEW at every holding MC and close its entry there; `rep`: a republication needs no arming (R328, R383, R423). -/
def closeAt (s : State) (g : GBkt) (d vnew : Nat) (rep : Bool) : State :=
  (holders g).foldl (fun s m =>
    match findEntry s m g.bucket with
    | none => mcReport (raiseBit s (mcBase m) R.MRT_STATUS_NO_ENTRY) m g.bucket 4 0 0
    | some e =>
      let s1 := localWrite s m (bktAddr s m e.idx + 196) (leBytes 4 d ++ leBytes 8 vnew)
      if rep then queueUpdate s1 m e none (armedOf e)
      else if armedOf e then
        modMc (queueUpdate s1 m e (armedCopy s1 m g.bucket) false) m fun x => { x with armed := x.armed.filter fun y => decide (y.bucket ≠ g.bucket) }
      else putPhase s1 m e 1 false) s

/-- Contributors that have arrived for the open step (R379). -/
def arrivedOf (o : OBkt) : Nat := (o.contribs.filter fun c => decide (c.ver = o.ver) && decide (c.close = some c.acc)).length

/-- Close a bucket's open step with a kind: 0 FULL, 1 PARTIAL, 2 SHORT (R379, R381–R383). -/
def closeStep (s : State) (g : GBkt) (o : OBkt) (kind : Nat) : State :=
  let a := arrivedOf o
  let inc := (o.contribs.filter fun c => decide (c.ver = o.ver) && c.close.isSome && decide (c.close ≠ some c.acc)).length
  let d := min o.samp 0xFFFFFFFF
  let s1 := countAll s 0 [(R.XCH_INCOMPLETE, inc), (R.XCH_CLOSE_FULL, if kind = 0 then 1 else 0), (R.XCH_CLOSE_PARTIAL, if kind = 1 then 1 else 0),
    (R.XCH_CLOSE_SHORT, if kind = 2 then 1 else 0)]
  let s2 := if 0xFFFFFFFF < o.samp then raiseBit (count s1 0 R.XCH_SAMPLE_SAT 1) 0 R.XCH_STATUS_SAMPLE_SAT else s1
  let s3 := if kind = 2 then raiseNamed s2 0 R.XCH_STATUS_SHORT [] 0x31 5 (o.ver + 1) 0 0 [o.bucket, g.contribs.length, a] else s2
  let s4 := modO s3 o.bucket fun x =>
    { x with ver := x.ver + 1, timing := false, extended := false, samp := 0, contribs := x.contribs.filter (fun c => decide (x.ver ≤ c.ver)),
             lastKind := kind, lastD := d, lastA := a, busy := true, failed := false, retried := false, res := [], published := false }
  closeAt s4 g d (o.ver + 1) false

/-- Republish a bucket (R423 step 4): its open step closes at once with D = 0. -/
def republish (s : State) (g : GBkt) (o : OBkt) : State :=
  let s1 := modO (count s 0 R.OWL_REPUBLISH 1) o.bucket fun x =>
    { x with ver := x.ver + 1, timing := false, extended := false, samp := 0, contribs := [], lastKind := 2, lastD := 0, lastA := 0, busy := true,
             failed := false, retried := false, res := [], published := false }
  closeAt s1 g 0 (o.ver + 1) true

/-- Is a bucket OPEN for a close: no update in progress, and its last one broadcast. -/
def oOpen (o : OBkt) : Bool := !o.busy && !o.failed && o.published

/-- Send the supersede of a range and republish where it reaches the open version (R423 steps 2 to 4). -/
def supersedeOpen (s : State) (g : GBkt) (o : OBkt) (f l : Nat) : State :=
  let words := leBytes 4 o.bucket ++ leBytes 4 0 ++ leBytes 8 f ++ leBytes 8 l
  let s1 := sendTree s g.tree (myPkt s 0 5 g.tree (l - 1) words [])
  let s2 := raiseD (count s1 0 R.OWL_SUPERSEDE_TX 1) 0 R.OWL_STATUS_SUPERSEDE [o.bucket, 0, f % 2 ^ 32, f / 2 ^ 32, l % 2 ^ 32, l / 2 ^ 32, 0, 0]
  let s3 := modO s2 o.bucket fun x => { x with sup := some (f, l) }
  if l = o.ver then republish s3 g o else s3

/-- Supersede versions f to l of an owned bucket (R423): one with an update in progress waits until it is OPEN. -/
def supersede (s : State) (bucket f l : Nat) : State :=
  match obkt s bucket, geomBkt s bucket with
  | some o, some g =>
    if oOpen o then supersedeOpen s g o f l
    else
      let l' := if f ≤ o.ver - 1 ∧ o.ver - 1 ≤ l then o.ver else l
      modO s bucket fun x => { x with supWait := x.supWait ++ [(f, l')] }
  | _, _ => s

/-- Deadline T in µs (R381, R399). -/
def deadlineUs (s : State) : Nat := fld s 0 R.XCH_PARAM1_DEADLINE

/-- Quorum of a bucket (R381): ⌈E × QUORUM / 1,000⌉. -/
def quorum (s : State) (g : GBkt) : Nat := (g.contribs.length * fld s 0 R.XCH_PARAM0_QUORUM + 999) / 1000

/-- Judge the closing table for a bucket (R381): every case that holds, in order. -/
def judgeStep (s : State) (bucket : Nat) : State :=
  match obkt s bucket, geomBkt s bucket with
  | some o, some g =>
    if !oOpen o || o.held || !o.timing then s
    else
      let a := arrivedOf o
      let t := xchTimer s
      if a = g.contribs.length then closeStep s g o 0
      else if t < o.t0 + deadlineUs s then s
      else if quorum s g ≤ a then closeStep s g o 1
      else
        let s1 := if o.extended then s else modO (count s 0 R.XCH_EXTEND 1) bucket fun x => { x with extended := true }
        if o.t0 + 2 * deadlineUs s ≤ t then closeStep s1 g { o with extended := true } 2 else s1
  | _, _ => s

/-- A bucket became OPEN (R381, R423): a supersede that waited is sent, else the closing table is judged at once. -/
def becameOpen (s : State) (bucket : Nat) : State :=
  match obkt s bucket, geomBkt s bucket with
  | some o, some g =>
    if !oOpen o then s
    else match o.supWait with
      | (f, l) :: rest => supersedeOpen (modO s bucket fun x => { x with supWait := rest }) g { o with supWait := rest } f l
      | [] => judgeStep s bucket
  | _, _ => s

/-- BUCKET_DEADLINE: an open step's deadline is judged (R380, R381). -/
def execBucketDeadline (bucket : Nat) (s : State) : Host.Outcome State Fault Refusal := .next (judgeStep s bucket)

/-- Queue a FAILED bucket's update again at the MCs where it failed, with its DIV, VNEW and armed copy (R414). -/
def requeue (s : State) (bucket : Nat) : State :=
  match obkt s bucket, geomBkt s bucket with
  | some o, some g =>
    let bad := o.res.filter fun r => decide (r.2 ≠ 0)
    let s1 := modO s bucket fun x => { x with failed := false, retried := true, res := x.res.filter fun r => decide (r.2 = 0) }
    bad.foldl (fun s r =>
      match findEntry s r.1 bucket with
      | none => mcReport s r.1 bucket 4 0 0
      | some e =>
        let a := ((mcAt s r.1).failArm.find? fun p => decide (p.1 = bucket)).bind (·.2)
        if phaseOf e = 4 then queueUpdate s r.1 e a (armedOf e) else s) (if (holders g).isEmpty then s else s1)
  | _, _ => s

/-- BUCKET_RETRY: 1 ms after a bucket failed, Smiteale queues its update once more (R414). -/
def execBucketRetry (bucket : Nat) (s : State) : Host.Outcome State Fault Refusal :=
  match obkt s bucket with
  | some o => .next (if fwReady s && o.failed && !o.retried && decide (o.failAt + tcMs ≤ s.now) then requeue s bucket else s)
  | none => .next s

end Sys2Proof.Machine
end

