-- ==== Sys2Proof/Machine/Fire.lean ====
section
/-! DEFINITION. Firings, swaps and what they bring into the accumulator: FIRE, TFIRE, SWAP, the launch controller, passes and fox work
(R70–R90, R101–R122, R134, R189–R193, R270, R271, R415–R419). -/

namespace Sys2Proof.Machine

/-- Arrays of an ARRMASK, lowest first. -/
def arraysOf (mask : Nat) : List Nat := (List.range 16).filter fun a => bitOn mask a

/-- Every array of a mask has ARR_CTRL.ENABLE set. -/
def allEnabled (s : State) (n : Nat) (as : List Nat) : Bool := as.all fun a => fldOn s (arrBase n a) R.ARR_CTRL_ENABLE

/-- Swaps of an array issued and not executed. -/
def swapsPending (x : Arr) : Nat := (x.ops.filter fun o => match o with | .swap _ _ _ => true | .fire _ => false).length

/-- The active plane in stream order (R68): after every swap issued before. -/
def judgedB (s : State) (n a : Nat) : Bool :=
  let x := arrAt (tileAt s n) a
  let b := if x.wideRun then x.trackB else actB s n a
  if swapsPending x % 2 = 1 then !b else b

/-- Is a plane write of the given plane (or a wide write) in progress or waiting for array a. -/
def writePending (s : State) (n a : Nat) (b : Bool) : Bool :=
  let t := tileAt s n
  (match (arrAt t a).job with
    | some j => !j.refresh && (j.wide || decide (j.planeB = b))
    | none => false) ||
  t.jobs.any fun j => match j.kind with
    | .pwrite o => decide (o.array = a) && (decide (o.planeB = b) || arrWide s n a)
    | _ => false

/-- Does a swap of array a wait on its standby plane (R71): the sequencer issues nothing more to that array. -/
def swapWaits (s : State) (n a : Nat) : Bool :=
  match (arrAt (tileAt s n) a).ops with
  | .swap _ _ _ :: _ =>
    let st := planeState s n a (!actB s n a)
    !arrWide s n a && (decide (st = psStaging) || decide (st = psWriting) || decide (st = psExpired))
  | _ => false

/-- The count a firing or swap names (R189, R271), and whether it is late: not 1 to 2^47 ahead of the tap. -/
def launchFor (s : State) (n : Nat) : Option Nat × Bool :=
  match (tileAt s n).launchSet with
  | none => (none, false)
  | some o =>
    let now := launchCount s
    let c := if o.rel then (now + o.count) % 2 ^ 48 else o.count
    let d := (c + 2 ^ 48 - now) % 2 ^ 48
    if 1 ≤ d ∧ d ≤ 2 ^ 47 then (some c, false) else (none, true)

/-- Count late actions (R189). -/
def countLate (s : State) (n k : Nat) : State :=
  if k = 0 then s else raiseBit (count s (tileBase n) R.TILE_LAUNCH_LATE k) (tileBase n) R.TILE_STATUS_LAUNCH_LATE

/-- Is a named count reached: not ahead of the tap any more. -/
def launchDue (s : State) : Option Nat → Bool
  | none => true
  | some c => let d := (c + 2 ^ 48 - launchCount s) % 2 ^ 48; !(decide (1 ≤ d) && decide (d ≤ 2 ^ 47))

/-- Has command `no` no work left in any array: its firings have delivered codes and fox work, its swaps have executed. -/
def arrWorkDone (t : Tile) (no : Nat) : Bool :=
  t.arrs.all fun p =>
    !(p.2.ops.any fun o => match o with | .fire f => decide (f.no = no) | .swap k _ _ => decide (k = no)) &&
    (match p.2.run with | some r => decide (r.f.no ≠ no) | none => true) && p.2.fox.all fun j => decide (j.no ≠ no)

/-- End a firing or swap command once its work is done (R265). -/
def finIfDone (s : State) (n no : Nat) : State := if arrWorkDone (tileAt s n) no then finCmd s n no else s

/-! ### Swaps -/

/-- A swap executes (R70): the standby plane becomes ACTIVE, the former active plane READY with its content; the CLIP sum of the plane joins
the counts (R118), a sub-window of the calibration ends (R143), and a plane write that waited for this plane goes to STAGING. -/
def doSwap (s : State) (n a : Nat) : State :=
  let b := actB s n a
  let s0 := calCloseIf s n a
  let s1 := if planeState s0 n a b = psActive then setPlaneState s0 n a b psReady else s0
  let s2 := setPlaneState s1 n a (!b) psActive
  let s3 := setBit s2 (arrBase n a) R.ARR_STATE_ACT_B (!b)
  let s4 := planeInForce s3 n a (!b)
  let s5 := modArr s4 n a fun x => { x with freeAt := max x.freeAt (s.now + 4) }
  match (arrAt (tileAt s5 n) a).job with
  | some j => if !j.refresh && !j.wide && decide (j.planeB = b) && !j.rows then setPlaneState s5 n a b psStaging else s5
  | none => s5

/-- Try the swap at the head of array a's queue (R70, R71, R73, R135). -/
def trySwap (s : State) (n a : Nat) : State :=
  let x := arrAt (tileAt s n) a
  match x.ops with
  | .swap no l t0 :: rest =>
    if x.run.isSome || decide (s.now < x.freeAt) || !launchDue s l then s
    else if x.wideRun then
      -- in a wide run a swap waits for the wide write and only moves the tracked plane (R135)
      if writePending s n a false || writePending s n a true then s
      else finIfDone (modArr s n a fun y => { y with ops := rest, trackB := !y.trackB }) n no
    else
      let st := planeState s n a (!actB s n a)
      if st = psReady then
        let s1 := if s.now = t0 then s else count s (arrBase n a) R.ARR_SWAP_WAIT ((s.now - t0) / 4)
        finIfDone (doSwap (modArr s1 n a fun y => { y with ops := rest }) n a) n no
      else if (st = psEmpty ∨ st = psInvalid) ∧ !writePending s n a (!actB s n a) then
        failExec (modArr s n a fun y => { y with ops := rest }) n no stPlaneState
      else s
  | _ => s

/-- Why a SWAP fails at issue (R71, R99, R100), or none. -/
def swapFault (s : State) (n mask : Nat) : Option Nat :=
  let as := arraysOf mask
  if !allEnabled s n as then some stArrayOff
  else if as.any fun a => (arrAt (tileAt s n) a).modeWide then some stWideSwap
  else if as.any fun a =>
      !(arrAt (tileAt s n) a).wideRun && (let b := !judgedB s n a
        let st := planeState s n a b
        (decide (st = psEmpty) || decide (st = psInvalid)) && !writePending s n a b) then some stPlaneState
  else none

/-- SWAP (R70, R71, R73): each named array swaps, at the count a LAUNCH named or as soon as its standby plane is READY. -/
def execSwap (t : Fin 64) (mask : Nat) (s : State) : Host.Outcome State Fault Refusal :=
  let n0 := phys s t
  if (arraysOf mask).any fun a => swapWaits s n0 a then .next s
  else .next (issueWith s t (.swap mask) fun n f s =>
    match swapFault s n mask with
    | some st => haltSeq s n st f.idx false
    | none =>
      let l := launchFor s n
      let r := popIssue s n f
      let s1 := countLate (ranCmd r.1 n r.2) n (if l.2 then (arraysOf mask).length else 0)
      let s2 := (arraysOf mask).foldl (fun s a => trySwap (modArr s n a fun x => { x with ops := x.ops ++ [.swap r.2 l.1 s.now] }) n a) s1
      finIfDone s2 n r.2)

/-- SWAP_EXECUTE: a waiting swap of array a executes, or fails on an INVALID plane (R71, R73). -/
def execSwapExecute (t : Fin 64) (a : Fin 16) (s : State) : Host.Outcome State Fault Refusal :=
  .next (trySwap s (phys s t) a)

/-! ### FIRE and TFIRE -/

/-- Why a firing fails at issue (R72, R100), or none. -/
def fireFault (s : State) (n mask : Nat) : Option Nat :=
  let as := arraysOf mask
  let bad := fun (a : Nat) (b : Bool) =>
    let st := planeState s n a b
    (decide (st = psEmpty) || decide (st = psInvalid)) && !writePending s n a b
  if !allEnabled s n as then some stArrayOff
  else if as.any fun a => if arrWide s n a then bad a false || bad a true else bad a (judgedB s n a) then some stPlaneState
  else none

/-- Mark every lane that a vector would have fed NaN (R103). -/
def nanLanes (s : State) (n seg : Nat) : State :=
  modTile s n fun t => (List.range 512).foldl (fun t j => setLane t (512 * seg + j) { laneAt t (512 * seg + j) with nan := true }) t

/-- The four slice firings of R134, in order. -/
def sliceOrder : List SliceSpec :=
  [{ high := true, planeB := false, factor := 225 }, { high := true, planeB := true, factor := 15 },
   { high := false, planeB := false, factor := 15 }, { high := false, planeB := true, factor := 1 }]

/-- The input slice of the codes of a vector (R133). -/
def sliceInput (x : List Int) (high : Bool) : List Int :=
  x.map fun v => let w := clampI (-112) 112 v; if high then slice15 w else w - 15 * slice15 w

/-- One vector reaches array a (R77, R99, R103, R134): a NaN scale marks the lanes; a vector of load 0 is skipped and counted; in wide mode
it becomes up to four slice firings; else it is one firing. The firings that then stand in the array's queue. -/
def vectorOps (s : State) (n a : Nat) (f0 : Firing) (img : List Byte) (rsvdHere : Bool) : State × List ArrOp :=
  let tb := tileBase n
  let c := imageCodes img
  let s0 := if rsvdHere && decide (c.2 ≠ 0) then count s tb R.STR_CNV_RSVD c.2 else s
  let sc := imageScale img
  if sc = 255 then (nanLanes s0 n f0.seg, [])
  else if loadOf c.1 0 512 = 0 then
    (setFld (count s0 (arrBase n a) R.ARR_ZERO_SKIP 1) (arrBase n a) R.ARR_CS_LAST 0, [])
  else
    let f : Firing := { f0 with codes := c.1, scale := sc, feed := false }
    if arrWide s n a then
      let excess := (c.1.filter fun v => decide (112 < v.natAbs)).length
      let s1 := if excess = 0 then s0 else count s0 tb R.FOX_ICLIP_CNT excess
      let live := sliceOrder.filter fun sp => decide (loadOf (sliceInput c.1 sp.high) 0 512 ≠ 0)
      let s2 := if live.length = 4 then s1 else count s1 (arrBase n a) R.ARR_ZERO_SKIP (4 - live.length)
      (s2, live.map fun sp => .fire { f with slice := some sp })
    else (s0, [.fire f])

/-- A firing of command `no` as it enters an array's queue, its image still to be read. -/
def newFiring (s : State) (no seg : Nat) (tr : Bool) (l : Option Nat) : Firing :=
  { no := no, seg := seg, tr := tr, codes := [], scale := 0, launch := l, slice := none, t0 := s.now, slipAc := none, feed := true }

/-- Operations join array a's queue. -/
def pushOps (s : State) (n a : Nat) (l : List ArrOp) : State := if l.isEmpty then s else modArr s n a fun x => { x with ops := x.ops ++ l }

/-- A vector whose image is at hand goes to array a. -/
def fireOne (s : State) (n a no seg : Nat) (tr : Bool) (l : Option Nat) (img : List Byte) (rsvdHere : Bool) : State :=
  let r := vectorOps s n a (newFiring s no seg tr l) img rsvdHere
  pushOps r.1 n a r.2

/-! ### The feed queue's consumers (R270, R300) -/

/-- Is an operation the firing of command `no` that waits for its image. -/
def awaits (no : Nat) : ArrOp → Bool
  | .fire f => f.feed && decide (f.no = no)
  | .swap _ _ _ => false

/-- The image of command `no` for array a is there: its firing takes its place in the array's queue. -/
def fillPlace (s : State) (n a no : Nat) (img : List Byte) : State :=
  match (arrAt (tileAt s n) a).ops.find? (awaits no) with
  | some (.fire f) =>
    let r := vectorOps s n a f img false
    modArr r.1 n a fun x => { x with ops := x.ops.flatMap fun o => if awaits no o then r.2 else [o] }
  | _ => s

/-- Command `no` fires on no array. -/
def dropPlaces (s : State) (n no : Nat) (as : List Nat) : State :=
  as.foldl (fun s a => modArr s n a fun x => { x with ops := x.ops.filter fun o => !awaits no o }) s

/-- The first consumer takes what it still needs from the feed queue, as far as it is there; a firing that has its images goes on, and then the
next consumer takes. A DMEOP goes on when its unit runs it. -/
def feedServe : Nat → State → Nat → State
  | 0, s, _ => s
  | k + 1, s, n =>
    match (tileAt s n).feedQ with
    | [] => s
    | u :: rest =>
      let t := tileAt s n
      let more := u.need - t.taken.length
      let imgs := t.taken ++ (t.feed.take more).map (·.bytes)
      if u.arrs.isEmpty || decide (imgs.length < u.need) then modTile s n fun x => { x with feed := x.feed.drop more, taken := imgs }
      else
        let s1 := modTile s n fun x => { x with feed := x.feed.drop more, taken := [], feedQ := rest }
        feedServe k (if imgs.any imageBad then failExec (dropPlaces s1 n u.no u.arrs) n u.no stBlockCheck
          else finIfDone ((u.arrs.zip imgs).foldl (fun s p => fillPlace s n p.1 u.no p.2) s1) n u.no) n

/-- The consumers of tile n take from the feed queue. -/
def feedGo (s : State) (n : Nat) : State := feedServe ((tileAt s n).feedQ.length) s n

/-- A command joins the feed queue's consumers. -/
def feedJoin (s : State) (n : Nat) (u : FeedUse) : State := feedGo (modTile s n fun x => { x with feedQ := x.feedQ ++ [u] }) n

/-! ### FIRE and TFIRE at issue -/

/-- FIRE and TFIRE (R270): the images are taken from sett memory and judged, and one vector goes to each array; or each array's firing waits for its
image from the feed queue. -/
def fireCommon (s : State) (t : Fin 64) (o : FireOp) (tr : Bool) : State :=
  let n0 := phys s t
  let as := arraysOf o.mask
  if as.any (fun a => swapWaits s n0 a) then s
  else issueWith s t (if tr then .tfire o else .fire o) fun n f s =>
    match fireFault s n o.mask with
    | some st => haltSeq s n st f.idx false
    | none =>
      let feed := o.feed && !as.isEmpty
      let imgs := if feed then [] else (List.range as.length).map fun j => settRead (tileAt s n) (o.drv + 64 * o.stride * j) 576
      let l := launchFor s n
      let r := popIssue s n f
      if imgs.any imageBad then failExec r.1 n r.2 stBlockCheck
      else
        let seg := fun (a : Nat) => o.segmap / 2 ^ (4 * a) % 16
        let s2 := countLate (ranCmd r.1 n r.2) n (if l.2 then as.length else 0)
        let s3 := modTile s2 n fun x => { x with micro := { x.micro with fired := true } }
        if feed then
          feedJoin (as.foldl (fun s a => pushOps s n a [.fire (newFiring s r.2 (seg a) tr l.1)]) s3) n { no := r.2, need := as.length, arrs := as }
        else finIfDone ((as.zip imgs).foldl (fun s p => fireOne s n p.1 r.2 (seg p.1) tr l.1 p.2 true) s3) n r.2

/-- FIRE (R270). -/
def execFire (t : Fin 64) (o : FireOp) (s : State) : Host.Outcome State Fault Refusal := .next (fireCommon s t o false)

/-- TFIRE (R86, R270). -/
def execTfire (t : Fin 64) (o : FireOp) (s : State) : Host.Outcome State Fault Refusal := .next (fireCommon s t o true)

/-! ### The launch controller -/

/-- Keep the 8 residuals of largest magnitude, ties to the lower row (R111): insert into a list ordered by magnitude. -/
def insKept (p : Nat × Int) : List (Nat × Int) → List (Nat × Int)
  | [] => [p]
  | q :: t => if q.2.natAbs < p.2.natAbs then p :: q :: t else q :: insKept p t

/-- Residuals x − x_c of a vector, kept and dropped (R111). -/
def residuals (x : List Int) : List (Nat × Int) × Nat :=
  let rs := ((List.range 512).zip x).filterMap fun p => let r := p.2 - clip7 p.2; if r = 0 then none else some (p.1, r)
  let ord := rs.foldl (fun acc p => insKept p acc) []
  (ord.take 8, rs.length - 8)

/-- Planes usable by a firing (R72, R96, R99): narrow, the active plane is ACTIVE; wide, both are. -/
def planesReady (s : State) (n a : Nat) : Bool :=
  if arrWide s n a then decide (planeState s n a false = psActive) && decide (planeState s n a true = psActive)
  else decide (planeState s n a (actB s n a) = psActive)

/-- Does a firing in wide mode wait on a wide write issued before it (R99, R135). -/
def wideBehind (s : State) (n a no : Nat) : Bool :=
  let t := tileAt s n
  arrWide s n a && ((match (arrAt t a).job with
      | some j => !j.refresh && (match j.no with | some k => decide (k < no) | none => true)
      | none => false) ||
    t.jobs.any fun j => match j.kind, j.no with
      | .pwrite o, some k => decide (o.array = a) && decide (k < no)
      | _, _ => false)

/-- May the firing at the head of array a start in this ac (R94, R117, R189, R193): the array is free, the planes are in force, its count is
reached, its fox queue has room, and refresh rows that are late do not go first. -/
def grantable (s : State) (n a : Nat) : Bool :=
  let x := arrAt (tileAt s n) a
  match x.ops with
  | .fire f :: _ => !f.feed && x.run.isNone && decide (x.freeAt ≤ s.now) && planesReady s n a && !wideBehind s n a f.no && launchDue s f.launch && decide (x.fox.length < 4) &&
      !(match x.job with
        | some j => j.refresh && j.rows && (j.wide || decide (j.planeB = actB s n a)) && ageReached s n a j.planeB 3
        | none => false)
  | _ => false

/-- Order of a candidate (R191): 0 slipped, 1 the launch set of the present count, 2 no count. -/
def grantClass (s : State) (n a : Nat) : Nat :=
  match (arrAt (tileAt s n) a).ops with
  | .fire f :: _ => if f.slipAc.isSome then 0 else if f.launch.isSome then 1 else 2
  | _ => 3

/-- When a slipped firing first slipped. -/
def slipKey (s : State) (n a : Nat) : Nat :=
  match (arrAt (tileAt s n) a).ops with
  | .fire f :: _ => f.slipAc.getD 0
  | _ => 0

/-- Lane flag C for the lanes that a firing feeds (R119). -/
def flagC (s : State) (n seg : Nat) : State :=
  modTile s n fun t => (List.range 512).foldl (fun t j => setLane t (512 * seg + j) { laneAt t (512 * seg + j) with fc := true }) t

/-- A granted firing starts (R78–R80, R86, R111, R121, R134): codes are clipped or sliced, residuals kept or dropped, the passes planned, and the
firing counted. -/
def startFiring (s : State) (n a : Nat) : State :=
  let tb := tileBase n
  let ab := arrBase n a
  let x := arrAt (tileAt s n) a
  match x.ops with
  | .fire f :: rest =>
    let drive := match f.slice with
      | some sp => sliceInput f.codes sp.high
      | none => f.codes.map clip7
    let ps := mkPasses drive (headroom s n a) s.now
    let pb := match f.slice with
      | some sp => sp.planeB
      | none => actB s n a
    let s1 := modArr s n a fun y => { y with ops := rest, run := some { f := f, x := drive, planeB := pb, passes := ps, ver := seqVer s n } }
    let s2 := foxFiring (count s1 ab (if f.tr then R.ARR_TMVM_CNT else R.ARR_MVM_CNT) 1) n
    let s3 := if (passRanges drive).length = 2 then count s2 ab R.ARR_PASS2_CNT 1
              else if (passRanges drive).length = 4 then count s2 ab R.ARR_PASS4_CNT 1 else s2
    let fin := match ps.getLast? with
      | some p => p.endAt
      | none => s.now
    let from' := max s.now (tileAt s3 n).busyUntil
    let ac := (tileAt s3 n).ageAc + (fin - from') / 4
    let s4 := modTile s3 n fun t => { t with busyUntil := max t.busyUntil fin, ageAc := ac % 2 ^ 24 }
    let s5 := if ac / 2 ^ 24 = 0 then s4 else count s4 tb R.CAL_AGE_CNT_COUNT (ac / 2 ^ 24)
    if f.slice.isSome then
      if x.wideRun then modTile s5 n fun t => if t.wideTids.contains x.wideSrc.tid then t else { t with wideTids := t.wideTids ++ [x.wideSrc.tid] } else s5
    else
      let rs := residuals f.codes
      let kept := if f.tr || !fldOn s5 tb R.FOX_CTRL_ENABLE then [] else rs.1
      let dropped := rs.1.length + rs.2 - kept.length
      let s6 := countAll s5 tb [(R.FOX_IOUT_CNT, kept.length), (R.FOX_ICLIP_CNT, dropped)]
      let s7 := if dropped = 0 then s6 else foxWindowAdd (flagC s6 n f.seg) n false dropped
      if f.tr || (kept.isEmpty && (planeOf x pb).outl.isEmpty) then s7
      else modArr s7 n a fun y => { y with fox := y.fox ++ [{ no := f.no, seg := f.seg, scale := f.scale, planeB := pb, x := drive, kept := kept }] }
  | _ => s

/-- A firing that could start and was not granted slips one ac (R191, R193). -/
def slipFiring (s : State) (n a : Nat) : State :=
  let s1 := count s (tileBase n) R.TILE_SLIP_CNT 1
  modArr s1 n a fun x => match x.ops with
    | .fire f :: rest => { x with ops := .fire { f with slipAc := some (f.slipAc.getD (launchCount s)) } :: rest }
    | _ => x

/-- The cap on starts per ac (R190, R194): 128, or 64 while throttled. -/
def firingCap (s : State) : Nat := if fldOn s (tileBase (phys s 0)) R.TILE_THR_ACTIVE then 64 else 128

/-- Insert a candidate by its key, keeping the order. -/
def insCand (c : Nat × Nat × Nat) : List (Nat × Nat × Nat) → List (Nat × Nat × Nat)
  | [] => [c]
  | d :: t => if c.1 < d.1 then c :: d :: t else d :: insCand c t

/-- The candidates of this ac in the order of R191, as (key, logical tile, array): slipped ones oldest first, then the launch set, each by tile
and array; then those that name no count, from the rotating tile on. -/
def candidates (s : State) : List (Nat × Nat × Nat) :=
  let all := (List.range 1024).filterMap fun i =>
    let t := i / 16
    let a := i % 16
    let n := phys s t
    if grantable s n a then
      let c := grantClass s n a
      let pos := if c = 2 then (t + 64 - s.grantRot % 64) % 64 * 16 + a else i
      some (c * 2 ^ 60 + (if c = 0 then slipKey s n a * 2 ^ 11 else 0) + pos, t, a)
    else none
  all.foldl (fun acc c => insCand c acc) []

/-- Grant the candidates in order until the cap is reached; the rest slip. A tile with a halved clock enable starts only on even counts (R193). -/
def grantAll : List (Nat × Nat × Nat) → Nat → State → State
  | [], _, s => s
  | (_, t, a) :: cs, left, s =>
    let n := phys s t
    if left = 0 then grantAll cs 0 (slipFiring s n a)
    else if fldOn s (tileBase n) R.TILE_CTRL_CLK_HALF && decide (launchCount s % 2 = 1) then grantAll cs left (slipFiring s n a)
    else grantAll cs (left - 1) (startFiring s n a)

/-- LAUNCH_GRANT: the grant round of this ac (R190–R193); once per ac, and none before the launch controller is released. -/
def execLaunchGrant (s : State) : Host.Outcome State Fault Refusal :=
  if s.launchAt.isNone || decide (s.lastGrant = some (launchCount s)) then .next s
  else
    let s1 := grantAll (candidates s) (firingCap s) s
    .next { s1 with lastGrant := some (launchCount s), grantRot := (s.grantRot + 1) % 64 }

/-! ### Passes -/

/-- One entry on its way into a lane (R102): lane, exponent, array, value, and the flags its code sets. -/
structure LaneEntry where
  lane : Nat
  e : Int
  arr : Nat
  v : Int
  sat : Bool
  zero' : Bool
  nan : Bool
  wide : Bool
  deriving DecidableEq, Repr

/-- Entries of one ac enter in ascending E, and of equal E in ascending array (R104). -/
def insEntry (x : LaneEntry) : List LaneEntry → List LaneEntry
  | [] => [x]
  | y :: t => if x.e < y.e ∨ (x.e = y.e ∧ x.arr < y.arr) then x :: y :: t else y :: insEntry x t

/-- Put one entry into its lane (R103, R104, R134): the tile, promotions and forced promotions. -/
def enterOne (p : Nat) (t : Tile) (x : LaneEntry) : Tile × Nat × Nat :=
  let l := laneAt t x.lane
  let l1 := { l with fs := l.fs || x.sat, fz := l.fz || x.zero', nan := l.nan || x.nan }
  if x.nan then (setLane t x.lane l1, 0, 0)
  else
    let r := if x.wide then laneEnterWide l1 x.e x.v else laneEnter p l1 x.e x.v
    (setLane t x.lane r.1, r.2.1, r.2.2)

/-- Put the entries of one ac into their lanes: promotions and forced promotions counted. -/
def enterAll (p : Nat) : Tile → List LaneEntry → Tile × Nat × Nat
  | t, [] => (t, 0, 0)
  | t, x :: xs =>
    let r := enterOne p t x
    let q := enterAll p r.1 xs
    (q.1, r.2.1 + q.2.1, r.2.2 + q.2.2)

/-- The exact analogue output of one line of a pass (R83, R86): Σ x_i w_ij over the driven lines. -/
def lineSum (p : Plane) (tr : Bool) (ps : Pass) (x : List Int) (j : Nat) : Int :=
  (List.range (ps.hi - ps.lo)).foldl (fun a d =>
    let i := ps.lo + d
    a + x.getD i 0 * (if tr then wCode p j i else wCode p i j)) 0

/-- Sum of x_i × f(i) over the lines of a pass. -/
def passSum (ps : Pass) (x : List Int) (f : Nat → Int) : Int :=
  (List.range (ps.hi - ps.lo)).foldl (fun a d => a + x.getD (ps.lo + d) 0 * f (ps.lo + d)) 0

/-- Integer square root, by bits from 2^k down. -/
def isqrtGo : Nat → Nat → Nat → Nat
  | 0, r, _ => r
  | k + 1, r, v => let c := r + 2 ^ k; isqrtGo k (if c * c ≤ v then c else r) v

/-- Integer square root of a number below 2^128. -/
def isqrt (v : Nat) : Nat := isqrtGo 64 0 v

/-- Add a pass to an array's checksum window (R418): n, Σz², and the version range. -/
def csAdd (w : CsWindow) (z2 ver cfg0 cfg1 : Nat) : CsWindow :=
  if w.n = 0 then { w with n := 1, sumZ2 := z2, vlo := ver, vhi := ver, cfg0 := cfg0, cfg1 := cfg1 }
  else { w with n := w.n + 1, sumZ2 := w.sumZ2 + z2, vlo := min w.vlo ver, vhi := max w.vhi ver }

/-- Pass threshold of a window's configuration in 1/16 (R417). -/
def passTh (cfg0 : Nat) : Nat := max 0x20 (cfg0 % 2 ^ 12)

/-- The checksum quantity of a pass is formed and tested (R89, R90, R416, R417). `dstar` is D*, `lam` is Λ. -/
def checksumPass (s : State) (n a : Nat) (ps : Pass) (d dstar : Int) (lam ver : Nat) : State :=
  let s2 : Nat := 26 * lam + 144 * 16 ^ ps.r
  let z2 := if s2 = 0 then 0 else dstar.natAbs ^ 2 * 65536 / s2
  let s1 := setFld (closeDue s n a) (arrBase n a) R.ARR_CS_LAST (tc 32 d)
  let s3 := modArr s1 n a fun x => { x with cs := csAdd x.cs z2 ver (fld s 0 R.OWL_CS_CFG0) (fld s 0 R.OWL_CS_CFG1) }
  let w := (arrAt (tileAt s3 n) a).cs
  let th := passTh w.cfg0
  if th ^ 2 * s2 < dstar.natAbs ^ 2 * 256 then
    let zz : Int := if dstar < 0 then -(isqrt z2 : Int) else (isqrt z2 : Int)
    let lt := (logicalOf s3 n).getD 0
    let s4 := raiseD (count s3 0 R.OWL_CS_XING 1) 0 R.OWL_STATUS_CS_XING
      [16 * lt + a, tc 32 zz, w.n, 0, w.vlo % 2 ^ 32, w.vlo / 2 ^ 32, w.vhi % 2 ^ 32, w.vhi / 2 ^ 32]
    detect s4 n
  else s3

/-- What one array's pass delivers (R81–R85, R89, R90, R102, R103, R141): its entries, with the counters, checksum and calibration sums it moves. -/
def convertPass (s : State) (n a : Nat) : State × List LaneEntry :=
  let x := arrAt (tileAt s n) a
  match x.run with
  | none => (s, [])
  | some r =>
    match r.passes with
    | [] => (s, [])
    | ps :: rest =>
      if s.now < ps.endAt then (s, [])
      else
        let p := planeOf x r.planeB
        let q : Int := 4 ^ ps.r
        let codes := (List.range 512).map fun j => convCode (s.freeCtr + j) 127 (lineSum p r.f.tr ps r.x j) q
        let exactC := passSum ps r.x fun i => sget (fun _ => (0 : Int)) p.cks i
        let ccs := convCode (s.freeCtr + 512) 8191 (64 * exactC) q
        let sumC := codes.foldl (· + ·) 0
        let rho := passSum ps r.x fun i => sget (fun _ => (0 : Int)) p.rho i
        let kap := passSum ps r.x fun i => sget (fun _ => (0 : Int)) p.kap i
        let tj := passSum ps r.x fun i => sget (fun _ => (0 : Int)) p.tsum i
        let d := if r.f.tr then q * sumC - tj else q * (sumC + 8 * ccs) + rho
        let dstar := if r.f.tr then d else d - 8 * kap
        let lam := (List.range (ps.hi - ps.lo)).foldl (fun a i => a + (r.x.getD (ps.lo + i) 0).natAbs ^ 2) 0
        let s1 := { s with freeCtr := s.freeCtr + 513 }
        let s2 := checksumPass s1 n a ps d dstar lam r.ver
        let meas := calMeasures s2 n a
        let s3 := if !meas then s2 else modTile s2 n fun t => { t with cal := calPass t.cal r.f.tr ps r.x codes (if r.f.tr then none else some ccs) }
        let s4 := if meas && rest.isEmpty then modTile s3 n fun t => { t with cal := if r.f.tr then { t.cal with tra := t.cal.tra + 1 } else { t.cal with fwd := t.cal.fwd + 1 } } else s3
        let s5 := modArr s4 n a fun y => if rest.isEmpty then { y with run := none } else { y with run := some { r with passes := rest } }
        let fac : Int := match r.f.slice with
          | some sp => sp.factor
          | none => 1
        let es := (List.range 512).map fun j =>
          let c := codes.getD j 0
          let ew := sget (fun _ => 0) p.exps j
          { lane := 512 * r.f.seg + j, e := if r.f.tr then (r.f.scale : Int) - 127 else (r.f.scale : Int) - 127 + ((ew : Int) - 127), arr := a,
            v := c * q * fac, sat := decide (c.natAbs = 127), zero' := decide (c = 0), nan := !r.f.tr && decide (ew = 255),
            wide := r.f.slice.isSome : LaneEntry }
        (s5, es)

/-- Promote the lanes of a segment that hold entries: the end of a wide FIRE's slice firings (R134). -/
def promoteSeg (s : State) (n seg : Nat) : State :=
  let t := tileAt s n
  let live := (List.range 512).filter fun j => decide ((laneAt t (512 * seg + j)).cnt ≠ 0)
  let s1 := if live = [] then s else count s (tileBase n) R.ACC_PROMO_CNT live.length
  modTile s1 n fun t => live.foldl (fun t j => setLane t (512 * seg + j) (promote (laneAt t (512 * seg + j)))) t

/-- After a pass that ended a firing: a wide command whose slice firings have all delivered promotes its segment, and a command with no work
left ends. -/
def firingEnd (s : State) (n : Nat) (r : Running) : State :=
  let t := tileAt s n
  let left := t.arrs.any fun p => (p.2.ops.any fun o => match o with | .fire f => decide (f.no = r.f.no) && decide (f.seg = r.f.seg) | .swap _ _ _ => false) ||
    (match p.2.run with | some q => decide (q.f.no = r.f.no) && decide (q.f.seg = r.f.seg) | none => false)
  let s1 := if r.f.slice.isSome && !left then promoteSeg s n r.f.seg else s
  finIfDone s1 n r.f.no

/-- PASS_CONVERT: the codes of the passes that end in this ac, one per array of `mask`, enter the accumulator (R85, R102–R104, R120). -/
def execPassConvert (t : Fin 64) (mask : Nat) (s : State) : Host.Outcome State Fault Refusal :=
  let n := phys s t
  let tb := tileBase n
  let as := arraysOf mask
  let runs := as.filterMap fun a => (arrAt (tileAt s n) a).run
  let c := as.foldl (fun (acc : State × List LaneEntry) a => let r := convertPass acc.1 n a; (r.1, acc.2 ++ r.2)) (s, [])
  if c.2 = [] then .next s
  else
    let es := c.2.foldl (fun acc e => insEntry e acc) []
    let r := enterAll (fld s tb R.ACC_CTRL_P_M1 + 1) (tileAt c.1 n) es
    let s1 := countAll (setTile c.1 n r.1) tb [(R.ACC_PROMO_CNT, r.2.1), (R.ACC_PROMO_FORCED, r.2.2)]
    let blks := (List.range 256).filter fun b => c.2.any fun e => decide (e.lane / 32 = b)
    let s2 := blks.foldl (fun s b =>
      let here := c.2.filter fun e => decide (e.lane / 32 = b)
      blockCount s n b here.length (here.filter (·.sat)).length (here.filter (·.zero')).length) s1
    .next (runs.foldl (fun s r => firingEnd s n r) s2)

/-! ### Fox work and windows -/

/-- The correction F of one column (R112, R115): kept residuals against the row-read codes, and the list entries of the column. -/
def foxSum (p : Plane) (j : FoxJob) (free col : Nat) : Int :=
  let inp := ((List.range j.kept.length).zip j.kept).foldl (fun a q =>
    a + q.2.2 * (wCode p q.2.1 col + Config.rowReadDev (free + 512 * q.1 + col))) 0
  let xr := fun (i : Nat) => j.x.getD i 0 + (match j.kept.find? (fun q => decide (q.1 = i)) with | some q => q.2 | none => 0)
  (p.outl.filter fun o => decide (o.col = col)).foldl (fun a o => a + xr o.row * res105 o.res) inp

/-- FOX_WORK_DONE: the fox path finishes the oldest firing of array a (R112, R113, R115, R116, R118). -/
def execFoxWorkDone (t : Fin 64) (a : Fin 16) (s : State) : Host.Outcome State Fault Refusal :=
  let n := phys s t
  let tb := tileBase n
  let x := arrAt (tileAt s n) a
  match x.fox with
  | [] => .next s
  | j :: rest =>
    let p := planeOf x j.planeB
    let on := fldOn s tb R.FOX_CTRL_ENABLE
    let xr := fun (i : Nat) => j.x.getD i 0 + (match j.kept.find? (fun q => decide (q.1 = i)) with | some q => q.2 | none => 0)
    let act := p.outl.filter fun o => decide (xr o.row ≠ 0)
    let clipped := act.filter fun o => decide (105 < o.res.natAbs)
    let wadd := if on then clipped.length else p.outl.length
    let s1 := { modArr s n a (fun y => { y with fox := rest }) with freeCtr := s.freeCtr + 512 * j.kept.length }
    let s2 := countAll s1 tb [(R.FOX_ROWREAD_CNT, j.kept.length), (R.FOX_WOUT_CNT, if on then act.length else 0), (R.FOX_WCLIP_CNT, wadd)]
    let p' := if on then p else { p with outl := [] }
    let cols := (if on then clipped else p.outl).map (·.col)
    let s3 := modTile s2 n fun t => (List.range 512).foldl (fun t col =>
      let k := 512 * j.seg + col
      let e : Int := (j.scale : Int) - 127 + ((sget (fun _ => 0) p.exps col : Nat) : Int) - 127
      let l := laneFox (laneAt t k) (foxSum p' j s.freeCtr col) e
      setLane t k (if cols.contains col then { l with fc := true } else l)) t
    let s4 := if on then foxWindowAdd s3 n true clipped.length else s3
    .next (finIfDone s4 n j.no)

/-- BLOCK_WINDOW_CLOSE: the code count of an output block has reached W (R120). -/
def execBlockWindowClose (t : Fin 64) (b : Fin 256) (s : State) : Host.Outcome State Fault Refusal :=
  let n := phys s t
  .next (if winW s n ≤ sget (fun _ => 0) (tileAt s n).blkCodes b then blockWindowReset s n b else s)

/-- FOX_WINDOW_CLOSE: the fox window's firings have ended (R121). -/
def execFoxWindowClose (t : Fin 64) (s : State) : Host.Outcome State Fault Refusal :=
  let n := phys s t
  .next (if foxWin s n ≤ (tileAt s n).foxFired then foxWindowReset s n else s)

/-- HOLD_CLR: a host write of 1 to ACC_HOLD_CLR.CLR empties the wide-hold table (R131). -/
def execHoldClr (t : Fin 64) (s : State) : Host.Outcome State Fault Refusal :=
  .next (if hostUp s then modTile s (phys s t) fun x => { x with hold := [] } else s)

end Sys2Proof.Machine
end

