-- ==== Sys2Proof/Machine/Planes.lean ====
section
/-! DEFINITION. Plane writes and refreshes (R59–R69, R91–R99, R245, R269), wide mode, and what a plane that ends INVALID does. -/

namespace Sys2Proof.Machine

/-- Put wide mode into force, or out, once the array is idle (R99): both planes become EMPTY and plane A the active one. -/
def applyWide (s : State) (n a : Nat) : State :=
  let x := arrAt (tileAt s n) a
  let want := fldOn s (arrBase n a) R.ARR_CTRL_WIDE
  if want = x.modeWide ∨ x.run.isSome ∨ x.job.isSome then s
  else
    let s1 := setPlaneState (setPlaneState (calCloseIf s n a) n a false psEmpty) n a true psEmpty
    modArr (setBit s1 (arrBase n a) R.ARR_STATE_ACT_B false) n a fun y =>
      { y with modeWide := want, wideRun := false, a := {}, b := {}, trackB := false, lateA := false, lateB := false }

/-- ARR_CTRL_WIDE: a host write of ARR_CTRL.WIDE (R99). -/
def arrCtrlWide (s : State) (n a : Nat) (v : Bool) : State := applyWide (setBit s (arrBase n a) R.ARR_CTRL_WIDE v) n a

/-- ARR_CTRL_WIDE; `v` none: the array has become idle and a pending change takes effect. -/
def execArrCtrlWide (t : Fin 64) (a : Fin 16) (v : Option Bool) (s : State) : Host.Outcome State Fault Refusal :=
  .next (match v with
    | some b => if hostUp s then arrCtrlWide s (phys s t) a b else s
    | none => applyWide s (phys s t) a)

/-! ### Starting a write or refresh -/

/-- The source record of a plane write (R269). -/
def srcOfPwrite (s : State) (o : PwriteOp) (ds : List (Nat × Desc)) (ver : Nat) : SrcRec :=
  let d := descOr ds o.desc
  let l := descOr ds o.listDesc
  { src := readAddr s d ver o.block0 + (if d.sett then 2 ^ 63 else 0), stride := d.stride,
    list := if o.listEn then readAddr s l ver o.listBlock + o.listK * 2 ^ 48 + (if l.sett then 2 ^ 62 else 0) + 2 ^ 63 else 0,
    tid := d.tid, ltid := if o.listEn then l.tid else 0, ver := ver % 2 ^ 48 }

/-- Both planes, or the one a job writes. -/
def jobPlanes (j : PlaneJob) : List Bool := if j.wide then [false, true] else [j.planeB]

/-- A plane write begins (R69): the planes that are not in force show STAGING. -/
def beginWrite (s : State) (n a : Nat) (j : PlaneJob) : State :=
  (jobPlanes j).foldl (fun s b => if planeState s n a b = psActive then s else setPlaneState s n a b psStaging)
    (modArr s n a fun x => { x with job := some j, stage := [] })

/-- The block requests that re-read a recorded source (R93): 16 blocks, and the list block where one was named. -/
def srcBlks (r : SrcRec) : List BlkReq :=
  ((List.range 16).map fun k => newBlk k (r.src % 2 ^ 48 + k * r.stride) (bitOn r.src 63) r.tid 0 5 1) ++
  (if bitOn r.list 63 then [newBlk 16 (r.list % 2 ^ 48) (bitOn r.list 62) r.ltid 0 9 3] else [])

/-- A refresh begins (R93): the streamer re-reads the recorded source; the plane shows its RFSH bit. -/
def beginRefresh (s : State) (n a : Nat) (b : Bool) : State :=
  let x := arrAt (tileAt s n) a
  let w := arrWide s n a
  let r := if w then x.wideSrc else srcOf s n a b
  let j := addJob s n none (.refresh a b) false none 0 (srcBlks r)
  let s1 := modArr j.1 n a fun y => { y with
    stage := [], rfshWantA := y.rfshWantA && b && !w, rfshWantB := y.rfshWantB && !b && !w,
    job := some { jobId := j.2, planeB := b, refresh := true, wide := w, no := none, src := r, ver := r.ver, cfa := none, oldState := 0, rows := false,
                  content := {}, content2 := {}, stamp := s.now } }
  let s2 := if w || !b then setFld s1 (arrBase n a) R.ARR_STATE_RFSH_A 1 else s1
  if w || b then setFld s2 (arrBase n a) R.ARR_STATE_RFSH_B 1 else s2

/-- The next write or refresh of an array whose staging area is free (R299): the oldest plane write that waits, else a wanted refresh. -/
def startPlaneJob (s : State) (n a : Nat) : State :=
  let t := tileAt s n
  let x := arrAt t a
  if x.job.isSome then s
  else
    match t.jobs.find? fun j => (match j.kind with | .pwrite o => decide (o.array = a) | _ => false) with
    | some j =>
      (match j.kind, (j.no.bind (issuedOf t)) with
      | .pwrite o, some i =>
        beginWrite s n a { jobId := j.id, planeB := o.planeB, refresh := false, wide := arrWide s n a, no := j.no, src := srcOfPwrite s o i.descs i.ver,
                           ver := i.ver % 2 ^ 48, cfa := if o.cfaEn then some o.cfa else none, oldState := 0, rows := false, content := {}, content2 := {}, stamp := s.now }
      | _, _ => s)
    | none => if x.rfshWantA then beginRefresh s n a false else if x.rfshWantB then beginRefresh s n a true else s

/-- Why a PWRITE fails at issue (R68, R100), or none. -/
def pwriteFault (s : State) (n : Nat) (o : PwriteOp) : Option Nat :=
  if !fldOn s (arrBase n o.array) R.ARR_CTRL_ENABLE then some stArrayOff
  else if !(arrAt (tileAt s n) o.array).modeWide && (judgedB s n o.array == o.planeB) then some stPlaneActive
  else none

/-- The blocks of a PWRITE: 16 plane blocks and its list block (R59, R114). -/
def pwriteBlks (s : State) (o : PwriteOp) (ds : List (Nat × Desc)) (ver : Nat) : List BlkReq :=
  descBlks s (descOr ds o.desc) ver o.block0 16 0 ++ (if o.listEn then descBlks s (descOr ds o.listDesc) ver o.listBlock 1 16 else [])

/-- PWRITE (R269): the streamer stages the blocks of a plane write. -/
def pwrite (s : State) (t : Fin 64) (o : PwriteOp) : State :=
  if swapWaits s (phys s t) o.array then s
  else issueWith s t (.pwrite o) fun n f s =>
    match pwriteFault s n o with
    | some st => haltSeq s n st f.idx false
    | none =>
      let r := popIssue s n f
      let ver := seqVer s n
      let j := addJob (ranCmd r.1 n r.2) n (some r.2) (.pwrite o) false (some (ver % 2 ^ 48)) 0 (pwriteBlks s o f.descs ver)
      startPlaneJob j.1 n o.array

/-- PWRITE. -/
def execPwrite (t : Fin 64) (o : PwriteOp) (s : State) : Host.Outcome State Fault Refusal := .next (pwrite s t o)

/-! ### Failing -/

/-- Would the firing or swap at the head of array a now fail for a plane that holds nothing (R71, R72). -/
def headStuck (s : State) (n a : Nat) : Bool :=
  let bad := fun (b : Bool) =>
    let st := planeState s n a b
    (decide (st = psEmpty) || decide (st = psInvalid)) && !writePending s n a b
  match (arrAt (tileAt s n) a).ops with
  | .fire _ :: _ => if arrWide s n a then bad false || bad true else bad (actB s n a)
  | _ => false

/-- Firings and swaps that waited on a write or refresh that ended INVALID fail, in order (R71, R72). -/
def failWaiters (n a : Nat) : Nat → State → State
  | 0, s => s
  | k + 1, s =>
    match (arrAt (tileAt s n) a).ops with
    | .fire f :: rest => if headStuck s n a then failWaiters n a k (failExec (modArr s n a fun y => { y with ops := rest }) n f.no stPlaneState) else s
    | .swap _ _ _ :: _ => let s1 := trySwap s n a; if (arrAt (tileAt s1 n) a).ops = (arrAt (tileAt s n) a).ops then s else failWaiters n a k s1
    | [] => s

/-- What follows the end of a write or refresh: a pending mode change, the next write, and what waited. -/
def afterPlane (s : State) (n a : Nat) : State :=
  let s1 := startPlaneJob (applyWide s n a) n a
  failWaiters n a (arrAt (tileAt s1 n) a).ops.length s1

/-- A write or refresh ends with its planes INVALID (R60, R97): they keep no content; the command completes. `mism`: the source check of R97. -/
def planeInvalid (s : State) (n a : Nat) (mism : Bool) : State :=
  match (arrAt (tileAt s n) a).job with
  | none => s
  | some j =>
    let s0 := if (jobPlanes j).any (fun b => decide (planeState s n a b = psActive)) then calCloseIf s n a else s
    let s1 := (jobPlanes j).foldl (fun s b => modArr (setPlaneState s n a b psInvalid) n a fun x => setPlane x b {}) s0
    let s2 := setFld (setFld s1 (arrBase n a) R.ARR_STATE_RFSH_A 0) (arrBase n a) R.ARR_STATE_RFSH_B 0
    let s3 := raiseBit s2 (arrBase n a) (if mism then R.ARR_STATUS_SRC_MISMATCH else R.ARR_STATUS_INVALID)
    let s4 := dropJob (modArr s3 n a fun x => { x with job := none, stage := [] }) n j.jobId
    let s5 := match j.no with
      | some no => finCmd s4 n no
      | none => s4
    afterPlane s5 n a

/-! ### Rows -/

/-- The 16 staged blocks in order, and the list entries that go with them (R59, R113, R114). -/
def stagedBlks (x : Arr) : List (List Byte) := (List.range 16).map fun k => (x.stage.find? fun p => decide (p.1 = k)).elim [] (·.2)

/-- Entries of the list a source names, from its staged block. -/
def stagedList (x : Arr) (r : SrcRec) : List Outlier :=
  if bitOn r.list 63 then listEntries ((x.stage.find? fun p => decide (p.1 = 16)).elim [] (·.2)) (bits r.list 50 48) else []

/-- Contents of a write from its blocks (R59, R61, R133): one plane, or the two slices, with reserved codes and weights the limit changed. -/
def planeContents (wide : Bool) (blks : List (List Byte)) (ents : List Outlier) (remap : List (Nat × Nat)) : Plane × Plane × Nat × Nat :=
  let c := sliceCodes blks
  let e := sliceExps blks
  let clip := clipSum blks
  if wide then
    let w := wideSlices c.1 ents
    ({ mkPlane w.1 e [] clip with remap := remap }, { mkPlane w.2.1 e [] clip with remap := remap }, c.2, w.2.2)
  else ({ mkPlane c.1 e ents clip with remap := remap }, {}, c.2, 0)

/-- The column factors of R245: 512 FP32 words. -/
def columnFactors (exps : List (Nat × Nat)) : List Byte :=
  (List.range 512).flatMap fun j =>
    let e := sget (fun _ => 0) exps j
    leBytes 4 (if e = 255 then fp32NaN else if e = 0 then 0#32 else fp32Of (.num (pow2 ((e : Int) - 127)))).toNat

/-- Must the rows of a staged write wait: for swaps issued before a plane write (R68), or for earlier firings before a wide one (R99, R135). -/
def rowsWait (s : State) (n a : Nat) (j : PlaneJob) : Bool :=
  let x := arrAt (tileAt s n) a
  if j.refresh then false
  else
    let before := fun (k : Nat) => (match j.no with | some no => decide (k < no) | none => true)
    (x.ops.any fun o => match o with | .swap k _ _ => before k && !j.wide | .fire f => j.wide && before f.no) ||
    (j.wide && x.run.isSome) || (!j.wide && decide (planeState s n a j.planeB = psActive))

/-- Copy the payload of a newly staged plane into the hold copy of a sweep that measures this array (R145). -/
def holdCopy (s : State) (n a : Nat) (b : Bool) (blks : List (List Byte)) : State :=
  let tb := tileBase n
  if fldOn s tb R.CAL_STATUS_BUSY && !fldOn s tb R.CAL_STATUS_HOLD_WAIT && decide (fld s tb R.CAL_STATUS_ARRAY = a) then
    modTile s n fun t => settPutAll 0 t (fld s tb R.CAL_HOLD_BANK * 262144 + (if b then 131072 else 0)) (blks.flatMap fun x => x.take 8192)
  else s

/-- PLANE_STAGED: every block of a write or refresh is staged and checked. A refresh source must carry the recorded identifiers and version
(R97); the column factors are written (R245), the source recorded (R269) and row writing begins (R60, R61, R64). -/
def planeStaged (s : State) (n a : Nat) : State :=
  let x := arrAt (tileAt s n) a
  match x.job with
  | none => s
  | some j =>
    let need := if bitOn j.src.list 63 then 17 else 16
    if j.rows || decide (x.stage.length < need) || rowsWait s n a j then s
    else
      match (match j.cfa with | some c => if settOwned s n 2 c 2048 then none else some c | none => none) with
      | some _ => ownWaitStart s n 2
      | none =>
        let blks := stagedBlks x
        let ents := stagedList x j.src
        let vs := x.stage.map fun p => trailerOf p.2
        let okT := (List.range 16).all fun k => decide ((trailerOf (blks.getD k [])).tid = j.src.tid)
        let okL := !bitOn j.src.list 63 || x.stage.any fun p => decide (p.1 = 16) && decide ((trailerOf p.2).tid = j.src.ltid)
        if j.refresh && !(okT && okL && vs.all fun v => decide (v.version = j.src.ver)) then planeInvalid s n a true
        else
          let c := planeContents j.wide blks ents (remapOf s n a)
          let s1 := ownWaitEnd s n 2
          let s2 := countAll s1 (tileBase n) [(R.STR_CNV_RSVD, c.2.2.1), (R.FOX_WCLIP_CNT, c.2.2.2)]
          let s3 := match j.cfa with
            | some f => settWrite s2 n f (columnFactors (sliceExps blks))
            | none => s2
          let s4 := if j.refresh || j.wide then s3 else holdCopy s3 n a j.planeB blks
          let s5 := if j.refresh then s4
                    else if j.wide && !x.wideRun then setSrc (setSrc s4 n a false j.src) n a true j.src
                    else setSrc s4 n a j.planeB j.src
          let s6 := if j.refresh then s5 else (jobPlanes j).foldl (fun s b => setPlaneState s n a b psWriting) s5
          modArr s6 n a fun y => { y with wideSrc := if j.wide then j.src else y.wideSrc,
                                          job := some { j with rows := true, content := c.1, content2 := c.2.1, stamp := s.now } }

/-- PLANE_STAGED. -/
def execPlaneStaged (t : Fin 64) (a : Fin 16) (s : State) : Host.Outcome State Fault Refusal := .next (planeStaged s (phys s t) a)

/-- Write-verify of a plane write (R65): cells rewritten after the first and second read-back and cells left off, each free and never above
the number of the step before. -/
def writeVerify (s : State) (n a cells : Nat) : State :=
  if !fldOn s (arrBase n a) R.ARR_CTRL_WV_EN then s
  else
    let m1 := min (Config.verifyCells s.freeCtr) cells
    let m2 := min (Config.verifyCells (s.freeCtr + 1)) m1
    let m3 := min (Config.verifyCells (s.freeCtr + 2)) m2
    let s1 := countAll { s with freeCtr := s.freeCtr + 3 } (arrBase n a) [(R.ARR_WV_REWRITE, m1 + m2), (R.ARR_WV_RESID, m3)]
    raiseIf (decide (m3 ≠ 0)) s1 (arrBase n a) R.ARR_STATUS_WV_RESID

/-- Put the written content of one plane in place: its checksum deviations are measured (R415) and its age starts (R91). -/
def placePlane (s : State) (n a : Nat) (b : Bool) (p : Plane) : State :=
  let q := { p with kap := measureKappa s p.cks, aged := s.now }
  let s1 := { s with freeCtr := s.freeCtr + 512 }
  modArr s1 n a fun x => { setPlane x b q with lateA := x.lateA && b, lateB := x.lateB && !b }

/-- The earlier state an EXPIRED plane returns to (R96). -/
def earlierState (x : Arr) (b : Bool) : Nat := if b then x.expB else x.expA

/-- PLANE_WRITE_DONE: the last row is written, at least 512 ac after the first (R64, R95, R96, R99, R135). -/
def planeWriteDone (s : State) (n a : Nat) : State :=
  let x := arrAt (tileAt s n) a
  match x.job with
  | none => s
  | some j =>
    let ac := if fldOn s (arrBase n a) R.ARR_CTRL_WV_EN then 1024 else 512
    if !j.rows || decide (s.now < j.stamp + 4 * ac) then s
    else
      let ps := jobPlanes j
      let s0 := if ps.any (fun b => decide (planeState s n a b = psActive)) then calCloseIf s n a else s
      let s1 := writeVerify s0 n a (ps.length * 512 * (513 + j.content.remap.length))
      let s2 := ps.foldl (fun s b => placePlane s n a b (if j.wide && b then j.content2 else j.content)) s1
      let s3 := if j.refresh then
          ps.foldl (fun s b => count (if planeState s n a b = psExpired then setPlaneState s n a b (earlierState x b) else s) (arrBase n a) R.ARR_RFSH_CNT 1) s2
        else ps.foldl (fun s b => setPlaneState s n a b (if j.wide then psActive else psReady)) s2
      let s4 := setFld (setFld s3 (arrBase n a) R.ARR_STATE_RFSH_A 0) (arrBase n a) R.ARR_STATE_RFSH_B 0
      let s5 := modArr s4 n a fun y => { y with job := none, stage := [] }
      let s6 := if j.wide && !j.refresh then planeInForce s5 n a false else s5
      let s7 := match j.no with
        | some no => finCmd s6 n no
        | none => s6
      afterPlane s7 n a

/-- PLANE_WRITE_DONE. -/
def execPlaneWriteDone (t : Fin 64) (a : Fin 16) (s : State) : Host.Outcome State Fault Refusal := .next (planeWriteDone s (phys s t) a)

/-! ### Refresh -/

/-- Is a refresh of a plane wanted or in progress. -/
def refreshing (x : Arr) (b : Bool) : Bool :=
  (if b then x.rfshWantB else x.rfshWantA) || (match x.job with | some j => j.refresh && (j.wide || (j.planeB == b)) | none => false)

/-- Ask for a refresh of a plane with a recorded source (R93, R159). -/
def wantRefresh (s : State) (n a : Nat) (b : Bool) : State :=
  if refreshing (arrAt (tileAt s n) a) b then s
  else startPlaneJob (modArr s n a fun x => if b then { x with rfshWantB := true } else { x with rfshWantA := true }) n a

/-- PLANE_REFRESH_REQUEST: a plane's age has reached I (R93). -/
def execPlaneRefreshRequest (t : Fin 64) (a : Fin 16) (b : Bool) (s : State) : Host.Outcome State Fault Refusal :=
  let n := phys s t
  .next (if ageReached s n a b 2 && hasSrc (srcOf s n a b) then wantRefresh s n a b else s)

/-- REFRESH_LATE: a plane's age has reached 1.5 I before its refresh completed (R94). -/
def execRefreshLate (t : Fin 64) (a : Fin 16) (b : Bool) (s : State) : Host.Outcome State Fault Refusal :=
  let n := phys s t
  let x := arrAt (tileAt s n) a
  if ageReached s n a b 3 && !(if b then x.lateB else x.lateA) then
    .next (raiseBit (modArr s n a fun y => if b then { y with lateB := true } else { y with lateA := true }) (arrBase n a) R.ARR_STATUS_RFSH_LATE)
  else .next s

/-- PLANE_EXPIRE: a plane's age has reached 2 I before its refresh completed (R96). -/
def execPlaneExpire (t : Fin 64) (a : Fin 16) (b : Bool) (s : State) : Host.Outcome State Fault Refusal :=
  let n := phys s t
  let st := planeState s n a b
  if ageReached s n a b 4 && decide (st ≠ psExpired) then
    .next (raiseBit (setPlaneState (modArr s n a fun y => if b then { y with expB := st } else { y with expA := st }) n a b psExpired)
      (arrBase n a) (if b then R.ARR_STATUS_EXPIRED_B else R.ARR_STATUS_EXPIRED_A))
  else .next s

/-! ### Reloads at a rewind and at the end of a wide run -/

/-- Read one block of a recorded source at once: from sett memory, or from HBM. -/
def readNow (s : State) (n : Nat) (b : BlkReq) : List Byte × State :=
  if b.sett then (settRead (tileAt s n) b.addr 9216, s) else memRead s b.addr 9216

/-- Read and check a recorded source (R60, R97, R129): the blocks and list entries, or none with the failure counted. -/
def readSource (s : State) (n : Nat) (r : SrcRec) : Option (List (List Byte) × List Outlier) × State :=
  let rs := (srcBlks r).foldl (fun (acc : List (BlkReq × List Byte) × State) b => let q := readNow acc.2 n b; (acc.1 ++ [(b, q.1)], q.2)) ([], s)
  let s1 := count rs.2 (tileBase n) R.STR_RD_REQ rs.1.length
  let why := fun (p : BlkReq × List Byte) => blockCheck { tid := p.1.tid, blk := (trailerOf p.2).block, fmt := p.1.fmt, layout := p.1.layout } false p.2
  match rs.1.find? fun p => decide (why p ≠ 0) with
  | some p => (none, blockFail (count s1 0 R.OWL_BLK_RETRY 2) p.1 (why p))
  | none =>
    if rs.1.all fun p => decide ((trailerOf p.2).version = r.ver) then
      (some ((rs.1.take 16).map (·.2), if bitOn r.list 63 then listEntries ((rs.1.getD 16 (newBlk 0 0 false 0 0 0 0, [])).2) (bits r.list 50 48) else []), s1)
    else (none, s1)

/-- Reload one plane narrow from a record (R129, R135); without a recorded source the plane becomes EMPTY. -/
def reloadNarrow (s : State) (n a : Nat) (b : Bool) (r : SrcRec) : State :=
  let st := if actB s n a = b then psActive else psReady
  let s0 := setSrc s n a b r
  if !hasSrc r then modArr (setPlaneState s0 n a b psEmpty) n a fun x => setPlane x b {}
  else
    let q := readSource (count s0 (tileBase n) R.ACC_RELOAD_CNT 1) n r
    match q.1 with
    | none => raiseBit (modArr (setPlaneState q.2 n a b psInvalid) n a fun x => setPlane x b {}) (arrBase n a) R.ARR_STATUS_INVALID
    | some c =>
      let p := planeContents false c.1 c.2 (remapOf s n a)
      let s1 := count q.2 (tileBase n) R.STR_CNV_RSVD p.2.2.1
      let s2 := setPlaneState (placePlane s1 n a b p.1) n a b st
      if st = psActive then planeInForce s2 n a b else s2

/-- Load a record's active plane into both planes as a wide write (R129, R133, R135); without a source both become EMPTY. -/
def reloadWide (s : State) (n a : Nat) (m : ArrMark) : State :=
  let r := if m.actB then m.b else m.a
  let s0 := setBit (setSrc (setSrc s n a false m.a) n a true m.b) (arrBase n a) R.ARR_STATE_ACT_B false
  let s1 := modArr s0 n a fun x => { x with wideRun := true, trackB := m.actB, wideSrc := r }
  let fail := fun (s : State) (st : Nat) =>
    modArr (setPlaneState (setPlaneState s n a false st) n a true st) n a fun x => { x with a := {}, b := {} }
  if !hasSrc r then fail s1 psEmpty
  else
    let q := readSource (count s1 (tileBase n) R.ACC_RELOAD_CNT 1) n r
    match q.1 with
    | none => raiseBit (fail q.2 psInvalid) (arrBase n a) R.ARR_STATUS_INVALID
    | some c =>
      let p := planeContents true c.1 c.2 (remapOf s n a)
      let s2 := countAll q.2 (tileBase n) [(R.STR_CNV_RSVD, p.2.2.1), (R.FOX_WCLIP_CNT, p.2.2.2)]
      let s3 := placePlane (placePlane s2 n a false p.1) n a true p.2.1
      planeInForce (setPlaneState (setPlaneState s3 n a false psActive) n a true psActive) n a false

/-- Leave a wide run (R135): the tracked plane becomes the active one and each plane is reloaded narrow, the active plane first. -/
def leaveWide (s : State) (n a : Nat) : State :=
  let x := arrAt (tileAt s n) a
  if !x.wideRun then s
  else
    let b := x.trackB
    let s1 := setBit (modArr s n a fun y => { y with wideRun := false }) (arrBase n a) R.ARR_STATE_ACT_B b
    reloadNarrow (reloadNarrow s1 n a b (srcOf s1 n a b)) n a (!b) (srcOf s1 n a (!b))

/-- Restore an array to a mark's record for a replay (R129). -/
def restoreArr (s : State) (n a : Nat) (m : ArrMark) : State :=
  let s1 := if actB s n a = m.actB then s
    else
      let o := !m.actB
      let s2 := if planeState s n a o = psActive then setPlaneState s n a o psReady else s
      let s3 := if planeState s2 n a m.actB = psReady then setPlaneState s2 n a m.actB psActive else s2
      planeInForce (calCloseIf (setBit s3 (arrBase n a) R.ARR_STATE_ACT_B m.actB) n a) n a m.actB
  let s2 := if srcOf s1 n a false = m.a then s1 else reloadNarrow s1 n a false m.a
  if srcOf s2 n a true = m.b then s2 else reloadNarrow s2 n a true m.b

end Sys2Proof.Machine
end

