-- ==== Sys2Proof/Machine/Marks.lean ====
section
/-! DEFINITION. Replay marks, rewinds, replays, wide runs and the wide-hold table (R123–R136, R227, R282, R283, R419). -/

namespace Sys2Proof.Machine

/-- The seed and the five draw counters of the VU (R224, R227). -/
def rngOf (s : State) (n : Nat) : List Nat :=
  fld s (tileBase n) R.VU_RNG_SEED_SEED :: (List.range 5).map fun c => fld s (tileBase n) (fldAt R.VU_RNG_CTR_COUNT c)

/-- Restore the five draw counters (R227). -/
def restoreRng (s : State) (n : Nat) (l : List Nat) : State :=
  (List.range 5).foldl (fun s c => setFld s (tileBase n) (fldAt R.VU_RNG_CTR_COUNT c) (l.getD (c + 1) 0)) s

/-- What a mark records of one array (R129): in a wide run, the plane a narrow execution would have active. -/
def arrMark (s : State) (n a : Nat) : ArrMark :=
  let x := arrAt (tileAt s n) a
  { actB := if x.wideRun then x.trackB else actB s n a, a := srcOf s n a false, b := srcOf s n a true }

/-- Put a mark identifier into the hold table after a wide run (R131): most recently used last; a full table evicts its first entry. -/
def holdInsert (s : State) (n id : Nat) : State :=
  if id = 0xFFFF then s
  else
    let c := max 1 (fld s (tileBase n) R.ACC_CTRL_WIDE_HOLD)
    let h := (tileAt s n).hold.filter fun p => decide (p.1 ≠ id)
    let s1 := raiseIf (decide (64 ≤ h.length)) s (tileBase n) R.ACC_STATUS_HOLD_EVICT
    modTile s1 n fun t => { t with hold := (if 64 ≤ h.length then h.drop 1 else h) ++ [(id, c)] }

/-- Use a hold-table entry (R131): its count falls, and at 0 it leaves. -/
def holdUse (s : State) (n id : Nat) : State :=
  let h := (tileAt s n).hold
  let c := ((h.find? fun p => decide (p.1 = id)).map (·.2)).getD 0
  let h1 := h.filter fun p => decide (p.1 ≠ id)
  count (modTile s n fun t => { t with hold := if 2 ≤ c then h1 ++ [(id, c - 1)] else h1 }) (tileBase n) R.ACC_HOLD_RUN 1

/-- Is a mark identifier in the hold table. -/
def isHeld (s : State) (n id : Nat) : Bool := decide (id ≠ 0xFFFF) && (tileAt s n).hold.any fun p => decide (p.1 = id)

/-- Load every array that is not in wide mode for a wide run, by a mark's records (R129, R131). -/
def enterWide (s : State) (n : Nat) (ms : List ArrMark) : State :=
  ((List.range 16).zip ms).foldl (fun s p => if (arrAt (tileAt s n) p.1).modeWide then s else reloadWide s n p.1 p.2) s

/-- Restore every array to narrow content at the end of a wide run (R135). -/
def exitWide (s : State) (n : Nat) : State := (List.range 16).foldl (fun s a => leaveWide s n a) s

/-- The effect of a MARK at issue (R131, R135, R282): the closed micro-batch's wide run enters the hold table or ends; records are taken; the
new micro-batch runs wide where its identifier is held. -/
def markIssue (s : State) (n : Nat) (f : Fetched) (o : MarkOp) : State :=
  let tb := tileBase n
  let s0 := popSeq s n f
  let t := tileAt s n
  let wasWide := fldOn s tb R.ACC_ESC_STATE_WIDE_RUN
  let s1 := if wasWide && !t.micro.held then holdInsert s0 n (fld s tb R.ACC_ESC_STATE_MARK_ID) else s0
  let held := isHeld s1 n o.markId
  let s2 := if wasWide && !held then exitWide s1 n else s1
  let ms := (List.range 16).map (arrMark s2 n)
  let m : MarkRec := { idx := f.idx, op := o, ver := seqVer s2 n, arrs := ms, rng := rngOf s2 n }
  let s3 := modTile s2 n fun x => { x with mark := some m, micro := { held := held } }
  let s4 := setFld s3 tb R.TILE_SEQ_MARKPTR_MARK f.idx
  let s5 := setFld (setFld (setFld (setFld s4 tb R.ACC_ESC_STATE_MARK_ID o.markId) tb R.ACC_ESC_STATE_HR_OFS 0) tb R.ACC_ESC_STATE_DMODE 0)
    tb R.ACC_ESC_STATE_REPLAYS 0
  let s6 := setBit s5 tb R.ACC_ESC_STATE_WIDE_RUN held
  if held then enterWide (holdUse s6 n o.markId) n ms else s6

/-- MARK (R282). -/
def execMark (t : Fin 64) (o : MarkOp) (s : State) : Host.Outcome State Fault Refusal :=
  .next (issueWith s t (.mark o) fun n f s => markIssue s n f o)

/-! ### Rewinds -/

/-- Has every issued operation of arrays, accumulator, DME, VU and streamer completed (R128). -/
def rewindQuiet (s : State) (n : Nat) : Bool :=
  let t := tileAt s n
  !(t.issued.any fun i => inUnits 0x1F i.cmd) && t.arrs.all fun p => p.2.run.isNone && p.2.ops.isEmpty && p.2.fox.isEmpty

/-- Clear lanes, fox queues, block windows and the fox window (R128 step 3). -/
def clearWork (s : State) (n : Nat) : State :=
  let tb := tileBase n
  let s1 := modTile s n fun t => { t with lanes := [], blkCodes := [], foxFired := 0, arrs := t.arrs.map fun p => (p.1, { p.2 with fox := [] }) }
  let s2 := (List.range 256).foldl (fun s b => setFld (setFld s tb (fldAt R.ACC_BLK_SAT_COUNT b) 0) tb (fldAt R.ACC_BLK_ZERO_COUNT b) 0) s1
  setFld s2 tb R.FOX_WIN_STATE 0

/-- The cause of highest priority among the pending crossings (R127): saturated codes, then dropped input residuals, then zeroed codes; 0 none.
-/
def topCause (l : List Nat) : Nat := if l.contains 3 then 3 else if l.contains 2 then 2 else if l.contains 1 then 1 else 0

/-- Set DMODE and HR_OFS for a replay of a cause (R127). -/
def setReplayMode (s : State) (n cause : Nat) : State :=
  let tb := tileBase n
  let h := fldInt s tb R.ACC_ESC_STATE_HR_OFS + (if cause = 3 then -1 else if cause = 1 then 1 else 0)
  let s1 := setFld s tb R.ACC_ESC_STATE_HR_OFS (tc 3 (clampI (-2) 2 h))
  setFld (setFld s1 tb R.ACC_ESC_STATE_DMODE (if cause = 1 then 2 else 1)) tb R.ACC_ESC_STATE_CAUSE cause

/-- Resume at the command after the opening mark, as the mark left the stream (R128 step 6, R227, R267). -/
def resumeAfterMark (s : State) (n : Nat) (m : MarkRec) (chk : Bool) : State :=
  let tb := tileBase n
  let len := fld s tb R.TILE_SEQ_LEN_LEN
  let s1 := setFld s tb R.TILE_SEQ_PTR_PTR (if len = 0 then m.idx + 1 else (m.idx + 1) % len)
  let s2 := restoreRng (setFld s1 tb R.TILE_SEQ_VER_VERSION m.ver) n m.rng
  let s3 := dropPrefetch (modTile s2 n fun t => { t with fetched := [], launchSet := none, seqWait := none,
                                                         micro := { chkDone := t.micro.chkDone || chk, setvers := t.micro.setvers, held := t.micro.held } }) n
  let s4 := if seqState s3 n = sqWaiting then setFld s3 tb R.TILE_SEQ_STATUS_STATE sqRunning else s3
  setFld s4 tb R.ACC_ESC_STATE_REWIND 0

/-- REWIND: the steps of R128 once the issued work has completed: a replay, a check replay (R419), or a change to a wide run (R130), which fails
where the mark names no wide drive area (R283). -/
def rewind (s : State) (n : Nat) : State :=
  let tb := tileBase n
  let t := tileAt s n
  match t.mark with
  | none => s
  | some m =>
    if !fldOn s tb R.ACC_ESC_STATE_REWIND || !rewindQuiet s n || decide (seqState s n = sqHalted) then s
    else
      let cause := topCause t.micro.pend
      let wide : Bool := decide (cause ≠ 0) && decide (2 ≤ fld s tb R.ACC_ESC_STATE_REPLAYS)
      if wide && decide (m.op.areaLen = 0) then
        haltSeq (setFld (modTile s n fun x => { x with micro := { x.micro with pend := [], chkPend := false } }) tb R.ACC_ESC_STATE_REWIND 0)
          n stWideArea m.idx true
      else
        let s1 := clearWork s n
        if wide then
          let s2 := enterWide s1 n m.arrs
          let s3 := setFld (setFld (count s2 tb R.ACC_WIDE_RUN_CNT 1) tb R.ACC_ESC_STATE_WIDE_RUN 1) tb R.ACC_ESC_STATE_CAUSE cause
          resumeAfterMark s3 n m t.micro.chkPend
        else
          let s2 := ((List.range 16).zip m.arrs).foldl (fun s p => if (arrAt (tileAt s n) p.1).modeWide then s else restoreArr s n p.1 p.2) s1
          let s3 := if cause = 0 then s2 else setReplayMode s2 n cause
          let s4 := setFld (count s3 tb R.ACC_REPLAY_CNT 1) tb R.ACC_ESC_STATE_REPLAYS (fld s3 tb R.ACC_ESC_STATE_REPLAYS + 1)
          let s5 := if t.micro.chkPend then count s4 0 R.OWL_CHK_REPLAY 1 else s4
          resumeAfterMark s5 n m t.micro.chkPend

/-- REWIND. -/
def execRewind (t : Fin 64) (s : State) : Host.Outcome State Fault Refusal := .next (rewind s (phys s t))

end Sys2Proof.Machine
end

