-- ==== Sys2Proof/Machine/Streamer.lean ====
section
/-! DEFINITION. The streamer (R238, R242, R275, R276, R298–R312, R395): LOAD, STORE and KLOAD, issue of requests, returned blocks, prefetch and
torn reads. -/

namespace Sys2Proof.Machine

/-! ### Drive images in blocks (R238) -/

/-- Drive image i of an IMAGE-layout block, byte for byte (R216, R238); its byte 528 names the format, the rest of its last line is 0. -/
def imageOf (fmt : Nat) (blk : List Byte) (i : Nat) : List Byte :=
  if fmt = 5 then
    (blk.drop (256 * i)).take 256 ++ List.replicate 256 0 ++ [blk.getD (8192 + i) 0] ++ List.replicate 15 0 ++ [5] ++ List.replicate 47 0
  else
    (blk.drop (512 * i)).take 512 ++ (blk.drop (8192 + 16 * i)).take 16 ++ [8] ++ List.replicate 47 0

/-- Pack images into the payload and scale bytes of one block (R238); missing images fill with codes 0 and scale 0x7F. -/
def packImages (fmt : Nat) (imgs : List (List Byte)) : List Byte × List Byte :=
  if fmt = 5 then
    let l := imgs ++ List.replicate (32 - imgs.length) (List.replicate 512 0 ++ [0x7F])
    (l.flatMap (·.take 256), l.map fun i => i.getD 512 0)
  else
    let l := imgs ++ List.replicate (16 - imgs.length) (List.replicate 512 0 ++ List.replicate 16 0x7F)
    (l.flatMap (·.take 512), l.flatMap fun i => (i.drop 512).take 16)

/-- A DME operand row (R273): elements packed, the scale bytes of a block format, padded to a 64-byte boundary. -/
def operandRow (f : Fmt) (codes : List Nat) (scales : List Byte) : List Byte :=
  let b := packElems f codes ++ scales
  b ++ List.replicate (rowBytes f codes.length - b.length) 0

/-- Element e of a run of blocks taken as one sequence (R275): its code and its group's scale byte. -/
def runElem (f : Fmt) (blks : List (List Byte)) (e : Nat) : Nat × Byte :=
  let b := blks.getD (e / fmtElems f) []
  let i := e % fmtElems f
  (payloadElem f b i, match fmtGroup f with
    | some g => b.getD (8192 + i / g) 0
    | none => 0)

/-- The operand rows of a feed LOAD that become complete with its block k (R275). -/
def rowsWith (f : Fmt) (rowlen : Nat) (blks : List (List Byte)) (k : Nat) : List (List Byte) :=
  if rowlen = 0 then []
  else
    let lo := k * fmtElems f / rowlen
    let hi := (k + 1) * fmtElems f / rowlen
    (List.range (hi - lo)).map fun d =>
      let r := lo + d
      let es := (List.range rowlen).map fun j => runElem f blks (r * rowlen + j)
      operandRow f (es.map (·.1)) (match fmtGroup f with
        | some g => (List.range (rowlen / g)).map fun q => (es.getD (q * g) (0, 0)).2
        | none => [])

/-! ### LOAD, KLOAD and STORE at issue -/

/-- LOAD (R275): its blocks enter the streamer's queue. -/
def load (s : State) (t : Fin 64) (o : LoadOp) : State :=
  issueWith s t (.load o) fun n f s =>
    let r := popIssue s n f
    let d := descOr f.descs o.desc
    let ver := seqVer s n
    let s1 := ranCmd r.1 n r.2
    if o.count = 0 then finCmd s1 n r.2
    else (addJob s1 n (some r.2) (.load o) false (if o.vchk then some (ver % 2 ^ 48) else none) o.settAddr (descBlks s d ver o.block0 o.count 0)).1

/-- LOAD. -/
def execLoad (t : Fin 64) (o : LoadOp) (s : State) : Host.Outcome State Fault Refusal := .next (load s t o)

/-- KLOAD (R228, R274): its blocks enter the streamer's queue. -/
def kload (s : State) (t : Fin 64) (o : KloadOp) : State :=
  issueWith s t (.kload o) fun n f s =>
    let r := popIssue s n f
    let d := descOr f.descs o.desc
    (addJob (ranCmd r.1 n r.2) n (some r.2) (.kload o) false none 0 (descBlks s d (seqVer s n) o.block0 o.count 0)).1

/-- KLOAD. -/
def execKload (t : Fin 64) (o : KloadOp) (s : State) : Host.Outcome State Fault Refusal := .next (kload s t o)

/-- STORE (R276): its blocks enter the streamer's queue; they are taken from sett memory when their writes issue. -/
def store (s : State) (t : Fin 64) (o : StoreOp) : State :=
  issueWith s t (.store o) fun n f s =>
    let r := popIssue s n f
    let d := descOr f.descs o.desc
    let blks := (List.range o.count).map fun i => newBlk i (blkAddr d (o.block0 + i)) d.sett d.tid (o.block0 + i) d.fmt d.layout
    let s1 := ranCmd r.1 n r.2
    if o.count = 0 then finCmd s1 n r.2
    else (addJob s1 n (some r.2) (.store o) true (some (seqVer s n)) o.settAddr blks).1

/-- STORE. -/
def execStore (t : Fin 64) (o : StoreOp) (s : State) : Host.Outcome State Fault Refusal := .next (store s t o)

/-- The images that block k of a packing STORE takes, as (sett offset of the first, how many). -/
def packRun (fmt images k : Nat) : Nat × Nat :=
  let per := imagesPerBlock fmt
  (k * per, min per (images - k * per))

/-- Sett bytes that block k of a STORE reads: address and length. -/
def storeSrc (o : StoreOp) (fmt k : Nat) : Nat × Nat :=
  if o.pack then let r := packRun fmt o.images k; (o.settAddr + 576 * r.1, 576 * r.2) else (o.settAddr + 9216 * k, 9216)

/-- Block k of a STORE with its fresh trailer (R238, R276, R411). -/
def storeBlock (s : State) (n : Nat) (o : StoreOp) (ver : Nat) (b : BlkReq) : List Byte :=
  let t := tileAt s n
  let tr : Trailer := { crc := 0, version := ver % 2 ^ 48, tag := fld s 0 R.XCH_TAG_TAG, tid := b.tid, block := b.blk, format := b.fmt + 16 * b.layout,
                        flags := flagPacked, summary := 0 }
  if o.pack then
    let r := packRun b.fmt o.images b.k
    let p := packImages b.fmt ((List.range r.2).map fun i => settRead t (o.settAddr + 576 * (r.1 + i)) 576)
    mkBlock p.1 p.2 tr
  else
    let raw := settRead t (o.settAddr + 9216 * b.k) 9216
    let old := trailerOf raw
    restamp raw { tr with flags := old.flags, summary := old.summary }

/-! ### Issue of requests -/

/-- Bank sets a request touches, as (stack, bank set) (R306). -/
def reqBanks (b : BlkReq) : List (Nat × Nat) := (regionParts b.addr b.len).map fun p => (stackOf p.1, bankSetOf p.1)

/-- Occupied slots of a tile with a request in a bank set (R306). -/
def bankSlots (t : Tile) (k : Nat × Nat) : Nat := ((t.jobs.flatMap (·.blks)).filter fun b => holdsSlot b && (reqBanks b).contains k).length

/-- Is a request held by the bank cap (R306). -/
def capHeld (t : Tile) (b : BlkReq) : Bool := (reqBanks b).any fun k => decide (12 ≤ bankSlots t k)

/-- Does a read wait for an earlier write to one of its regions (R302): in the jobs before this one. -/
def writeBefore (t : Tile) (id : Nat) (b : BlkReq) : Bool :=
  let rs := (regionParts b.addr b.len).map fun p => p.1 / 65536
  (t.jobs.takeWhile fun j => decide (j.id ≠ id)).any fun j => j.write && j.blks.any fun w =>
    (match w.phase with | .done => false | _ => true) && !w.sett && (regionParts w.addr w.len).any fun p => rs.contains (p.1 / 65536)

/-- May a job issue requests ahead of the head as prefetches (R308): a LOAD, PWRITE or KLOAD at most PF_DEPTH commands behind the head. -/
def mayPrefetch (s : State) (n : Nat) (j : StrJob) : Bool :=
  let tb := tileBase n
  let t := tileAt s n
  let cmds := t.jobs.filter fun i => i.no.isSome
  let pos := (cmds.takeWhile fun i => decide (i.id ≠ j.id)).length
  let used := ((t.jobs.flatMap (·.blks)).filter fun b => holdsSlot b && b.pf).length
  fldOn s tb R.STR_CTRL_PF_EN && !j.write && decide (pos ≤ fld s tb R.STR_CTRL_PF_DEPTH) && decide (used < min 47 (fld s tb R.STR_CTRL_PF_SLOTS))

/-- What the streamer issues next. -/
inductive StrPick
  | none
  /-- a sett port it does not own is needed (R173) -/
  | own
  | go (job : StrJob) (b : BlkReq) (pf : Bool)
  deriving DecidableEq, Repr

/-- Sett ports a request needs when it issues: the source of a STORE, and a block that lies in sett memory. -/
def issueOwned (s : State) (n : Nat) (j : StrJob) (b : BlkReq) : Bool :=
  (match j.kind with
    | .store o => let r := storeSrc o b.fmt b.k; r.2 = 0 || settOwned s n 2 r.1 r.2
    | _ => true) && (!b.sett || settOwned s n 2 b.addr b.len)

/-- Choose the next request in command order (R301): one held by the bank cap does not hold those behind it. -/
def strPick (s : State) (n : Nat) : List (StrJob × BlkReq) → StrPick
  | [] => .none
  | (j, b) :: rest =>
    let t := tileAt s n
    let head := isHead t j.id
    match b.phase with
    | .wait =>
      if !head && (b.sett || !mayPrefetch s n j) then .none
      else if !issueOwned s n j b then .own
      else if b.sett then .go j b false
      else if capHeld t b then strPick s n rest
      else if !j.write && writeBefore t j.id b then .none
      else .go j b (!head)
    | _ => strPick s n rest

/-- Requests of a tile's own work come first, then those of its commands in order. -/
def strOrder (t : Tile) : List (StrJob × BlkReq) :=
  ((t.jobs.filter fun j => j.no.isNone) ++ (t.jobs.filter fun j => j.no.isSome)).flatMap fun j => j.blks.map fun b => (j, b)

/-- Largest number of slots on any one bank set (R306). -/
def capMax (t : Tile) (b : BlkReq) : Nat := ((reqBanks b).map fun k => bankSlots t k).foldl max 0

/-- STREAMER_ISSUE: the streamer issues one block request, to its MCs through the network, or to sett memory (R295, R298, R301, R302, R306,
R308). -/
def streamerIssue (s : State) (n : Nat) : State :=
  let tb := tileBase n
  let t := tileAt s n
  let slots := ((t.jobs.flatMap (·.blks)).filter holdsSlot).length
  match strPick s n (strOrder t) with
  | .none => s
  | .own => ownWaitStart s n 2
  | .go j b pf =>
    let s0 := ownWaitEnd s n 2
    let data := match j.kind with
      | .store o => storeBlock s0 n o (j.ver.getD 0) b
      | _ => b.data
    if b.sett then
      let s1 := if j.write then settWrite s0 n b.addr data else s0
      let rd := if j.write then data else settRead (tileAt s0 n) b.addr b.len
      let s2 := count s1 tb (if j.write then R.STR_WR_REQ else R.STR_RD_REQ) 1
      modBlk s2 n j.id b.k fun x => { x with phase := .served, data := rd, parts := 0, tIssue := s.now, tServe := s.now }
    else if 48 ≤ slots then s
    else
      let ps := regionParts b.addr b.len
      let s1 := countAll s0 tb [(if j.write then R.STR_WR_REQ else R.STR_RD_REQ, 1), (R.STR_SPLIT_CNT, ps.length - 1), (R.STR_PF_ISSUED, if pf then 1 else 0)]
      let s2 := modBlk s1 n j.id b.k fun x =>
        { x with phase := .flight, parts := ps.length, pf := pf, pois := false, epochs := [], tIssue := s.now, data := if j.write then data else List.replicate b.len 0 }
      let s3 := ps.foldl (fun s p =>
        let m := stackOf p.1
        let x := mcAt s m
        setMc s m { x with net := x.net ++ [{ stamp := 0, at' := s.now, src := n, write := j.write, addr := p.1, len := p.2,
                                              data := if j.write then (data.drop (p.1 - b.addr)).take p.2 else [], dests := [(n, j.id, b.k)] }] }) s2
      let s4 := showSlots s3 n
      let c := capMax (tileAt s4 n) b
      if fld s4 tb R.STR_STATE_CAP_MAX < c then setFld s4 tb R.STR_STATE_CAP_MAX c else s4

/-- STREAMER_ISSUE. -/
def execStreamerIssue (t : Fin 64) (s : State) : Host.Outcome State Fault Refusal := .next (streamerIssue s (phys s t))

/-! ### Prefetch -/

/-- Does a prefetched block fail its probe (R308): an epoch moved, or it is too old. -/
def pfStale (s : State) (n : Nat) (b : BlkReq) : Bool :=
  let age := clampN 1 80 (fld s (tileBase n) R.STR_PF_AGE_MAX_AGE) * tcUs
  b.epochs.any (fun e => decide (epochOf s (e.1 * 65536) ≠ e.2)) ||
    ((match b.phase with | .served => true | .held => true | _ => false) && decide (b.tServe + age < s.now))

/-- Judge one prefetched block of the command that became the head. -/
def probeBlk (s : State) (n job : Nat) (b : BlkReq) : State :=
  let tb := tileBase n
  let s1 := (b.epochs.map (·.1)).foldl (fun s r => count s (mcBase (stackOf (r * 65536))) R.MC_PROBE_CNT 1) s
  if pfStale s n b then
    modBlk (count s1 tb R.STR_PF_STALE 1) n job b.k fun x => { x with phase := .wait, pf := false, epochs := [], parts := 0 }
  else
    let late := match b.phase with | .held => 0 | _ => 1
    modBlk (countAll s1 tb [(R.STR_PF_USED, 1), (R.STR_PF_LATE, late)]) n job b.k fun x =>
      { x with pf := false, phase := match x.phase with | .held => .served | p => p }

/-- PREFETCH_PROBE: the head command's prefetched blocks are probed, and kept or fetched again (R308, R309). -/
def prefetchProbe (s : State) (n : Nat) : State :=
  match (tileAt s n).jobs.find? fun j => j.no.isSome with
  | some j => showSlots ((j.blks.filter (·.pf)).foldl (fun s b => probeBlk s n j.id b) s) n
  | none => s

/-- PREFETCH_PROBE. -/
def execPrefetchProbe (t : Fin 64) (s : State) : Host.Outcome State Fault Refusal := .next (prefetchProbe s (phys s t))

/-! ### Returned blocks -/

/-- End a job whose blocks are all done (R301, R228); a KLOAD is counted, and a plane write's staging goes on with the array. -/
def endJob (s : State) (n : Nat) (j : StrJob) : State :=
  if j.blks.all fun b => match b.phase with | .done => true | _ => false then
    let s1 := dropJob s n j.id
    match j.kind, j.no with
    | .load _, some no => finCmd s1 n no
    | .store _, some no => finCmd s1 n no
    | .kload _, some no => finCmd (count s1 (tileBase n) R.VU_LOAD_CNT 1) n no
    | _, _ => s1
  else s

/-- A block is delivered: its slot is free. -/
def blkDone (s : State) (n job k : Nat) : State :=
  let s1 := showSlots (modBlk s n job k fun x => { x with phase := .done }) n
  match jobOf (tileAt s1 n) job with
  | some j => endJob s1 n j
  | none => s1

/-- Bytes in the feed queue (R300). -/
def feedBytes (t : Tile) : Nat := (t.feed.map (·.bytes.length)).sum

/-- The items block k of a feed LOAD delivers, once all earlier blocks are delivered (R238, R275, R301). -/
def feedItems (o : LoadOp) (j : StrJob) (b : BlkReq) : List FeedItem :=
  match fmtOfCode b.fmt with
  | none => []
  | some f =>
    if b.layout = 2 then (List.range (imagesPerBlock b.fmt)).map fun i => { image := true, bytes := imageOf b.fmt b.data i }
    else (rowsWith f o.rowlen (j.blks.map (·.data)) b.k).map fun r => { image := false, bytes := r }

/-- Deliver a checked block to its destination (R228, R238, R275, R299–R301); where it cannot be delivered now, nothing changes. -/
def deliver (s : State) (n : Nat) (j : StrJob) (b : BlkReq) : State :=
  let t := tileAt s n
  let tb := tileBase n
  match j.kind with
  | .load o =>
    if o.feed then
      let items := feedItems o j b
      let earlier := j.blks.all fun x => decide (b.k ≤ x.k) || (match x.phase with | .done => true | _ => false)
      if !earlier || decide (65536 < feedBytes t + (items.map (·.bytes.length)).sum) then s
      else
        let rs := (items.map fun i => if i.image then (imageCodes i.bytes).2 else 0).sum
        feedGo (blkDone (countAll (modTile s n fun x => { x with feed := x.feed ++ items }) tb [(R.STR_CNV_RSVD, rs)]) n j.id b.k) n
    else if settOwned s n 2 (o.settAddr + 9216 * b.k) 9216 then
      blkDone (settWrite (ownWaitEnd s n 2) n (o.settAddr + 9216 * b.k) b.data) n j.id b.k
    else ownWaitStart s n 2
  | .kload o =>
    let no := j.no.getD 0
    if t.issued.any fun i => decide (i.no < no) && !i.fin && (match i.cmd with | .vdisp _ => true | _ => false) then s
    else
      let words := (List.range 1024).map fun i => BitVec.ofNat 64 (fieldLe b.data (8 * i) 8)
      blkDone (modTile s n fun x => { x with vu := { x.vu with imem := ssetList (fun _ => 0) x.vu.imem (1024 * (o.base + b.k)) words } }) n j.id b.k
  | .pwrite o =>
    match (arrAt t o.array).job with
    | some p => if p.jobId = j.id then blkDone (modArr s n o.array fun x => { x with stage := x.stage ++ [(b.k, b.data)] }) n j.id b.k else s
    | none => s
  | .refresh a _ =>
    match (arrAt t a).job with
    | some p => if p.jobId = j.id then blkDone (modArr s n a fun x => { x with stage := x.stage ++ [(b.k, b.data)] }) n j.id b.k else s
    | none => s
  | .hold _ pb =>
    let off := fld s tb R.CAL_HOLD_BANK * 262144 + (if pb then 131072 else 0) + 8192 * b.k
    blkDone (modTile s n fun x => settPutAll 0 x off (b.data.take 8192)) n j.id b.k
  | _ => s

/-- A command or plane that a block failed for good (R410, R275, R228, R60, R395): `st` is the status of a failed command. -/
def failJob (s : State) (n : Nat) (j : StrJob) (st : Nat) : State :=
  match j.kind with
  | .pwrite o => planeInvalid s n o.array false
  | .refresh a _ => planeInvalid s n a false
  | .load _ => failExec (dropJob s n j.id) n (j.no.getD 0) st
  | .kload _ => failExec (dropJob s n j.id) n (j.no.getD 0) st
  | _ => dropJob s n j.id

/-- Why a returned block fails its check (R409): a refresh checks no block index, and its identifiers at the end of staging (R97). -/
def returnCheck (j : StrJob) (b : BlkReq) (pois : Bool) : Nat :=
  let t := trailerOf b.data
  let loose := match j.kind with | .refresh _ _ => true | .hold _ _ => true | _ => false
  blockCheck { tid := if loose then t.tid else b.tid, blk := if loose then t.block else b.blk, fmt := b.fmt, layout := b.layout } pois b.data

/-- Is the version of a returned block wrong (R60, R268, R395). -/
def versionWrong (j : StrJob) (b : BlkReq) : Bool :=
  match j.ver with
  | some v => decide ((trailerOf b.data).version ≠ v)
  | none => false

/-- A read block arrives (R298, R308, R395, R410): a prefetched one waits for its probe; a failing one is read again, at most 3 attempts; one of
the wrong version is read again after TORN_WAIT; else it is delivered. `bad`: attempts of the transfer that failed parity. -/
def blockReturn (s : State) (n job k bad : Nat) : State :=
  let tb := tileBase n
  match (jobOf (tileAt s n) job) with
  | none => s
  | some j =>
    match j.blks.find? fun b => decide (b.k = k) with
    | none => s
    | some b =>
      if j.write || !(match b.phase with | .served => true | _ => false) then s
      else if b.pf then modBlk s n job k fun x => { x with phase := .held }
      else if !isHead (tileAt s n) job then s
      else
        let lat := (s.now - b.tIssue) / 2
        let s0 := if b.checked then s else parity s bad 0 b.addr
        let pois := b.pois || decide (3 ≤ bad)
        let s1 := if !b.checked && !b.sett && decide (fld s0 tb R.STR_LAT_MAX_MC_CLKS < min lat 0xFFFF) then setFld s0 tb R.STR_LAT_MAX_MC_CLKS (min lat 0xFFFF) else s0
        let why := returnCheck j b pois
        if b.checked then deliver s1 n j b
        else if why ≠ 0 then
          let s2 := raiseIf pois s1 tb R.STR_STATUS_POISON
          if b.att < 2 then
            modBlk (count s2 0 R.OWL_BLK_RETRY 1) n job k fun x => { x with phase := .wait, att := x.att + 1 }
          else failJob (blockFail s2 b why) n j stBlockCheck
        else if versionWrong j b then
          if b.torn < fld s1 0 R.XCH_PARAM3_TORN_RETRIES then modBlk s1 n job k fun x => { x with phase := .torn, tTorn := s.now }
          else failJob (raiseBit (count s1 0 R.XCH_TORN_FAIL 1) 0 R.XCH_STATUS_TORN_FAIL) n j stTorn
        else
          let b1 := { b with checked := true }
          deliver (modBlk s1 n job k fun x => { x with checked := true }) n { j with blks := j.blks.map fun x => if x.k = k then b1 else x } b1

/-- BLOCK_RETURN; for a checked block that could not be delivered it tries the delivery again. -/
def execBlockReturn (t : Fin 64) (job k : Nat) (bad : Fin 4) (s : State) : Host.Outcome State Fault Refusal :=
  .next (blockReturn s (phys s t) job k bad.val)

/-- TORN_REREAD: TORN_WAIT µs after a block of the wrong version it is read again (R395). -/
def tornReread (s : State) (n job k : Nat) : State :=
  let wait := clampN 1 1000 (fld s 0 R.XCH_PARAM3_TORN_WAIT) * tcUs
  match (jobOf (tileAt s n) job).bind fun j => j.blks.find? fun b => decide (b.k = k) with
  | some b =>
    (match b.phase with
    | .torn =>
      if s.now < b.tTorn + wait then s
      else modBlk (count s 0 R.XCH_TORN_RETRY 1) n job k fun x => { x with phase := .wait, torn := x.torn + 1 }
    | _ => s)
  | none => s

/-- TORN_REREAD. -/
def execTornReread (t : Fin 64) (job k : Nat) (s : State) : Host.Outcome State Fault Refusal := .next (tornReread s (phys s t) job k)

/-- WRITE_ACK: every MC a block write reaches has acknowledged it; its slot is free (R298). Smiteale marks a ledger record of a tainted
version (R420). -/
def writeAck (s : State) (n job k : Nat) : State :=
  match jobOf (tileAt s n) job with
  | some j =>
    match j.blks.find? fun b => decide (b.k = k) && (match b.phase with | .served => true | _ => false) with
    | none => s
    | some b =>
      if !j.write then s
      else
        let s1 := if s.ledger ≠ 0 ∧ b.tid = s.ledger ∧ !b.sett ∧ fwReady s then taintBlock s b.tid b.blk b.addr (tainted s) else s
        blkDone s1 n job k
  | none => s

/-- WRITE_ACK. -/
def execWriteAck (t : Fin 64) (job k : Nat) (s : State) : Host.Outcome State Fault Refusal := .next (writeAck s (phys s t) job k)

end Sys2Proof.Machine
end

