-- ==== Sys2Proof/Machine/Dme.lean ====
section
/-! DEFINITION. Flushes of the accumulator (R107, R108, R272), operations of the digital matrix engine (R178, R273, R412) and the clearing of
the wide gradient buffer (R185, R186, R277). -/

namespace Sys2Proof.Machine

/-- Issue a command that waits in its unit's queue. -/
def enqueue (s : State) (t : Fin 64) (c : SeqCmd) : State := issueWith s t c fun n f s => (popIssue s n f).1

/-- FLUSH enters the accumulator's queue (R272). -/
def execFlush (t : Fin 64) (o : FlushOp) (s : State) : Host.Outcome State Fault Refusal := .next (enqueue s t (.flush o))

/-- Rows a DMEOP takes from the feed queue, A's before B's. -/
def dmeFeed (o : DmeOp) : Nat :=
  (if o.aFeed then (if o.aT then o.k else o.m) else 0) + (if o.bFeed then (if o.bT then o.k else o.n) else 0)

/-- Is DMEOP `no` the first consumer of the feed queue, and has it all its rows; true where it takes none. -/
def rowsHere (t : Tile) (no : Nat) (o : DmeOp) : Bool :=
  decide (dmeFeed o = 0) || (match t.feedQ with | u :: _ => decide (u.no = no) && decide (t.taken.length = dmeFeed o) | [] => false)

/-- DMEOP enters the DME's queue (R273), and the feed queue's consumers where an operand comes from it (R300). -/
def execDmeop (t : Fin 64) (o : DmeOp) (s : State) : Host.Outcome State Fault Refusal :=
  .next (issueWith s t (.dmeop o) fun n f s =>
    let r := popIssue s n f
    if dmeFeed o = 0 then r.1 else feedJoin r.1 n { no := r.2, need := dmeFeed o, arrs := [] })

/-- WGCLR enters the wide buffer's queue (R277). -/
def execWgclr (t : Fin 64) (o : WgclrOp) (s : State) : Host.Outcome State Fault Refusal := .next (enqueue s t (.wgclr o))

/-- Does an earlier command of the tile still feed a segment (R117, R272): a firing that has not delivered its codes and fox work. -/
def segBusy (t : Tile) (seg no : Nat) : Bool :=
  t.arrs.any fun p =>
    (p.2.ops.any fun o => match o with | .fire f => decide (f.seg = seg) && decide (f.no < no) | .swap _ _ _ => false) ||
    (match p.2.run with | some r => decide (r.f.seg = seg) && decide (r.f.no < no) | none => false) ||
    p.2.fox.any fun j => decide (j.seg = seg) && decide (j.no < no)

/-- Does a command add to the wide gradient buffer. -/
def addsWgb : SeqCmd → Bool
  | .flush o => o.toWgb
  | .dmeop o => o.toWgb
  | _ => false

/-- Does a command clear or flush slots of the wide gradient buffer. -/
def clearsWgb : SeqCmd → Bool
  | .wgclr _ => true
  | .wgflush _ => true
  | _ => false

/-- Has every add to the buffer issued before command `no` been applied (R186): those of flushes and DME operations, and of dispatches. -/
def addsDone (t : Tile) (no : Nat) : Bool :=
  !(t.wgbPend.any fun p => decide (p.1 < no)) &&
  !(t.issued.any fun i => decide (i.no < no) && !i.ran && addsWgb i.cmd) &&
  !(t.issued.any fun i => decide (i.no < no) && !i.fin && (match i.cmd with | .vdisp _ => true | _ => false))

/-- Has every clear or flush of the buffer issued before command `no` taken its slots (R186). -/
def clearsDone (t : Tile) (no : Nat) : Bool := !(t.issued.any fun i => decide (i.no < no) && !i.ran && clearsWgb i.cmd)

/-- The tensor scale of a descriptor. -/
def scaleOf (d : Desc) : FVal := fp32Dec (BitVec.ofNat 32 d.scale)

/-- The wide accumulator of a lane as a value: NaN where it is marked, +0 for an exact zero (R107). -/
def laneVal (l : Lane) : FVal := if l.nan then .nan else ofSum l.wide

/-- Y of one lane (R107): S_in × S_w × A rounded once to FP32, and 1 where it saturated. -/
def laneY (sin sw : FVal) (l : Lane) : Word × Nat := fp32Enc .rne (match laneVal l with | .zero _ => .zero false | v => fMul (fMul sin sw) v)

/-- Run a FLUSH (R106–R108, R272): promote, scale, empty the lanes, and write or add the results. -/
def runFlush (s : State) (n : Nat) (i : Issued) (o : FlushOp) : State :=
  let tb := tileBase n
  let t := tileAt s n
  let od := descOr i.descs o.outDesc
  let f := (fmtOfCode od.fmt).getD .fp32
  let addr := o.addr
  if segBusy t o.seg i.no || (o.toWgb && !clearsDone t i.no) then s
  else if !o.toWgb && !settOwned s n 6 addr (512 * (fmtBits f / 8)) then ownWaitStart s n 6
  else
    let s0 := ownWaitEnd s n 6
    let live := (List.range 512).filter fun j => decide ((laneAt t (512 * o.seg + j)).cnt ≠ 0)
    let ls := (List.range 512).map fun j => let l := laneAt t (512 * o.seg + j); if l.cnt ≠ 0 then promote l else l
    let ys := ls.map fun l => laneY (scaleOf (descOr i.descs o.inDesc)) (scaleOf (descOr i.descs o.wDesc)) l
    let sat := (ys.map (·.2)).sum
    let s1 := countAll s0 tb [(R.ACC_PROMO_CNT, live.length), (R.ACC_FINAL_SAT, sat)]
    let s2 := raiseIf (decide (sat ≠ 0)) s1 tb R.ACC_STATUS_FINAL_SAT
    let s3 := modTile s2 n fun x => (List.range 512).foldl (fun x j => setLane x (512 * o.seg + j) {}) x
    if o.toWgb then ranCmd (modTile s3 n fun x => { x with wgbPend := x.wgbPend ++ [(i.no, addr, ys.map (·.1))] }) n i.no
    else
      let c := convertRun f (if od.grad then od.ubias else 0) (rndOf s3 n 3 od.grad) (ys.map fun y => fp32Dec y.1)
      let s4 := countCnv (takeDraws s3 n 3 (drawsFor od.grad 512)) tb R.STR_CNV_SAT c.2.2
      finCmd (settWrite s4 n addr (packElems f c.1)) n i.no

/-! ### The DME -/

/-- One operand of a DMEOP as read: its value at (row, position) of its stored rows, with the counts of one read of each element. -/
structure DmeOperand where
  rows : List (List Byte)
  img : Bool
  fmt : Fmt
  len : Nat
  deriving DecidableEq, Repr

/-- Element p of stored row r (R216, R273). -/
def operandAt (x : DmeOperand) (r p : Nat) : FVal × Cnv :=
  let b := x.rows.getD r []
  let c := payloadElem x.fmt b p
  match fmtGroup x.fmt with
  | none => decodeElem x.fmt c
  | some g =>
    let so := if x.img then 512 else (x.len * fmtBits x.fmt + 7) / 8
    elemVal x.fmt (b.getD (so + p / g) 0).toNat c

/-- Counts of reading every element of an operand once (R54). -/
def operandCnv (x : DmeOperand) : Cnv :=
  cnvSum ((List.range x.rows.length).flatMap fun r => (List.range x.len).map fun p => (operandAt x r p).2)

/-- A sum of products in FP32 whose order is open (R56): exact where every partial sum in any order is exact, else with a free deviation. -/
def dmeAcc (free : Nat) (terms : List FVal) : FVal :=
  if terms.any fIsNan then .nan
  else
    let q := terms.map fvalRat
    let d := q.foldl (fun a x => max a x.den) 1
    let sum := q.foldl (· + ·) 0
    let mag := q.foldl (fun a x => a + rabs x) 0
    if mag * (d : Rat) ≤ 2 ^ 24 then ofSum sum else (fpRound fpFp32 .rne (ofSum (sum + Config.sumDev free))).1

/-- Read stored rows from sett memory at a pitch, poisoned words as 0xFFFF_FFFF (R407). -/
def readRows (t : Tile) (addr rows pitch len : Nat) (bad : List Nat) : List (List Byte) :=
  (List.range rows).map fun r => (List.range len).map fun k =>
    let a := addr + r * pitch + k
    if bad.contains (a % 2 ^ 24 / 4) then 0xFF else settByte t (a % 2 ^ 24)

/-- Residue mismatches of a DME operation (R412): (column group, attempts that mismatched); three are a failure, an unrecovered detection. -/
def dmeResidues (s : State) (n idx : Nat) : List (Nat × Nat) → State
  | [] => s
  | (g, k) :: t =>
    let s1 := if k = 0 then s else count s 0 R.OWL_DME_RES_RETRY (min k 2)
    let s2 := if k < 3 then s1 else detect (raiseD (count s1 0 R.OWL_DME_RES_FAIL 1) 0 R.OWL_STATUS_RES_FAIL [g, idx, 0, 0, 0, 0, 0, 0]) n
    dmeResidues s2 n idx t

/-- Words a unit of a tile reads poisoned (R406, R407): each failed three times; one unrecovered detection. -/
def poisonRead (s : State) (n path : Nat) (bad : List Nat) : State :=
  if bad = [] then s else detect (bad.foldl (fun s a => parity s 3 path (4 * a)) s) n

/-- Run a DMEOP (R178, R273): `res` are its residue mismatches, `bad` the sett words it reads poisoned. Column n of the product lies in column
group (n mod 256) / 8. -/
def runDme (s : State) (n : Nat) (i : Issued) (o : DmeOp) (res : List (Nat × Nat)) (bad : List Nat) : State :=
  let tb := tileBase n
  let t := tileAt s n
  let ad := descOr i.descs o.aDesc
  let bd := descOr i.descs o.bDesc
  let dd := descOr i.descs o.dDesc
  let fa := (fmtOfCode ad.fmt).getD .fp32
  let fb := (fmtOfCode bd.fmt).getD .fp32
  let fd := (fmtOfCode dd.fmt).getD .fp32
  let ra := if o.aT then o.k else o.m
  let la := if o.aT then o.m else o.k
  let rb := if o.bT then o.k else o.n
  let lb := if o.bT then o.n else o.k
  let pa := if o.aImg then 576 else rowBytes fa la
  let pb := rowBytes fb lb
  let outLen := rowBytes fd (o.m * o.n)
  if (o.toWgb && !clearsDone t i.no) || !rowsHere t i.no o then s
  else if !((o.aFeed || settOwned s n 3 o.aAddr (ra * pa)) && (o.bFeed || settOwned s n 3 o.bAddr (rb * pb)) && (o.toWgb || settOwned s n 3 o.dAddr outLen)) then
    ownWaitStart s n 3
  else
    let fs := t.taken
    let a : DmeOperand := { rows := if o.aFeed then fs.take ra else readRows t o.aAddr ra pa pa bad, img := o.aImg, fmt := fa, len := la }
    let b : DmeOperand := { rows := if o.bFeed then (fs.drop (if o.aFeed then ra else 0)).take rb else readRows t o.bAddr rb pb pb bad, img := false, fmt := fb, len := lb }
    let s0 := poisonRead (dmeResidues (ownWaitEnd s n 3) n i.idx res) n 1 bad
    let failed := fun (c : Nat) => res.any fun r => decide (3 ≤ r.2) && decide (r.1 = c % 256 / 8)
    let y := fun (mi ni : Nat) =>
      let terms := (List.range o.k).map fun k =>
        fMul (operandAt a (if o.aT then k else mi) (if o.aT then mi else k)).1 (operandAt b (if o.bT then k else ni) (if o.bT then ni else k)).1
      if failed ni then (0xFFFFFFFF#32, 0) else fp32Enc .rne (fMul (fMul (scaleOf ad) (scaleOf bd)) (dmeAcc (s.freeCtr + mi * o.n + ni) terms))
    let sf := { s0 with freeCtr := s.freeCtr + o.m * o.n }
    let s1 := if dmeFeed o = 0 then sf else feedGo (modTile sf n fun x => { x with feedQ := x.feedQ.tail, taken := [] }) n
    let s2 := setFld (count s1 tb R.DME_OP_CNT 1) tb R.DME_STATE_MODE o.mode
    let rd := cnvAdd (operandCnv a) (operandCnv b)
    if o.toWgb then
      let ys := (List.range (o.m * o.n)).map fun e => y (e % o.m) (e / o.m)
      let s3 := countCnv s2 tb R.DME_CNV_SAT (cnvAdd rd { sat := (ys.map (·.2)).sum })
      ranCmd (modTile s3 n fun x => { x with wgbPend := x.wgbPend ++ [(i.no, o.dAddr, ys.map (·.1))] }) n i.no
    else
      let ys := (List.range (o.m * o.n)).map fun e => y (e / o.n) (e % o.n)
      let c := convertRun fd (if dd.grad then dd.ubias else 0) (rndOf s2 n 2 dd.grad) (ys.map fun v => fp32Dec v.1)
      let s3 := countCnv (takeDraws s2 n 2 (drawsFor dd.grad (o.m * o.n))) tb R.DME_CNV_SAT (cnvAdd (cnvAdd rd { sat := (ys.map (·.2)).sum }) c.2.2)
      finCmd (settWrite s3 n o.dAddr (packElems fd c.1 ++ c.2.1)) n i.no

/-- Run a WGCLR (R185, R186): the slots are set to +0 once every earlier add has been applied. -/
def runWgclr (s : State) (n : Nat) (i : Issued) (o : WgclrOp) : State :=
  if !addsDone (tileAt s n) i.no then s
  else
    finCmd (modTile s n fun t => { t with wgb := t.wgb.filter fun p => decide (p.1 < o.slot) || decide (o.slot + o.count ≤ p.1) }) n i.no

end Sys2Proof.Machine
end

