-- ==== Sys2Proof/Machine/Send.lean ====
section
/-! DEFINITION. What a tile sends to the exchange logic (R277–R279, R374–R377, R420): WGFLUSH, XCLOSE, MISSUE and GRPUPD. -/

namespace Sys2Proof.Machine

/-- Does the exchange logic send and accept packets. -/
def xchOn (s : State) : Bool := fldOn s 0 R.XCH_CTRL_ENABLE

/-- Sync interval N (R376). -/
def syncN (s : State) : Nat := fld s 0 R.XCH_PARAM0_SYNC_N_M1 + 1

/-- Class words of an ACCUM packet (R397). -/
def accumWords (bucket off ver samples group : Nat) (u : Int) (bf16 : Bool) (num : Nat) : List Byte :=
  leBytes 4 bucket ++ leBytes 4 off ++ leBytes 8 ver ++ leBytes 4 samples ++ leBytes 2 (group % 4096) ++ leBytes 1 (tc 8 u) ++
  leBytes 1 (if bf16 then 1 else 0) ++ leBytes 4 num

/-- Class words of a CLOSE packet. -/
def closeWords (bucket ver samples cnt : Nat) : List Byte :=
  leBytes 4 bucket ++ leBytes 4 0 ++ leBytes 8 ver ++ leBytes 4 samples ++ leBytes 4 0 ++ leBytes 4 cnt

/-- ACCUM packets sent for a bucket and version. -/
def sentOf (s : State) (bucket ver : Nat) : Nat := match s.accSent.find? fun p => decide (p.1 = bucket) && decide (p.2.1 = ver) with
  | some p => p.2.2
  | none => 0

/-- Record how many ACCUM packets were sent. -/
def putSent (s : State) (bucket ver n : Nat) : State :=
  { s with accSent := s.accSent.filter (fun p => !(decide (p.1 = bucket) && decide (p.2.1 = ver))) ++ (if n = 0 then [] else [(bucket, ver, n)]) }

/-- Send one ACCUM packet to a bucket's owner; one of a tainted version is discarded and counted (R374, R420). -/
def sendAccum (s : State) (g : GBkt) (off ver samples group : Nat) (u : Int) (bf16 : Bool) (codes : List Nat) : State :=
  if tainted s ver then count s 0 R.OWL_TAINT_DROP 1
  else
    let n := sentOf s g.bucket ver
    let b := myPkt s g.owner 1 0 ver (accumWords g.bucket off ver samples group u bf16 n) (codes.flatMap (leBytes (if bf16 then 2 else 4)))
    sendUnicast (putSent s g.bucket ver (n + 1)) b

/-- Elements of a run in packets of at most 8,192 bytes: (first element, codes). -/
def runsOf (per : Nat) (codes : List Nat) : List (Nat × List Nat) :=
  (List.range ((codes.length + per - 1) / per)).map fun i => (per * i, (codes.drop (per * i)).take per)

/-- Parts of a run of elements by the MC that holds them: (MC, first offset, codes); offsets beyond the bucket go to its first MC (R315, R324). -/
def mcParts (nslice mcFirst off : Nat) (codes : List Nat) : List (Nat × Nat × List Nat) :=
  let s0 := off / 262144
  let s1 := (off + codes.length - 1) / 262144
  (List.range (s1 + 1 - s0)).map fun i =>
    let σ := s0 + i
    let lo := max off (262144 * σ)
    let hi := min (off + codes.length) (262144 * (σ + 1))
    (if σ < nslice then sliceMc mcFirst σ else mcFirst, lo, (codes.drop (lo - off)).take (hi - lo))

/-- Hand a run of elements to the accumulate engines. -/
def toEngines (s : State) (g : GBkt) (off ver step : Nat) (u : Int) (bf16 area : Bool) (codes : List Nat) : State :=
  if codes.isEmpty then s
  else (mcParts g.nslice g.mcFirst off codes).foldl (fun s p =>
    modMc s p.1 fun x => { x with accq := x.accq ++ [{ bucket := g.bucket, off := p.2.1, bf16 := bf16, u := u, ver := ver, data := p.2.2, area := area,
                                                       step := step, since := s.now }] }) s

/-- A command that names a bucket with no record completes without effect (R374). -/
def noBucket (s : State) : State := raiseBit (count s 0 R.XCH_NO_BUCKET 1) 0 R.XCH_STATUS_NO_BUCKET

/-- The codes a WGFLUSH sends (R185, R46): BF16 by SR with draws of consumer 4, or FP32. -/
def wgCodes (s : State) (n : Nat) (o : WgflushOp) : List Nat × State :=
  let ws := sgetList (fun _ => (0 : Word)) (tileAt s n).wgb o.slot o.count
  if o.bf16 then
    (ws.zipIdx.map fun p => (encodeElem .bf16 (rndOf s n 4 true p.2) (fp32Dec p.1)).1, takeDraws s n 4 (drawsFor true o.count))
  else (ws.map (·.toNat), s)

/-- Run a WGFLUSH (R186, R277, R374, R376) once every earlier add has been applied. -/
def runWgflush (s : State) (n : Nat) (i : Issued) (o : WgflushOp) : State :=
  if !addsDone (tileAt s n) i.no then s
  else
    let c := wgCodes s n o
    let s1 := if o.clr then modTile c.2 n fun t => { t with wgb := t.wgb.filter fun p => decide (p.1 < o.slot) || decide (o.slot + o.count ≤ p.1) } else c.2
    let d := descOr i.descs o.desc
    let u := d.ubias
    let s2 := match geomBkt s1 o.bucket with
      | none => noBucket s1
      | some g =>
        if !xchOn s1 then s1
        else
          (runsOf (if o.bf16 then 4096 else 2048) c.1).foldl (fun s r =>
            if 1 < syncN s ∧ g.owner ≠ myId s then
              (if tainted s i.ver then count s 0 R.OWL_TAINT_DROP 1 else toEngines s g (o.offset + r.1) i.ver i.ver u o.bf16 true r.2)
            else sendAccum s g (o.offset + r.1) i.ver o.samples d.pgroup u o.bf16 r.2) s1
    finCmd s2 n i.no

/-- Convert the words of an area block to the send format, by SR from the engine's draws (R376). -/
def areaCodes (s : State) (m : Nat) (bf16 : Bool) (ws : List Word) : List Nat × State :=
  if bf16 then
    let r := ws.zipIdx.map fun p => encodeElem .bf16 (accRnd s m p.2) (fp32Dec p.1)
    (r.map (·.1), mcDraws (countCnv s (mcBase m) R.MC_CNV_SAT (cnvSum (r.map (·.2)))) m 2 ((ws.length + 511) / 512))
  else (ws.map (·.toNat), s)

/-- Send the touched update blocks of a bucket's local accumulation area (R376): their touched bits and the area's bias are cleared. -/
def sendArea (s : State) (g : GBkt) (ver samples : Nat) : State :=
  let bf := fldOn s 0 R.XCH_PARAM0_SEND_BF16
  let s1 := (List.range (16 * g.nslice)).foldl (fun s bit =>
    let m := sliceMc g.mcFirst (bit / 16)
    if !(mcAt s m).areaT.contains (g.bucket, bit) then s
    else
      let u := (((mcAt s m).areaU.find? fun p => decide (p.1 = g.bucket)).map (·.2)).getD 0
      (List.range 8).foldl (fun s b =>
        let rd := readChecked s m (areaAddr g.bucket (bit / 16) (bit % 16) + 9216 * b)
          { tid := (g.mtid + 3) % 2 ^ 32, blk := (8 * (g.pblk0 + bit) + b) % 2 ^ 32, fmt := 0, layout := 0 } 0
        if !rd.2.1 then rd.2.2
        else
          let c := areaCodes rd.2.2 m bf (blockWords rd.1)
          sendAccum c.2 g (16384 * bit + 2048 * b) ver samples g.group u bf c.1) (modMc s m fun x => { x with areaT := x.areaT.erase (g.bucket, bit) })) s
  (holders g).foldl (fun s m => modMc s m fun x => { x with areaU := x.areaU.filter fun p => decide (p.1 ≠ g.bucket) }) s1

/-- Packets for a bucket's area that the engines have not added. -/
def areaBusy (s : State) (g : GBkt) : Bool := (holders g).any fun m => ((mcAt s m).accq ++ (mcAt s m).holdq).any fun p => p.area && decide (p.bucket = g.bucket)

/-- Run an XCLOSE (R278, R375, R376, R420). -/
def runXclose (s : State) (n : Nat) (i : Issued) (o : XcloseOp) : State :=
  match geomBkt s o.bucket with
  | none => finCmd (noBucket s) n i.no
  | some g =>
    if !xchOn s then finCmd s n i.no
    else if 1 < syncN s ∧ g.owner ≠ myId s ∧ areaBusy s g then s
    else
      let s1 := if 1 < syncN s ∧ g.owner ≠ myId s then sendArea s g i.ver o.samples else s
      let s2 := if tainted s1 i.ver then s1
                else sendUnicast s1 (myPkt s1 g.owner 2 0 i.ver (closeWords o.bucket i.ver o.samples (sentOf s1 o.bucket i.ver)) [])
      finCmd (putSent s2 o.bucket i.ver 0) n i.no

/-- Does this module own a bucket. -/
def ownsBkt (s : State) (bucket : Nat) : Bool :=
  match geomBkt s bucket with
  | some g => decide (g.owner = myId s)
  | none => false

/-- Run a MISSUE (R279, R327): the owning Marten units accept it. -/
def runMissue (s : State) (n : Nat) (i : Issued) (bucket : Nat) : State :=
  let s1 := match geomBkt s bucket with
    | some g => (holders g).foldl (fun s m => armAt s m bucket) s
    | none => s
  finCmd s1 n i.no

/-- Write group registers at one MC; registers 14 and 15 keep only their defined bits (R326). -/
def grpWrite (s : State) (m group reg : Nat) (w : Word) : State :=
  let v : Word := if reg = 14 then BitVec.ofNat 32 (w.toNat % 128) else if reg = 15 then BitVec.ofNat 32 (w.toNat % 16) else w
  modMc s m fun x => { x with grp := sset (fun _ => (0 : Word)) x.grp (16 * group + reg) v }

/-- Run a GRPUPD (R279, R327): the same values at all 24 MCs. -/
def runGrpupd (s : State) (n : Nat) (i : Issued) (o : GrpupdOp) : State :=
  finCmd ((List.range 24).foldl (fun s m => o.vals.zipIdx.foldl (fun s v => grpWrite s m o.group (o.reg + v.2) v.1) s) s) n i.no

/-- WGFLUSH. -/
def execWgflush (t : Fin 64) (o : WgflushOp) (s : State) : Host.Outcome State Fault Refusal := .next (enqueue s t (.wgflush o))
/-- XCLOSE. -/
def execXclose (t : Fin 64) (o : XcloseOp) (s : State) : Host.Outcome State Fault Refusal := .next (enqueue s t (.xclose o))
/-- MISSUE fails at issue where this module does not own the bucket (R279). -/
def execMissue (t : Fin 64) (bucket : Nat) (s : State) : Host.Outcome State Fault Refusal :=
  .next (issueWith s t (.missue bucket) fun n f s => if ownsBkt s bucket then (popIssue s n f).1 else haltSeq s n stNotOwner f.idx false)
/-- GRPUPD. -/
def execGrpupd (t : Fin 64) (o : GrpupdOp) (s : State) : Host.Outcome State Fault Refusal := .next (enqueue s t (.grpupd o))

end Sys2Proof.Machine
end

