-- ==== Sys2Proof/Machine/Exchange.lean ====
section
/-! DEFINITION. The exchange logic: accepting contributions (R378–R382), publication (R385), receiving and committing (R387–R394), resends (R390),
notices (R389, R424), supersedes (R425) and the activation of a configuration set (R402, R484). -/

namespace Sys2Proof.Machine

/-! ### Contributions -/

/-- Fields of an ACCUM, CLOSE or block packet (R397). -/
def pktBucket (b : List Byte) : Nat := fieldLe b 16 4
/-- Base version or version. -/
def pktVer (b : List Byte) : Nat := fieldLe b 24 8

/-- Element codes of an ACCUM packet. -/
def pktCodes (b : List Byte) : List Nat :=
  let w := if bitOn (fieldLe b 39 1) 0 then 2 else 4
  (List.range ((hdrOf b).len / w)).map fun i => fieldLe b (48 + w * i) w

/-- MCs whose accumulate engine an ACCUM packet needs. -/
def pktMcs (g : GBkt) (b : List Byte) : List Nat :=
  let c := pktCodes b
  if c.isEmpty then [] else (mcParts g.nslice g.mcFirst (fieldLe b 20 4) c).map (·.1)

/-- What a contributor has sent for a version. -/
def contribOf (o : OBkt) (src ver : Nat) : Contrib :=
  (o.contribs.find? fun c => decide (c.src = src) && decide (c.ver = ver)).getD { src := src, ver := ver, acc := 0, close := none, counted := false }

/-- Store it. -/
def putContrib (o : OBkt) (c : Contrib) : OBkt :=
  { o with contribs := o.contribs.filter (fun x => !(decide (x.src = c.src) && decide (x.ver = c.ver))) ++ [c] }

/-- Accept a packet into the open step (R379, R380, R382, R384). -/
def acceptInto (s : State) (g : GBkt) (o : OBkt) (c : Contrib) (samples : Nat) (isClose : Bool) (b : List Byte) : State :=
  let cnt := fieldLe b 40 4
  let c1 := { c with acc := if isClose then c.acc else c.acc + 1, close := if isClose then some cnt else c.close, counted := true }
  let s1 := modO s o.bucket fun x =>
    let y := putContrib x c1
    { y with samp := if c.counted then y.samp else y.samp + samples, timing := true, t0 := if y.timing then y.t0 else xchTimer s }
  let s2 := if isClose then s1
            else toEngines s1 g (fieldLe b 20 4) (pktVer b) o.ver (sext 8 (fieldLe b 38 1)) (bitOn (fieldLe b 39 1) 0) false (pktCodes b)
  judgeStep s2 o.bucket

/-- Classify an ACCUM or CLOSE packet (R378, R423 step 3). -/
def contribute (s : State) (b : List Byte) (isClose : Bool) : State :=
  let bucket := pktBucket b
  let v := pktVer b
  let src := (hdrOf b).src
  match obkt s bucket, geomBkt s bucket with
  | some o, some g =>
    let c := contribOf o src v
    let dup := isClose && c.close.isSome
    if (match o.sup with | some (f, l) => decide (f ≤ v) && decide (v ≤ l) | none => false) then count s 0 R.XCH_STALE_DROP 1
    else if !g.contribs.contains src then count s 0 R.XCH_NOT_CONTRIB 1
    else if v = o.ver then
      (if dup then count s 0 R.XCH_DUP_CLOSE 1
       else acceptInto (count s 0 (if isClose then R.XCH_CLOSE_RX else R.XCH_ACC_RX) 1) g o c (fieldLe b 32 4) isClose b)
    else if v + 1 = o.ver then
      (if !fldOn s 0 R.XCH_PARAM0_LATE_CARRY then count s 0 R.XCH_LATE_DROP 1
       else if dup then count s 0 R.XCH_DUP_CLOSE 1
       else acceptInto (count s 0 R.XCH_LATE_CARRY 1) g o c (fieldLe b 32 4) isClose b)
    else if v < o.ver then count s 0 R.XCH_STALE_DROP 1
    else raiseBit (count s 0 R.XCH_FUTURE_DROP 1) 0 R.XCH_STATUS_FUTURE
  | _, _ => count s 0 R.XCH_NOT_OWNED 1

/-- Is the hold queue of an engine that a packet needs full (R323): then it is not accepted. -/
def holdFull (s : State) (b : List Byte) : Bool :=
  match geomBkt s (pktBucket b) with
  | some g => (pktMcs g b).any fun m => decide (16 ≤ (mcAt s m).holdq.length)
  | none => false

/-- Take the next packet of a kind from a port, if the exchange logic accepts packets, and pass it on once it holds R361. -/
def onPacket (s : State) (p kind : Nat) (wait : List Byte → Bool) (ver : List Byte → Nat) (go : State → List Byte → State) : State :=
  if !xchOn s then s
  else
    match takeLocal s p ((kindClass kind).getD 0) with
    | none => s
    | some (b, s1) =>
      if (hdrOf b).kind ≠ kind ∨ wait b then s
      else let c := destCheck s1 p b (ver b); if c.1 then go c.2 b else c.2

/-- ACCUM: the next ACCUM packet from a port, or from this module (48). -/
def execAccum (p : Fin 49) (s : State) : Host.Outcome State Fault Refusal :=
  .next (onPacket s p 1 (holdFull s) pktVer fun s b => contribute s b false)

/-- CLOSE. -/
def execClose (p : Fin 49) (s : State) : Host.Outcome State Fault Refusal := .next (onPacket s p 2 (fun _ => false) pktVer fun s b => contribute s b true)

/-! ### Publication (R385) -/

/-- Local address and MC of a block position of a bucket's publication area. -/
def pubBlock (s : State) (g : GBkt) (pos : Nat) : Option (List Byte) :=
  let m := sliceMc g.mcFirst (pos / 17)
  (findEntry s m g.bucket).map fun e => localPeek s m (pubAddr e (pos / 17) + 9216 * (pos % 17)) 9216

/-- Class words of a BCAST or RESEND_DATA packet. -/
def blockMsg (bucket ver d pos kind a : Nat) (gone : Bool) : List Byte :=
  leBytes 4 bucket ++ leBytes 4 0 ++ leBytes 8 ver ++ leBytes 4 d ++ leBytes 2 pos ++ leBytes 1 kind ++ leBytes 1 (if gone then 1 else 0) ++ leBytes 4 a

/-- PUBLISH: every MC has reported OK, and the bucket is broadcast on its tree. -/
def publish (s : State) (bucket : Nat) : State :=
  match obkt s bucket, geomBkt s bucket with
  | some o, some g =>
    if o.published || o.busy || o.failed || !allOk g o || !xchOn s then s
    else
      let s1 := (List.range (17 * g.nslice)).foldl (fun s pos =>
        match pubBlock s g pos with
        | none => s
        | some b => count (sendTree s g.tree (myPkt s 0 3 g.tree (o.ver - 1) (blockMsg bucket o.ver o.lastD pos o.lastKind o.lastA false) b)) 0 R.XCH_BC_TX 1) s
      becameOpen (modO s1 bucket fun x => { x with published := true }) bucket
  | _, _ => s

/-- PUBLISH. -/
def execPublish (bucket : Nat) (s : State) : Host.Outcome State Fault Refusal := .next (publish s bucket)

/-! ### Receiving blocks (R387, R391–R394) -/

/-- The full version whose low 48 bits are given, next to a reference (R391). -/
def recoverVer (r f : Nat) : Nat :=
  if r < 2 ^ 47 then f
  else if 2 ^ 64 - 1 < r + 2 ^ 47 then 2 ^ 64 - 2 ^ 48 + f
  else let c := r - 2 ^ 47; c + (f + 2 ^ 48 - c % 2 ^ 48) % 2 ^ 48

/-- What block position `pos` of a bucket carries. -/
def posExpect (g : GBkt) (pos : Nat) : Expect :=
  if pos % 17 < 16 then { tid := g.ptid, blk := (g.pblk0 + 16 * (pos / 17) + pos % 17) % 2 ^ 32, fmt := 5, layout := 1 }
  else { tid := g.ltid, blk := (g.lblk0 + pos / 17) % 2 ^ 32, fmt := 9, layout := 3 }

/-- Placement of a block of a version (R392, R393). -/
def placeAddr (s : State) (e : Expect) (v : Nat) : Option Nat :=
  (placeOf s e.tid).map fun p => p.base + e.blk * p.stride + (if 2 ^ 31 ≤ e.tid then v % 2 * fld s 0 R.XCH_PAIR_OFS_OFS else 0)

/-- Does a sequencer hold a version that a write of version v overruns (R394). -/
def overrun (s : State) (tid v : Nat) : Bool :=
  (List.range 64).any fun t =>
    let n := phys s t
    (decide (seqState s n = sqRunning) || decide (seqState s n = sqWaiting)) &&
    (if 2 ^ 31 ≤ tid then decide (seqVer s n + 2 ≤ v) else decide (seqVer s n < v))

/-- The receive record of a bucket. -/
def rbkt (s : State) (bucket : Nat) : Option RBkt := s.rbkts.find? fun r => decide (r.bucket = bucket)

/-- Change it. -/
def modR (s : State) (bucket : Nat) (f : RBkt → RBkt) : State := { s with rbkts := s.rbkts.map fun r => if r.bucket = bucket then f r else r }

/-- What a bucket has received of a version. -/
def rver (r : RBkt) (v : Nat) : RVer :=
  (r.vers.find? fun x => decide (x.ver = v)).getD { ver := v, got := [], lastAt := 0, fullAt := none, reqs := 0, reqAt := 0, gone := false, failed := false }

/-- Store it. -/
def putRver (r : RBkt) (x : RVer) : RBkt := { r with vers := r.vers.filter (fun y => decide (y.ver ≠ x.ver)) ++ [x] }

/-- Has a bucket fully arrived at a version. -/
def arrivedAt (s : State) (bucket v : Nat) : Bool := match rbkt s bucket with
  | some r => (rver r v).fullAt.isSome
  | none => false

/-- A received block (R387, R394). -/
def receiveBlock (s : State) (b : List Byte) : State :=
  let bucket := pktBucket b
  let v := pktVer b
  let pos := fieldLe b 36 2
  let bad := count s 0 R.XCH_BC_BAD 1
  match geomBkt s bucket, rbkt s bucket with
  | some g, some r =>
    let x := rver r v
    let e := posExpect g pos
    let blk := b.drop 48
    if 17 * g.nslice ≤ pos ∨ blk.length ≠ 9216 then bad
    else if x.fullAt.isSome then count s 0 R.XCH_BC_DUP 1
    else
      match placeAddr s e v with
      | none => bad
      | some a =>
        if hbmEnd < a + 9216 ∨ blockCheck e false blk ≠ 0 ∨ recoverVer (fld s 0 R.XCH_COMMITTED + 1) (trailerOf blk).version ≠ v then bad
        else
          let s1 := if overrun s e.tid v then raiseBit (count s 0 R.XCH_OVERRUN 1) 0 R.XCH_STATUS_OVERRUN else s
          let got := if x.got.contains pos then x.got else x.got ++ [pos]
          let x1 := { x with got := got, lastAt := s.now, fullAt := if got.length = 17 * g.nslice then some s.now else none,
                             failed := x.failed && decide (got.length ≠ 17 * g.nslice) }
          modR (count (memWrite s1 a blk) 0 R.XCH_BC_RX 1) bucket fun r => putRver r x1
  | _, _ => bad

/-- BCAST. -/
def execBcast (p : Fin 49) (s : State) : Host.Outcome State Fault Refusal :=
  .next (onPacket s p 3 (fun _ => false) (fun b => pktVer b - 1) receiveBlock)

/-! ### Resends (R390) -/

/-- A version of a bucket cannot be had any more. -/
def resendFail (s : State) (bucket v : Nat) : State :=
  match rbkt s bucket with
  | none => s
  | some r =>
    let x := rver r v
    if x.failed || x.fullAt.isSome then s
    else
      let s1 := modR s bucket fun r => putRver r { x with failed := true, gone := true }
      raiseNamed (count s1 0 R.XCH_RESEND_FAIL 1) 0 R.XCH_STATUS_RESEND_FAIL [] 0x32 5 v 0 0 [bucket]

/-- RESEND_DATA: a block, or GONE. -/
def execResendData (p : Fin 49) (s : State) : Host.Outcome State Fault Refusal :=
  .next (onPacket s p 7 (fun _ => false) (fun b => pktVer b - 1) fun s b =>
    if bitOn (fieldLe b 39 1) 0 then resendFail s (pktBucket b) (pktVer b) else receiveBlock s b)

/-- An owner answers a request from its publication area. -/
def serveResend (s : State) (b : List Byte) : State :=
  let bucket := pktBucket b
  let v := pktVer b
  let first := fieldLe b 36 2
  match obkt s bucket, geomBkt s bucket with
  | some o, some g =>
    let ps := (List.range (min 64 (fieldLe b 38 1))).map (first + ·) |>.filter fun p => decide (p < 17 * g.nslice)
    let bs := ps.map fun p => (p, pubBlock s g p)
    let good := bs.all fun x => match x.2 with
      | some k => decide (recoverVer o.ver (trailerOf k).version = v)
      | none => false
    let send := fun (s : State) (pos : Nat) (gone : Bool) (pay : List Byte) =>
      sendUnicast s (myPkt s (hdrOf b).src 7 0 (v - 1) (blockMsg bucket v o.lastD pos o.lastKind o.lastA gone) pay)
    if good && !ps.isEmpty then bs.foldl (fun s x => send s x.1 false (x.2.getD [])) s else send s first true []
  | _, _ => s

/-- RESEND. -/
def execResend (p : Fin 49) (s : State) : Host.Outcome State Fault Refusal := .next (onPacket s p 6 (fun _ => false) pktVer serveResend)

/-- RESEND_TO in tc. -/
def resendTo (s : State) : Nat := fld s 0 R.XCH_PARAM2_RESEND_TO * tcUs

/-- Is a request for a bucket and version due (R390). -/
def resendDue (s : State) (r : RBkt) (v : Nat) : Bool :=
  let x := rver r v
  let base := if !x.got.isEmpty then decide (x.lastAt + resendTo s ≤ s.now)
              else s.rbkts.any fun q => decide (q.bucket ≠ r.bucket) && (match (rver q v).fullAt with | some t => decide (t + resendTo s ≤ s.now) | none => false)
  base && (decide (x.reqs = 0) || decide (x.reqAt + resendTo s ≤ s.now))

/-- RESEND_TIMEOUT: a request for the missing blocks, at most three; after the third unanswered one the resend has failed. -/
def resendTimeout (s : State) (bucket v : Nat) : State :=
  match rbkt s bucket, geomBkt s bucket with
  | some r, some g =>
    let x := rver r v
    if !fldOn s 0 R.XCH_CTRL_RESEND_EN || !xchOn s || x.failed || x.fullAt.isSome || decide (v ≤ s.doneV) || !resendDue s r v then s
    else if 3 ≤ x.reqs then resendFail s bucket v
    else
      let miss := (List.range (17 * g.nslice)).filter fun p => !x.got.contains p
      let first := miss.headD 0
      let cnt := min 64 (miss.getLastD 0 - first + 1)
      let words := leBytes 4 bucket ++ leBytes 4 0 ++ leBytes 8 v ++ leBytes 4 0 ++ leBytes 2 first ++ leBytes 1 cnt
      let s1 := modR (count s 0 R.XCH_RESEND_REQ 1) bucket fun r => putRver r { x with reqs := x.reqs + 1, reqAt := s.now }
      sendUnicast s1 (myPkt s1 g.owner 6 0 (v - 1) words [])
  | _, _ => s

/-- RESEND_TIMEOUT. -/
def execResendTimeout (bucket ver : Nat) (s : State) : Host.Outcome State Fault Refusal := .next (resendTimeout s bucket ver)

/-! ### Confirmed versions (R389) -/

/-- How far the notices and supersedes of a bucket reach from version v + 1. -/
def coverEnd (r : RBkt) (v : Nat) : Option Nat :=
  let a := if r.notices.contains (v + 1) then [v + 1] else []
  let b := (r.supers.filter fun p => decide (p.1 ≤ v + 1) && decide (v + 1 ≤ p.2)).map (·.2)
  match a ++ b with
  | [] => none
  | x :: t => some (t.foldl max x)

/-- Raise XCH_CONFIRMED as far as every bucket is covered. -/
def confirmUp : Nat → State → State
  | 0, s => s
  | f + 1, s =>
    let v := fld s 0 R.XCH_CONFIRMED
    let es := s.rbkts.map fun r => coverEnd r v
    if es.isEmpty || es.any (·.isNone) then s
    else
      let v1 := (es.filterMap id).foldl min (2 ^ 64 - 1)
      confirmUp f (setFld s 0 R.XCH_CONFIRMED v1)

/-- Judge XCH_CONFIRMED again. -/
def confirm (s : State) : State := confirmUp ((s.rbkts.map fun r => r.notices.length + r.supers.length).sum + 1) s

/-- COMMIT_NOTICE. -/
def execCommitNotice (p : Fin 49) (s : State) : Host.Outcome State Fault Refusal :=
  .next (onPacket s p 4 (fun _ => false) (fun b => pktVer b - 1) fun s b =>
    confirm (modR s (pktBucket b) fun r => if r.notices.contains (pktVer b) then r else { r with notices := r.notices ++ [pktVer b] }))

/-- May the notice of version w be sent (R424): windows that hold earlier passes have closed without failure. -/
def windowsClear (s : State) (w : Nat) : Bool :=
  ((List.range 64).all fun t => (List.range 16).all fun a =>
    let c := (arrAt (tileAt s (phys s t)) a).cs
    decide (c.n = 0) || decide (w ≤ c.vlo)) && s.failWins.all fun f => decide (w ≤ f.1) || decide (f.2 + 1 < w)

/-- Is a version covered by a supersede of its bucket, sent or waiting. -/
def covered (o : OBkt) (w : Nat) : Bool :=
  ((match o.sup with | some p => [p] | none => []) ++ o.supWait).any fun p => decide (p.1 ≤ w) && decide (w ≤ p.2)

/-- COMMIT_NOTICE_SEND: the next notice of a bucket, in ascending order; covered versions get none. -/
def commitNoticeSend (s : State) (bucket : Nat) : State :=
  match obkt s bucket, geomBkt s bucket with
  | some o, some g =>
    let w := o.noticed + 1
    let top := if o.published then o.ver else o.ver - 1
    if !xchOn s || decide (top < w) then s
    else if covered o w then modO s bucket fun x => { x with noticed := w }
    else if !windowsClear s w then s
    else
      let words := leBytes 4 bucket ++ leBytes 4 0 ++ leBytes 8 w
      modO (sendTree s g.tree (myPkt s 0 4 g.tree (w - 1) words [])) bucket fun x => { x with noticed := w }
  | _, _ => s

/-- COMMIT_NOTICE_SEND. -/
def execCommitNoticeSend (bucket : Nat) (s : State) : Host.Outcome State Fault Refusal := .next (commitNoticeSend s bucket)

end Sys2Proof.Machine
end

