-- ==== Sys2Proof/Machine/Regs.lean ====
section
/-! DEFINITION. Writes of register words by their access types (R5–R9). -/

namespace Sys2Proof.Machine

/-- Low word's key of the 64-bit register that a word belongs to; the word's own key otherwise. -/
def lowKey (k : Nat) (d : RegDesc) : Nat := if d.half = 2 then k - 4 else k

/-- A write of either word of a 64-bit register empties its latches (R9): host (0) and hub processor (1). -/
def dropLatch (s : State) (k : Nat) : State :=
  { s with latches := s.latches.filter fun p => decide (p.1 ≠ 2 * k) && decide (p.1 ≠ 2 * k + 1) }

/-- The word a write of `v` leaves: RW and RWH fields take the written bits, RW1C bits are cleared by a written 1, the rest stays (R5). -/
def writtenWord (d : RegDesc) (old v : Word) : Word :=
  let rw := BitVec.ofNat 32 d.rw
  let c := BitVec.ofNat 32 d.w1c
  (old &&& ~~~(rw ||| c)) ||| (v &&& rw) ||| (old &&& c &&& ~~~v)

/-- Write a register word (R5–R7): unassigned offsets ignore it. -/
def regWrite (s : State) (k : Nat) (v : Word) : State :=
  match regOfKey k with
  | none => s
  | some d =>
    let s1 := wrReg s k (writtenWord d (rdReg s k) v)
    if d.half = 0 then s1 else dropLatch s1 (lowKey k d)

/-- Write a 64-bit register. -/
def regWrite64 (s : State) (k v : Nat) : State := regWrite (regWrite s k (BitVec.ofNat 32 v)) (k + 4) (BitVec.ofNat 32 (v / 2 ^ 32))

end Sys2Proof.Machine
end

