-- ==== Sys2Proof/Machine/Activate.lean ====
section
/-! DEFINITION. Admission of a peer (R370, R371), activation of a configuration set (R402, R429, R484, R486), commits (R388), received supersedes (R425)
and failed checksum windows (R421). -/

namespace Sys2Proof.Machine

/-! ### Admission (R370, R371) -/

/-- Digest of the configuration set in force; 64 zeros with none. -/
def myDigest (s : State) : List Byte := match s.cfg with
  | some c => c.digest
  | none => List.replicate 64 0

/-- What the geometry table expects at a port: peer module, peer port, and bytes 0 to 31 of the peer's key digest (R370, R400). -/
def expectedPeer (s : State) (p : Nat) : Option (Nat × Nat × List Byte) :=
  s.cfg.bind fun c => (c.geom.mods.find? fun m => decide (m.id = myId s)).bind fun m =>
    match m.ports[p]? with
    | some (pm, pp, true) => some (pm, pp, ((c.geom.mods.find? fun x => decide (x.id = pm)).map (·.key)).getD [])
    | _ => none

/-- The table of R370: ADMIT and QREASON for a peer with a configuration digest. -/
def admitFor (s : State) (p : Nat) (i : PeerId) (digest : List Byte) : Nat × Nat :=
  if !i.valid then (3, 0)
  else
    match expectedPeer s p with
    | none => (2, 1)
    | some (pm, pp, key) =>
      if i.module ≠ pm ∨ i.port ≠ pp ∨ i.key.take 32 ≠ key then (2, 1)
      else if digest ≠ myDigest s then (2, 2) else (1, 0)

/-- Set a port's admission; every outcome other than ADMITTED is counted and sets its bit (R370). -/
def setAdmit (s : State) (p adm reason : Nat) : State :=
  let pb := portBase p
  let s1 := setFld (setFld s pb R.PL_STATE_ADMIT adm) pb R.PL_STATE_QREASON reason
  if adm = 1 ∨ adm = 0 then s1
  else
    let s2 := raiseBit (count s1 pb R.PL_QUAR_CNT 1) pb (if adm = 3 then R.PL_STATUS_REFUSED else R.PL_STATUS_QUAR)
    if adm = 3 then modPort s2 p fun x => { x with refusedAt := some s.now } else s2

/-- Judge a port by its stored certificate and a digest. -/
def judgePort (s : State) (p : Nat) (digest : List Byte) : State :=
  match (portAt s p).peerId with
  | none => s
  | some i => let a := admitFor s p i digest; setAdmit s p a.1 a.2

/-- Control message that carries a digest with an activation step; the spec gives no layout. -/
def digestMsg (step : Nat) (digest : List Byte) : List Byte := [2] ++ leBytes 8 step ++ digest

/-- The digest of a step has come on a port that waits for it. -/
def digestArrived (s : State) (p step : Nat) (digest : List Byte) : State :=
  match (portAt s p).await with
  | some (a, _) =>
    if a = step then judgePort (modPort s p fun x => { x with await := none }) p digest else s
  | none => s

/-- An activation at a port (R371): it sends its digest and waits for the peer's. -/
def activatePort (s : State) (A : Nat) (p : Nat) : State :=
  if linkOf s p ≠ 4 then s
  else
    let s1 := modPort s p fun x => { x with ctl := x.ctl ++ [digestMsg A (myDigest s)], await := some (A, s.now) }
    match (portAt s1 p).digests.find? fun d => decide (d.1 = A) with
    | some d => digestArrived s1 p A d.2
    | none => s1

/-! ### Bucket tables (R318) -/

/-- Names an MC and a bucket's shape for Smiteale's choice of addresses. -/
def shapeIdx (m : Nat) (g : GBkt) : Nat := g.bucket + 2 ^ 32 * (m + 32 * (g.nslice + 128 * (g.mcFirst + 32 * g.fmt)))

/-- A 64-byte aligned local address with room for `size` bytes in a stack of 64 GiB. -/
def localPlace (x size : Nat) : Nat := 64 * (x % ((2 ^ 36 - size) / 64 + 1))

/-- Slice areas of a bucket at an MC. -/
def sliceAt (m : Nat) (g : GBkt) : Nat := localPlace (Config.sliceBase (shapeIdx m g)) ((g.nslice + 23) / 24 * 16 * recBytes g.fmt)
/-- Publication area of a bucket at an MC. -/
def pubAt (m : Nat) (g : GBkt) : Nat := localPlace (Config.pubBase (shapeIdx m g)) ((g.nslice + 23) / 24 * 17 * 9216)

/-- The hardware-maintained bytes of an entry, 64 to 255, that survive an activation (R318): those of the bucket's old entry with the same NSLICE,
MC_FIRST, FMT, SBASE and PUBBASE; else zeros. -/
def keptBytes (s : State) (m : Nat) (g : GBkt) : List Byte :=
  match findEntry s m g.bucket with
  | some e =>
    if e.nslice = g.nslice ∧ e.mcFirst = g.mcFirst ∧ e.fmt = g.fmt ∧ e.sbase = sliceAt m g ∧ e.pubbase = pubAt m g then
      (localPeek s m (bktAddr s m e.idx + 64) 144) ++ List.replicate 48 0
    else List.replicate 192 0
  | none => List.replicate 192 0

/-- The 256 bytes of an entry. -/
def entryBytes (s : State) (m : Nat) (g : GBkt) : List Byte :=
  leBytes 4 g.bucket ++ leBytes 2 g.group ++ leBytes 1 g.nslice ++ leBytes 1 g.mcFirst ++ leBytes 1 g.fmt ++ leBytes 1 g.outk ++ [0, 0] ++
  leBytes 4 g.pscale ++ leBytes 4 g.ptid ++ leBytes 4 g.pblk0 ++ leBytes 4 g.ltid ++ leBytes 4 g.lblk0 ++ leBytes 4 g.mtid ++ [0, 0, 0, 0] ++
  leBytes 8 (sliceAt m g) ++ leBytes 8 (pubAt m g) ++ List.replicate 8 0 ++ keptBytes s m g

/-- Smiteale writes the bucket table of one MC from the geometry table. -/
def writeTable (s : State) (owned : List GBkt) (m : Nat) : State :=
  let bs := owned.filter fun g => (holders g).contains m
  let es := bs.map (entryBytes s m)
  let base := localPlace (Config.tableBase m) (16384 * 256)
  let s1 := setFld (setFld s (mcBase m) R.MRT_BKT_BASE_ADDR (base / 64)) (mcBase m) R.MRT_BKT_CNT_CNT bs.length
  localWrite s1 m base es.flatten

/-! ### Policies, groups and programs (R326, R484) -/

/-- Group registers of 4,096 groups; registers 14 and 15 keep their defined bits. -/
def grpTable (ws : List Word) : List (Nat × Word) :=
  (ws.zipIdx.map fun p =>
    (p.2, if p.2 % 16 = 14 then BitVec.ofNat 32 (p.1.toNat % 128) else if p.2 % 16 = 15 then BitVec.ofNat 32 (p.1.toNat % 16) else p.1)).filter
    fun p => decide (p.2 ≠ 0)

/-- Group registers and programs reach every MC. -/
def writeGroups (s : State) (c : CfgSet) : State :=
  let t := grpTable c.grp
  (List.range 24).foldl (fun s m =>
    c.progs.zipIdx.foldl (fun s w => wrReg s (mcBase m + R.MRT_PROG.off + 4 * w.2) w.1) (modMc s m fun x => { x with grp := t })) s

/-- Write ARR_CTRL by policy: ENABLE and WIDE keep their values. -/
def writeArrCtrl (s : State) (n a : Nat) (w : Word) : State :=
  let e := fldOn s (arrBase n a) R.ARR_CTRL_ENABLE
  let v := fldOn s (arrBase n a) R.ARR_CTRL_WIDE
  setBit (setBit (regWrite s (arrBase n a + R.ARR_CTRL.off) w) (arrBase n a) R.ARR_CTRL_ENABLE e) (arrBase n a) R.ARR_CTRL_WIDE v

/-- Write a list of registers of one window. -/
def writeRegs (s : State) (base : Nat) (fs : List Fld) (ws : List Word) : State := (fs.zip ws).foldl (fun s p => regWrite s (base + p.1.off) p.2) s

/-- The format and calibration policies reach one physical tile. -/
def writePolicies (s : State) (c : CfgSet) (n : Nat) : State :=
  let s1 := writeRegs s (tileBase n) [R.ACC_CTRL, R.ACC_WIN, R.ACC_SAT_TH, R.ACC_ZERO_TH, R.FOX_CTRL, R.FOX_ICLIP_TH, R.FOX_WCLIP_TH] (c.fmtPol.drop 1)
  let s2 := writeRegs s1 (tileBase n) [R.CAL_CTRL, R.CAL_TRIG, R.CAL_AGE, R.CAL_WIN, R.CAL_TH] c.calPol
  (List.range 16).foldl (fun s a => regWrite (writeArrCtrl s n a (c.fmtPol.getD 0 0)) (arrBase n a + R.ARR_RFSH_CFG.off) (c.calPol.getD 5 0)) s2

/-! ### Activation (R402) -/

/-- Does a configuration set name this module as owner or contributor of any bucket. -/
def namedIn (s : State) (g : Geom) : Bool := g.bkts.any fun b => decide (b.owner = myId s) || b.contribs.contains (myId s)

/-- A draining module becomes DRAINED (R429 step 5). -/
def drained (s : State) (c : CfgSet) : State :=
  if fld s 0 R.OWL_MODSTATE_STATE = 1 ∧ !namedIn s c.geom then
    let s1 := setFld (setFld s 0 R.OWL_MODSTATE_STATE 2) 0 R.OWL_MODSTATE_REPLACE 1
    let s2 := (List.range 64).foldl (fun s t => seqRun s (phys s t) false) s1
    pushEv s2 0x44 6 (fld s2 0 R.XCH_COMMITTED) 0 0 0 0 []
  else s

/-- A live update begins where the set names the other slot's image (R486 step 1). -/
def beginUpdate (s : State) (c : CfgSet) : State :=
  let act := fld s 0 R.SEC_STATE_SLOT
  if c.fw ≠ s.sec.meas.getD act [] ∧ c.fw = s.sec.meas.getD (1 - act) [] ∧ c.fw ≠ [] ∧ fwReady s = true then
    { setFld s 0 R.HIF_FW_STATE 3 with sec := { s.sec with hand := some { old := act, new := 1 - act, at' := none } } }
  else s

/-- Close records of the buckets owned under the new set: kept where owned before, else open version A with nothing accepted. -/
def newObkts (s : State) (c : CfgSet) (A : Nat) : List OBkt :=
  (c.geom.bkts.filter fun g => decide (g.owner = myId s)).map fun g =>
    (s.obkts.find? fun o => decide (o.bucket = g.bucket)).getD { bucket := g.bucket, ver := A, noticed := A }

/-- Every component of a set takes effect (R402, R484). -/
def activate (s : State) (c : CfgSet) (A : Nat) : State :=
  let s0 := { s with prevTag := fld s 0 R.XCH_TAG_TAG, actAt := A, staged := none, cfg := some c, obkts := newObkts s c A,
                     rbkts := c.geom.bkts.map fun g => (s.rbkts.find? fun r => decide (r.bucket = g.bucket)).getD { bucket := g.bucket } }
  let s1 := setFld (setFld s0 0 R.XCH_TAG_TAG (leNat (c.digest.take 4))) 0 R.XCH_PAIR_OFS_OFS c.geom.pairOfs
  let s2 := [R.XCH_PARAM0, R.XCH_PARAM1, R.XCH_PARAM2, R.XCH_PARAM3].zip c.xch |>.foldl (fun s p => wrReg s p.1.off p.2) s1
  let own := c.geom.bkts.filter fun g => decide (g.owner = myId s)
  let s3 := (List.range 24).foldl (fun s m => writeTable s own m) s2
  let s4 := (List.range 68).foldl (fun s n => writePolicies s c n) (writeGroups s3 c)
  let s5 := writeRegs s4 0 [R.OWL_CS_CFG0, R.OWL_CS_CFG1] (c.fmtPol.drop 8)
  let s6 := (List.range 48).foldl (fun s p => activatePort s A p) s5
  let s7 := beginUpdate (drained s6 c) c
  s7.obkts.foldl (fun s o => becameOpen s o.bucket) s7

/-- Activate the staged set where version v is its activation step. -/
def activateAt (s : State) (v : Nat) : State :=
  match s.staged with
  | some (c, a) => if a = v then activate s c a else s
  | none => s

/-! ### Committing and passing versions (R388, R425) -/

/-- Was a version passed. -/
def isPassed (s : State) (v : Nat) : Bool := s.passed.any fun p => decide (p.1 ≤ v) && decide (v ≤ p.2)

/-- Pass the versions after the last one done, as far as they are passed: at most `fuel` ranges, or up to the staged activation step each time. -/
def passOn : Nat → State → State
  | 0, s => s
  | f + 1, s =>
    match s.passed.find? fun p => decide (p.1 ≤ s.doneV + 1) && decide (s.doneV + 1 ≤ p.2) with
    | none => s
    | some p =>
      let v := match s.staged with
        | some (_, a) => if s.doneV < a ∧ a ≤ p.2 then a else p.2
        | none => p.2
      passOn f (activateAt { s with doneV := v } v)

/-- Pass on as far as possible. -/
def passAll (s : State) : State := passOn (s.passed.length + 2) s

/-- The WIDE_STEP record at the end of a step (R136): distinct weight tensors, and tiles that ran wide. -/
def wideStep (s : State) (v : Nat) : State :=
  let l := (List.range 64).filter fun t => !(tileAt s (phys s t)).wideTids.isEmpty
  if l.isEmpty then s
  else
    let tids := (l.flatMap fun t => (tileAt s (phys s t)).wideTids).eraseDups
    let s1 := l.foldl (fun s t => modTile s (phys s t) fun x => { x with wideTids := [] }) s
    pushEv s1 0x20 0 v 0 0 0 0 [tids.length, l.length]

/-- Commit the next version (R388). -/
def stepCommit (s : State) : State :=
  let v := s.doneV + 1
  if s.rbkts.isEmpty || !(s.rbkts.all fun r => (rver r v).fullAt.isSome) || isPassed s v then s
  else
    let s1 := pushEv (count (setFld { s with doneV := v } 0 R.XCH_COMMITTED v) 0 R.XCH_COMMIT_CNT 1) 0x30 5 v 0 0 0 0 []
    passAll (activateAt (windowsCommit (wideStep s1 v)) v)

/-- STEP_COMMIT. -/
def execStepCommit (s : State) : Host.Outcome State Fault Refusal := .next (stepCommit s)

/-- A SUPERSEDE packet (R425): bucket, f and l. -/
def supersedeRx (s : State) (b : List Byte) : State :=
  let bucket := pktBucket b
  let f := pktVer b
  let l := fieldLe b 32 8
  let s1 := if fwReady s then taintLedger s fun v => decide (f ≤ v) && decide (v ≤ l) else s
  let s2 := modR { s1 with passed := s1.passed ++ [(f, l)] } bucket fun r => { r with supers := r.supers ++ [(f, l)] }
  let s3 := raiseNamed (count s2 0 R.OWL_SUPERSEDE_RX 1) 0 R.OWL_STATUS_SUPERSEDE [bucket, 0, f % 2 ^ 32, f / 2 ^ 32, l % 2 ^ 32, l / 2 ^ 32, 0, 0]
    0x40 6 f 0 0 [bucket, l % 2 ^ 32, l / 2 ^ 32]
  passAll (confirm s3)

/-- SUPERSEDE_PACKET. -/
def execSupersedePacket (p : Fin 49) (s : State) : Host.Outcome State Fault Refusal :=
  .next (onPacket s p 5 (fun _ => false) (fun b => fieldLe b 32 8 - 1) supersedeRx)

/-! ### Failed checksum windows (R421) -/

/-- Smiteale's steps for a failed window of an array of physical tile n. -/
def windowFail (s : State) (n vlo vhi : Nat) : State :=
  let s1 := taintLedger (suspect s n 2) fun v => decide (vlo ≤ v) && decide (v ≤ vhi)
  let bs : List GBkt := match s1.cfg with
    | some c => c.geom.bkts.filter fun g => g.contribs.contains (myId s1)
    | none => []
  let s2 := bs.foldl (fun s g =>
    match obkt s g.bucket with
    | some o =>
      let l := min (vhi + 1) (if o.published then o.ver else o.ver - 1)
      if vlo + 1 ≤ l then supersede s g.bucket (vlo + 1) l else s
    | none => pushEv s 0x41 6 vlo 0 0 0 0 [vhi % 2 ^ 32, vhi / 2 ^ 32, g.bucket, g.owner]) s1
  detect s2 n

/-- CHECKSUM_WINDOW_CLOSE: a due window closes (R418), and Smiteale, where it runs, acts on the failed ones of the array (R421). -/
def execChecksumWindowClose (t : Fin 64) (a : Fin 16) (s : State) : Host.Outcome State Fault Refusal :=
  let n := phys s t
  let s1 := closeDue s n a
  let mine := s1.csFails.filter fun f => decide (f.1 = n) && decide (f.2.1 = a.val)
  .next (if !fwReady s1 then s1
         else mine.foldl (fun s f => windowFail s n f.2.2.1 f.2.2.2)
           { s1 with csFails := s1.csFails.filter fun f => !(decide (f.1 = n) && decide (f.2.1 = a.val)) })

end Sys2Proof.Machine
end

