-- ==== Sys2Proof/Machine/Events.lean ====
section
/-! DEFINITION. Reports: interrupt vectors, event queues (R461–R466), datagrams (R435, R436, R474) and firmware records (R437, R466, R467). -/

namespace Sys2Proof.Machine

/-! ### MSI-X -/

/-- What an MSI-X table word reads as that nothing has written: the vector is masked (its control word is 1), as PCI Express resets it. -/
def msixReset (i : Nat) : Word := if i % 4 = 3 then 1 else 0

/-- Raise a vector: it goes out, or stays pending while its table entry masks it; none in D3hot (R440). -/
def raiseVec (s : State) (v : Nat) : State :=
  if s.d3hot then s
  else if bitOn (sget msixReset s.msix (4 * v + 3)).toNat 0 then (if s.msixPend.contains v then s else { s with msixPend := s.msixPend ++ [v] })
  else { s with out := s.out ++ [.msix v] }

/-- Write a word of the MSI-X table; a vector that is pending goes out when its mask is cleared. -/
def msixWrite (s : State) (i : Nat) (w : Word) : State :=
  let v : Word := if i % 4 = 3 then BitVec.ofNat 32 (w.toNat % 2) else w
  let s1 := { s with msix := sset msixReset s.msix i v }
  if i % 4 = 3 ∧ v = 0 ∧ s1.msixPend.contains (i / 4) then raiseVec { s1 with msixPend := s1.msixPend.erase (i / 4) } (i / 4) else s1

/-! ### Event queues (R461–R465) -/

/-- What a queue keeps beside its registers. -/
def evqOf (s : State) (q : Nat) : EvqState := sget (fun _ => {}) s.evqs q

/-- Change it. -/
def modEvq (s : State) (q : Nat) (f : EvqState → EvqState) : State := { s with evqs := sset (fun _ => {}) s.evqs q (f (evqOf s q)) }

/-- Is a queue enabled. -/
def evqOn (s : State) (q : Nat) : Bool := fldOn s 0 (fldAt R.EVQ_CFG_EN q)
/-- Records of a ring. -/
def evqSize (s : State) (q : Nat) : Nat := 2 ^ clampN 6 20 (fld s 0 (fldAt R.EVQ_CFG_SIZE_LOG2 q))
/-- HEAD. -/
def evqHead (s : State) (q : Nat) : Nat := fld s 0 (fldAt R.EVQ_HEAD_INDEX q)
/-- TAIL. -/
def evqTail (s : State) (q : Nat) : Nat := fld s 0 (fldAt R.EVQ_TAIL_INDEX q)
/-- Is a queue full (R464). -/
def evqFull (s : State) (q : Nat) : Bool := decide ((evqTail s q + 1) % evqSize s q = evqHead s q)
/-- CNT of R465. -/
def evqCnt (s : State) (q : Nat) : Nat := clampN 1 4096 (fld s 0 (fldAt R.EVQ_MOD_CNT q))
/-- TIME of R465 in µs. -/
def evqTime (s : State) (q : Nat) : Nat := fld s 0 (fldAt R.EVQ_MOD_TIME q)

/-- An armed queue raises its vector and disarms where CNT records have come, or the first has where TIME is 0 (R465). -/
def evqSignal (s : State) (q : Nat) : State :=
  let e := evqOf s q
  if e.armed && decide (0 < e.n) && (decide (evqCnt s q ≤ e.n) || decide (evqTime s q = 0)) then
    raiseVec (modEvq s q fun x => { x with armed := false, n := 0, firstAt := none }) (fld s 0 (fldAt R.EVQ_CFG_VEC q))
  else s

/-- Arm a queue: records already written and not released count (R465). -/
def evqArm (s : State) (q left : Nat) : State :=
  evqSignal (modEvq s q fun x => { x with armed := true, n := left, firstAt := if left = 0 then none else some s.now }) q

/-- Write one record at the tail (R463): PHASE is bit 0 of byte 3. -/
def evqPut (s : State) (q : Nat) (rec : List Byte) : State :=
  let t := evqTail s q
  let ph := fld s 0 (fldAt R.EVQ_TAIL_PHASE q)
  let addr := fld s 0 (fldAt R.EVQ_BASE_ADDR q) * 4096 + 64 * t
  let s1 := { s with out := s.out ++ [.hostWrite addr (rec.take 3 ++ leBytes 1 ph ++ rec.drop 4)] }
  let t1 := (t + 1) % evqSize s q
  let s2 := setFld s1 0 (fldAt R.EVQ_TAIL_INDEX q) t1
  let s3 := if t1 = 0 then setFld s2 0 (fldAt R.EVQ_TAIL_PHASE q) (1 - ph) else s2
  let s4 := modEvq (count s3 0 R.EVQ_REC_CNT 1) q fun x =>
    if x.armed then { x with n := x.n + 1, firstAt := some (x.firstAt.getD s.now) } else x
  evqSignal s4 q

/-- An OVERFLOW record (R464, R467). -/
def overflowRec (n : Nat) : List Byte := leBytes 2 1 ++ leBytes 1 7 ++ List.replicate 45 0 ++ leBytes 4 n ++ List.replicate 12 0

/-- Write the OVERFLOW record that is due, where the queue has room. -/
def evqOverflow (s : State) (q : Nat) : State :=
  let e := evqOf s q
  if !evqOn s q || s.d3hot || decide (e.drops = 0) || evqFull s q then s
  else evqPut (modEvq s q fun x => { x with drops := 0 }) q (overflowRec e.drops)

/-- OVERFLOW. -/
def execOverflow (q : Fin 16) (s : State) : Host.Outcome State Fault Refusal := .next (evqOverflow s q)

/-- An event is dropped (R464): OVF reports when it goes from 0 to 1. -/
def evqDrop (s : State) (q : Nat) : State :=
  let s1 := modEvq (count s 0 (fldAt R.EVQ_DROP q) 1) q fun x => { x with drops := x.drops + 1 }
  if fldOn s1 0 (fldAt R.EVQ_STATUS_OVF q) then s1 else raiseBit s1 0 (fldAt R.EVQ_STATUS_OVF q)

/-- Write an event to one queue. -/
def evqWrite (s : State) (q : Nat) (rec : List Byte) : State :=
  let s1 := evqOverflow s q
  if s1.d3hot || evqFull s1 q then evqDrop s1 q else evqPut s1 q rec

/-- Write an event to every enabled queue of its class (R462). -/
def writeEvent (s : State) (cls : Nat) (rec : List Byte) : State :=
  let qs := (List.range 16).filter fun q => evqOn s q && bitOn (fld s 0 (fldAt R.EVQ_CFG_CLASSES q)) cls
  if qs.isEmpty then count s 0 R.EVQ_UNROUTED 1 else qs.foldl (fun s q => evqWrite s q rec) s

/-- EVQ_MODERATION_TIMEOUT: TIME after the first unsignalled record (R465). -/
def execEvqModerationTimeout (q : Fin 16) (s : State) : Host.Outcome State Fault Refusal :=
  let e := evqOf s q
  .next (match e.firstAt with
         | some t => if e.armed && decide (t + evqTime s q * tcUs ≤ s.now) then
                       raiseVec (modEvq s q fun x => { x with armed := false, n := 0, firstAt := none }) (fld s 0 (fldAt R.EVQ_CFG_VEC q)) else s
         | none => s)

/-- A write of EVQ_CFG (R461): BASE and SIZE_LOG2 are ignored while EN is 1; setting EN sets head and tail to 0 and the phase to 1, and arms the queue. -/
def evqCfgWrite (s : State) (q : Nat) (w : Word) : State :=
  let was := evqOn s q
  let size := fld s 0 (fldAt R.EVQ_CFG_SIZE_LOG2 q)
  let s1 := regWrite s (0x20008 + 0x40 * q) w
  let s2 := if was then setFld s1 0 (fldAt R.EVQ_CFG_SIZE_LOG2 q) size else s1
  if !was && evqOn s2 q then
    let s3 := setFld (setFld (setFld s2 0 (fldAt R.EVQ_HEAD_INDEX q) 0) 0 (fldAt R.EVQ_TAIL_INDEX q) 0) 0 (fldAt R.EVQ_TAIL_PHASE q) 1
    evqArm (modEvq s3 q fun _ => {}) q 0
  else s2

/-- EVQ_CFG_EN: the host writes a queue's EVQ_CFG. -/
def execEvqCfgEn (q : Fin 16) (w : Word) (s : State) : Host.Outcome State Fault Refusal := .next (if hostUp s then evqCfgWrite s q w else s)

/-- Records written and not released. -/
def evqUsed (s : State) (q : Nat) : Nat := (evqTail s q + evqSize s q - evqHead s q) % evqSize s q

/-- A write of EVQ_HEAD (R463–R465): it releases records and arms the queue; a value outside those written and not released is ignored. -/
def evqHeadWrite (s : State) (q v : Nat) : State :=
  let d := (v + evqSize s q - evqHead s q) % evqSize s q
  if !evqOn s q then s
  else if evqSize s q ≤ v ∨ evqUsed s q < d then raiseBit s 0 (fldAt R.EVQ_STATUS_HEAD_BAD q)
  else
    let s1 := setFld s 0 (fldAt R.EVQ_HEAD_INDEX q) v
    evqArm s1 q (evqUsed s1 q)

/-- EVQ_HEAD. -/
def execEvqHead (q : Fin 16) (v : BitVec 20) (s : State) : Host.Outcome State Fault Refusal := .next (if hostUp s then evqHeadWrite s q v.toNat else s)

/-! ### Datagrams (R435, R473, R474) -/

/-- Big-endian bytes of an n-byte number. -/
def beBytes (n v : Nat) : List Byte := (leBytes n v).reverse

/-- The 16 bytes of an IPv6 address held in four registers. -/
def ipOf (s : State) (f : Fld) : List Byte := (List.range 4).flatMap fun k => beBytes 4 (fld s 0 (fldAt f k))

/-- The fuse MAC address. -/
def macOf (s : State) : List Byte := beBytes 2 (fld s 0 R.MGT_MAC_HI_BYTES) ++ beBytes 4 (fld s 0 R.MGT_MAC_LO_BYTES)

/-- The link-local address of the fuse MAC by the modified EUI-64 rule. -/
def linkLocal (s : State) : List Byte :=
  let m := macOf s
  [0xFE#8, 0x80#8, 0, 0, 0, 0, 0, 0] ++ [(m.getD 0 0) ^^^ 2#8] ++ (m.drop 1).take 2 ++ [0xFF#8, 0xFE#8] ++ m.drop 3

/-- A source address register, or the link-local address while it is all zero. -/
def srcIp (s : State) (f : Fld) : List Byte := let a := ipOf s f; if a.all (fun b => decide (b = 0)) then linkLocal s else a

/-- Sum of a byte list's big-endian 16-bit words. -/
def sum16 : List Byte → Nat
  | [] => 0
  | [a] => a.toNat * 256
  | a :: b :: t => a.toNat * 256 + b.toNat + sum16 t

/-- Fold a sum into 16 bits by end-around carries. -/
def fold16 : Nat → Nat → Nat
  | 0, x => x
  | f + 1, x => if x < 65536 then x else fold16 f (x % 65536 + x / 65536)

/-- A UDP datagram over IPv6 with hop limit 64 in an Ethernet frame. -/
def udpFrame (dmac smac src dst : List Byte) (sp dp : Nat) (payload : List Byte) : List Byte :=
  let len := 8 + payload.length
  let pseudo := src ++ dst ++ beBytes 4 len ++ [0, 0, 0, 17] ++ beBytes 2 sp ++ beBytes 2 dp ++ beBytes 2 len ++ [0, 0] ++ payload
  let c := 65535 - fold16 4 (sum16 pseudo)
  dmac ++ smac ++ [0x86#8, 0xDD#8] ++ [0x60#8, 0, 0, 0] ++ beBytes 2 len ++ [17#8, 64#8] ++ src ++ dst ++
  beBytes 2 sp ++ beBytes 2 dp ++ beBytes 2 len ++ beBytes 2 (if c = 0 then 65535 else c) ++ payload

/-- MAC address of a destination: derived from a multicast address, else the given one. -/
def dstMac (dst uni : List Byte) : List Byte := if dst.getD 0 0 = 0xFF#8 then [0x33#8, 0x33#8] ++ dst.drop 12 else uni

/-- OWL_DMAC. -/
def owlDmac (s : State) : List Byte := beBytes 2 (fld s 0 R.OWL_DMAC_HI_BYTES % 65536) ++ beBytes 4 (fld s 0 R.OWL_DMAC_LO_BYTES)

/-- A neighbour's MAC address, which the module learns on the network: the spec gives no register for it; free. -/
def neighbourMac (free : Nat) : List Byte := leBytes 6 (Config.freeNonce free).toNat

/-- The 64 bytes of a raw record (R433). -/
def rawBytes (s : State) (r : RawRec) : List Byte :=
  leBytes 2 1 ++ leBytes 2 64 ++ leBytes 4 (myId s) ++ leBytes 4 r.seq ++ leBytes 6 r.launch ++ [0, 0] ++ leBytes 4 r.reg ++ leBytes 1 r.bit ++
  leBytes 1 r.kind ++ leBytes 2 r.unit ++ [0, 0, 0, 0] ++ (List.range 8).flatMap fun i => leBytes 4 (r.detail.getD i 0)

/-- A consumer has taken a record: it leaves the FIFO once no enabled consumer waits for it (R436). -/
def owlTaken (l : List RawRec) (r r1 : RawRec) : List RawRec := if r1.net || r1.bdg then l.map fun x => if x = r then r1 else x else l.erase r

/-- Times of a list within the last ms. -/
def lastMs (s : State) (l : List Nat) : List Nat := l.filter fun t => decide (s.now < t + tcMs)

/-- OWL_DATAGRAM_SEND: the oldest record that waits for the network leaves as a datagram, or is dropped beyond RATE (R435, R436). -/
def owlSend (s : State) : State :=
  if !s.hubUp || s.mgmtDown then s
  else
    match s.owlFifo.find? fun r => r.net with
    | none => s
    | some r =>
      let recent := lastMs s s.owlNet
      if max 1 (fld s 0 R.OWL_CTRL_RATE) ≤ recent.length then
        let s1 := count { s with owlFifo := s.owlFifo.erase r, owlNet := recent,
                                  fwEvents := s.fwEvents.filter fun e => !(r.bdg && decide (e.seq = r.seq)) } 0 R.OWL_DROP_RATE 1
        if fldOn s1 0 R.OWL_STATUS_DROP then s1 else raiseBit s1 0 R.OWL_STATUS_DROP
      else
        let dst := ipOf s R.OWL_DST_IP_ADDR
        let f := udpFrame (dstMac dst (owlDmac s)) (macOf s) (srcIp s R.OWL_SRC_IP_ADDR) dst (fld s 0 R.OWL_PORT_SRC) (fld s 0 R.OWL_PORT_DST) (rawBytes s r)
        count { s with owlFifo := owlTaken s.owlFifo r { r with net := false }, owlNet := recent ++ [s.now], out := s.out ++ [.datagram f] } 0 R.OWL_TX_CNT 1

/-- OWL_DATAGRAM_SEND. -/
def execOwlDatagramSend (s : State) : Host.Outcome State Fault Refusal := .next (owlSend s)

/-! ### Firmware records (R437, R466, R467, R474) -/

/-- Class of a status bit by the BAR0 offset of its register (R462). -/
def classOf (reg : Nat) : Nat :=
  if 0x03000000 ≤ reg then 4
  else if 0x02000000 ≤ reg then (let o := reg % 0x10000; if o < 0x800 then 2 else 3)
  else if 0x01000000 ≤ reg then (if reg % 0x40000 / 0x8000 = 7 then 2 else 0)
  else match reg / 0x10000 with
    | 0 => 7 | 1 => 7 | 2 => 7 | 3 => 9 | 4 => 8 | 5 => 8 | 6 => 8 | 7 => 8 | 9 => 6 | 10 => 5 | 12 => 9 | _ => 8

/-- Is a status bit tied to a named event, which is composed in its place (R467): HALT and LONG of a sequencer, SHORT, RESEND_FAIL and STAGE_REF, and
SUPERSEDE, BUCKET_FAIL and DRAIN. -/
def namedBit (reg bit : Nat) : Bool :=
  if 0x01000000 ≤ reg ∧ reg < 0x02000000 then decide (reg % 0x40000 = R.TILE_SEQ_STATUS.off) && (decide (bit = R.TILE_SEQ_STATUS_HALT.lo) || decide (bit = R.TILE_SEQ_STATUS_LONG.lo))
  else if reg = R.XCH_STATUS.off then decide (bit = 2) || decide (bit = 7) || decide (bit = 8)
  else if reg = R.OWL_STATUS.off then decide (bit = 7) || decide (bit = 10) || decide (bit = 11)
  else false

/-- Die of a unit: 0 to 3, or 4 for the hub (R433). -/
def dieOf (s : State) (kind unit : Nat) : Nat :=
  match kind with
  | 1 => phys s unit / 17
  | 2 => unit / 17
  | 3 => unit / 6
  | 4 => unit / 12
  | 5 => phys s (unit / 16) / 17
  | _ => 4

/-- A housekeeping result's code. -/
def hkCode (s : State) (k : Nat) : Int := fldInt s 0 (fldAt R.TAD_HK_CODE k)

/-- Hotter of a die's two sensors, in 1/16 °C. -/
def dieTemp (s : State) (d : Nat) : Int := max (hkCode s (2 * d)) (hkCode s (2 * d + 1))

/-- Supply of a die in mV, from its housekeeping code against 2.500 V. -/
def dieSupply (s : State) (d : Nat) : Nat := ((hkCode s (10 + d) * 2500 + 16384) / 32768).toNat % 65536

/-- Version register of a unit, or 0. -/
def unitVer (s : State) (kind unit : Nat) : Nat :=
  match kind with
  | 1 => seqVer s (phys s unit)
  | 5 => seqVer s (phys s (unit / 16))
  | 2 => seqVer s unit
  | _ => 0

/-- The firmware record of a raw record. -/
def eventOfRaw (s : State) (r : RawRec) : FwEvent :=
  let d := fun i => r.detail.getD i 0
  let cs := decide (r.reg = R.OWL_STATUS.off) && (decide (r.bit = 4) || decide (r.bit = 5))
  { typ := 2, cls := classOf r.reg, ver := if cs then d 6 + d 7 * 2 ^ 32 else unitVer s r.kind r.unit, kind := r.kind, unit := r.unit, op0 := r.reg,
    op1 := r.bit, detail := if cs then [d 0, d 1, d 4, d 5] else [d 0, d 1, d 2, d 3], seq := r.seq }

/-- The 64 bytes of an event record, PHASE 0 (R466). -/
def eventBytes (s : State) (e : FwEvent) : List Byte :=
  let d := dieOf s e.kind e.unit
  leBytes 2 e.typ ++ leBytes 1 e.cls ++ [0] ++ leBytes 4 e.seq ++ leBytes 8 (xchTimer s) ++ leBytes 8 (fld s 0 R.XCH_COMMITTED) ++ leBytes 8 e.ver ++
  leBytes 1 e.kind ++ [0] ++ leBytes 2 e.unit ++ leBytes 4 e.op0 ++ leBytes 2 e.op1 ++ leBytes 2 (tc 16 (dieTemp s d)) ++ leBytes 2 (dieSupply s d) ++
  [0, 0] ++ (List.range 4).flatMap fun i => leBytes 4 (e.detail.getD i 0)

/-- Send a firmware record on the management network (R474): dropped there beyond RATE or while the link is down. -/
def fwSend (s : State) (rec : List Byte) : State :=
  if !fldOn s 0 R.MGT_CTRL_NET_EN then s
  else
    let recent := lastMs s s.fwNet
    if s.mgmtDown ∨ max 1 (fld s 0 R.MGT_CTRL_RATE) ≤ recent.length then count { s with fwNet := recent } 0 R.MGT_NET_DROP 1
    else
      let dst := ipOf s R.MGT_DST_IP_ADDR
      let f := nextFree s
      let pay := leBytes 2 2 ++ leBytes 2 80 ++ leBytes 4 (myId s) ++ leBytes 4 s.fwNum ++ [0, 0, 0, 0] ++ rec
      let fr := udpFrame (dstMac dst (neighbourMac f.1)) (macOf s) (srcIp s R.MGT_SRC_IP_ADDR) dst (fld s 0 R.MGT_PORT_SRC) (fld s 0 R.MGT_PORT_DST) pay
      { f.2 with fwNet := recent ++ [s.now], out := s.out ++ [.datagram fr] }

/-- Compose a firmware record: network, event queues, and the list the monitor shows. -/
def composeRec (s : State) (e : FwEvent) : State :=
  let rec' := eventBytes s e
  let s1 := writeEvent (fwSend s rec') e.cls rec'
  { s1 with fwNum := (s1.fwNum + 1) % 2 ^ 32, fwRecs := (s1.fwRecs ++ [rec']).drop (s1.fwRecs.length + 1 - 64) }

/-- Does Smiteale compose records now: it runs, and is neither stopped nor handing over (R456, R486). -/
def fwComposes (s : State) : Bool := s.hubUp && s.stall.isNone && (decide (fld s 0 R.HIF_FW_STATE = 1) || decide (fld s 0 R.HIF_FW_STATE = 2))

/-- The next raw record for Smiteale: taken through Badger, or still in Owl's FIFO. -/
def nextRaw (s : State) : Option (RawRec × State) :=
  match s.fwRaw with
  | r :: t => some (r, { s with fwRaw := t })
  | [] => (s.owlFifo.find? fun r => r.bdg).map fun r => (r, { s with owlFifo := owlTaken s.owlFifo r { r with bdg := false } })

/-- FIRMWARE_RECORD_COMPOSE: from the next raw record, with the named events it brings, or from the next event that has none. -/
def fwCompose (s : State) (raw : Bool) : State :=
  if !fwComposes s then s
  else if raw then
    match nextRaw s with
    | some (r, s1) =>
      if namedBit r.reg r.bit then
        (s1.fwEvents.filter fun e => decide (e.seq = r.seq)).foldl composeRec { s1 with fwEvents := s1.fwEvents.filter fun e => decide (e.seq ≠ r.seq) }
      else composeRec s1 (eventOfRaw s1 r)
    | none => s
  else
    match s.fwEvents.find? fun e => decide (e.seq = 0xFFFFFFFF) with
    | some e => composeRec { s with fwEvents := s.fwEvents.erase e } e
    | none => s

/-- FIRMWARE_RECORD_COMPOSE. -/
def execFirmwareRecordCompose (raw : Bool) (s : State) : Host.Outcome State Fault Refusal := .next (fwCompose s raw)

end Sys2Proof.Machine
end

