-- ==== Sys2Proof/Machine/Badger.lean ====
section
/-! DEFINITION. Badger, the hub's DMA engine of eight channels (R511–R518). -/

namespace Sys2Proof.Machine

/-- What Badger keeps of a channel beside its registers. -/
def bdgOf (s : State) (c : Nat) : BdgCh := sget (fun _ => {}) s.bdg c

/-- Change it. -/
def modBdg (s : State) (c : Nat) (f : BdgCh → BdgCh) : State := { s with bdg := sset (fun _ => {}) s.bdg c (f (bdgOf s c)) }

/-- Is a channel enabled. -/
def bdgOn (s : State) (c : Nat) : Bool := fldOn s 0 (fldAt R.BDG_CFG_EN c)

/-- REQ: 6 acts as 7. -/
def bdgReq (s : State) (c : Nat) : Nat := let r := fld s 0 (fldAt R.BDG_CFG_REQ c); if r = 6 then 7 else r

/-- What a word of buffer memory reads as that nothing has written: the spec gives no content; DESIGN CHOICE 0. -/
def bdgDefault (_ : Nat) : Word := 0

/-! ### Configuration (R511–R513) -/

/-- The port an address names. -/
def bdgPort (a : Nat) : Option Nat := if 0x80000000 ≤ a ∧ a < 0x80000600 ∧ a % 0x100 = 0 then some ((a - 0x80000000) / 0x100) else none

/-- Is a word address of buffer memory. -/
def bdgBuf (a : Nat) : Bool := decide (a < 0x100000) && decide (a % 4 = 0)

/-- Is one side of a channel as R511 to R513 allow: `write` the destination. -/
def bdgSideOk (c : Nat) (write inc : Bool) (a len : Nat) : Bool :=
  match bdgPort a with
  | some p => !inc && (decide (5 ≤ c) || decide (p = 0)) && (if write then decide (p = 2) || decide (p = 3) || decide (p = 4)
      else decide (p = 0) || decide (p = 1) || decide (p = 3) || decide (p = 5))
  | none => bdgBuf a && (!inc || decide (a + 4 * len ≤ 0x100000))

/-- Does the configuration of a channel pass R513. -/
def bdgCfgOk (s : State) (c : Nat) : Bool :=
  let len := fld s 0 (fldAt R.BDG_LEN_LEN c)
  let b := fld s 0 (fldAt R.BDG_CFG_BURST c)
  let r := bdgReq s c
  decide (1 ≤ b) && decide (b ≤ 64) && decide (1 ≤ len) && decide (len ≤ 262144) && (decide (5 ≤ c) || decide (r = 0) || decide (r = 7)) &&
  bdgSideOk c false (fldOn s 0 (fldAt R.BDG_CFG_SRC_INC c)) (fld s 0 (fldAt R.BDG_SRC_ADDR c)) len &&
  bdgSideOk c true (fldOn s 0 (fldAt R.BDG_CFG_DST_INC c)) (fld s 0 (fldAt R.BDG_DST_ADDR c)) len

/-- A channel stops with an error. -/
def bdgError (s : State) (c code : Nat) : State :=
  raiseBit (setFld (setFld s 0 (fldAt R.BDG_CFG_EN c) 0) 0 (fldAt R.BDG_STAT_ERR_CODE c) code) 0 (fldAt R.BDG_STAT_ERR c)

/-- Drop what waits on a channel. -/
def bdgDrop (s : State) (c : Nat) : State := setFld (modBdg s c fun x => { x with req := false, held := false }) 0 (fldAt R.BDG_STAT_HELD c) 0

/-- EN was set: the configuration is checked, and the channel starts at position 0, or refuses. -/
def bdgStart (s : State) (c : Nat) : State :=
  if bdgCfgOk s c then
    setFld (setFld (bdgDrop (modBdg s c fun x => { x with run := 0, lastAt := none }) c) 0 (fldAt R.BDG_POS_P c) 0) 0 (fldAt R.BDG_STAT_ERR_CODE c) 0
  else bdgError s c 1

/-! ### Requests (R515, R516) -/

/-- Would a burst write buffer memory at or past BDG_RDPTR (R516): counting from P, the index RDPTR lies within it. -/
def bdgBlocked (s : State) (c : Nat) : Bool :=
  let len := fld s 0 (fldAt R.BDG_LEN_LEN c)
  let p := fld s 0 (fldAt R.BDG_POS_P c)
  let d := (fld s 0 (fldAt R.BDG_RDPTR_INDEX c) % len + len - p) % len
  fldOn s 0 (fldAt R.BDG_CFG_CIRC c) && fldOn s 0 (fldAt R.BDG_CFG_HOLD c) && fldOn s 0 (fldAt R.BDG_CFG_DST_INC c) &&
  decide (d < fld s 0 (fldAt R.BDG_CFG_BURST c))

/-- Has MIN_INT elapsed since the previous burst began. -/
def bdgMinInt (s : State) (c : Nat) : Bool :=
  match (bdgOf s c).lastAt with
  | none => true
  | some t => decide (t + 8 * fld s 0 (fldAt R.BDG_INT_MIN_INT c) ≤ s.now)

/-- Hold a request. -/
def bdgHold (s : State) (c : Nat) : State :=
  setFld (count (modBdg s c fun x => { x with req := false, held := true }) 0 (fldAt R.BDG_HELD_COUNT c) 1) 0 (fldAt R.BDG_STAT_HELD c) 1

/-- A request of a channel: one edge of its line, or a kick. -/
def bdgRequest (s : State) (c : Nat) : State :=
  let x := bdgOf s c
  if !bdgOn s c then s
  else if x.req || x.held then raiseBit (count s 0 (fldAt R.BDG_LOST_COUNT c) 1) 0 (fldAt R.BDG_STAT_TOO_FAST c)
  else if bdgMinInt s c then modBdg s c fun x => { x with req := true }
  else bdgHold s c

/-- The request line of a channel changes. -/
def bdgLine (s : State) (c : Nat) (asserted : Bool) : State :=
  let x := bdgOf s c
  if asserted then (if x.line then s else bdgRequest (modBdg s c fun x => { x with line := true }) c)
  else modBdg s c fun x => { x with line := false, run := 0, stuck := false }

/-- A pulse of the ADC's line: every channel that takes it. -/
def bdgPulse (s : State) : State :=
  (List.range 8).foldl (fun s c => if bdgReq s c = 0 then bdgLine (bdgLine s c true) c false else s) s

/-- BDG_REQUEST_EDGE: the line of a channel whose source lies outside Badger. Owl's line is asserted exactly while a record waits. -/
def execBdgRequestEdge (c : Fin 8) (asserted : Bool) (s : State) : Host.Outcome State Fault Refusal :=
  let r := bdgReq s c.val
  .next (if !s.hubUp || decide (r = 0) || decide (r = 7) then s
    else if decide (r = 5) && decide (asserted ≠ s.owlFifo.any fun x => x.bdg) then s
    else bdgLine s c.val asserted)

/-- A held or continuing request is served once MIN_INT has elapsed and R516 allows it. -/
def bdgRelease (s : State) (c : Nat) : State :=
  let x := bdgOf s c
  if !bdgOn s c || x.req || !bdgMinInt s c then s
  else if x.held then
    if bdgBlocked s c then s else setFld (modBdg s c fun x => { x with req := true, held := false }) 0 (fldAt R.BDG_STAT_HELD c) 0
  else if x.line && !x.stuck && x.lastAt.isSome then modBdg s c fun x => { x with req := true } else s

/-- BDG_MIN_INT_EXPIRE. -/
def execBdgMinIntExpire (c : Fin 8) (s : State) : Host.Outcome State Fault Refusal := .next (if s.hubUp then bdgRelease s c.val else s)

/-! ### Register writes -/

/-- A write of BDG_CFG. While EN is 1 only EN and KICK count; KICK is a request where the source is software. -/
def bdgCfgWrite (s : State) (c : Nat) (w : Word) : State :=
  let k := R.BDG_CFG.off + 0x20 * c
  let en := bitOn w.toNat 0
  let s1 :=
    if bdgOn s c then (if en then s else bdgDrop (setFld s 0 (fldAt R.BDG_CFG_EN c) 0) c)
    else let s2 := regWrite s k w; if en then bdgStart s2 c else s2
  if bitOn w.toNat 31 ∧ bdgReq s1 c = 7 then bdgRequest s1 c else s1

/-- A write of a channel register by the host or the hub processor (R512, R513): `o` is the offset within the channel. -/
def bdgWrite (s : State) (hub : Bool) (c o : Nat) (w : Word) : State :=
  if !hub && decide (5 ≤ c) then s
  else if o = 0xC then bdgCfgWrite s c w
  else if o = 0x18 then bdgRelease (regWrite s (0x70100 + 0x20 * c + o) w) c
  else if o = 0x1C then regWrite s (0x70100 + 0x20 * c + o) w
  else if bdgOn s c then s else regWrite s (0x70100 + 0x20 * c + o) w

/-- BDG_ENABLE: BDG_CFG is written with EN set, by the host or by Smiteale. -/
def execBdgEnable (c : Fin 8) (hub : Bool) (w : Word) (s : State) : Host.Outcome State Fault Refusal :=
  .next (if hostUp s then bdgWrite s hub c.val 0xC (w ||| 1#32) else s)

/-- BDG_DISABLE: BDG_CFG.EN is cleared. -/
def execBdgDisable (c : Fin 8) (hub : Bool) (s : State) : Host.Outcome State Fault Refusal :=
  .next (if hostUp s then bdgWrite s hub c.val 0xC (rdReg s (R.BDG_CFG.off + 0x20 * c.val) &&& ~~~1#32) else s)

/-- BDG_KICK: BDG_CFG is written as it stands with KICK. -/
def execBdgKick (c : Fin 8) (hub : Bool) (s : State) : Host.Outcome State Fault Refusal :=
  .next (if hostUp s then bdgWrite s hub c.val 0xC (rdReg s (R.BDG_CFG.off + 0x20 * c.val) ||| 0x80000000#32) else s)

/-! ### Bursts (R514–R518) -/

/-- Read a word for a channel from a source address; `ext` is what the UART or flash port delivers next. A port that is read beyond what it holds gives 0. -/
def bdgRead (s : State) (a : Nat) (ext : Word) : Word × State :=
  match bdgPort a with
  | some 0 =>
    let t := s.tad
    if t.portRd < t.port.length then (t.port.getD t.portRd 0, { s with tad := { t with portRd := t.portRd + 1 } }) else (0, s)
  | some _ => (ext, s)
  | none => (sget bdgDefault s.bdgMem (a / 4), s)

/-- Write a word to a destination address. -/
def bdgPut (s : State) (a : Nat) (w : Word) : State :=
  match bdgPort a with
  | some p => { s with out := s.out ++ [.bdgWord p w] }
  | none => { s with bdgMem := sset bdgDefault s.bdgMem (a / 4) w }

/-- The words of Owl records that a burst takes: each record gives 16; Smiteale receives the record (R437). -/
def owlWords (s : State) (n : Nat) : List Word × State :=
  match s.owlFifo.find? fun r => r.bdg with
  | none => ([], s)
  | some r =>
    let b := rawBytes s r
    ((List.range (min n 16)).map fun i => BitVec.ofNat 32 (fieldLe b (4 * i) 4),
     { s with owlFifo := owlTaken s.owlFifo r { r with bdg := false }, fwRaw := s.fwRaw ++ [r] })

/-- Move the words of a burst. -/
def bdgWords (src dst len p : Nat) (sInc dInc : Bool) (ext : List Word) (bad : List Nat) : List Nat → State → State
  | [], s => s
  | i :: t, s =>
    let pos := (p + i) % len
    let r := bdgRead s (if sInc then src + 4 * pos else src) (ext.getD i 0)
    let pois := bad.contains i
    let s1 := if pois then parity r.2 3 9 (if sInc then src + 4 * pos else src) else r.2
    bdgWords src dst len p sInc dInc ext bad t (bdgPut s1 (if dInc then dst + 4 * pos else dst) (if pois then 0xFFFFFFFF#32 else r.1))

/-- After a burst of n words from position p: position, interrupts, stuck line (R514, R515, R517). -/
def bdgAfter (s : State) (c p n : Nat) : State :=
  let len := fld s 0 (fldAt R.BDG_LEN_LEN c)
  let e := p + n
  let circ := fldOn s 0 (fldAt R.BDG_CFG_CIRC c)
  let hits := fun x => (List.range 66).any fun k => decide (p < x + k * len) && decide (x + k * len ≤ e)
  let half := fldOn s 0 (fldAt R.BDG_CFG_HALF_IE c) && hits (len / 2)
  let full := fldOn s 0 (fldAt R.BDG_CFG_FULL_IE c) && decide (len ≤ e)
  let s1 := setFld (count s 0 (fldAt R.BDG_BURST_COUNT c) 1) 0 (fldAt R.BDG_POS_P c) (if circ then e % len else e)
  let s2 := if half then setFld s1 0 (fldAt R.BDG_STAT_HALF c) 1 else s1
  let s3 := if full then setFld s2 0 (fldAt R.BDG_STAT_FULL c) 1 else s2
  let s4 := if half || full then raiseVec s3 (fld s3 0 (fldAt R.BDG_CFG_VEC c)) else s3
  let s5 := if !circ && decide (len ≤ e) then bdgDrop (setFld (setFld s4 0 (fldAt R.BDG_STAT_DONE c) 1) 0 (fldAt R.BDG_CFG_EN c) 0) c else s4
  let x := bdgOf s5 c
  let stuckN := fld s5 0 (fldAt R.BDG_INT_STUCK_N c)
  if x.line && !x.stuck && decide (stuckN ≠ 0) && decide (stuckN ≤ x.run) then
    raiseBit (count (modBdg s5 c fun x => { x with stuck := true }) 0 (fldAt R.BDG_STUCK_COUNT c) 1) 0 (fldAt R.BDG_STAT_STUCK c)
  else s5

/-- One burst of channel c. -/
def bdgBurst (s : State) (c : Nat) (ext : List Word) (bad : List Nat) : State :=
  let len := fld s 0 (fldAt R.BDG_LEN_LEN c)
  let p := fld s 0 (fldAt R.BDG_POS_P c)
  let b := fld s 0 (fldAt R.BDG_CFG_BURST c)
  let n := if fldOn s 0 (fldAt R.BDG_CFG_CIRC c) then b else min b (len - p)
  let src := fld s 0 (fldAt R.BDG_SRC_ADDR c)
  let s1 := { modBdg s c (fun x => { x with req := false, lastAt := some s.now, run := x.run + 1 }) with bdgLast := c }
  let o := if bdgPort src = some 5 then owlWords s1 n else (ext, s1)
  let s2 := bdgWords src (fld s 0 (fldAt R.BDG_DST_ADDR c)) len p (fldOn s 0 (fldAt R.BDG_CFG_SRC_INC c)) (fldOn s 0 (fldAt R.BDG_CFG_DST_INC c)) o.1 bad
    (List.range n) o.2
  let s3 := bdgAfter s2 c p n
  if (List.range n).any fun i => bad.contains i then bdgDrop (bdgError s3 c 2) c else s3

/-- Channels in the order of service: from the one after the channel served last. -/
def bdgOrder (s : State) : List Nat := (List.range 8).map fun i => (s.bdgLast + 1 + i) % 8

/-- BDG_BURST: the next channel with a request is served. `ext` are the words the UART or flash port delivers, `bad` the words that arrive poisoned. A
burst that R516 does not allow is held. -/
def execBdgBurst (ext : List Word) (bad : List Nat) (s : State) : Host.Outcome State Fault Refusal :=
  .next (if !s.hubUp then s
    else match (bdgOrder s).find? fun c => (bdgOf s c).req && bdgOn s c with
      | none => s
      | some c => if bdgBlocked s c then bdgHold s c else bdgBurst s c ext bad)

end Sys2Proof.Machine
end

