-- ==== Sys2Proof/Machine/Crypto.lean ====
section
/-! DEFINITION. SHA-512 (FIPS 180-4) and RSASSA-PSS verification with RSA-4096, exponent 65,537, SHA-512, MGF1 with SHA-512 and a 64-byte salt
(R475): the published algorithms that the spec names. -/

namespace Sys2Proof.Machine

/-- A 64-bit word of SHA-512. -/
abbrev W64 := BitVec 64

/-- Round constants 0 to 15. -/
def sha512K0 : List W64 := [
  0x428A2F98D728AE22#64, 0x7137449123EF65CD#64, 0xB5C0FBCFEC4D3B2F#64, 0xE9B5DBA58189DBBC#64,
  0x3956C25BF348B538#64, 0x59F111F1B605D019#64, 0x923F82A4AF194F9B#64, 0xAB1C5ED5DA6D8118#64,
  0xD807AA98A3030242#64, 0x12835B0145706FBE#64, 0x243185BE4EE4B28C#64, 0x550C7DC3D5FFB4E2#64,
  0x72BE5D74F27B896F#64, 0x80DEB1FE3B1696B1#64, 0x9BDC06A725C71235#64, 0xC19BF174CF692694#64]

/-- Round constants 16 to 31. -/
def sha512K1 : List W64 := [
  0xE49B69C19EF14AD2#64, 0xEFBE4786384F25E3#64, 0x0FC19DC68B8CD5B5#64, 0x240CA1CC77AC9C65#64,
  0x2DE92C6F592B0275#64, 0x4A7484AA6EA6E483#64, 0x5CB0A9DCBD41FBD4#64, 0x76F988DA831153B5#64,
  0x983E5152EE66DFAB#64, 0xA831C66D2DB43210#64, 0xB00327C898FB213F#64, 0xBF597FC7BEEF0EE4#64,
  0xC6E00BF33DA88FC2#64, 0xD5A79147930AA725#64, 0x06CA6351E003826F#64, 0x142929670A0E6E70#64]

/-- Round constants 32 to 47. -/
def sha512K2 : List W64 := [
  0x27B70A8546D22FFC#64, 0x2E1B21385C26C926#64, 0x4D2C6DFC5AC42AED#64, 0x53380D139D95B3DF#64,
  0x650A73548BAF63DE#64, 0x766A0ABB3C77B2A8#64, 0x81C2C92E47EDAEE6#64, 0x92722C851482353B#64,
  0xA2BFE8A14CF10364#64, 0xA81A664BBC423001#64, 0xC24B8B70D0F89791#64, 0xC76C51A30654BE30#64,
  0xD192E819D6EF5218#64, 0xD69906245565A910#64, 0xF40E35855771202A#64, 0x106AA07032BBD1B8#64]

/-- Round constants 48 to 63. -/
def sha512K3 : List W64 := [
  0x19A4C116B8D2D0C8#64, 0x1E376C085141AB53#64, 0x2748774CDF8EEB99#64, 0x34B0BCB5E19B48A8#64,
  0x391C0CB3C5C95A63#64, 0x4ED8AA4AE3418ACB#64, 0x5B9CCA4F7763E373#64, 0x682E6FF3D6B2B8A3#64,
  0x748F82EE5DEFB2FC#64, 0x78A5636F43172F60#64, 0x84C87814A1F0AB72#64, 0x8CC702081A6439EC#64,
  0x90BEFFFA23631E28#64, 0xA4506CEBDE82BDE9#64, 0xBEF9A3F7B2C67915#64, 0xC67178F2E372532B#64]

/-- Round constants 64 to 79. -/
def sha512K4 : List W64 := [
  0xCA273ECEEA26619C#64, 0xD186B8C721C0C207#64, 0xEADA7DD6CDE0EB1E#64, 0xF57D4F7FEE6ED178#64,
  0x06F067AA72176FBA#64, 0x0A637DC5A2C898A6#64, 0x113F9804BEF90DAE#64, 0x1B710B35131C471B#64,
  0x28DB77F523047D84#64, 0x32CAAB7B40C72493#64, 0x3C9EBE0A15C9BEBC#64, 0x431D67C49C100D4C#64,
  0x4CC5D4BECB3E42B6#64, 0x597F299CFC657E2A#64, 0x5FCB6FAB3AD6FAEC#64, 0x6C44198C4A475817#64]

/-- The round constants. -/
def sha512K : List W64 := sha512K0 ++ sha512K1 ++ sha512K2 ++ sha512K3 ++ sha512K4

/-- The initial hash value. -/
def sha512H : List W64 := [
  0x6A09E667F3BCC908#64, 0xBB67AE8584CAA73B#64, 0x3C6EF372FE94F82B#64, 0xA54FF53A5F1D36F1#64,
  0x510E527FADE682D1#64, 0x9B05688C2B3E6C1F#64, 0x1F83D9ABFB41BD6B#64, 0x5BE0CD19137E2179#64]

/-- Padding: a 1 bit, zeros, and the length in bits as a 128-bit big-endian number. -/
def sha512Pad (m : List Byte) : List Byte :=
  let n := m.length
  m ++ [0x80#8] ++ List.replicate ((239 - n % 128) % 128) 0 ++ (leBytes 16 (8 * n)).reverse

/-- Number of a big-endian octet string. -/
def beNat (l : List Byte) : Nat := l.foldl (fun a b => 256 * a + b.toNat) 0

/-- Message schedule: extend the last 16 words by one, `n` times; the newest word stands first. -/
def sha512Sched : Nat → List W64 → List W64
  | 0, w => w
  | n + 1, w =>
    let a := w.getD 14 0
    let b := w.getD 1 0
    let s0 := a.rotateRight 1 ^^^ a.rotateRight 8 ^^^ (a >>> 7)
    let s1 := b.rotateRight 19 ^^^ b.rotateRight 61 ^^^ (b >>> 6)
    sha512Sched n ((s1 + w.getD 6 0 + s0 + w.getD 15 0) :: w)

/-- One round. -/
def sha512Round (v : List W64) (kw : W64) : List W64 :=
  match v with
  | [a, b, c, d, e, f, g, h] =>
    let s1 := e.rotateRight 14 ^^^ e.rotateRight 18 ^^^ e.rotateRight 41
    let ch := (e &&& f) ^^^ (~~~e &&& g)
    let t1 := h + s1 + ch + kw
    let s0 := a.rotateRight 28 ^^^ a.rotateRight 34 ^^^ a.rotateRight 39
    let mj := (a &&& b) ^^^ (a &&& c) ^^^ (b &&& c)
    [t1 + (s0 + mj), a, b, c, d + t1, e, f, g]
  | _ => v

/-- Compress one 128-byte chunk. -/
def sha512Block (h : List W64) (chunk : List Byte) : List W64 :=
  let w0 := (List.range 16).map fun i => BitVec.ofNat 64 (beNat ((chunk.drop (8 * i)).take 8))
  let w := (sha512Sched 64 w0.reverse).reverse
  List.zipWith (· + ·) h ((List.zipWith (· + ·) sha512K w).foldl sha512Round h)

/-- SHA-512. -/
def sha512 (m : List Byte) : List Byte :=
  let p := sha512Pad m
  let h := (List.range (p.length / 128)).foldl (fun h i => sha512Block h ((p.drop (128 * i)).take 128)) sha512H
  h.flatMap fun x => (leBytes 8 x.toNat).reverse

/-- MGF1 with SHA-512: `n` bytes. -/
def mgf1 (seed : List Byte) (n : Nat) : List Byte :=
  ((List.range ((n + 63) / 64)).flatMap fun i => sha512 (seed ++ (leBytes 4 i).reverse)).take n

/-- x^(2^k) mod n. -/
def powSq : Nat → Nat → Nat → Nat
  | 0, x, n => x % n
  | k + 1, x, n => powSq k (x * x % n) n

/-- EMSA-PSS verification of a 512-byte encoded message whose modulus has 4,096 bits. -/
def pssCheck (mHash em : List Byte) : Bool :=
  let masked := em.take 447
  let h := (em.drop 447).take 64
  let db0 := List.zipWith (· ^^^ ·) masked (mgf1 h 447)
  let db := match db0 with
    | [] => []
    | b :: t => (b &&& 0x7F#8) :: t
  decide (em.length = 512) && decide (em.getD 511 0 = 0xBC#8) && decide ((masked.getD 0 0).toNat < 128) &&
    (db.take 382).all (fun b => decide (b = 0)) && decide (db.getD 382 0 = 1) &&
    decide (sha512 (List.replicate 8 0 ++ mHash ++ db.drop 383) = h)

/-- RSASSA-PSS verification (R475): modulus and signature are big-endian octet strings of 512 bytes. -/
def rsaVerify (modulus sig msg : List Byte) : Bool :=
  let n := beNat modulus
  let s := beNat sig
  if n < 2 ^ 4095 ∨ n ≤ s ∨ modulus.length ≠ 512 ∨ sig.length ≠ 512 then false
  else pssCheck (sha512 msg) ((leBytes 512 (powSq 16 s n * s % n)).reverse)

end Sys2Proof.Machine
end

