-- ==== Sys2Proof/Machine/CfgImage.lean ====
section
/-! DEFINITION. The configuration image (R398–R400, R483): its parsing, its checks, the routing check of R369 and the overlap check of R401. -/

namespace Sys2Proof.Machine

/-- Little-endian words of a byte list. -/
def wordsOf (b : List Byte) : List Word := (List.range (b.length / 4)).map fun i => BitVec.ofNat 32 (fieldLe b (4 * i) 4)

/-- Are the bytes of a range zero. -/
def zeroAt (b : List Byte) (off n : Nat) : Bool := ((b.drop off).take n).all fun x => decide (x = 0)

/-- n bytes from an offset. -/
def sub (b : List Byte) (off n : Nat) : List Byte := (b.drop off).take n

/-- Chunks of k bytes, n of them, from an offset. -/
def recs (b : List Byte) (off k n : Nat) : List (List Byte) := (List.range n).map fun i => sub b (off + k * i) k

/-- The components of the given kinds in order, each after its header of kind, length and 8 zero bytes; none where a header is wrong or bytes are left. -/
def splitComps : List Nat → List Byte → Option (List (List Byte))
  | [], b => if b.isEmpty then some [] else none
  | k :: ks, b =>
    let n := fieldLe b 4 4
    if b.length < 16 + n ∨ fieldLe b 0 4 ≠ k ∨ !zeroAt b 8 8 then none
    else (splitComps ks (b.drop (16 + n))).map fun t => sub b 16 n :: t

/-! ### The geometry table (R400) -/

/-- A module record. -/
def parseMod (r : List Byte) : GMod :=
  { id := fieldLe r 0 4 % 2 ^ 18, key := sub r 4 32,
    ports := (List.range 48).map fun p => let w := fieldLe r (36 + 4 * p) 4; (w % 2 ^ 18, w / 2 ^ 18 % 64, bitOn w 31),
    route := (fieldLe r 228 8, fieldLe r 236 4) }

/-- A bucket record with its contributors. -/
def parseBkt (r : List Byte) (cs : List Nat) : GBkt :=
  { bucket := fieldLe r 0 4, owner := fieldLe r 4 3 % 2 ^ 18, tree := fieldLe r 4 3 / 2 ^ 18, nslice := fieldLe r 7 1, succ := fieldLe r 8 3 % 2 ^ 18,
    mcFirst := fieldLe r 11 1, group := fieldLe r 12 2 % 4096, fmt := fieldLe r 14 1, outk := fieldLe r 15 1, pscale := fieldLe r 16 4, ptid := fieldLe r 20 4,
    pblk0 := fieldLe r 24 4, ltid := fieldLe r 28 4, lblk0 := fieldLe r 32 4, mtid := fieldLe r 36 4,
    contribs := (cs.drop (fieldLe r 40 4)).take (fieldLe r 44 4) }

/-- A placement record. -/
def parsePlace (r : List Byte) : GPlace := { tid := fieldLe r 0 4, cnt := fieldLe r 4 4, base := fieldLe r 8 8 % 2 ^ 48, stride := fieldLe r 16 4 }

/-- A route record. -/
def parseRoute (r : List Byte) : GRoute :=
  { entries := (List.range 1024).map fun i => fieldLe r (2 * i) 2,
    trees := (List.range 64).map fun t => let w := fieldLe r (2048 + 8 * t) 8; (w % 2 ^ 48, bitOn w 63),
    overrides := (List.range (fieldLe r 2560 4)).map fun i => let w := fieldLe r (2564 + 4 * i) 4; (w % 64, w / 64 % 1024, w / 65536) }

/-- Is a tensor scale finite, normal and non-zero. -/
def scaleOk (w : Nat) : Bool := decide (w / 2 ^ 23 % 256 ≠ 0) && decide (w / 2 ^ 23 % 256 ≠ 255)

/-- Are a bucket's fields in range (R318, R483). -/
def bktOk (g : GBkt) : Bool :=
  decide (1 ≤ g.nslice) && decide (g.nslice ≤ 64) && decide (g.mcFirst ≤ 23) && decide (g.fmt % 4 ≠ 3) && decide (g.fmt < 32) && decide (g.outk ≤ 8) && scaleOk g.pscale

/-- Does a placement lie within the stacks. -/
def placeOk (p : GPlace) : Bool := decide (p.cnt = 0) || decide (p.base + (p.cnt - 1) * p.stride + 9216 ≤ hbmEnd)

/-- The geometry table of a component, where it is well formed. -/
def parseGeom (b : List Byte) : Option Geom :=
  let m := fieldLe b 4 4
  let nb := fieldLe b 8 4
  let np := fieldLe b 12 4
  let nc := fieldLe b 16 4
  let oM := 64
  let oB := oM + 256 * m
  let oC := oB + 64 * nb
  let oP := oC + 4 * nc
  let oR := oP + 32 * np
  if b.length < oR ∨ fieldLe b 0 2 ≠ 1 ∨ 1 < fieldLe b 20 1 ∨ 1 < fieldLe b 22 1 ∨ !zeroAt b 2 2 ∨ !zeroAt b 23 1 ∨ !zeroAt b 32 32 then none
  else
    let mr := recs b oM 256 m
    let br := recs b oB 64 nb
    let pr := recs b oP 32 np
    let cs := (recs b oC 4 nc).map fun r => leNat r % 2 ^ 18
    let mods := mr.map parseMod
    let bkts := br.map fun r => parseBkt r cs
    let places := pr.map parsePlace
    let routeLen := (mods.map fun x => x.route.2).foldl (· + ·) 0
    let routeOk := mods.all fun x => decide (oR ≤ x.route.1) && decide (x.route.1 + x.route.2 ≤ b.length) && decide (2564 ≤ x.route.2) &&
      decide (x.route.2 = 2564 + 4 * fieldLe b (x.route.1 + 2560) 4)
    let pads := (mr.all fun r => zeroAt r 240 16) && (br.all fun r => zeroAt r 48 16) && (pr.all fun r => zeroAt r 20 12)
    let runs := br.all fun r => decide (fieldLe r 40 4 + fieldLe r 44 4 ≤ nc)
    let has := fun t => places.any fun p => decide (p.tid = t)
    if b.length ≠ oR + routeLen ∨ !routeOk ∨ !pads ∨ !runs ∨ !(bkts.all bktOk) ∨ !(bkts.all fun g => has g.ptid && has g.ltid) ∨ !(places.all placeOk) then none
    else some { retain := fieldLe b 20 1, ns := fieldLe b 21 1, bwd := fieldLe b 22 1, pairOfs := fieldLe b 24 8 % 2 ^ 48, mods := mods, bkts := bkts,
                places := places, routes := mods.map fun x => (x.id, parseRoute (sub b x.route.1 x.route.2)) }

/-- Are the exchange parameters in the ranges of R399. -/
def xchOk (p : List Word) : Bool :=
  let w := fun i => (p.getD i 0).toNat
  let q := w 0 / 65536 % 1024
  let t := w 1 % 2 ^ 24
  let r := w 2 % 2 ^ 20
  let o := w 3 / 65536 % 1024
  decide (1 ≤ q) && decide (q ≤ 1000) && decide (10 ≤ t) && decide (t ≤ 10000000) && decide (100 ≤ r) && decide (r ≤ 1000000) && decide (1 ≤ o) && decide (o ≤ 1000)

/-- The defined bits of the XCH_PARAM words. -/
def xchMask (p : List Word) : List Word := (p.zip [0x03FF03FF#32, 0x00FFFFFF#32, 0x000FFFFF#32, 0x03FF00FF#32]).map fun x => x.1 &&& x.2

/-- The configuration set of an image, where it is well formed (R483). -/
def parseImage (img : List Byte) : Option CfgSet :=
  match splitComps [1, 2, 3, 4, 5, 6] img with
  | some [fw, geo, grp, fp, cp, xp] =>
    if fw.length ≠ 64 ∨ grp.length ≠ 264192 ∨ fp.length ≠ 64 ∨ cp.length ≠ 32 ∨ xp.length ≠ 32 ∨ !zeroAt fp 40 24 ∨ !zeroAt cp 24 8 ∨ !zeroAt xp 16 16 ∨
        !xchOk (wordsOf (xp.take 16)) then none
    else (parseGeom geo).map fun g =>
      { digest := sha512 img, fw := fw, geom := g, grp := wordsOf (grp.take 262144), progs := wordsOf (grp.drop 262144), fmtPol := wordsOf (fp.take 40),
        calPol := wordsOf (cp.take 24), xch := xchMask (wordsOf (xp.take 16)) }
  | _ => none

/-! ### Overlap of paired tensors (R401) -/

/-- Does a paired tensor overlap its own second copy: some block of one lies within 9,216 bytes of a block of the other. -/
def pairOverlap (ofs : Nat) (p : GPlace) : Bool :=
  let k := min (if p.stride = 0 then p.cnt - 1 else ofs / p.stride) (p.cnt - 1)
  decide (2 ^ 31 ≤ p.tid) && decide (0 < p.cnt) &&
  (decide ((ofs : Int) - k * p.stride < 9216) || (decide (k + 1 ≤ p.cnt - 1) && decide (((k + 1) * p.stride : Int) - ofs < 9216)))

/-! ### The routing check (R369) -/

/-- A channel: a module's port, outwards. -/
abbrev Chan := Nat × Nat

/-- The module and port at the other end of a channel. -/
def chanPeer (g : Geom) (c : Chan) : Option Chan :=
  (g.mods.find? fun m => decide (m.id = c.1)).bind fun m => match m.ports[c.2]? with
    | some (pm, pp, true) => some (pm, pp)
    | _ => none

/-- Routes of a module. -/
def routeOf (g : Geom) (m : Nat) : GRoute := ((g.routes.find? fun r => decide (r.1 = m)).map (·.2)).getD { entries := [], trees := [], overrides := [] }

/-- Valid ports of an entry: primary and alternate. -/
def entryPorts (e : Nat) : List Nat := (if bitOn e 7 then [e % 64] else []) ++ (if bitOn e 15 then [e / 256 % 64] else [])

/-- The entry of a module for a destination, at an ingress port or, with none, in the local table. -/
def entryAt (g : Geom) (m : Nat) (ingress : Option Nat) (dest : Nat) : Nat :=
  let r := routeOf g m
  let i := if dest / 512 = m / 512 then 512 + dest % 512 else dest / 512
  match ingress.bind fun q => r.overrides.find? fun o => decide (o.1 = q) && decide (o.2.1 = i) with
  | some o => o.2.2
  | none => r.entries.getD i 0

/-- Channels a packet for a destination leaves a module by. -/
def outChans (g : Geom) (m : Nat) (ingress : Option Nat) (dest : Nat) : List Chan := (entryPorts (entryAt g m ingress dest)).map fun p => (m, p)

/-- Channels that routes to a destination use, from those known, and the edges between them. -/
def followRoutes (g : Geom) (dest : Nat) : Nat → List Chan → List Chan → List (Chan × Chan) → List (Chan × Chan)
  | 0, _, _, es => es
  | _, [], _, es => es
  | f + 1, c :: todo, seen, es =>
    match chanPeer g c with
    | none => followRoutes g dest f todo seen es
    | some (m, q) =>
      let nx := if m = dest then [] else outChans g m (some q) dest
      followRoutes g dest f (todo ++ nx.filter fun x => !seen.contains x) (seen ++ nx.filter fun x => !seen.contains x) (es ++ nx.map fun x => (c, x))

/-- Edges of the unicast classes. -/
def unicastEdges (g : Geom) : List (Chan × Chan) :=
  g.mods.flatMap fun d =>
    let src := ((g.mods.filter fun m => decide (m.id ≠ d.id)).flatMap fun m => outChans g m.id none d.id).eraseDups
    followRoutes g d.id (48 * g.mods.length + 64 * g.mods.length + 1) src src []

/-- Members of a tree with their masks. -/
def treeMembers (g : Geom) (t : Nat) : List (Nat × Nat) :=
  g.mods.filterMap fun m => match (routeOf g m.id).trees[t]? with
    | some (mask, true) => some (m.id, mask)
    | _ => none

/-- Channels of a tree. -/
def treeChans (g : Geom) (t : Nat) : List Chan := (treeMembers g t).flatMap fun m => ((List.range 48).filter fun p => bitOn m.2 p).map fun p => (m.1, p)

/-- Modules reached from those known over a tree's channels. -/
def treeReach (g : Geom) (cs : List Chan) : Nat → List Nat → List Nat
  | 0, l => l
  | f + 1, l => treeReach g cs f ((l ++ (cs.filter fun c => l.contains c.1).filterMap fun c => (chanPeer g c).map (·.1)).eraseDups)

/-- Do the masks of a tree form one spanning tree of its members: every channel's far end is a channel of the tree, there is one link fewer than
members, and all are reached. -/
def treeOk (g : Geom) (t : Nat) : Bool :=
  let ms := treeMembers g t
  let cs := treeChans g t
  ms.isEmpty || ((cs.all fun c => match chanPeer g c with | some d => cs.contains d | none => false) && decide (cs.length + 2 = 2 * ms.length) &&
    (ms.all fun m => (treeReach g cs ms.length [(ms.headD (0, 0)).1]).contains m.1))

/-- Edges of the broadcast class: in by one channel of a tree, out by every other. -/
def treeEdges (g : Geom) : List (Chan × Chan) :=
  (List.range 64).flatMap fun t =>
    let cs := treeChans g t
    cs.flatMap fun c => match chanPeer g c with
      | some (m, q) => (cs.filter fun x => decide (x.1 = m) && decide (x.2 ≠ q)).map fun x => (c, x)
      | none => []

/-- Is a graph without cycles: nodes with no way out are taken away until none is left. -/
def acyclic : Nat → List Chan → List (Chan × Chan) → Bool
  | 0, ns, _ => ns.isEmpty
  | f + 1, ns, es =>
    let keep := ns.filter fun n => es.any fun e => decide (e.1 = n)
    if keep.length = ns.length then ns.isEmpty else acyclic f keep (es.filter fun e => keep.contains e.2)

/-- Nodes of a graph's edges. -/
def nodesOf (es : List (Chan × Chan)) : List Chan := (es.flatMap fun e => [e.1, e.2]).eraseDups

/-- Does every entry and override name a port the module has. -/
def portsOk (g : Geom) : Bool :=
  g.routes.all fun r => (r.2.entries ++ r.2.overrides.map (·.2.2)).all fun e => (entryPorts e).all fun p => decide (p < 48)

/-- The check of R369. -/
def routesOk (g : Geom) : Bool :=
  let u := unicastEdges g
  let b := treeEdges g
  portsOk g && acyclic ((nodesOf u).length + 1) (nodesOf u) u && (List.range 64).all (treeOk g) && acyclic ((nodesOf b).length + 1) (nodesOf b) b

end Sys2Proof.Machine
end

