-- ==== Sys2Proof/Machine/Calib.lean ====
section
/-! DEFINITION. The calibration unit (chapter 05): sweeps, hold copies, expected sums, fits, trims, commits, column repair; and the completion
of a sett handover, which may let a sweep start (R145, R171). -/

namespace Sys2Proof.Machine

/-- Base of the CAL_ window of one array: registers selected by CAL_ARR_SEL stand once per array (R163). -/
def calBase (n a : Nat) : Nat := tileBase n + 0x1C000 + a * 0x4000

/-- Sett bank of the hold copy (R145): values above 47 act as 47. -/
def holdBank (s : State) (n : Nat) : Nat := min 47 (fld s (tileBase n) R.CAL_HOLD_BANK)

/-- Is a sweep in progress or waiting for its bank. -/
def sweeping (s : State) (n : Nat) : Bool := fldOn s (tileBase n) R.CAL_STATUS_BUSY || fldOn s (tileBase n) R.CAL_STATUS_HOLD_WAIT

/-- The first enabled array at or after `a` (R151). -/
def enabledFrom (s : State) (n a : Nat) : Option Nat :=
  (List.range 16).find? fun i => decide (a ≤ i) && fldOn s (arrBase n i) R.ARR_CTRL_ENABLE

/-- Read the payloads of the planes that hold content into the hold copy, from their recorded sources (R145). -/
def holdReads (s : State) (n a : Nat) : State :=
  [false, true].foldl (fun s b =>
    let st := planeState s n a b
    let r := srcOf s n a b
    if (st = psReady ∨ st = psActive) ∧ hasSrc r then
      (addJob (count s (tileBase n) R.CAL_HOLD_READ 1) n none (.hold a b) false none 0 ((srcBlks r).take 16)).1
    else s) s

/-- The measurement of array a begins, or waits for the hold bank (R145, R151). -/
def startArray (s : State) (n a : Nat) : State :=
  let tb := tileBase n
  let s1 := setFld s tb R.CAL_STATUS_ARRAY a
  if ownsBank s1 n 5 (holdBank s1 n) then
    let s2 := if fldOn s1 tb R.CAL_STATUS_BUSY then s1 else count (setFld s1 tb R.CAL_STATUS_BUSY 1) tb R.CAL_SWEEP_CNT 1
    holdReads (modTile (setFld s2 tb R.CAL_STATUS_HOLD_WAIT 0) n fun t =>
      { t with cal := { calFresh t.cal with arr := a, began := s.now, subs := [], points := [], nofit := [] } }) n a
  else setFld s1 tb R.CAL_STATUS_HOLD_WAIT 1

/-- Ask for a commit: at the next launch boundary (R155). -/
def askCommit (s : State) (n : Nat) (sweep : Bool) : State :=
  modTile s n fun t => { t with cal := { t.cal with cmtDue := some (t.cal.cmtDue.getD s.now), fromSweep := t.cal.fromSweep || sweep } }

/-- The sweep ends when its last array is staged (R151, R157). -/
def endSweep (s : State) (n : Nat) : State :=
  let tb := tileBase n
  let s1 := setFld s tb R.CAL_STATUS_BUSY 0
  let held := (tileAt s1 n).cal.cmtHeld
  let s2 := modTile s1 n fun t => { t with cal := { t.cal with cmtHeld := false } }
  if fldOn s2 tb R.CAL_CTRL_AUTO_CMT || held then askCommit s2 n true
  else modTile (setFld s2 tb R.CAL_STATUS_STAGED 1) n fun t => { t with cal := { t.cal with fromSweep := true } }

/-- Go on with the first enabled array at or after `a`, or end the sweep. -/
def nextArray (s : State) (n a : Nat) : State :=
  match enabledFrom s n a with
  | some i => startArray s n i
  | none => if fldOn s (tileBase n) R.CAL_STATUS_BUSY then endSweep s n else s

/-- Is a sweep in progress, or does one await its commit (R152). -/
def sweepHolds (s : State) (n : Nat) : Bool := sweeping s n || (tileAt s n).cal.fromSweep

/-- A trigger of a sweep (R152): it starts one, or is held while one is in progress or awaits its commit. -/
def calTrigger (s : State) (n : Nat) : State :=
  let tb := tileBase n
  if !fldOn s tb R.CAL_CTRL_ENABLE then s
  else if sweepHolds s n then setFld s tb R.CAL_STATUS_PEND 1
  else nextArray (modTile s n fun t => { t with cal := { t.cal with staged := false, failing := [] } }) n 0

/-- A held trigger starts a sweep once the one before has committed or aborted (R152). -/
def calPending (s : State) (n : Nat) : State :=
  if fldOn s (tileBase n) R.CAL_STATUS_PEND then calTrigger (setFld s (tileBase n) R.CAL_STATUS_PEND 0) n else s

/-- CAL_START: a host write of CAL_CMD.START (R152). -/
def execCalStart (t : Fin 64) (s : State) : Host.Outcome State Fault Refusal := .next (if hostUp s then calTrigger s (phys s t) else s)

/-- CAL_AGE_TRIGGER: the ageing count reaches its limit (R152). -/
def execCalAgeTrigger (t : Fin 64) (s : State) : Host.Outcome State Fault Refusal :=
  let n := phys s t
  let tb := tileBase n
  .next (if fldOn s tb R.CAL_CTRL_AGE_EN && decide (max 1 (fld s tb R.CAL_AGE_UNITS) ≤ fld s tb R.CAL_AGE_CNT_COUNT) then calTrigger s n else s)

/-- The condition of the temperature trigger (R152) at a temperature in 1/16 °C. -/
def tempAway (s : State) (n : Nat) (temp : Int) : Bool :=
  let tb := tileBase n
  fldOn s tb R.CAL_CTRL_TEMP_EN && decide (clampN 8 256 (fld s tb R.CAL_TRIG_DT) < (temp - fldInt s tb R.CAL_LAST_TEMP_TEMP).natAbs)

/-- The temperature trigger (R152), tested where a new reading reaches the tile. It arises during a sweep only where the reading before, `old`,
did not meet its condition. -/
def calTempCheck (s : State) (n : Nat) (old : Int) : State :=
  if !tempAway s n (sext 16 (fld s (arrBase n 0) R.ARR_TEMP_TEMP)) then s
  else if sweepHolds s n && tempAway s n old then s
  else calTrigger s n

/-- A commit command (R155, R157): held while a sweep runs. -/
def calCommit (s : State) (n : Nat) : State :=
  if fldOn s (tileBase n) R.CAL_STATUS_BUSY then modTile s n fun t => { t with cal := { t.cal with cmtHeld := true } }
  else askCommit s n false

/-- CAL_COMMIT. -/
def execCalCommit (t : Fin 64) (s : State) : Host.Outcome State Fault Refusal := .next (if hostUp s then calCommit s (phys s t) else s)

/-- An abort (R154): what the sweep staged stays staged. -/
def calAbort (s : State) (n : Nat) : State :=
  let tb := tileBase n
  if !sweeping s n then s
  else
    let st := (tileAt s n).cal.staged
    let s1 := setFld (setFld s tb R.CAL_STATUS_BUSY 0) tb R.CAL_STATUS_HOLD_WAIT 0
    let s2 := ((tileAt s1 n).jobs.filter fun j => match j.kind with | .hold _ _ => true | _ => false).foldl (fun s j => dropJob s n j.id) s1
    let s3 := modTile s2 n fun t => { t with cal := { calFresh t.cal with subs := [], points := [], cmtHeld := false } }
    calPending (if st then setFld s3 tb R.CAL_STATUS_STAGED 1 else s3) n

/-- CAL_ABORT. -/
def execCalAbort (t : Fin 64) (s : State) : Host.Outcome State Fault Refusal := .next (if hostUp s then calAbort s (phys s t) else s)

/-! ### Expected sums and points (R144) -/

/-- A weight code from the hold copy (R145): plane A in the first half of the bank. -/
def holdCode (t : Tile) (bank : Nat) (b : Bool) (row col : Nat) : Int :=
  let e := 512 * col + row
  let byte := (settByte t (bank * 262144 + (if b then 131072 else 0) + e / 2)).toNat
  (fvalRat (codeVal .b4g512 (byte / 16 ^ (e % 2) % 16)).1).num

/-- Points of one closed sub-window: each converter with passes and no mark gets its measured and expected sums, the expected ones in 1/64
code. -/
def subPoints (s : State) (n : Nat) (c : CalSub) : List (Nat × CalPoint) :=
  let t := tileAt s n
  let bank := holdBank s n
  let a := fld s (tileBase n) R.CAL_STATUS_ARRAY
  let cks := (planeOf (arrAt t a) c.planeB).cks
  let base := if c.tr then 1024 else 0
  let sline := fun (i : Nat) => sget (fun _ => (0 : Int)) c.sumS (if c.tr then i else 1024 + i)
  let dot := fun (f : Nat → Int) => (List.range 512).foldl (fun acc i => let x := sline i; if x = 0 then acc else acc + x * f i) 0
  let mk := fun (k : Nat) (x : Int) =>
    let p := sget (fun _ => 0) c.sumP k
    if p = 0 ∨ c.marks.contains k then none else some (k, { m := sget (fun _ => (0 : Int)) c.sumM k, x := x, p := p : CalPoint })
  ((List.range 512).filterMap fun j => mk (base + j) (dot fun i => if c.tr then holdCode t bank c.planeB j i else holdCode t bank c.planeB i j)) ++
    (if c.tr then [] else (mk 520 (64 * dot fun i => sget (fun _ => (0 : Int)) cks i)).toList)

/-- Add points to the converters' lists; a column whose remap changed takes none (R161). -/
def addPoints (c : CalUnit) (ps : List (Nat × CalPoint)) : CalUnit :=
  { c with points := ps.foldl (fun l p => if c.nofit.contains p.1 then l else sset (fun _ => []) l p.1 (sget (fun _ => []) l p.1 ++ [p.2])) c.points }

/-- CAL_PRODUCT: between two DME operations the DME forms the expected sums of the oldest kept sub-window (R144, R179), once the hold copy is
complete. -/
def calProduct (s : State) (n : Nat) : State :=
  let t := tileAt s n
  match t.cal.subs with
  | [] => s
  | c :: rest =>
    if t.jobs.any fun j => match j.kind with | .hold _ _ => true | _ => false then s
    else
      let ps := subPoints s n c
      count (modTile s n fun x => { x with cal := { addPoints x.cal ps with subs := rest } }) (tileBase n) R.DME_CAL_TC 16

/-- CAL_PRODUCT. -/
def execCalProduct (t : Fin 64) (s : State) : Host.Outcome State Fault Refusal := .next (calProduct s (phys s t))

/-! ### Fits (R146–R150) -/

/-- A fit: gain, offset, squared residual. -/
structure Fit where
  g : Rat
  o : Rat
  e2 : Rat
  deriving DecidableEq, Repr

/-- Least squares over a converter's points (R147): none where the spread is below MIN_SPREAD, in 1/16 code. -/
def fitOf (minSpread : Nat) (ps : List CalPoint) : Option Fit :=
  let k : Rat := (ps.length : Rat)
  let es := ps.map fun p => (p.x : Rat) / (64 * (p.p : Rat))
  let ms := ps.map fun p => (p.m : Rat) / (p.p : Rat)
  let eb := es.foldl (· + ·) 0 / k
  let mb := ms.foldl (· + ·) 0 / k
  let see := es.foldl (fun a e => a + (e - eb) * (e - eb)) 0
  let sem := (es.zip ms).foldl (fun a p => a + (p.1 - eb) * (p.2 - mb)) 0
  if see / k < ((minSpread : Rat) / 16) * ((minSpread : Rat) / 16) then none
  else
    let g := sem / see
    let o := mb - g * eb
    some { g := g, o := o, e2 := (es.zip ms).foldl (fun a p => let d := p.2 - g * p.1 - o; a + d * d) 0 / k }

/-- Reason 1 or 3 of R148; 0 none. -/
def fitReason (resid : Nat) (f : Fit) : Nat :=
  if ((resid : Rat) / 64) * ((resid : Rat) / 64) < f.e2 then 1 else if f.g < 1 / 2 ∨ 3 / 2 < f.g then 3 else 0

/-- Insert into an ascending list. -/
def insRat (q : Rat) : List Rat → List Rat
  | [] => [q]
  | x :: t => if q < x then q :: x :: t else x :: insRat q t

/-- The median (R150): the mean of the two middle values of an even number. -/
def median (l : List Rat) : Rat :=
  let o := l.foldl (fun acc q => insRat q acc) []
  if o.length % 2 = 1 then o.getD (o.length / 2) 1 else (o.getD (o.length / 2 - 1) 1 + o.getD (o.length / 2) 1) / 2

/-- Nearest integer of a square root in 1/64 code, saturating at 255 (R164). -/
def residField (e2 : Rat) : Nat := min 255 ((isqrt (4 * 4096 * e2).floor.toNat + 1) / 2)

/-- A value for a field of `bits` bits; one that the field cannot hold is free (R164 states none). -/
def fitField (free bits : Nat) (v : Int) : Nat :=
  if -(2 ^ (bits - 1) : Int) ≤ v ∧ v < (2 ^ (bits - 1) : Int) then tc bits v else (Config.freeWord free).toNat % 2 ^ bits

/-- The fit result word of R164. -/
def fitWord (free : Nat) (f : Fit) (reason : Nat) : Word :=
  BitVec.ofNat 32 (2 ^ 31 + (if reason = 0 then 0 else 2 ^ 30) + reason * 2 ^ 28 + fitField free 12 (rneInt (10000 * (f.g - 1))) * 2 ^ 16 +
    fitField (free + 1) 8 (rneInt (16 * f.o)) * 2 ^ 8 + residField f.e2)

/-- Staged trim register and fit register of a converter of array a (R163, R164): a column that a spare carries has the spare's trims. -/
def convRegs (s : State) (n a c : Nat) : Nat × Nat :=
  let b := calBase n a
  if 1024 ≤ c then (b + (fldAt R.CAL_ROW_STG (c - 1024)).off, b + (fldAt R.CAL_ROW_FIT (c - 1024)).off)
  else if c = 520 then (b + R.CAL_CS_STG.off, b + R.CAL_CS_FIT.off)
  else
    let p := planeOf (arrAt (tileAt s n) a) (actB s n a)
    (match p.remap.find? fun q => decide (q.2 = c) with
      | some q => b + (fldAt R.CAL_SPARE_STG q.1).off
      | none => b + (fldAt R.CAL_COL_STG c).off, b + (fldAt R.CAL_COL_FIT c).off)

/-- Judge and stage one converter (R147, R148, R150). -/
def stageConv (s : State) (n a : Nat) (G : Option Rat) (c : Nat) : State :=
  let tb := tileBase n
  let ps := sget (fun _ => []) (tileAt s n).cal.points c
  let regs := convRegs s n a c
  if ps.length < 8 then wrReg (count s tb R.CAL_FIT_SKIP 1) regs.2 0
  else
    match fitOf (max 1 (fld s tb R.CAL_TH_MIN_SPREAD)) ps with
    | none => raiseBit (wrReg (count s tb R.CAL_FIT_SKIP 1) regs.2 0) tb R.CAL_STATUS_NO_SPREAD
    | some f =>
      let r0 := fitReason (max 1 (fld s tb R.CAL_TH_RESID)) f
      let w := (rdReg s regs.1).toNat
      let gain := sext 6 (w / 256 % 64) + (match G with | some q => rneInt (1000 * (q / f.g - 1)) | none => 0)
      let off := sext 6 (w % 64) + rneInt (-16 * f.o)
      let r := if r0 ≠ 0 then r0 else if gain < -32 ∨ 31 < gain ∨ off < -32 ∨ 31 < off then 2 else 0
      let s1 := wrReg { s with freeCtr := s.freeCtr + 2 } regs.2 (fitWord s.freeCtr f r)
      if r = 0 then
        modTile (wrReg s1 regs.1 (BitVec.ofNat 32 (tc 6 gain * 256 + tc 6 off))) n fun t => { t with cal := { t.cal with staged := true } }
      else
        let row : Bool := decide (512 ≤ c)
        let s2 := raiseBit (count s1 tb R.CAL_FAIL_CNT 1) tb (if row then R.CAL_STATUS_FAIL_ROW else R.CAL_STATUS_FAIL_COL)
        if row then s2 else modTile s2 n fun t => { t with cal := { t.cal with failing := t.cal.failing ++ [(a, c)] } }

/-- The gains of the fitted, non-failing column converters (R150). -/
def goodGains (s : State) (n : Nat) : List Rat :=
  let tb := tileBase n
  (List.range 512).filterMap fun c =>
    let ps := sget (fun _ => []) (tileAt s n).cal.points c
    if ps.length < 8 then none
    else match fitOf (max 1 (fld s tb R.CAL_TH_MIN_SPREAD)) ps with
      | some f => if fitReason (max 1 (fld s tb R.CAL_TH_RESID)) f = 0 then some f.g else none
      | none => none

/-- Stage the reference trim (R150 steps 1, 2 and 5). -/
def stageRef (s : State) (n a : Nat) (G : Option Rat) : State :=
  match G with
  | none => s
  | some g =>
    let tb := tileBase n
    let v := fldInt s (calBase n a) R.CAL_REF_STG_REF + rneInt (1000 * (1 / g - 1))
    let s1 := setFld s (calBase n a) R.CAL_REF_STG_REF (tc 8 (clampI (-128) 127 v))
    let s2 := if v < -128 ∨ 127 < v then raiseBit (count s1 tb R.CAL_TRIM_LIM 1) tb R.CAL_STATUS_TRIM_LIM else s1
    modTile s2 n fun t => { t with cal := { t.cal with staged := true } }

/-- Has every column converter its points (R146). -/
def enoughPoints (s : State) (n : Nat) : Bool :=
  (List.range 512).all fun c => decide (max 8 (fld s (tileBase n) R.CAL_WIN_NSUB) ≤ (sget (fun _ => []) (tileAt s n).cal.points c).length)

/-- MEASUREMENT_END: the array's measurement ends at NSUB points or at TIMEOUT ms; its converters are fitted and staged, and the next array
follows (R146–R151). A failing row or checksum converter makes the tile suspect (R162, R426). -/
def measurementEnd (s : State) (n : Nat) : State :=
  let tb := tileBase n
  let c := (tileAt s n).cal
  let due := enoughPoints s n || decide (c.began + max 1 (fld s tb R.CAL_WIN_TIMEOUT) * tcMs ≤ s.now)
  if !fldOn s tb R.CAL_STATUS_BUSY || fldOn s tb R.CAL_STATUS_HOLD_WAIT || !due || decide (c.subs ≠ []) then s
  else
    let a := fld s tb R.CAL_STATUS_ARRAY
    let G := match goodGains s n with
      | [] => none
      | l => some (median l)
    let s1 := stageRef s n a G
    let cs := (List.range 512) ++ [520] ++ (if fldOn s tb R.CAL_CTRL_ROWS_EN then (List.range 512).map (1024 + ·) else [])
    let s2 := cs.foldl (fun s c => stageConv s n a G c) s1
    let bad := cs.any fun c => decide (512 ≤ c) && bitOn (rdReg s2 (convRegs s2 n a c).2).toNat 30
    nextArray (if bad then suspect s2 n 3 else s2) n (a + 1)

/-- MEASUREMENT_END. -/
def execMeasurementEnd (t : Fin 64) (s : State) : Host.Outcome State Fault Refusal := .next (measurementEnd s (phys s t))

/-! ### Commit, repair and flash -/

/-- Staged and active register of every trim of one array (R163), by offset. -/
def trimPairs : List (Nat × Nat) :=
  [(R.CAL_REF_STG.off, R.CAL_REF_ACT.off), (R.CAL_CS_STG.off, R.CAL_CS_ACT.off)] ++
  ((List.range 8).map fun k => ((fldAt R.CAL_SPARE_STG k).off, (fldAt R.CAL_SPARE_ACT k).off)) ++
  ((List.range 512).map fun j => ((fldAt R.CAL_COL_STG j).off, (fldAt R.CAL_COL_ACT j).off)) ++
  ((List.range 512).map fun i => ((fldAt R.CAL_ROW_STG i).off, (fldAt R.CAL_ROW_ACT i).off))

/-- Copy every staged trim of a tile into its active copy (R155). -/
def copyTrims (s : State) (n : Nat) : State :=
  (List.range 16).foldl (fun s a => trimPairs.foldl (fun s p => wrReg s (calBase n a + p.2) (rdReg s (calBase n a + p.1))) s) s

/-- Points of a column are discarded where its remap changes during the sweep of its array (R161). -/
def discardPoints (s : State) (n a : Nat) (cols : List Nat) : State :=
  if sweeping s n && decide (fld s (tileBase n) R.CAL_STATUS_ARRAY = a) then
    modTile s n fun t => { t with cal := { t.cal with nofit := t.cal.nofit ++ cols, points := cols.foldl (fun l c => sset (fun _ => []) l c []) t.cal.points } }
  else s

/-- Do two valid entries of an array name one column (R160). -/
def remapDup (s : State) (n a : Nat) : Bool :=
  (List.range 8).any fun k => (List.range k).any fun i =>
    fldOn s (calBase n a) (fldAt R.CAL_REMAP_VALID k) && fldOn s (calBase n a) (fldAt R.CAL_REMAP_VALID i) &&
      decide (fld s (calBase n a) (fldAt R.CAL_REMAP_COL k) = fld s (calBase n a) (fldAt R.CAL_REMAP_COL i))

/-- Write VALID and COL of CAL_REMAPk (R159–R161). -/
def setRemap (s : State) (n a k : Nat) (valid : Bool) (col : Nat) : State :=
  let b := calBase n a
  let old := fld s b (fldAt R.CAL_REMAP_COL k)
  let s1 := setFld (setBit s b (fldAt R.CAL_REMAP_VALID k) valid) b (fldAt R.CAL_REMAP_COL k) col
  let s2 := if rdReg s1 (b + (fldAt R.CAL_REMAP k).off) = rdReg s (b + (fldAt R.CAL_REMAP k).off) then s1 else discardPoints s1 n a [old, col]
  raiseIf (remapDup s2 n a) s2 (tileBase n) R.CAL_STATUS_REMAP_DUP

/-- Request a refresh of both planes of an array (R159). -/
def remapRfsh (s : State) (n a : Nat) : State :=
  [false, true].foldl (fun s b => if ages (planeState s n a b) && hasSrc (srcOf s n a b) then wantRefresh s n a b else s) s

/-- CAL_REMAP: a host write of CAL_REMAPk of an array. -/
def execCalRemap (t : Fin 64) (a : Fin 16) (k : Fin 8) (valid : Bool) (col : Fin 512) (s : State) : Host.Outcome State Fault Refusal :=
  .next (if hostUp s then setRemap s (phys s t) a k valid col else s)

/-- REMAP_RFSH: a host write of CAL_REMAPk.RFSH. -/
def execRemapRfsh (t : Fin 64) (a : Fin 16) (s : State) : Host.Outcome State Fault Refusal :=
  .next (if hostUp s then remapRfsh s (phys s t) a else s)

/-- Map failing data columns to free spares after a commit (R162). -/
def autoRemap (s : State) (n : Nat) : List (Nat × Nat) → State
  | [] => s
  | (a, c) :: rest =>
    let b := calBase n a
    let s0 := match (List.range 8).find? fun k => fldOn s b (fldAt R.CAL_REMAP_VALID k) && decide (fld s b (fldAt R.CAL_REMAP_COL k) = c) with
      | some k => setBit s b (fldAt R.CAL_REMAP_VALID k) false
      | none => s
    match (List.range 8).find? fun k => !fldOn s b (fldAt R.CAL_REMAP_VALID k) with
    | some k => autoRemap (remapRfsh (count (setRemap s0 n a k true c) (tileBase n) R.CAL_REMAP_CNT 1) n a) n rest
    | none => autoRemap (suspect (raiseBit s (tileBase n) R.CAL_STATUS_NO_SPARE) n 3) n rest

/-- Has a launch boundary, a count that is a multiple of 64, come after a moment (R155). -/
def boundaryAfter (s : State) (t0 : Nat) : Bool :=
  match s.launchAt with
  | none => false
  | some l => decide ((if t0 < l then l else l + 256 * ((t0 - l) / 256 + 1)) ≤ s.now)

/-- TRIM_COMMIT_APPLY: the commit takes place at its launch boundary (R153, R155, R162). -/
def trimCommitApply (s : State) (n : Nat) : State :=
  let tb := tileBase n
  let c := (tileAt s n).cal
  match c.cmtDue with
  | none => s
  | some t0 =>
    if !boundaryAfter s t0 then s
    else
      let s1 := count (copyTrims s n) tb R.CAL_CMT_CNT 1
      let s2 := setFld (setFld s1 tb R.CAL_LAST_TEMP_TEMP (fld s1 (arrBase n 0) R.ARR_TEMP_TEMP)) tb R.CAL_AGE_CNT_COUNT 0
      let s3 := modTile (setFld s2 tb R.CAL_STATUS_STAGED 0) n fun t =>
        { t with ageAc := 0, cal := { t.cal with cmtDue := none, fromSweep := false, staged := false, failing := [], wbDue := t.cal.wbDue || c.fromSweep } }
      let s4 := if c.fromSweep && fldOn s3 tb R.CAL_CTRL_AUTO_REMAP then autoRemap s3 n c.failing else s3
      calPending s4 n

/-- TRIM_COMMIT_APPLY. -/
def execTrimCommitApply (t : Fin 64) (s : State) : Host.Outcome State Fault Refusal := .next (trimCommitApply s (phys s t))

/-- TRIM_FLASH_WRITEBACK: Smiteale writes the active trims of completed sweeps back to flash, at most once per hour (R158). -/
def trimFlashWriteback (s : State) : State :=
  let due := s.tiles.filter fun p => p.2.cal.wbDue
  if decide (due = []) || (match s.trimWb with | some w => decide (s.now < w + 3600 * 1000 * tcMs) | none => false) then s
  else
    let keys := due.flatMap fun p => (List.range 16).flatMap fun a => trimPairs.map fun q => calBase p.1 a + q.2
    let s1 := { s with flashTrims := keys.foldl (fun l k => sset (fun _ => (0 : Word)) l k (rdReg s k)) s.flashTrims, trimWb := some s.now }
    due.foldl (fun s p => modTile s p.1 fun t => { t with cal := { t.cal with wbDue := false } }) s1

/-- TRIM_FLASH_WRITEBACK. -/
def execTrimFlashWriteback (s : State) : Host.Outcome State Fault Refusal := .next (trimFlashWriteback s)

/-- Load the trims in flash of a tile's arrays into the staged copies and ask for a commit (R158, R534). -/
def loadTrims (s : State) (n : Nat) : State :=
  askCommit ((List.range 16).foldl (fun s a => trimPairs.foldl (fun s p =>
    wrReg s (calBase n a + p.1) (sget (fun _ => (0 : Word)) s.flashTrims (calBase n a + p.2))) s) s) n false

/-- HANDOVER_COMPLETE: the old owner's accesses have completed and the new owner takes the port (R171); a sweep that waited for this bank goes
on (R145). -/
def handoverComplete (s : State) (n b p : Nat) : State :=
  let tb := tileBase n
  if fld s tb (pendFld b p) = 0 then s
  else
    let s1 := count (setFld s tb (pendFld b p) 0) tb R.SETT_HANDOVER_CNT 1
    if fldOn s1 tb R.CAL_STATUS_HOLD_WAIT && ownsBank s1 n 5 (holdBank s1 n) then startArray s1 n (fld s1 tb R.CAL_STATUS_ARRAY) else s1

/-- HANDOVER_COMPLETE. -/
def execHandoverComplete (t : Fin 64) (b : Fin 48) (p : Fin 2) (s : State) : Host.Outcome State Fault Refusal :=
  .next (handoverComplete s (phys s t) b p)

end Sys2Proof.Machine
end

