-- ==== Sys2Proof/Machine/Escalate.lean ====
section
/-! DEFINITION. Takeover of a logical tile by a spare (R195–R198), escalation of suspect tiles (R427, R428) and the den (R431, R432). -/

namespace Sys2Proof.Machine

/-- STATE of a physical tile (R195). -/
def ptileState (s : State) (n : Nat) : Nat := fld s 0 (fldAt R.MGT_PTILE_STATE_STATE n)

/-- Set a physical tile's state and logical tile. -/
def setPtile (s : State) (n st lg : Nat) : State :=
  setFld (setFld s 0 (fldAt R.MGT_PTILE_STATE_STATE n) st) 0 (fldAt R.MGT_PTILE_STATE_LOGICAL n) lg

/-- A SPARE tile of a die, the lowest. -/
def spareOf (s : State) (die : Nat) : Option Nat := ((List.range 17).map (17 * die + ·)).find? fun n => decide (ptileState s n = 1)

/-- May a takeover of the tile that physical tile n carries proceed now (R197 step 1): its issued work has completed, and its stream is at
rest or the micro-batch in progress can go back to its opening mark. -/
def takeoverReady (s : State) (n : Nat) : Bool :=
  let t := tileAt s n
  rewindQuiet s n && t.issued.isEmpty &&
    (decide (seqState s n = sqStopped) || decide (seqState s n = sqHalted) || t.mark.isNone || !t.micro.nonRep)

/-- What a takeover copies of a register word at a window offset (R197, R198): RW bits of configuration registers; all of the sequencer's, signal, mark
and ownership registers; no counter, no sticky bit, no calibration state. -/
def copyMask (o : Nat) : Word :=
  if 0x20 ≤ o ∧ o < 0xA0 then 0xFFFFFFFF#32
  else if o = 0x20010 ∨ (0x28000 ≤ o ∧ o < 0x280C0) then 0xFFFFFFFF#32
  else if 0x24018 ≤ o ∧ o < 0x28000 then 0#32
  else if 0x40000 ≤ o then 0#32
  else if 0x100 ≤ o % 0x1000 ∧ o % 0x1000 < 0x200 ∧ ¬(0x21000 ≤ o ∧ o < 0x22000) then 0#32
  else if 0xF00 ≤ o % 0x1000 ∧ ¬(0x21000 ≤ o ∧ o < 0x22000) then 0#32
  else match regFind tileRegs o with
    | some d => BitVec.ofNat 32 d.rw
    | none => 0#32

/-- Copy the registers of a takeover from physical tile p to q. -/
def copyRegs (s : State) (p q : Nat) : State :=
  let ks := ((s.regs.map (·.1)).filter fun k => decide (tileBase p ≤ k) && decide (k < tileBase p + 0x100000)).map fun k => k - tileBase p
  let qs := ((s.regs.map (·.1)).filter fun k => decide (tileBase q ≤ k) && decide (k < tileBase q + 0x100000)).map fun k => k - tileBase q
  (ks ++ qs).foldl (fun s o =>
    let m := copyMask o
    if m = 0#32 then s else wrReg s (tileBase q + o) ((rdReg s (tileBase q + o) &&& ~~~m) ||| (rdReg s (tileBase p + o) &&& m))) s

/-- The rewind of R197 step 1: back to the opening mark with nothing of the replay state changed. -/
def takeoverRewind (s : State) (n : Nat) : State :=
  match (tileAt s n).mark with
  | some m =>
    if seqState s n = sqStopped ∨ seqState s n = sqHalted then s else resumeAfterMark (clearWork s n) n m false
  | none => s

/-- Reload an array's planes on the spare from the sources recorded on the old tile (R197 step 4). -/
def takeoverPlanes (s : State) (p q a : Nat) : State :=
  let m : ArrMark := { actB := actB s p a, a := srcOf s p a false, b := srcOf s p a true }
  let x := arrAt (tileAt s p) a
  let s1 := setBit (modArr s q a fun _ => { modeWide := x.modeWide, trackB := x.trackB }) (arrBase q a) R.ARR_STATE_ACT_B m.actB
  if x.wideRun then reloadWide s1 q a { m with actB := x.trackB }
  else if x.modeWide then reloadWide s1 q a m
  else reloadNarrow (reloadNarrow s1 q a m.actB (if m.actB then m.b else m.a)) q a (!m.actB) (if m.actB then m.a else m.b)

/-- Take over logical tile t from physical tile p by spare q (R197); p becomes DEN, or RETIRED where it passed a scan before (R428). -/
def takeover (s : State) (t p q : Nat) : State :=
  let s1 := dropPrefetch (takeoverRewind s p) p
  let x := tileAt s1 p
  let s2 := modTile (copyRegs s1 p q) q fun y =>
    { y with sett := x.sett, wgb := x.wgb, fetched := x.fetched, issued := x.issued, nextNo := x.nextNo, seqWait := x.seqWait, waitLong := x.waitLong,
             sigWait := x.sigWait, waitFrom := x.waitFrom, launchSet := x.launchSet, micro := x.micro, mark := x.mark, hold := x.hold,
             wideTids := x.wideTids, ownWait := x.ownWait, lanes := [], blkCodes := [], jobs := [], feed := [], feedQ := [], taken := [], wgbPend := [] }
  let s3 := (List.range 16).foldl (fun s a => takeoverPlanes s p q a) s2
  let dead := s3.scanned.contains p
  let s4 := setPtile (setPtile s3 p (if dead then 3 else 2) 0) q 0 t
  let s5 := setFld (setFld s4 0 (fldAt R.MGT_TILE_MAP_DIE t) (q / 17)) 0 (fldAt R.MGT_TILE_MAP_PHYS t) (q % 17)
  calTrigger (modTile { s5 with den := if dead then s5.den else s5.den ++ [p] } p fun y => { y with jobs := [], fetched := [], issued := [], feedQ := [], taken := [] }) q

/-! ### Escalation (R427, R428) -/

/-- GB_MODE: 0b11 acts as 0b10. -/
def gbMode (s : State) : Nat := min 2 (fld s 0 R.OWL_ESC_GB_MODE)

/-- The guardband of a level. -/
def applyGuard (s : State) (n level : Nat) : State :=
  match gbMode s with
  | 0 => setFld s (tileBase n) R.TILE_CTRL_VOFS (min 3 level)
  | 1 => setFld s (tileBase n) R.TILE_CTRL_CLK_HALF (min 1 level)
  | _ => s

/-- Does a level retire the tile. -/
def retireLevel (s : State) : Nat := match gbMode s with
  | 0 => 4
  | 1 => 2
  | _ => 1

/-- Retire a tile (R428): counted and reported once, then taken over, or the module drains where its die has no SPARE tile. -/
def retire (s : State) (n t cause : Nat) : State :=
  let s1 := if s.retiring.contains n then s
    else { raiseD (count s 0 R.OWL_RETIRE 1) 0 R.OWL_STATUS_RETIRE [cause, fld s 0 (fldAt R.OWL_PTILE_ESC_LEVEL n), 0, 0, 0, 0, 0, 0] with retiring := s.retiring ++ [n] }
  match spareOf s1 (n / 17) with
  | none => drainModule { s1 with retiring := s1.retiring.filter fun x => decide (x ≠ n) }
  | some q => if takeoverReady s1 n then takeover { s1 with retiring := s1.retiring.filter fun x => decide (x ≠ n) } t n q else s1

/-- GUARDBAND_ESCALATE: Smiteale acts on a suspect event of a physical tile, or goes on with its retirement. -/
def escalate (s : State) (n : Nat) : State :=
  if !fwReady s then s
  else
    match logicalOf s n with
    | none => { s with suspects := s.suspects.filter fun x => decide (x.1 ≠ n), retiring := s.retiring.filter fun x => decide (x ≠ n) }
    | some t =>
      if s.retiring.contains n then retire { s with suspects := s.suspects.filter fun x => decide (x.1 ≠ n) } n t 0
      else
        match s.suspects.find? fun x => decide (x.1 = n) with
        | none => s
        | some x =>
          let s1 := { s with suspects := s.suspects.erase x }
          let lv := min 4 (fld s1 0 (fldAt R.OWL_PTILE_ESC_LEVEL n) + 1)
          let s2 := setFld s1 0 (fldAt R.OWL_PTILE_ESC_LEVEL n) lv
          if retireLevel s2 ≤ lv then retire s2 n t x.2 else applyGuard s2 n lv

/-- GUARDBAND_ESCALATE. -/
def execGuardbandEscalate (n : Fin 68) (s : State) : Host.Outcome State Fault Refusal := .next (escalate s n)

/-- A write of LEVEL: a value above the present one is ignored; Smiteale applies a lower level's guardband (R427). -/
def levelWrite (s : State) (n v : Nat) : State :=
  if fld s 0 (fldAt R.OWL_PTILE_ESC_LEVEL n) ≤ v then s
  else
    let s1 := setFld s 0 (fldAt R.OWL_PTILE_ESC_LEVEL n) v
    if fwReady s1 then applyGuard s1 n v else s1

/-- OWL_LEVEL_WRITE. -/
def execOwlLevelWrite (n : Fin 68) (v : Fin 8) (s : State) : Host.Outcome State Fault Refusal := .next (if hostUp s then levelWrite s n v else s)

/-! ### The den (R431, R432) -/

/-- The tile that is being scanned. -/
def scanTile (s : State) : Option Nat := (List.range 68).find? fun n => decide (fld s 0 (fldAt R.OWL_PTILE_ESC_SCAN n) = 1)

/-- DEN_SCAN_START: the tile that entered the den first is scanned next, one at a time. -/
def execDenScanStart (s : State) : Host.Outcome State Fault Refusal :=
  .next (match s.den, scanTile s with
         | n :: r, none => if fwReady s then setFld { s with den := r } 0 (fldAt R.OWL_PTILE_ESC_SCAN n) 1 else s
         | _, _ => s)

/-- SCAN_DONE: a pass makes the tile SPARE with LEVEL 0, a failure RETIRED. The array test left no plane content. -/
def execScanDone (pass : Bool) (s : State) : Host.Outcome State Fault Refusal :=
  .next (match scanTile s with
         | none => s
         | some n =>
           let s0 := (List.range 16).foldl (fun s a => setPlaneState (setPlaneState (modArr s n a fun _ => {}) n a false psEmpty) n a true psEmpty) s
           if pass then
             let s1 := setFld (setFld (setPtile s0 n 1 0) 0 (fldAt R.OWL_PTILE_ESC_LEVEL n) 0) 0 (fldAt R.OWL_PTILE_ESC_SCAN n) 2
             { count s1 0 R.OWL_SCAN_PASS 1 with scanned := s1.scanned ++ [n] }
           else count (setFld (setPtile s0 n 3 0) 0 (fldAt R.OWL_PTILE_ESC_SCAN n) 3) 0 R.OWL_SCAN_FAIL 1)

end Sys2Proof.Machine
end

