-- ==== Sys2Proof/Machine/Trans.lean ====
section
/-! DEFINITION. References of the transcendental instructions (R211): each function to about 2^−90, in fixed point, and the result an instruction
gives, the correctly rounded value with a free deviation within the bound. -/

namespace Sys2Proof.Machine

/-- Fixed-point scale: 2^100. -/
def fxOne : Int := 2 ^ 100

/-- Fixed-point product. -/
def fxMul (a b : Int) : Int := a * b / fxOne

/-- A rational in fixed point. -/
def fxOf (q : Rat) : Int := (q * (fxOne : Rat)).floor

/-- Terms of a power series: sum of `term k` for k below the fuel, with the running power `y`. -/
def fxSeries (z : Int) (coef : Nat → Int) : Nat → Nat → Int → Int
  | 0, _, _ => 0
  | f + 1, k, y => y / coef k + fxSeries z coef f (k + 1) (fxMul y z)

/-- e^y for |y| at most 1, in fixed point. -/
def fxExp (y : Int) : Int :=
  ((List.range 40).foldl (fun (acc : Int × Int) (k : Nat) => (acc.1 + acc.2, fxMul acc.2 y / ((k + 1 : Nat) : Int))) (0, fxOne)).1

/-- ln 2 in fixed point: Σ 1 / (k 2^k). -/
def fxLn2 : Int := (List.range 100).foldl (fun (a : Int) (k : Nat) => a + fxOne / (((k + 1) * 2 ^ (k + 1) : Nat) : Int)) 0

/-- ln m for m from 1 to 2: 2 artanh((m − 1) / (m + 1)). -/
def fxLn (m : Rat) : Int :=
  let z := fxOf ((m - 1) / (m + 1))
  2 * fxSeries (fxMul z z) (fun k => (2 * k + 1 : Nat)) 40 0 z

/-- A fixed-point number as a rational. -/
def ratFx (x : Int) : Rat := (x : Rat) / (fxOne : Rat)

/-- 2^x for |x| at most 2^10. -/
def exp2Ref (x : Rat) : Rat :=
  let n := x.floor
  ratFx (fxExp (fxMul (fxOf (x - (n : Rat))) fxLn2)) * pow2 n

/-- e^x for |x| at most 2^10. -/
def expRef (x : Rat) : Rat :=
  let n := (x / ratFx fxLn2).floor
  ratFx (fxExp (fxOf x - n * fxLn2)) * pow2 n

/-- log2 x for x above 0. -/
def log2Ref (x : Rat) : Rat :=
  let e := ilog2 x
  (e : Rat) + (fxLn (x / pow2 e) : Rat) / (fxLn2 : Rat)

/-- Integer square root by bits from 2^k down. -/
def natSqrtGo : Nat → Nat → Nat → Nat
  | 0, r, _ => r
  | k + 1, r, v => let c := r + 2 ^ k; natSqrtGo k (if c * c ≤ v then c else r) v

/-- Square root of a positive rational to about 90 bits. -/
def sqrtRef (q : Rat) : Rat :=
  let e := ilog2 q / 2
  let m := q / (pow2 e * pow2 e)
  (natSqrtGo 100 0 (m * 2 ^ 180).floor.toNat : Rat) / 2 ^ 90 * pow2 e

/-- tanh x. -/
def tanhRef (x : Rat) : Rat :=
  if rabs x < pow2 (-13) then x - x * x * x / 3 + 2 * x * x * x * x * x / 15
  else if 200 < x then 1
  else if x < -200 then -1
  else let e := expRef (2 * x); (e - 1) / (e + 1)

/-- 1 / (1 + e^−x). -/
def sigmRef (x : Rat) : Rat := if 200 < x then 1 else if x < -200 then 0 else 1 / (1 + expRef (-x))

/-- The FP32 result of a transcendental instruction (R211): the reference rounded, moved by a free number of units in the last place within
`lim`, or within 2^−26 where `wide`. With its counts. -/
def transResult (free lim : Nat) (wide : Bool) (q : Rat) : Word × Nat :=
  if q = 0 then (0, 0)
  else
    let c := fpRound fpFp32 .rne (.num q)
    match c.1 with
    | .num v =>
      if c.2 = 1 then (BitVec.ofNat 32 (fpEncode fpFp32 c.1), 1)
      else
        let u := fpSpacing fpFp32 (rabs v)
        let n : Int := if wide then max (lim : Int) (pow2 (-26) / u).floor else (lim : Int)
        let d := Config.ulpDev free
        let k : Int := if d < -n then -n else if n < d then n else d
        fp32Enc .rne (ofSum (v + (k : Rat) * u))
    | z => (BitVec.ofNat 32 (fpEncode fpFp32 z), 0)

/-- Largest finite FP32 value by sign, as R211 writes it: counted as a saturation. -/
def transMax (neg : Bool) : Word × Nat := (if neg then 0xFF7FFFFF#32 else 0x7F7FFFFF#32, 1)

/-- VEXP2 and VEXP of one operand (R211). -/
def tExp (free : Nat) (base2 : Bool) (v : FVal) : Word × Nat :=
  match v with
  | .nan => (fp32NaN, 0)
  | .zero _ => (0x3F800000#32, 0)
  | .num q =>
    if 200 < q then transMax false
    else if q < -200 then (0, 0)
    else if base2 then transResult free 2 false (exp2Ref q) else transResult free 4 true (expRef q)

/-- VLOG2 of one operand. -/
def tLog2 (free : Nat) (v : FVal) : Word × Nat :=
  match v with
  | .nan => (fp32NaN, 0)
  | .zero _ => transMax true
  | .num q => if q < 0 then (fp32NaN, 0) else transResult free 2 false (log2Ref q)

/-- VRCP of one operand. -/
def tRcp (free : Nat) (v : FVal) : Word × Nat :=
  match v with
  | .nan => (fp32NaN, 0)
  | .zero n => transMax n
  | .num q => transResult free 2 false (1 / q)

/-- VRSQRT of one operand. -/
def tRsqrt (free : Nat) (v : FVal) : Word × Nat :=
  match v with
  | .nan => (fp32NaN, 0)
  | .zero n => transMax n
  | .num q => if q < 0 then (fp32NaN, 0) else transResult free 2 false (1 / sqrtRef q)

/-- VTANH of one operand. -/
def tTanh (free : Nat) (v : FVal) : Word × Nat :=
  match v with
  | .nan => (fp32NaN, 0)
  | .zero n => (if n then 0x80000000#32 else 0, 0)
  | .num q => transResult free 4 true (tanhRef q)

/-- VSIGM of one operand. -/
def tSigm (free : Nat) (v : FVal) : Word × Nat :=
  match v with
  | .nan => (fp32NaN, 0)
  | .zero _ => (0x3F000000#32, 0)
  | .num q => transResult free 4 true (sigmRef q)

end Sys2Proof.Machine
end

