-- ==== Sys2Proof/Machine/VuCore.lean ====
section
/-! DEFINITION. The vector unit (chapter 07): registers, instruction words, field rules, dispatch, faults, loops and sett accesses. -/

namespace Sys2Proof.Machine

/-! ### Registers (R203) -/

/-- The 512 lanes of a vector register. -/
def vRow (v : Vu) (r : Nat) : List Word := sgetList (fun _ => (0 : Word)) v.v (512 * r) 512

/-- Replace a vector register. -/
def vPut (v : Vu) (r : Nat) (l : List Word) : Vu := { v with v := ssetList (fun _ => (0 : Word)) v.v (512 * r) (l.take 512) }

/-- A scalar register; s0 reads 0. -/
def sGet (v : Vu) (r : Nat) : Word := if r % 16 = 0 then 0 else sget (fun _ => (0 : Word)) v.s (r % 16)

/-- Write a scalar register; writes to s0 are ignored. -/
def sPut (v : Vu) (r : Nat) (w : Word) : Vu := if r % 16 = 0 then v else { v with s := sset (fun _ => (0 : Word)) v.s (r % 16) w }

/-- A predicate register; p0 reads all ones. -/
def pGet (v : Vu) (r : Nat) : BitVec 1024 := if r % 8 = 0 then BitVec.allOnes 1024 else sget (fun _ => (0 : BitVec 1024)) v.p (r % 8)

/-- Write a predicate register; writes to p0 are ignored. -/
def pPut (v : Vu) (r : Nat) (w : BitVec 1024) : Vu := if r % 8 = 0 then v else { v with p := sset (fun _ => (0 : BitVec 1024)) v.p (r % 8) w }

/-- A predicate from its bits, lowest first. -/
def pOf (bs : List Bool) : BitVec 1024 := BitVec.ofNat 1024 (bs.foldr (fun b a => 2 * a + (if b then 1 else 0)) 0)

/-- Elements of a register: 512 words, or 1,024 halves with the lower half of lane 0 first (R203). -/
def elemsOf (w : Bool) (l : List Word) : List Nat :=
  if w then l.flatMap fun x => [x.toNat % 65536, x.toNat / 65536] else l.map BitVec.toNat

/-- Pack halves into words. -/
def packHalves : List Nat → List Word
  | a :: b :: t => BitVec.ofNat 32 (a % 65536 + b % 65536 * 65536) :: packHalves t
  | [a] => [BitVec.ofNat 32 (a % 65536)]
  | [] => []

/-- Words of a register from its elements. -/
def ofElems (w : Bool) (l : List Nat) : List Word := if w then packHalves l else l.map (BitVec.ofNat 32)

/-- Elements of an instruction: 512, or 1,024 with W = 1. -/
def elemCount (w : Bool) : Nat := if w then 1024 else 512

/-- The 2,048 bytes of a register. -/
def vBytes (l : List Word) : List Byte := l.flatMap fun x => leBytes 4 x.toNat

/-- A register from 2,048 bytes. -/
def ofBytes (bs : List Byte) : List Word := (List.range 512).map fun i => BitVec.ofNat 32 (fieldLe bs (4 * i) 4)

/-- Is element i active under the instruction's predicate (R208). -/
def active (v : Vu) (f : VuFields) (i : Nat) : Bool := (pGet v f.pred.val).getLsbD i

/-- Keep the old element where a lane is inactive (R208). -/
def keepInactive (v : Vu) (f : VuFields) (old new : List Nat) : List Nat :=
  (List.range new.length).map fun i => if active v f i then new.getD i 0 else old.getD i 0

/-! ### Instruction words (R205, R206) -/

/-- An instruction word (R205). -/
def vuWord (opc : Nat) (f : VuFields) : BitVec 64 :=
  BitVec.ofNat 64 (opc * 2 ^ 57 + f.pred.val * 2 ^ 54 + (if f.w then 2 ^ 53 else 0) + (if f.bs then 2 ^ 52 else 0) + f.vd.val * 2 ^ 47 +
    f.va.val * 2 ^ 42 + f.vb.val * 2 ^ 37 + f.vc.val * 2 ^ 32 + f.imm.toNat)

/-- What a register field of an instruction names. -/
inductive RegKind
  | none | vec | even | sc | pr | num
  deriving DecidableEq, Repr

/-- Which fields an instruction uses (R206, R209). `imm` masks the immediate bits it uses. -/
structure VuUse where
  pred : Bool := false
  wide : Bool := false
  bs : Bool := false
  vd : RegKind := .none
  va : RegKind := .none
  vb : RegKind := .none
  vc : RegKind := .none
  imm : Nat := 0
  deriving DecidableEq, Repr

/-- Does a register field keep the rule of R206 (and the even registers of R223). -/
def regOk (k : RegKind) (r : Nat) : Bool :=
  match k with
  | .none => decide (r = 0)
  | .vec => true
  | .even => decide (r % 2 = 0)
  | .sc => decide (r < 16)
  | .pr => decide (r < 8)
  | .num => true

/-- Do the fields of an instruction keep R206: B comes from s[VB] with BS = 1. -/
def useOk (u : VuUse) (f : VuFields) : Bool :=
  (u.pred || decide (f.pred.val = 0)) && (u.wide || !f.w) && (u.bs || !f.bs) && regOk u.vd f.vd.val && regOk u.va f.va.val &&
    regOk (if u.bs && f.bs && u.vb = .vec then .sc else u.vb) f.vb.val && regOk u.vc f.vc.val &&
    decide (f.imm.toNat &&& (0xFFFFFFFF - u.imm) = 0)

/-- The opcodes of R209. -/
def vuOpcodes : List Nat :=
  [0x00, 0x01, 0x02, 0x03, 0x04, 0x05, 0x06, 0x07, 0x08, 0x09, 0x0A, 0x10, 0x11, 0x12, 0x13, 0x14, 0x15, 0x16, 0x20, 0x21, 0x22, 0x23, 0x24, 0x25,
   0x26, 0x27, 0x28, 0x29, 0x30, 0x31, 0x32, 0x33, 0x34, 0x35, 0x36, 0x37, 0x40, 0x41, 0x50, 0x51, 0x52, 0x53, 0x54, 0x55, 0x60, 0x61, 0x62, 0x63,
   0x64, 0x65, 0x68, 0x69, 0x6A, 0x6B, 0x6C, 0x6D, 0x6E, 0x6F, 0x70, 0x71, 0x78, 0x79, 0x7A, 0x7B, 0x7C, 0x7D, 0x7F]

/-- An instruction of the instruction memory. -/
def imemAt (v : Vu) (pc : Nat) : BitVec 64 := sget (fun _ => (0 : BitVec 64)) v.imem pc

/-! ### Dispatch, faults and the program counter -/

/-- Change the VU of a tile. -/
def modVu (s : State) (n : Nat) (f : Vu → Vu) : State := modTile s n fun t => { t with vu := f t.vu }

/-- The end of a dispatch: a seed that waited takes effect (R226), and the time busy is counted. -/
def vuStop (s : State) (n : Nat) : State :=
  let v := (tileAt s n).vu
  let s1 := count (modVu s n fun x => { x with run := false, loops := [], seedHeld := none }) (tileBase n) R.VU_BUSY_TC (s.now - v.tStart)
  if v.seedHeld.isSome then clearDraws s1 n else s1

/-- A fault stops the kernel at the faulting instruction and fails the dispatch (R231). -/
def vuFault (s : State) (n cause : Nat) : State :=
  let tb := tileBase n
  let v := (tileAt s n).vu
  let s1 := setFld (setFld s tb R.VU_FAULT_CAUSE cause) tb R.VU_FAULT_PC v.pc
  let s2 := raiseBit (count s1 tb R.VU_FAULT_CNT 1) tb R.VU_STATUS_FAULT
  failExec (vuStop s2 n) n v.no stVuFault

/-- End loops whose body has run out, or go round again (R230). -/
def loopEnds : Nat → Vu → Vu
  | 0, v => v
  | k + 1, v =>
    match v.loops with
    | l :: rest =>
      if v.pc = l.last then
        (if 2 ≤ l.left then { v with pc := l.first, loops := { l with left := l.left - 1 } :: rest } else loopEnds k { v with loops := rest })
      else v
    | [] => v

/-- After an instruction: loop ends, a program counter of 8,192 (cause 5) and a reserved opcode at the next instruction (cause 1). -/
def vuSettle (s : State) (n : Nat) : State :=
  let s1 := modVu s n (loopEnds 5)
  let v := (tileAt s1 n).vu
  if !v.run then s1
  else if 8192 ≤ v.pc then vuFault s1 n 5
  else if !vuOpcodes.contains ((imemAt v v.pc).toNat / 2 ^ 57) then vuFault (count s1 (tileBase n) R.VU_INSN_CNT 1) n 1
  else s1

/-- VDISP enters the VU's queue (R274). -/
def execVdisp (t : Fin 64) (o : VdispOp) (s : State) : Host.Outcome State Fault Refusal := .next (enqueue s t (.vdisp o))

/-- A dispatch starts (R204, R229, R274) once no dispatch and no kernel load before it runs. -/
def runVdisp (s : State) (n : Nat) (i : Issued) (o : VdispOp) : State :=
  let t := tileAt s n
  let tb := tileBase n
  if t.vu.run || t.issued.any (fun j => decide (j.no < i.no) && !j.fin && (match j.cmd with | .kload _ => true | _ => false)) then s
  else
    let d := if o.descEn then descGet i.descs o.desc else none
    let args := [(1, o.arg1), (2, o.arg2), (3, o.arg3), (4, o.arg4)]
    let sr := args.foldl (fun l p => sset (fun _ => (0 : Word)) l p.1 (BitVec.ofNat 32 p.2)) []
    let s1 := modVu s n fun v => { v with v := [], p := [], s := sr, run := true, no := i.no, pc := o.entry, drive := o.drive, loops := [], tStart := s.now, desc := d }
    let s2 := setBit (setBit s1 tb R.VU_DESC_DRIVE o.drive) tb R.VU_DESC_GRAD (match d with | some x => x.grad | none => false)
    let s3 := setFld s2 tb R.VU_DESC_UBIAS (match d with | some x => tc 7 x.ubias | none => 0)
    vuSettle (ranCmd s3 n i.no) n

/-- What an instruction does: it waits for a sett port, faults, stops its dispatch with another status, ends it, or goes on. -/
inductive VuOut
  | wait
  | fault (cause : Nat)
  | fail (status : Nat)
  | done (s : State)
  | goto (pc : Nat) (s : State)
  | finish (s : State)

/-- Issue the instruction `opc` with fields `f` on tile t: it acts where a dispatch runs and its program counter holds that word (R207). A
poisoned fetch faults with cause 1 (R407), a broken field rule with cause 2 (R206). -/
def vuIssue (s : State) (t : Fin 64) (opc : Nat) (u : VuUse) (f : VuFields) (go : Nat → Vu → State → VuOut) : State :=
  let n := phys s t
  let v := (tileAt s n).vu
  if !v.run || !decide (imemAt v v.pc = vuWord opc f) then s
  else
    let s0 := parity s f.fetchBad.val 6 (8 * v.pc)
    let cnt := fun (x : State) => count x (tileBase n) R.VU_INSN_CNT 1
    if 3 ≤ f.fetchBad.val then vuFault (cnt s0) n 1
    else if !useOk u f then vuFault (cnt s0) n 2
    else
      match go n v s0 with
      | .wait => ownWaitStart s n 4
      | .fault c => vuFault (cnt s0) n c
      | .fail st => failExec (vuStop (cnt s0) n) n v.no st
      | .done x => vuSettle (modVu (cnt (ownWaitEnd x n 4)) n fun y => { y with pc := v.pc + 1 }) n
      | .goto pc x => vuSettle (modVu (cnt x) n fun y => { y with pc := pc }) n
      | .finish x => finCmd (count (vuStop (cnt x) n) (tileBase n) R.VU_DISP_CNT 1) n v.no

/-- Change the VU and go on. -/
def vuDone (s : State) (n : Nat) (f : Vu → Vu) : VuOut := .done (modVu s n f)

/-- Count conversion and arithmetic events of the VU (R54). -/
def vuCnv (s : State) (n : Nat) (c : Cnv) : State := countCnv s (tileBase n) R.VU_CNV_SAT c

/-! ### Element-wise forms -/

/-- Operand B's elements: vb, or s[VB] broadcast (R205, R206). -/
def operandB (v : Vu) (f : VuFields) : List Nat :=
  if f.bs then List.replicate (elemCount f.w) (if f.w then (sGet v f.vb.val).toNat % 65536 else (sGet v f.vb.val).toNat)
  else elemsOf f.w (vRow v f.vb.val)

/-- Value of an element, with 1 for an infinity (R39). -/
def fpElem (w : Bool) (x : Nat) : FVal × Nat := if w then fpDecode fpBf16 true x else fpDecode fpFp32 true x

/-- Round a result to FP32 or BF16 with RNE (R210): bits, and 1 where it saturated. -/
def fpResult (w : Bool) (v : FVal) : Nat × Nat :=
  let g := if w then fpBf16 else fpFp32
  let r := fpRound g .rne v
  (fpEncode g r.1, r.2)

/-- A floating-point element-wise instruction (R208–R210): `ops` are the operands' elements; events of active elements are counted. -/
def vuFp (s : State) (n : Nat) (v : Vu) (f : VuFields) (ops : List (List Nat)) (g : List FVal → FVal) : VuOut :=
  let rs := (List.range (elemCount f.w)).map fun i =>
    let xs := ops.map fun o => fpElem f.w (o.getD i 0)
    let r := fpResult f.w (g (xs.map (·.1)))
    (r.1, if active v f i then { sat := r.2, inf := (xs.map (·.2)).sum : Cnv } else {})
  let new := keepInactive v f (elemsOf f.w (vRow v f.vd.val)) (rs.map (·.1))
  vuDone (vuCnv s n (cnvSum (rs.map (·.2)))) n fun x => vPut x f.vd.val (ofElems f.w new)

/-- A transcendental instruction (R211): each active element has its own free deviation. -/
def vuTrans (s : State) (n : Nat) (v : Vu) (f : VuFields) (g : Nat → FVal → Word × Nat) : VuOut :=
  let a := elemsOf f.w (vRow v f.va.val)
  let rs := (List.range (elemCount f.w)).map fun i =>
    let x := fpElem f.w (a.getD i 0)
    let r := g (s.freeCtr + i) x.1
    let o := if f.w then fpResult true (fp32Dec r.1) else (r.1.toNat, 0)
    (o.1, if active v f i then { sat := max r.2 o.2, inf := x.2 : Cnv } else {})
  let new := keepInactive v f (elemsOf f.w (vRow v f.vd.val)) (rs.map (·.1))
  vuDone (vuCnv { s with freeCtr := s.freeCtr + 1024 } n (cnvSum (rs.map (·.2)))) n fun x => vPut x f.vd.val (ofElems f.w new)

/-- An element-wise instruction on bit patterns (R210): nothing is counted. -/
def vuBits (s : State) (n : Nat) (v : Vu) (f : VuFields) (new : List Nat) : VuOut :=
  let r := keepInactive v f (elemsOf f.w (vRow v f.vd.val)) new
  vuDone s n fun x => vPut x f.vd.val (ofElems f.w r)

/-- An element-wise instruction on INT32 words. -/
def vuInt (s : State) (n : Nat) (v : Vu) (f : VuFields) (g : Word → Word → Word) : VuOut :=
  let b := operandB v f
  vuBits s n v f ((List.range 512).map fun i => (g ((vRow v f.va.val).getD i 0) (BitVec.ofNat 32 (b.getD i 0))).toNat)

/-- A scalar instruction: B is s[VB], or IMM with BS = 1, which leaves VB unused (R209). -/
def vuScalar (s : State) (n : Nat) (v : Vu) (f : VuFields) (g : Word → Word → Word) : VuOut :=
  if f.bs && decide (f.vb.val ≠ 0) || !f.bs && decide (f.imm ≠ 0) then .fault 2
  else vuDone s n fun x => sPut x f.vd.val (g (sGet v f.va.val) (if f.bs then f.imm else sGet v f.vb.val))

/-- A comparison's predicate destination (R208): the bits beyond the elements are cleared. -/
def vuCompare (s : State) (n : Nat) (f : VuFields) (bits : List Bool) : VuOut := vuDone s n fun x => pPut x f.vd.val (pOf bits)

/-! ### Sett accesses (R220) -/

/-- The sett address of an access: s[base] + IMM, modulo 2^26. -/
def vuAddr (v : Vu) (base : Nat) (imm : Word) : Nat := ((sGet v base).toNat + imm.toNat) % 2 ^ 26

/-- Judge an access: alignment (cause 3), access kind (cause 4), and the ports. `al` is the alignment. -/
def vuAccess (s : State) (n addr len al : Nat) (go : VuOut) : VuOut :=
  if addr % al ≠ 0 then .fault 3
  else if settKind addr = 3 then .fault 4
  else if !settOwned s n 4 addr len then .wait
  else go

/-- Bytes of sett memory as the VU reads them; poisoned words, named by number, read as 0xFFFF_FFFF (R407). -/
def vuRead (s : State) (n addr len : Nat) (bad : List Nat) : List Byte :=
  (List.range len).map fun k => if bad.contains ((addr + k) % 2 ^ 24 / 4) then 0xFF else settByte (tileAt s n) (addr % 2 ^ 24 + k)

/-- Words among `bad` that an access reads. -/
def badIn (addr len : Nat) (bad : List Nat) : List Nat := bad.filter fun w => decide (addr % 2 ^ 24 / 4 ≤ w) && decide (w ≤ (addr % 2 ^ 24 + len - 1) / 4)

/-- Store the active pieces of a run of bytes, `sz` bytes each (R208, R220). -/
def vuStoreRuns (s : State) (n addr sz : Nat) (bs : List Byte) (act : Nat → Bool) : State :=
  (List.range (bs.length / sz)).foldl (fun s i => if act i then settWrite s n (addr + sz * i) ((bs.drop (sz * i)).take sz) else s) s

end Sys2Proof.Machine
end

