-- ==== Sys2Proof/Machine/VuArith.lean ====
section
/-! DEFINITION. Arithmetic, transcendental, integer, comparison, select, predicate and scalar instructions of the VU (R209–R211). -/

namespace Sys2Proof.Machine

/-- Field use of a two-operand vector instruction. -/
def use2 (wide : Bool) : VuUse := { pred := true, wide := wide, bs := true, vd := .vec, va := .vec, vb := .vec }

/-- Field use of a one-operand vector instruction. -/
def use1 : VuUse := { pred := true, wide := true, vd := .vec, va := .vec }

/-- Answer of an instruction: it always goes on to a next state. -/
def vuNext (s : State) : Host.Outcome State Fault Refusal := .next s

/-- A two-operand floating-point instruction. -/
def vuFp2 (s : State) (t : Fin 64) (opc : Nat) (f : VuFields) (g : FVal → FVal → FVal) : State :=
  vuIssue s t opc (use2 true) f fun n v s => vuFp s n v f [elemsOf f.w (vRow v f.va.val), operandB v f] fun xs => g (xs.getD 0 .nan) (xs.getD 1 .nan)

/-- A one-operand floating-point instruction. -/
def vuFp1 (s : State) (t : Fin 64) (opc : Nat) (f : VuFields) (g : FVal → FVal) : State :=
  vuIssue s t opc use1 f fun n v s => vuFp s n v f [elemsOf f.w (vRow v f.va.val)] fun xs => g (xs.getD 0 .nan)

/-- A two-operand INT32 instruction. -/
def vuInt2 (s : State) (t : Fin 64) (opc : Nat) (f : VuFields) (g : Word → Word → Word) : State :=
  vuIssue s t opc (use2 false) f fun n v s => vuInt s n v f g

/-- A transcendental instruction. -/
def vuTr (s : State) (t : Fin 64) (opc : Nat) (f : VuFields) (g : Nat → FVal → Word × Nat) : State :=
  vuIssue s t opc use1 f fun n v s => vuTrans s n v f g

/-- NOP of the VU. -/
def execVuNop (t : Fin 64) (f : VuFields) (s : State) : Host.Outcome State Fault Refusal :=
  vuNext (vuIssue s t 0x00 { wide := true } f fun _ _ s => .done s)

/-- VADD. -/
def execVadd (t : Fin 64) (f : VuFields) (s : State) : Host.Outcome State Fault Refusal := vuNext (vuFp2 s t 0x01 f fAdd)

/-- VSUB. -/
def execVsub (t : Fin 64) (f : VuFields) (s : State) : Host.Outcome State Fault Refusal := vuNext (vuFp2 s t 0x02 f fSub)

/-- VMUL. -/
def execVmul (t : Fin 64) (f : VuFields) (s : State) : Host.Outcome State Fault Refusal := vuNext (vuFp2 s t 0x03 f fMul)

/-- VFMA, rounded once. -/
def execVfma (t : Fin 64) (f : VuFields) (s : State) : Host.Outcome State Fault Refusal :=
  vuNext (vuIssue s t 0x04 { use2 true with vc := .vec } f fun n v s =>
    vuFp s n v f [elemsOf f.w (vRow v f.va.val), operandB v f, elemsOf f.w (vRow v f.vc.val)] fun xs => fFma (xs.getD 0 .nan) (xs.getD 1 .nan) (xs.getD 2 .nan))

/-- VMAX (R43). -/
def execVmax (t : Fin 64) (f : VuFields) (s : State) : Host.Outcome State Fault Refusal := vuNext (vuFp2 s t 0x05 f fMax)

/-- VMIN (R43). -/
def execVmin (t : Fin 64) (f : VuFields) (s : State) : Host.Outcome State Fault Refusal := vuNext (vuFp2 s t 0x06 f fMin)

/-- VABS. -/
def execVabs (t : Fin 64) (f : VuFields) (s : State) : Host.Outcome State Fault Refusal := vuNext (vuFp1 s t 0x07 f fAbs)

/-- VNEG. -/
def execVneg (t : Fin 64) (f : VuFields) (s : State) : Host.Outcome State Fault Refusal := vuNext (vuFp1 s t 0x08 f fNeg)

/-- VMOV copies bit patterns (R210). -/
def execVmov (t : Fin 64) (f : VuFields) (s : State) : Host.Outcome State Fault Refusal :=
  vuNext (vuIssue s t 0x09 { pred := true, wide := true, bs := true, vd := .vec, vb := .vec } f fun n v s => vuBits s n v f (operandB v f))

/-- VMOVI. -/
def execVmovi (t : Fin 64) (f : VuFields) (s : State) : Host.Outcome State Fault Refusal :=
  vuNext (vuIssue s t 0x0A { pred := true, vd := .vec, imm := 0xFFFFFFFF } f fun n v s => vuBits s n v f (List.replicate 512 f.imm.toNat))

/-- VEXP2. -/
def execVexp2 (t : Fin 64) (f : VuFields) (s : State) : Host.Outcome State Fault Refusal := vuNext (vuTr s t 0x10 f fun k v => tExp k true v)

/-- VLOG2. -/
def execVlog2 (t : Fin 64) (f : VuFields) (s : State) : Host.Outcome State Fault Refusal := vuNext (vuTr s t 0x11 f tLog2)

/-- VRCP. -/
def execVrcp (t : Fin 64) (f : VuFields) (s : State) : Host.Outcome State Fault Refusal := vuNext (vuTr s t 0x12 f tRcp)

/-- VRSQRT. -/
def execVrsqrt (t : Fin 64) (f : VuFields) (s : State) : Host.Outcome State Fault Refusal := vuNext (vuTr s t 0x13 f tRsqrt)

/-- VEXP. -/
def execVexp (t : Fin 64) (f : VuFields) (s : State) : Host.Outcome State Fault Refusal := vuNext (vuTr s t 0x14 f fun k v => tExp k false v)

/-- VTANH. -/
def execVtanh (t : Fin 64) (f : VuFields) (s : State) : Host.Outcome State Fault Refusal := vuNext (vuTr s t 0x15 f tTanh)

/-- VSIGM. -/
def execVsigm (t : Fin 64) (f : VuFields) (s : State) : Host.Outcome State Fault Refusal := vuNext (vuTr s t 0x16 f tSigm)

/-- VIADD. -/
def execViadd (t : Fin 64) (f : VuFields) (s : State) : Host.Outcome State Fault Refusal := vuNext (vuInt2 s t 0x20 f (· + ·))

/-- VISUB. -/
def execVisub (t : Fin 64) (f : VuFields) (s : State) : Host.Outcome State Fault Refusal := vuNext (vuInt2 s t 0x21 f (· - ·))

/-- VIMUL. -/
def execVimul (t : Fin 64) (f : VuFields) (s : State) : Host.Outcome State Fault Refusal := vuNext (vuInt2 s t 0x22 f (· * ·))

/-- VAND. -/
def execVand (t : Fin 64) (f : VuFields) (s : State) : Host.Outcome State Fault Refusal := vuNext (vuInt2 s t 0x23 f (· &&& ·))

/-- VOR. -/
def execVor (t : Fin 64) (f : VuFields) (s : State) : Host.Outcome State Fault Refusal := vuNext (vuInt2 s t 0x24 f (· ||| ·))

/-- VXOR. -/
def execVxor (t : Fin 64) (f : VuFields) (s : State) : Host.Outcome State Fault Refusal := vuNext (vuInt2 s t 0x25 f (· ^^^ ·))

/-- VSHL: by B[4:0]. -/
def execVshl (t : Fin 64) (f : VuFields) (s : State) : Host.Outcome State Fault Refusal :=
  vuNext (vuInt2 s t 0x26 f fun a b => a <<< (b.toNat % 32))

/-- VSHR: by B[4:0], logical. -/
def execVshr (t : Fin 64) (f : VuFields) (s : State) : Host.Outcome State Fault Refusal :=
  vuNext (vuInt2 s t 0x27 f fun a b => a >>> (b.toNat % 32))

/-- VSRA: by B[4:0], arithmetic. -/
def execVsra (t : Fin 64) (f : VuFields) (s : State) : Host.Outcome State Fault Refusal :=
  vuNext (vuInt2 s t 0x28 f fun a b => a.sshiftRight (b.toNat % 32))

/-- VIOTA: lane i gets i + IMM. -/
def execViota (t : Fin 64) (f : VuFields) (s : State) : Host.Outcome State Fault Refusal :=
  vuNext (vuIssue s t 0x29 { pred := true, vd := .vec, imm := 0xFFFFFFFF } f fun n v s =>
    vuBits s n v f ((List.range 512).map fun i => (BitVec.ofNat 32 i + f.imm).toNat))

/-! ### Comparisons and predicates -/

/-- A condition of VCMP on values (R44): EQ, NE, LT, LE, GT, GE, UN. -/
def condFp (c : Nat) (a b : FVal) : Bool :=
  match c with
  | 0 => fEq a b
  | 1 => !fEq a b
  | 2 => fLt a b
  | 3 => fLt a b || fEq a b
  | 4 => fLt b a
  | 5 => fLt b a || fEq a b
  | _ => fIsNan a || fIsNan b

/-- A condition of VICMP on signed integers. -/
def condInt (c : Nat) (a b : Int) : Bool :=
  match c with
  | 0 => decide (a = b)
  | 1 => decide (a ≠ b)
  | 2 => decide (a < b)
  | 3 => decide (a ≤ b)
  | 4 => decide (b < a)
  | _ => decide (b ≤ a)

/-- VCMP: condition 7 is reserved (cause 2); infinities that are compared are counted (R39). -/
def execVcmp (t : Fin 64) (f : VuFields) (s : State) : Host.Outcome State Fault Refusal :=
  vuNext (vuIssue s t 0x30 { pred := true, wide := true, bs := true, vd := .pr, va := .vec, vb := .vec, imm := 7 } f fun n v s =>
    if f.imm.toNat = 7 then .fault 2
    else
      let xs := ((elemsOf f.w (vRow v f.va.val)).zip (operandB v f)).map fun p => (fpElem f.w p.1, fpElem f.w p.2)
      vuCompare (vuCnv s n { inf := (xs.map fun p => p.1.2 + p.2.2).sum }) n f (xs.map fun p => condFp f.imm.toNat p.1.1 p.2.1))

/-- VICMP: conditions 6 and 7 are not of the table (cause 2). -/
def execVicmp (t : Fin 64) (f : VuFields) (s : State) : Host.Outcome State Fault Refusal :=
  vuNext (vuIssue s t 0x31 { pred := true, bs := true, vd := .pr, va := .vec, vb := .vec, imm := 7 } f fun n v s =>
    if 5 < f.imm.toNat then .fault 2
    else vuCompare s n f (((elemsOf false (vRow v f.va.val)).zip (operandB v f)).map fun p => condInt f.imm.toNat (sext 32 p.1) (sext 32 p.2)))

/-- VSEL: p[VC] chooses between va and B; patterns are copied. -/
def execVsel (t : Fin 64) (f : VuFields) (s : State) : Host.Outcome State Fault Refusal :=
  vuNext (vuIssue s t 0x32 { use2 true with vc := .pr } f fun n v s =>
    let a := elemsOf f.w (vRow v f.va.val)
    let b := operandB v f
    let p := pGet v f.vc.val
    vuBits s n v f ((List.range (elemCount f.w)).map fun i => if p.getLsbD i then a.getD i 0 else b.getD i 0))

/-- A predicate instruction on whole predicates. -/
def vuPred (s : State) (t : Fin 64) (opc : Nat) (two : Bool) (f : VuFields) (g : BitVec 1024 → BitVec 1024 → BitVec 1024) : State :=
  vuIssue s t opc { wide := true, vd := .pr, va := .pr, vb := if two then .pr else .none } f fun n v s =>
    vuDone s n fun x => pPut x f.vd.val (g (pGet v f.va.val) (pGet v f.vb.val))

/-- PAND. -/
def execPand (t : Fin 64) (f : VuFields) (s : State) : Host.Outcome State Fault Refusal := vuNext (vuPred s t 0x33 true f (· &&& ·))

/-- POR. -/
def execPor (t : Fin 64) (f : VuFields) (s : State) : Host.Outcome State Fault Refusal := vuNext (vuPred s t 0x34 true f (· ||| ·))

/-- PXOR. -/
def execPxor (t : Fin 64) (f : VuFields) (s : State) : Host.Outcome State Fault Refusal := vuNext (vuPred s t 0x35 true f (· ^^^ ·))

/-- PNOT. -/
def execPnot (t : Fin 64) (f : VuFields) (s : State) : Host.Outcome State Fault Refusal := vuNext (vuPred s t 0x36 false f fun a _ => ~~~ a)

/-- PCNT counts the 1 bits of p[VA] among the elements. -/
def execPcnt (t : Fin 64) (f : VuFields) (s : State) : Host.Outcome State Fault Refusal :=
  vuNext (vuIssue s t 0x37 { pred := true, wide := true, vd := .sc, va := .pr } f fun n v s =>
    let p := pGet v f.va.val
    vuDone s n fun x => sPut x f.vd.val (BitVec.ofNat 32 ((List.range (elemCount f.w)).filter fun i => p.getLsbD i).length))

/-! ### Scalars -/

/-- Field use of a scalar instruction. -/
def useS : VuUse := { bs := true, vd := .sc, va := .sc, vb := .sc, imm := 0xFFFFFFFF }

/-- SMOVI. -/
def execSmovi (t : Fin 64) (f : VuFields) (s : State) : Host.Outcome State Fault Refusal :=
  vuNext (vuIssue s t 0x68 { vd := .sc, imm := 0xFFFFFFFF } f fun n _ s => vuDone s n fun x => sPut x f.vd.val f.imm)

/-- SADD. -/
def execSadd (t : Fin 64) (f : VuFields) (s : State) : Host.Outcome State Fault Refusal :=
  vuNext (vuIssue s t 0x69 useS f fun n v s => vuScalar s n v f (· + ·))

/-- SSUB. -/
def execSsub (t : Fin 64) (f : VuFields) (s : State) : Host.Outcome State Fault Refusal :=
  vuNext (vuIssue s t 0x6A useS f fun n v s => vuScalar s n v f (· - ·))

/-- SMUL. -/
def execSmul (t : Fin 64) (f : VuFields) (s : State) : Host.Outcome State Fault Refusal :=
  vuNext (vuIssue s t 0x6B useS f fun n v s => vuScalar s n v f (· * ·))

/-- SLT, signed. -/
def execSlt (t : Fin 64) (f : VuFields) (s : State) : Host.Outcome State Fault Refusal :=
  vuNext (vuIssue s t 0x6C useS f fun n v s => vuScalar s n v f fun a b => if a.toInt < b.toInt then 1 else 0)

/-- VEXT: a lane of va into a scalar. -/
def execVext (t : Fin 64) (f : VuFields) (s : State) : Host.Outcome State Fault Refusal :=
  vuNext (vuIssue s t 0x6D { vd := .sc, va := .vec, imm := 0x1FF } f fun n v s =>
    vuDone s n fun x => sPut x f.vd.val ((vRow v f.va.val).getD (f.imm.toNat % 512) 0))

end Sys2Proof.Machine
end

