-- ==== Sys2Proof/Machine/VuVec.lean ====
section
/-! DEFINITION. Conversions, loads and stores, reductions, sort steps and random draws of the VU (R212–R226). -/

namespace Sys2Proof.Machine

/-! ### VCVT -/

/-- Is a format the unpacked side of a VCVT (R213). -/
def unpackedFmt (f : Fmt) : Bool := decide (f = .fp32) || decide (f = .int32)

/-- Parts of 512 elements in a packed image of a format (R213). -/
def cvtParts (f : Fmt) : Nat := 2048 / (512 * fmtBits f / 8)

/-- One value of 512 into a format, by group for block formats: codes, scale bytes by group (none where no lane of the group is active) and counts.
`given` are the scale bytes where GIVEN is 1. Inactive elements take no part. -/
def cvtPack (dst : Fmt) (u : Int) (given : Option (List Nat)) (rnd : Nat → Rnd) (act : Nat → Bool) (vals : List FVal) : List Nat × List (Option Nat) × Cnv :=
  let vs := if fmtTakesBias dst then vals.map (scale2 u) else vals
  match fmtGroup dst with
  | none =>
    let r := (List.range 512).map fun i => if act i then encodeElem dst (rnd i) (vs.getD i (.zero false)) else (0, {})
    (r.map (·.1), [], cnvSum (r.map (·.2)))
  | some g =>
    let gs := (List.range (512 / g)).map fun q =>
      let is := (List.range g).map (g * q + ·)
      if is.any act then
        let xs := is.map fun i => if act i then vs.getD i (.zero false) else .zero false
        let e := encodeGroup dst (given.map fun l => l.getD q 0) (is.map rnd) xs
        (e.2.1, some e.1, e.2.2)
      else (List.replicate g 0, none, {})
    (gs.flatMap (·.1), gs.map (·.2.1), cnvSum (gs.map (·.2.2)))

/-- The rounding of a VCVT (R214): SR or not, and the bias it applies. -/
def cvtMode (v : Vu) (grad : Bool) (rm : Nat) : Bool × Int :=
  if rm = 1 then (true, 0) else if rm = 2 && grad then (true, match v.desc with | some d => d.ubias | none => 0) else (false, 0)

/-- Replace some bytes of a register. -/
def putBytes (l : List Word) (o : Nat) (bs : List Byte) : List Word :=
  let old := vBytes l
  ofBytes (old.take o ++ bs ++ old.drop (o + bs.length))

/-- Codes of part p of a packed image (R213). -/
def partCodes (f : Fmt) (l : List Word) (p : Nat) : List Nat :=
  let bs := vBytes l
  (List.range 512).map fun i => payloadElem f bs (512 * p + i)

/-- VCVT (R213–R215): va is the source, vd the destination, vc the block scales. The scales chosen are written into vc after vd. -/
def vcvt (s : State) (n : Nat) (v : Vu) (f : VuFields) : VuOut :=
  let w := f.imm.toNat
  let given := bitOn w 14
  let part := bits w 13 10
  let rm := bits w 9 8
  match fmtOfCode (bits w 3 0), fmtOfCode (bits w 7 4) with
  | some src, some dst =>
    let us := unpackedFmt src
    let ud := unpackedFmt dst
    let packed := if us then dst else src
    if rm = 3 || !(fmtIsBlock packed) && decide (f.vc.val ≠ 0) then .fault 2
    else if (us && ud && decide (src = dst)) || (!us && !ud) || (!(us && ud) && decide (cvtParts packed ≤ part)) then .fault 8
    else
      let m := cvtMode v (fldOn s (tileBase n) R.VU_DESC_GRAD) rm
      let g := 512 / (fmtGroup packed).getD 512
      let sc := (List.range g).map fun q => ((vBytes (vRow v f.vc.val)).getD (part * g + q) 0).toNat
      let codes := if us then (vRow v f.va.val).map BitVec.toNat else partCodes src (vRow v f.va.val) part
      let xs := (List.range 512).map fun i =>
        match fmtGroup src with
        | some k => elemVal src (sc.getD (i / k) 0) (codes.getD i 0)
        | none => decodeElem src (codes.getD i 0)
      let act := fun i => active v f i
      let c := cvtPack dst m.2 (if given then some sc else none) (rndOf s n 1 m.1) act (xs.map (·.1))
      let cnt := cnvAdd c.2.2 (cnvSum ((List.range 512).map fun i => if act i then (xs.getD i (.nan, {})).2 else {}))
      let s1 := vuCnv (takeDraws s n 1 (drawsFor m.1 512)) n cnt
      let keep := fun (old : List Nat) => (List.range 512).map fun i => if act i then c.1.getD i 0 else old.getD i 0
      if ud then vuDone s1 n fun x => vPut x f.vd.val (ofElems false (keep ((vRow v f.vd.val).map BitVec.toNat)))
      else
        let bs := packElems dst (keep (partCodes dst (vRow v f.vd.val) part))
        vuDone s1 n fun x =>
          let x1 := vPut x f.vd.val (putBytes (vRow v f.vd.val) (part * bs.length) bs)
          if given then x1
          else c.2.1.zipIdx.foldl (fun x q => match q.1 with
            | some e => vPut x f.vc.val (putBytes (vRow x f.vc.val) (part * g + q.2) [BitVec.ofNat 8 e])
            | none => x) x1
  | _, _ => .fault 8

/-- VCVT. -/
def execVcvt (t : Fin 64) (f : VuFields) (s : State) : Host.Outcome State Fault Refusal :=
  vuNext (vuIssue s t 0x40 { pred := true, vd := .vec, va := .vec, vc := .vec, imm := 0x7FFF } f fun n v s => vcvt s n v f)

/-! ### VDCVT -/

/-- The scale of R47 and R48 for a largest magnitude and a code limit. -/
def scaleFor (a lf : Rat) : Nat :=
  if a = 0 then 127
  else match (List.range 255).find? (fun (e : Nat) => decide (a ≤ lf * pow2 ((e : Int) - 127))) with
    | some e => e
    | none => 254

/-- A drive code (R49, R217): rounded with RNE, limited to `lim`; 1 where it saturated. -/
def driveCode (lim bits scale : Nat) (v : FVal) : Nat × Nat :=
  match v with
  | .num q =>
    let m := roundMag .rne (rabs q / pow2 ((scale : Int) - 127))
    (tc bits (if q < 0 then -((min m lim : Nat) : Int) else ((min m lim : Nat) : Int)), if lim < m then 1 else 0)
  | _ => (0, 0)

/-- Insert a magnitude into a falling list. -/
def insDown (q : Rat) : List Rat → List Rat
  | [] => [q]
  | x :: xs => if x < q then q :: x :: xs else x :: insDown q xs

/-- A drive image (R216): `bits` 4 for B4/512 and 8 for B8/32. -/
def driveImage (bits scale : Nat) (codes : List Nat) : List Byte :=
  if bits = 4 then packElems .b4g512 codes ++ List.replicate 256 0 ++ [BitVec.ofNat 8 scale] ++ List.replicate 15 0 ++ [5] ++ List.replicate 47 0
  else packElems .b8g32 codes ++ List.replicate 16 (BitVec.ofNat 8 scale) ++ [8] ++ List.replicate 47 0

/-- The image that a drive conversion writes, with its counts (R217, R218): mode 0 max, 1 percentile, 2 wide. -/
def driveOf (mode k : Nat) (vals : List FVal) : List Byte × Cnv :=
  let bits := if mode = 0 then 4 else 8
  if vals.any fIsNan then (driveImage bits 255 (List.replicate 512 0), { nan := 1 })
  else
    let mags := vals.foldl (fun l v => insDown (rabs (fvalRat v)) l) []
    let amax := mags.getD 0 0
    let scale := if mode = 0 then scaleFor amax 7 else if mode = 2 then scaleFor amax 112
                 else if amax = 0 then 127 else max (if mags.getD k 0 = 0 then 0 else scaleFor (mags.getD k 0) 7) (scaleFor amax 127)
    let lim := if mode = 0 then 7 else if mode = 2 then 112 else 127
    let cs := vals.map fun v => driveCode lim bits scale v
    (driveImage bits scale (cs.map (·.1)), { sat := (cs.map (·.2)).sum })

/-- VDCVT (R216–R219): one drive image; in a wide run, the next entry of the wide drive area (R218, R283). -/
def vdcvt (s : State) (n : Nat) (v : Vu) (f : VuFields) : VuOut :=
  let tb := tileBase n
  let t := tileAt s n
  let xs := (elemsOf false (vRow v f.vb.val)).map fun c => decodeElem .fp32 c
  let inf := cnvSum (xs.map (·.2))
  if !v.drive then .fault 10
  else if fldOn s tb R.ACC_ESC_STATE_WIDE_RUN then
    match t.mark with
    | none => .done s
    | some m =>
      let k := t.micro.wideN
      if m.op.areaLen ≤ k then .fail stWideArea
      else
        let d := driveOf 2 0 (xs.map (·.1))
        let addr := m.op.area + 576 * k
        if !m.op.areaHbm && !settOwned s n 4 addr 576 then .wait
        else
          let s1 := modTile (vuCnv s n (cnvAdd inf d.2)) n fun x => { x with micro := { x.micro with wideN := k + 1 } }
          if m.op.areaHbm then .done (addJob s1 n none .wideDrv true none 0 [{ newBlk 0 addr false 0 0 0 0 with len := 576, data := d.1 }]).1
          else .done (settWrite s1 n (addr % 2 ^ 24) d.1)
  else if 1 < f.vc.val then .fault 2
  else
    let addr := vuAddr v f.va.val f.imm
    let dm := fld s tb R.ACC_ESC_STATE_DMODE
    let mode := if dm = 1 then 0 else if dm = 2 then 1 else f.vc.val
    vuAccess s n addr 576 64
      (let d := driveOf mode (min 8 (fld s tb R.ACC_CTRL_PCT_K)) (xs.map (·.1))
       .done (settWrite (vuCnv s n (cnvAdd inf d.2)) n addr d.1))

/-- VDCVT. -/
def execVdcvt (t : Fin 64) (f : VuFields) (s : State) : Host.Outcome State Fault Refusal :=
  vuNext (vuIssue s t 0x41 { va := .sc, vb := .vec, vc := .num, imm := 0x03FFFFFF } f fun n v s => vdcvt s n v f)

/-! ### Loads and stores (R220–R222) -/

/-- Predicated load of elements of `sz` bytes into vd. -/
def loadInto (v : Vu) (f : VuFields) (bs : List Byte) : Vu :=
  vPut v f.vd.val (ofElems f.w (keepInactive v f (elemsOf f.w (vRow v f.vd.val)) (elemsOf f.w (ofBytes bs))))

/-- VLD: 2,048 bytes; `bad` names sett words delivered poisoned (R407). -/
def execVld (t : Fin 64) (f : VuFields) (bad : List Nat) (s : State) : Host.Outcome State Fault Refusal :=
  vuNext (vuIssue s t 0x50 { pred := true, wide := true, vd := .vec, va := .sc, imm := 0xFFFFFFFF } f fun n v s =>
    let a := vuAddr v f.va.val f.imm
    vuAccess s n a 2048 64 (vuDone (poisonRead s n 1 (badIn a 2048 bad)) n fun x => loadInto x f (vuRead s n a 2048 bad)))

/-- VST: active elements are stored; with W = 1 a store through an alias is refused whole (R177). -/
def execVst (t : Fin 64) (f : VuFields) (s : State) : Host.Outcome State Fault Refusal :=
  vuNext (vuIssue s t 0x51 { pred := true, wide := true, vd := .vec, va := .sc, imm := 0xFFFFFFFF } f fun n v s =>
    let a := vuAddr v f.va.val f.imm
    vuAccess s n a 2048 64
      (if f.w && decide (settKind a ≠ 0) then .done (aliasRefuse s n)
       else .done (vuStoreRuns s n a (if f.w then 2 else 4) (vBytes (vRow v f.vd.val)) (active v f))))

/-- VLDP: the first 64(VC + 1) bytes; the others become 0. -/
def execVldp (t : Fin 64) (f : VuFields) (bad : List Nat) (s : State) : Host.Outcome State Fault Refusal :=
  vuNext (vuIssue s t 0x52 { pred := true, wide := true, vd := .vec, va := .sc, vc := .num, imm := 0xFFFFFFFF } f fun n v s =>
    let a := vuAddr v f.va.val f.imm
    let len := 64 * (f.vc.val + 1)
    vuAccess s n a len 64 (vuDone (poisonRead s n 1 (badIn a len bad)) n fun x => vPut x f.vd.val (ofBytes (vuRead s n a len bad))))

/-- VSTP: the first 64(VC + 1) bytes of vd. -/
def execVstp (t : Fin 64) (f : VuFields) (s : State) : Host.Outcome State Fault Refusal :=
  vuNext (vuIssue s t 0x53 { pred := true, wide := true, vd := .vec, va := .sc, vc := .num, imm := 0xFFFFFFFF } f fun n v s =>
    let a := vuAddr v f.va.val f.imm
    let len := 64 * (f.vc.val + 1)
    vuAccess s n a len 64 (.done (settWrite s n a ((vBytes (vRow v f.vd.val)).take len))))

/-- The word addresses of the active lanes of a gather or scatter. -/
def laneAddrs (v : Vu) (f : VuFields) : List (Nat × Nat) :=
  ((List.range 512).filter (active v f)).map fun i =>
    (i, ((vuAddr v f.va.val f.imm) + 4 * ((vRow v f.vb.val).getD i 0).toNat) % 2 ^ 26)

/-- Judge the accesses of a gather or scatter: every active lane's word. -/
def lanesAccess (s : State) (n : Nat) (l : List (Nat × Nat)) (go : VuOut) : VuOut :=
  if l.any (fun p => decide (p.2 % 4 ≠ 0)) then .fault 3
  else if l.any (fun p => decide (settKind p.2 = 3)) then .fault 4
  else if l.all (fun p => settOwned s n 4 p.2 4) then go
  else .wait

/-- VGATHER: one word per active lane. -/
def execVgather (t : Fin 64) (f : VuFields) (bad : List Nat) (s : State) : Host.Outcome State Fault Refusal :=
  vuNext (vuIssue s t 0x54 { pred := true, vd := .vec, va := .sc, vb := .vec, imm := 0xFFFFFFFF } f fun n v s =>
    let l := laneAddrs v f
    lanesAccess s n l
      (vuDone (poisonRead s n 1 ((l.flatMap fun p => badIn p.2 4 bad).eraseDups)) n fun x =>
        { x with v := l.foldl (fun r p => sset (fun _ => (0 : Word)) r (512 * f.vd.val + p.1) (BitVec.ofNat 32 (leNat (vuRead s n p.2 4 bad)))) x.v }))

/-- VSCATTER: words of the active lanes in lane order, so the higher lane's value remains (R221). -/
def execVscatter (t : Fin 64) (f : VuFields) (s : State) : Host.Outcome State Fault Refusal :=
  vuNext (vuIssue s t 0x55 { pred := true, vd := .vec, va := .sc, vb := .vec, imm := 0xFFFFFFFF } f fun n v s =>
    let l := laneAddrs v f
    lanesAccess s n l (.done (l.foldl (fun s p => settWrite s n p.2 (leBytes 4 ((vRow v f.vd.val).getD p.1 0).toNat)) s)))

/-- SLD: one word into a scalar. -/
def execSld (t : Fin 64) (f : VuFields) (bad : List Nat) (s : State) : Host.Outcome State Fault Refusal :=
  vuNext (vuIssue s t 0x6E { vd := .sc, va := .sc, imm := 0xFFFFFFFF } f fun n v s =>
    let a := vuAddr v f.va.val f.imm
    vuAccess s n a 4 4 (vuDone (poisonRead s n 1 (badIn a 4 bad)) n fun x => sPut x f.vd.val (BitVec.ofNat 32 (leNat (vuRead s n a 4 bad)))))

/-- SST: one word from a scalar. -/
def execSst (t : Fin 64) (f : VuFields) (s : State) : Host.Outcome State Fault Refusal :=
  vuNext (vuIssue s t 0x6F { vd := .sc, va := .sc, imm := 0xFFFFFFFF } f fun n v s =>
    let a := vuAddr v f.va.val f.imm
    vuAccess s n a 4 4 (.done (settWrite s n a (leBytes 4 (sGet v f.vd.val).toNat))))

/-! ### Reductions (R212) -/

/-- Field use of a reduction into a scalar. -/
def useR (wide : Bool) : VuUse := { pred := true, wide := wide, vd := .sc, va := .vec }

/-- Operands of a reduction: each element's value, inactive ones as +0, and the infinities read. -/
def redVals (v : Vu) (f : VuFields) : List FVal × Nat :=
  let l := (elemsOf f.w (vRow v f.va.val)).map (fpElem f.w)
  let r := l.zipIdx.map fun p => if active v f p.2 then p.1 else (.zero false, 0)
  (r.map (·.1), (r.map (·.2)).sum)

/-- One rounded addition: the value and 1 where it saturated. -/
def addRound (g : FpFmt) (a b : FVal) : FVal × Nat := fpRound g .rne (fAdd a b)

/-- One level of VRSUM: neighbours are added. -/
def sumLevel : List FVal → List (FVal × Nat)
  | a :: b :: t => addRound fpFp32 a b :: sumLevel t
  | [a] => [(a, 0)]
  | [] => []

/-- The levels of VRSUM; the sum and the saturations. -/
def sumTree : Nat → List FVal → Nat → FVal × Nat
  | 0, l, c => (l.getD 0 (.zero false), c)
  | k + 1, l, c => let r := sumLevel l; sumTree k (r.map (·.1)) (c + (r.map (·.2)).sum)

/-- VRSUM. -/
def execVrsum (t : Fin 64) (f : VuFields) (s : State) : Host.Outcome State Fault Refusal :=
  vuNext (vuIssue s t 0x60 (useR true) f fun n v s =>
    let x := redVals v f
    let r := sumTree (if f.w then 10 else 9) x.1 0
    vuDone (vuCnv s n { sat := r.2, inf := x.2 }) n fun y => sPut y f.vd.val (BitVec.ofNat 32 (fpEncode fpFp32 r.1)))

/-- The values of the active elements with their numbers. -/
def activeVals (v : Vu) (f : VuFields) : List (FVal × Nat) :=
  ((elemsOf f.w (vRow v f.va.val)).zipIdx.filter fun p => active v f p.2).map fun p => ((fpElem f.w p.1).1, p.2)

/-- VRMAX and VRMIN: with no active element the spec states no result, which is a free value. -/
def vuRedMax (s : State) (n : Nat) (v : Vu) (f : VuFields) (g : FVal → FVal → FVal) : VuOut :=
  let x := redVals v f
  let s1 := vuCnv s n { inf := x.2 }
  match activeVals v f with
  | [] => vuDone { s1 with freeCtr := s1.freeCtr + 1 } n fun y => sPut y f.vd.val (Config.freeWord s1.freeCtr)
  | l => vuDone s1 n fun y => sPut y f.vd.val (BitVec.ofNat 32 (fpEncode fpFp32 (l.foldl (fun a p => g a p.1) .nan)))

/-- VRMAX. -/
def execVrmax (t : Fin 64) (f : VuFields) (s : State) : Host.Outcome State Fault Refusal :=
  vuNext (vuIssue s t 0x61 (useR true) f fun n v s => vuRedMax s n v f fMax)

/-- VRMIN. -/
def execVrmin (t : Fin 64) (f : VuFields) (s : State) : Host.Outcome State Fault Refusal :=
  vuNext (vuIssue s t 0x62 (useR true) f fun n v s => vuRedMax s n v f fMin)

/-- The lowest element that holds the maximum, kept over a list of elements. -/
def argMax : List (FVal × Nat) → Option (FVal × Nat) → Option (FVal × Nat)
  | [], b => b
  | p :: t, b =>
    if fIsNan p.1 then argMax t b
    else match b with
      | none => argMax t (some p)
      | some q => argMax t (if fLt q.1 p.1 then some p else some q)

/-- VRARGMAX: 0xFFFF_FFFF if no active element holds a number. -/
def execVrargmax (t : Fin 64) (f : VuFields) (s : State) : Host.Outcome State Fault Refusal :=
  vuNext (vuIssue s t 0x63 (useR true) f fun n v s =>
    let r := match argMax (activeVals v f) none with
      | some p => BitVec.ofNat 32 p.2
      | none => 0xFFFFFFFF#32
    vuDone (vuCnv s n { inf := (redVals v f).2 }) n fun y => sPut y f.vd.val r)

/-- The levels d, d + 1, … of VSCAN; each addition rounds. -/
def scanLevels (g : FpFmt) : Nat → Nat → List FVal → Nat → List FVal × Nat
  | 0, _, l, c => (l, c)
  | k + 1, d, l, c =>
    let r := l.zipIdx.map fun p => if 2 ^ d ≤ p.2 then addRound g p.1 (l.getD (p.2 - 2 ^ d) (.zero false)) else (p.1, 0)
    scanLevels g k (d + 1) (r.map (·.1)) (c + (r.map (·.2)).sum)

/-- VSCAN: inclusive prefix sums; inactive lanes receive no result. -/
def execVscan (t : Fin 64) (f : VuFields) (s : State) : Host.Outcome State Fault Refusal :=
  vuNext (vuIssue s t 0x64 use1 f fun n v s =>
    let x := redVals v f
    let g := if f.w then fpBf16 else fpFp32
    let r := scanLevels g (if f.w then 10 else 9) 0 x.1 0
    let new := keepInactive v f (elemsOf f.w (vRow v f.vd.val)) (r.1.map (fpEncode g))
    vuDone (vuCnv s n { sat := r.2, inf := x.2 }) n fun y => vPut y f.vd.val (ofElems f.w new))

/-- VRISUM: the INT32 sum of the active lanes, modulo 2^32. -/
def execVrisum (t : Fin 64) (f : VuFields) (s : State) : Host.Outcome State Fault Refusal :=
  vuNext (vuIssue s t 0x65 (useR false) f fun n v s =>
    let r := (vRow v f.va.val).zipIdx.foldl (fun (a : Word) p => if active v f p.2 then a + p.1 else a) 0
    vuDone s n fun y => sPut y f.vd.val r)

/-! ### Sort steps (R223) -/

/-- Is key a larger than key b: a NaN is smaller than every number, equal keys are not larger. -/
def keyLarger (a b : Word) : Bool :=
  let x := fp32Dec a
  let y := fp32Dec b
  !fIsNan x && (fIsNan y || fLt y x)

/-- Infinities among keys that are compared (R39). -/
def keyInfs (l : List Word) : Nat := (l.map fp32Inf).sum

/-- VCX. -/
def execVcx (t : Fin 64) (f : VuFields) (s : State) : Host.Outcome State Fault Refusal :=
  vuNext (vuIssue s t 0x70 { vd := .even, va := .even, imm := 0x1FF } f fun n v s =>
    let J := bits f.imm.toNat 3 0
    let K := bits f.imm.toNat 7 4
    let D := bitOn f.imm.toNat 8
    if 8 < J || decide (K = 0) || decide (9 < K) then .fault 2
    else
      let keys := vRow v f.va.val
      let pay := vRow v (f.va.val + 1)
      let from' := (List.range 512).map fun i =>
        let m := i ^^^ 2 ^ J
        let lo := min i m
        let hi := max i m
        let b := xor (bitOn lo K) D
        let swap := if b then keyLarger (keys.getD lo 0) (keys.getD hi 0) else keyLarger (keys.getD hi 0) (keys.getD lo 0)
        if swap then m else i
      vuDone (vuCnv s n { inf := keyInfs keys }) n fun x =>
        vPut (vPut x f.vd.val (from'.map fun i => keys.getD i 0)) (f.vd.val + 1) (from'.map fun i => pay.getD i 0))

/-- VCXR. -/
def execVcxr (t : Fin 64) (f : VuFields) (s : State) : Host.Outcome State Fault Refusal :=
  vuNext (vuIssue s t 0x71 { vd := .even, va := .even, vb := .even } f fun n v s =>
    let ka := vRow v f.va.val
    let kb := vRow v f.vb.val
    let pa := vRow v (f.va.val + 1)
    let pb := vRow v (f.vb.val + 1)
    let sel := (List.range 512).map fun i => keyLarger (kb.getD i 0) (ka.getD i 0)
    let pick : List Word → List Word → List Word := fun a b => sel.zipIdx.map fun p => if p.1 then b.getD p.2 (0 : Word) else a.getD p.2 (0 : Word)
    let s1 := vuCnv s n { inf := keyInfs ka + keyInfs kb }
    let ks : List Word := pick ka kb
    let ps : List Word := pick pa pb
    vuDone s1 n fun x => vPut (vPut x f.vd.val ks) (f.vd.val + 1) ps)

/-! ### Random draws (R224–R226) -/

/-- A draw of consumer 0 into vd. -/
def vuDraw (s : State) (n : Nat) (v : Vu) (f : VuFields) (g : BitVec 64 → Nat) : VuOut :=
  let c := rngCtr s n 0
  vuBits (takeDraws s n 0 1) n v f ((List.range 512).map fun i => g (drawLane (rngSeed s n) 0 c i))

/-- VRND: bits 31:0. -/
def execVrnd (t : Fin 64) (f : VuFields) (s : State) : Host.Outcome State Fault Refusal :=
  vuNext (vuIssue s t 0x78 { pred := true, vd := .vec } f fun n v s => vuDraw s n v f fun z => z.toNat % 2 ^ 32)

/-- VRNDU: bits 63:40 × 2^−24 as FP32. -/
def execVrndu (t : Fin 64) (f : VuFields) (s : State) : Host.Outcome State Fault Refusal :=
  vuNext (vuIssue s t 0x79 { pred := true, vd := .vec } f fun n v s =>
    vuDraw s n v f fun z => fpEncode fpFp32 (ofSum (((z.toNat / 2 ^ 40 : Nat) : Rat) / (2 ^ 24 : Nat))))

/-- RSEED. -/
def execRseed (t : Fin 64) (f : VuFields) (s : State) : Host.Outcome State Fault Refusal :=
  vuNext (vuIssue s t 0x7A { va := .sc, vb := .sc } f fun n v s => .done (reseed s n ((sGet v f.va.val).toNat + 2 ^ 32 * (sGet v f.vb.val).toNat)))

/-- VU_RNG_SEED_WRITE: the host writes the seed (R226). -/
def execVuRngSeedWrite (t : Fin 64) (seed : BitVec 64) (s : State) : Host.Outcome State Fault Refusal :=
  .next (if hostUp s then writeSeed s (phys s t) seed.toNat else s)

/-! ### Control flow (R230, R231) -/

/-- LOOP. -/
def execLoop (t : Fin 64) (f : VuFields) (s : State) : Host.Outcome State Fault Refusal :=
  vuNext (vuIssue s t 0x7B { va := .sc, imm := 0x1FFF } f fun n v s =>
    let len := f.imm.toNat % 8192
    let first := v.pc + 1
    let last := first + len
    let past := match v.loops with
      | l :: _ => decide (l.last < last)
      | [] => false
    if len = 0 || decide (4 ≤ v.loops.length) || past then .fault 6
    else
      let k := (sGet v f.va.val).toNat
      if k = 0 then .goto last s
      else .goto first (modVu s n fun x => { x with loops := { first := first, last := last, left := k } :: x.loops }))

/-- A branch: its target is checked whether it is taken or not (R230). -/
def vuBranch (s : State) (v : Vu) (f : VuFields) (take : Word → Bool) : VuOut :=
  let target : Int := (v.pc : Int) + f.imm.toInt
  let ok := decide (0 ≤ target) && decide (target < 8192) && (match v.loops with
    | l :: _ => decide ((l.first : Int) ≤ target) && decide (target < (l.last : Int))
    | [] => true)
  if !ok then .fault 7 else if take (sGet v f.va.val) then .goto target.toNat s else .goto (v.pc + 1) s

/-- BNZ. -/
def execBnz (t : Fin 64) (f : VuFields) (s : State) : Host.Outcome State Fault Refusal :=
  vuNext (vuIssue s t 0x7C { va := .sc, imm := 0xFFFFFFFF } f fun _ v s => vuBranch s v f fun w => decide (w ≠ 0))

/-- BZ. -/
def execBz (t : Fin 64) (f : VuFields) (s : State) : Host.Outcome State Fault Refusal :=
  vuNext (vuIssue s t 0x7D { va := .sc, imm := 0xFFFFFFFF } f fun _ v s => vuBranch s v f fun w => decide (w = 0))

/-- END ends the kernel (R229). -/
def execVuEnd (t : Fin 64) (f : VuFields) (s : State) : Host.Outcome State Fault Refusal :=
  vuNext (vuIssue s t 0x7F {} f fun _ _ s => .finish s)

/-- VU_WATCHDOG: a dispatch that reaches WDOG × 1,024 tc faults with cause 9 (R231). -/
def execVuWatchdog (t : Fin 64) (s : State) : Host.Outcome State Fault Refusal :=
  let n := phys s t
  let v := (tileAt s n).vu
  let lim := max 1 (fld s (tileBase n) R.VU_CTRL_WDOG) * 1024
  .next (if v.run && decide (v.tStart + lim ≤ s.now) then vuFault s n 9 else s)

end Sys2Proof.Machine
end

