-- ==== Sys2Proof/Machine/Marten.lean ====
section
/-! DEFINITION. The Marten update unit (R328–R346): the start of an update, its visits, the operations of an update program, the B4 projection and
the weight-outlier lists. -/

namespace Sys2Proof.Machine

/-! ### Programs (R334–R336) -/

/-- Kind of an operand code: 0 element, 1 row, 2 column, 3 scalar, 4 reserved. -/
def opKind (c : Nat) : Nat :=
  if c < 8 then 0 else if c < 10 then 1 else if c < 12 then 2 else if c < 14 then 3 else if 16 ≤ c ∧ c < 30 then 3 else 4

/-- An operation word (R334). -/
def opWord (op d a b c : Nat) : Word := BitVec.ofNat 32 (op * 2 ^ 26 + d * 2 ^ 21 + a * 2 ^ 16 + b * 2 ^ 11 + c * 2 ^ 6)

/-- Sources that an operation uses; none for a reserved opcode. -/
def opSources (op : Nat) : Option Nat :=
  if op = 0 then some 0 else if op = 4 then some 3 else if op ≤ 6 ∨ op = 13 then some 2 else if op ≤ 14 ∨ (16 ≤ op ∧ op ≤ 19) then some 1 else none

/-- Does an operand name a state the bucket has as elements. -/
def stateNamed (fmt c : Nat) : Bool :=
  !(decide (c = 1) && decide (fmt % 4 = 0)) && !(decide (c = 2) && (decide (fmt / 4 % 4 = 0) || decide (fmt / 4 % 4 = 3)))

/-- Does one operation word keep R334 to R336 for a bucket's FMT. -/
def opOk (fmt : Nat) (w : Word) : Bool :=
  let n := w.toNat
  let op := bits n 31 26
  let d := bits n 25 21
  let f := [bits n 20 16, bits n 15 11, bits n 10 6]
  match opSources op with
  | none => false
  | some k =>
    let src := f.take k
    decide (n % 64 = 0) && (f.drop k).all (fun x => decide (x = 0)) && (if op = 0 then decide (d = 0) else
      decide (d < 14) && stateNamed fmt d && src.all (fun x => decide (opKind x < 4) && stateNamed fmt x) &&
      (if op = 16 then decide (opKind d = 1) && src.all fun x => decide (opKind x = 0)
       else if op = 17 then decide (opKind d = 2) && src.all fun x => decide (opKind x = 0)
       else if op = 18 then decide (opKind d = 3) && src.all fun x => decide (opKind x = 0)
       else if op = 19 then decide (opKind d = 3) && src.all fun x => decide (opKind x = 1 ∨ opKind x = 2)
       else src.all fun x => decide (opKind d = 0) || decide (opKind x = opKind d) || decide (opKind x = 3)))

/-- Does a program keep R336, up to its END. -/
def progOk (fmt : Nat) : List Word → Bool
  | [] => true
  | w :: t => opOk fmt w && (decide (bits w.toNat 31 26 = 0) || progOk fmt t)

/-! ### Operand buffers -/

/-- Values of an operand at its own kind. -/
def opVals (v : MVisit) (regs : List Word) (c : Nat) : List Word :=
  if c < 8 then v.el.getD c [] else if c < 10 then v.rows.getD (c - 8) [] else if c < 12 then v.cols.getD (c - 10) []
  else if c < 14 then [v.sc.getD (c - 12) 0] else [regs.getD (c - 16) 0]

/-- Values of a source as a destination of kind `k` reads it. -/
def srcVals (v : MVisit) (regs : List Word) (k c : Nat) : List Word :=
  let x := opVals v regs c
  match k, opKind c with
  | 0, 1 => (List.replicate 32 x).flatten
  | 0, 2 => x.flatMap fun w => List.replicate 512 w
  | 0, 3 => List.replicate 16384 (x.getD 0 0)
  | 1, 3 => List.replicate 512 (x.getD 0 0)
  | 2, 3 => List.replicate 32 (x.getD 0 0)
  | _, _ => x

/-- Store an operand. -/
def putOp (v : MVisit) (c : Nat) (x : List Word) : MVisit :=
  if c < 8 then { v with el := v.el.set c x } else if c < 10 then { v with rows := v.rows.set (c - 8) x }
  else if c < 12 then { v with cols := v.cols.set (c - 10) x } else { v with sc := v.sc.set (c - 12) (x.getD 0 0) }

/-- SIGN. -/
def fSign : FVal → FVal
  | .nan => .nan
  | .zero _ => .zero false
  | .num q => .num (if q < 0 then -1 else 1)

/-- SQRT, within 2 units in the last place (R335, R336). -/
def mSqrt (free : Nat) : FVal → Word × Nat
  | .nan => (fp32NaN, 0)
  | .zero n => (if n then 0x80000000#32 else 0, 0)
  | .num q => if q < 0 then (fp32NaN, 0) else transResult free 2 false (sqrtRef q)

/-- One result of an element-wise operation, and 1 where it saturated. -/
def opElem (op free : Nat) (a b c : FVal) : Word × Nat :=
  match op with
  | 1 => fp32Enc .rne (fAdd a b)
  | 2 => fp32Enc .rne (fSub a b)
  | 3 => fp32Enc .rne (fMul a b)
  | 4 => fp32Enc .rne (fFma a b c)
  | 5 => fp32Enc .rne (fMax a b)
  | 6 => fp32Enc .rne (fMin a b)
  | 7 => fp32Enc .rne (fAbs a)
  | 8 => fp32Enc .rne (fNeg a)
  | 9 => fp32Enc .rne (fSign a)
  | 10 => mSqrt free a
  | 11 => tRsqrt free a
  | 12 => tRcp free a
  | 13 => fp32Enc .rne (fMax (fNeg (fAbs b)) (fMin (fAbs b) a))
  | _ => fp32Enc .rne a

/-- Results of an element-wise operation in order, with the saturations. -/
def opMap (op : Nat) : Nat → List Word → List Word → List Word → List Word × Nat
  | free, a :: ta, b :: tb, c :: tc =>
    let r := opElem op free (fp32Dec a) (fp32Dec b) (fp32Dec c)
    let t := opMap op (free + 1) ta tb tc
    (r.1 :: t.1, r.2 + t.2)
  | _, _, _, _ => ([], 0)

/-- Columns of an element operand. -/
def colsOf (l : List Word) : List (List Word) := (List.range 32).map fun j => (l.drop (512 * j)).take 512

/-- Rows of an element operand. -/
def rowsOf (l : List Word) : List (List Word) := (colsOf l).foldr (fun c acc => List.zipWith (· :: ·) c acc) (List.replicate 512 [])

/-- A mean (R336): the pairwise tree of R212 over 2^k values, times 2^−k. -/
def meanOf (k : Nat) (l : List Word) : Word × Nat :=
  let r := sumTree k (l.map fp32Dec) 0
  let e := fp32Enc .rne (scale2 (-(k : Int)) r.1)
  (e.1, r.2 + e.2)

/-- Run one operation on the operand buffers of MC m. -/
def runOp (s : State) (m : Nat) (v : MVisit) (regs : List Word) (w : Word) : MVisit × State :=
  let n := w.toNat
  let op := bits n 31 26
  let d := bits n 25 21
  let a := bits n 20 16
  let mb := mcBase m
  if op = 0 then ({ v with ended := true }, s)
  else if 16 ≤ op then
    let src := opVals v regs a
    let r := if op = 16 then (rowsOf src).map (meanOf 5) else if op = 17 then (colsOf src).map (meanOf 9) else if op = 18 then [meanOf 14 src]
             else [meanOf (if src.length = 512 then 9 else 5) src]
    (putOp { v with pc := v.pc + 1 } d (r.map (·.1)), countCnv s mb R.MRT_CNV_SAT { sat := (r.map (·.2)).sum, inf := (src.map fp32Inf).sum })
  else
    let k := opKind d
    let n1 := if k = 0 then 16384 else if k = 1 then 512 else if k = 2 then 32 else 1
    let nsrc := (opSources op).getD 0
    let z := List.replicate n1 (0 : Word)
    let sa := srcVals v regs k a
    let sb := if 2 ≤ nsrc then srcVals v regs k (bits n 15 11) else z
    let sc := if 3 ≤ nsrc then srcVals v regs k (bits n 10 6) else z
    let r := opMap op s.freeCtr sa sb sc
    let s1 := countCnv s mb R.MRT_CNV_SAT { sat := r.2, inf := ((sa ++ sb ++ sc).map fp32Inf).sum }
    (putOp { v with pc := v.pc + 1 } d r.1, { s1 with freeCtr := s1.freeCtr + n1 })

/-- Run the rest of a program. -/
def runProg (m : Nat) (regs prog : List Word) : Nat → MVisit × State → MVisit × State
  | 0, x => x
  | f + 1, x => if x.1.ended || decide (32 ≤ x.1.pc) then x else runProg m regs prog f (runOp x.2 m x.1 regs (prog.getD x.1.pc 0))

/-! ### The end of an update (R333, R414) -/

/-- Store the update in progress, and show it in MRT_STATE. -/
def setUpd (s : State) (m : Nat) (u : Option MUpd) : State :=
  let s1 := modMc s m fun x => { x with upd := u }
  let mb := mcBase m
  match u with
  | none => setFld s1 mb R.MRT_STATE_BUSY 0
  | some v => setFld (setFld (setFld (setFld s1 mb R.MRT_STATE_BUSY 1) mb R.MRT_STATE_ENTRY v.entry) mb R.MRT_STATE_SLICE v.sigma) mb R.MRT_STATE_BLOCK v.blk

/-- MRT_LAST. -/
def setLast (s : State) (m result entry sigma blk : Nat) (list : Bool) : State :=
  wrReg s (mcBase m + R.MRT_LAST.off) (BitVec.ofNat 32 (result * 2 ^ 28 + entry % 2 ^ 14 * 2 ^ 14 + sigma % 64 * 2 ^ 8 + blk % 16 * 16 + (if list then 8 else 0)))

/-- Forget which blocks of a bucket were visited (R323). -/
def clearVisited (s : State) (m bucket : Nat) : State := modMc s m fun x => { x with visited := x.visited.filter fun p => decide (p.1 ≠ bucket) }

/-- Clocks of an update with BUSY set. -/
def busyCount (s : State) (m : Nat) (u : MUpd) : State := count s (mcBase m) R.MRT_BUSY_MC ((s.now - u.t0) / 2)

/-- An update fails (R333): the bucket becomes FAILED and keeps its armed copy for a repeat. -/
def failUpd (s : State) (m : Nat) (u : MUpd) (result sigma blk : Nat) (list : Bool) : State :=
  let s1 := match findEntry s m u.bucket with
    | some e => putPhase s m e 4 (armedOf e)
    | none => s
  let s2 := modMc (clearVisited s1 m u.bucket) m fun x => { x with failArm := x.failArm.filter (fun p => decide (p.1 ≠ u.bucket)) ++ [(u.bucket, u.armed)] }
  let s3 := setUpd (busyCount (setLast s2 m result u.entry sigma blk list) m u) m none
  let s4 := raiseBit (count s3 (mcBase m) R.MRT_FAIL_CNT 1) (mcBase m) R.MRT_STATUS_FAIL
  mcReport s4 m u.bucket result sigma (if list then 16 else blk)

/-- An update is complete (R322, R333): the bucket returns to OPEN. -/
def endUpd (s : State) (m : Nat) (u : MUpd) (e : BktEntry) : State :=
  let s1 := putState s m e (stateWord 0 (armedOf e) false (uaccOf e))
  let s2 := setUpd (busyCount (setLast (clearVisited s1 m u.bucket) m 0 u.entry 0 0 false) m u) m none
  mcReport (count s2 (mcBase m) R.MRT_UPD_CNT 1) m u.bucket 0 0 0

/-! ### The start of an update (R328, R329, R336) -/

/-- K = 2^(−U_ACC) / D rounded once to FP32; +0 where D is 0. -/
def kOf (u : Int) (d : Nat) : Word := if d = 0 then 0 else fp32Of (.num (pow2 (-u) / (d : Rat)))

/-- Packets accepted before the bucket closed that the engine has not added (R384). -/
def beforeClose (s : State) (m bucket vnew : Nat) : Bool := (mcAt s m).accq.any fun p => decide (p.bucket = bucket) && !p.area && decide (p.step < vnew)

/-- MARTEN_UPDATE_START: Marten takes the bucket that became QUEUED first. -/
def martenStart (s : State) (m : Nat) : State :=
  if !fldOn s (mcBase m) R.MRT_CTRL_ENABLE || (mcAt s m).upd.isSome then s
  else
    match (mcAt s m).mq with
    | [] => s
    | (bucket, a) :: rest =>
      match findEntry s m bucket with
      | none => modMc (raiseBit s (mcBase m) R.MRT_STATUS_NO_ENTRY) m fun x => { x with mq := rest }
      | some e =>
        if beforeClose s m bucket e.vnew then s
        else
          let u : MUpd := { bucket := bucket, entry := e.idx, k := kOf (uaccOf e) e.div, d := e.div, armed := a, sigma := (mcSlices e m).headD 0, blk := 0,
                            visit := none, full := [], cands := [], t0 := s.now }
          let s1 := setUpd (putPhase (modMc (clearVisited s m bucket) m fun x => { x with mq := rest }) m e 3 (armedOf e)) m (some u)
          if !entryOk e then failUpd s1 m u 4 0 0 false
          else if e.div ≠ 0 ∧ !(match a with | some x => progOk e.fmt x.prog | none => false) then failUpd s1 m u 3 0 0 false
          else if mcSlices e m = [] then endUpd s1 m u { e with state := e.state - phaseOf e + 3 }
          else s1

/-- MARTEN_UPDATE_START. -/
def execMartenUpdateStart (m : Fin 24) (s : State) : Host.Outcome State Fault Refusal := .next (martenStart s m)

/-! ### Visits (R330–R332) -/

/-- Read and check the blocks of one part of an update block, in order; none where one fails. -/
def readPart (s : State) (m L tid blk0 fmt n bad : Nat) : Option (List (List Byte)) × State :=
  (List.range n).foldl (fun acc b =>
    match acc.1 with
    | none => acc
    | some l =>
      let r := readChecked acc.2 m (L + 9216 * b) { tid := tid % 2 ^ 32, blk := (blk0 + b) % 2 ^ 32, fmt := fmt, layout := 0 } bad
      if r.2.1 then (some (l ++ [r.1]), r.2.2) else (none, r.2.2)) (some [], s)

/-- FP32 words of a state's blocks, BF16 widened. -/
def stateWords (bf16 : Bool) (bs : List (List Byte)) : List Word :=
  if bf16 then bs.flatMap fun b => (List.range 4096).map fun i => BitVec.ofNat 32 (fieldLe b (2 * i) 2 * 65536) else bs.flatMap blockWords

/-- Words as the operand buffers hold them: infinities replaced (R39); with their number. -/
def normWords (l : List Word) : List Word × Nat := (l.map fun w => if fp32Inf w = 1 then fp32Of (fp32Dec w) else w, (l.map fp32Inf).sum)

/-- What a visit's first step found: it failed, its master already carries VNEW, or the operand buffers. -/
inductive Loaded
  | failed
  | skip
  | ready (v : MVisit)
  deriving DecidableEq, Repr

/-- Is the update block of a visit touched. -/
def visitTouched (s : State) (m : Nat) (u : MUpd) (e : BktEntry) : Bool := touched s m e.idx (16 * u.sigma + u.blk)

/-- The accumulation target of a visit, read where the block is touched. -/
def visitTarget (s : State) (m : Nat) (u : MUpd) (e : BktEntry) (tch : Bool) : Option (List (List Byte)) × State :=
  if tch then readPart s m (targetAddr e u.sigma u.blk) (e.mtid + 3) (8 * (e.pblk0 + 16 * u.sigma + u.blk)) 0 8 0 else (some [], s)

/-- Step 1 of R330: the master, the states, and the target where the block is touched, each read and checked. -/
def visitParts (s : State) (m : Nat) (u : MUpd) (e : BktEntry) (bad : Nat) :
    (Option (List (List Byte)) × Option (List (List Byte)) × Option (List (List Byte)) × Option (List (List Byte))) × State :=
  let L := recAddr e u.sigma u.blk
  let bk := e.pblk0 + 16 * u.sigma + u.blk
  let n := stateBlocks e.fmt
  let pm := readPart s m L e.mtid (8 * bk) 0 8 bad
  let p1 := readPart pm.2 m (L + 8 * 9216) (e.mtid + 1) (n.1 * bk) (if e.fmt % 4 = 2 then 1 else 0) n.1 0
  let p2 := readPart p1.2 m (L + (8 + n.1) * 9216) (e.mtid + 2) (n.2 * bk) (if e.fmt / 4 % 4 = 2 then 1 else 0) n.2 0
  let pg := visitTarget p2.2 m u e (visitTouched s m u e)
  ((pm.1, p1.1, p2.1, pg.1), pg.2)

/-- A zero operand of the elements. -/
def zeroBuf : List Word := List.replicate 16384 (0 : Word)

/-- Step 2 of R330: the operand buffers, and what their loading counts. -/
def visitBuffers (u : MUpd) (e : BktEntry) (tch : Bool) (bm b1 b2 bg : List (List Byte)) : MVisit × Cnv :=
  let n := stateBlocks e.fmt
  let fac := decide (e.fmt / 4 % 4 = 3)
  let wm := normWords (bm.flatMap blockWords)
  let w1 := normWords (stateWords (decide (e.fmt % 4 = 2)) b1)
  let w2 := normWords (stateWords (decide (e.fmt / 4 % 4 = 2)) b2)
  let gs := (bg.flatMap blockWords).map fun w => fp32Op [w, u.k] fun x => fMul (x.getD 0 .nan) (x.getD 1 .nan)
  let zr := List.replicate 512 (0 : Word)
  let zc := List.replicate 32 (0 : Word)
  ({ el := [wm.1, if n.1 = 0 then zeroBuf else w1.1, if n.2 = 0 || fac then zeroBuf else w2.1, if tch then gs.map (·.1) else zeroBuf, zeroBuf, zeroBuf, zeroBuf, zeroBuf],
     rows := [if fac then w2.1.take 512 else zr, zr], cols := [if fac then (w2.1.drop 512).take 32 else zc, zc], sc := [0, 0], pc := 0,
     ended := false }, cnvAdd (cnvSum (gs.map (·.2))) { inf := wm.2 + w1.2 + w2.2 })

/-- Steps 1 and 2 of R330. -/
def loadVisit (s : State) (m : Nat) (u : MUpd) (e : BktEntry) (bad : Nat) : Loaded × State :=
  let r := visitParts s m u e bad
  match r.1 with
  | (some bm, some b1, some b2, some bg) =>
    if (bm.map fun b => (trailerOf b).version) = List.replicate 8 (e.vnew % 2 ^ 48) then (.skip, r.2)
    else
      let v := visitBuffers u e (visitTouched s m u e) bm b1 b2 bg
      (.ready v.1, countCnv r.2 (mcBase m) R.MRT_CNV_SAT v.2)
  | _ => (.failed, r.2)

/-- Is a visit to this block a full one (R330): touched or DENSE, and D not 0. -/
def fullVisit (s : State) (m : Nat) (u : MUpd) (e : BktEntry) : Bool :=
  decide (u.d ≠ 0) && (visitTouched s m u e || denseOf e)

/-! ### The B4 projection (R338, R339, R341) -/

/-- A projected column: scale byte, codes, candidates, SAT, ZERO and the counts. -/
structure ProjCol where
  scale : Nat
  codes : List Nat
  cands : List Outlier
  sat : Nat
  zero : Nat
  cnv : Cnv
  deriving DecidableEq, Repr

/-- Total code of one element (R339): its magnitude rounded by SR, with its sign. -/
def totalCode (r : Rnd) (scale : Nat) (v : FVal) : Int :=
  let w := (roundMag r (rabs (fvalRat v) / pow2 ((scale : Int) - 127)) : Int)
  if fvalNeg v then -w else w

/-- Project one column, plane column `col`, with K outliers and draw lanes `rnd`. -/
def projCol (ps : Word) (k col : Nat) (rnd : Nat → Rnd) (ms : List Word) : ProjCol :=
  let q := ms.map fun w => fp32Enc .rne (fMul (fp32Dec w) (match fp32Dec ps with | .num p => .num (1 / p) | z => z))
  let vs := q.map fun x => fp32Dec x.1
  let sat0 := (q.map (·.2)).sum
  if vs.any fIsNan then { scale := 255, codes := vs.map fun _ => 0, cands := [], sat := 0, zero := 0, cnv := { sat := sat0, nan := 1 } }
  else
    let mags := vs.foldl (fun l v => insDown (rabs (fvalRat v)) l) []
    let a := if mags.getD k 0 = 0 then mags.getD 0 0 else mags.getD k 0
    let e := scaleFor a 7
    let ws := vs.zipIdx.map fun p => totalCode (rnd p.2) e p.1
    let code := fun (w : Int) => clampI (-7) 7 w
    let cs : List Outlier := if k = 0 then [] else ws.zipIdx.filterMap fun p =>
      if p.1 = code p.1 then none else some { row := p.2, col := col, res := clampI (-105) 105 (p.1 - code p.1) }
    let excess := if k = 0 then (ws.filter fun w => decide (w ≠ code w)).length else 0
    let clip := if k = 0 then 0 else (ws.filter fun w => decide (w - code w ≠ clampI (-105) 105 (w - code w))).length
    { scale := e, codes := ws.map fun w => tc 4 (code w), cands := cs, sat := excess + clip,
      zero := ((vs.zip ws).filter fun p => decide (fvalRat p.1 ≠ 0) && decide (p.2 = 0)).length, cnv := { sat := sat0 + excess } }

/-- Seed of an MC's generator. -/
def mcSeed (s : State) (m : Nat) : Nat := fld s (mcBase m) R.MRT_SEED_SEED

/-- Project a master buffer: the 32 columns, one draw of consumer 0 each (R346). -/
def projBlock (s : State) (m : Nat) (e : BktEntry) (blk : Nat) (ms : List Word) : List ProjCol :=
  let ctr := fld s (mcBase m) (fldAt R.MRT_RNG_CTR_COUNT 0)
  (colsOf ms).zipIdx.map fun c =>
    projCol (BitVec.ofNat 32 e.pscale) e.outk (32 * blk + c.2) (fun i => .sr ((drawLane (mcSeed s m) 0 ((ctr + c.2) % 2 ^ 48) i).toNat % 65536)) c.1

/-- Trailer of a block that Marten writes (R331). -/
def martenTrailer (s : State) (e : BktEntry) (tid blk format summary : Nat) : Trailer :=
  { crc := 0, version := e.vnew % 2 ^ 48, tag := fld s 0 R.XCH_TAG_TAG, tid := tid % 2 ^ 32, block := blk % 2 ^ 32, format := format, flags := flagMarten, summary := summary }

/-- Write the blocks of one part. -/
def writePart (s : State) (m L tid blk0 fmt : Nat) (e : BktEntry) (pay : List (List Byte)) : State :=
  pay.zipIdx.foldl (fun s p => localWrite s m (L + 9216 * p.2) (mkBlock p.1 [] (martenTrailer s e tid (blk0 + p.2) fmt 0))) s

/-- Split a list into runs of n. -/
def chunks {α : Type} (n k : Nat) (l : List α) : List (List α) := (List.range k).map fun i => (l.drop (n * i)).take n

/-- Payloads of a state's blocks, BF16 by RNE, with the counts. -/
def statePay (bf16 : Bool) (ws : List Word) : List (List Byte) × Cnv :=
  if bf16 then
    let r := ws.map fun w => encodeElem .bf16 .rne (fp32Dec w)
    ((chunks 4096 4 (r.map (·.1))).map fun l => l.flatMap (leBytes 2), cnvSum (r.map (·.2)))
  else ((chunks 2048 8 ws).map wordBytes, {})

/-- Local address of a slice's projection block k. -/
def projAddr (e : BktEntry) (sigma k : Nat) : Nat := pubAddr e sigma + 9216 * k

/-- Expected identifiers of a projection block. -/
def projExpect (e : BktEntry) (sigma k : Nat) : Expect := { tid := e.ptid, blk := (e.pblk0 + 16 * sigma + k) % 2 ^ 32, fmt := fmtCode .b4g512, layout := 1 }

/-- Step 5 of R330: write master, states and projection. -/
def writeVisit (s : State) (m : Nat) (u : MUpd) (e : BktEntry) (v : MVisit) (pc : List ProjCol) : State :=
  let mb := mcBase m
  let L := recAddr e u.sigma u.blk
  let bk := e.pblk0 + 16 * u.sigma + u.blk
  let n := stateBlocks e.fmt
  let b1 := decide (e.fmt % 4 = 2)
  let b2 := decide (e.fmt / 4 % 4 = 2)
  let s1 := writePart s m L e.mtid (8 * bk) 0 e ((chunks 2048 8 (v.el.getD 0 [])).map wordBytes)
  let p1 := statePay b1 (v.el.getD 1 [])
  let s2 := if n.1 = 0 then s1 else countCnv (writePart s1 m (L + 8 * 9216) (e.mtid + 1) (n.1 * bk) (if b1 then 1 else 0) e p1.1) mb R.MRT_CNV_SAT p1.2
  let p2 := statePay b2 (v.el.getD 2 [])
  let a2 := L + (8 + n.1) * 9216
  let s3 := if n.2 = 0 then s2
            else if e.fmt / 4 % 4 = 3 then writePart s2 m a2 (e.mtid + 2) bk 0 e [wordBytes (v.rows.getD 0 [] ++ v.cols.getD 0 [])]
            else countCnv (writePart s2 m a2 (e.mtid + 2) (n.2 * bk) (if b2 then 1 else 0) e p2.1) mb R.MRT_CNV_SAT p2.2
  let sum := min 0xFFFF (pc.map (·.sat)).sum + min 0xFFFF (pc.map (·.zero)).sum * 2 ^ 16
  let blk := mkBlock (packElems .b4g512 (pc.flatMap (·.codes))) (pc.map fun c => BitVec.ofNat 8 c.scale)
    (martenTrailer s3 e e.ptid bk (fmtCode .b4g512 + 16) sum)
  countCnv (localWrite s3 m (projAddr e u.sigma u.blk) blk) mb R.MRT_CNV_SAT (cnvSum (pc.map (·.cnv)))

/-! ### Lists (R340, R342) -/

/-- Insert into a list kept in order. -/
def insBy {α : Type} (before : α → α → Bool) (x : α) : List α → List α
  | [] => [x]
  | y :: t => if before x y then x :: y :: t else y :: insBy before x t

/-- Sort, keeping equal members in order. -/
def sortBy {α : Type} (before : α → α → Bool) (l : List α) : List α := l.foldl (fun acc x => insBy before x acc) []

/-- Order of a list: column, then row. -/
def byCell (a b : Outlier) : Bool := decide (a.col < b.col) || (decide (a.col = b.col) && decide (a.row < b.row))

/-- Order in which candidates are placed (R340). -/
def byRes (a b : Outlier) : Bool := decide (b.res.natAbs < a.res.natAbs) || (decide (a.res.natAbs = b.res.natAbs) && byCell a b)

/-- An entry word (R113). -/
def entryWord (o : Outlier) : Nat := o.row * 2 ^ 23 + o.col * 2 ^ 14 + tc 8 o.res

/-- Local address of a slice's list block. -/
def listAddr (e : BktEntry) (sigma : Nat) : Nat := pubAddr e sigma + 147456

/-- Add dropped candidates to a projection block's CLIP (R340). -/
def addClip (s : State) (m : Nat) (e : BktEntry) (sigma k n : Nat) : State :=
  let b := localPeek s m (projAddr e sigma k) 9216
  let t := trailerOf b
  localWrite s m (projAddr e sigma k) (restamp b { t with summary := t.summary % 2 ^ 32 + min 0xFFFF n * 2 ^ 32 })

/-- The entries of a slice's list that stay from the previous one: those of columns no full visit projected. -/
def keptEntries (u : MUpd) (prev : List Byte) : List Outlier := (listEntries prev 0).filter fun o => !u.full.contains (o.col / 32)

/-- Write the slice's list and count what it keeps and drops; a dropped candidate is clipped in its projection block (R340). -/
def writeList (s : State) (m : Nat) (u : MUpd) (e : BktEntry) (kept : List Outlier) : State :=
  let c := sortBy byRes u.cands
  let placed := c.take (256 - kept.length)
  let dropped := c.drop (256 - kept.length)
  let s1 := countAll s (mcBase m) [(R.MRT_OUT_KEPT, placed.length), (R.MRT_OUT_DROP, dropped.length)]
  let s2 := (List.range 16).foldl (fun s k =>
    let n := (dropped.filter fun o => decide (o.col / 32 = k)).length
    if n = 0 then s else addClip s m e u.sigma k n) s1
  let ws := (sortBy byCell (kept ++ placed)).map entryWord
  localWrite s2 m (listAddr e u.sigma) (mkBlock (ws.flatMap (leBytes 4)) []
    (martenTrailer s2 e e.ltid ((e.lblk0 + u.sigma) % 2 ^ 32) (fmtCode .int32 + 48) (min 0xFFFF dropped.length * 2 ^ 32)))

/-- Build and write the slice's list (R340, R342): false where the previous list block fails. -/
def buildList (s : State) (m : Nat) (u : MUpd) (e : BktEntry) (bad : Nat) : Bool × State :=
  let r := readChecked s m (listAddr e u.sigma) { tid := e.ltid, blk := (e.lblk0 + u.sigma) % 2 ^ 32, fmt := fmtCode .int32, layout := 3 } bad
  if r.2.1 then (true, writeList r.2.2 m u e (keptEntries u r.1)) else (false, r.2.2)

/-! ### BLOCK_VISIT -/

/-- A block is done: its touched bit clears, and the next block, the slice's list, the next slice or the end of the update follows (R332, R333). -/
def blockDone (s : State) (m : Nat) (u : MUpd) (e : BktEntry) (proj : Option (List ProjCol)) (listBad : Nat) : State :=
  let bit := 16 * u.sigma + u.blk
  let s1 := modMc (putTouched s m e.idx bit false) m fun x => { x with visited := x.visited ++ [(u.bucket, bit)] }
  let u1 : MUpd := match proj with
    | some pc => { u with visit := none, full := u.full ++ [u.blk], cands := u.cands ++ pc.flatMap (·.cands) }
    | none => { u with visit := none }
  if u.blk < 15 then setUpd s1 m (some { u1 with blk := u.blk + 1 })
  else
    let l := buildList s1 m u1 e listBad
    if !l.1 then failUpd l.2 m u1 1 u.sigma 0 true
    else
      match (mcSlices e m).filter fun σ => decide (u.sigma < σ) with
      | σ :: _ => setUpd l.2 m (some { u1 with sigma := σ, blk := 0, full := [], cands := [] })
      | [] =>
        match findEntry l.2 m u.bucket with
        | some e1 => endUpd l.2 m u1 e1
        | none => l.2

/-- Restamp the projection block (R330). -/
def restampBlock (s : State) (m : Nat) (u : MUpd) (e : BktEntry) (bad listBad : Nat) : State :=
  let r := readChecked s m (projAddr e u.sigma u.blk) (projExpect e u.sigma u.blk) bad
  if !r.2.1 then failUpd r.2.2 m u 1 u.sigma u.blk false
  else
    let b := restamp r.1 { trailerOf r.1 with version := e.vnew % 2 ^ 48 }
    blockDone (count (localWrite r.2.2 m (projAddr e u.sigma u.blk) b) (mcBase m) R.MRT_RESTAMP 1) m u e none listBad

/-- Does a visit leave a NaN in M, S1, S2, R0 or C0 (R345). -/
def visitNan (v : MVisit) : Bool :=
  ((v.el.take 3).flatten ++ v.rows.getD 0 [] ++ v.cols.getD 0 []).any fun w => fIsNan (fp32Dec w)

/-- The rest of a loaded visit (R330 steps 3 to 5, R344, R345). `res`: residue mismatches, each of one run of the steps. -/
def finishVisit (s : State) (m : Nat) (u : MUpd) (e : BktEntry) (v : MVisit) (res bad listBad : Nat) : State :=
  let mb := mcBase m
  let a := u.armed.getD { bucket := u.bucket, regs := [], prog := [] }
  let s0 := if res = 0 then s else count s mb R.MRT_RES_RETRY 1
  if 2 ≤ res then mcFault (failUpd s0 m u 2 u.sigma u.blk false) m u.bucket
  else
    let r := runProg m a.regs a.prog 32 (v, s0)
    let nan := visitNan r.1
    let pc := projBlock r.2 m e u.blk (r.1.el.getD 0 [])
    let s1 := mcDraws (if nan then raiseBit (count r.2 mb R.MRT_NAN_BLK 1) mb R.MRT_STATUS_NAN else r.2) m 0 32
    if nan && fldOn s1 mb R.MRT_CTRL_NAN_HOLD then restampBlock s1 m { u with visit := none } e bad listBad
    else blockDone (count (writeVisit s1 m u e r.1 pc) mb R.MRT_BLK_CNT 1) m u e (some pc) listBad

/-- BLOCK_VISIT: the block in progress, whole (R330, R332). `bad`: poisoned attempts of its reads; `listBad`: those of the list block. -/
def blockVisit (s : State) (m res bad listBad : Nat) : State :=
  match (mcAt s m).upd with
  | none => s
  | some u =>
    match findEntry s m u.bucket with
    | none => s
    | some e =>
      match u.visit with
      | some v => finishVisit s m u e v res bad listBad
      | none =>
        if !fldOn s (mcBase m) R.MRT_CTRL_ENABLE then s
        else if !fullVisit s m u e then restampBlock s m u e bad listBad
        else
          let l := loadVisit s m u e bad
          match l.1 with
          | .failed => failUpd l.2 m u 1 u.sigma u.blk false
          | .skip => blockDone l.2 m u e none listBad
          | .ready v => finishVisit l.2 m u e v res bad listBad

/-- BLOCK_VISIT. -/
def execBlockVisit (m : Fin 24) (res : Fin 3) (bad : Fin 4) (listBad : Fin 4) (s : State) : Host.Outcome State Fault Refusal :=
  .next (blockVisit s m res bad listBad)

/-! ### Operations one by one -/

/-- One operation of the armed program: it runs where the program's next word is this one; the first of a visit loads the operand buffers. -/
def opStep (s : State) (m : Nat) (w : Word) : State :=
  match (mcAt s m).upd with
  | none => s
  | some u =>
    match findEntry s m u.bucket with
    | none => s
    | some e =>
      let a := u.armed.getD { bucket := u.bucket, regs := [], prog := [] }
      let go := fun (v : MVisit) (s : State) =>
        if v.ended || decide (32 ≤ v.pc) || decide (a.prog.getD v.pc 0 ≠ w) then s
        else let r := runOp s m v a.regs w; setUpd r.2 m (some { u with visit := some r.1 })
      match u.visit with
      | some v => go v s
      | none =>
        if !fldOn s (mcBase m) R.MRT_CTRL_ENABLE || !fullVisit s m u e || decide (a.prog.getD 0 0 ≠ w) then s
        else
          let l := loadVisit s m u e 0
          match l.1 with
          | .failed => failUpd l.2 m u 1 u.sigma u.blk false
          | .skip => blockDone l.2 m u e none 0
          | .ready v => go v l.2

/-- Answer of an operation. -/
def mOp (s : State) (m op d a b c : Nat) : Host.Outcome State Fault Refusal := .next (opStep s m (opWord op d a b c))

/-- PROG_END. -/
def execProgEnd (m : Fin 24) (s : State) : Host.Outcome State Fault Refusal := mOp s m 0x00 0 0 0 0
/-- ADD. -/
def execAdd (m : Fin 24) (d a b : Fin 32) (s : State) : Host.Outcome State Fault Refusal := mOp s m 0x01 d a b 0
/-- SUB. -/
def execSub (m : Fin 24) (d a b : Fin 32) (s : State) : Host.Outcome State Fault Refusal := mOp s m 0x02 d a b 0
/-- MUL. -/
def execMul (m : Fin 24) (d a b : Fin 32) (s : State) : Host.Outcome State Fault Refusal := mOp s m 0x03 d a b 0
/-- FMA. -/
def execFma (m : Fin 24) (d a b c : Fin 32) (s : State) : Host.Outcome State Fault Refusal := mOp s m 0x04 d a b c
/-- MAX. -/
def execMax (m : Fin 24) (d a b : Fin 32) (s : State) : Host.Outcome State Fault Refusal := mOp s m 0x05 d a b 0
/-- MIN. -/
def execMin (m : Fin 24) (d a b : Fin 32) (s : State) : Host.Outcome State Fault Refusal := mOp s m 0x06 d a b 0
/-- ABS. -/
def execAbs (m : Fin 24) (d a : Fin 32) (s : State) : Host.Outcome State Fault Refusal := mOp s m 0x07 d a 0 0
/-- NEG. -/
def execNeg (m : Fin 24) (d a : Fin 32) (s : State) : Host.Outcome State Fault Refusal := mOp s m 0x08 d a 0 0
/-- SIGN. -/
def execSign (m : Fin 24) (d a : Fin 32) (s : State) : Host.Outcome State Fault Refusal := mOp s m 0x09 d a 0 0
/-- SQRT. -/
def execSqrt (m : Fin 24) (d a : Fin 32) (s : State) : Host.Outcome State Fault Refusal := mOp s m 0x0A d a 0 0
/-- RSQRT. -/
def execRsqrt (m : Fin 24) (d a : Fin 32) (s : State) : Host.Outcome State Fault Refusal := mOp s m 0x0B d a 0 0
/-- RCP. -/
def execRcp (m : Fin 24) (d a : Fin 32) (s : State) : Host.Outcome State Fault Refusal := mOp s m 0x0C d a 0 0
/-- CLAMP. -/
def execClamp (m : Fin 24) (d a b : Fin 32) (s : State) : Host.Outcome State Fault Refusal := mOp s m 0x0D d a b 0
/-- MOV. -/
def execMov (m : Fin 24) (d a : Fin 32) (s : State) : Host.Outcome State Fault Refusal := mOp s m 0x0E d a 0 0
/-- RROW. -/
def execRrow (m : Fin 24) (d a : Fin 32) (s : State) : Host.Outcome State Fault Refusal := mOp s m 0x10 d a 0 0
/-- RCOL. -/
def execRcol (m : Fin 24) (d a : Fin 32) (s : State) : Host.Outcome State Fault Refusal := mOp s m 0x11 d a 0 0
/-- RALL. -/
def execRall (m : Fin 24) (d a : Fin 32) (s : State) : Host.Outcome State Fault Refusal := mOp s m 0x12 d a 0 0
/-- RMEAN. -/
def execRmean (m : Fin 24) (d a : Fin 32) (s : State) : Host.Outcome State Fault Refusal := mOp s m 0x13 d a 0 0

/-- A new seed of an MC's generator; its three counters become 0 (R346). -/
def mrtSeed (s : State) (m seed : Nat) : State :=
  (List.range 3).foldl (fun s c => setFld s (mcBase m) (fldAt R.MRT_RNG_CTR_COUNT c) 0) (setFld s (mcBase m) R.MRT_SEED_SEED seed)

/-- MRT_SEED_WRITE: the high word is written; it sets the seed and clears the counters. -/
def execMrtSeedWrite (m : Fin 24) (seed : BitVec 64) (s : State) : Host.Outcome State Fault Refusal :=
  .next (if hostUp s then mrtSeed s m seed.toNat else s)

end Sys2Proof.Machine
end

