-- ==== Sys2Proof/Machine/Boot.lean ====
section
/-! DEFINITION. The boot ROM (R475–R479), what each reset reaches (R532–R534), and the start-up sequence (R536, R537). -/

namespace Sys2Proof.Machine

/-! ### Firmware images (R475, R476) -/

/-- What a byte of flash that nothing has written reads as; the spec gives no content: DESIGN CHOICE 0. -/
def flashDefault (_ : Nat) : Byte := 0

/-- Bytes of a firmware slot. -/
def slotRead (s : State) (slot off n : Nat) : List Byte := sgetList flashDefault s.flash (slot * 2 ^ 26 + off) n

/-- Body length of an image. -/
def bodyLen (img : List Byte) : Nat := fieldLe img 24 4

/-- The image of a slot, from offset 0 to the end of its body. -/
def slotImage (s : State) (slot : Nat) : List Byte := slotRead s slot 0 (2304 + min 67106560 (bodyLen (slotRead s slot 0 256)))

/-- A digest held in 16 fuse words. -/
def fuseDigest (s : State) (f : Fld) : List Byte := (List.range 16).flatMap fun k => leBytes 4 (sget (fun _ => (0 : Word)) s.fuses (f.off + 4 * k)).toNat

/-- Fuses OWNER_REQ and OWNER_SET, and the fuse SVN. -/
def fuseSec (s : State) : Nat := (sget (fun _ => (0 : Word)) s.fuses R.SEC_STATE.off).toNat
/-- OWNER_REQ. -/
def ownerReq (s : State) : Bool := bitOn (fuseSec s) 3
/-- OWNER_SET. -/
def ownerSet (s : State) : Bool := bitOn (fuseSec s) 2
/-- SVN. -/
def fuseSvn (s : State) : Nat := (sget (fun _ => (0 : Word)) s.fuses R.SEC_SVN.off).toNat

/-- Are the bytes of a range zero. -/
def zeros (b : List Byte) (off n : Nat) : Bool := ((b.drop off).take n).all fun x => decide (x = 0)

/-- Part of an image. -/
def part (img : List Byte) (off n : Nat) : List Byte := (img.drop off).take n

/-- The first check of R476 that an image fails; 0 where it is accepted. -/
def imageFail (s : State) (img : List Byte) : Nat :=
  let h := img.take 256
  let n := bodyLen img
  if fieldLe h 0 4 ≠ 0x464B4C47 ∨ fieldLe h 4 2 ≠ 1 ∨ fieldLe h 6 1 ≠ 1 ∨ 1 < fieldLe h 7 1 ∨ !zeros h 12 4 ∨ !zeros h 28 4 ∨ !zeros h 96 160 ∨ n = 0 ∨
      67106560 < n ∨ img.length < 2304 + n then 1
  else if sha512 (part img 256 512) ≠ fuseDigest s R.SEC_VKEY then 2
  else if !rsaVerify (part img 256 512) (part img 768 512) h then 3
  else if ownerReq s && !(decide (fieldLe h 7 1 = 1) && decide (sha512 (part img 1280 512) = fuseDigest s R.SEC_OKEY) &&
      rsaVerify (part img 1280 512) (part img 1792 512) h) then 4
  else if fieldLe h 8 4 < fuseSvn s then 5
  else if sha512 (part img 2304 n) ≠ part h 32 64 then 6 else 0

/-- An image's measurement. -/
def measureOf (img : List Byte) : List Byte := sha512 (img.take (2304 + bodyLen img))

/-! ### Resets (R532–R534) -/

/-- Remove the register words of a range of keys: they read their reset values. -/
def clearRegs (s : State) (p : Nat → Bool) : State := { s with regs := s.regs.filter fun r => !p r.1 }

/-- Fuse values of a range of keys stand in their registers. -/
def loadFuses (s : State) (p : Nat → Bool) : State := s.fuses.foldl (fun s f => if p f.1 then wrReg s f.1 f.2 else s) s

/-- A reset that reaches physical tile n. -/
def resetTile (s : State) (n : Nat) : State :=
  let p := fun k => decide (tileBase n ≤ k) && decide (k < tileBase n + 0x100000)
  let s1 := { s with seedLow := s.seedLow.filter fun k => !p k.1 }
  setTile (loadFuses (clearRegs s1 p) p) n {}

/-- A reset that reaches MC m: its stack's contents are undefined, and its write epochs 0 (R292). -/
def resetMc (s : State) (m : Nat) : State :=
  let s1 := clearRegs s fun k => decide (mcBase m ≤ k) && decide (k < mcBase m + 0x10000)
  { s1 with mcs := sset (fun _ => {}) s1.mcs m {}, hbm := s1.hbm.filter fun b => decide (stackOf b.1 ≠ m) }

/-- A reset that reaches port p: DISABLED. -/
def resetPort (s : State) (p : Nat) : State :=
  let s1 := clearRegs s fun k => decide (portBase p ≤ k) && decide (k < portBase p + 0x1000)
  { s1 with ports := sset (fun _ => {}) s1.ports p {} }

/-- A reset that reaches compute die d. -/
def resetDie (s : State) (d : Nat) : State :=
  let s0 := { s with seedLow := s.seedLow.filter fun k => !(decide (mcBase (6 * d) ≤ k.1) && decide (k.1 < mcBase (6 * d + 6))) }
  let s1 := (List.range 17).foldl (fun s i => resetTile s (17 * d + i)) s0
  let s2 := (List.range 6).foldl (fun s i => resetMc s (6 * d + i)) s1
  (List.range 12).foldl (fun s i => resetPort s (12 * d + i)) s2

/-- Registers of the hub that a hub reset reaches: all but the CLK_ and PWR_ blocks. -/
def hubKey (k : Nat) : Bool := decide (k < 0x01000000) && decide (k / 0x10000 ≠ 4) && decide (k / 0x10000 ≠ 5)

/-- A reset that reaches the hub: its blocks, the exchange logic, Smiteale, Owl, mailboxes and queues start afresh. Flash, fuses, certificates and the
state of the dies stay. -/
def resetHub (s : State) : State :=
  let s1 := loadFuses (clearRegs s hubKey) hubKey
  let s2 := { s1 with
    latches := [], owlFifo := [], taints := [], taintFrom := none, suspects := [], cfg := none, staged := none, prevTag := 0, actAt := 0, hubAt := s1.now,
    obkts := [], rbkts := [], accSent := [], localRx := [], passed := [], doneV := 0, csFails := [], failWins := [], ledger := 0, fwEvents := [],
    mbx := [], mbxPosted := [], mbxRun := [], evqs := [], msix := [], msixPend := [], fwRecs := [], fwNum := 0, fwNet := [], owlNet := [], fwRaw := [],
    cpy := [], stall := none, beatAt := s1.now, den := [], scanned := [], retiring := [], bdg := [], bdgMem := [], bdgLast := 0,
    mon := { stuck := s1.mon.stuck, last := s1.now }, tad := { flash := s1.tad.flash, refAt := some s1.now, hkAt := s1.now },
    sec := { s1.sec with armAt := none, hand := none } }
  let w := s2.pwr
  setFld (setBit (setFld s2 0 R.HIF_LINK_WIDTH w.width) 0 R.HIF_LINK_FLIT w.flit) 0 R.HIF_LINK_SPEED w.speed

/-- Smiteale trains the stacks of reset tiles' dies and loads and commits their trims (R534). -/
def reloadTrims (s : State) (n : Nat) : State := if fwReady s then loadTrims s n else s

/-! ### Power pins (R525) -/

/-- Is a condition of PWR_IN set. -/
def inputBad (s : State) : Bool := decide ((rdReg s R.PWR_IN.off).toNat / 2 % 32 ≠ 0)

/-- CODE: the highest set condition (R525). -/
def inputCode (s : State) : Nat :=
  if fldOn s 0 R.PWR_IN_TRIP then 5 else if fldOn s 0 R.PWR_IN_MAIN_UV then 4 else if fldOn s 0 R.PWR_IN_MAIN_OV then 3
  else if fldOn s 0 R.PWR_IN_MAIN_SHORT then 2 else if fldOn s 0 R.PWR_IN_MAIN_REV then 1 else 0

/-- Show CODE and drive FAULT_N and PWRGD: FAULT_N while a condition is set; PWRGD once READY was reached with none. -/
def showPins (s : State) (ready : Bool) : State :=
  let s1 := setFld s 0 R.PWR_IN_CODE (inputCode s)
  let f := s.pwr.stby && inputBad s1
  let g := s.pwr.stby && ready && !inputBad s1
  let o1 : List Out := if f = s1.pwr.fault then [] else [.pin "FAULT_N" f]
  let o2 : List Out := if g = s1.pwr.good then [] else [.pin "PWRGD" g]
  { s1 with out := s1.out ++ o1 ++ o2, pwr := { s1.pwr with fault := f, good := g } }

/-! ### The limits of R194 and what counts their time (R526–R528) -/

/-- Whole µs from a time until now. -/
def usSince (s : State) (t : Nat) : Nat := (s.now - t) / tcUs

/-- Bring PWR_CAP_US, PWR_THR_US and TILE_THR_TC up to the present moment. -/
def settleThr (s : State) : State :=
  let w := s.pwr
  let c := if w.cap.isSome then usSince s w.capCnt else 0
  let f := if fldOn s 0 R.PWR_THR_FILTERED then usSince s w.thrCnt else 0
  let s1 := countAll s 0 [(R.PWR_CAP_US_COUNT, c), (R.PWR_THR_US_COUNT, f)]
  let t := s.now - w.limCnt
  let s2 := if t = 0 then s1
    else (List.range 68).foldl (fun s n => if fldOn s (tileBase n) R.TILE_THR_ACTIVE then count s (tileBase n) R.TILE_THR_TC_COUNT t else s) s1
  { s2 with pwr := { s2.pwr with capCnt := w.capCnt + c * tcUs, thrCnt := w.thrCnt + f * tcUs, limCnt := s.now } }

/-- Does the pin hold the limits: it counts as asserted, and is not masked (R527, R531). -/
def pinHolds (s : State) : Bool := fldOn s 0 R.PWR_THR_FILTERED && !fldOn s 0 R.PWR_CTRL_THR_MASK

/-- Do the cap, undervoltage or thermal throttling hold them. -/
def capHolds (s : State) : Bool := s.pwr.cap.isSome || s.pwr.uv || s.pwr.therm

/-- Show the limits in TILE_THR of every tile (R194, R527): SRC bit 0 is THROTTLE_N, bit 1 the power cap. -/
def showThr (s : State) : State :=
  let src := (if pinHolds s then 1 else 0) + (if capHolds s then 2 else 0)
  (List.range 68).foldl (fun s n => setFld (setBit s (tileBase n) R.TILE_THR_ACTIVE (decide (src ≠ 0))) (tileBase n) R.TILE_THR_SRC src) (settleThr s)

/-- Main power or the hub goes off: every domain but standby loses its state; PWR_IN and PWR_RST_CAUSE stay (R523, R524). -/
def powerDown (s : State) (why : OffWhy) : State :=
  let keep := fun k => decide (k = R.PWR_IN.off) || decide (k = R.PWR_RST_CAUSE.off)
  let s1 := (List.range 4).foldl (fun s d => resetDie s d) (resetHub s)
  let s2 := clearRegs s1 fun k => !keep k
  let s3 := { s2 with hubUp := false, d3hot := false, launchAt := none, sigs := [], lastGrant := none, hbm := [], mgmtDown := false,
                      pwr := { s2.pwr with on := false, why := why, samples := [], cap := none, uv := false, therm := false, shorts := [], stuckRep := false } }
  showPins (setFld s3 0 R.PWR_IN_MAIN_OK 0) false

/-! ### Boot and start-up (R477, R536, R537) -/

/-- The boot ROM: both slots are judged, the preferred one first; the accepted image starts, or recovery begins. -/
def bootRom (s : State) : State :=
  let imgs := [slotImage s 0, slotImage s 1]
  let fails := imgs.map (imageFail s)
  let ms := (imgs.zip fails).map fun p => if p.2 = 0 then measureOf p.1 else []
  let a := s.sec.prefer % 2
  let b := 1 - a
  let slot := if fails.getD a 1 = 0 then some a else if fails.getD b 1 = 0 then some b else none
  let tried := fun i => if i = a ∨ fails.getD a 1 ≠ 0 then fails.getD i 0 else 0
  let s1 := { s with sec := { s.sec with meas := ms } }
  let s2 := setFld (setFld s1 0 R.SEC_STATE_FAIL_A (tried 0)) 0 R.SEC_STATE_FAIL_B (tried 1)
  match slot with
  | none => raiseBit (setFld s2 0 R.SEC_STATE_RECOVERY 1) 0 R.SEC_STATUS_BOOT_FAIL
  | some k =>
    let s3 := setFld (setFld s2 0 R.SEC_STATE_SLOT k) 0 R.HIF_FW_STATE 1
    let m := ms.getD k []
    let s4 := (List.range 16).foldl (fun s i => wrReg s (R.SEC_MEAS.off + 4 * i) (BitVec.ofNat 32 (fieldLe m (4 * i) 4))) s3
    if k = a then s4 else raiseBit s4 0 R.SEC_STATUS_FALLBACK

/-- What Smiteale does before READY (R226, R346, R510, R536 steps 6 and 7): trims, ADC calibration, seeds, XCH_CTRL.ENABLE. -/
def bringReady (s : State) : State :=
  if fld s 0 R.HIF_FW_STATE ≠ 1 then s
  else
    let s1 := (List.range 68).foldl (fun s n => loadTrims s n) s
    let s2 := s1.tad.flash.foldl (fun s c => setFld (setFld s 0 (fldAt R.TAD_OFS_OFS c.1) c.2.1) 0 (fldAt R.TAD_GAIN_GAIN c.1) c.2.2) s1
    let s3 := (List.range 64).foldl (fun s t => reseed s (phys s t) (myId s * 64 + t)) s2
    let s4 := (List.range 24).foldl (fun s m => mrtSeed s m (2 ^ 63 + myId s * 32 + m)) s3
    setFld (setFld s4 0 R.XCH_CTRL_ENABLE 1) 0 R.HIF_FW_STATE 2

/-- After a hub reset in a running module: boot, and READY where an image was accepted and every stack had trained. -/
def rebootHub (s : State) : State :=
  let s1 := bootRom (resetHub s)
  let s2 := if s1.launchAt.isSome then bringReady s1 else s1
  showPins s2 (decide (fld s2 0 R.HIF_FW_STATE = 2))

/-- Smiteale reports a PCI Express link that cannot train at x4 or wider (R440). No record type is given for it: a STATUS_BIT record that names HIF_LINK. -/
def linkReport (s : State) : State :=
  if 4 ≤ s.pwr.width then s else pushEv s 2 7 0 0 0 R.HIF_LINK.off R.HIF_LINK_WIDTH.lo [(rdReg s R.HIF_LINK.off).toNat]

/-- Smiteale reports a stack that failed training on the management network and on the UART (R537), in a form of this model. -/
def stackReport (s : State) (m : Nat) : State :=
  let s1 := pushEv s 2 2 0 3 m (mcBase m) 0 [m]
  { s1 with out := s1.out ++ [.uart (("stack training failed".toList.map fun c => BitVec.ofNat 8 c.toNat) ++ [13, 10])] }

/-- The link and reference clock that the outside gives, with power on. -/
def powered (s : State) (e : StartEnv) : State :=
  { s with pwr := { s.pwr with on := true, why := .standby, width := e.width, flit := e.flit, speed := e.speed, refclk := e.refclk, ppm := e.ppm },
           hubUp := true }

/-- The hub reset of start-up: clocks, PWR_IN and THROTTLE_N as they stand, and the times the limits count from. -/
def startHub (s : State) (e : StartEnv) : State :=
  let s1 := powered s e
  let s2 := setFld (setFld (setFld s1 0 R.CLK_STATUS_ROOT_OK 1) 0 R.CLK_STATUS_PLL_LOCK 1) 0 R.PWR_IN_MAIN_OK 1
  let s3 := setFld (setBit s2 0 R.CLK_STATUS_REFCLK e.refclk) 0 R.CLK_PPM_PPM (if e.refclk then e.ppm.toNat else 0)
  let sT := setBit (setBit s3 0 R.PWR_THR_PIN s3.pwr.thrPin) 0 R.PWR_THR_FILTERED s3.pwr.thrPin
  resetHub { sT with pwr := { sT.pwr with pinAt := sT.now, capCnt := sT.now, thrCnt := sT.now, limCnt := sT.now } }

/-- Steps 2 to 4 of start-up (R536): every die is reset, the hub starts, and the boot ROM runs. -/
def startBoot (s : State) (e : StartEnv) : State := bootRom (startHub ((List.range 4).foldl (fun s d => resetDie s d) s) e)

/-- Start-up from step 2 (R536), at time t2: each step takes its maximum time. -/
def startFrom2 (s : State) (t2 : Nat) (e : StartEnv) : State :=
  let ms := fun n => n * tcMs
  let s4 := startBoot { s with now := t2 + ms 4 } e
  if fld s4 0 R.HIF_FW_STATE ≠ 1 then showPins (showThr s4) false
  else if !e.badStacks.isEmpty then
    let s5 := linkReport { s4 with now := t2 + ms 252, beatAt := t2 + ms 192 }
    showPins (showThr (e.badStacks.foldl (fun s m => stackReport s m.val) s5)) false
  else
    let s5 := bringReady (linkReport { s4 with launchAt := some (t2 + ms 252), now := t2 + ms 282, beatAt := t2 + ms 192 })
    showPins (showThr s5) true

/-- Inputs good, PWR_EN asserted and RESET_N deasserted: may the module start (R524, R533, R536). -/
def mayStart (s : State) : Bool := s.pwr.stby && s.pwr.inOk && s.pwr.en && !s.pwr.on && !s.pwr.rstN && decide (s.pwr.why = .standby)

/-- Start-up from step 1, not before standby power has been present for 20 ms. -/
def startUp (s : State) (e : StartEnv) : State :=
  if mayStart s then startFrom2 s (max s.now (s.pwr.stbyAt + 20 * tcMs) + 8 * tcMs) e else s

/-- A module reset (R532): it reaches every die and the hub, CLK_ and PWR_ included, but not the standby domain; start-up goes on from step 2 unless
RESET_N holds it. -/
def moduleReset (s : State) (cause : Nat) (e : StartEnv) : State :=
  if !s.pwr.on then s
  else
    let s1 := setFld (powerDown s .standby) 0 R.PWR_RST_CAUSE_CAUSE cause
    if s1.pwr.rstN then s1 else startFrom2 s1 s.now e

end Sys2Proof.Machine
end

