-- ==== Sys2Proof/Machine/Power.lean ====
section
/-! DEFINITION. Clocks, power inputs, the power cap, THROTTLE_N and the resets (chapter 18). -/

namespace Sys2Proof.Machine

/-! ### PWR_EN and the standby supply (R532, R536, R537) -/

/-- PWR_EN_ASSERT: the module starts once its inputs allow it. -/
def execPwrEnAssert (e : StartEnv) (s : State) : Host.Outcome State Fault Refusal :=
  .next (if s.pwr.stby then startUp { s with pwr := { s.pwr with en := true } } e else { s with pwr := { s.pwr with en := true } })

/-- PWR_EN_DEASSERT: every domain but standby goes off, and whatever kept main power off ends. -/
def execPwrEnDeassert (s : State) : Host.Outcome State Fault Refusal :=
  let s1 := { s with pwr := { s.pwr with en := false, why := .standby } }
  .next (if s1.pwr.on then powerDown s1 .standby else s1)

/-- The standby domain stops or starts: nothing but flash, fuses, identity and the levels of the inputs stays. -/
def allOff (s : State) (stby : Bool) : State :=
  { State.reset with
    pending := s.pending, now := s.now, freeCtr := s.freeCtr, fuses := s.fuses, flashTrims := s.flashTrims, out := s.out, flash := s.flash,
    sec := { prefer := s.sec.prefer, certs := s.sec.certs, idMod := s.sec.idMod }, mon := { last := s.now }, tad := { flash := s.tad.flash },
    pwr := { stby := stby, stbyAt := s.now, inOk := s.pwr.inOk, en := s.pwr.en, rstN := s.pwr.rstN, thrPin := s.pwr.thrPin } }

/-- POWER_ON_RESET: IN12 rises above 10.8 V; with PWR_EN asserted the module then starts. -/
def execPowerOnReset (e : StartEnv) (s : State) : Host.Outcome State Fault Refusal := .next (startUp (allOff s true) e)

/-- STANDBY_LOSS: IN12 falls below 10.2 V (R545). -/
def execStandbyLoss (s : State) : Host.Outcome State Fault Refusal := .next (allOff s false)

/-! ### Resets (R532–R534) -/

/-- RESET_N: its assertion for 1 µs is a module reset; start-up holds before step 2 while it stays asserted. -/
def execResetN (asserted : Bool) (e : StartEnv) (s : State) : Host.Outcome State Fault Refusal :=
  .next (if asserted then moduleReset { s with pwr := { s.pwr with rstN := true } } 1 e
    else
      let s1 := { s with pwr := { s.pwr with rstN := false } }
      if mayStart s1 then startFrom2 s1 s1.now e else s1)

/-- A reset request that R533 refuses: counted and reported. -/
def rstRefused (s : State) : State := raiseBit (count s 0 R.PWR_RST_REF_COUNT 1) 0 R.PWR_STATUS_RST_REF

/-- Is a tile's sequencer STOPPED or HALTED. -/
def seqRests (s : State) (n : Nat) : Bool := decide (seqState s n = sqStopped) || decide (seqState s n = sqHalted)

/-- A request of a hub reset: refused unless HIF_FW.STATE is BOOT or STOPPED. -/
def hubResetReq (s : State) : State :=
  let st := fld s 0 R.HIF_FW_STATE
  if st ≠ 0 ∧ st ≠ 4 then rstRefused s else rebootHub (setFld s 0 R.PWR_RST_CAUSE_CAUSE 6)

/-- A request of a reset of die d: refused unless every logical tile it carries rests; its stacks and trims come back after it. -/
def dieResetReq (s : State) (d : Nat) : State :=
  let ns := (List.range 17).map fun i => 17 * d + i
  if ns.all fun n => decide (ptileState s n ≠ 0) || seqRests s n then
    showThr (ns.foldl (fun s n => reloadTrims s n) (resetDie (settleThr s) d))
  else rstRefused s

/-- A request of a reset of physical tile n: refused unless it carries no tile or one that rests. -/
def tileResetReq (s : State) (n : Nat) : State :=
  if n < 68 ∧ (ptileState s n ≠ 0 ∨ seqRests s n = true) then showThr (reloadTrims (resetTile (settleThr s) n) n) else rstRefused s

/-- A write of PWR_RST: the broadest kind applies, and the others are discarded. -/
def pwrRstWrite (s : State) (w : Nat) (e : StartEnv) : State :=
  if bitOn w 31 then moduleReset s 2 e
  else if bitOn w 30 then hubResetReq s
  else if w / 65536 % 16 ≠ 0 then (List.range 4).foldl (fun s d => if bitOn w (16 + d) then dieResetReq s d else s) s
  else if bitOn w 15 then tileResetReq s (w % 128) else s

/-- MODULE_RESET: a write of PWR_RST.MODULE. -/
def execModuleReset (e : StartEnv) (s : State) : Host.Outcome State Fault Refusal := .next (if hostUp s then pwrRstWrite s (2 ^ 31) e else s)

/-- What a hub, die or tile reset needs of its surroundings: nothing. -/
def noEnv : StartEnv := { width := 0, flit := false, speed := 0, refclk := false, ppm := 0, badStacks := [] }

/-- HUB_RESET: a write of PWR_RST.HUB. -/
def execHubReset (s : State) : Host.Outcome State Fault Refusal := .next (if hostUp s then pwrRstWrite s (2 ^ 30) noEnv else s)

/-- DIE_RESET: a write of PWR_RST.DIE. -/
def execDieReset (dies : BitVec 4) (s : State) : Host.Outcome State Fault Refusal := .next (if hostUp s then pwrRstWrite s (dies.toNat * 65536) noEnv else s)

/-- TILE_RESET: a write of PWR_RST.TILE with PTILE. -/
def execTileReset (n : BitVec 7) (s : State) : Host.Outcome State Fault Refusal := .next (if hostUp s then pwrRstWrite s (2 ^ 15 + n.toNat) noEnv else s)

/-! ### Inputs (R524, R525) -/

/-- Set a condition of PWR_IN: reported while the hub runs on, and shown with the pins. -/
def inputSet (s : State) (f : Fld) : State :=
  let s1 := if s.hubUp then raiseBit s 0 f else setFld s 0 f 1
  showPins s1 false

/-- The 54 V input left its range: the condition is set, and main power goes off. -/
def inputLost (s : State) (f : Fld) : State :=
  let s1 := inputSet { s with pwr := { s.pwr with inOk := false } } f
  if s1.pwr.on then powerDown s1 .standby else s1

/-- MAIN_REVERSE: main power stays off, and FAULT_N is asserted. -/
def execMainReverse (s : State) : Host.Outcome State Fault Refusal := .next (if s.pwr.stby then inputLost s R.PWR_IN_MAIN_REV else s)

/-- MAIN_SHORT: the bus does not reach 40 V in the pre-charge that an asserted PWR_EN began. The first time one retry follows; then the module stays off. -/
def execMainShort (s : State) : Host.Outcome State Fault Refusal :=
  .next (if !s.pwr.stby || s.pwr.on || decide (s.pwr.why ≠ .standby) then s
    else inputSet { s with pwr := { s.pwr with en := true, why := .shortRetry, shortAt := s.now } } R.PWR_IN_MAIN_SHORT)

/-- MAIN_SHORT_RETRY: 1 s after the short the pre-charge is tried once more. -/
def execMainShortRetry (ok : Bool) (e : StartEnv) (s : State) : Host.Outcome State Fault Refusal :=
  .next (if s.pwr.why ≠ .shortRetry ∨ !s.pwr.stby ∨ !s.pwr.en ∨ s.now < s.pwr.shortAt + 1000 * tcMs then s
    else if ok then startUp { s with pwr := { s.pwr with why := .standby } } e
    else inputSet { s with pwr := { s.pwr with why := .latched } } R.PWR_IN_MAIN_SHORT)

/-- MAIN_UNDERVOLT: 38 to 40 V for 100 µs throttles; the input's return lifts that source. -/
def execMainUndervolt (low : Bool) (s : State) : Host.Outcome State Fault Refusal :=
  .next (if !s.pwr.on || decide (s.pwr.uv = low) then s
    else
      let s1 := { s with pwr := { s.pwr with uv := low } }
      showThr (if low then raiseBit s1 0 R.PWR_STATUS_UV else s1))

/-- BROWNOUT: main domains off, cause BROWNOUT. -/
def execBrownout (s : State) : Host.Outcome State Fault Refusal :=
  .next (if !s.pwr.stby then s
    else
      let on := s.pwr.on
      let s1 := inputLost s R.PWR_IN_MAIN_UV
      if on then setFld s1 0 R.PWR_RST_CAUSE_CAUSE 4 else s1)

/-- MAIN_OVERVOLT: the hot-swap stage turns off. -/
def execMainOvervolt (s : State) : Host.Outcome State Fault Refusal := .next (if s.pwr.stby then inputLost s R.PWR_IN_MAIN_OV else s)

/-- MAIN_RESTORED: the input has been within 40–60 V for 100 ms. -/
def execMainRestored (e : StartEnv) (s : State) : Host.Outcome State Fault Refusal :=
  .next (if s.pwr.inOk then s else startUp { s with pwr := { s.pwr with inOk := true } } e)

/-- THERMAL_TRIP: main domains off until PWR_EN is cycled, cause THERMAL. -/
def execThermalTrip (s : State) : Host.Outcome State Fault Refusal :=
  .next (if s.pwr.on then setFld (powerDown (inputSet s R.PWR_IN_TRIP) .latched) 0 R.PWR_RST_CAUSE_CAUSE 5 else s)

/-- Name of a code of PWR_IN. -/
def inputName : Nat → String
  | 1 => "MAIN_REV" | 2 => "MAIN_SHORT" | 3 => "MAIN_OV" | 4 => "MAIN_UV" | 5 => "TRIP" | _ => "none"

/-- ASCII bytes of a text. -/
def ascii (t : String) : List Byte := t.toList.map fun c => BitVec.ofNat 8 c.toNat

/-- Carriage return and line feed. -/
def crlf : List Byte := [13, 10]

/-- STANDBY_UART_LINE: one line while the hub is unpowered. -/
def execStandbyUartLine (s : State) : Host.Outcome State Fault Refusal :=
  let c := fld s 0 R.PWR_IN_CODE
  .next (if s.pwr.stby && !s.hubUp then
      { s with out := s.out ++ [.uart (ascii "glk-stby " ++ ascii (toString c) ++ ascii " " ++ ascii (inputName c) ++ crlf)] } else s)

/-! ### Clocks (R520, R521) -/

/-- PLL_UNLOCK: a loss of 1 µs, or of the oscillator, is a module reset; a shorter one is counted and reported. -/
def execPllUnlock (long : Bool) (e : StartEnv) (s : State) : Host.Outcome State Fault Refusal :=
  .next (if !s.pwr.on then s
    else if long then moduleReset s 3 e
    else raiseBit (count s 0 R.CLK_UNLOCK_CNT_COUNT 1) 0 R.CLK_STATUS_UNLOCK)

/-- HOST_REFCLK_CHANGE: the host REFCLK appears or disappears. -/
def execHostRefclkChange (present : Bool) (ppm : BitVec 16) (s : State) : Host.Outcome State Fault Refusal :=
  .next (if !s.pwr.on then s
    else
      let s1 := { s with pwr := { s.pwr with refclk := present, ppm := ppm } }
      setFld (setBit s1 0 R.CLK_STATUS_REFCLK present) 0 R.CLK_PPM_PPM (if present then ppm.toNat else 0))

/-! ### The power cap (R526) -/

/-- LIMIT in W. -/
def capLimit (s : State) : Nat := clampN 1600 2600 (fld s 0 R.PWR_CAP_LIMIT)
/-- RELEASE in W. -/
def capRelease (s : State) : Nat := clampN 60 1000 (fld s 0 R.PWR_CAP_RELEASE)

/-- Engage or lift the cap by the mean of the samples. -/
def capJudge (s : State) : State :=
  let n := s.pwr.samples.length
  let sum := s.pwr.samples.foldl (· + ·) 0
  match s.pwr.cap with
  | none =>
    if fldOn s 0 R.PWR_CTRL_CAP_EN && decide (0 < n) && decide ((capLimit s - 50) * n ≤ sum) then
      let s1 := settleThr s
      showThr (raiseBit { s1 with pwr := { s1.pwr with cap := some s.now, capCnt := s.now } } 0 R.PWR_STATUS_CAP)
    else s
  | some t =>
    if !fldOn s 0 R.PWR_CTRL_CAP_EN || (decide (sum < (capLimit s - capRelease s) * n) && decide (t + 100 * tcUs ≤ s.now)) then
      let s1 := settleThr s
      showThr { s1 with pwr := { s1.pwr with cap := none } }
    else s

/-- POWER_SAMPLE: a measurement of w watts. PWR_NOW shows the mean of the last 1,000, to the nearest watt. -/
def execPowerSample (w : BitVec 16) (s : State) : Host.Outcome State Fault Refusal :=
  .next (if !s.pwr.on then s
    else
      let l := s.pwr.samples ++ [w.toNat]
      let l1 := l.drop (l.length - 1000)
      let n := l1.length
      let sum := l1.foldl (· + ·) 0
      capJudge (setFld { s with pwr := { s.pwr with samples := l1 } } 0 R.PWR_NOW_MEAN10 ((2 * sum + n) / (2 * n))))

/-- A write of PWR_CTRL: with CAP_EN clear no cap holds, and THR_MASK acts at once. -/
def pwrCtrlWrite (s : State) (w : Word) : State :=
  let s1 := regWrite (settleThr s) R.PWR_CTRL.off w
  let s2 := if fldOn s1 0 R.PWR_CTRL_CAP_EN then s1 else { s1 with pwr := { s1.pwr with cap := none } }
  showThr s2

/-! ### THROTTLE_N (R528–R531) -/

/-- THROTTLE_ASSERT: the pin is asserted. Where the filter had not passed its deassertion, that was a short release. -/
def execThrottleAssert (s : State) : Host.Outcome State Fault Refusal :=
  let s0 := { s with pwr := { s.pwr with thrPin := true } }
  .next (if !s.pwr.on then s0
    else if fldOn s0 0 R.PWR_THR_FILTERED then
      let l := lastMs s0 s0.pwr.shorts ++ [s0.now]
      let s1 := count { s0 with pwr := { s0.pwr with pinAt := s0.now, stuckRep := false, shorts := if 16 ≤ l.length then [] else l } } 0 R.PWR_TOGGLE_CNT_COUNT 1
      let s2 := setFld s1 0 R.PWR_THR_PIN 1
      if 16 ≤ l.length then raiseBit s2 0 R.PWR_STATUS_THR_TOGGLE else s2
    else
      let s1 := settleThr s0
      let s2 := { s1 with pwr := { s1.pwr with pinAt := s0.now, stuckRep := false, thrCnt := s0.now } }
      showThr (setFld (setFld s2 0 R.PWR_THR_PIN 1) 0 R.PWR_THR_FILTERED 1))

/-- THROTTLE_RELEASE: the pin has been deasserted for 1 µs. -/
def execThrottleRelease (s : State) : Host.Outcome State Fault Refusal :=
  let s0 := { s with pwr := { s.pwr with thrPin := false } }
  .next (if s.pwr.on then showThr (setFld (setFld (settleThr s0) 0 R.PWR_THR_PIN 0) 0 R.PWR_THR_FILTERED 0) else s0)

/-- THROTTLE_STUCK: the pin has stayed asserted for STUCK_MS; reported once. -/
def execThrottleStuck (s : State) : Host.Outcome State Fault Refusal :=
  .next (if s.pwr.on && fldOn s 0 R.PWR_THR_PIN && !s.pwr.stuckRep && decide (s.pwr.pinAt + max 10 (fld s 0 R.PWR_THR_STUCK_MS) * tcMs ≤ s.now) then
      raiseBit { s with pwr := { s.pwr with stuckRep := true } } 0 R.PWR_STATUS_THR_STUCK else s)

end Sys2Proof.Machine
end

