-- ==== Sys2Proof/Machine/Mbx.lean ====
section
/-! DEFINITION. Mailboxes (R445–R450): pairs, rings and acknowledgements, taking a command and finishing it; the firmware's heartbeat and hand-over. -/

namespace Sys2Proof.Machine

/-! ### Pages and pairs (R445, R446) -/

/-- What a byte of mailbox SRAM reads as that nothing has written: page contents are undefined after reset; DESIGN CHOICE 0. -/
def mbxDefault (_ : Nat) : Byte := 0

/-- Bytes of the mailbox SRAM, by offset from BAR0 + 0x10_0000. -/
def mbxRead (s : State) (off n : Nat) : List Byte := sgetList mbxDefault s.mbx off n

/-- Write them. -/
def mbxWrite (s : State) (off : Nat) (b : List Byte) : State := { s with mbx := ssetList mbxDefault s.mbx off b }

/-- Bits of a pair in MBX_STATEk. -/
def pairFld (p : Nat) : Fld := { R.MBX_STATE with off := R.MBX_STATE.off + 4 * (p / 16), hi := 2 * (p % 16) + 1, lo := 2 * (p % 16) }

/-- State of a pair: 0 IDLE, 1 POSTED, 2 RUNNING, 3 DONE. -/
def pairState (s : State) (p : Nat) : Nat := fld s 0 (pairFld p)

/-- Set it. -/
def setPair (s : State) (p st : Nat) : State := setFld s 0 (pairFld p) st

/-- A write of pair p to MBX_RING. -/
def mbxRing (s : State) (p : Nat) : State :=
  if pairState s p = 0 ∨ pairState s p = 3 then let s1 := setPair s p 1; { s1 with mbxPosted := s1.mbxPosted ++ [p] }
  else raiseBit (count s 0 R.MBX_RING_BUSY_COUNT 1) 0 R.MBX_STATUS_RING_BUSY

/-- A write of pair p to MBX_ACK. -/
def mbxAck (s : State) (p : Nat) : State :=
  if pairState s p = 3 then setPair s p 0 else raiseBit (count s 0 R.MBX_ACK_BAD_COUNT 1) 0 R.MBX_STATUS_ACK_BAD

/-- MBX_RING. -/
def execMbxRing (p : Fin 64) (s : State) : Host.Outcome State Fault Refusal := .next (if hostUp s then mbxRing s p.val else s)

/-- MBX_ACK. -/
def execMbxAck (p : Fin 64) (s : State) : Host.Outcome State Fault Refusal := .next (if hostUp s then mbxAck s p.val else s)

/-! ### Requests -/

/-- Parameter field of a request page: offsets count from page byte 64. -/
def par (page : List Byte) (off n : Nat) : Nat := fieldLe page (64 + off) n

/-- Parameter length of an opcode (R451, R488); none for a reserved one. -/
def opLen (op : Nat) (page : List Byte) : Option Nat :=
  match op with
  | 1 => some 0 | 2 => some 88 | 3 => some (32 + 32 * par page 0 4) | 4 => some 9 | 5 => some (12 + 12 * par page 8 4) | 6 => some 1 | 7 => some 16
  | 8 => some 24 | 9 => some 16 | 0xA => some 5 | 0xB => some 4 | 0xC => some 0
  | 0x40 => some 1 | 0x41 => some 32 | 0x42 => some 80 | 0x43 => some 0 | 0x44 => some 1028 | 0x45 => some 0 | 0x46 => some 0
  | _ => none

/-- Bound of a command in tc; SNAPSHOT's is for each attempt. -/
def opBound (c : MbxCmd) : Nat :=
  match c.op with
  | 1 => tcMs | 2 => 30000 * tcMs | 3 => 5000 * tcMs | 4 => tcMs
  | 5 => 10 * tcMs + ((List.range (par c.page 8 4)).map fun i => par c.page (12 + 12 * i + 8) 4).foldl (· + ·) 0 * 9216 * tcMs / 10000000
  | 6 => 1000 * tcMs | 7 => 10 * tcMs | 8 => 1000 * tcMs | 9 => 100 * tcMs | 0xA => tcMs | 0xB => tcMs | 0xC => 1000 * tcMs
  | 0x40 => tcMs | 0x41 => 100 * tcMs | 0x42 => 60000 * tcMs | 0x43 => tcMs | 0x44 => 1000 * tcMs | 0x45 => tcMs | _ => 100 * tcMs

/-- Tiles of a mask. -/
def maskTiles (m : Nat) : List Nat := (List.range 64).filter fun t => bitOn m t

/-- What commands run one after another for (R449): tiles as (0, t), buckets as (1, b), the staging of sets and streams as (2, 0). -/
def opUnits (page : List Byte) : List (Nat × Nat) :=
  match fieldLe page 0 2 with
  | 2 => [(2, 0)]
  | 3 => (2, 0) :: (List.range (min 64 (par page 0 4))).map fun i => (0, par page (32 + 32 * i) 1)
  | 4 => (maskTiles (par page 0 8)).map fun t => (0, t)
  | 6 => [(0, par page 0 1)]
  | 7 => [(1, par page 0 4)] | 8 => [(1, par page 0 4)] | 9 => [(1, par page 0 4)] | 0xA => [(1, par page 0 4)]
  | _ => []

/-- Do two lists of units meet. -/
def unitsMeet (a b : List (Nat × Nat)) : Bool := a.any fun x => b.contains x

/-- The first entry of a list for which a test holds, with its position as the value. -/
def firstBad (n : Nat) (bad : Nat → Bool) : Option Nat := (List.range n).find? bad

/-- Byte offset of the first parameter out of range (R450). -/
def badParam (s : State) (page : List Byte) : Option Nat :=
  match fieldLe page 0 2 with
  | 2 => if hbmEnd < par page 0 8 + par page 8 4 then some 0 else none
  | 3 =>
    let n := par page 0 4
    if n = 0 ∨ 64 < n then some 0
    else (firstBad n fun i => decide (64 ≤ par page (32 + 32 * i) 1) || decide (par page (32 + 32 * i + 8) 8 % 64 ≠ 0) ||
      decide (2 ^ 24 ≤ par page (32 + 32 * i + 4) 4) || decide (par page (32 + 32 * i + 4) 4 ≤ par page (32 + 32 * i + 16) 4)).map fun i =>
        if 64 ≤ par page (32 + 32 * i) 1 then 32 + 32 * i
        else if par page (32 + 32 * i + 8) 8 % 64 ≠ 0 then 32 + 32 * i + 8
        else if 2 ^ 24 ≤ par page (32 + 32 * i + 4) 4 then 32 + 32 * i + 4 else 32 + 32 * i + 16
  | 4 => if 3 < par page 8 1 then some 8 else none
  | 5 =>
    let n := par page 8 4
    if par page 0 8 % 4096 ≠ 0 then some 0
    else if n = 0 ∨ 334 < n then some 8
    else (firstBad n fun i => match placeOf s (par page (12 + 12 * i) 4) with
        | none => true
        | some p => decide (p.cnt < par page (16 + 12 * i) 4 + par page (20 + 12 * i) 4)).map fun i =>
          if (placeOf s (par page (12 + 12 * i) 4)).isNone then 12 + 12 * i else 16 + 12 * i
  | 6 => if 64 ≤ par page 0 1 then some 0 else none
  | 9 => if (geomBkt s (par page 0 4)).isNone then some 0 else none
  | 0xA => if 1 < par page 4 1 then some 4 else none
  | 0xB => if par page 0 4 ≠ 0 ∧ (placeOf s (par page 0 4)).isNone then some 0 else none
  | 0x40 => if 1 < par page 0 1 then some 0 else none
  | 0x42 => if !bitOn (par page 0 8) 63 && decide (hbmEnd < par page 0 8 + par page 8 4) then some 0 else none
  | 0x44 => if 1 < par page 512 1 then some 512 else none
  | _ => none

/-! ### Finishing a command (R446, R447) -/

/-- Status codes of R450. -/
def stOk : Nat := 0
/-- BAD_OPCODE. -/
def stBadOpcode : Nat := 1
/-- BAD_PARAM. -/
def stBadParam : Nat := 2
/-- BAD_STATE. -/
def stBadState : Nat := 3
/-- BUSY. -/
def stBusy : Nat := 4
/-- REFUSED. -/
def stRefused : Nat := 5
/-- STREAM_CYCLE. -/
def stCycle : Nat := 6
/-- SNAPSHOT_RETRY. -/
def stRetry : Nat := 7
/-- NOT_OWNER. -/
def stMbxOwner : Nat := 8
/-- NO_SPARE. -/
def stNoSpare : Nat := 9
/-- BLOCK_CHECK. -/
def stBlkCheck : Nat := 10
/-- HW_ERROR. -/
def stHw : Nat := 11
/-- TIMEOUT. -/
def stTimeout : Nat := 12
/-- AUTH. -/
def stAuth : Nat := 13

/-- Finish a RUNNING command: response page, DONE, interrupt, event. -/
def finish (s : State) (c : MbxCmd) (status detail : Nat) (result : List Byte) : State :=
  let r := result.take 4032
  let hdr := leBytes 2 status ++ leBytes 2 c.op ++ sub c.page 4 4 ++ leBytes 4 r.length ++ leBytes 4 detail ++ List.replicate 48 0
  let s1 := mbxWrite { s with mbxRun := s.mbxRun.filter fun x => decide (x.pair ≠ c.pair) } (0x2000 * c.pair + 0x1000)
    (hdr ++ r ++ List.replicate (4032 - r.length) 0)
  let s2 := setPair (countAll s1 0 [(R.MBX_CMD_CNT_COUNT, 1), (R.MBX_FAIL_CNT_COUNT, if status = 0 then 0 else 1)]) c.pair 3
  let s3 := if fldOn s2 0 R.MBX_CTRL_IRQ_EN then raiseVec s2 (fld s2 0 R.MBX_CTRL_VEC) else s2
  if bitOn (fieldLe c.page 2 2) 0 then pushEv s3 0x50 7 0 0 0 0 0 [c.pair, status, fieldLe c.page 4 4] else s3

/-- An outcome of a command: it goes on, or it finishes with a status, its detail and its result. -/
abbrev MbxEnd := Option (Nat × Nat × List Byte)

/-- Done with status OK and a result. -/
def okWith (r : List Byte) : MbxEnd := some (0, 0, r)

/-- Done with another status. -/
def failWith (status detail : Nat) : MbxEnd := some (status, detail, [])

/-- Work on the RUNNING command of a pair that has an opcode: past its bound it fails with TIMEOUT (R450, R451). -/
def runCmd (s : State) (pair op : Nat) (k : MbxCmd → State × MbxEnd) : State :=
  match s.mbxRun.find? fun c => decide (c.pair = pair) && decide (c.op = op) with
  | none => s
  | some c =>
    if s.stall.isSome then s
    else if c.since + opBound c < s.now then finish s c stTimeout 0 []
    else
      let r := k c
      match r.2 with
      | some e => finish r.1 c e.1 e.2.1 e.2.2
      | none => r.1

/-! ### Taking a pair (R449, R456, R478, R486) -/

/-- Is the module in recovery. -/
def inRecovery (s : State) : Bool := decide (fld s 0 R.HIF_FW_STATE = 0) && fldOn s 0 R.SEC_STATE_RECOVERY

/-- Does Smiteale, or the boot ROM in recovery, take pairs now. -/
def takesPairs (s : State) : Bool :=
  let st := fld s 0 R.HIF_FW_STATE
  s.hubUp && s.stall.isNone && (inRecovery s || decide (st = 1) || decide (st = 2)) && decide (s.mbxRun.length < 8) && !(s.mbxRun.any fun c => decide (c.op = 0xC))

/-- Request page of a pair. -/
def reqPage (s : State) (p : Nat) : List Byte := mbxRead s (0x2000 * p) 4096

/-- The pair taken next: the first in ring order whose units no running and no earlier waiting command holds. -/
def nextPair (s : State) : List (Nat × Nat) → List Nat → Option Nat
  | _, [] => none
  | held, p :: t =>
    let u := opUnits (reqPage s p)
    if unitsMeet u held then nextPair s (held ++ u) t else some p

/-- Why a taken request fails at once: status and detail. -/
def takeFails (s : State) (c : MbxCmd) (bad : Nat) : Option (Nat × Nat) :=
  let st := fld s 0 R.HIF_FW_STATE
  let mgmt := decide (c.op = 1) || (decide (0x40 ≤ c.op) && decide (c.op ≤ 0x46))
  let rec' := decide (c.op = 1) || decide (c.op = 0x43) || (decide (c.op = 0x42) && bitOn (par c.page 0 8) 63)
  if bad = 3 then some (stHw, 0)
  else match opLen c.op c.page with
    | none => if inRecovery s then some (stBadState, st) else some (stBadOpcode, 0)
    | some n =>
      if (inRecovery s && !rec') || (decide (st = 1) && !mgmt) then some (stBadState, st)
      else if fieldLe c.page 8 4 ≠ n then some (stBadParam, 0)
      else if c.op = 5 ∧ (s.mbxRun.any fun x => decide (x.op = 5) && decide (x.pair ≠ c.pair)) = true then some (stBusy, 0)
      else (badParam s c.page).map fun o => (stBadParam, o)

/-- MAILBOX_TAKE. `bad` attempts at reading the page failed parity (R406, R407). -/
def mailboxTake (s : State) (bad : Nat) : State :=
  if !takesPairs s then s
  else
    match nextPair s (s.mbxRun.flatMap fun c => opUnits c.page) (if inRecovery s then s.mbxPosted.filter fun p => decide (p = 0) else s.mbxPosted) with
    | none => s
    | some p =>
      let page := reqPage s p
      let c : MbxCmd := { pair := p, op := fieldLe page 0 2, page := page, since := s.now,
                          snap := if fieldLe page 0 2 = 5 then some (fld s 0 R.XCH_COMMITTED, 0) else none }
      let s1 := parity { setPair s p 2 with mbxPosted := s.mbxPosted.filter (fun q => decide (q ≠ p)), mbxRun := s.mbxRun ++ [c] } bad 7 (0x2000 * p)
      match takeFails s1 c bad with
      | some e => finish s1 c e.1 e.2 []
      | none => s1

/-! ### Heartbeat (R472) and hand-over (R486) -/

/-- Does BEAT rise now: Smiteale runs, no core has stopped, and no hand-over is in steps 4 and 5. -/
def beats (s : State) : Bool :=
  let st := fld s 0 R.HIF_FW_STATE
  s.hubUp && s.stall.isNone && (decide (st = 1) || decide (st = 2) || decide (st = 3)) && (match s.sec.hand with | some h => h.at'.isNone | none => true)

/-- BEAT as it reads now. -/
def beatNow (s : State) : Nat := (fld s 0 R.HIF_FW_BEAT + (if beats s then (s.now - s.beatAt) / tcMs else 0)) % 2 ^ 24

/-- Hold BEAT at its present value; it rises from here where it rises again. -/
def freezeBeat (s : State) : State := { setFld s 0 R.HIF_FW_BEAT (beatNow s) with beatAt := s.now }

/-- The new firmware takes over (step 5). -/
def handOver (s : State) (h : Handover) : State :=
  let m := s.sec.meas.getD h.new []
  let s1 := (List.range 16).foldl (fun s i => wrReg s (R.SEC_MEAS.off + 4 * i) (BitVec.ofNat 32 (fieldLe m (4 * i) 4))) s
  let s2 := setFld (setFld s1 0 R.SEC_STATE_SLOT h.new) 0 R.HIF_FW_STATE 2
  { s2 with sec := { s2.sec with prefer := h.new, hand := none }, beatAt := s2.now }

/-- Progress of a live update: step 4 begins once no command runs; step 5 comes after a free time. -/
def handStep (s : State) : State :=
  match s.sec.hand with
  | none => s
  | some h =>
    match h.at' with
    | none => if s.mbxRun.isEmpty then let s1 := freezeBeat s; { s1 with sec := { s1.sec with hand := some { h with at' := some s.now } } } else s
    | some t => if s.stall.isNone && decide (Config.handTime t ≤ 1000 * tcMs) && decide (t + Config.handTime t ≤ s.now) then handOver s h else s

/-- MAILBOX_TAKE. -/
def execMailboxTake (bad : Fin 4) (s : State) : Host.Outcome State Fault Refusal := .next (mailboxTake (handStep s) bad.val)

end Sys2Proof.Machine
end

