-- ==== Sys2Proof/Machine/StreamCheck.lean ====
section
/-! DEFINITION. The check of a set of streams before it is loaded (R287). -/

namespace Sys2Proof.Machine

/-- A command of a stream that the check looks at: WAIT of a counter and value, SIGNAL to a tile's counter with its increment, SIGCLR. -/
inductive ChkOp
  | wait (ctr value : Nat)
  | signal (tile ctr inc : Nat)
  | clear (ctr : Nat)
  deriving DecidableEq, Repr

/-- A node: tile, command index, command. -/
abbrev ChkNode := Nat × Nat × ChkOp

/-- What the check sees of a command. -/
def chkOf : SeqCmd → Option ChkOp
  | .wait o => some (.wait o.ctr o.value)
  | .signal o => some (.signal o.tile o.ctr o.inc)
  | .sigclr c => some (.clear c)
  | _ => none

/-- The commands of a stream that the check looks at: entries 0 to n − 1 of a ring. -/
def streamOps (s : State) (tile base n : Nat) : List ChkNode :=
  (List.range n).filterMap fun j =>
    let d := decodeSeq (hbmRead s (base + 32 * j) 32)
    if d.1 ≠ 0 then none else (chkOf d.2).map fun o => (tile, j, o)

/-- SIGNALs of a set that reach a counter of a tile. -/
def sigsTo (all : List ChkNode) (tile ctr : Nat) : List ChkNode :=
  all.filter fun n => match n.2.2 with
    | .signal t c _ => decide (t = tile) && decide (c = ctr)
    | _ => false

/-- Increment of a SIGNAL. -/
def incOf (n : ChkNode) : Nat := match n.2.2 with
  | .signal _ _ i => i
  | _ => 0

/-- Position of the SIGNAL that first brings the sum of increments from position `from'` to v. -/
def reachAt (sg : List ChkNode) (v : Nat) : Nat → Nat → List ChkNode → Option Nat
  | _, _, [] => none
  | i, sum, n :: t => if v ≤ sum + incOf n then some i else reachAt sg v (i + 1) (sum + incOf n) t

/-- Edges into the WAITs of one stream on a counter that one stream signals: signals that earlier WAITs used are spent at a SIGCLR. The Bool tells of a
WAIT that no signal satisfies, with its index. -/
def oneSource (sg : List ChkNode) (ctr : Nat) : Nat → Nat → List ChkNode → List (ChkNode × ChkNode) × Option Nat
  | _, _, [] => ([], none)
  | from', used, n :: t =>
    match n.2.2 with
    | .wait c v =>
      if c ≠ ctr ∨ v = 0 then oneSource sg ctr from' used t
      else
        match reachAt sg v from' 0 (sg.drop from') with
        | none => ([], some n.2.1)
        | some k =>
          let r := oneSource sg ctr from' (max used (k + 1)) t
          ((match sg[k]? with | some x => [(x, n)] | none => []) ++ r.1, r.2)
    | .clear c => if c = ctr then oneSource sg ctr used used t else oneSource sg ctr from' used t
    | .signal _ _ _ => oneSource sg ctr from' used t

/-- Edges into the WAITs of a stream, and the index of a WAIT that the set's SIGNALs cannot satisfy. -/
def waitEdges (all : List ChkNode) (tile : Nat) (st : List ChkNode) : List (ChkNode × ChkNode) × Option Nat :=
  let ctrs := (st.filterMap fun n => match n.2.2 with | .wait c _ => some c | _ => none).eraseDups
  let rs := ctrs.map fun c =>
    let sg := sigsTo all tile c
    let srcs := (sg.map (·.1)).eraseDups
    let total := (sg.map incOf).sum
    let ws := st.filter fun n => match n.2.2 with | .wait x v => decide (x = c) && decide (v ≠ 0) | _ => false
    let excess := ws.find? fun n => match n.2.2 with | .wait _ v => decide (total < v) | _ => false
    match excess with
    | some n => (([] : List (ChkNode × ChkNode)), some n.2.1)
    | none => if srcs.length ≤ 1 then oneSource sg c 0 0 st else (ws.flatMap fun w => sg.map fun x => (x, w), none)
  (rs.flatMap (·.1), (rs.filterMap (·.2)).head?)

/-- Nodes reached from those known. -/
def reachFrom (es : List (ChkNode × ChkNode)) : Nat → List ChkNode → List ChkNode
  | 0, l => l
  | f + 1, l =>
    let l1 := (l ++ (es.filter fun e => l.contains e.1).map (·.2)).eraseDups
    if l1.length = l.length then l else reachFrom es f l1

/-- Check a set of streams, each a tile with its commands: none where it passes, else a tile and the index of a WAIT that lies in a cycle or is over-counted. -/
def checkStreams (sts : List (Nat × List ChkNode)) : Option (Nat × Nat) :=
  let all := sts.flatMap (·.2)
  let rs := sts.map fun st => (st.1, waitEdges all st.1 st.2)
  match rs.find? fun r => r.2.2.isSome with
  | some r => some (r.1, r.2.2.getD 0)
  | none =>
    let keep := sts.map fun st => st.2.filter fun n => match n.2.2 with | .clear _ => false | _ => true
    let es := (keep.flatMap fun l => l.zip (l.drop 1)) ++ rs.flatMap fun r => r.2.1
    let ws := all.filter fun n => match n.2.2 with | .wait _ _ => true | _ => false
    (ws.find? fun w => (reachFrom es all.length ((es.filter fun e => decide (e.1 = w)).map (·.2))).contains w).map fun w => (w.1, w.2.1)

end Sys2Proof.Machine
end

