-- ==== Sys2Proof/Machine/MbxCmds.lean ====
section
/-! DEFINITION. The mailbox commands (R451–R458, R482, R488, R489). Each row finishes, or takes forward, the RUNNING command of a pair. -/

namespace Sys2Proof.Machine

/-- Pad a byte list with zeros, or cut it. -/
def padTo (n : Nat) (b : List Byte) : List Byte := b.take n ++ List.replicate (n - b.length) 0

/-- The part number, 16 bytes. -/
def partNumber : List Byte := padTo 16 (ascii "TVZ-GK4824-A")

/-- Firmware version of a slot's accepted image, or 0. -/
def slotVersion (s : State) (slot : Nat) : Nat := if (s.sec.meas.getD slot []).isEmpty then 0 else leNat (slotRead s slot 16 8)

/-- Measurement of a slot, 64 bytes, or zeros. -/
def slotMeas (s : State) (slot : Nat) : List Byte := padTo 64 (s.sec.meas.getD slot [])

/-- The active slot. -/
def activeSlot (s : State) : Nat := fld s 0 R.SEC_STATE_SLOT

/-- GET_INFO. -/
def execGetInfo (pair : Fin 64) (s : State) : Host.Outcome State Fault Refusal :=
  .next (runCmd s pair 1 fun _ => (s, okWith (partNumber ++ [0xA0, 0, 0, 0] ++ leBytes 4 (myId s) ++ leBytes 4 (fld s 0 R.XCH_TAG_TAG) ++
    [BitVec.ofNat 8 (activeSlot s), 0, 0, 0] ++ leBytes 8 (slotVersion s 0) ++ leBytes 8 (slotVersion s 1))))

/-! ### Configuration sets (R401) -/

/-- Reason of R450 for which a set is refused; 0 where it passes. -/
def cfgRefusal (s : State) (A : Nat) (digest : List Byte) (img : List Byte) : Nat :=
  if A ≤ fld s 0 R.XCH_COMMITTED then 1
  else if sha512 img ≠ digest then 4
  else match parseImage img with
    | none => 5
    | some c =>
      if !routesOk c.geom then 2
      else if c.geom.places.any (pairOverlap c.geom.pairOfs) then 3
      else if c.fw ≠ slotMeas s 0 ∧ c.fw ≠ slotMeas s 1 then 5 else 0

/-- Stage a set that passed. The first set, with none in force, activates at once, and the version it names counts as committed and confirmed. -/
def stageSet (s : State) (c : CfgSet) (A : Nat) : State :=
  if s.cfg.isSome then { s with staged := some (c, A) }
  else activate (setFld (setFld { s with doneV := A } 0 R.XCH_COMMITTED A) 0 R.XCH_CONFIRMED A) c A

/-- STAGE_CONFIG. -/
def execStageConfig (pair : Fin 64) (s : State) : Host.Outcome State Fault Refusal :=
  .next (runCmd s pair 2 fun c =>
    let A := par c.page 16 8
    let r := memRead s (par c.page 0 8) (par c.page 8 4)
    let why := cfgRefusal s A (sub c.page 88 64) r.1
    match parseImage r.1 with
    | some set =>
      if why = 0 then (stageSet r.2 set A, okWith (set.digest.take 4))
      else (raiseNamed r.2 0 R.XCH_STATUS_STAGE_REF [] 0x33 5 A 0 0 [why], failWith stRefused why)
    | none => (raiseNamed r.2 0 R.XCH_STATUS_STAGE_REF [] 0x33 5 A 0 0 [why], failWith stRefused why))

/-! ### Streams (R452, R453) -/

/-- Load one stream: its registers, PTR 0, and RUN where the entry asks. -/
def loadStream (s : State) (page : List Byte) (o : Nat) : State :=
  let n := phys s (par page o 1)
  let tb := tileBase n
  let s1 := setFld (setFld (setFld s tb R.TILE_SEQ_BASE_ADDR (par page (o + 8) 8 / 64)) tb R.TILE_SEQ_LEN_LEN (par page (o + 4) 4)) tb R.TILE_SEQ_TAIL_TAIL (par page (o + 16) 4)
  let s2 := setFld (setFld s1 tb R.TILE_SEQ_DESC_CNT (par page (o + 20) 2)) tb R.TILE_SEQ_DESC_ADDR (par page (o + 24) 8 / 32)
  let s3 := setFld (modTile s2 n fun t => { t with fetched := [] }) tb R.TILE_SEQ_PTR_PTR 0
  if bitOn (par page (o + 1) 1) 0 then seqRun s3 n true else s3

/-- LOAD_STREAMS. -/
def execLoadStreams (pair : Fin 64) (s : State) : Host.Outcome State Fault Refusal :=
  .next (runCmd s pair 3 fun c =>
    let os := (List.range (par c.page 0 4)).map fun i => 32 + 32 * i
    match os.find? fun o => let st := seqState s (phys s (par c.page o 1)); decide (st ≠ sqStopped) && decide (st ≠ sqHalted) with
    | some o => (s, failWith stBadState (seqState s (phys s (par c.page o 1))))
    | none =>
      match checkStreams (os.map fun o => (par c.page o 1, streamOps s (par c.page o 1) (par c.page (o + 8) 8) (par c.page (o + 16) 4))) with
      | some w => (s, failWith stCycle (w.1 * 2 ^ 24 + w.2))
      | none => (os.foldl (fun s o => loadStream s c.page o) s, okWith []))

/-- May a tile's sequencer take a STREAM_CTRL action: 0 RESUME, 1 SKIP, 2 STOP, 3 RUN. -/
def ctrlAllowed (s : State) (n action : Nat) : Bool :=
  let st := seqState s n
  match action with
  | 2 => decide (st = sqRunning) || decide (st = sqWaiting)
  | 3 => decide (st = sqStopped)
  | _ => decide (st = sqHalted)

/-- One action on a tile. -/
def ctrlAct (s : State) (n action : Nat) : State :=
  match action with
  | 0 => seqContinue s n false
  | 1 => seqContinue s n true
  | 2 => seqRun s n false
  | _ => seqRun s n true

/-- STREAM_CTRL on a mask of tiles: the state after, and the mask of tiles acted on. -/
def streamCtrl (s : State) (mask action : Nat) : State × Nat :=
  let ts := (maskTiles mask).filter fun t => ctrlAllowed s (phys s t) action
  (ts.foldl (fun s t => ctrlAct s (phys s t) action) s, (ts.map fun t => 2 ^ t).sum)

/-- STREAM_CTRL. -/
def execStreamCtrl (pair : Fin 64) (s : State) : Host.Outcome State Fault Refusal :=
  .next (runCmd s pair 4 fun c => let r := streamCtrl s (par c.page 0 8) (par c.page 8 1); (r.1, okWith (leBytes 8 r.2)))

/-! ### Snapshots (R396, R454) -/

/-- Blocks of a snapshot as (tensor, block), in run order. -/
def snapBlocks (page : List Byte) : List (Nat × Nat) :=
  (List.range (par page 8 4)).flatMap fun i => (List.range (par page (20 + 12 * i) 4)).map fun b => (par page (12 + 12 * i) 4, par page (16 + 12 * i) 4 + b)

/-- Address of a block for a version (R392). -/
def snapAddr (s : State) (tid blk v : Nat) : Nat := (placeAddr s { tid := tid, blk := blk, fmt := 0, layout := 0 } v).getD 0

/-- Low 48 bits of a version. -/
def low48 (v : Nat) : Nat := v % 2 ^ 48

/-- SNAPSHOT: one attempt has read all its blocks. Blocks of another version restart it at the newer committed version, at most three times. -/
def execSnapshot (pair : Fin 64) (s : State) : Host.Outcome State Fault Refusal :=
  .next (runCmd s pair 5 fun c =>
    let st := c.snap.getD (fld s 0 R.XCH_COMMITTED, 0)
    let bs := snapBlocks c.page
    let data := bs.map fun b => hbmRead s (snapAddr s b.1 b.2 st.1) 9216
    let s1 := (bs.foldl (fun s b => (memRead s (snapAddr s b.1 b.2 st.1) 9216).2) s)
    let now' := fld s 0 R.XCH_COMMITTED
    if data.all fun d => decide ((trailerOf d).version = low48 st.1) then
      let outs : List Out := data.zipIdx.map fun d => .hostWrite (par c.page 0 8 + 9216 * d.2) d.1
      ({ s1 with out := s1.out ++ outs }, okWith (leBytes 8 st.1 ++ leBytes 4 bs.length ++ leBytes 4 st.2))
    else if now' ≤ st.1 then (s1, none)
    else if 3 ≤ st.2 then (s1, failWith stRetry (now' % 2 ^ 32))
    else ({ s1 with mbxRun := s1.mbxRun.map fun x => if x.pair = c.pair then { x with snap := some (now', st.2 + 1), since := s.now } else x }, none))

/-! ### Takeover and buckets (R455) -/

/-- TAKEOVER: it waits until the takeover may proceed. -/
def execTakeover (pair : Fin 64) (s : State) : Host.Outcome State Fault Refusal :=
  .next (runCmd s pair 6 fun c =>
    let t := par c.page 0 1
    let n := phys s t
    if ptileState s n ≠ 0 ∨ s.retiring.contains n = true then (s, failWith stBadState (ptileState s n))
    else match spareOf s (n / 17) with
      | none => (s, failWith stNoSpare (n / 17))
      | some q => if takeoverReady s n then (takeover s t n q, okWith [BitVec.ofNat 8 q]) else (s, none))

/-- UPDATE_RETRY. -/
def execUpdateRetry (pair : Fin 64) (s : State) : Host.Outcome State Fault Refusal :=
  .next (runCmd s pair 7 fun c =>
    let b := par c.page 0 4
    match obkt s b with
    | none => (s, failWith stMbxOwner 0)
    | some o => if o.failed && decide (par c.page 8 8 = o.ver) then (requeue s b, okWith [])
                else (s, failWith stBadState (if o.failed then 4 else if o.busy then 2 else 0)))

/-- SUPERSEDE: R423 for f to l. -/
def execSupersede (pair : Fin 64) (s : State) : Host.Outcome State Fault Refusal :=
  .next (runCmd s pair 8 fun c =>
    let b := par c.page 0 4
    let f := par c.page 8 8
    let l := par c.page 16 8
    match obkt s b with
    | none => (s, failWith stMbxOwner 0)
    | some o =>
      let open' := if o.published then o.ver else o.ver - 1
      if l < f then (s, failWith stBadParam 8)
      else if open' < l then (s, failWith stBadParam 16)
      else (supersede s b f l, okWith []))

/-- Does a block at a bucket's position pass its checks for version v. -/
def arrivedOk (s : State) (g : GBkt) (v pos : Nat) : Bool :=
  let e := posExpect g pos
  match placeAddr s e v with
  | none => false
  | some a =>
    let b := hbmRead s a 9216
    decide (blockCheck e false b = 0) && decide ((trailerOf b).version = low48 v)

/-- BUCKET_ARRIVED. -/
def execBucketArrived (pair : Fin 64) (s : State) : Host.Outcome State Fault Refusal :=
  .next (runCmd s pair 9 fun c =>
    let b := par c.page 0 4
    let v := par c.page 8 8
    match geomBkt s b, rbkt s b with
    | some g, some r =>
      let ps := List.range (17 * g.nslice)
      let s0 := ps.foldl (fun s p => (memRead s ((placeAddr s (posExpect g p) v).getD 0) 9216).2) s
      match ps.find? fun p => !arrivedOk s g v p with
      | some p => (s0, failWith stBlkCheck p)
      | none =>
        let x := rver r v
        (modR s0 b fun r => putRver r { x with got := ps, fullAt := some (x.fullAt.getD s.now), failed := false, gone := false }, okWith (leBytes 4 (17 * g.nslice)))
    | _, _ => (s, failWith stBadParam 0))

/-- BUCKET_HOLD: at release, a close that fell due occurs. -/
def execBucketHold (pair : Fin 64) (s : State) : Host.Outcome State Fault Refusal :=
  .next (runCmd s pair 0xA fun c =>
    let b := par c.page 0 4
    let hold := decide (par c.page 4 1 = 1)
    match obkt s b with
    | none => (s, failWith stMbxOwner 0)
    | some _ => let s1 := modO s b fun o => { o with held := hold }; (if hold then s1 else judgeStep s1 b, okWith []))

/-- SET_LEDGER. -/
def execSetLedger (pair : Fin 64) (s : State) : Host.Outcome State Fault Refusal :=
  .next (runCmd s pair 0xB fun c => ({ s with ledger := par c.page 0 4 }, okWith []))

/-- FW_STOP: once no other command runs, its own response, and STOPPED. -/
def execFwStop (pair : Fin 64) (s : State) : Host.Outcome State Fault Refusal :=
  .next (match s.mbxRun with
    | [_] =>
      let s1 := runCmd s pair 0xC fun _ => (s, okWith [])
      if s1.mbxRun.isEmpty && decide (fld s1 0 R.MBX_FAIL_CNT_COUNT = fld s 0 R.MBX_FAIL_CNT_COUNT) then setFld (freezeBeat s1) 0 R.HIF_FW_STATE 4 else s1
    | _ => s)

/-! ### Management commands (R482, R488, R489) -/

/-- GET_CERT. -/
def execGetCert (pair : Fin 64) (s : State) : Host.Outcome State Fault Refusal :=
  .next (runCmd s pair 0x40 fun c => let d := s.sec.certs.getD (par c.page 0 1) []; (s, okWith (leBytes 4 d.length ++ d)))

/-- Take n free 64-byte values. -/
def takeFree : Nat → State → List Byte × State
  | 0, s => ([], s)
  | n + 1, s => let f := nextFree s; let r := takeFree n f.2; (leBytes 64 (Config.freeNonce f.1).toNat ++ r.1, r.2)

/-- Digest of the staged set, or zeros. -/
def stagedDigest (s : State) : List Byte := match s.staged with
  | some c => c.1.digest
  | none => List.replicate 64 0

/-- ATTEST: the report, signed with the identity key, whose signature is a free value. -/
def execAttest (pair : Fin 64) (s : State) : Host.Outcome State Fault Refusal :=
  .next (runCmd s pair 0x41 fun c =>
    let act := activeSlot s
    let r := leBytes 4 1 ++ leBytes 4 (myId s) ++ partNumber ++ [0xA0, BitVec.ofNat 8 act, 0, 0] ++ leBytes 4 (fuseSvn s) ++ slotMeas s act ++
      slotMeas s (1 - act) ++ myDigest s ++ stagedDigest s ++ leBytes 8 (fld s 0 R.XCH_COMMITTED) ++ sub c.page 64 32 ++ sha512 s.sec.idMod
    let f := takeFree 8 s
    (f.2, okWith (r ++ f.1)))

/-- Accept an image for the slot that is not active: AUTH, or 0 (R476, R485, R489). -/
def stageJudge (s : State) (img expect : List Byte) : Nat :=
  if imageFail s img ≠ 0 ∨ measureOf img ≠ expect then stAuth else 0

/-- FW_STAGE. `data` is what host memory returns where the source lies there; `ok`: the slot was written and read back right. -/
def execFwStage (pair : Fin 64) (data : List Byte) (ok : Bool) (s : State) : Host.Outcome State Fault Refusal :=
  let boot := inRecovery s
  let slot := 1 - activeSlot s
  let s1 := runCmd s pair 0x42 fun c =>
    let host := bitOn (par c.page 0 8) 63
    let len := par c.page 8 4
    let r := if host then (data, s) else memRead s (par c.page 0 8) len
    if r.1.length ≠ len then (s, none)
    else if stageJudge s r.1 (sub c.page 80 64) ≠ 0 then (r.2, failWith stAuth 0)
    else
      let fl := r.2.flash.filter fun b => decide (b.1 / 2 ^ 26 ≠ slot)
      if ok then
        ({ r.2 with flash := ssetList flashDefault fl (slot * 2 ^ 26) r.1, sec := { r.2.sec with meas := r.2.sec.meas.set slot (measureOf r.1) } },
         okWith [BitVec.ofNat 8 slot])
      else ({ r.2 with flash := fl, sec := { r.2.sec with meas := r.2.sec.meas.set slot [] } }, failWith stHw 0)
  .next (if boot && !(s.mbxRun.isEmpty) && s1.mbxRun.isEmpty && !(s1.sec.meas.getD slot []).isEmpty then
      rebootHub (setFld { s1 with sec := { s1.sec with prefer := slot } } 0 R.PWR_RST_CAUSE_CAUSE 6) else s1)

/-- FW_STATUS. -/
def execFwStatus (pair : Fin 64) (s : State) : Host.Outcome State Fault Refusal :=
  .next (runCmd s pair 0x43 fun _ =>
    let fl := (if fldOn s 0 R.SEC_STATUS_FALLBACK then 1 else 0) + (if ownerReq s then 2 else 0)
    (s, okWith ([BitVec.ofNat 8 (activeSlot s), BitVec.ofNat 8 (s.sec.prefer % 2), BitVec.ofNat 8 fl, 0] ++ leBytes 4 (fuseSvn s) ++ leBytes 8 (slotVersion s 0) ++
      leBytes 8 (slotVersion s 1) ++ slotMeas s 0 ++ slotMeas s 1)))

/-- Blow fuses of a register word: its fuse value, and what it reads. -/
def setFuse (s : State) (k : Nat) (w : Word) : State := wrReg { s with fuses := sset (fun _ => (0 : Word)) s.fuses k w } k w

/-- Was OWNER_ARM written in the last 60 s. -/
def ownerArmed (s : State) : Bool := match s.sec.armAt with
  | some t => decide (s.now < t + 60000 * tcMs)
  | none => false

/-- OWNER_KEY_SET. -/
def execOwnerKeySet (pair : Fin 64) (s : State) : Host.Outcome State Fault Refusal :=
  .next (runCmd s pair 0x44 fun c =>
    let m := sub c.page 64 512
    if !ownerArmed s || ownerSet s then (s, failWith stBadState (fld s 0 R.HIF_FW_STATE))
    else if !rsaVerify m (sub c.page 580 512) (sub c.page 64 513) then (s, failWith stAuth 0)
    else
      let d := sha512 m
      let s1 := (List.range 16).foldl (fun s i => setFuse s (R.SEC_OKEY.off + 4 * i) (BitVec.ofNat 32 (fieldLe d (4 * i) 4))) s
      let bits := 4 + (if par c.page 512 1 = 1 then 8 else 0)
      let s2 := { s1 with fuses := sset (fun _ => (0 : Word)) s1.fuses R.SEC_STATE.off (BitVec.ofNat 32 bits), sec := { s1.sec with okey := m } }
      let s3 := setBit (setFld s2 0 R.SEC_STATE_OWNER_SET 1) 0 R.SEC_STATE_OWNER_REQ (decide (par c.page 512 1 = 1))
      (raiseBit s3 0 R.SEC_STATUS_OWNER_PROG, okWith []))

/-- GET_DIGEST. -/
def execGetDigest (pair : Fin 64) (s : State) : Host.Outcome State Fault Refusal :=
  .next (runCmd s pair 0x45 fun _ => (s, okWith (myDigest s ++ stagedDigest s)))

/-- SVN_COMMIT. -/
def execSvnCommit (pair : Fin 64) (s : State) : Host.Outcome State Fault Refusal :=
  .next (runCmd s pair 0x46 fun _ =>
    let v := leNat (slotRead s (activeSlot s) 8 4)
    if v ≤ fuseSvn s then (s, failWith stBadState (fld s 0 R.HIF_FW_STATE)) else (setFuse s R.SEC_SVN.off (BitVec.ofNat 32 v), okWith (leBytes 4 v)))

end Sys2Proof.Machine
end

