-- ==== Sys2Proof/Machine/Copy.lean ====
section
/-! DEFINITION. The host's BAR2 window (R442, R444) and the host-copy engines (R459, R460); resets of the PCI Express function (R535) and D3hot (R440). -/

namespace Sys2Proof.Machine

/-! ### BAR2 (R442, R444) -/

/-- Does an access touch Smiteale's reserve. -/
def inReserve (a len : Nat) : Bool := decide (a < 0x18000000000) && decide (0x17F00000000 < a + len)

/-- An access that touches the reserve is refused, counted and reported (R444). -/
def denyReserve (s : State) : State := raiseBit (count s 0 R.HIF_RSV_DENY 1) 0 R.HIF_STATUS_RSV

/-- HBM address of BAR2 offset 0: HIF_BAR2_BASE rounded down to a multiple of the window, 2^`log` bytes. -/
def bar2Base (s : State) (log : Nat) : Nat := fld s 0 R.HIF_BAR2_BASE_BASE * 2 ^ 36 / 2 ^ log * 2 ^ log

/-- BAR2_ACCESS: a host access of `len` bytes at offset `off`, or a write of `data`, in a window of 64 GiB × 2^`size` as the host set BAR2. -/
def execBar2Access (size : Fin 6) (off len : Nat) (data : Option (List Byte)) (s : State) : Host.Outcome State Fault Refusal :=
  let log := 36 + size.val
  let n := match data with
    | some d => d.length
    | none => len
  if !hostUp s || decide (n = 0) || decide (2 ^ log < off + n) then .next s
  else
    let a := bar2Base s log + off
    let range := decide (hbmEnd < a + n)
    if range || inReserve a n then
      let s1 := if range then raiseBit (count s 0 R.HIF_BAR2_RANGE 1) 0 R.HIF_STATUS_RANGE else s
      let s2 := if inReserve a n then denyReserve s1 else s1
      .next (if data.isSome then s2 else { s2 with hostResp := List.replicate n 0xFF })
    else match data with
      | some d => .next (memWrite s a d)
      | none => let r := memRead s a n; .next { r.2 with hostResp := r.1 }

/-! ### Host-copy engines -/

/-- Is an engine busy. -/
def cpyBusy (s : State) (e : Nat) : Bool := fldOn s 0 (fldAt R.HIF_CPY_STAT_BUSY e)

/-- An engine ends with a RESULT (R459): BUSY clears, the vector, the event. -/
def cpyEnd (s : State) (e result : Nat) : State :=
  let s1 := setFld (setFld { s with cpy := s.cpy.filter fun c => decide (c.1 ≠ e) } 0 (fldAt R.HIF_CPY_STAT_BUSY e) 0) 0 (fldAt R.HIF_CPY_STAT_RESULT e) result
  let s2 := if fldOn s1 0 (fldAt R.HIF_CPY_CTRL_IRQ e) then raiseVec s1 (fld s1 0 (fldAt R.HIF_CPY_CTRL_VEC e)) else s1
  if fldOn s2 0 (fldAt R.HIF_CPY_CTRL_EVT e) then pushEv s2 0x51 7 0 0 0 0 0 [e, result] else s2

/-- Start an engine with the values its registers hold; the low 6 bits of an address are dropped. -/
def cpyGo (s : State) (e : Nat) : State :=
  let j : CpyJob := { dir := fld s 0 (fldAt R.HIF_CPY_CTRL_DIR e), src := fld s 0 (fldAt R.HIF_CPY_SRC_ADDR e) / 64 * 64,
                      dst := fld s 0 (fldAt R.HIF_CPY_DST_ADDR e) / 64 * 64, n := fld s 0 (fldAt R.HIF_CPY_LEN_LEN64 e) }
  let s1 := setFld (setFld s 0 (fldAt R.HIF_CPY_STAT_BUSY e) 1) 0 (fldAt R.HIF_CPY_STAT_RESULT e) 0
  { s1 with cpy := s1.cpy ++ [(e, j)] }

/-- What stops a unit of 64 bytes at an HBM address: 1 beyond HBM, 2 the reserve; 0 nothing. -/
def cpyHbmBad (a : Nat) : Nat := if hbmEnd < a + 64 then 1 else if inReserve a 64 then 2 else 0

/-- What stops a unit at a sett address, a BAR4 offset: 1 beyond the aperture or a 12 MiB region. -/
def cpySettBad (a : Nat) : Nat := if 2 ^ 32 ≤ a ∨ settKind (a % 2 ^ 26) = 3 ∨ settSize < a % 2 ^ 24 + 64 then 1 else 0

/-- Does the host own the port of a unit at a sett address; if not, R174 applies to it. -/
def cpyDeny (s : State) (a : Nat) : State :=
  let tb := tileBase (phys s (a / 2 ^ 26))
  raiseBit (count s tb R.SETT_HOST_DENY 1) tb R.SETT_STATUS_HOST_DENY

/-- Move one unit: `src` and `dst` are its addresses, `d` what the host memory returns for it. The second value is 4 where the port is not owned. -/
def cpyMove (s : State) (dir src dst : Nat) (d : List Byte) : State × Nat :=
  match dir with
  | 0 => (memWrite s dst d, 0)
  | 1 => let r := memRead s src 64; ({ r.2 with out := r.2.out ++ [.hostWrite dst r.1] }, 0)
  | 2 =>
    let n := phys s (dst / 2 ^ 26)
    if settOwned s n 1 (dst % 2 ^ 26) 64 then (settWrite s n (dst % 2 ^ 26) d, 0) else (cpyDeny s dst, 4)
  | _ =>
    let n := phys s (src / 2 ^ 26)
    if settOwned s n 1 (src % 2 ^ 26) 64 then ({ s with out := s.out ++ [.hostWrite dst (settRead (tileAt s n) (src % 2 ^ 26) 64)] }, 0)
    else let s1 := cpyDeny s src; ({ s1 with out := s1.out ++ [.hostWrite dst (List.replicate 64 0xFF)] }, 4)

/-- Copy `k` units from unit `i` (R460): the first failure stops the engine, but for a port that is not owned. `err`: the unit for which host
memory answers with an error; `pois`: the unit whose data arrive poisoned. The second value is the RESULT. -/
def cpyRun (j : CpyJob) (data : List Byte) (err pois : Option Nat) : Nat → Nat → Nat → State → State × Nat
  | 0, _, res, s => (s, res)
  | k + 1, i, res, s =>
    let src := j.src + 64 * i
    let dst := j.dst + 64 * i
    let bad := match j.dir with
      | 0 => cpyHbmBad dst
      | 1 => cpyHbmBad src
      | 2 => cpySettBad dst
      | _ => cpySettBad src
    if bad = 1 then (s, 1)
    else if bad = 2 then (denyReserve s, 2)
    else if err = some i then (raiseBit s 0 R.HIF_STATUS_CPL_ERR, 3)
    else if pois = some i then (s, 6)
    else
      let r := cpyMove s j.dir src dst ((data.drop (64 * i)).take 64)
      cpyRun j data err pois k (i + 1) (max res r.2) r.1

/-- The job of a busy engine. -/
def cpyJob (s : State) (e : Nat) : Option CpyJob := (s.cpy.find? fun c => decide (c.1 = e)).map (·.2)

/-- What an engine that is stopped has moved: its first units, as many as `data` gives bytes of host memory for, or `units` of them where the source
lies in the module. -/
def cpyPart (s : State) (e units : Nat) (data : List Byte) : State :=
  match cpyJob s e with
  | none => s
  | some j => (cpyRun j data none none (min (min units j.n) (if j.dir % 2 = 0 then data.length / 64 else units)) 0 0 s).1

/-- COPY_DONE: engine e ends. `data` are the bytes host memory returned for a copy from it. -/
def execCopyDone (e : Fin 8) (data : List Byte) (err pois : Option Nat) (s : State) : Host.Outcome State Fault Refusal :=
  .next (match cpyJob s e.val with
    | none => s
    | some j =>
      if j.dir % 2 = 0 ∧ data.length ≠ 64 * j.n then s
      else let r := cpyRun j data err pois j.n 0 0 s; cpyEnd r.1 e.val r.2)

/-- Stop a busy engine with RESULT 5. -/
def cpyStop (s : State) (e units : Nat) (data : List Byte) : State := if cpyBusy s e then cpyEnd (cpyPart s e units data) e 5 else s

/-- A write of HIF_CPY_CTRL of engine e: by the host those of engines 6 and 7 are discarded. -/
def cpyCtrlWrite (s : State) (hub : Bool) (e : Nat) (w : Word) (units : Nat) (data : List Byte) : State :=
  if !hub && decide (6 ≤ e) then s
  else
    let s1 := regWrite s (R.HIF_CPY_CTRL.off + 0x40 * e) w
    if bitOn w.toNat 30 ∧ cpyBusy s1 e then cpyStop s1 e units data
    else if bitOn w.toNat 31 ∧ !cpyBusy s1 e then cpyGo s1 e else s1

/-- HIF_CPY_GO: the host, or the hub processor, writes CTRL with GO. -/
def execHifCpyGo (e : Fin 8) (hub : Bool) (w : Word) (s : State) : Host.Outcome State Fault Refusal :=
  .next (if hostUp s || (hub && s.hubUp) then cpyCtrlWrite s hub e.val ((w ||| 0x80000000#32) &&& ~~~0x40000000#32) 0 [] else s)

/-- HIF_CPY_ABORT: CTRL is written as it stands with ABORT; `units` and `data` say what had moved. -/
def execHifCpyAbort (e : Fin 8) (hub : Bool) (units : Nat) (data : List Byte) (s : State) : Host.Outcome State Fault Refusal :=
  .next (if hostUp s || (hub && s.hubUp) then cpyCtrlWrite s hub e.val (rdReg s (R.HIF_CPY_CTRL.off + 0x40 * e.val) ||| 0x40000000#32) units data else s)

/-! ### Resets of the function, and D3hot -/

/-- PERST: PERST_N, a hot reset or a link-down reset (R535), after which the link trains as given. `moved` gives for engines 0 to 5 what each had moved. -/
def execPerst (moved : List (Nat × List Byte)) (width : Nat) (flit : Bool) (speed : Fin 8) (s : State) : Host.Outcome State Fault Refusal :=
  if !s.hubUp then .next s
  else
    let s0 := { s with msix := [], d3hot := false }
    let s1 := (List.range 6).foldl (fun s e => let m := moved.getD e (0, []); cpyStop s e m.1 m.2) s0
    let s2 := (List.range 16).foldl (fun s q => modEvq (setFld s 0 (fldAt R.EVQ_CFG_EN q) 0) q fun _ => {}) { s1 with msixPend := [] }
    let s3 := { s2 with pwr := { s2.pwr with width := width, flit := flit, speed := speed.val } }
    .next (linkReport (setFld (setBit (setFld s3 0 R.HIF_LINK_WIDTH width) 0 R.HIF_LINK_FLIT flit) 0 R.HIF_LINK_SPEED speed.val))

/-- D3HOT_CHANGE: the host moves the function into or out of D3hot. -/
def execD3hotChange (on : Bool) (s : State) : Host.Outcome State Fault Refusal :=
  .next (if s.hubUp && decide (4 ≤ s.pwr.width) then { s with d3hot := on } else s)

end Sys2Proof.Machine
end

