-- ==== Sys2Proof/Machine/Links.lean ====
section
/-! DEFINITION. Peer links (chapter 12): bring-up, lanes and admission (R350–R352, R370, R371), flits with acknowledgement and replay (R353–R359,
R363, R364), and the forwarding of packets (R361, R362, R366, R368). -/

namespace Sys2Proof.Machine

/-! ### Lanes (R351, R352) -/

/-- Power of a port's registers: the byte of PL_LANE for a physical lane. -/
def laneByte (l : LaneInfo) (used : Bool) : Nat := (if used then 16 else 0) + (if l.ok then 8 else 0) + (if l.inv then 4 else 0) + l.logical % 4

/-- Physical lanes that locked and failed neither check of R351, as (physical, info). -/
def goodLanes (x : Port) : List (Nat × LaneInfo) :=
  match x.lanes with
  | [] => []
  | (_, f) :: _ =>
    x.lanes.filter fun l => l.2.ok && decide (l.2.peer = f.peer) && decide (l.2.port = f.port) &&
      !(x.lanes.any fun m => decide (m.1 ≠ l.1) && decide (m.2.logical = l.2.logical))

/-- Logical lanes in use for a set of usable ones (R352): 4, 2 or 1 of them, the lowest. -/
def usedLanes (usable : List Nat) : List Nat := usable.take (if 4 ≤ usable.length then 4 else if 2 ≤ usable.length then 2 else usable.length)

/-- Show a port's lane map and width; a width below 4 sets NARROW. -/
def showLanes (s : State) (p : Nat) (used : List Nat) : State :=
  let pb := portBase p
  let ls := (portAt s p).lanes
  let gs := (goodLanes (portAt s p)).map (·.1)
  let w := ls.foldl (fun w l => w + 2 ^ (8 * l.1) * laneByte l.2 (gs.contains l.1 && used.contains l.2.logical)) 0
  let s1 := setFld (setFld s pb R.PL_LANE w) pb R.PL_STATE_WIDTH used.length
  if used.length < 4 then raiseBit s1 pb R.PL_STATUS_NARROW else s1

/-! ### Going DOWN (R359) -/

/-- Data packets whose last flit was sent and not acknowledged. -/
def unackedPkts (x : Port) : Nat := (x.replay.filter fun f => decide (f.typ = 1) && f.eop).length

/-- End a packet that came by port p on each egress with one flit that has EOP and ABORT set. -/
def abortFrom (s : State) (p vc : Nat) : State :=
  (List.range 48).foldl (fun s e =>
    let hit := fun (t : TxPkt) => decide (t.from' = some (p, vc)) && !t.ended
    let fin : TxFlit := { typ := 1, vc := vc, sop := false, eop := true, abort := true, data := [0] }
    let cut := fun (t : TxPkt) => if hit t then { t with ended := true, from' := none, flits := t.flits ++ [fin] } else t
    if (portAt s e).txq.any hit then modPort s e fun x => { x with txq := x.txq.map cut } else s) s

/-- Discard the partial packet of a VC. -/
def dropPartial (s : State) (p vc : Nat) : State :=
  match (rxOf s p vc).getLast? with
  | none => s
  | some h =>
    if h.ended then s
    else
      let s1 := if h.route.isSome then abortFrom s p vc else s
      setRx s1 p vc (rxOf s1 p vc).dropLast

/-- A port goes DOWN (R359). -/
def goDown (s : State) (p : Nat) : State :=
  let pb := portBase p
  let x := portAt s p
  let from' := x.txq.filterMap (·.from')
  let s1 := count s pb R.PL_LOST_PKT (x.txq.length + unackedPkts x)
  let s2 := modPort s1 p fun x =>
    { x with txq := [], ctl := [], replay := [], resend := none, nak := false, nakSent := false, fast := false, retrains := 0, downAt := s.now, await := none,
             digests := [], lanes := [] }
  let s3 := from'.foldl (fun s f => rxSettle s f.1 f.2) s2
  let s4 := (List.range 4).foldl (fun s v => dropPartial s p v) s3
  let s5 := setFld (setFld (setFld s4 pb R.PL_STATE_LINK 1) pb R.PL_STATE_WIDTH 0) pb R.PL_STATE_ADMIT 0
  raiseBit (count (setFld s5 pb R.PL_STATE_QREASON 0) pb R.PL_DOWN_CNT 1) pb R.PL_STATUS_DOWN

/-! ### Bring-up (R350) -/

/-- RETRY in tc. -/
def retryTc (s : State) (p : Nat) : Nat := max 1 (fld s (portBase p) R.PL_CTRL_RETRY) * tcMs

/-- Full bring-up begins: step 1 of R350. -/
def beginTraining (s : State) (p : Nat) : State :=
  let pb := portBase p
  let s1 := modPort s p fun x => { x with lanes := [], fast := false, peerId := none, refusedAt := none, retrains := 0 }
  let s2 := setFld (setFld (setFld s1 pb R.PL_STATE_LINK 2) pb R.PL_STATE_ADMIT 0) pb R.PL_STATE_WIDTH 0
  setFld (setFld s2 pb R.PL_PEER_VALID 0) pb R.PL_STATE_QREASON 0

/-- May a port start full bring-up now: an expected peer, ENABLE, and DISABLED, or DOWN or REFUSED since RETRY. -/
def mayBringUp (s : State) (p : Nat) : Bool :=
  (expectedPeer s p).isSome && fldOn s (portBase p) R.PL_CTRL_ENABLE &&
  (decide (linkOf s p = 0) || (decide (linkOf s p = 1) && decide ((portAt s p).downAt + retryTc s p ≤ s.now)) ||
   (match (portAt s p).refusedAt with
    | some t => decide (linkOf s p = 4) && decide (admitOf s p = 3) && decide (t + retryTc s p ≤ s.now)
    | none => false))

/-- PORT_BRING_UP. -/
def execPortBringUp (p : Fin 48) (s : State) : Host.Outcome State Fault Refusal := .next (if mayBringUp s p then beginTraining s p else s)

/-- TRAINING_BLOCK_RX: a training block on a lane that locked (R350 step 3, R351). -/
def execTrainingBlockRx (p : Fin 48) (lane : Fin 4) (inv : Bool) (logical : Fin 4) (peer : BitVec 18) (port : Fin 64) (s : State) :
    Host.Outcome State Fault Refusal :=
  .next (if linkOf s p ≠ 2 then s
         else
           let l : LaneInfo := { ok := true, inv := inv, logical := logical.val, peer := peer.toNat, port := port.val }
           modPort s p fun x => { x with lanes := sput lane.val l true x.lanes })

/-- Receive buffer of a VC in flits (R362). -/
def rxCap (vc : Nat) : Nat := if vc = 1 ∨ vc = 2 then 512 else 128

/-- Flits that stand in the receive buffer of a VC. -/
def rxHeld (s : State) (p vc : Nat) : Nat := ((rxOf s p vc).map (·.flits)).sum

/-- Show the credits held. -/
def showCredits (s : State) (p : Nat) : State :=
  let pb := portBase p
  let c := fun v => (portAt s p).crdHave.getD v 0
  setFld (setFld (setFld (setFld s pb R.PL_CRD_LO_VC0 (c 0)) pb R.PL_CRD_LO_VC1 (c 1)) pb R.PL_CRD_HI_VC2 (c 2)) pb R.PL_CRD_HI_VC3 (c 3)

/-- Step 5 of R350: sequence numbers and credit counts start at 0, and the first flits return the whole buffer (R363). -/
def beginIdentify (s : State) (p : Nat) : State :=
  let f := nextFree s
  let free := (List.range 4).map fun v => rxCap v - rxHeld s p v
  showCredits (modPort (setFld f.2 (portBase p) R.PL_STATE_LINK 3) p fun x =>
    { x with nonce := f.1, nextSeq := 0, rxSeq := 0, crdRx := [0, 0, 0, 0], crdHave := [0, 0, 0, 0], crdFreed := free, vcTurn := 0 }) p

/-- The peer's set of logical lanes arrives: width and lane map (R350 step 4, R352), and the end of a fast retrain (R358). -/
def laneSetRx (s : State) (p set : Nat) : State :=
  let x := portAt s p
  let pb := portBase p
  let gs := goodLanes x
  let usable := (List.range 4).filter fun l => bitOn set l && gs.any fun g => decide (g.2.logical = l)
  if linkOf s p ≠ 2 then s
  else if usable.isEmpty then goDown s p
  else
    let first := (gs.head?.map (·.2)).getD { ok := false, inv := false, logical := 0, peer := 0, port := 0 }
    if x.fast ∧ first.peer ≠ fld s pb R.PL_PEER_MODULE then beginTraining (goDown s p) p
    else
      let s1 := showLanes s p (usedLanes usable)
      if x.fast then
        setFld (modPort s1 p fun x => { x with fast := false, resend := if x.replay.isEmpty then none else some 0 }) pb R.PL_STATE_LINK 4
      else
        beginIdentify (setFld (setFld (setFld s1 pb R.PL_PEER_MODULE first.peer) pb R.PL_PEER_VALID 1) pb R.PL_STATE_PEER_PORT first.port) p

/-- LANE_SET_RX. -/
def execLaneSetRx (p : Fin 48) (set : BitVec 4) (s : State) : Host.Outcome State Fault Refusal := .next (laneSetRx s p set.toNat)

/-- IDENTITY_RX: step 6 of R350 (R370, R481). The operand says whether certificates and signature verify and what they name. -/
def identityRx (s : State) (p : Nat) (c : PeerCert) : State :=
  if linkOf s p ≠ 3 then s
  else
    let pb := portBase p
    let i : PeerId := { valid := c.certOk && c.sigOk && c.keyUsage && decide (c.module = fld s pb R.PL_PEER_MODULE), module := c.module,
                        port := fld s pb R.PL_STATE_PEER_PORT, key := c.key, digest := c.digest }
    judgePort (setFld (modPort s p fun x => { x with peerId := some i }) pb R.PL_STATE_LINK 4) p c.digest

/-- IDENTITY_RX. -/
def execIdentityRx (p : Fin 48) (c : PeerCert) (s : State) : Host.Outcome State Fault Refusal := .next (identityRx s p c)

/-- ACTIVATION_DIGEST_RX (R371). -/
def execActivationDigestRx (p : Fin 48) (step : Nat) (digest : List Byte) (s : State) : Host.Outcome State Fault Refusal :=
  .next (if linkOf s p ≠ 4 then s
         else digestArrived (modPort s p fun x => { x with digests := (x.digests.filter fun d => decide (d.1 ≠ step)) ++ [(step, digest)] }) p step digest)

/-- DIGEST_TIMEOUT: 10 s after the local activation (R371). -/
def digestTimeout (s : State) (p : Nat) : State :=
  match (portAt s p).await with
  | some (_, t) => if t + 10000 * tcMs ≤ s.now then setAdmit (modPort s p fun x => { x with await := none }) p 2 2 else s
  | none => s

/-- DIGEST_TIMEOUT. -/
def execDigestTimeout (p : Fin 48) (s : State) : Host.Outcome State Fault Refusal := .next (digestTimeout s p)

/-! ### Fast retrain (R358, R359) -/

/-- REPLAY_MAX. -/
def replayMax (s : State) (p : Nat) : Nat := max 1 (fld s (portBase p) R.PL_CTRL_REPLAY_MAX)
/-- RETRAIN_MAX. -/
def retrainMax (s : State) (p : Nat) : Nat := max 1 (fld s (portBase p) R.PL_CTRL_RETRAIN_MAX)

/-- A fast retrain starts, or the port goes DOWN after RETRAIN_MAX of them in a row without an acknowledged flit. -/
def fastRetrain (s : State) (p : Nat) : State :=
  let pb := portBase p
  if linkOf s p ≠ 4 then s
  else if retrainMax s p ≤ (portAt s p).retrains then goDown s p
  else
    let s1 := modPort s p fun x =>
      { x with fast := true, retrains := x.retrains + 1, lanes := [], resend := none, replay := x.replay.map fun f => { f with sent := 0 } }
    raiseBit (count (setFld s1 pb R.PL_STATE_LINK 2) pb R.PL_RETRAIN_CNT 1) pb R.PL_STATUS_RETRAIN

/-- FAST_RETRAIN: a flit was sent REPLAY_MAX + 1 times without acknowledgement. -/
def execFastRetrain (p : Fin 48) (s : State) : Host.Outcome State Fault Refusal :=
  .next (if (portAt s p).replay.any fun f => decide (replayMax s p + 1 ≤ f.sent) then fastRetrain s p else s)

/-- LANE_LOCK_LOSS: loss of lock on a used lane. -/
def execLaneLockLoss (p : Fin 48) (lane : Fin 4) (s : State) : Host.Outcome State Fault Refusal :=
  .next (if bitOn (fld s (portBase p) R.PL_LANE) (8 * lane.val + 4) then fastRetrain s p else s)

/-- PL_RETRAIN: the host writes 1 to PL_CTRL.RETRAIN. -/
def execPlRetrain (p : Fin 48) (s : State) : Host.Outcome State Fault Refusal := .next (if hostUp s then fastRetrain s p else s)

/-- TO in tc (R356): 0.5 to 64 µs. -/
def ackTo (s : State) (p : Nat) : Nat := clampN 50 6400 (fld s (portBase p) R.PL_ACK_TO_TO) * 16

/-- Rewind the transmitter to its oldest unacknowledged flit (R356). -/
def rewindTx (s : State) (p : Nat) : State :=
  if (portAt s p).replay.isEmpty then s
  else modPort (count s (portBase p) R.PL_REPLAY_CNT 1) p fun x => { x with resend := some 0 }

/-- ACK_TIMEOUT. -/
def execAckTimeout (p : Fin 48) (s : State) : Host.Outcome State Fault Refusal :=
  let x := portAt s p
  .next (match x.replay with
         | f :: _ => if decide (linkOf s p = 4) && x.resend.isNone && decide (f.at' + ackTo s p ≤ s.now) then
                       rewindTx (count s (portBase p) R.PL_ACK_TO_CNT 1) p else s
         | [] => s)

/-! ### Sending flits (R353–R357, R363, R364) -/

/-- The 256 bytes of a flit (R353). -/
def flitBytes (x : Port) (typ seq vc : Nat) (sop eop abort : Bool) (data : List Byte) : List Byte :=
  let b := fun (v : Bool) (i : Nat) => if v then 2 ^ i else 0
  let h := typ + vc * 2 ^ 4 + b sop 6 + b eop 7 + (data.length - 1) * 2 ^ 8 + seq * 2 ^ 16 + ((x.rxSeq + 4095) % 4096) * 2 ^ 28 +
    (if x.nak then 2 else 1) * 2 ^ 40 + x.crdFreed.getD 0 0 * 2 ^ 42 + x.crdFreed.getD 1 0 * 2 ^ 54 + x.crdFreed.getD 2 0 * 2 ^ 66 +
    x.crdFreed.getD 3 0 * 2 ^ 78 + b abort 90
  let m := leBytes 12 h ++ data ++ List.replicate (240 - data.length) 0
  m ++ leBytes 4 (crc32c m)

/-- Put a flit on the line; a NAK that was due has gone with it. -/
def emitFlit (s : State) (p : Nat) (f : TxFlit) : State :=
  let s1 := { s with out := s.out ++ [.flit p (flitBytes (portAt s p) f.typ f.seq f.vc f.sop f.eop f.abort f.data)] }
  let s2 := modPort s1 p fun x => { x with nak := false }
  if f.typ = 0 then s2 else count s2 (portBase p) R.PL_TX_FLIT 1

/-- Send a flit for the first time: it takes the next sequence number and enters the replay buffer. -/
def sendNew (s : State) (p : Nat) (f : TxFlit) : State :=
  let g := { f with seq := (portAt s p).nextSeq, sent := 1, at' := s.now }
  modPort (emitFlit s p g) p fun x => { x with nextSeq := (x.nextSeq + 1) % 4096, replay := x.replay ++ [g] }

/-- An idle flit. -/
def sendIdle (s : State) (p : Nat) : State := emitFlit s p { typ := 0, vc := 0, sop := false, eop := false, abort := false, data := [0] }

/-- The packet whose flits a VC sends now. -/
def vcHead (x : Port) (v : Nat) : Option TxPkt := x.txq.find? fun t => decide (t.vc = v)

/-- Has a VC a flit ready. -/
def vcReady (x : Port) (v : Nat) : Bool := match vcHead x v with
  | some t => !t.flits.isEmpty
  | none => false

/-- Take the next flit of a VC from its queue; a packet with none left leaves it. -/
def takeFlit (q : List TxPkt) (v : Nat) : List TxPkt :=
  match q with
  | [] => []
  | t :: r =>
    if t.vc = v then
      let t1 := { t with flits := t.flits.tail }
      if t1.flits.isEmpty && t1.ended then r else t1 :: r
    else t :: takeFlit r v

/-- Send the next data flit of a VC: it spends one credit. -/
def sendData (s : State) (p v : Nat) : State :=
  match vcHead (portAt s p) v with
  | none => s
  | some t =>
    match t.flits with
    | [] => s
    | f :: _ =>
      let s1 := sendNew (modPort s p fun x => { x with txq := takeFlit x.txq v, crdHave := x.crdHave.set v (x.crdHave.getD v 0 - 1), vcTurn := (v + 1) % 4 }) p f
      let s2 := showCredits s1 p
      match t.from' with
      | some (q, vc) => rxSettle s2 q vc
      | none => s2

/-- FLIT_SEND: one flit slot of a port that is in IDENTIFY or UP (R354, R356, R357, R363, R364). -/
def flitSend (s0 : State) (p : Nat) : State :=
  let pb := portBase p
  let x := portAt s0 p
  if linkOf s0 p ≠ 3 ∧ linkOf s0 p ≠ 4 then s0
  else
    let s := countAll s0 pb ((List.range 4).map fun v => (fldAt R.PL_CRD_STALL v, if vcReady x v && decide (x.crdHave.getD v 0 = 0) then 1 else 0))
    match x.resend with
    | some i =>
      match x.replay[i]? with
      | some f =>
        if replayMax s p + 1 ≤ f.sent then sendIdle s p
        else
          let g := { f with sent := f.sent + 1, at' := s.now }
          let s1 := modPort s p fun y => { y with replay := y.replay.set i g, resend := if i + 1 < y.replay.length then some (i + 1) else none }
          emitFlit (count s1 pb R.PL_REPLAY_FLIT 1) p g
      | none => sendIdle (modPort s p fun y => { y with resend := none }) p
    | none =>
      if 512 ≤ x.replay.length then sendIdle (count s pb R.PL_WIN_STALL 1) p
      else
        let ctlFree := !(x.replay.any fun f => decide (f.typ = 2))
        match x.ctl with
        | c :: r =>
          if ctlFree then sendNew (modPort s p fun y => { y with ctl := r }) p { typ := 2, vc := 0, sop := true, eop := true, abort := false, data := c.take 240 }
          else sendIdle s p
        | [] =>
          match ((List.range 4).map fun i => (x.vcTurn + i) % 4).find? fun v => vcReady x v && decide (x.crdHave.getD v 0 ≠ 0) with
          | some v => if linkOf s p = 4 then sendData s p v else sendIdle s p
          | none => sendIdle s p

/-- FLIT_SEND. -/
def execFlitSend (p : Fin 48) (s : State) : Host.Outcome State Fault Refusal := .next (flitSend s p)

/-! ### Receiving flits (R354–R356, R361–R363) -/

/-- A flit that must be answered by a NAK; one is sent until the right flit comes. -/
def wantNak (s : State) (p : Nat) : State := modPort s p fun x => if x.nakSent then x else { x with nak := true, nakSent := true }

/-- Credits that a flit returns. -/
def takeCredits (s : State) (p h : Nat) : State :=
  let c := (List.range 4).map fun v => h / 2 ^ (42 + 12 * v) % 4096
  showCredits (modPort s p fun x =>
    { x with crdHave := (List.range 4).map fun v => x.crdHave.getD v 0 + (c.getD v 0 + 4096 - x.crdRx.getD v 0) % 4096, crdRx := c }) p

/-- An acknowledgement frees flits up to ACK_SEQ; a NAK rewinds too. -/
def takeAck (s : State) (p typ seq : Nat) : State :=
  if typ ≠ 1 ∧ typ ≠ 2 then s
  else
    let x := portAt s p
    let s1 := match x.replay.findIdx? fun f => decide (f.seq = seq) with
      | some i => modPort s p fun y => { y with replay := y.replay.drop (i + 1), retrains := 0, resend := y.resend.bind fun r => if y.replay.length ≤ i + 1 then none else some (r - (i + 1)) }
      | none => s
    if typ = 2 then rewindTx s1 p else s1

/-- Drop bad packets at the head of a VC's buffer: at most `fuel` of them. -/
def dropBad : Nat → State → Nat → Nat → State
  | 0, s, _, _ => s
  | f + 1, s, p, vc =>
    match rxOf s p vc with
    | h :: _ => if h.bad && h.route.isNone then (let s1 := rxDrop s p vc; if h.ended then dropBad f s1 p vc else s1) else s
    | [] => s

/-- The checks on a packet's header at its first flit (R361, R362, R370, R397): what it counts, or nothing. -/
def headCheck (s : State) (p vc : Nat) (b : List Byte) : Option (Fld × Option Fld) :=
  let h := hdrOf b
  let peer := fld s (portBase p) R.PL_PEER_MODULE
  if 64 ≤ h.hops then some (R.PL_HOP_DROP, some R.PL_STATUS_HOP_DROP)
  else if h.cls ≠ vc ∨ 9216 < h.len ∨ kindClass h.kind = none then some (R.PL_PKT_ERR, none)
  else if admitOf s p = 2 ∧ !((decide (h.cls = 0) || decide (h.cls = 3)) &&
      (decide (h.src = myId s) || decide (h.dest = myId s) || decide (h.src = peer) || decide (h.dest = peer))) then some (R.PL_PKT_ERR, none)
  else none

/-- A flit of the packet in progress goes on to its egress ports. -/
def passOnFlit (s : State) (p vc : Nat) (es : List Nat) (f : TxFlit) : State :=
  let add := fun (t : TxPkt) => if decide (t.from' = some (p, vc)) && !t.ended then { t with flits := t.flits ++ [f], ended := f.eop } else t
  es.foldl (fun s e => modPort s e fun x => { x with txq := x.txq.map add }) s

/-- Accept a data flit in order. -/
def dataFlit (s0 : State) (p vc : Nat) (sop eop abort : Bool) (data : List Byte) : State :=
  if linkOf s0 p ≠ 4 ∨ (admitOf s0 p ≠ 1 ∧ admitOf s0 p ≠ 2) then
    freeCredits (if sop then count s0 (portBase p) R.PL_PKT_ERR 1 else s0) p vc 1
  else
    -- a packet that never ended before the next began is dropped
    let s := if sop then (match (rxOf s0 p vc).getLast? with
                          | some h => if h.ended then s0 else count (dropPartial s0 p vc) (portBase p) R.PL_PKT_ERR 1
                          | none => s0) else s0
    let l := rxOf s p vc
    let cur : Option RxPkt := if sop then some { bytes := [], n := 0, flits := 0, ended := false, abort := false, bad := false, route := none }
                              else match l.getLast? with
                                | some h => if h.ended then none else some h
                                | none => none
    match cur with
    | none => freeCredits s p vc 1
    | some h =>
      let init := if sop then l else l.dropLast
      let err : Option (Fld × Option Fld) := if sop then (if data.length < 48 then some (R.PL_PKT_ERR, none) else headCheck s p vc data) else none
      let s1 := match err with
        | some (f, some b) => raiseBit (count s (portBase p) f 1) (portBase p) b
        | some (f, none) => count s (portBase p) f 1
        | none => s
      let s2 := if abort then count s1 (portBase p) R.PL_PKT_ERR 1 else s1
      let bad := h.bad || err.isSome || abort
      let gone := bad && h.route.isNone
      let h1 := { h with bytes := h.bytes ++ data, n := h.n + 1, flits := if gone then 0 else h.flits + 1, ended := eop, abort := abort, bad := bad }
      let s3 := setRx (if gone then freeCredits s2 p vc (h.flits + 1) else s2) p vc (init ++ [h1])
      let s4 := match h.route with
        | some (es, _) => passOnFlit s3 p vc es { typ := 1, vc := vc, sop := false, eop := eop, abort := abort, data := data }
        | none => s3
      let s5 := match h.route with
        | some (es, true) => if abort then setRx s4 p vc ((rxOf s4 p vc).map fun y => if y = h1 then { y with route := some (es, false) } else y) else s4
        | _ => s4
      dropBad ((rxOf s5 p vc).length + 1) (rxSettle s5 p vc) p vc

/-- FLIT_RX: `corr` symbols the FEC corrected and `unc` codewords it could not (R354). -/
def flitRx (s0 : State) (p : Nat) (b : List Byte) (corr unc : Nat) : State :=
  let pb := portBase p
  if linkOf s0 p ≠ 3 ∧ linkOf s0 p ≠ 4 then s0
  else
    let s := countAll s0 pb [(R.PL_FEC_CORR, corr), (R.PL_FEC_UNCORR, unc)]
    let h := fieldLe b 0 12
    let typ := h % 16
    if unc ≠ 0 ∨ b.length ≠ 256 ∨ crc32c (b.take 252) ≠ fieldLe b 252 4 ∨ 2 < typ then
      let s1 := count s pb R.PL_CRC_ERR 1
      if typ = 0 then s1 else wantNak s1 p
    else
      let s1 := takeAck (takeCredits s p h) p (h / 2 ^ 40 % 4) (h / 2 ^ 28 % 4096)
      if typ = 0 then s1
      else if h / 2 ^ 16 % 4096 ≠ (portAt s1 p).rxSeq then wantNak s1 p
      else
        let s2 := modPort (count s1 pb R.PL_RX_FLIT 1) p fun x => { x with rxSeq := (x.rxSeq + 1) % 4096, nakSent := false }
        if typ = 2 then s2
        else dataFlit s2 p (h / 16 % 4) (bitOn h 6) (bitOn h 7) (bitOn h 90) ((b.drop 12).take (min 240 (h / 256 % 256 + 1)))

/-- FLIT_RX. -/
def execFlitRx (p : Fin 48) (b : List Byte) (corr unc : Nat) (s : State) : Host.Outcome State Fault Refusal := .next (flitRx s p b corr unc)

/-! ### Forwarding (R361, R366, R368, R397) -/

/-- A packet's bytes with one more hop. -/
def hopped (b : List Byte) : List Byte := b.take 12 ++ leBytes 1 (fieldLe b 12 1 + 1) ++ b.drop 13

/-- Queue what has arrived of a packet at an egress port. -/
def forwardTo (s : State) (p vc : Nat) (h : RxPkt) (e : Nat) : State :=
  let fs := flitsOf vc (hopped h.bytes)
  let fs1 := if h.ended then fs else fs.map fun f => { f with eop := false }
  modPort s e fun x => { x with txq := x.txq ++ [{ vc := vc, flits := fs1, ended := h.ended, from' := some (p, vc) }] }

/-- Route the head packet of a VC. -/
def routeHead (s : State) (p vc : Nat) (h : RxPkt) (t : List RxPkt) (es : List Nat) (loc : Bool) : State :=
  rxSettle (es.foldl (fun s e => forwardTo s p vc h e) (setRx s p vc ({ h with route := some (es, loc) } :: t))) p vc

/-- Is a packet's CLASS not that of its KIND (R397). -/
def kindBad (h : Hdr) : Bool := decide (kindClass h.kind ≠ some h.cls)

/-- The version whose tag a packet carries, by its KIND (R402). -/
def kindVer (b : List Byte) : Nat :=
  match (hdrOf b).kind with
  | 1 => fieldLe b 24 8
  | 2 => fieldLe b 24 8
  | 5 => fieldLe b 32 8 - 1
  | _ => fieldLe b 24 8 - 1

/-- A packet that ends here with the CLASS of another KIND: the checks of R361 come first. -/
def countKindBad (s : State) (p : Nat) (b : List Byte) : State :=
  if pcrcOf b ≠ fieldLe b 44 4 then portCount s p R.PL_PCRC_ERR (some R.PL_STATUS_PCRC)
  else if (kindClass (hdrOf b).kind = some 1 ∨ kindClass (hdrOf b).kind = some 2) ∧ (hdrOf b).tag ≠ tagFor s (kindVer b) then
    portCount s p R.PL_TAG_REJ (some R.PL_STATUS_TAG_REJ)
  else portCount s p R.PL_PKT_ERR none

/-- PACKET_FORWARD: the head packet of a VC of an ingress port is routed, on its tree where its KIND is a broadcast, else to DEST. -/
def packetForward (s : State) (p vc : Nat) : State :=
  match rxOf s p vc with
  | [] => s
  | x :: t =>
    let h := hdrOf x.bytes
    if x.route.isSome || x.bad then s
    else if kindClass h.kind = some 2 then
      match treeMask s h.tree with
      | some m =>
        if !bitOn m p then rxDrop (portCount s p R.PL_TREE_DROP (some R.PL_STATUS_TREE_DROP)) p vc
        else if kindBad h && !x.ended then s
        else
          let ps := (maskPorts m).filter fun e => decide (e ≠ p)
          let bad := ps.filter fun e => !egressOk s e h
          let s1 := bad.foldl (fun s e => count s (portBase e) R.PL_LOST_PKT 1) s
          let s2 := if kindBad h then countKindBad s1 p x.bytes else s1
          routeHead s2 p vc x t (ps.filter fun e => egressOk s e h) (!kindBad h)
      | none => rxDrop (portCount s p R.PL_TREE_DROP (some R.PL_STATUS_TREE_DROP)) p vc
    else if h.dest = myId s then
      (if kindBad h && x.ended then rxDrop (countKindBad s p x.bytes) p vc else s)
    else
      match unicastPort s p h with
      | some (e, alt) => routeHead (if alt then count s (portBase e) R.PL_ALT_CNT 1 else s) p vc x t [e] false
      | none => rxDrop (count s (portBase p) R.PL_DROP_ROUTE 1) p vc

/-- PACKET_FORWARD. -/
def execPacketForward (p : Fin 48) (vc : Fin 4) (s : State) : Host.Outcome State Fault Refusal := .next (packetForward s p vc)

end Sys2Proof.Machine
end

