-- ==== Sys2Proof/Machine/Tad.lean ====
section
/-! DEFINITION. The telemetry ADC (R496–R510). What is measured is the commands' operand: raw codes, and degrees for a temperature channel. -/

namespace Sys2Proof.Machine

/-! ### The sequencer (R498–R501) -/

/-- REFSEL: 3 acts as 0. -/
def tadRef (s : State) : Nat := fld s 0 R.TAD_CTRL_REFSEL % 3
/-- MODE: 3 acts as 0. -/
def tadMode (s : State) : Nat := fld s 0 R.TAD_CTRL_MODE % 3
/-- SEQ_LEN, 1 to 32. -/
def tadLen (s : State) : Nat := clampN 1 32 (fld s 0 R.TAD_CTRL_SEQ_LEN)
/-- PERIOD in µs. -/
def tadPeriod (s : State) : Nat := max 10 (fld s 0 R.TAD_PER_PERIOD)

/-- Start a sequence where nothing holds the sequencer: slots as they stand now. -/
def tadBegin (s : State) : State :=
  if !fldOn s 0 R.TAD_CTRL_ENABLE || !fldOn s 0 R.TAD_STAT_SETTLED || s.tad.seq.isSome || s.tad.calAt.isSome then s
  else
    let sl := (List.range (tadLen s)).map fun i => rdReg s (R.TAD_SLOT.off + 4 * i)
    setFld { s with tad := { s.tad with seq := some (sl, s.now), late := false } } 0 R.TAD_STAT_BUSY 1

/-- The sequencer goes on in its mode: a START that waits, or the next sequence of continuous mode. -/
def tadResume (s : State) : State :=
  if s.tad.seq.isSome || s.tad.calAt.isSome || !fldOn s 0 R.TAD_STAT_SETTLED then s
  else if s.tad.late then
    tadBegin (if tadMode s = 0 then s else { s with tad := { s.tad with run := true, late := false, tick := s.now } })
  else if s.tad.run && decide (tadMode s = 1) then tadBegin s else s

/-- A START (R501): ignored while ENABLE is 0; it waits while a sequence runs, the reference settles or a calibration step holds the sequencer. -/
def tadStart (s : State) : State :=
  if !fldOn s 0 R.TAD_CTRL_ENABLE then s else tadResume { s with tad := { s.tad with late := true } }

/-- A STOP: the sequencer ends after the sequence in progress. -/
def tadStop (s : State) : State := { s with tad := { s.tad with run := false, late := false } }

/-- REFSEL changed (R498): the sequence is abandoned, and the reference settles. -/
def tadRefChange (s : State) : State :=
  let s1 := setFld { s with tad := { s.tad with refAt := some s.now } } 0 R.TAD_STAT_SETTLED 0
  if s1.tad.seq.isNone then s1
  else raiseBit (count (setFld { s1 with tad := { s1.tad with seq := none } } 0 R.TAD_STAT_BUSY 0) 0 R.TAD_ABORT_CNT_COUNT 1) 0 R.TAD_STATUS_ABORT

/-- A write of TAD_CTRL: its fields, then a changed reference, STOP and START. -/
def tadCtrlWrite (s : State) (w : Word) : State :=
  let ref := tadRef s
  let s1 := regWrite s R.TAD_CTRL.off w
  let s2 := if tadRef s1 = ref then s1 else tadRefChange s1
  let s3 := if fldOn s2 0 R.TAD_CTRL_ENABLE && !bitOn w.toNat 7 then s2 else tadStop s2
  if bitOn w.toNat 6 then tadStart s3 else s3

/-- TAD_START: TAD_CTRL is written as it stands with START. -/
def execTadStart (s : State) : Host.Outcome State Fault Refusal := .next (if hostUp s then tadCtrlWrite s (rdReg s R.TAD_CTRL.off ||| 0x40#32) else s)

/-- TAD_STOP: TAD_CTRL is written as it stands with STOP. -/
def execTadStop (s : State) : Host.Outcome State Fault Refusal := .next (if hostUp s then tadCtrlWrite s (rdReg s R.TAD_CTRL.off ||| 0x80#32) else s)

/-- TAD_REFSEL: TAD_CTRL is written with another REFSEL. -/
def execTadRefsel (sel : Fin 4) (s : State) : Host.Outcome State Fault Refusal :=
  .next (if hostUp s then tadCtrlWrite s (BitVec.ofNat 32 (putBits (rdReg s R.TAD_CTRL.off).toNat 3 2 sel.val)) else s)

/-- µs that the selected reference takes to settle. -/
def tadWait (s : State) : Nat := match tadRef s with
  | 0 => 200
  | 1 => max 10 (fld s 0 R.TAD_REF_WAIT_WAIT)
  | _ => 20

/-- REF_SETTLED: the wait ends. `v` is the code of channel 39 against the internal reference, half of VREF_EXT, which must lie in 2.000 to 3.000 V. -/
def execRefSettled (v : BitVec 16) (s : State) : Host.Outcome State Fault Refusal :=
  .next (match s.tad.refAt with
    | none => s
    | some t =>
      if !s.hubUp || decide (s.now < t + tadWait s * tcUs) then s
      else
        let s1 := { s with tad := { s.tad with refAt := none } }
        if tadRef s = 1 ∧ (v.toInt * 5000 < 2000 * 32768 ∨ 3000 * 32768 < v.toInt * 5000) then raiseBit s1 0 R.TAD_STATUS_REF_BAD
        else tadResume (setFld s1 0 R.TAD_STAT_SETTLED 1))

/-- PERIOD_TICK: a sequence starts, or the tick is skipped where one still runs (R501). -/
def execPeriodTick (s : State) : Host.Outcome State Fault Refusal :=
  .next (if !s.hubUp || !s.tad.run || decide (tadMode s ≠ 2) || decide (s.now < s.tad.tick + tadPeriod s * tcUs) then s
    else
      let s1 := { s with tad := { s.tad with tick := s.tad.tick + tadPeriod s * tcUs } }
      if s1.tad.seq.isSome then raiseBit (count s1 0 R.TAD_PER_SKIP_COUNT 1) 0 R.TAD_STATUS_PER_SKIP else tadBegin s1)

/-! ### Results (R500, R502, R503, R505–R507) -/

/-- Channel of a slot word: values above 39 act as 36. -/
def slotChan (w : Word) : Nat := let c := w.toNat % 64; if 39 < c then 36 else c
/-- N of a slot word. -/
def slotN (w : Word) : Nat := 2 ^ min 8 (w.toNat / 2 ^ 20 % 16)
/-- BIAS of a slot word, which only external channels take. -/
def slotBias (w : Word) : Bool := bitOn w.toNat 14 && decide (slotChan w < 16)
/-- Shortest time of a slot in tc. -/
def slotTime (w : Word) : Nat := (slotN w + if slotBias w then 1 else 0) * (tcUs + w.toNat / 2 ^ 24 * 80)

/-- Is a raw code at a rail. -/
def atRail (c : BitVec 16) : Bool := decide (c.toInt = -32768) || decide (c.toInt = 32767)

/-- Mean of raw codes with RNE. -/
def meanCode (l : List (BitVec 16)) : Int := rneInt ((l.foldl (fun a c => a + c.toInt) 0 : Int) / (l.length : Rat))

/-- OFS and GAIN of a channel. -/
def tadOfs (s : State) (c : Nat) : Int := fldInt s 0 (fldAt R.TAD_OFS_OFS c)
/-- GAIN, at least 0x4000. -/
def tadGain (s : State) (c : Nat) : Nat := max 0x4000 (fld s 0 (fldAt R.TAD_GAIN_GAIN c))

/-- The corrected code of a mean, and whether the correction saturated (R506); a temperature channel's result is in degrees already (R497). -/
def corrected (s : State) (c : Nat) (a : Int) : Int × Bool :=
  if 24 ≤ c ∧ c < 34 then (a, false)
  else
    let v := rneInt (((a - tadOfs s c) * (tadGain s c : Int) : Int) / (32768 : Rat))
    (clampI (-32767) 32767 v, decide (clampI (-32767) 32767 v ≠ v))

/-- Flags of a slot's result: bit 3 SAT, 2 RANGE, 1 OPEN, 0 SHORT. -/
def slotFlags (s : State) (i : Nat) (w : Word) (m : AdcSlot) (c : Int × Bool) : Nat :=
  let d := m.bias.toInt - (m.codes.getLastD 0).toInt
  let sat := m.codes.any atRail || c.2
  let range := bitOn w.toNat 15 && (decide (c.1 < fldInt s 0 (fldAt R.TAD_LIM_LO i)) || decide (fldInt s 0 (fldAt R.TAD_LIM_HI i) < c.1))
  let op := slotBias w && decide ((max 1 (fld s 0 R.TAD_BIAS_TH_OPEN_TH) : Int) ≤ d)
  let sh := slotBias w && decide (d.natAbs ≤ fld s 0 R.TAD_BIAS_TH_SHORT_TH)
  (if sat then 8 else 0) + (if range then 4 else 0) + (if op then 2 else 0) + (if sh then 1 else 0)

/-- A result word (R502). -/
def resWord (slot chan flags : Nat) (odd : Bool) (code : Int) : Word :=
  BitVec.ofNat 32 (slot * 2 ^ 27 + chan * 2 ^ 21 + flags * 2 ^ 17 + (if odd then 2 ^ 16 else 0) + tc 16 code)

/-- The status bit of a flag. -/
def flagBit : Nat → Fld
  | 3 => R.TAD_STATUS_SAT
  | 2 => R.TAD_STATUS_RANGE
  | 1 => R.TAD_STATUS_OPEN
  | _ => R.TAD_STATUS_SHORT

/-- Count a slot's flags; a flag that was clear in the previous sequence is reported (R503). -/
def tadFlags (s : State) (now before : Nat) : State :=
  [3, 2, 1, 0].foldl (fun s b =>
    if !bitOn now b then s
    else
      let s1 := count s 0 R.TAD_FAULT_CNT_COUNT 1
      if bitOn before b then s1 else raiseBit s1 0 (flagBit b)) s

/-- The ADC holds the sequencer for a ZERO or FULL step once no sequence runs (R508). -/
def tadHold (s : State) : State :=
  match s.tad.cal with
  | some c => if (c.1 = 1 ∨ c.1 = 2) ∧ s.tad.seq.isNone ∧ s.tad.calAt.isNone then
      setFld { s with tad := { s.tad with calAt := some s.now } } 0 R.TAD_STAT_CAL 1 else s
  | none => s

/-- The end of a sequence with the codes of its slots. -/
def tadEnd (s : State) (sl : List Word) (m : List AdcSlot) : State :=
  let odd := !s.tad.odd
  let rs := sl.zipIdx.map fun p =>
    let c := slotChan p.1
    let x := m.getD p.2 { codes := [], bias := 0 }
    let v := corrected s c (meanCode x.codes)
    let f := slotFlags s p.2 p.1 x v
    (f, resWord p.2 c f odd v.1)
  let prev := s.tad.flags
  let s1 := rs.zipIdx.foldl (fun s p => tadFlags (wrReg s (R.TAD_RES.off + 4 * p.2) p.1.2) p.1.1 (sget (fun _ => 0) prev p.2)) s
  let s2 := if s1.tad.portRd < s1.tad.port.length then raiseBit (count s1 0 R.TAD_PORT_LOST_COUNT 1) 0 R.TAD_STATUS_PORT_LOST else s1
  let s3 := { s2 with tad := { s2.tad with seq := none, odd := odd, port := rs.map (·.2), portRd := 0,
                                           flags := (rs.zipIdx.map fun p => (p.2, p.1.1)).filter fun p => decide (p.2 ≠ 0) } }
  tadResume (tadHold (bdgPulse (count (setFld s3 0 R.TAD_STAT_BUSY 0) 0 R.TAD_SEQ_CNT_COUNT 1)))

/-- SEQUENCE_END: the raw codes of every slot's N conversions, and the biased one. -/
def execSequenceEnd (m : List AdcSlot) (s : State) : Host.Outcome State Fault Refusal :=
  .next (match s.tad.seq with
    | none => s
    | some q =>
      if s.now < q.2 + (q.1.map slotTime).foldl (· + ·) 0 ∨ m.map (fun x => x.codes.length) ≠ q.1.map slotN then s else tadEnd s q.1 m)

/-! ### Housekeeping (R504) -/

/-- Channel of housekeeping result k. -/
def hkChan (k : Nat) : Nat := if k < 10 then 24 + k else if k < 15 then 9 + k else k + 2

/-- Refresh band of a temperature in 1/16 °C (R92). -/
def tempBand (t : Int) : Nat := ([45, 55, 65, 75, 85, 95, 105].filter fun (x : Int) => decide (x * 16 < t)).length

/-- The power controller passes a die's temperature to its tiles (R92, R152). -/
def passTemp (s : State) (d : Nat) : State :=
  let t := dieTemp s d
  (List.range 17).foldl (fun s i =>
    let n := 17 * d + i
    calTempCheck ((List.range 16).foldl (fun s a => setFld (setFld s (arrBase n a) R.ARR_TEMP_TEMP (tc 16 t)) (arrBase n a) R.ARR_TEMP_BAND (tempBand t)) s) n (sext 16 (fld s (arrBase n 0) R.ARR_TEMP_TEMP))) s

/-- Thermal throttling (R524): from PWR_THERM.THR, until every sensor is below THR − 5 °C. -/
def thermJudge (s : State) : State :=
  let thr : Int := clampN 80 110 (fld s 0 R.PWR_THERM_THR)
  let hot := (List.range 10).any fun k => decide (thr * 16 ≤ hkCode s k)
  let cool := (List.range 10).all fun k => decide (hkCode s k < (thr - 5) * 16)
  if hot && !s.pwr.therm then showThr (raiseBit { s with pwr := { s.pwr with therm := true } } 0 R.PWR_STATUS_THERMAL)
  else if cool && s.pwr.therm then showThr { s with pwr := { s.pwr with therm := false } } else s

/-- HOUSEKEEPING: 17 conversions each ms, in the order of R504. -/
def execHousekeeping (codes : List (BitVec 16)) (s : State) : Host.Outcome State Fault Refusal :=
  .next (if !s.hubUp || decide (s.now < s.tad.hkAt + tcMs) || decide (codes.length ≠ 17) then s
    else
      let s1 := codes.zipIdx.foldl (fun s p =>
        let v := corrected s (hkChan p.2) p.1.toInt
        wrReg s (R.TAD_HK.off + 4 * p.2) (resWord p.2 (hkChan p.2) (if atRail p.1 || v.2 then 8 else 0) false v.1)) { s with tad := { s.tad with hkAt := s.now } }
      thermJudge ((List.range 4).foldl passTemp s1))

/-! ### Calibration (R508–R510) -/

/-- End a step with its reason, 0 where it succeeded; the user sequencer goes on. -/
def tadCalEnd (s : State) (err : Nat) : State :=
  let s1 := setFld (setFld { s with tad := { s.tad with cal := none, calAt := none } } 0 R.TAD_STAT_CAL 0) 0 R.TAD_CAL_STAT_BUSY 0
  tadResume (if err = 0 then s1 else raiseBit (setFld s1 0 R.TAD_CAL_STAT_ERR err) 0 R.TAD_STATUS_CAL_ERR)

/-- Smiteale's part: STORE writes OFS and GAIN of the external channels to flash, LOAD reloads them. -/
def tadFlash (s : State) : State :=
  match s.tad.cal with
  | some (3, _, _) =>
    if !fwReady s then s
    else
      let f := (List.range 16).map fun c => (c, fld s 0 (fldAt R.TAD_OFS_OFS c), fld s 0 (fldAt R.TAD_GAIN_GAIN c))
      setFld (tadCalEnd { s with tad := { s.tad with flash := f } } 0) 0 R.TAD_CAL_STAT_STORED 1
  | some (4, _, _) =>
    if !fwReady s then s
    else tadCalEnd ((List.range 16).foldl (fun s c =>
      let v := match s.tad.flash.find? fun x => decide (x.1 = c) with
        | some x => x.2
        | none => (0, 0x8000)
      setFld (setFld s 0 (fldAt R.TAD_OFS_OFS c) v.1) 0 (fldAt R.TAD_GAIN_GAIN c) v.2) s) 0
  | _ => s

/-- A write of TAD_CAL_CMD: ignored and counted while a step runs. -/
def tadCalWrite (s : State) (w : Word) : State :=
  let step := w.toNat % 8
  if fldOn s 0 R.TAD_CAL_STAT_BUSY then count s 0 R.TAD_CAL_IGN_COUNT 1
  else
    let s1 := regWrite s R.TAD_CAL_CMD.off w
    if step = 0 ∨ 4 < step then s1
    else
      let s2 := setFld (setFld (setFld s1 0 R.TAD_CAL_STAT_BUSY 1) 0 R.TAD_CAL_STAT_STORED 0) 0 R.TAD_CAL_STAT_ERR 0
      tadFlash (tadHold { s2 with tad := { s2.tad with cal := some (step, w.toNat / 16 % 16, w.toNat / 256 % 256) } })

/-- The word a calibration command writes. -/
def calCmdWord (step chan acq : Nat) : Word := BitVec.ofNat 32 (acq * 256 + chan * 16 + step)

/-- TAD_CAL_ZERO. -/
def execTadCalZero (chan : Fin 16) (acq : BitVec 8) (s : State) : Host.Outcome State Fault Refusal :=
  .next (if hostUp s then tadCalWrite s (calCmdWord 1 chan.val acq.toNat) else s)

/-- TAD_CAL_FULL. -/
def execTadCalFull (chan : Fin 16) (acq : BitVec 8) (s : State) : Host.Outcome State Fault Refusal :=
  .next (if hostUp s then tadCalWrite s (calCmdWord 2 chan.val acq.toNat) else s)

/-- TAD_CAL_STORE. -/
def execTadCalStore (s : State) : Host.Outcome State Fault Refusal := .next (if hostUp s then tadCalWrite s (calCmdWord 3 0 0) else s)

/-- TAD_CAL_LOAD. -/
def execTadCalLoad (s : State) : Host.Outcome State Fault Refusal := .next (if hostUp s then tadCalWrite s (calCmdWord 4 0 0) else s)

/-- The end of a ZERO or FULL step of a channel with its 256 raw codes. -/
def tadCalDone (s : State) (step c : Nat) (l : List (BitVec 16)) : State :=
  let m := meanCode l
  let rail := l.any atRail
  if step = 1 then (if rail then tadCalEnd s 4 else tadCalEnd (setFld s 0 (fldAt R.TAD_OFS_OFS c) (tc 16 m)) 0)
  else
    let d := m - tadOfs s c
    let g := rneInt ((32768 * fldInt s 0 R.TAD_CAL_FS_CODE : Int) / (d : Rat))
    if d < 1024 then tadCalEnd s 2
    else if g < 16384 ∨ 65535 < g then tadCalEnd s 3
    else if rail then tadCalEnd s 4
    else tadCalEnd (setFld s 0 (fldAt R.TAD_GAIN_GAIN c) g.toNat) 0

/-- TAD_CAL_STEP_DONE: the 256 conversions of a ZERO or FULL step have ended. -/
def execTadCalStepDone (l : List (BitVec 16)) (s : State) : Host.Outcome State Fault Refusal :=
  .next (match s.tad.cal, s.tad.calAt with
    | some (step, c, acq), some t => if s.now < t + 256 * (tcUs + acq * 80) ∨ l.length ≠ 256 then s else tadCalDone s step c l
    | _, _ => s)

/-- A write of a TAD_ register by the host or the hub processor. -/
def tadWrite (s : State) (o : Nat) (w : Word) : State :=
  let k := 0x60000 + o
  if o = 0 then tadCtrlWrite s w
  else if o = 0x18 then tadCalWrite s w
  else if 0x400 ≤ o ∧ o < 0x600 ∧ fldOn s 0 R.TAD_CAL_STAT_BUSY = true then count s 0 R.TAD_CAL_IGN_COUNT 1
  else regWrite s k w

end Sys2Proof.Machine
end

