-- ==== Sys2Proof/Machine/Bars.lean ====
section
/-! DEFINITION. BAR0: which register an offset reaches (chapter 00, R3), what a read returns (R5–R9), and what a write does, with the actions that
registers have of their own. -/

namespace Sys2Proof.Machine

/-! ### Where an offset leads -/

/-- CAL_ registers that stand once per array, by tile window offset (chapter 05, CAL_ARR_SEL). -/
def perArr (o : Nat) : Bool := (decide (0x24040 ≤ o) && decide (o < 0x24100)) || (decide (0x25000 ≤ o) && decide (o < 0x28000))

/-- Key of a register word of physical tile n. -/
def tileKey (s : State) (n o : Nat) : Nat := if perArr o then calBase n (fld s (tileBase n) R.CAL_ARR_SEL_ARRAY) + o else tileBase n + o

/-- What a BAR0 offset reaches. -/
inductive BarTarget
  /-- register offset `o` of physical tile n -/
  | tile (n o : Nat)
  | mc (m o : Nat)
  | port (p o : Nat)
  /-- a hub register -/
  | hub (o : Nat)
  /-- word `i` of the MSI-X table, or of its pending-bit array -/
  | msix (i : Nat)
  | pba (i : Nat)
  /-- byte `o` of the mailbox pages -/
  | page (o : Nat)
  /-- word `i` of Badger's buffer memory -/
  | bdg (i : Nat)
  | none
  deriving DecidableEq, Repr

/-- What a BAR0 offset reaches (chapters 00, 15 and 17). -/
def barTarget (s : State) (off : Nat) : BarTarget :=
  if off < 0xF0000 then .hub off
  else if off < 0xF0400 then .msix ((off - 0xF0000) / 4)
  else if 0xF8000 ≤ off ∧ off < 0xF8008 then .pba ((off - 0xF8000) / 4)
  else if 0x100000 ≤ off ∧ off < 0x180000 then .page (off - 0x100000)
  else if 0x800000 ≤ off ∧ off < 0x900000 then .bdg ((off - 0x800000) / 4)
  else if off < 0x1000000 then .none
  else if off < 0x2000000 then .tile (phys s ((off - 0x1000000) / 0x40000)) (off % 0x40000)
  else if off < 0x2180000 then .mc ((off - 0x2000000) / 0x10000) (off % 0x10000)
  else if 0x3000000 ≤ off ∧ off < 0x3030000 then .port ((off - 0x3000000) / 0x1000) (off % 0x1000)
  else .none

/-! ### Values that hardware holds elsewhere than in the register words -/

/-- Half of a 64-bit value. -/
def halfOf (v : Nat) (high : Bool) : Word := BitVec.ofNat 32 (if high then v / 2 ^ 32 else v)

/-- Age of a plane in µs (R91); 0 while it has no age. -/
def ageUs (s : State) (n a : Nat) (b : Bool) : Nat :=
  if ages (planeState s n a b) then min ((s.now - (planeOf (arrAt (tileAt s n) a) b).aged) / tcUs) 0xFFFFFFFF else 0

/-- PEND of CAL_REMAPk: some plane with content was not written under the entry (R159). -/
def remapPend (s : State) (n a k : Nat) : Bool :=
  let now' := (remapOf s n a).filter fun e => decide (e.1 = k)
  [false, true].any fun b =>
    let p := planeOf (arrAt (tileAt s n) a) b
    ages (planeState s n a b) && decide ((p.remap.filter fun e => decide (e.1 = k)) ≠ now')

/-- Does the VU run a dispatch or a kernel load. -/
def vuBusy (t : Tile) : Bool := t.vu.run || t.jobs.any fun j => match j.kind with | .kload _ => true | _ => false

/-- Is a DMEOP in progress. -/
def dmeBusy (t : Tile) : Bool := t.issued.any fun i => !i.fin && match i.cmd with | .dmeop _ => true | _ => false

/-- The word a tile's register shows where it is not the stored one; GROUPS during an operation is a free value (R181). -/
def tileLive (s : State) (n o : Nat) : Option Word :=
  let t := tileAt s n
  if o = R.TILE_ID.off then some (BitVec.ofNat 32 ((logicalOf s n).getD 0 * 256 + n / 17 * 64 + n % 17))
  else if o = R.TILE_LAUNCH.off ∨ o = R.TILE_LAUNCH.off + 4 then some (halfOf (launchCount s) (decide (o ≠ R.TILE_LAUNCH.off)))
  else if 0x10000 ≤ o ∧ o < 0x20000 ∧ (o % 0x1000 = 0x10 ∨ o % 0x1000 = 0x14) then
    some (BitVec.ofNat 32 (ageUs s n ((o - 0x10000) / 0x1000) (decide (o % 0x1000 = 0x14))))
  else if 0x24080 ≤ o ∧ o < 0x240A0 then
    let a := fld s (tileBase n) R.CAL_ARR_SEL_ARRAY
    some (rdReg s (tileKey s n o) ||| (if remapPend s n a ((o - 0x24080) / 4) then 0x40000000#32 else 0))
  else if o = R.DME_STATE.off then
    let w := rdReg s (tileBase n + o)
    some (if dmeBusy t then w ||| 0x80#32 ||| BitVec.ofNat 32 ((Config.freeWord s.freeCtr).toNat % 33) else w)
  else if o = R.VU_STATE.off then
    some (BitVec.ofNat 32 ((if vuBusy t then 2 ^ 31 else 0) + t.vu.loops.length % 8 * 2 ^ 28 + t.vu.pc % 2 ^ 13))
  else if o = R.VU_RNG_SEED.off then some (sget (fun k => rdReg s k) s.seedLow (tileBase n + o))
  else none

/-- The word an MC's register shows where it is not the stored one. -/
def mcLive (s : State) (m o : Nat) : Option Word :=
  if o = R.MC_EPOCH.off then some (BitVec.ofNat 32 (sget (fun _ => 0) (mcAt s m).epochs (fld s (mcBase m) R.MC_EPOCH_SEL_Q) % 65536))
  else if 0x8080 ≤ o ∧ o < 0x80C0 then
    some (sget (fun _ => (0 : Word)) (mcAt s m).grp (16 * fld s (mcBase m) R.MRT_GRP_SEL_GROUP + (o - 0x8080) / 4))
  else if o = R.MRT_SEED.off then some (sget (fun k => rdReg s k) s.seedLow (mcBase m + o))
  else none

/-- PL_RT_DATA and PL_RT_DATA_HI of a port (R366, R368). -/
def routeWord (s : State) (p : Nat) (high : Bool) : Word :=
  let i := fld s (portBase p) R.PL_RT_SEL_INDEX
  match fld s (portBase p) R.PL_RT_SEL_TABLE with
  | 0 => if high then 0 else BitVec.ofNat 32 (routeEntry s p i)
  | 1 => if high then 0 else BitVec.ofNat 32 (routeEntry s 48 i)
  | 2 =>
    match (myRoutes s).bind fun r => r.trees[i]? with
    | some (m, v) => if high then BitVec.ofNat 32 ((if v then 2 ^ 31 else 0) + m / 2 ^ 32 % 65536) else BitVec.ofNat 32 m
    | none => 0
  | _ => 0

/-- Owned buckets in ascending order (chapter 13). -/
def ownedAt (s : State) (i : Nat) : Option OBkt :=
  let bs := s.obkts.map (·.bucket)
  s.obkts.find? fun o => decide ((bs.filter (· < o.bucket)).length = i)

/-- The checksum window that OWL_CS_SEL selects. -/
def csShown (s : State) : CsWindow := (arrAt (tileAt s (phys s (fld s 0 R.OWL_CS_SEL_TILE))) (fld s 0 R.OWL_CS_SEL_ARRAY)).cs

/-- Slot of the running ADC sequence at a time since its start. -/
def slotAtTime : List Word → Nat → Nat
  | [], _ => 0
  | w :: t, e => if e < slotTime w then 0 else if t = [] then 0 else 1 + slotAtTime t (e - slotTime w)

/-- The word a hub register shows where it is not the stored one. -/
def hubLive (s : State) (o : Nat) : Option Word :=
  let ob := ownedAt s (fld s 0 R.XCH_OBKT_SEL_INDEX)
  if o = R.HIF_FW.off then some (BitVec.ofNat 32 (fld s 0 R.HIF_FW_STATE * 2 ^ 28 + beatNow s))
  else if o = R.XCH_TAG_NEXT.off then some (match s.staged with | some c => BitVec.ofNat 32 (leNat (c.1.digest.take 4)) | none => 0)
  else if o = R.XCH_ACT_STEP.off ∨ o = R.XCH_ACT_STEP.off + 4 then
    some (match s.staged with | some c => halfOf c.2 (decide (o ≠ R.XCH_ACT_STEP.off)) | none => 0)
  else if o = R.XCH_TIMER.off ∨ o = R.XCH_TIMER.off + 4 then some (halfOf (xchTimer s) (decide (o ≠ R.XCH_TIMER.off)))
  else if o = R.XCH_OBKT_STATE.off then
    some (match ob with
      | some b => BitVec.ofNat 32 (b.lastKind * 2 ^ 27 + (if b.extended then 2 ^ 26 else 0) + (if b.timing then 2 ^ 25 else 0) + arrivedOf b % 2 ^ 19)
      | none => 0)
  else if o = R.XCH_OBKT_SAMP.off then some (match ob with | some b => BitVec.ofNat 32 (min b.samp 0xFFFFFFFF) | none => 0)
  else if o = R.XCH_OBKT_T0.off then some (match ob with | some b => BitVec.ofNat 32 b.t0 | none => 0)
  else if o = R.XCH_OBKT_VER.off ∨ o = R.XCH_OBKT_VER.off + 4 then
    some (match ob with | some b => halfOf b.ver (decide (o ≠ R.XCH_OBKT_VER.off)) | none => 0)
  else if o = R.OWL_CS_STATE.off then some (BitVec.ofNat 32 ((csShown s).commits * 2 ^ 28 + (csShown s).n % 2 ^ 24))
  else if o = R.OWL_CS_MS.off then
    some (let w := csShown s; if w.n = 0 then 0 else BitVec.ofNat 32 (min (w.sumZ2 / (256 * w.n)) 0xFFFF))
  else if o = R.OWL_CS_VLO.off ∨ o = R.OWL_CS_VLO.off + 4 then some (halfOf (csShown s).vlo (decide (o ≠ R.OWL_CS_VLO.off)))
  else if o = R.OWL_CS_VHI.off ∨ o = R.OWL_CS_VHI.off + 4 then some (halfOf (csShown s).vhi (decide (o ≠ R.OWL_CS_VHI.off)))
  else if o = R.OWL_FIFO.off then some (BitVec.ofNat 32 s.owlFifo.length)
  else if o = R.TAD_STAT.off then
    some (match s.tad.seq with
      | some q => BitVec.ofNat 32 (putBits (rdReg s o).toNat 9 5 (slotAtTime q.1 (s.now - q.2)))
      | none => rdReg s o)
  else none

/-- Bits of the pending-bit array. -/
def pbaWord (s : State) (i : Nat) : Word := BitVec.ofNat 32 ((List.range 32).map fun b => if s.msixPend.contains (32 * i + b) then 2 ^ b else 0).sum

/-! ### Reads -/

/-- Does a BAR0 offset show a counter that the model brings up to date at access (R527, R528). -/
def thrCounter (s : State) (off : Nat) : Bool :=
  match barTarget s off with
  | .tile _ o => decide (o = R.TILE_THR_TC.off)
  | .hub o => decide (o / 0x100 = 0x501)
  | _ => false

/-- The live word at a BAR0 offset: 0 for an unassigned one (R7), 0 for write-only fields (R5). -/
def liveWord (s : State) (off : Nat) : Word :=
  match barTarget s off with
  | .tile n o => (tileLive s n o).getD (rdReg s (tileKey s n o))
  | .mc m o => (mcLive s m o).getD (rdReg s (mcBase m + o))
  | .port p o => if o = R.PL_RT_DATA.off then routeWord s p false else if o = R.PL_RT_DATA_HI.off then routeWord s p true else rdReg s (portBase p + o)
  | .hub o => (hubLive s o).getD (rdReg s o)
  | .msix i => sget msixReset s.msix i
  | .pba i => pbaWord s i
  | .page o => BitVec.ofNat 32 (leNat (mbxRead s o 4))
  | .bdg i => sget bdgDefault s.bdgMem i
  | .none => 0

/-- Key of the register word that a BAR0 offset reaches; none outside register blocks. -/
def barKey (s : State) (off : Nat) : Option Nat :=
  match barTarget s off with
  | .tile n o => some (tileKey s n o)
  | .mc m o => some (mcBase m + o)
  | .port p o => some (portBase p + o)
  | .hub o => some o
  | _ => none

/-- Which half of a 64-bit register an offset reaches: 1 low, 2 high, 0 neither; with the key of its low word. -/
def barHalf (s : State) (off : Nat) : Nat × Nat :=
  match barKey s off with
  | none => (0, 0)
  | some k => match regOfKey k with
    | some d => (d.half, lowKey k d)
    | none => (0, 0)

/-- A 32-bit read by a requester, the host or the hub processor, with the latches of R9. -/
def barRead (s0 : State) (hub : Bool) (off : Nat) : Word × State :=
  let s := if thrCounter s0 off then settleThr s0 else s0
  let h := barHalf s off
  let key := 2 * h.2 + (if hub then 1 else 0)
  let w := liveWord s off
  let s1 := { s with freeCtr := s.freeCtr + 1 }
  if h.1 = 1 then (w, { s1 with latches := sput key (liveWord s (off + 4)) true s1.latches })
  else if h.1 = 2 then
    match s.latches.find? fun p => decide (p.1 = key) with
    | some p => (p.2, { s1 with latches := s1.latches.filter fun q => decide (q.1 ≠ key) })
    | none => (w, s1)
  else (w, s1)

/-- Bytes of a read of `len` bytes: a word, or all ones for any other width or alignment, which has no effect (R8). -/
def barReadBytes (s : State) (hub : Bool) (off len : Nat) : State :=
  if len = 4 ∧ off % 4 = 0 then let r := barRead s hub off; { r.2 with hostResp := leBytes 4 r.1.toNat }
  else { s with hostResp := List.replicate len 0xFF }

/-- May a requester reach BAR0 now. -/
def mayReach (s : State) (hub : Bool) : Bool := if hub then s.hubUp else hostUp s

/-- REG64_LOW_READ: a read of the low word of a 64-bit register, or of any BAR0 word that is no half of one. -/
def execReg64LowRead (hub : Bool) (off len : Nat) (s : State) : Host.Outcome State Fault Refusal :=
  .next (if mayReach s hub && decide ((barHalf s off).1 ≠ 2) then barReadBytes s hub off len else s)

/-- REG64_HIGH_READ: a read of the high word of a 64-bit register. -/
def execReg64HighRead (hub : Bool) (off len : Nat) (s : State) : Host.Outcome State Fault Refusal :=
  .next (if mayReach s hub && decide ((barHalf s off).1 = 2) then barReadBytes s hub off len else s)

/-! ### Writes -/

/-- A write of a word of a seed register at key k of its low word: the high word sets the seed (R226, R346). -/
def seedWrite (s : State) (k : Nat) (high : Bool) (v : Word) (set : State → Nat → State) : State :=
  if high then
    let lo := sget (fun k => rdReg s k) s.seedLow k
    dropLatch (set { s with seedLow := s.seedLow.filter fun p => decide (p.1 ≠ k) } (lo.toNat + v.toNat * 2 ^ 32)) k
  else dropLatch { s with seedLow := sput k v true s.seedLow } k

/-- A write of TILE_SEQ_CTRL: CMD_LIM, RUN, then SKIP or RESUME. -/
def seqCtrlWrite (s : State) (n : Nat) (w : Nat) : State :=
  let s1 := seqRun (setFld s (tileBase n) R.TILE_SEQ_CTRL_CMD_LIM (w / 65536)) n (bitOn w 0)
  if bitOn w 2 then seqContinue s1 n true else if bitOn w 1 then seqContinue s1 n false else s1

/-- A write of a per-array CAL_ register (R157, R159): staged trims are ignored during a sweep. -/
def calArrWrite (s : State) (n a o : Nat) (v : Word) : State :=
  let stg := decide (o = R.CAL_REF_STG.off) || decide (o = R.CAL_CS_STG.off) || (decide (0x240C0 ≤ o) && decide (o < 0x240E0)) || decide (o / 0x1000 = 0x25)
  if 0x24080 ≤ o ∧ o < 0x240A0 then
    let s1 := setRemap s n a ((o - 0x24080) / 4) (bitOn v.toNat 31) (v.toNat % 512)
    if bitOn v.toNat 29 then remapRfsh s1 n a else s1
  else if stg then
    if fldOn s (tileBase n) R.CAL_STATUS_BUSY then raiseBit (count s (tileBase n) R.CAL_WR_IGN_COUNT 1) (tileBase n) R.CAL_STATUS_WR_IGN
    else setFld (regWrite s (calBase n a + o) v) (tileBase n) R.CAL_STATUS_STAGED 1
  else regWrite s (calBase n a + o) v

/-- A write of CAL_CMD: ABORT, then COMMIT, then START. -/
def calCmdWrite (s : State) (n w : Nat) : State :=
  let s1 := if bitOn w 2 then calAbort s n else s
  let s2 := if bitOn w 1 then calCommit s1 n else s1
  if bitOn w 0 then calTrigger s2 n else s2

/-- A write of a tile register. -/
def tileWrite (s : State) (n o : Nat) (v : Word) : State :=
  let k := tileBase n + o
  let w := v.toNat
  if 0x10000 ≤ o ∧ o < 0x20000 ∧ o % 0x1000 = 0 then applyWide (regWrite s k v) n ((o - 0x10000) / 0x1000)
  else if o = R.ACC_HOLD_CLR.off then (if bitOn w 0 then modTile s n fun x => { x with hold := [] } else s)
  else if o = R.CAL_CMD.off then calCmdWrite s n w
  else if perArr o then calArrWrite s n (fld s (tileBase n) R.CAL_ARR_SEL_ARRAY) o v
  else if 0x28000 ≤ o ∧ o < 0x280C0 then
    let b := (o - 0x28000) / 4
    let s1 := setOwner s n b 0 (w % 16)
    if b < 4 then setOwner s1 n b 1 (w / 256 % 16) else s1
  else if o / 8 * 8 = R.VU_RNG_SEED.off then seedWrite s (tileBase n + R.VU_RNG_SEED.off) (decide (o % 8 = 4)) v fun s x => writeSeed s n x
  else if o = R.TILE_SEQ_CTRL.off then seqCtrlWrite s n w
  else if (0x20 ≤ o ∧ o < 0x30) ∨ o = 0x48 ∨ o = 0x4C then
    (if seqState s n = sqStopped ∨ seqState s n = sqHalted then regWrite s k v else s)
  else if o = R.TILE_THR_TC.off then regWrite (settleThr s) k v
  else if 0x60 ≤ o ∧ o < 0xA0 then
    let s1 := regWrite s k v
    if waitHolds s1 n then endWait s1 n else s1
  else regWrite s k v

/-- A write of an MC register. -/
def mcRegWrite (s : State) (m o : Nat) (v : Word) : State :=
  if 0x8080 ≤ o ∧ o < 0x80C0 then grpWrite s m (fld s (mcBase m) R.MRT_GRP_SEL_GROUP) ((o - 0x8080) / 4) v
  else if o / 8 * 8 = R.MRT_SEED.off then seedWrite s (mcBase m + R.MRT_SEED.off) (decide (o % 8 = 4)) v fun s x => mrtSeed s m x
  else regWrite s (mcBase m + o) v

/-- A write of a port register: ENABLE 0 takes the port DOWN, RETRAIN starts a fast retrain. -/
def portWrite (s : State) (p o : Nat) (v : Word) : State :=
  let s1 := regWrite s (portBase p + o) v
  if o ≠ R.PL_CTRL.off then s1
  else if !bitOn v.toNat 0 then (if linkOf s1 p < 2 then s1 else goDown s1 p)
  else if bitOn v.toNat 1 then fastRetrain s1 p else s1

/-- After a write of OWL_CTRL: records wait only for consumers that are enabled (R436). -/
def owlPrune (s : State) : State :=
  let f := s.owlFifo.map fun r => { r with net := r.net && fldOn s 0 R.OWL_CTRL_NET_EN, bdg := r.bdg && fldOn s 0 R.OWL_CTRL_BDG_EN }
  { s with owlFifo := f.filter fun r => r.net || r.bdg }

/-- What a module reset by register write finds around it: the link and reference clock as they were. -/
def sameEnv (s : State) : StartEnv :=
  { width := s.pwr.width, flit := s.pwr.flit, speed := s.pwr.speed, refclk := s.pwr.refclk, ppm := s.pwr.ppm, badStacks := [] }

/-- A write of an EVQ_ register: BASE is ignored while EN is 1 (R461). -/
def evqWriteReg (s : State) (o : Nat) (v : Word) : State :=
  let q := (o - 0x20000) / 0x40
  match (o - 0x20000) % 0x40 with
  | 0 => if evqOn s q then s else regWrite s o v
  | 4 => if evqOn s q then s else regWrite s o v
  | 8 => evqCfgWrite s q v
  | 0x10 => evqHeadWrite s q (v.toNat % 2 ^ 20)
  | _ => regWrite s o v

/-- A write of a hub register by the host or the hub processor. -/
def hubWrite (s : State) (hub : Bool) (o : Nat) (v : Word) : State :=
  if 0x100 ≤ o ∧ o < 0x300 then
    let e := (o - 0x100) / 0x40
    if o % 0x40 = 0x14 then cpyCtrlWrite s hub e v 0 [] else if !hub && decide (6 ≤ e) then s else regWrite s o v
  else if o = R.MBX_RING.off then mbxRing s (v.toNat % 64)
  else if o = R.MBX_ACK.off then mbxAck s (v.toNat % 64)
  else if 0x20000 ≤ o ∧ o < 0x20400 then evqWriteReg s o v
  else if o = R.PWR_CTRL.off then pwrCtrlWrite s v
  else if o = R.PWR_IN.off then showPins (regWrite s o v) (decide (2 ≤ fld s 0 R.HIF_FW_STATE))
  else if o = R.PWR_RST.off then pwrRstWrite s v.toNat (sameEnv s)
  else if o / 0x100 = 0x501 then regWrite (settleThr s) o v
  else if o / 0x10000 = 6 then tadWrite s (o - 0x60000) v
  else if 0x70100 ≤ o ∧ o < 0x70200 then bdgWrite s hub ((o - 0x70100) / 0x20) (o % 0x20) v
  else if o = R.OWL_CTRL.off then owlPrune (regWrite s o v)
  else if 0x90400 ≤ o ∧ o < 0x90400 + 4 * 68 then levelWrite s ((o - 0x90400) / 4) (v.toNat % 8)
  else if o = R.SEC_CTRL.off then (if hub && bitOn v.toNat 0 then { s with sec := { s.sec with armAt := some s.now } } else s)
  else regWrite s o v

/-- A 32-bit write by a requester at a BAR0 offset; response pages of the mailboxes discard what the host writes (R448). -/
def barWrite (s : State) (hub : Bool) (off : Nat) (v : Word) : State :=
  match barTarget s off with
  | .tile n o => tileWrite s n o v
  | .mc m o => mcRegWrite s m o v
  | .port p o => portWrite s p o v
  | .hub o => hubWrite s hub o v
  | .msix i => msixWrite s i v
  | .pba _ => s
  | .page o => if o / 0x1000 % 2 = 0 then mbxWrite s o (leBytes 4 v.toNat) else s
  | .bdg i => { s with bdgMem := sset bdgDefault s.bdgMem i v }
  | .none => s

/-- REGISTER_WRITE: a write of `len` bytes by the host or the hub processor; any but an aligned 32-bit one has no effect (R8). -/
def execRegisterWrite (hub : Bool) (off len : Nat) (v : Word) (s : State) : Host.Outcome State Fault Refusal :=
  .next (if mayReach s hub && decide (len = 4) && decide (off % 4 = 0) then barWrite s hub off v else s)

end Sys2Proof.Machine
end

