-- ==== Sys2Proof/Machine/Complete.lean ====
section
/-! DEFINITION. Completion of commands (R166, R265): the oldest command of a unit does its work where it has not, and leaves the queue once all its work
has ended. -/

namespace Sys2Proof.Machine

/-- Do the work of an issued command that no other event does. `res`: residue attempts of a DMEOP by group; `bad`: words read poisoned. -/
def runIssued (s : State) (n : Nat) (i : Issued) (res : List (Nat × Nat)) (bad : List Nat) : State :=
  match i.cmd with
  | .flush o => runFlush s n i o
  | .dmeop o => runDme s n i o res bad
  | .vdisp o => runVdisp s n i o
  | .wgclr o => runWgclr s n i o
  | .wgflush o => runWgflush s n i o
  | .xclose o => runXclose s n i o
  | .missue b => runMissue s n i b
  | .grpupd o => runGrpupd s n i o
  | _ => s

/-- Has all work of an issued command ended: its adds to the wide gradient buffer are applied, and a dispatch's images are written. -/
def issuedDone (t : Tile) (i : Issued) : Bool :=
  let disp := match i.cmd with
    | .vdisp _ => true
    | _ => false
  let wide := disp && t.jobs.any fun j => match j.kind with | .wideDrv => true | _ => false
  (i.fin && !wide) || (i.ran && addsWgb i.cmd && !(t.wgbPend.any fun p => decide (p.1 = i.no)))

/-- The oldest issued command of a unit's queue. -/
def unitHead (t : Tile) (u : Nat) : Option Issued := t.issued.find? fun i => decide ((unitsOf i.cmd).head? = some u)

/-- COMMAND_COMPLETE: the head of a unit's queue does its work, and completes where that has ended. -/
def commandComplete (s : State) (n u : Nat) (res : List (Nat × Nat)) (bad : List Nat) : State :=
  match unitHead (tileAt s n) u with
  | none => s
  | some i =>
    let s1 := if i.ran || i.fin then s else runIssued s n i res bad
    match issuedOf (tileAt s1 n) i.no with
    | none => s1
    | some j =>
      if issuedDone (tileAt s1 n) j then afterComplete (modTile s1 n fun t => { t with issued := t.issued.filter fun k => decide (k.no ≠ i.no) }) n
      else s1

/-- COMMAND_COMPLETE. -/
def execCommandComplete (t : Fin 64) (unit : Fin 7) (res : List (Nat × Nat)) (bad : List Nat) (s : State) : Host.Outcome State Fault Refusal :=
  .next (commandComplete s (phys s t) unit.val res bad)

end Sys2Proof.Machine
end

