-- ==== Sys2Proof/Machine/Firmware.lean ====
section
/-! DEFINITION. The hub processor's watchdog, stalls and roll-back (R471, R472, R487), and inbound frames of the management port (R473). -/

namespace Sys2Proof.Machine

/-- CORE_STALL: a core of the hub processor has stopped (R471). Smiteale's work, and BEAT, stand until the watchdog acts. -/
def execCoreStall (_core : Fin 4) (s : State) : Host.Outcome State Fault Refusal :=
  .next (if !s.hubUp then s
    else
      let s1 := freezeBeat s
      raiseBit { s1 with stall := some (s1.stall.getD s.now) } 0 R.MGT_STATUS_CORE_STALL)

/-- Is the hand-over of a live update between steps 4 and 5 (R486). -/
def handing (s : State) : Bool := match s.sec.hand with
  | some h => h.at'.isSome
  | none => false

/-- The hub processor restarts from the active image (R472): RUNNING pairs end without a response. -/
def fwRestart (s : State) : State :=
  let s1 := s.mbxRun.foldl (fun s c => setPair s c.pair 0) s
  raiseBit (count { s1 with mbxRun := [], stall := none, beatAt := s.now } 0 R.MGT_FW_RESTART_COUNT 1) 0 R.MGT_STATUS_FW_RESTART

/-- FW_WATCHDOG: BEAT has stood for 100 ms (R472). It does not act in STOPPED, nor in steps 4 and 5 of a live update. -/
def execFwWatchdog (s : State) : Host.Outcome State Fault Refusal :=
  let st := fld s 0 R.HIF_FW_STATE
  .next (match s.stall with
    | some t => if s.hubUp && decide (1 ≤ st) && decide (st ≤ 3) && !handing s && decide (t + 100 * tcMs ≤ s.now) then fwRestart s else s
    | none => s)

/-- The old firmware runs on (R487). -/
def rollBack (s : State) : State :=
  let s1 := setFld { s with sec := { s.sec with hand := none }, stall := none, beatAt := s.now } 0 R.HIF_FW_STATE 2
  raiseBit (count s1 0 R.MGT_FW_ROLLBACK_COUNT 1) 0 R.MGT_STATUS_FW_ROLLBACK

/-- LIVE_UPDATE_TIMEOUT: the new firmware has not reached step 5 within 1 s of step 4 (R487). -/
def execLiveUpdateTimeout (s0 : State) : Host.Outcome State Fault Refusal :=
  let s := handStep s0
  .next (match s.sec.hand with
    | some h => (match h.at' with
      | some t => if s.hubUp && decide (t + 1000 * tcMs ≤ s.now) then rollBack s else s
      | none => s)
    | none => s)

/-- MANAGEMENT_LINK_CHANGE: the management link comes up, or goes down, which is reported. -/
def execManagementLinkChange (up : Bool) (s : State) : Host.Outcome State Fault Refusal :=
  .next (if !s.hubUp || decide (s.mgmtDown = !up) then s
    else if up then { s with mgmtDown := false } else raiseBit { s with mgmtDown := true } 0 R.MGT_STATUS_LINK_DOWN)

/-! ### Neighbour solicitation and echo (RFC 4861, RFC 4443) -/

/-- Bytes of a frame. -/
def fr (f : List Byte) (off n : Nat) : List Byte := (f.drop off).take n

/-- The ICMPv6 checksum sum over the pseudo-header and a message. -/
def icmpSum (src dst msg : List Byte) : Nat := fold16 4 (sum16 (src ++ dst ++ beBytes 4 msg.length ++ [0, 0, 0, 58] ++ msg))

/-- An ICMPv6 message in an IPv6 packet in an Ethernet frame, its checksum filled in at bytes 2 and 3. -/
def icmpFrame (dmac smac src dst : List Byte) (hop : Nat) (msg : List Byte) : List Byte :=
  let c := 65535 - icmpSum src dst msg
  dmac ++ smac ++ [0x86#8, 0xDD#8] ++ [0x60#8, 0, 0, 0] ++ beBytes 2 msg.length ++ [58#8, BitVec.ofNat 8 hop] ++ src ++ dst ++
  msg.take 2 ++ beBytes 2 c ++ msg.drop 4

/-- The ICMPv6 message of a frame that is addressed to an IPv6 host and whose checksum holds; none otherwise. -/
def icmpOf (f : List Byte) : Option (List Byte) :=
  let len := beNat (fr f 18 2)
  let msg := fr f 54 len
  if fr f 12 2 = [0x86#8, 0xDD#8] ∧ (f.getD 14 0).toNat / 16 = 6 ∧ f.getD 20 0 = 58#8 ∧ msg.length = len ∧ 8 ≤ len ∧ icmpSum (fr f 22 16) (fr f 38 16) msg = 65535 then
    some msg else none

/-- The solicited-node multicast address of an address. -/
def solicited (a : List Byte) : List Byte := [0xFF#8, 2, 0, 0, 0, 0, 0, 0, 0, 0, 0, 1, 0xFF#8] ++ a.drop 13

/-- The module's answer to an inbound frame: a neighbour advertisement, an echo reply, or none. -/
def frameAnswer (s : State) (f : List Byte) : Option (List Byte) :=
  let me := srcIp s R.MGT_SRC_IP_ADDR
  let src := fr f 22 16
  let dst := fr f 38 16
  match icmpOf f with
  | none => none
  | some m =>
    if m.take 2 = [135#8, 0] ∧ f.getD 21 0 = 255#8 ∧ 24 ≤ m.length ∧ fr m 8 16 = me ∧ (dst = me ∨ dst = solicited me) then
      let dad := zeros src 0 16
      let allNodes : List Byte := [0xFF#8, 2, 0, 0, 0, 0, 0, 0, 0, 0, 0, 0, 0, 0, 0, 1]
      let adv := [136#8, 0, 0, 0, if dad then 0x20#8 else 0x60#8, 0, 0, 0] ++ me ++ [2#8, 1] ++ macOf s
      some (if dad then icmpFrame ([0x33#8, 0x33#8] ++ allNodes.drop 12) (macOf s) me allNodes 255 adv else icmpFrame (fr f 6 6) (macOf s) me src 255 adv)
    else if m.take 2 = [128#8, 0] ∧ dst = me then
      some (icmpFrame (fr f 6 6) (macOf s) me src 64 ([129#8, 0, 0, 0] ++ m.drop 4))
    else none

/-- MGMT_FRAME_RX: an inbound frame is answered, or discarded and counted (R473). -/
def execMgmtFrameRx (f : List Byte) (s : State) : Host.Outcome State Fault Refusal :=
  .next (if !s.hubUp || s.mgmtDown then s
    else match frameAnswer s f with
      | some a => { s with out := s.out ++ [.datagram a] }
      | none => count s 0 R.MGT_RX_DISCARD_COUNT 1)

end Sys2Proof.Machine
end

