-- ==== Sys2Proof/Machine/Monitor.lean ====
section
/-! DEFINITION. The serial monitor (R490–R494). A monitor row is the command as its entered line gives it; UART_CHAR_RX brings lines character by
character and runs the same functions. -/

namespace Sys2Proof.Machine

/-! ### Text -/

/-- A hexadecimal digit. -/
def hexDigit (n : Nat) : Byte := BitVec.ofNat 8 (if n < 10 then 48 + n else 55 + n)

/-- `n` hexadecimal digits of a number, with an underscore every four digits from the right. -/
def hexGroups : Nat → Nat → List Byte
  | 0, _ => []
  | n + 1, v => hexDigit (v / 16 ^ n % 16) :: ((if n ≠ 0 ∧ n % 4 = 0 then [95#8] else []) ++ hexGroups n v)

/-- A number in the manual's notation. -/
def hex (n v : Nat) : List Byte := ascii "0x" ++ hexGroups n v

/-- A signed number in 16-bit range. -/
def hexInt (i : Int) : List Byte := (if i < 0 then ascii "-" else []) ++ hex 4 i.natAbs

/-- Words separated by single spaces. -/
def words (l : List (List Byte)) : List Byte := (l.intersperse [32#8]).flatten

/-! ### Replies -/

/-- Does the monitor run now: Smiteale runs and no core has stopped (R471). -/
def monUp (s : State) : Bool := s.hubUp && s.stall.isNone && decide (1 ≤ fld s 0 R.HIF_FW_STATE)

/-- Is the monitor unlocked. -/
def unlocked (s : State) : Bool := fldOn s 0 R.MGT_MON_UNLOCKED

/-- Send characters. -/
def say (s : State) (b : List Byte) : State := { s with out := s.out ++ [.uart b] }

/-- The prompt. -/
def prompt (s : State) : List Byte := ascii (if unlocked s then "glk# " else "glk> ")

/-- Reply lines that end with OK, and the prompt. -/
def ok (s : State) (ls : List (List Byte)) : State := say s ((ls.flatMap fun l => l ++ crlf) ++ ascii "OK" ++ crlf ++ prompt s)

/-- Text of an error (R491). -/
def errText : Nat → String
  | 1 => "1 unknown command" | 2 => "2 malformed line or argument" | 3 => "3 locked" | 4 => "4 address not readable or not writable"
  | 5 => "5 unlock failed" | _ => "6 unlock refused for the lockout period"

/-- An error reply, and the prompt. -/
def err (s : State) (code : Nat) : State := say s (ascii "ERR " ++ ascii (errText code) ++ crlf ++ prompt s)

/-- A command that an unlocked monitor runs: error 3 while locked. -/
def whenOpen (s : State) (f : State → State) : State := if unlocked s then f s else err s 3

/-- A line of input: the monitor takes it, where it runs and is not stuck (R494). -/
def entered (s : State) (f : State → State) : State :=
  if !monUp s || s.mon.stuck then s else f { s with mon := { s.mon with last := s.now } }

/-! ### The read-only commands -/

/-- `help`. -/
def monHelp (s : State) : State :=
  ok s (["help", "info", "rd <offset> [n]", "tiles", "ports", "temp", "events [n]", "baud <rate>", "unlock", "resp <groups>|end", "wr <offset> <value>",
    "stream <mask> <action>", "owner-arm", "lock"].map ascii)

/-- Name of HIF_FW.STATE. -/
def fwName : Nat → String
  | 0 => "BOOT" | 1 => "INIT" | 2 => "READY" | 3 => "UPDATE" | _ => "STOPPED"

/-- `info`, in the form of the example of chapter 16. -/
def monInfo (s : State) : State :=
  let sl := activeSlot s
  ok s [words [ascii "TVZ-GK4824-A", ascii "A0", ascii "module", hex 5 (myId s), ascii "slot", ascii (if sl = 0 then "A" else "B"), ascii "fw",
      hex 16 (slotVersion s sl), ascii (fwName (fld s 0 R.HIF_FW_STATE))],
    words [ascii "tag", hex 8 (fld s 0 R.XCH_TAG_TAG), ascii "committed", hex 16 (fld s 0 R.XCH_COMMITTED)]]

/-- May `rd` and `wr` reach an offset: within BAR0, outside the MSI-X table and the mailbox pages. -/
def monMay (off : Nat) : Bool := decide (off < 0x4000000) && !(decide (0xF0000 ≤ off) && decide (off < 0xF0400)) && !(decide (0x100000 ≤ off) && decide (off < 0x180000))

/-- Read n words from an offset by the hub processor, one line each; an unaligned word reads all ones (R8). -/
def monRdLines : Nat → Nat → State → List (List Byte) × State
  | 0, _, s => ([], s)
  | n + 1, off, s =>
    let r := if off % 4 = 0 then barRead s true off else (0xFFFFFFFF#32, s)
    let t := monRdLines n (off + 4) r.2
    ((hex 8 off ++ ascii ": " ++ hex 8 r.1.toNat) :: t.1, t.2)

/-- `rd`. -/
def monRd (s : State) (off n : Nat) : State :=
  if n = 0 ∨ 64 < n then err s 2
  else if !((List.range n).all fun i => monMay (off + 4 * i)) then err s 4
  else let r := monRdLines n off s; ok r.2 r.1

/-- Name of a tile state (R195). -/
def ptileName : Nat → String
  | 0 => "CARRYING" | 1 => "SPARE" | 2 => "DEN" | _ => "RETIRED"

/-- `tiles`: one line per physical tile. -/
def monTiles (s : State) : State :=
  ok s ((List.range 68).map fun n =>
    words [ascii "d" ++ hex 1 (n / 17) ++ ascii ".p" ++ hex 2 (n % 17), ascii (ptileName (ptileState s n)),
      (match logicalOf s n with | some t => hex 2 t | none => ascii "-"), ascii "level", hex 1 (fld s 0 (fldAt R.OWL_PTILE_ESC_LEVEL n))])

/-- Name of LINK. -/
def linkName : Nat → String
  | 0 => "DISABLED" | 1 => "DOWN" | 2 => "TRAINING" | 3 => "IDENTIFY" | _ => "UP"

/-- Name of ADMIT. -/
def admitName : Nat → String
  | 1 => "ADMITTED" | 2 => "QUARANTINED" | 3 => "REFUSED" | _ => "-"

/-- `ports`: one line per port. -/
def monPorts (s : State) : State :=
  ok s ((List.range 48).map fun p =>
    let pb := portBase p
    words [hex 2 p, ascii (linkName (linkOf s p)), ascii "width", hex 1 (fld s pb R.PL_STATE_WIDTH), ascii (admitName (fld s pb R.PL_STATE_ADMIT)),
      if fldOn s pb R.PL_PEER_VALID then hex 5 (fld s pb R.PL_PEER_MODULE) ++ ascii "." ++ hex 2 (fld s pb R.PL_STATE_PEER_PORT) else ascii "-"])

/-- A temperature in 1/16 °C as whole °C, rounded down. -/
def degC (i : Int) : List Byte := hexInt (i / 16)

/-- `temp`: the hotter sensor of each die, every stack, and the coolant; no input is given for the coolant: free values. -/
def monTemp (s : State) : State :=
  let f := (Config.freeNonce s.freeCtr).toNat
  ok { s with freeCtr := s.freeCtr + 1 } [words (ascii "die" :: (List.range 5).map fun d => degC (dieTemp s d)),
    words (ascii "stack" :: (List.range 24).map fun m => hexInt (fldInt s (mcBase m) R.MC_TEMP_TEMP)),
    words [ascii "coolant", hexInt (sext 8 (f % 256)), hexInt (sext 8 (f / 256 % 256))]]

/-- `events`: the last n firmware records. -/
def monEvents (s : State) (n : Nat) : State :=
  if n = 0 ∨ 64 < n then err s 2
  else
    let l := s.fwRecs.drop (s.fwRecs.length - n)
    ok s (l.map fun r => words [hex 16 (fieldLe r 8 8), hex 4 (fieldLe r 0 2), hex 2 (fieldLe r 2 1), hex 2 (fieldLe r 32 1), hex 4 (fieldLe r 34 2),
      hex 16 (fieldLe r 24 8), hex 8 (fieldLe r 36 4), hex 4 (fieldLe r 40 2), hex 8 (fieldLe r 48 4), hex 8 (fieldLe r 52 4), hex 8 (fieldLe r 56 4),
      hex 8 (fieldLe r 60 4)])

/-- Code of a baud rate in MGT_MON.BAUD. -/
def baudCode (rate : Nat) : Option Nat := [115200, 460800, 921600, 1500000, 3000000].findIdx? fun r => decide (r = rate)

/-- `baud`: the rate changes after the reply. -/
def monBaud (s : State) (rate : Nat) : State := match baudCode rate with
  | some c => setFld (ok s []) 0 R.MGT_MON_BAUD c
  | none => err s 2

/-! ### Unlock (R493) -/

/-- `unlock`: a fresh nonce, or error 6 during the lockout. -/
def monUnlock (s : State) : State :=
  if fldOn s 0 R.MGT_MON_LOCKOUT then err s 6
  else
    let n := (leBytes 64 (Config.freeNonce s.freeCtr).toNat).take 32
    ok { s with freeCtr := s.freeCtr + 1, mon := { s.mon with nonce := some (n, s.now), answer := [] } }
      [words (ascii "nonce" :: (List.range 8).map fun i => hexGroups 8 (beNat (part n (4 * i) 4)))]

/-- The message an answer signs. -/
def unlockMsg (s : State) (nonce : List Byte) : List Byte := nonce ++ leBytes 4 (myId s) ++ ascii "GLKUNLK" ++ [0]

/-- Modulus of the vendor key: the running image carries it (R475), and its digest is in fuses. -/
def vendorMod (s : State) : List Byte := slotRead s (activeSlot s) 256 512

/-- Does a signature verify under a modulus whose digest stands in fuses. -/
def keyVerifies (s : State) (m : List Byte) (digest : Fld) (sig msg : List Byte) : Bool :=
  decide (sha512 m = fuseDigest s digest) && rsaVerify m sig msg

/-- Does the answer unlock the monitor: within 60 s, under the vendor key, or the owner key where the owner slot is set. -/
def answerOk (s : State) : Bool := match s.mon.nonce with
  | none => false
  | some (n, t) => decide (s.now ≤ t + 60000 * tcMs) &&
      (keyVerifies s (vendorMod s) R.SEC_VKEY s.mon.answer (unlockMsg s n) ||
       (ownerSet s && keyVerifies s s.sec.okey R.SEC_OKEY s.mon.answer (unlockMsg s n)))

/-- A failed answer: counted and reported; the third in a row begins the lockout. -/
def unlockFail (s : State) : State :=
  let n := s.mon.fails + 1
  let s1 := raiseBit (count { s with mon := { s.mon with nonce := none, answer := [], fails := n } } 0 R.MGT_UNLOCK_FAIL_COUNT 1) 0 R.MGT_STATUS_UNLOCK_FAIL
  err (if n < 3 then s1 else setFld { s1 with mon := { s1.mon with fails := 0, lockAt := some s.now } } 0 R.MGT_MON_LOCKOUT 1) 5

/-- `resp`: up to eight groups of the answer, or its end. Without a nonce there is nothing to answer: error 5. -/
def monResp (s : State) (groups : Option (List Word)) : State :=
  if s.mon.nonce.isNone then err s 5
  else match groups with
    | some g =>
      if g = [] ∨ 8 < g.length then err s 2
      else ok { s with mon := { s.mon with answer := s.mon.answer ++ g.flatMap fun w => beBytes 4 w.toNat } } []
    | none =>
      if answerOk s then ok (setFld { s with mon := { s.mon with nonce := none, answer := [], fails := 0 } } 0 R.MGT_MON_UNLOCKED 1) []
      else unlockFail s

/-! ### The commands of the unlocked monitor -/

/-- `wr`: one word, by the hub processor. -/
def monWr (s : State) (off : Nat) (v : Word) : State :=
  whenOpen s fun s => if !monMay off then err s 4 else ok (if off % 4 = 0 then barWrite s true off v else s) []

/-- `stream`: as STREAM_CTRL; the reply shows the tiles acted on. -/
def monStream (s : State) (mask action : Nat) : State :=
  whenOpen s fun s => if 3 < action ∨ 2 ^ 64 ≤ mask then err s 2 else let r := streamCtrl s mask action; ok r.1 [hex 16 r.2]

/-- `owner-arm`: SEC_CTRL.OWNER_ARM is written. -/
def monOwnerArm (s : State) : State := whenOpen s fun s => ok (barWrite s true R.SEC_CTRL.off 1) []

/-- Lock the monitor. -/
def lockMon (s : State) : State := setFld s 0 R.MGT_MON_UNLOCKED 0

/-- `lock`. -/
def monLock (s : State) : State := whenOpen s fun s => ok (lockMon s) []

/-! ### The rows -/

/-- HELP. -/
def execHelp (s : State) : Host.Outcome State Fault Refusal := .next (entered s monHelp)
/-- INFO. -/
def execInfo (s : State) : Host.Outcome State Fault Refusal := .next (entered s monInfo)
/-- RD. -/
def execRd (off n : Nat) (s : State) : Host.Outcome State Fault Refusal := .next (entered s fun s => monRd s off n)
/-- TILES. -/
def execTiles (s : State) : Host.Outcome State Fault Refusal := .next (entered s monTiles)
/-- PORTS. -/
def execPorts (s : State) : Host.Outcome State Fault Refusal := .next (entered s monPorts)
/-- TEMP. -/
def execTemp (s : State) : Host.Outcome State Fault Refusal := .next (entered s monTemp)
/-- EVENTS. -/
def execEvents (n : Nat) (s : State) : Host.Outcome State Fault Refusal := .next (entered s fun s => monEvents s n)
/-- BAUD. -/
def execBaud (rate : Nat) (s : State) : Host.Outcome State Fault Refusal := .next (entered s fun s => monBaud s rate)
/-- UNLOCK. -/
def execUnlock (s : State) : Host.Outcome State Fault Refusal := .next (entered s monUnlock)
/-- RESP. -/
def execResp (groups : Option (List Word)) (s : State) : Host.Outcome State Fault Refusal := .next (entered s fun s => monResp s groups)
/-- WR. -/
def execWr (off : Nat) (v : Word) (s : State) : Host.Outcome State Fault Refusal := .next (entered s fun s => monWr s off v)
/-- STREAM. -/
def execStream (mask : BitVec 64) (action : Nat) (s : State) : Host.Outcome State Fault Refusal := .next (entered s fun s => monStream s mask.toNat action)
/-- OWNER_ARM. -/
def execOwnerArm (s : State) : Host.Outcome State Fault Refusal := .next (entered s monOwnerArm)
/-- LOCK. -/
def execLock (s : State) : Host.Outcome State Fault Refusal := .next (entered s monLock)

/-- MONITOR_IDLE_LOCK: 15 min without input. -/
def execMonitorIdleLock (s : State) : Host.Outcome State Fault Refusal :=
  .next (if unlocked s && decide (s.mon.last + 900000 * tcMs ≤ s.now) then lockMon s else s)

/-- UNLOCK_LOCKOUT_END: 60 s after the third failure. -/
def execUnlockLockoutEnd (s : State) : Host.Outcome State Fault Refusal :=
  .next (match s.mon.lockAt with
    | some t => if t + 60000 * tcMs ≤ s.now then setFld { s with mon := { s.mon with lockAt := none } } 0 R.MGT_MON_LOCKOUT 0 else s
    | none => s)

/-- UART_STUCK: the receive line has been low for 1 s (R494). -/
def execUartStuck (s : State) : Host.Outcome State Fault Refusal :=
  .next (if !s.hubUp || s.mon.stuck then s else raiseBit { s with mon := { s.mon with stuck := true } } 0 R.MGT_STATUS_UART_STUCK)

/-- UART_RX_RELEASE: the line has been high for 10 ms. -/
def execUartRxRelease (s : State) : Host.Outcome State Fault Refusal := .next { s with mon := { s.mon with stuck := false } }

/-! ### Lines (R490, R491) -/

/-- Split a line at spaces. -/
def splitWords : List Byte → List (List Byte)
  | [] => [[]]
  | b :: t =>
    match splitWords t with
    | [] => [[b]]
    | w :: ws => if b = 32#8 then [] :: w :: ws else (b :: w) :: ws

/-- Words of a line. -/
def lineWords (l : List Byte) : List (List Byte) := (splitWords l).filter fun w => !w.isEmpty

/-- Value of a digit in a base. -/
def digitOf (base : Nat) (b : Byte) : Option Nat :=
  let c := b.toNat
  let v := if 48 ≤ c ∧ c < 58 then c - 48 else if 65 ≤ c ∧ c < 71 then c - 55 else if 97 ≤ c ∧ c < 103 then c - 87 else 99
  if v < base then some v else none

/-- Number of a list of digits. -/
def digits (base : Nat) : List Byte → Option Nat
  | [] => none
  | l => l.foldl (fun a b => match a, digitOf base b with | some x, some d => some (base * x + d) | _, _ => none) (some 0)

/-- A number: hexadecimal with 0x, with or without underscores, or decimal. -/
def number (w : List Byte) : Option Nat :=
  match w with
  | a :: b :: t => if a = 48#8 ∧ (b = 120#8 ∨ b = 88#8) then digits 16 (t.filter fun c => decide (c ≠ 95#8)) else digits 10 w
  | _ => digits 10 w

/-- A group of eight hexadecimal digits, with or without an underscore. -/
def group (w : List Byte) : Option Word :=
  let d := w.filter fun c => decide (c ≠ 95#8)
  if d.length = 8 then (digits 16 d).map (BitVec.ofNat 32) else none

/-- Run a line. -/
def runLine (s : State) (line : List Byte) : State :=
  match lineWords line with
  | [] => say s (prompt s)
  | c :: args =>
    let is := fun (t : String) => decide (c = ascii t)
    let nums := args.map number
    let none' := fun (f : State → State) => if args = [] then f s else err s 2
    let one := fun (f : Nat → State) => match nums with | [some a] => f a | _ => err s 2
    let two := fun (f : Nat → Nat → State) => match nums with | [some a, some b] => f a b | _ => err s 2
    let open' := fun (x : State) => if unlocked s then x else err s 3
    if is "help" then none' monHelp
    else if is "info" then none' monInfo
    else if is "rd" then (match nums with | [some a] => monRd s a 1 | [some a, some b] => monRd s a b | _ => err s 2)
    else if is "tiles" then none' monTiles
    else if is "ports" then none' monPorts
    else if is "temp" then none' monTemp
    else if is "events" then (if args = [] then monEvents s 1 else one fun a => monEvents s a)
    else if is "baud" then one fun a => monBaud s a
    else if is "unlock" then none' monUnlock
    else if is "resp" then
      (if args = [ascii "end"] then monResp s none
       else if args = [] ∨ (args.any fun a => (group a).isNone) = true then err s 2 else monResp s (some (args.filterMap group)))
    else if is "wr" then open' (two fun a b => if 2 ^ 32 ≤ b then err s 2 else monWr s a (BitVec.ofNat 32 b))
    else if is "stream" then open' (two fun a b => monStream s a b)
    else if is "owner-arm" then open' (none' monOwnerArm)
    else if is "lock" then open' (none' monLock)
    else err s 1

/-- A character comes (R490): echoed; CR or LF ends the line, BS or DEL takes back its last character; a line over 255 characters is discarded. -/
def uartChar (s : State) (b : Byte) : State :=
  let s1 := say s [b]
  let m := s1.mon
  if b = 13#8 ∨ b = 10#8 then
    let s2 := { s1 with mon := { m with line := [], long := false } }
    if m.long then say s2 (ascii "ERR 2 line too long" ++ crlf ++ prompt s2) else runLine s2 m.line
  else if b = 8#8 ∨ b = 127#8 then { s1 with mon := { m with line := m.line.dropLast } }
  else if m.long then s1
  else if m.line.length < 255 then { s1 with mon := { m with line := m.line ++ [b] } }
  else { s1 with mon := { m with line := [], long := true } }

/-- UART_CHAR_RX. -/
def execUartCharRx (b : Byte) (s : State) : Host.Outcome State Fault Refusal := .next (entered s fun s => uartChar s b)

end Sys2Proof.Machine
end

