-- ==== Sys2Proof/Machine/Dispatch.lean ====
section
/-! DEFINITION. The dispatch: one arm per command, each one direct call of its meaning. -/

namespace Sys2Proof.Machine

/-- The effect of a command on everything but the queue. -/
def exec (i : Instr) (s : State) : Host.Outcome State Fault Refusal :=
  match i with
  | .registerWrite hub off len v => Sys2Proof.Machine.execRegisterWrite hub off len v s
  | .reg64LowRead hub off len => Sys2Proof.Machine.execReg64LowRead hub off len s
  | .reg64HighRead hub off len => Sys2Proof.Machine.execReg64HighRead hub off len s
  | .commandFetch t bad par => Sys2Proof.Machine.execCommandFetch t bad par s
  | .commandComplete t unit res bad => Sys2Proof.Machine.execCommandComplete t unit res bad s
  | .nop t => Sys2Proof.Machine.execNop t s
  | .mark t o => Sys2Proof.Machine.execMark t o s
  | .launch t o => Sys2Proof.Machine.execLaunch t o s
  | .fence t units => Sys2Proof.Machine.execFence t units s
  | .signal t o => Sys2Proof.Machine.execSignal t o s
  | .signalArrive t => Sys2Proof.Machine.execSignalArrive t s
  | .wait t o => Sys2Proof.Machine.execWait t o s
  | .sigclr t ctr => Sys2Proof.Machine.execSigclr t ctr s
  | .setver t o => Sys2Proof.Machine.execSetver t o s
  | .settown t o => Sys2Proof.Machine.execSettown t o s
  | .pwrite t o => Sys2Proof.Machine.execPwrite t o s
  | .swap t mask => Sys2Proof.Machine.execSwap t mask s
  | .fire t o => Sys2Proof.Machine.execFire t o s
  | .tfire t o => Sys2Proof.Machine.execTfire t o s
  | .flush t o => Sys2Proof.Machine.execFlush t o s
  | .dmeop t o => Sys2Proof.Machine.execDmeop t o s
  | .vdisp t o => Sys2Proof.Machine.execVdisp t o s
  | .kload t o => Sys2Proof.Machine.execKload t o s
  | .load t o => Sys2Proof.Machine.execLoad t o s
  | .store t o => Sys2Proof.Machine.execStore t o s
  | .wgclr t o => Sys2Proof.Machine.execWgclr t o s
  | .wgflush t o => Sys2Proof.Machine.execWgflush t o s
  | .xclose t o => Sys2Proof.Machine.execXclose t o s
  | .missue t bucket => Sys2Proof.Machine.execMissue t bucket s
  | .grpupd t o => Sys2Proof.Machine.execGrpupd t o s
  | .seqResume t => Sys2Proof.Machine.execSeqResume t s
  | .seqSkip t => Sys2Proof.Machine.execSeqSkip t s
  | .seqRun t run => Sys2Proof.Machine.execSeqRun t run s
  | .seqLong t no => Sys2Proof.Machine.execSeqLong t no s
  | .planeStaged t a => Sys2Proof.Machine.execPlaneStaged t a s
  | .planeWriteDone t a => Sys2Proof.Machine.execPlaneWriteDone t a s
  | .swapExecute t a => Sys2Proof.Machine.execSwapExecute t a s
  | .launchGrant => Sys2Proof.Machine.execLaunchGrant s
  | .passConvert t mask => Sys2Proof.Machine.execPassConvert t mask s
  | .foxWorkDone t a => Sys2Proof.Machine.execFoxWorkDone t a s
  | .blockWindowClose t b => Sys2Proof.Machine.execBlockWindowClose t b s
  | .foxWindowClose t => Sys2Proof.Machine.execFoxWindowClose t s
  | .checkBarrierEnd t => Sys2Proof.Machine.execCheckBarrierEnd t s
  | .rewind t => Sys2Proof.Machine.execRewind t s
  | .holdClr t => Sys2Proof.Machine.execHoldClr t s
  | .arrCtrlWide t a v => Sys2Proof.Machine.execArrCtrlWide t a v s
  | .planeRefreshRequest t a b => Sys2Proof.Machine.execPlaneRefreshRequest t a b s
  | .refreshLate t a b => Sys2Proof.Machine.execRefreshLate t a b s
  | .planeExpire t a b => Sys2Proof.Machine.execPlaneExpire t a b s
  | .calStart t => Sys2Proof.Machine.execCalStart t s
  | .calCommit t => Sys2Proof.Machine.execCalCommit t s
  | .calAbort t => Sys2Proof.Machine.execCalAbort t s
  | .calAgeTrigger t => Sys2Proof.Machine.execCalAgeTrigger t s
  | .subWindowClose t => Sys2Proof.Machine.execSubWindowClose t s
  | .calProduct t => Sys2Proof.Machine.execCalProduct t s
  | .measurementEnd t => Sys2Proof.Machine.execMeasurementEnd t s
  | .trimCommitApply t => Sys2Proof.Machine.execTrimCommitApply t s
  | .calRemap t a k valid col => Sys2Proof.Machine.execCalRemap t a k valid col s
  | .remapRfsh t a => Sys2Proof.Machine.execRemapRfsh t a s
  | .trimFlashWriteback => Sys2Proof.Machine.execTrimFlashWriteback s
  | .settHandover t b w => Sys2Proof.Machine.execSettHandover t b w s
  | .handoverComplete t b p => Sys2Proof.Machine.execHandoverComplete t b p s
  | .ownTimeout t unit => Sys2Proof.Machine.execOwnTimeout t unit s
  | .hostSettAccess t off len data coll => Sys2Proof.Machine.execHostSettAccess t off len data coll s
  | .wgbAdd t vuAdds => Sys2Proof.Machine.execWgbAdd t vuAdds s
  | .vuNop t f => Sys2Proof.Machine.execVuNop t f s
  | .vadd t f => Sys2Proof.Machine.execVadd t f s
  | .vsub t f => Sys2Proof.Machine.execVsub t f s
  | .vmul t f => Sys2Proof.Machine.execVmul t f s
  | .vfma t f => Sys2Proof.Machine.execVfma t f s
  | .vmax t f => Sys2Proof.Machine.execVmax t f s
  | .vmin t f => Sys2Proof.Machine.execVmin t f s
  | .vabs t f => Sys2Proof.Machine.execVabs t f s
  | .vneg t f => Sys2Proof.Machine.execVneg t f s
  | .vmov t f => Sys2Proof.Machine.execVmov t f s
  | .vmovi t f => Sys2Proof.Machine.execVmovi t f s
  | .vexp2 t f => Sys2Proof.Machine.execVexp2 t f s
  | .vlog2 t f => Sys2Proof.Machine.execVlog2 t f s
  | .vrcp t f => Sys2Proof.Machine.execVrcp t f s
  | .vrsqrt t f => Sys2Proof.Machine.execVrsqrt t f s
  | .vexp t f => Sys2Proof.Machine.execVexp t f s
  | .vtanh t f => Sys2Proof.Machine.execVtanh t f s
  | .vsigm t f => Sys2Proof.Machine.execVsigm t f s
  | .viadd t f => Sys2Proof.Machine.execViadd t f s
  | .visub t f => Sys2Proof.Machine.execVisub t f s
  | .vimul t f => Sys2Proof.Machine.execVimul t f s
  | .vand t f => Sys2Proof.Machine.execVand t f s
  | .vor t f => Sys2Proof.Machine.execVor t f s
  | .vxor t f => Sys2Proof.Machine.execVxor t f s
  | .vshl t f => Sys2Proof.Machine.execVshl t f s
  | .vshr t f => Sys2Proof.Machine.execVshr t f s
  | .vsra t f => Sys2Proof.Machine.execVsra t f s
  | .viota t f => Sys2Proof.Machine.execViota t f s
  | .vcmp t f => Sys2Proof.Machine.execVcmp t f s
  | .vicmp t f => Sys2Proof.Machine.execVicmp t f s
  | .vsel t f => Sys2Proof.Machine.execVsel t f s
  | .pand t f => Sys2Proof.Machine.execPand t f s
  | .por t f => Sys2Proof.Machine.execPor t f s
  | .pxor t f => Sys2Proof.Machine.execPxor t f s
  | .pnot t f => Sys2Proof.Machine.execPnot t f s
  | .pcnt t f => Sys2Proof.Machine.execPcnt t f s
  | .vcvt t f => Sys2Proof.Machine.execVcvt t f s
  | .vdcvt t f => Sys2Proof.Machine.execVdcvt t f s
  | .vld t f bad => Sys2Proof.Machine.execVld t f bad s
  | .vst t f => Sys2Proof.Machine.execVst t f s
  | .vldp t f bad => Sys2Proof.Machine.execVldp t f bad s
  | .vstp t f => Sys2Proof.Machine.execVstp t f s
  | .vgather t f bad => Sys2Proof.Machine.execVgather t f bad s
  | .vscatter t f => Sys2Proof.Machine.execVscatter t f s
  | .vrsum t f => Sys2Proof.Machine.execVrsum t f s
  | .vrmax t f => Sys2Proof.Machine.execVrmax t f s
  | .vrmin t f => Sys2Proof.Machine.execVrmin t f s
  | .vrargmax t f => Sys2Proof.Machine.execVrargmax t f s
  | .vscan t f => Sys2Proof.Machine.execVscan t f s
  | .vrisum t f => Sys2Proof.Machine.execVrisum t f s
  | .smovi t f => Sys2Proof.Machine.execSmovi t f s
  | .sadd t f => Sys2Proof.Machine.execSadd t f s
  | .ssub t f => Sys2Proof.Machine.execSsub t f s
  | .smul t f => Sys2Proof.Machine.execSmul t f s
  | .slt t f => Sys2Proof.Machine.execSlt t f s
  | .vext t f => Sys2Proof.Machine.execVext t f s
  | .sld t f bad => Sys2Proof.Machine.execSld t f bad s
  | .sst t f => Sys2Proof.Machine.execSst t f s
  | .vcx t f => Sys2Proof.Machine.execVcx t f s
  | .vcxr t f => Sys2Proof.Machine.execVcxr t f s
  | .vrnd t f => Sys2Proof.Machine.execVrnd t f s
  | .vrndu t f => Sys2Proof.Machine.execVrndu t f s
  | .rseed t f => Sys2Proof.Machine.execRseed t f s
  | .loop t f => Sys2Proof.Machine.execLoop t f s
  | .bnz t f => Sys2Proof.Machine.execBnz t f s
  | .bz t f => Sys2Proof.Machine.execBz t f s
  | .vuEnd t f => Sys2Proof.Machine.execVuEnd t f s
  | .vuWatchdog t => Sys2Proof.Machine.execVuWatchdog t s
  | .vuRngSeedWrite t seed => Sys2Proof.Machine.execVuRngSeedWrite t seed s
  | .streamerIssue t => Sys2Proof.Machine.execStreamerIssue t s
  | .blockReturn t job k bad => Sys2Proof.Machine.execBlockReturn t job k bad s
  | .writeAck t job k => Sys2Proof.Machine.execWriteAck t job k s
  | .prefetchProbe t => Sys2Proof.Machine.execPrefetchProbe t s
  | .tornReread t job k => Sys2Proof.Machine.execTornReread t job k s
  | .mcAccept m => Sys2Proof.Machine.execMcAccept m s
  | .mcServe m corr unc => Sys2Proof.Machine.execMcServe m corr unc s
  | .accumAdd m res bad => Sys2Proof.Machine.execAccumAdd m res bad s
  | .martenUpdateStart m => Sys2Proof.Machine.execMartenUpdateStart m s
  | .blockVisit m res bad listBad => Sys2Proof.Machine.execBlockVisit m res bad listBad s
  | .progEnd m => Sys2Proof.Machine.execProgEnd m s
  | .add m d a b => Sys2Proof.Machine.execAdd m d a b s
  | .sub m d a b => Sys2Proof.Machine.execSub m d a b s
  | .mul m d a b => Sys2Proof.Machine.execMul m d a b s
  | .fma m d a b c => Sys2Proof.Machine.execFma m d a b c s
  | .max m d a b => Sys2Proof.Machine.execMax m d a b s
  | .min m d a b => Sys2Proof.Machine.execMin m d a b s
  | .abs m d a => Sys2Proof.Machine.execAbs m d a s
  | .neg m d a => Sys2Proof.Machine.execNeg m d a s
  | .sign m d a => Sys2Proof.Machine.execSign m d a s
  | .sqrt m d a => Sys2Proof.Machine.execSqrt m d a s
  | .rsqrt m d a => Sys2Proof.Machine.execRsqrt m d a s
  | .rcp m d a => Sys2Proof.Machine.execRcp m d a s
  | .clamp m d a b => Sys2Proof.Machine.execClamp m d a b s
  | .mov m d a => Sys2Proof.Machine.execMov m d a s
  | .rrow m d a => Sys2Proof.Machine.execRrow m d a s
  | .rcol m d a => Sys2Proof.Machine.execRcol m d a s
  | .rall m d a => Sys2Proof.Machine.execRall m d a s
  | .rmean m d a => Sys2Proof.Machine.execRmean m d a s
  | .bucketRetry bucket => Sys2Proof.Machine.execBucketRetry bucket s
  | .mrtSeedWrite m seed => Sys2Proof.Machine.execMrtSeedWrite m seed s
  | .portBringUp p => Sys2Proof.Machine.execPortBringUp p s
  | .trainingBlockRx p lane inv logical peer port => Sys2Proof.Machine.execTrainingBlockRx p lane inv logical peer port s
  | .laneSetRx p set => Sys2Proof.Machine.execLaneSetRx p set s
  | .identityRx p c => Sys2Proof.Machine.execIdentityRx p c s
  | .activationDigestRx p step digest => Sys2Proof.Machine.execActivationDigestRx p step digest s
  | .digestTimeout p => Sys2Proof.Machine.execDigestTimeout p s
  | .flitSend p => Sys2Proof.Machine.execFlitSend p s
  | .flitRx p b corr unc => Sys2Proof.Machine.execFlitRx p b corr unc s
  | .ackTimeout p => Sys2Proof.Machine.execAckTimeout p s
  | .fastRetrain p => Sys2Proof.Machine.execFastRetrain p s
  | .laneLockLoss p lane => Sys2Proof.Machine.execLaneLockLoss p lane s
  | .plRetrain p => Sys2Proof.Machine.execPlRetrain p s
  | .packetForward p vc => Sys2Proof.Machine.execPacketForward p vc s
  | .accum p => Sys2Proof.Machine.execAccum p s
  | .close p => Sys2Proof.Machine.execClose p s
  | .bcast p => Sys2Proof.Machine.execBcast p s
  | .commitNotice p => Sys2Proof.Machine.execCommitNotice p s
  | .supersedePacket p => Sys2Proof.Machine.execSupersedePacket p s
  | .resend p => Sys2Proof.Machine.execResend p s
  | .resendData p => Sys2Proof.Machine.execResendData p s
  | .bucketDeadline bucket => Sys2Proof.Machine.execBucketDeadline bucket s
  | .publish bucket => Sys2Proof.Machine.execPublish bucket s
  | .stepCommit => Sys2Proof.Machine.execStepCommit s
  | .resendTimeout bucket ver => Sys2Proof.Machine.execResendTimeout bucket ver s
  | .commitNoticeSend bucket => Sys2Proof.Machine.execCommitNoticeSend bucket s
  | .checksumWindowClose t a => Sys2Proof.Machine.execChecksumWindowClose t a s
  | .guardbandEscalate n => Sys2Proof.Machine.execGuardbandEscalate n s
  | .owlLevelWrite n v => Sys2Proof.Machine.execOwlLevelWrite n v s
  | .denScanStart => Sys2Proof.Machine.execDenScanStart s
  | .scanDone pass => Sys2Proof.Machine.execScanDone pass s
  | .owlDatagramSend => Sys2Proof.Machine.execOwlDatagramSend s
  | .firmwareRecordCompose raw => Sys2Proof.Machine.execFirmwareRecordCompose raw s
  | .overflow q => Sys2Proof.Machine.execOverflow q s
  | .evqModerationTimeout q => Sys2Proof.Machine.execEvqModerationTimeout q s
  | .evqCfgEn q w => Sys2Proof.Machine.execEvqCfgEn q w s
  | .evqHead q v => Sys2Proof.Machine.execEvqHead q v s
  | .bar2Access size off len data => Sys2Proof.Machine.execBar2Access size off len data s
  | .mbxRing p => Sys2Proof.Machine.execMbxRing p s
  | .mbxAck p => Sys2Proof.Machine.execMbxAck p s
  | .mailboxTake bad => Sys2Proof.Machine.execMailboxTake bad s
  | .getInfo pair => Sys2Proof.Machine.execGetInfo pair s
  | .stageConfig pair => Sys2Proof.Machine.execStageConfig pair s
  | .loadStreams pair => Sys2Proof.Machine.execLoadStreams pair s
  | .streamCtrl pair => Sys2Proof.Machine.execStreamCtrl pair s
  | .snapshot pair => Sys2Proof.Machine.execSnapshot pair s
  | .takeover pair => Sys2Proof.Machine.execTakeover pair s
  | .updateRetry pair => Sys2Proof.Machine.execUpdateRetry pair s
  | .supersede pair => Sys2Proof.Machine.execSupersede pair s
  | .bucketArrived pair => Sys2Proof.Machine.execBucketArrived pair s
  | .bucketHold pair => Sys2Proof.Machine.execBucketHold pair s
  | .setLedger pair => Sys2Proof.Machine.execSetLedger pair s
  | .fwStop pair => Sys2Proof.Machine.execFwStop pair s
  | .getCert pair => Sys2Proof.Machine.execGetCert pair s
  | .attest pair => Sys2Proof.Machine.execAttest pair s
  | .fwStage pair data ok => Sys2Proof.Machine.execFwStage pair data ok s
  | .fwStatus pair => Sys2Proof.Machine.execFwStatus pair s
  | .ownerKeySet pair => Sys2Proof.Machine.execOwnerKeySet pair s
  | .getDigest pair => Sys2Proof.Machine.execGetDigest pair s
  | .svnCommit pair => Sys2Proof.Machine.execSvnCommit pair s
  | .hifCpyGo e hub w => Sys2Proof.Machine.execHifCpyGo e hub w s
  | .hifCpyAbort e hub units data => Sys2Proof.Machine.execHifCpyAbort e hub units data s
  | .copyDone e data err pois => Sys2Proof.Machine.execCopyDone e data err pois s
  | .perst moved width flit speed => Sys2Proof.Machine.execPerst moved width flit speed s
  | .fwWatchdog => Sys2Proof.Machine.execFwWatchdog s
  | .coreStall core => Sys2Proof.Machine.execCoreStall core s
  | .liveUpdateTimeout => Sys2Proof.Machine.execLiveUpdateTimeout s
  | .mgmtFrameRx f => Sys2Proof.Machine.execMgmtFrameRx f s
  | .uartCharRx b => Sys2Proof.Machine.execUartCharRx b s
  | .help => Sys2Proof.Machine.execHelp s
  | .info => Sys2Proof.Machine.execInfo s
  | .rd off n => Sys2Proof.Machine.execRd off n s
  | .tiles => Sys2Proof.Machine.execTiles s
  | .ports => Sys2Proof.Machine.execPorts s
  | .temp => Sys2Proof.Machine.execTemp s
  | .events n => Sys2Proof.Machine.execEvents n s
  | .baud rate => Sys2Proof.Machine.execBaud rate s
  | .unlock => Sys2Proof.Machine.execUnlock s
  | .resp groups => Sys2Proof.Machine.execResp groups s
  | .wr off v => Sys2Proof.Machine.execWr off v s
  | .stream mask action => Sys2Proof.Machine.execStream mask action s
  | .ownerArm => Sys2Proof.Machine.execOwnerArm s
  | .lock => Sys2Proof.Machine.execLock s
  | .monitorIdleLock => Sys2Proof.Machine.execMonitorIdleLock s
  | .uartStuck => Sys2Proof.Machine.execUartStuck s
  | .tadStart => Sys2Proof.Machine.execTadStart s
  | .tadStop => Sys2Proof.Machine.execTadStop s
  | .tadRefsel sel => Sys2Proof.Machine.execTadRefsel sel s
  | .refSettled v => Sys2Proof.Machine.execRefSettled v s
  | .periodTick => Sys2Proof.Machine.execPeriodTick s
  | .sequenceEnd m => Sys2Proof.Machine.execSequenceEnd m s
  | .housekeeping codes => Sys2Proof.Machine.execHousekeeping codes s
  | .tadCalZero chan acq => Sys2Proof.Machine.execTadCalZero chan acq s
  | .tadCalFull chan acq => Sys2Proof.Machine.execTadCalFull chan acq s
  | .tadCalStore => Sys2Proof.Machine.execTadCalStore s
  | .tadCalLoad => Sys2Proof.Machine.execTadCalLoad s
  | .tadCalStepDone l => Sys2Proof.Machine.execTadCalStepDone l s
  | .bdgEnable c hub w => Sys2Proof.Machine.execBdgEnable c hub w s
  | .bdgDisable c hub => Sys2Proof.Machine.execBdgDisable c hub s
  | .bdgKick c hub => Sys2Proof.Machine.execBdgKick c hub s
  | .bdgRequestEdge c asserted => Sys2Proof.Machine.execBdgRequestEdge c asserted s
  | .bdgMinIntExpire c => Sys2Proof.Machine.execBdgMinIntExpire c s
  | .bdgBurst ext bad => Sys2Proof.Machine.execBdgBurst ext bad s
  | .pwrEnAssert e => Sys2Proof.Machine.execPwrEnAssert e s
  | .pwrEnDeassert => Sys2Proof.Machine.execPwrEnDeassert s
  | .powerOnReset e => Sys2Proof.Machine.execPowerOnReset e s
  | .standbyLoss => Sys2Proof.Machine.execStandbyLoss s
  | .resetN asserted e => Sys2Proof.Machine.execResetN asserted e s
  | .moduleReset e => Sys2Proof.Machine.execModuleReset e s
  | .hubReset => Sys2Proof.Machine.execHubReset s
  | .dieReset dies => Sys2Proof.Machine.execDieReset dies s
  | .tileReset n => Sys2Proof.Machine.execTileReset n s
  | .mainReverse => Sys2Proof.Machine.execMainReverse s
  | .mainShort => Sys2Proof.Machine.execMainShort s
  | .mainUndervolt low => Sys2Proof.Machine.execMainUndervolt low s
  | .brownout => Sys2Proof.Machine.execBrownout s
  | .mainOvervolt => Sys2Proof.Machine.execMainOvervolt s
  | .mainRestored e => Sys2Proof.Machine.execMainRestored e s
  | .thermalTrip => Sys2Proof.Machine.execThermalTrip s
  | .pllUnlock long e => Sys2Proof.Machine.execPllUnlock long e s
  | .powerSample w => Sys2Proof.Machine.execPowerSample w s
  | .throttleAssert => Sys2Proof.Machine.execThrottleAssert s
  | .throttleRelease => Sys2Proof.Machine.execThrottleRelease s
  | .throttleStuck => Sys2Proof.Machine.execThrottleStuck s
  | .standbyUartLine => Sys2Proof.Machine.execStandbyUartLine s
  | .perBankRefresh m temp => Sys2Proof.Machine.execPerBankRefresh m temp s
  | .mainShortRetry ok e => Sys2Proof.Machine.execMainShortRetry ok e s
  | .uartRxRelease => Sys2Proof.Machine.execUartRxRelease s
  | .unlockLockoutEnd => Sys2Proof.Machine.execUnlockLockoutEnd s
  | .managementLinkChange up => Sys2Proof.Machine.execManagementLinkChange up s
  | .d3hotChange on => Sys2Proof.Machine.execD3hotChange on s
  | .hostRefclkChange present ppm => Sys2Proof.Machine.execHostRefclkChange present ppm s

end Sys2Proof.Machine
end

