-- ==== Sys2Proof/Machine/Tick.lean ====
section
/-! DEFINITION. What passes while no command waits: one tile clock, and the firmware work that no row of the table names (the end of a live update,
R486, and the ADC's flash, R510). -/

namespace Sys2Proof.Machine

/-- One tile clock. DESIGN CHOICE: the table has no row for a tick, so an empty queue stands for it. -/
def tick (s : State) : State := tadFlash (handStep { s with now := s.now + 1 })

end Sys2Proof.Machine
end

