-- ==== Sys2Proof/Safety.lean ====
section
/-! DEFINITION. What a safe run of the module keeps: the canonical form of every table of State, time that does not go back, what was sent that stays
sent, and, part by part, what a command leaves as it was. -/

namespace Sys2Proof.Machine

/-- Every table of the state is in its canonical form: keys strictly rising, no entry at what an unlisted key reads as. Equal contents are equal data. -/
def State.canon (s : State) : Bool :=
  swf resetWord s.regs &&
  swf (fun _ => (0 : Word)) s.fuses &&
  swf (fun _ => (0 : Word)) s.flashTrims &&
  swf hbmDefault s.hbm &&
  swf (fun _ => ({} : Tile)) s.tiles &&
  swf (fun _ => ({} : Mc)) s.mcs &&
  swf (fun _ => ({} : Port)) s.ports &&
  swf mbxDefault s.mbx &&
  swf (fun _ => ({} : EvqState)) s.evqs &&
  swf msixReset s.msix &&
  swf flashDefault s.flash &&
  swf (fun _ => ({} : BdgCh)) s.bdg &&
  swf bdgDefault s.bdgMem

/-- The parts of the state: its fields. -/
inductive Part
  | pending | now | freeCtr | regs | fuses | flashTrims | trimWb | latches | seedLow | hbm | tiles | mcs | launchAt | sigs | lastGrant
  | grantRot | owlFifo | taints | taintFrom | suspects | cfg | staged | prevTag | actAt | hubAt | obkts | rbkts | accSent | localRx
  | passed | doneV | csFails | failWins | ledger | ports | fwEvents | out | hostResp | mbx | mbxPosted | mbxRun | evqs | msix | msixPend
  | fwRecs | fwNum | fwNet | owlNet | fwRaw | mgmtDown | flash | sec | cpy | mon | beatAt | stall | tad | bdg | bdgMem | bdgLast | den
  | scanned | retiring | pwr | hubUp | d3hot
  deriving DecidableEq, Repr

/-- Two states agree on a part. -/
def Part.same : Part → State → State → Prop
  | .pending, s, t => t.pending = s.pending
  | .now, s, t => t.now = s.now
  | .freeCtr, s, t => t.freeCtr = s.freeCtr
  | .regs, s, t => t.regs = s.regs
  | .fuses, s, t => t.fuses = s.fuses
  | .flashTrims, s, t => t.flashTrims = s.flashTrims
  | .trimWb, s, t => t.trimWb = s.trimWb
  | .latches, s, t => t.latches = s.latches
  | .seedLow, s, t => t.seedLow = s.seedLow
  | .hbm, s, t => t.hbm = s.hbm
  | .tiles, s, t => t.tiles = s.tiles
  | .mcs, s, t => t.mcs = s.mcs
  | .launchAt, s, t => t.launchAt = s.launchAt
  | .sigs, s, t => t.sigs = s.sigs
  | .lastGrant, s, t => t.lastGrant = s.lastGrant
  | .grantRot, s, t => t.grantRot = s.grantRot
  | .owlFifo, s, t => t.owlFifo = s.owlFifo
  | .taints, s, t => t.taints = s.taints
  | .taintFrom, s, t => t.taintFrom = s.taintFrom
  | .suspects, s, t => t.suspects = s.suspects
  | .cfg, s, t => t.cfg = s.cfg
  | .staged, s, t => t.staged = s.staged
  | .prevTag, s, t => t.prevTag = s.prevTag
  | .actAt, s, t => t.actAt = s.actAt
  | .hubAt, s, t => t.hubAt = s.hubAt
  | .obkts, s, t => t.obkts = s.obkts
  | .rbkts, s, t => t.rbkts = s.rbkts
  | .accSent, s, t => t.accSent = s.accSent
  | .localRx, s, t => t.localRx = s.localRx
  | .passed, s, t => t.passed = s.passed
  | .doneV, s, t => t.doneV = s.doneV
  | .csFails, s, t => t.csFails = s.csFails
  | .failWins, s, t => t.failWins = s.failWins
  | .ledger, s, t => t.ledger = s.ledger
  | .ports, s, t => t.ports = s.ports
  | .fwEvents, s, t => t.fwEvents = s.fwEvents
  | .out, s, t => t.out = s.out
  | .hostResp, s, t => t.hostResp = s.hostResp
  | .mbx, s, t => t.mbx = s.mbx
  | .mbxPosted, s, t => t.mbxPosted = s.mbxPosted
  | .mbxRun, s, t => t.mbxRun = s.mbxRun
  | .evqs, s, t => t.evqs = s.evqs
  | .msix, s, t => t.msix = s.msix
  | .msixPend, s, t => t.msixPend = s.msixPend
  | .fwRecs, s, t => t.fwRecs = s.fwRecs
  | .fwNum, s, t => t.fwNum = s.fwNum
  | .fwNet, s, t => t.fwNet = s.fwNet
  | .owlNet, s, t => t.owlNet = s.owlNet
  | .fwRaw, s, t => t.fwRaw = s.fwRaw
  | .mgmtDown, s, t => t.mgmtDown = s.mgmtDown
  | .flash, s, t => t.flash = s.flash
  | .sec, s, t => t.sec = s.sec
  | .cpy, s, t => t.cpy = s.cpy
  | .mon, s, t => t.mon = s.mon
  | .beatAt, s, t => t.beatAt = s.beatAt
  | .stall, s, t => t.stall = s.stall
  | .tad, s, t => t.tad = s.tad
  | .bdg, s, t => t.bdg = s.bdg
  | .bdgMem, s, t => t.bdgMem = s.bdgMem
  | .bdgLast, s, t => t.bdgLast = s.bdgLast
  | .den, s, t => t.den = s.den
  | .scanned, s, t => t.scanned = s.scanned
  | .retiring, s, t => t.retiring = s.retiring
  | .pwr, s, t => t.pwr = s.pwr
  | .hubUp, s, t => t.hubUp = s.hubUp
  | .d3hot, s, t => t.d3hot = s.d3hot

/-- From `s` to `t` nothing changed outside the parts listed, the canonical form is kept, time does not go back, and what was sent stays sent. -/
structure Moves (l : List Part) (s t : State) : Prop where
  same : ∀ p, p ∉ l → p.same s t
  canon : s.canon = true → t.canon = true
  time : s.now ≤ t.now
  sent : s.out <+: t.out

end Sys2Proof.Machine

namespace Sys2Proof

/-- The parts of the state that a command can change; every other part is as it was. -/
def Instr.touches : Instr → List Machine.Part
  | .registerWrite .. | .wr .. | .ownerArm
      => [.now, .regs, .latches, .seedLow, .hbm, .tiles, .mcs, .launchAt, .sigs, .lastGrant, .owlFifo, .taints, .taintFrom, .suspects, .cfg, .staged,
          .prevTag, .actAt, .hubAt, .obkts, .rbkts, .accSent, .localRx, .passed, .doneV, .csFails, .failWins, .ledger, .ports, .fwEvents, .out, .mbx,
          .mbxPosted, .mbxRun, .evqs, .msix, .msixPend, .fwRecs, .fwNum, .fwNet, .owlNet, .fwRaw, .mgmtDown, .flash, .sec, .cpy, .mon, .beatAt,
          .stall, .tad, .bdg, .bdgMem, .bdgLast, .den, .scanned, .retiring, .pwr, .hubUp, .d3hot]
  | .reg64LowRead .. | .reg64HighRead .. => [.freeCtr, .regs, .latches, .hostResp, .pwr]
  | .commandFetch .. | .nop .. | .launch .. | .fence .. | .wait .. | .sigclr .. | .setver .. | .settown .. | .pwrite .. | .swap .. | .fire ..
  | .tfire .. | .flush .. | .dmeop .. | .vdisp .. | .kload .. | .load .. | .store .. | .wgclr .. | .wgflush .. | .xclose .. | .missue .. | .grpupd ..
  | .seqLong .. | .planeStaged .. | .swapExecute .. | .vuNop .. | .vadd .. | .vsub .. | .vmul .. | .vfma .. | .vmax .. | .vmin .. | .vabs .. | .vneg ..
  | .vmov .. | .vmovi .. | .viadd .. | .visub .. | .vimul .. | .vand .. | .vor .. | .vxor .. | .vshl .. | .vshr .. | .vsra .. | .viota .. | .vcmp ..
  | .vicmp .. | .vsel .. | .pand .. | .por .. | .pxor .. | .pnot .. | .pcnt .. | .vcvt .. | .vdcvt .. | .vst .. | .vstp .. | .vscatter .. | .vrsum ..
  | .vrargmax .. | .vscan .. | .vrisum .. | .smovi .. | .sadd .. | .ssub .. | .smul .. | .slt .. | .vext .. | .sst .. | .vcx .. | .vcxr .. | .vrnd ..
  | .vrndu .. | .rseed .. | .loop .. | .bnz .. | .bz .. | .vuWatchdog .. | .blockReturn .. => [.regs, .tiles, .owlFifo, .fwEvents]
  | .commandComplete .. => [.freeCtr, .regs, .hbm, .tiles, .mcs, .sigs, .owlFifo, .taints, .suspects, .accSent, .localRx, .ports, .fwEvents]
  | .mark .. | .planeWriteDone .. | .rewind .. | .vexp2 .. | .vlog2 .. | .vrcp .. | .vrsqrt .. | .vexp .. | .vtanh .. | .vsigm .. | .vrmax ..
  | .vrmin .. => [.freeCtr, .regs, .tiles, .owlFifo, .fwEvents]
  | .signal .. | .signalArrive .. => [.regs, .tiles, .sigs, .owlFifo, .fwEvents]
  | .seqResume .. | .seqSkip .. | .mrtSeedWrite .. | .owlLevelWrite .. | .monitorIdleLock | .perBankRefresh .. => [.regs]
  | .seqRun .. | .blockWindowClose .. | .foxWindowClose .. | .checkBarrierEnd .. | .arrCtrlWide .. | .planeRefreshRequest .. | .calStart ..
  | .calAbort .. | .calAgeTrigger .. | .subWindowClose .. | .calProduct .. | .remapRfsh .. | .handoverComplete .. | .vuRngSeedWrite ..
  | .prefetchProbe .. | .tornReread .. => [.regs, .tiles]
  | .launchGrant => [.regs, .tiles, .lastGrant, .grantRot, .owlFifo]
  | .passConvert .. => [.freeCtr, .regs, .tiles, .owlFifo, .taints, .suspects, .csFails, .failWins]
  | .foxWorkDone .. => [.freeCtr, .regs, .tiles, .owlFifo]
  | .holdClr .. | .calCommit .. => [.tiles]
  | .refreshLate .. | .planeExpire .. | .calRemap .. | .ownTimeout .. | .wgbAdd .. => [.regs, .tiles, .owlFifo]
  | .measurementEnd .. => [.freeCtr, .regs, .tiles, .owlFifo, .suspects, .staged]
  | .trimCommitApply .. => [.regs, .tiles, .owlFifo, .suspects]
  | .trimFlashWriteback => [.flashTrims, .trimWb, .tiles]
  | .settHandover .. | .mbxAck .. => [.regs, .owlFifo]
  | .hostSettAccess .. => [.regs, .tiles, .owlFifo, .hostResp]
  | .vld .. | .vldp .. | .vgather .. | .sld .. => [.regs, .tiles, .owlFifo, .taints, .suspects, .fwEvents]
  | .vuEnd .. => [.regs, .tiles, .owlFifo, .fwEvents, .out, .mbx, .mbxRun, .msixPend]
  | .streamerIssue .. => [.regs, .tiles, .mcs, .owlFifo, .fwEvents]
  | .writeAck .. => [.regs, .hbm, .tiles, .mcs, .owlFifo, .fwEvents]
  | .mcAccept .. => [.regs, .mcs]
  | .mcServe .. => [.regs, .hbm, .tiles, .mcs, .owlFifo]
  | .accumAdd .. => [.regs, .hbm, .mcs, .owlFifo, .taintFrom, .fwEvents]
  | .martenUpdateStart .. | .bucketRetry .. | .bucketDeadline .. => [.regs, .hbm, .mcs, .owlFifo, .obkts, .fwEvents]
  | .blockVisit .. => [.freeCtr, .regs, .hbm, .mcs, .owlFifo, .taintFrom, .obkts, .fwEvents]
  | .progEnd .. | .add .. | .sub .. | .mul .. | .fma .. | .max .. | .min .. | .abs .. | .neg .. | .sign .. | .sqrt .. | .rsqrt .. | .rcp .. | .clamp ..
  | .mov .. | .rrow .. | .rcol .. | .rall .. | .rmean .. => [.freeCtr, .regs, .hbm, .mcs, .owlFifo, .obkts, .fwEvents]
  | .portBringUp .. | .ackTimeout .. => [.regs, .ports]
  | .trainingBlockRx .. => [.ports, .out]
  | .laneSetRx .. => [.freeCtr, .regs, .owlFifo, .ports]
  | .identityRx .. | .activationDigestRx .. | .digestTimeout .. | .flitRx .. | .fastRetrain .. | .laneLockLoss .. | .plRetrain .. | .packetForward ..
      => [.regs, .owlFifo, .ports]
  | .flitSend .. => [.regs, .ports, .out]
  | .accum .. | .close .. | .publish .. => [.regs, .hbm, .mcs, .owlFifo, .obkts, .localRx, .ports, .fwEvents]
  | .bcast .. => [.regs, .hbm, .mcs, .owlFifo, .rbkts, .localRx, .ports]
  | .commitNotice .. => [.regs, .owlFifo, .rbkts, .localRx, .ports]
  | .supersedePacket ..
      => [.regs, .latches, .hbm, .tiles, .mcs, .owlFifo, .cfg, .staged, .prevTag, .actAt, .obkts, .rbkts, .localRx, .passed, .doneV, .ports,
          .fwEvents, .sec]
  | .resend .. => [.regs, .owlFifo, .localRx, .ports]
  | .resendData .. => [.regs, .hbm, .mcs, .owlFifo, .rbkts, .localRx, .ports, .fwEvents]
  | .stepCommit
      => [.regs, .latches, .hbm, .tiles, .mcs, .owlFifo, .cfg, .staged, .prevTag, .actAt, .obkts, .rbkts, .localRx, .doneV, .csFails, .failWins,
          .ports, .fwEvents, .sec]
  | .resendTimeout .. => [.regs, .owlFifo, .rbkts, .localRx, .ports, .fwEvents]
  | .commitNoticeSend .. => [.regs, .obkts, .localRx, .ports]
  | .checksumWindowClose .. => [.regs, .hbm, .tiles, .mcs, .owlFifo, .taints, .suspects, .obkts, .localRx, .csFails, .failWins, .ports, .fwEvents]
  | .guardbandEscalate .. => [.freeCtr, .regs, .tiles, .owlFifo, .taintFrom, .suspects, .fwEvents, .den, .retiring]
  | .denScanStart => [.regs, .den]
  | .scanDone .. => [.regs, .tiles, .scanned]
  | .owlDatagramSend => [.regs, .owlFifo, .fwEvents, .out, .owlNet]
  | .firmwareRecordCompose .. => [.freeCtr, .regs, .owlFifo, .fwEvents, .out, .evqs, .msixPend, .fwRecs, .fwNum, .fwNet, .fwRaw, .bdg]
  | .overflow .. => [.regs, .out, .evqs, .msixPend]
  | .evqModerationTimeout .. => [.out, .evqs, .msixPend]
  | .evqCfgEn .. => [.regs, .latches, .out, .evqs, .msixPend]
  | .evqHead .. => [.regs, .owlFifo, .out, .evqs, .msixPend]
  | .bar2Access .. => [.regs, .hbm, .mcs, .owlFifo, .hostResp]
  | .mbxRing .. => [.regs, .owlFifo, .mbxPosted]
  | .mailboxTake .. => [.regs, .owlFifo, .fwEvents, .out, .mbx, .mbxPosted, .mbxRun, .msixPend, .sec, .beatAt]
  | .getInfo .. | .snapshot .. | .getCert .. | .fwStatus .. | .getDigest .. => [.regs, .fwEvents, .out, .mbx, .mbxRun, .msixPend]
  | .stageConfig ..
      => [.regs, .latches, .hbm, .tiles, .mcs, .owlFifo, .cfg, .staged, .prevTag, .actAt, .obkts, .rbkts, .localRx, .doneV, .ports, .fwEvents, .out,
          .mbx, .mbxRun, .msixPend, .sec]
  | .loadStreams .. | .streamCtrl .. => [.regs, .tiles, .fwEvents, .out, .mbx, .mbxRun, .msixPend]
  | .takeover .. => [.freeCtr, .regs, .tiles, .owlFifo, .fwEvents, .out, .mbx, .mbxRun, .msixPend, .den]
  | .updateRetry .. | .bucketHold .. => [.regs, .hbm, .mcs, .owlFifo, .obkts, .fwEvents, .out, .mbx, .mbxRun, .msixPend]
  | .supersede .. => [.regs, .hbm, .mcs, .owlFifo, .obkts, .localRx, .ports, .fwEvents, .out, .mbx, .mbxRun, .msixPend]
  | .bucketArrived .. => [.regs, .rbkts, .fwEvents, .out, .mbx, .mbxRun, .msixPend]
  | .setLedger .. => [.regs, .ledger, .fwEvents, .out, .mbx, .mbxRun, .msixPend]
  | .fwStop .. => [.regs, .fwEvents, .out, .mbx, .mbxRun, .msixPend, .beatAt]
  | .attest .. => [.freeCtr, .regs, .fwEvents, .out, .mbx, .mbxRun, .msixPend]
  | .fwStage ..
      => [.regs, .latches, .hbm, .tiles, .mcs, .owlFifo, .taints, .taintFrom, .suspects, .cfg, .staged, .prevTag, .actAt, .hubAt, .obkts, .rbkts,
          .accSent, .localRx, .passed, .doneV, .csFails, .failWins, .ledger, .fwEvents, .out, .mbx, .mbxPosted, .mbxRun, .evqs, .msix, .msixPend,
          .fwRecs, .fwNum, .fwNet, .owlNet, .fwRaw, .flash, .sec, .cpy, .mon, .beatAt, .stall, .tad, .bdg, .bdgMem, .bdgLast, .den, .scanned,
          .retiring, .pwr]
  | .ownerKeySet .. => [.regs, .fuses, .owlFifo, .fwEvents, .out, .mbx, .mbxRun, .msixPend, .sec]
  | .svnCommit .. => [.regs, .fuses, .fwEvents, .out, .mbx, .mbxRun, .msixPend]
  | .hifCpyGo .. | .hifCpyAbort .. => [.regs, .latches, .hbm, .tiles, .mcs, .owlFifo, .fwEvents, .out, .msixPend, .cpy]
  | .copyDone .. => [.regs, .hbm, .tiles, .mcs, .owlFifo, .fwEvents, .out, .msixPend, .cpy]
  | .perst .. => [.regs, .hbm, .tiles, .mcs, .owlFifo, .fwEvents, .out, .evqs, .msix, .msixPend, .cpy, .pwr, .d3hot]
  | .fwWatchdog => [.regs, .owlFifo, .mbxRun, .beatAt, .stall]
  | .coreStall .. => [.regs, .owlFifo, .beatAt, .stall]
  | .liveUpdateTimeout => [.regs, .owlFifo, .sec, .beatAt, .stall]
  | .mgmtFrameRx .. => [.regs, .out]
  | .uartCharRx ..
      => [.now, .freeCtr, .regs, .latches, .seedLow, .hbm, .tiles, .mcs, .launchAt, .sigs, .lastGrant, .owlFifo, .taints, .taintFrom, .suspects,
          .cfg, .staged, .prevTag, .actAt, .hubAt, .obkts, .rbkts, .accSent, .localRx, .passed, .doneV, .csFails, .failWins, .ledger, .ports,
          .fwEvents, .out, .mbx, .mbxPosted, .mbxRun, .evqs, .msix, .msixPend, .fwRecs, .fwNum, .fwNet, .owlNet, .fwRaw, .mgmtDown, .flash, .sec,
          .cpy, .mon, .beatAt, .stall, .tad, .bdg, .bdgMem, .bdgLast, .den, .scanned, .retiring, .pwr, .hubUp, .d3hot]
  | .help | .info | .tiles | .ports | .events .. => [.out, .mon]
  | .rd .. => [.freeCtr, .regs, .latches, .out, .mon, .pwr]
  | .temp | .unlock => [.freeCtr, .out, .mon]
  | .baud .. | .lock => [.regs, .out, .mon]
  | .resp .. => [.regs, .owlFifo, .out, .mon]
  | .stream .. => [.regs, .tiles, .out, .mon]
  | .uartStuck => [.regs, .owlFifo, .mon]
  | .tadStart | .tadStop | .tadRefsel .. => [.regs, .latches, .owlFifo, .tad]
  | .refSettled .. | .tadCalStepDone .. => [.regs, .owlFifo, .tad]
  | .periodTick => [.now, .regs, .owlFifo, .flash, .sec, .beatAt, .tad]
  | .sequenceEnd .. => [.regs, .owlFifo, .tad, .bdg]
  | .housekeeping .. => [.regs, .tiles, .owlFifo, .tad, .pwr]
  | .tadCalZero .. | .tadCalFull .. | .tadCalStore | .tadCalLoad => [.regs, .latches, .owlFifo, .flash, .tad]
  | .bdgEnable .. | .bdgDisable .. | .bdgKick .. => [.regs, .latches, .owlFifo, .bdg]
  | .bdgRequestEdge .. => [.regs, .owlFifo, .bdg]
  | .bdgMinIntExpire .. => [.regs, .bdg]
  | .bdgBurst .. => [.regs, .owlFifo, .out, .msixPend, .fwRaw, .tad, .bdg, .bdgMem, .bdgLast]
  | .pwrEnAssert .. | .mainRestored .. | .mainShortRetry ..
      => [.now, .regs, .latches, .seedLow, .hbm, .tiles, .mcs, .launchAt, .owlFifo, .taints, .taintFrom, .suspects, .cfg, .staged, .prevTag, .actAt,
          .hubAt, .obkts, .rbkts, .accSent, .localRx, .passed, .doneV, .csFails, .failWins, .ledger, .ports, .fwEvents, .out, .mbx, .mbxPosted,
          .mbxRun, .evqs, .msix, .msixPend, .fwRecs, .fwNum, .fwNet, .owlNet, .fwRaw, .sec, .cpy, .mon, .beatAt, .stall, .tad, .bdg, .bdgMem,
          .bdgLast, .den, .scanned, .retiring, .pwr, .hubUp]
  | .pwrEnDeassert | .mainReverse | .brownout | .mainOvervolt | .thermalTrip
      => [.regs, .latches, .seedLow, .hbm, .tiles, .mcs, .launchAt, .sigs, .lastGrant, .owlFifo, .taints, .taintFrom, .suspects, .cfg, .staged,
          .prevTag, .actAt, .hubAt, .obkts, .rbkts, .accSent, .localRx, .passed, .doneV, .csFails, .failWins, .ledger, .ports, .fwEvents, .out, .mbx,
          .mbxPosted, .mbxRun, .evqs, .msix, .msixPend, .fwRecs, .fwNum, .fwNet, .owlNet, .fwRaw, .mgmtDown, .sec, .cpy, .mon, .beatAt, .stall, .tad,
          .bdg, .bdgMem, .bdgLast, .den, .scanned, .retiring, .pwr, .hubUp, .d3hot]
  | .powerOnReset ..
      => [.now, .regs, .trimWb, .latches, .seedLow, .hbm, .tiles, .mcs, .launchAt, .sigs, .lastGrant, .grantRot, .owlFifo, .taints, .taintFrom,
          .suspects, .cfg, .staged, .prevTag, .actAt, .hubAt, .obkts, .rbkts, .accSent, .localRx, .passed, .doneV, .csFails, .failWins, .ledger,
          .ports, .fwEvents, .out, .hostResp, .mbx, .mbxPosted, .mbxRun, .evqs, .msix, .msixPend, .fwRecs, .fwNum, .fwNet, .owlNet, .fwRaw,
          .mgmtDown, .sec, .cpy, .mon, .beatAt, .stall, .tad, .bdg, .bdgMem, .bdgLast, .den, .scanned, .retiring, .pwr, .hubUp, .d3hot]
  | .standbyLoss
      => [.regs, .trimWb, .latches, .seedLow, .hbm, .tiles, .mcs, .launchAt, .sigs, .lastGrant, .grantRot, .owlFifo, .taints, .taintFrom, .suspects,
          .cfg, .staged, .prevTag, .actAt, .hubAt, .obkts, .rbkts, .accSent, .localRx, .passed, .doneV, .csFails, .failWins, .ledger, .ports,
          .fwEvents, .hostResp, .mbx, .mbxPosted, .mbxRun, .evqs, .msix, .msixPend, .fwRecs, .fwNum, .fwNet, .owlNet, .fwRaw, .mgmtDown, .sec, .cpy,
          .mon, .beatAt, .stall, .tad, .bdg, .bdgMem, .bdgLast, .den, .scanned, .retiring, .pwr, .hubUp, .d3hot]
  | .resetN .. | .moduleReset .. | .hubReset | .dieReset .. | .tileReset .. | .pllUnlock ..
      => [.now, .regs, .latches, .seedLow, .hbm, .tiles, .mcs, .launchAt, .sigs, .lastGrant, .owlFifo, .taints, .taintFrom, .suspects, .cfg, .staged,
          .prevTag, .actAt, .hubAt, .obkts, .rbkts, .accSent, .localRx, .passed, .doneV, .csFails, .failWins, .ledger, .ports, .fwEvents, .out, .mbx,
          .mbxPosted, .mbxRun, .evqs, .msix, .msixPend, .fwRecs, .fwNum, .fwNet, .owlNet, .fwRaw, .mgmtDown, .sec, .cpy, .mon, .beatAt, .stall, .tad,
          .bdg, .bdgMem, .bdgLast, .den, .scanned, .retiring, .pwr, .hubUp, .d3hot]
  | .mainShort => [.regs, .owlFifo, .out, .pwr]
  | .mainUndervolt .. | .powerSample .. | .throttleAssert | .throttleStuck => [.regs, .owlFifo, .pwr]
  | .throttleRelease | .hostRefclkChange .. => [.regs, .pwr]
  | .standbyUartLine => [.out]
  | .uartRxRelease => [.mon]
  | .unlockLockoutEnd => [.regs, .mon]
  | .managementLinkChange .. => [.regs, .owlFifo, .mgmtDown]
  | .d3hotChange .. => [.d3hot]

end Sys2Proof

namespace Sys2Proof.Machine

/-! ### Vocabulary of the statements -/

/-- The instruction word at the VU's program counter runs: a dispatch runs, the word is this one, its fetch is good and its fields keep R206. -/
def vuReady (s : State) (t : Fin 64) (opc : Nat) (u : VuUse) (f : VuFields) : Prop :=
  (tileAt s (phys s t)).vu.run = true ∧ imemAt (tileAt s (phys s t)).vu (tileAt s (phys s t)).vu.pc = vuWord opc f ∧ f.fetchBad.val < 3 ∧
    useOk u f = true

/-- The words that producing a record may write: OWL_STATUS, OWL_SEQ, OWL_REC_CNT and OWL_DROP_FIFO. -/
def owlWord (k : Nat) : Bool := k = 0x90008 || k = 0x9006C || k = 0x90100 || k = 0x9010C

/-- Only the words `ks`, and the words that a raw record writes, differ between two states' registers. -/
def onlyWords (ks : List Nat) (s u : State) : Prop := ∀ k, k ∉ ks → owlWord k = false → rdReg u k = rdReg s k

/-- Tile t's vector unit in a state. -/
def vuOf (s : State) (t : Fin 64) : Vu := (tileAt s (phys s t)).vu

/-- From `s` to `u` tile t's VU registers and instruction memory are those of `w`, and the tile's sett memory is as it was. -/
def vuLeft (s u : State) (t : Fin 64) (w : Vu) : Prop :=
  (tileAt u (phys s t)).vu.v = w.v ∧ (tileAt u (phys s t)).vu.p = w.p ∧ (tileAt u (phys s t)).vu.s = w.s ∧
    (tileAt u (phys s t)).vu.imem = w.imem ∧ (tileAt u (phys s t)).sett = (tileAt s (phys s t)).sett

/-- The VU with the new elements `l` in vd where the lane is active. -/
def vuVec (v : Vu) (f : VuFields) (l : List Nat) : Vu :=
  vPut v f.vd.val (ofElems f.w (keepInactive v f (elemsOf f.w (vRow v f.vd.val)) l))

/-- The elements that an FP operation gives: each from the operands' elements, rounded once. -/
def vuFpElems (f : VuFields) (ops : List (List Nat)) (g : List FVal → FVal) : List Nat :=
  (List.range (elemCount f.w)).map fun i => (fpResult f.w (g (ops.map fun l => (fpElem f.w (l.getD i 0)).1))).1

/-- The VU's access of `len` bytes at sett address a keeps R220: aligned, of a kind that exists, its ports owned. -/
def vuMay (s : State) (t : Fin 64) (a len al : Nat) : Prop := a % al = 0 ∧ settKind a ≠ 3 ∧ settOwned s (phys s t) 4 a len = true

/-- A tile after a write of bytes at a sett address: an alias write that R177 refuses changes nothing. -/
def settPutTile (x : Tile) (a : Nat) (bs : List Byte) : Tile :=
  if aliasBad a bs.length then x else settPutAll (settKind a) x (a % 2 ^ 24) bs

/-- A tile after the active pieces of a run of bytes, `sz` bytes each, were written. -/
def settPutRuns (x : Tile) (a sz : Nat) (bs : List Byte) (act : Nat → Bool) : Tile :=
  (List.range (bs.length / sz)).foldl (fun x i => if act i then settPutTile x (a + sz * i) ((bs.drop (sz * i)).take sz) else x) x

/-- The lanes of a gather or scatter keep R220 and R221: aligned words of a kind that exists, in banks the VU owns. -/
def vuLanesMay (s : State) (t : Fin 64) (f : VuFields) : Prop :=
  ∀ q ∈ laneAddrs (vuOf s t) f, q.2 % 4 = 0 ∧ settKind q.2 ≠ 3 ∧ settOwned s (phys s t) 4 q.2 4 = true

/-- A VU instruction that only moves the program counter, or leaves it: no loop ends there, and the next opcode is one of R209. -/
def vuNextOk (s : State) (t : Fin 64) (pc : Nat) : Prop :=
  (vuOf s t).loops = [] ∧ pc < 8192 ∧ vuOpcodes.contains ((imemAt (vuOf s t) pc).toNat / 2 ^ 57) = true

/-- The limits of R194 as every tile shows them: bit 0 of SRC is THROTTLE_N, bit 1 the cap, undervoltage or heat. -/
def limitsShown (u : State) : Prop :=
  ∀ n < 68, fld u (tileBase n) R.TILE_THR_SRC = (if pinHolds u then 1 else 0) + (if capHolds u then 2 else 0) ∧
    fldOn u (tileBase n) R.TILE_THR_ACTIVE = (pinHolds u || capHolds u)

/-- Main power is off: every register but PWR_IN and PWR_RST_CAUSE reads its reset value, and no memory content stays. -/
def poweredOff (u : State) : Prop :=
  u.hubUp = false ∧ u.pwr.on = false ∧ u.hbm = [] ∧ u.launchAt = none ∧ (∀ n < 68, tileAt u n = {}) ∧ u.mbxRun = [] ∧ u.cpy = [] ∧
  ∀ k, k ≠ R.PWR_IN.off → k ≠ R.PWR_RST_CAUSE.off → rdReg u k = resetWord k

/-- A hub register whose writes have no action of their own beyond R5. -/
def plainHub (o : Nat) : Bool :=
  (decide (o < 0x100) || decide (0x300 ≤ o)) && decide (o < 0xF0000) && decide (o ≠ R.MBX_RING.off) && decide (o ≠ R.MBX_ACK.off) && !(decide (0x20000 ≤ o) && decide (o < 0x20400)) &&
    decide (o ≠ R.PWR_CTRL.off) && decide (o ≠ R.PWR_IN.off) && decide (o ≠ R.PWR_RST.off) && decide (o / 0x100 ≠ 0x501) && decide (o / 0x10000 ≠ 6) &&
    !(decide (0x70100 ≤ o) && decide (o < 0x70200)) && decide (o ≠ R.OWL_CTRL.off) && !(decide (0x90400 ≤ o) && decide (o < 0x90400 + 4 * 68)) &&
    decide (o ≠ R.SEC_CTRL.off)

/-- Tile t's head command `c` issues now (`judgeHead`), and the entry after it, if one is fetched, failed no check at fetch. -/
def issues (s : State) (t : Fin 64) (c : SeqCmd) (f : Fetched) : Prop :=
  judgeHead s (phys s t) c = .go f ∧ ∀ g ∈ (tileAt s (phys s t)).fetched.tail.head?, g.status = 0

/-- The head command has left the fetched ones, has taken a number, and is counted in TILE_CMD_CNT, which saturates; no LAUNCH waits. -/
def took (s u : State) (n : Nat) : Prop :=
  (tileAt u n).fetched = (tileAt s n).fetched.tail ∧ (tileAt u n).nextNo = (tileAt s n).nextNo + 1 ∧
    fld u (tileBase n) R.TILE_CMD_CNT_COUNT = min (fld s (tileBase n) R.TILE_CMD_CNT_COUNT + 1) (2 ^ 32 - 1)

/-- The words of tile n that stand at the offsets of some registers. -/
def tileWords (n : Nat) (l : List Fld) : List Nat := l.map fun f => tileBase n + f.off

/-- The commands that the sequencer only enters in a unit's queue, which work when the queue's head runs; a DMEOP with a feed operand also joins the
feed queue's consumers. -/
def queued (t : Fin 64) (c : SeqCmd) : Option Instr :=
  match c with
  | .flush o => some (.flush t o)
  | .dmeop o => if dmeFeed o = 0 then some (.dmeop t o) else none
  | .vdisp o => some (.vdisp t o)
  | .wgclr o => some (.wgclr t o)
  | .wgflush o => some (.wgflush t o)
  | .xclose o => some (.xclose t o)
  | .missue b => some (.missue t b)
  | .grpupd o => some (.grpupd t o)
  | _ => none

/-- The command of the module that issues a stream's command on tile t. -/
def cmdInstr (t : Fin 64) : SeqCmd → Instr
  | .nop => .nop t
  | .mark o => .mark t o
  | .launch o => .launch t o
  | .fence u => .fence t u
  | .signal o => .signal t o
  | .wait o => .wait t o
  | .sigclr c => .sigclr t c
  | .setver o => .setver t o
  | .settown o => .settown t o
  | .pwrite o => .pwrite t o
  | .swap m => .swap t m
  | .fire o => .fire t o
  | .tfire o => .tfire t o
  | .flush o => .flush t o
  | .dmeop o => .dmeop t o
  | .vdisp o => .vdisp t o
  | .kload o => .kload t o
  | .load o => .load t o
  | .store o => .store t o
  | .wgclr o => .wgclr t o
  | .wgflush o => .wgflush t o
  | .xclose o => .xclose t o
  | .missue b => .missue t b
  | .grpupd o => .grpupd t o

/-- A command for arrays waits while a swap of one of them waits on its standby plane (R71). -/
def heldBack (s : State) (n : Nat) : SeqCmd → Bool
  | .pwrite o => swapWaits s n o.array
  | .swap m => (arraysOf m).any fun a => swapWaits s n a
  | .fire o => (arraysOf o.mask).any fun a => swapWaits s n a
  | .tfire o => (arraysOf o.mask).any fun a => swapWaits s n a
  | _ => false

/-- Tile n's stream is HALTED with a status and an index, the failure is counted and shown, and nothing fetched is kept (R284, R285). -/
def haltedAt (s u : State) (n st idx : Nat) : Prop :=
  seqState u n = sqHalted ∧ fld u (tileBase n) R.TILE_SEQ_FAIL_STATUS = st % 2 ^ 8 ∧ fld u (tileBase n) R.TILE_SEQ_FAIL_INDEX = idx % 2 ^ 24 ∧
    fld u (tileBase n) R.TILE_SEQ_STATUS_HALT = 1 ∧ fld u (tileBase n) R.TILE_CMD_FAIL_COUNT = min (fld s (tileBase n) R.TILE_CMD_FAIL_COUNT + 1) (2 ^ 32 - 1) ∧
    (tileAt u n).fetched = [] ∧ (tileAt u n).seqWait = none ∧ (tileAt u n).launchSet = none

/-- The commands of a tile after `c` has issued as number nextNo: its effect is taken (`ran`), and its work has ended or not. -/
def issuedNow (s u : State) (n : Nat) (f : Fetched) (fin : Bool) : Prop :=
  let x := tileAt s n
  let i : Issued := { no := x.nextNo, idx := f.idx, cmd := f.cmd, descs := f.descs, ver := seqVer s n, t0 := s.now, ran := false, fin := false, long := false }
  (tileAt u n).issued = (x.issued ++ [i]).map fun j => if j.no = x.nextNo then { j with ran := true, fin := fin || j.fin } else j

/-- Block k of job `id` of a tile's queue, changed. -/
def blkChanged (s u : State) (n id k : Nat) (f : BlkReq → BlkReq) : Prop :=
  (tileAt u n).jobs = (tileAt s n).jobs.map fun j => if j.id = id then { j with blks := j.blks.map fun b => if b.k = k then f b else b } else j

/-- The element-wise operations of an update program: opcode, command, how many sources it uses, and its value by element (R335). -/
def martenOps (m : Fin 24) (d a b c : Fin 32) : List (Nat × Instr × Nat × (Nat → FVal → FVal → FVal → Word)) :=
  [(1, .add m d a b, 2, fun _ x y _ => fp32Of (fAdd x y)), (2, .sub m d a b, 2, fun _ x y _ => fp32Of (fSub x y)),
   (3, .mul m d a b, 2, fun _ x y _ => fp32Of (fMul x y)), (4, .fma m d a b c, 3, fun _ x y z => fp32Of (fFma x y z)),
   (5, .max m d a b, 2, fun _ x y _ => fp32Of (fMax x y)), (6, .min m d a b, 2, fun _ x y _ => fp32Of (fMin x y)),
   (7, .abs m d a, 1, fun _ x _ _ => fp32Of (fAbs x)), (8, .neg m d a, 1, fun _ x _ _ => fp32Of (fNeg x)),
   (9, .sign m d a, 1, fun _ x _ _ => fp32Of (fSign x)), (10, .sqrt m d a, 1, fun f x _ _ => (mSqrt f x).1),
   (11, .rsqrt m d a, 1, fun f x _ _ => (tRsqrt f x).1), (12, .rcp m d a, 1, fun f x _ _ => (tRcp f x).1),
   (13, .clamp m d a b, 2, fun _ x y _ => fp32Of (fMax (fNeg (fAbs y)) (fMin (fAbs y) x))), (14, .mov m d a, 1, fun _ x _ _ => fp32Of x)]

/-- The means of an update program: opcode, command, and the values of a source's words (R336). -/
def martenMeans (m : Fin 24) (d a : Fin 32) : List (Nat × Instr × (List Word → List Word)) :=
  [(16, .rrow m d a, fun x => (rowsOf x).map fun l => (meanOf 5 l).1), (17, .rcol m d a, fun x => (colsOf x).map fun l => (meanOf 9 l).1),
   (18, .rall m d a, fun x => [(meanOf 14 x).1]), (19, .rmean m d a, fun x => [(meanOf (if x.length = 512 then 9 else 5) x).1])]

/-- MC m runs the visit `v` of the update `u`, and the next word of the armed program is `w`. -/
def martenAt (s : State) (m : Nat) (u : MUpd) (v : MVisit) (w : Word) : Prop :=
  (mcAt s m).upd = some u ∧ (findEntry s m u.bucket).isSome = true ∧ u.visit = some v ∧ v.ended = false ∧ v.pc < 32 ∧
    (u.armed.getD { bucket := u.bucket, regs := [], prog := [] }).prog.getD v.pc 0 = w

/-- Words of a link port at the offsets of some registers. -/
def portWords (p : Nat) (l : List Fld) : List Nat := l.map fun f => portBase p + f.off

/-- A packet of a kind comes to the exchange logic by port p (48: from this module), is addressed here and passes R361; `u` is the state after that. -/
def comes (s : State) (p : Fin 49) (kind ver : Nat) (b : List Byte) (u : State) : Prop :=
  xchOn s = true ∧ (hdrOf b).kind = kind ∧ ∃ s1, takeLocal s p ((kindClass kind).getD 0) = some (b, s1) ∧ destCheck s1 p b ver = (true, u)

/-- The RUNNING command of a pair is this one, of an opcode; the hub processor runs, and the command is within its bound. -/
def mbxRuns (s : State) (pair : Fin 64) (op : Nat) (c : MbxCmd) : Prop :=
  s.mbxRun.find? (fun c => decide (c.pair = pair.val) && decide (c.op = op)) = some c ∧ s.stall = none ∧ s.now ≤ c.since + opBound c

/-- The opcode of the mailbox command that a row works on (R451, R488), on the command of a pair. -/
def mailboxRow (pair : Fin 64) : Instr → Option Nat
  | .getInfo p => if p = pair then some 1 else none
  | .stageConfig p => if p = pair then some 2 else none
  | .loadStreams p => if p = pair then some 3 else none
  | .streamCtrl p => if p = pair then some 4 else none
  | .snapshot p => if p = pair then some 5 else none
  | .takeover p => if p = pair then some 6 else none
  | .updateRetry p => if p = pair then some 7 else none
  | .supersede p => if p = pair then some 8 else none
  | .bucketArrived p => if p = pair then some 9 else none
  | .bucketHold p => if p = pair then some 0xA else none
  | .setLedger p => if p = pair then some 0xB else none
  | .getCert p => if p = pair then some 0x40 else none
  | .attest p => if p = pair then some 0x41 else none
  | .fwStatus p => if p = pair then some 0x43 else none
  | .ownerKeySet p => if p = pair then some 0x44 else none
  | .getDigest p => if p = pair then some 0x45 else none
  | .svnCommit p => if p = pair then some 0x46 else none
  | _ => none

/-- May a requester write HIF_CPY_CTRL of an engine: the hub processor all of them, the host those of engines 0 to 5. -/
def cpyMay (s : State) (e : Fin 8) (hub : Bool) : Prop := (hub = true ∧ s.hubUp = true) ∨ (hub = false ∧ hostUp s = true ∧ e.val < 6)

/-- The state in which the monitor runs a line that it takes: the time of the last input is now. -/
def monTakes (s : State) : State := { s with mon := { s.mon with last := s.now } }

/-- What a request does to a channel that is enabled (R514, R516): it waits to be served, is held until MIN_INT has elapsed, or is lost. -/
def bdgRequests (s u : State) (c : Nat) : Prop :=
  let x := bdgOf s c
  (x.req = true ∨ x.held = true → fld u 0 (fldAt R.BDG_LOST_COUNT c) = min (fld s 0 (fldAt R.BDG_LOST_COUNT c) + 1) (2 ^ 32 - 1) ∧
    fld u 0 (fldAt R.BDG_STAT_TOO_FAST c) = 1 ∧ (bdgOf u c).req = x.req ∧ (bdgOf u c).held = x.held) ∧
  (x.req = false → x.held = false → bdgMinInt s c = true → (bdgOf u c).req = true ∧ (bdgOf u c).held = false ∧ u.regs = s.regs) ∧
  (x.req = false → x.held = false → bdgMinInt s c = false → (bdgOf u c).req = false ∧ (bdgOf u c).held = true ∧
    fld u 0 (fldAt R.BDG_STAT_HELD c) = 1 ∧ fld u 0 (fldAt R.BDG_HELD_COUNT c) = min (fld s 0 (fldAt R.BDG_HELD_COUNT c) + 1) (2 ^ 32 - 1))

end Sys2Proof.Machine
end

