-- ==== Sys2Proof/WellFormed.lean ====
section
/-! DEFINITION. When a command's operands are ones the hardware can carry: field widths and ranges of chapters 01 to 18 that the operand types do not say
already. The commands of a stream (R262, R266) carry the ranges the sequencer's decoder accepts. -/

namespace Sys2Proof

/-- Does a number fit in `n` bits. -/
def fits (n v : Nat) : Bool := decide (v < 2 ^ n)

/-- MARK (R266, R281): 16-bit identifier, a 48-bit area address aligned to 64 bytes, and a 32-bit length. -/
def MarkOp.wf (o : MarkOp) : Bool := fits 16 o.markId && fits 48 o.area && decide (o.area % 64 = 0) && fits 32 o.areaLen

/-- LAUNCH (R266). -/
def LaunchOp.wf (o : LaunchOp) : Bool := fits 48 o.count

/-- SIGNAL (R266): the increment is not 0. -/
def SignalOp.wf (o : SignalOp) : Bool := fits 6 o.tile && fits 4 o.ctr && fits 16 o.inc && decide (o.inc ≠ 0) && fits 7 o.after

/-- WAIT (R266). -/
def WaitOp.wf (o : WaitOp) : Bool := fits 4 o.ctr && fits 32 o.value

/-- SETVER (R266). -/
def SetverOp.wf (o : SetverOp) : Bool := fits 64 o.ver

/-- SETTOWN (R266, R281): 48 banks, of which the first four have a second port. -/
def SettownOp.wf (o : SettownOp) : Bool := decide (o.bank < 48) && fits 1 o.port && (decide (o.port = 0) || decide (o.bank < 4)) && fits 4 o.owner

/-- PWRITE (R266, R269): a CFA in use is aligned to 64 bytes and outside the reserved access kind. -/
def PwriteOp.wf (o : PwriteOp) : Bool :=
  fits 4 o.array && fits 16 o.desc && fits 32 o.block0 && fits 3 o.listK && fits 16 o.listDesc && fits 32 o.listBlock && fits 26 o.cfa &&
  (!o.cfaEn || (decide (o.cfa % 64 = 0) && decide (o.cfa < 3 * 2 ^ 24)))

/-- FIRE and TFIRE (R266, R270). -/
def FireOp.wf (o : FireOp) : Bool := fits 16 o.mask && fits 64 o.segmap && fits 26 o.drv && fits 16 o.stride

/-- FLUSH (R266, R272): a 26-bit sett address, or a slot of the wide gradient buffer with 512 slots from it. -/
def FlushOp.wf (o : FlushOp) : Bool :=
  fits 4 o.seg && fits 16 o.outDesc && fits 16 o.inDesc && fits 16 o.wDesc && (if o.toWgb then decide (o.addr + 511 ≤ 1048575) else fits 26 o.addr)

/-- DMEOP (R266, R273): no dimension is 0, and a result in the wide gradient buffer lies within it. -/
def DmeOp.wf (o : DmeOp) : Bool :=
  fits 2 o.mode && fits 26 o.aAddr && fits 26 o.bAddr && fits 26 o.dAddr && fits 16 o.m && decide (o.m ≠ 0) && fits 16 o.n && decide (o.n ≠ 0) &&
  fits 16 o.k && decide (o.k ≠ 0) && fits 16 o.aDesc && fits 16 o.bDesc && fits 16 o.dDesc &&
  (!o.toWgb || decide (o.dAddr + o.m * o.n ≤ 1048576))

/-- VDISP (R266, R274). -/
def VdispOp.wf (o : VdispOp) : Bool := fits 13 o.entry && fits 16 o.desc && fits 32 o.arg1 && fits 32 o.arg2 && fits 32 o.arg3 && fits 32 o.arg4

/-- KLOAD (R266, R274): one to eight blocks that end within instruction memory. -/
def KloadOp.wf (o : KloadOp) : Bool := decide (1 ≤ o.count) && decide (o.base + o.count ≤ 8) && fits 16 o.desc && fits 32 o.block0

/-- LOAD (R266, R275). -/
def LoadOp.wf (o : LoadOp) : Bool := fits 16 o.desc && fits 32 o.block0 && fits 16 o.count && fits 26 o.settAddr && fits 16 o.rowlen

/-- STORE (R266, R276). -/
def StoreOp.wf (o : StoreOp) : Bool := fits 16 o.desc && fits 32 o.block0 && fits 16 o.count && fits 26 o.settAddr && fits 16 o.images

/-- WGCLR (R266, R277): within the 2^20 slots. -/
def WgclrOp.wf (o : WgclrOp) : Bool := fits 20 o.slot && fits 21 o.count && decide (o.slot + o.count ≤ 1048576)

/-- WGFLUSH (R266, R277). -/
def WgflushOp.wf (o : WgflushOp) : Bool :=
  fits 20 o.slot && fits 21 o.count && decide (o.slot + o.count ≤ 1048576) && fits 32 o.bucket && fits 25 o.offset && fits 32 o.samples && fits 16 o.desc

/-- XCLOSE (R266, R278). -/
def XcloseOp.wf (o : XcloseOp) : Bool := fits 32 o.bucket && fits 32 o.samples

/-- GRPUPD (R266, R279): one to six values, within the 16 registers of a group. -/
def GrpupdOp.wf (o : GrpupdOp) : Bool := fits 12 o.group && decide (1 ≤ o.vals.length) && decide (o.vals.length ≤ 6) && decide (o.reg + o.vals.length ≤ 16)

/-- A command of a stream is one the sequencer's decoder can give. -/
def SeqCmd.wf : SeqCmd → Bool
  | .nop => true
  | .mark o => o.wf
  | .launch o => o.wf
  | .fence u => fits 7 u
  | .signal o => o.wf
  | .wait o => o.wf
  | .sigclr c => fits 4 c
  | .setver o => o.wf
  | .settown o => o.wf
  | .pwrite o => o.wf
  | .swap m => fits 16 m
  | .fire o => o.wf
  | .tfire o => o.wf
  | .flush o => o.wf
  | .dmeop o => o.wf
  | .vdisp o => o.wf
  | .kload o => o.wf
  | .load o => o.wf
  | .store o => o.wf
  | .wgclr o => o.wf
  | .wgflush o => o.wf
  | .xclose o => o.wf
  | .missue b => fits 32 b
  | .grpupd o => o.wf

/-- A peer's certificate names an 18-bit module (R3). -/
def PeerCert.wf (c : PeerCert) : Bool := fits 18 c.module

/-- A start-up's link: a width of 0, 4, 8 or 16 lanes and a speed the link has (R440, R536). -/
def StartEnv.wf (e : StartEnv) : Bool := decide (e.width ≤ 16) && decide (e.speed ≤ 6)

/-- Is a command well formed: every operand within its field. The operands of commands without a line here are in range by their types. -/
def Instr.wf (i : Instr) : Bool :=
  match i with
  | .registerWrite _ off _ _ => fits 32 off
  | .reg64LowRead _ off _ => fits 32 off
  | .reg64HighRead _ off _ => fits 32 off
  | .mark _ o => o.wf
  | .launch _ o => o.wf
  | .fence _ u => fits 7 u
  | .signal _ o => o.wf
  | .wait _ o => o.wf
  | .sigclr _ c => fits 4 c
  | .setver _ o => o.wf
  | .settown _ o => o.wf
  | .pwrite _ o => o.wf
  | .swap _ m => fits 16 m
  | .fire _ o => o.wf
  | .tfire _ o => o.wf
  | .flush _ o => o.wf
  | .dmeop _ o => o.wf
  | .vdisp _ o => o.wf
  | .kload _ o => o.wf
  | .load _ o => o.wf
  | .store _ o => o.wf
  | .wgclr _ o => o.wf
  | .wgflush _ o => o.wf
  | .xclose _ o => o.wf
  | .missue _ b => fits 32 b
  | .grpupd _ o => o.wf
  | .passConvert _ m => fits 16 m
  | .identityRx _ c => c.wf
  | .activationDigestRx _ _ d => decide (d.length = 64)
  | .flitRx _ b _ _ => decide (b.length = 256)
  | .bucketRetry b => fits 32 b
  | .bucketDeadline b => fits 32 b
  | .publish b => fits 32 b
  | .resendTimeout b v => fits 32 b && fits 64 v
  | .commitNoticeSend b => fits 32 b
  | .housekeeping c => decide (c.length = 17)
  | .pwrEnAssert e => e.wf
  | .powerOnReset e => e.wf
  | .resetN _ e => e.wf
  | .moduleReset e => e.wf
  | .mainRestored e => e.wf
  | .pllUnlock _ e => e.wf
  | .mainShortRetry _ e => e.wf
  | _ => true

end Sys2Proof
end

