-- ==== Sys2Proof/Certificates/Slice0/Obligations.lean ====
section
/-! DEFINITION. The statements for the provers. Each cites the rules of spec/ that it formalises or rests on; where a clause rests on a reading or a choice of the
model's own, the docstring names the log entry. -/

open Sys2Proof Sys2Proof.Machine

/-- A step runs exec of the queue's front command with the rest queued; an empty queue is one tick of the clock (design choice). Rests on 00_scope. The model's own readings and choices in it: log entries 1. -/
def Obligations.StepRunsFrontCommand : Prop :=
  (∀ (c : Instr) (s : State), step { s with pending := c :: s.pending } = exec c s) ∧
  (∀ s : State, s.pending = [] → ∃ u, step s = .next u ∧ u.pending = [] ∧ s.now + 1 ≤ u.now ∧
    (s.tad.cal = none → s.sec.hand = none → u = { s with now := s.now + 1 }))

/-- Every step keeps every table of the state in its one canonical form, takes one command, moves time on and only appends to the outputs. Rests on 00_scope, 10_memory_system, 15_host_interface. The model's own readings and choices in it: log entries 7. -/
def Obligations.EveryStepKeepsTables : Prop :=
  ∀ s u : State, step s = .next u → u.pending = s.pending.tail ∧ (s.canon = true → u.canon = true) ∧ s.now ≤ u.now ∧ s.out <+: u.out

/-- Frame of every command: exec answers a next state, and every part of the state that the command is not listed to touch is unchanged. Rests on 00_scope, 06_tile, 10_memory_system, 15_host_interface. -/
def Obligations.CommandsKeepOtherParts : Prop :=
  ∀ (c : Instr) (s : State), ∃ u, exec c s = .next u ∧ ∀ p, p ∉ c.touches → p.same s u

/-- State.reset is the module in power-on standby: every register at its reset value, memories empty, the tile map the identity. Rests on 00_scope, 06_tile, 18_clocks_power_startup. The model's own readings and choices in it: log entries 8, 9. -/
def Obligations.ResetState : Prop :=
  State.reset.canon = true ∧ State.reset.pending = [] ∧ State.reset.hubUp = false ∧ State.reset.pwr.on = false ∧ State.reset.pwr.stby = true ∧
  State.reset.hbm = [] ∧ State.reset.out = [] ∧ (∀ k, rdReg State.reset k = resetWord k) ∧
  (∀ n, tileAt State.reset n = {}) ∧ (∀ t < 64, phys State.reset t = 17 * (t / 16) + t % 16) ∧
  (∀ n < 68, (n % 17 < 16 → logicalOf State.reset n = some (16 * (n / 17) + n % 17)) ∧ (n % 17 = 16 → ptileState State.reset n = 1))

/-- A register access that is not a naturally aligned 32-bit one has no effect, and such a read returns all ones. Rests on R8. -/
def Obligations.AccessWidths : Prop :=
  ∀ (s : State) (hub : Bool) (off len : Nat) (v : Word), mayReach s hub = true → (len ≠ 4 ∨ off % 4 ≠ 0) →
    exec (.registerWrite hub off len v) s = .next s ∧
    ((barHalf s off).1 ≠ 2 → exec (.reg64LowRead hub off len) s = .next { s with hostResp := List.replicate len 0xFF }) ∧
    ((barHalf s off).1 = 2 → exec (.reg64HighRead hub off len) s = .next { s with hostResp := List.replicate len 0xFF })

/-- A register write changes the written register by its bits' access types and, where no action hangs on it, no other word. Rests on R5, R6, R7, R8. -/
def Obligations.RegisterWriteEffect : Prop :=
  ∀ (s : State) (hub : Bool) (off len : Nat) (v : Word), s.canon = true →
    (len ≠ 4 ∨ off % 4 ≠ 0 → exec (.registerWrite hub off len v) s = .next s) ∧
    (mayReach s hub = true → len = 4 → off % 4 = 0 → plainHub off = true →
      ∃ u, exec (.registerWrite hub off len v) s = .next u ∧ onlyWords [off] s u ∧
        rdReg u off = (match regOfKey off with | some d => writtenWord d (rdReg s off) v | none => rdReg s off)) ∧
    (∀ k, mayReach s hub = true → len = 4 → off % 4 = 0 → barWrite s hub off v = regWrite s k v →
      ∃ u, exec (.registerWrite hub off len v) s = .next u ∧ onlyWords [k] s u ∧
        rdReg u k = (match regOfKey k with | some d => writtenWord d (rdReg s k) v | none => rdReg s k))

/-- A read of a register returns its live word; a read of a low half latches the high half, and a read of the high half gives and drops it. Rests on R7, R8, R9. The model's own readings and choices in it: log entries 12. -/
def Obligations.RegisterReadEffect : Prop :=
  ∀ (s : State) (hub : Bool) (off : Nat), mayReach s hub = true → off % 4 = 0 → thrCounter s off = false →
    let key := 2 * (barHalf s off).2 + (if hub then 1 else 0)
    ((barHalf s off).1 ≠ 2 → ∃ u, exec (.reg64LowRead hub off 4) s = .next u ∧ u.hostResp = leBytes 4 (liveWord s off).toNat ∧ u.regs = s.regs ∧
      ((barHalf s off).1 = 1 → (u.latches.find? fun (p : Nat × Word) => decide (p.1 = key)) = some (key, liveWord s (off + 4)))) ∧
    ((barHalf s off).1 = 2 → ∃ u, exec (.reg64HighRead hub off 4) s = .next u ∧ u.regs = s.regs ∧
      u.hostResp = leBytes 4 (match s.latches.find? fun (p : Nat × Word) => decide (p.1 = key) with | some p => p.2 | none => liveWord s off).toNat ∧
      (u.latches.find? fun (p : Nat × Word) => decide (p.1 = key)) = none)

/-- The host's window into HBM writes and reads exactly the bytes at the window's base plus the offset. Rests on R441, R442, R444. The model's own readings and choices in it: log entries 15. -/
def Obligations.HbmWindowAccess : Prop :=
  ∀ (s : State) (size : Fin 6) (off : Nat) (data : List Byte), s.canon = true → hostUp s = true → data ≠ [] →
    off + data.length ≤ 2 ^ (36 + size.val) →
    let a := bar2Base s (36 + size.val) + off
    a + data.length ≤ hbmEnd → inReserve a data.length = false →
    (∃ u, exec (.bar2Access size off 0 (some data)) s = .next u ∧ hbmRead u a data.length = data ∧
      ∀ b, (b < a ∨ a + data.length ≤ b) → hbmRead u b 1 = hbmRead s b 1) ∧
    (∃ u, exec (.bar2Access size off data.length none) s = .next u ∧ u.hostResp = hbmRead s a data.length ∧ u.hbm = s.hbm)

/-- A write through the set alias ORs, one through the clear alias ANDs the complement, and a read through either returns the word. Rests on R176. -/
def Obligations.AliasAccess : Prop :=
  ∀ (s : State) (t : Fin 64) (o : Nat) (bs : List Byte) (k : Nat), s.canon = true → hostUp s = true →
    swf (fun _ => (0 : Byte)) (tileAt s (phys s t)).sett = true → k < 3 → o % 4 = 0 → bs.length % 4 = 0 → o + bs.length ≤ settSize →
    settOwned s (phys s t) 1 (k * 2 ^ 24 + o) bs.length = true →
    (∃ u, exec (.hostSettAccess t (k * 2 ^ 24 + o) 0 (some bs) false) s = .next u ∧
      (∀ i, ∀ h : i < bs.length, settByte (tileAt u (phys s t)) (o + i) =
        (match k with | 0 => bs[i] | 1 => settByte (tileAt s (phys s t)) (o + i) ||| bs[i] | _ => settByte (tileAt s (phys s t)) (o + i) &&& ~~~ bs[i])) ∧
      ∀ a, (a < o ∨ o + bs.length ≤ a) → settByte (tileAt u (phys s t)) a = settByte (tileAt s (phys s t)) a) ∧
    (∃ u, exec (.hostSettAccess t (k * 2 ^ 24 + o) bs.length none false) s = .next u ∧ u.tiles = s.tiles ∧ u.regs = s.regs ∧
      u.hostResp = (List.range bs.length).map fun i => settByte (tileAt s (phys s t)) (o + i))

/-- After every reset that reaches a tile the host owns port 0 of every bank, and port 1 of banks 0 to 3 has no owner. Rests on R170. -/
def Obligations.PortOwnersAfterReset : Prop :=
  (∀ (s : State) (n b : Nat), s.canon = true → n < 68 → b < 48 → sget (fun _ => (0 : Word)) s.fuses (tileBase n + R.SETT_OWN.off + 4 * b) = 0 →
    fld (resetTile s n) (tileBase n) (ownerFld b 0) = 1 ∧ (b < 4 → fld (resetTile s n) (tileBase n) (ownerFld b 1) = 0)) ∧
  (∀ n < 68, ∀ b < 48, fld State.reset (tileBase n) (ownerFld b 0) = 1 ∧ (b < 4 → fld State.reset (tileBase n) (ownerFld b 1) = 0))

/-- Port hand-overs, their completion, ownership timeouts, host sett accesses and write-gradient adds have the effects of the tile's rules. Rests on R171, R172, R173, R174, R177, R183. The model's own readings and choices in it: log entries 22. -/
def Obligations.SettPortEvents : Prop :=
  ∀ (s : State) (t : Fin 64), s.canon = true →
    let n := phys s t
    let tb := tileBase n
    (∀ (b : Fin 48) (w : Word), hostUp s = true → ∃ u, exec (.settHandover t b w) s = .next u ∧
      onlyWords [tb + (ownerFld b 0).off, tb + R.SETT_STATUS.off] s u ∧ ∀ p, p = 0 ∨ (p = 1 ∧ b.val < 4) →
        let o := w.toNat / 256 ^ p % 16
        (6 < o → fld u tb R.SETT_STATUS_BAD_OWNER = 1 ∧ fld u tb (ownerFld b p) = fld s tb (ownerFld b p) ∧ fld u tb (pendFld b p) = fld s tb (pendFld b p)) ∧
        (o ≤ 6 → fld u tb (ownerFld b p) = o ∧ fld u tb (pendFld b p) = if o = fld s tb (ownerFld b p) then fld s tb (pendFld b p) else 1)) ∧
    (∀ (b : Fin 48) (p : Fin 2), fld s tb (pendFld b p) ≠ 0 → fldOn s tb R.CAL_STATUS_HOLD_WAIT = false →
      ∃ u, exec (.handoverComplete t b p) s = .next u ∧ fld u tb (pendFld b p) = 0 ∧
        fld u tb R.SETT_HANDOVER_CNT = min (fld s tb R.SETT_HANDOVER_CNT + 1) (2 ^ 32 - 1) ∧
        onlyWords [tb + (pendFld b p).off, tb + R.SETT_HANDOVER_CNT.off] s u) ∧
    (∀ (unit : Fin 16) (w : Nat × Nat × Bool), w ∈ (tileAt s n).ownWait → w.1 = unit.val → w.2.2 = false →
      w.2.1 + max 1 (fld s tb R.SETT_CTRL_STALL_LIM) * tcUs ≤ s.now →
      ∃ u, exec (.ownTimeout t unit) s = .next u ∧ fld u tb R.SETT_STATUS_OWN_TIMEOUT = 1 ∧ onlyWords [tb + R.SETT_STATUS.off] s u) ∧
    (∀ (off : Nat) (bs : List Byte), hostUp s = true → settKind (off % 2 ^ 26) ≠ 3 → settOwned s n 1 (off % 2 ^ 26) bs.length = true →
      ∃ u, exec (.hostSettAccess t off 0 (some bs) false) s = .next u ∧ tileAt u n = settPutTile (tileAt s n) (off % 2 ^ 26) bs) ∧
    (∀ (off len : Nat), hostUp s = true → settKind (off % 2 ^ 26) ≠ 3 → settOwned s n 1 (off % 2 ^ 26) len = true →
      ∃ u, exec (.hostSettAccess t off len none false) s = .next u ∧ u.hostResp = settRead (tileAt s n) (off % 2 ^ 26) len ∧
        u.regs = s.regs ∧ u.tiles = s.tiles) ∧
    (∀ (v : List (Nat × Word)) (j : Nat) (slot : Nat) (vs : List Word) (rest : List (Nat × Nat × List Word)), (tileAt s n).wgbPend = (j, slot, vs) :: rest →
      ∃ u, exec (.wgbAdd t v) s = .next u ∧
        (tileAt u n).wgb = (wgbAddAll (tileAt s n) (slotAdds slot vs ++ v.filter fun q => decide (q.1 < 1048576))).1.wgb ∧ (tileAt u n).wgbPend = rest)

/-- A group in which every value is zero gets scale 0x7F and all-zero codes. Rests on R48. The model's own readings and choices in it: log entries 25. -/
def Obligations.ZeroGroupScale : Prop :=
  ∀ (f : Fmt) (rs : List Rnd) (vals : List FVal), fmtIsBlock f = true → (∀ v ∈ vals, ∃ neg, v = .zero neg) →
    encodeGroup f none rs vals = (0x7F, List.replicate vals.length 0, {})

/-- Decoding the 32 bytes of every well-formed stream command gives that command back, with every operand at every value. Rests on R260, R261, R266, 09_command_streams. -/
def Obligations.StreamCommandsDecode : Prop :=
  ∀ c : SeqCmd, c.wf = true → (encodeSeq c).length = 32 ∧ fieldLe (encodeSeq c) 2 2 = cmdCrc (encodeSeq c) ∧ decodeSeq (encodeSeq c) = (0, c)

/-- Every 32 bytes that decode are the fields of a well-formed command; an unknown opcode and a bad field are refused by their codes. Rests on R260, R262, R266. -/
def Obligations.StreamDecodeRefuses : Prop :=
  ∀ bs : List Byte, bs.length = 32 →
    (∀ c, decodeSeq bs = (0, c) → c.wf = true ∧ fieldLe bs 0 1 = opcodeOf c ∧ fieldLe bs 1 1 = 0 ∧ (List.range 7).all (fun i => decide (fieldLe bs (4 * i + 4) 4 = (operandWords c).getD i 0)) = true) ∧
    ((∀ c : SeqCmd, fieldLe bs 0 1 ≠ opcodeOf c) → decodeSeq bs = (stOpcode, .nop)) ∧
    ((∃ c : SeqCmd, fieldLe bs 0 1 = opcodeOf c) → (decodeSeq bs).1 ≠ 0 → decodeSeq bs = (stField, .nop))

/-- When a stream's head command issues, waits or fails, by the order of the checks, and what a wait, a failure or a barrier leaves. Rests on R125, R166, R259, R262, R271, R279, R284, R285. The model's own readings and choices in it: log entries 38. -/
def Obligations.HeadCommandsAreJudged : Prop :=
  (
  ∀ (s : State) (n : Nat) (c : SeqCmd) (f : Fetched) (rest : List Fetched), (tileAt s n).fetched = f :: rest → f.cmd = c → f.status = 0 →
    let x := tileAt s n
    let runs := seqState s n = sqRunning ∧ fld s (tileBase n) R.ACC_ESC_STATE_REWIND = 0
    let badLaunch := x.launchSet ≠ none ∧ (∀ o, c ≠ .fire o) ∧ (∀ o, c ≠ .tfire o) ∧ ∀ m, c ≠ .swap m
    let full := ∃ u, (unitsOf c).head? = some u ∧ 32 ≤ queueLen x u
    let badOrder := x.micro.nonRep = true ∧ ((∃ o, c = .fire o) ∨ (∃ o, c = .tfire o) ∨ ∃ o, c = .vdisp o ∧ o.drive = true)
    let atBarrier := x.micro.fired = true ∧ ((nonRepeatable c = true ∧ x.micro.nonRep = false) ∨ ∃ o, c = .mark o)
    (¬ runs → judgeHead s n c = .hold) ∧
    (runs → badLaunch → judgeHead s n c = .fail stLaunch f.idx) ∧
    (runs → ¬ badLaunch → full → judgeHead s n c = .hold) ∧
    (runs → ¬ badLaunch → ¬ full → badOrder → judgeHead s n c = .fail stOrder f.idx) ∧
    (runs → ¬ badLaunch → ¬ full → ¬ badOrder → atBarrier → judgeHead s n c = .barrier) ∧
    (runs → ¬ badLaunch → ¬ full → ¬ badOrder → ¬ atBarrier → judgeHead s n c = .go f)) ∧
  (
  ∀ (s : State) (t : Fin 64) (c : SeqCmd), s.canon = true →
    let n := phys s t
    (heldBack s n c = true → exec (cmdInstr t c) s = .next s) ∧
    (judgeHead s n c = .hold → exec (cmdInstr t c) s = .next s) ∧
    (∀ st idx, heldBack s n c = false → judgeHead s n c = .fail st idx →
      ∃ u, exec (cmdInstr t c) s = .next u ∧ haltedAt s u n st idx ∧ fld u (tileBase n) R.TILE_SEQ_PTR_PTR = idx % 2 ^ 24 ∧
        fld u (tileBase n) R.TILE_CMD_CNT_COUNT = fld s (tileBase n) R.TILE_CMD_CNT_COUNT ∧ (tileAt u n).issued = (tileAt s n).issued) ∧
    (heldBack s n c = false → judgeHead s n c = .barrier →
      ∃ u, exec (cmdInstr t c) s = .next u ∧ u.regs = s.regs ∧ (tileAt u n).fetched = (tileAt s n).fetched ∧
        (tileAt u n).micro.barrierFrom = some ((tileAt s n).micro.barrierFrom.getD s.now)) ∧
    (∀ f st, judgeHead s n c = .go f → heldBack s n c = false →
      ((∃ o, c = .pwrite o ∧ pwriteFault s n o = some st) ∨ (∃ m, c = .swap m ∧ swapFault s n m = some st) ∨
        (∃ o, (c = .fire o ∨ c = .tfire o) ∧ fireFault s n o.mask = some st) ∨ (∃ b, c = .missue b ∧ ownsBkt s b = false ∧ st = stNotOwner)) →
      ∃ u, exec (cmdInstr t c) s = .next u ∧ haltedAt s u n st f.idx ∧ fld u (tileBase n) R.TILE_SEQ_PTR_PTR = f.idx % 2 ^ 24 ∧
        fld u (tileBase n) R.TILE_CMD_CNT_COUNT = fld s (tileBase n) R.TILE_CMD_CNT_COUNT ∧ (tileAt u n).issued = (tileAt s n).issued))

/-- NOP, LAUNCH, FENCE, WAIT, SIGNAL, SIGCLR, SETVER and SETTOWN have their effects, and change no other register word. Rests on R265, R266, R267, R271, R280, R281. The model's own readings and choices in it: log entries 39. -/
def Obligations.SequencerOwnCommands : Prop :=
  ∀ (s : State) (t : Fin 64) (f : Fetched), s.canon = true →
    let n := phys s t
    let tb := tileBase n
    let x := tileAt s n
    (issues s t .nop f → ∃ u, exec (.nop t) s = .next u ∧ took s u n ∧ onlyWords (tileWords n [R.TILE_CMD_CNT]) s u ∧
      u.hbm = s.hbm ∧ u.sigs = s.sigs ∧ (tileAt u n).issued = x.issued) ∧
    (∀ o : LaunchOp, issues s t (.launch o) f → ∃ u, exec (.launch t o) s = .next u ∧ took s u n ∧ (tileAt u n).launchSet = some o ∧
      onlyWords (tileWords n [R.TILE_CMD_CNT]) s u) ∧
    (∀ units : Nat, issues s t (.fence units) f → ∃ u, exec (.fence t units) s = .next u ∧ took s u n ∧
      onlyWords (tileWords n [R.TILE_CMD_CNT, R.TILE_SEQ_STATUS]) s u ∧
      ((x.issued.any fun i => inUnits units i.cmd && decide (i.no < x.nextNo)) = false → seqState u n = sqRunning ∧ (tileAt u n).seqWait = x.seqWait) ∧
      ((x.issued.any fun i => inUnits units i.cmd && decide (i.no < x.nextNo)) = true →
        seqState u n = sqWaiting ∧ (tileAt u n).seqWait = some (.fence units x.nextNo f.idx) ∧ (tileAt u n).waitFrom = s.now)) ∧
    (∀ o : WaitOp, o.wf = true → issues s t (.wait o) f → ∃ u, exec (.wait t o) s = .next u ∧ took s u n ∧
      onlyWords (tileWords n [R.TILE_CMD_CNT, R.TILE_SEQ_STATUS]) s u ∧
      (o.value ≤ fld s tb (fldAt R.TILE_SIG_COUNT o.ctr) → seqState u n = sqRunning ∧ (tileAt u n).seqWait = x.seqWait) ∧
      (fld s tb (fldAt R.TILE_SIG_COUNT o.ctr) < o.value →
        seqState u n = sqWaiting ∧ (tileAt u n).seqWait = some (.wait o.ctr o.value f.idx) ∧ (tileAt u n).waitFrom = s.now)) ∧
    (∀ o : SignalOp, issues s t (.signal o) f → ∃ u, exec (.signal t o) s = .next u ∧ took s u n ∧ onlyWords (tileWords n [R.TILE_CMD_CNT]) s u ∧
      let all := x.sigWait ++ [(x.nextNo, o)]
      (tileAt u n).sigWait = (all.filter fun w => unitsBusy x w.2.after w.1) ∧
      u.sigs = s.sigs ++ (all.filter fun w => !unitsBusy x w.2.after w.1).map fun w => { tile := w.2.tile, ctr := w.2.ctr, inc := w.2.inc }) ∧
    (∀ ctr < 16, issues s t (.sigclr ctr) f → ∃ u, exec (.sigclr t ctr) s = .next u ∧ took s u n ∧
      fld u tb (fldAt R.TILE_SIG_COUNT ctr) = 0 ∧ onlyWords (tileWords n [R.TILE_CMD_CNT, fldAt R.TILE_SIG_COUNT ctr]) s u) ∧
    (∀ o : SetverOp, o.wf = true → issues s t (.setver o) f → ∃ u, exec (.setver t o) s = .next u ∧ took s u n ∧
      onlyWords (tileWords n [R.TILE_CMD_CNT, R.TILE_SEQ_VER] ++ [tb + R.TILE_SEQ_VER.off + 4]) s u ∧
      ((x.micro.setvers.find? fun p => decide (p.1 = f.idx)) = none →
        fld u tb R.TILE_SEQ_VER_VERSION = (if o.committed then fld s 0 R.XCH_COMMITTED else o.ver)) ∧
      (∀ v, (x.micro.setvers.find? fun p => decide (p.1 = f.idx)) = some (f.idx, v) → fld u tb R.TILE_SEQ_VER_VERSION = v % 2 ^ 64)) ∧
    (∀ o : SettownOp, o.wf = true → issues s t (.settown o) f → ∃ u, exec (.settown t o) s = .next u ∧ took s u n ∧
      onlyWords (tileWords n [R.TILE_CMD_CNT, ownerFld o.bank o.port, R.SETT_STATUS]) s u ∧
      (6 < o.owner → fld u tb R.SETT_STATUS_BAD_OWNER = 1 ∧ fld u tb (ownerFld o.bank o.port) = fld s tb (ownerFld o.bank o.port)) ∧
      (o.owner ≤ 6 → fld u tb (ownerFld o.bank o.port) = o.owner ∧ (fld s tb (ownerFld o.bank o.port) ≠ o.owner → fld u tb (pendFld o.bank o.port) = 1)))

/-- Fetching with CRC retries, signals, barriers, run, stop, resume, skip and the long-command limit of a tile's sequencer. Rests on R125, R258, R259, R262, R266, R285, R288. The model's own readings and choices in it: log entries 40. -/
def Obligations.SequencerFlow : Prop :=
  ∀ (s : State) (t : Fin 64), s.canon = true →
    let n := phys s t
    let tb := tileBase n
    let x := tileAt s n
    let ptr := fld s tb R.TILE_SEQ_PTR_PTR
    let len := fld s tb R.TILE_SEQ_LEN_LEN
    let bs := hbmRead s (fld s tb R.TILE_SEQ_BASE_ADDR * 64 + 32 * ptr) 32
    (∀ (bad : Fin 4) (par : Fin 10), fld s tb R.TILE_SEQ_CTRL_RUN = 1 → (seqState s n = sqRunning ∨ seqState s n = sqWaiting) → 2 ≤ len →
      ptr ≠ fld s tb R.TILE_SEQ_TAIL_TAIL → x.fetched.length < 256 → (∀ f ∈ x.fetched, f.status = 0) →
      let wrong := if fieldLe bs 2 2 = cmdCrc bs then min 3 (bad.val + par.val / 3) else 3
      (x.fetched = [] → wrong < 3 ∧ (fetchEntry s n ptr bs).status = 0) →
      ∃ u f, exec (.commandFetch t bad par) s = .next u ∧ (tileAt u n).fetched = x.fetched ++ [f] ∧ f.idx = ptr ∧
        (wrong = 3 → f.status = stCrc) ∧ (wrong < 3 → f = fetchEntry s n ptr bs) ∧
        fld u tb R.TILE_SEQ_PTR_PTR = (ptr + 1) % len ∧
        fld u tb R.TILE_CRC_RETRY_COUNT = min (fld s tb R.TILE_CRC_RETRY_COUNT + min wrong 2) (2 ^ 32 - 1) ∧
        fld u 0 R.OWL_PAR_RETRY = min (fld s 0 R.OWL_PAR_RETRY + (par.val - par.val / 3)) (2 ^ 32 - 1) ∧
        fld u 0 R.OWL_PAR_FAIL = min (fld s 0 R.OWL_PAR_FAIL + par.val / 3) (2 ^ 32 - 1) ∧ (3 ≤ par.val → fld u 0 R.OWL_STATUS_PAR_FAIL = 1) ∧
        (par.val < 3 → onlyWords (tileWords n [R.TILE_SEQ_PTR, R.TILE_CRC_RETRY] ++ [R.OWL_PAR_RETRY.off]) s u)) ∧
    (fld s tb R.TILE_SEQ_CTRL_RUN = 1 → (seqState s n = sqRunning ∨ seqState s n = sqWaiting) → 2 ≤ len → ptr ≠ fld s tb R.TILE_SEQ_TAIL_TAIL →
      x.fetched = [] → fieldLe bs 2 2 ≠ cmdCrc bs →
      ∃ u, exec (.commandFetch t 0 0) s = .next u ∧ seqState u n = sqHalted ∧ (tileAt u n).fetched = [] ∧ fld u tb R.TILE_SEQ_PTR_PTR = ptr ∧
        fld u tb R.TILE_SEQ_FAIL_STATUS = stCrc ∧ fld u tb R.TILE_SEQ_FAIL_INDEX = ptr ∧ fld u tb R.TILE_SEQ_STATUS_HALT = 1 ∧
        fld u tb R.TILE_CMD_FAIL_COUNT = min (fld s tb R.TILE_CMD_FAIL_COUNT + 1) (2 ^ 32 - 1)) ∧
    (∀ m : SigMsg, (s.sigs.find? fun m => decide (m.tile = t.val)) = some m → m.ctr < 16 →
      ∃ u, exec (.signalArrive t) s = .next u ∧ u.sigs = s.sigs.erase m ∧
        fld u tb (fldAt R.TILE_SIG_COUNT m.ctr) = min (fld s tb (fldAt R.TILE_SIG_COUNT m.ctr) + m.inc) (2 ^ 32 - 1) ∧
        (x.seqWait = none → onlyWords (tileWords n [fldAt R.TILE_SIG_COUNT m.ctr]) s u)) ∧
    (∀ (m : SigMsg) (v idx : Nat), (s.sigs.find? fun m => decide (m.tile = t.val)) = some m → m.ctr < 16 → seqState s n = sqWaiting →
      x.seqWait = some (.wait m.ctr v idx) → v ≤ min (fld s tb (fldAt R.TILE_SIG_COUNT m.ctr) + m.inc) (2 ^ 32 - 1) →
      (∀ f ∈ x.fetched.head?, f.status = 0) →
      ∃ u, exec (.signalArrive t) s = .next u ∧ seqState u n = sqRunning ∧ (tileAt u n).seqWait = none ∧
        fld u tb R.TILE_WAIT_TC_COUNT = min (fld s tb R.TILE_WAIT_TC_COUNT + (s.now - x.waitFrom)) (2 ^ 32 - 1)) ∧
    (∀ t0 : Nat, x.micro.barrierFrom = some t0 → fld s tb R.ACC_ESC_STATE_REWIND = 0 →
      (∀ p ∈ x.arrs, p.2.run = none ∧ p.2.fox = [] ∧ ∀ o ∈ p.2.ops, ∀ r, o ≠ .fire r) →
      ∃ u, exec (.checkBarrierEnd t) s = .next u ∧ (tileAt u n).micro.fired = false ∧ (tileAt u n).micro.barrierFrom = none ∧
        fld u tb R.ACC_MARK_WAIT_COUNT = min (fld s tb R.ACC_MARK_WAIT_COUNT + (s.now - t0) / 4) (2 ^ 32 - 1) ∧
        onlyWords (tileWords n [R.ACC_MARK_WAIT]) s u) ∧
    (hostUp s = true → seqState s n = sqStopped → ∃ u, exec (.seqRun t true) s = .next u ∧ seqState u n = sqRunning ∧
      fld u tb R.TILE_SEQ_CTRL_RUN = 1 ∧ onlyWords (tileWords n [R.TILE_SEQ_CTRL, R.TILE_SEQ_STATUS]) s u) ∧
    (hostUp s = true → seqState s n ≠ sqHalted → ∃ u, exec (.seqRun t false) s = .next u ∧ seqState u n = sqStopped ∧
      fld u tb R.TILE_SEQ_CTRL_RUN = 0 ∧ (tileAt u n).fetched = [] ∧
      fld u tb R.TILE_SEQ_PTR_PTR = (match x.fetched with | f :: _ => f.idx % 2 ^ 24 | [] => ptr)) ∧
    (∀ skip : Bool, hostUp s = true → seqState s n = sqHalted → 2 ≤ len →
      ∃ u, exec (if skip then .seqSkip t else .seqResume t) s = .next u ∧
        seqState u n = (if fld s tb R.TILE_SEQ_CTRL_RUN = 1 then sqRunning else sqStopped) ∧
        fld u tb R.TILE_SEQ_PTR_PTR = (if skip then (ptr + 1) % len else ptr) ∧
        onlyWords (tileWords n [R.TILE_SEQ_PTR, R.TILE_SEQ_STATUS]) s u) ∧
    (x.seqWait ≠ none → x.waitLong = false → x.waitFrom + cmdLim s n ≤ s.now → ∃ u, exec (.seqLong t none) s = .next u ∧
      (tileAt u n).waitLong = true ∧ fld u tb R.TILE_SEQ_STATUS_LONG = 1 ∧ seqState u n = seqState s n ∧
      fld u tb R.TILE_LONG_CNT_COUNT = min (fld s tb R.TILE_LONG_CNT_COUNT + 1) (2 ^ 32 - 1) ∧
      onlyWords (tileWords n [R.TILE_LONG_CNT, R.TILE_SEQ_STATUS]) s u) ∧
    (∀ i : Issued, i ∈ x.issued → i.long = false → i.t0 + cmdLim s n ≤ s.now → ∃ u, exec (.seqLong t (some i.no)) s = .next u ∧
      (tileAt u n).issued = (x.issued.map fun j => if j.no = i.no then { j with long := true } else j) ∧
      fld u tb R.TILE_SEQ_STATUS_LONG = 1 ∧ onlyWords (tileWords n [R.TILE_LONG_CNT, R.TILE_SEQ_STATUS]) s u)

/-- MARK saves the rewind point, opens a micro-batch, and changes no other register word. Rests on R123, R129, R227, R282. The model's own readings and choices in it: log entries 41. -/
def Obligations.MarkOpensMicroBatch : Prop :=
  ∀ (s : State) (t : Fin 64) (f : Fetched) (o : MarkOp), s.canon = true → o.wf = true → issues s t (.mark o) f →
    let n := phys s t
    let tb := tileBase n
    let x := tileAt s n
    (fld s tb R.ACC_ESC_STATE_WIDE_RUN = 0 → isHeld s n o.markId = false →
      ∃ u, exec (.mark t o) s = .next u ∧ took s u n ∧
        (tileAt u n).mark = some { idx := f.idx, op := o, ver := seqVer s n, arrs := (List.range 16).map (arrMark s n), rng := rngOf s n } ∧
        (tileAt u n).micro = { held := false } ∧ (tileAt u n).arrs = x.arrs ∧
        fld u tb R.TILE_SEQ_MARKPTR_MARK = f.idx % 2 ^ 24 ∧ fld u tb R.ACC_ESC_STATE_MARK_ID = o.markId ∧ fld u tb R.ACC_ESC_STATE_HR_OFS = 0 ∧
        fld u tb R.ACC_ESC_STATE_DMODE = 0 ∧ fld u tb R.ACC_ESC_STATE_REPLAYS = 0 ∧ fld u tb R.ACC_ESC_STATE_WIDE_RUN = 0 ∧
        onlyWords (tileWords n [R.TILE_CMD_CNT, R.TILE_SEQ_MARKPTR, R.ACC_ESC_STATE]) s u)

/-- FLUSH, DMEOP, VDISP, WGCLR, WGFLUSH, XCLOSE, MISSUE and GRPUPD enter their unit's queue; the oldest command of a unit works and leaves. Rests on R186, R229, R265, R266, R272, R273, R274, R277, R278, R279. The model's own readings and choices in it: log entries 60. -/
def Obligations.UnitCommandsQueueAndEnd : Prop :=
  (
  (∀ (s : State) (t : Fin 64) (c : SeqCmd) (i : Instr) (f : Fetched), s.canon = true → queued t c = some i → issues s t c f →
    (∀ b, c = .missue b → ownsBkt s b = true) →
    let n := phys s t
    ∃ u, exec i s = .next u ∧ took s u n ∧ onlyWords (tileWords n [R.TILE_CMD_CNT]) s u ∧ u.hbm = s.hbm ∧
      (tileAt u n).issued = (tileAt s n).issued ++ [{ no := (tileAt s n).nextNo, idx := f.idx, cmd := c, descs := f.descs, ver := seqVer s n, t0 := s.now,
                                                       ran := false, fin := false, long := false }] ∧
      (tileAt u n).micro.nonRep = ((tileAt s n).micro.nonRep || nonRepeatable c)) ∧
  (∀ (s : State) (t : Fin 64) (o : DmeOp) (f : Fetched), s.canon = true → dmeFeed o ≠ 0 → issues s t (.dmeop o) f →
    let n := phys s t
    let x := tileAt s n
    let w : FeedUse := { no := x.nextNo, need := dmeFeed o, arrs := [] }
    exec (.dmeop t o) s = .next (settleHead (feedJoin (popIssue s n f).1 n w) n) ∧
    (x.feedQ = [] → ∃ u, exec (.dmeop t o) s = .next u ∧ took s u n ∧ onlyWords (tileWords n [R.TILE_CMD_CNT]) s u ∧ u.hbm = s.hbm ∧
      (tileAt u n).issued = x.issued ++ [{ no := x.nextNo, idx := f.idx, cmd := .dmeop o, descs := f.descs, ver := seqVer s n, t0 := s.now,
                                           ran := false, fin := false, long := false }] ∧
      (tileAt u n).feedQ = [w] ∧ (tileAt u n).taken = x.taken ++ (x.feed.take (dmeFeed o - x.taken.length)).map (·.bytes) ∧
      (tileAt u n).feed = x.feed.drop (dmeFeed o - x.taken.length)))) ∧
  (
  ∀ (s : State) (t : Fin 64) (unit : Fin 7) (i : Issued) (res : List (Nat × Nat)) (bad : List Nat), s.canon = true →
    let n := phys s t
    let x := tileAt s n
    unitHead x unit = some i → issuedOf x i.no = some i →
    -- work that has ended: the command leaves its queue
    (i.ran = true ∨ i.fin = true → issuedDone x i = true → ∃ u, exec (.commandComplete t unit res bad) s = .next u ∧
      (tileAt u n).issued = (x.issued.filter fun k => decide (k.no ≠ i.no)) ∧ u.hbm = s.hbm ∧ (tileAt u n).sett = x.sett) ∧
    (i.ran = true ∨ i.fin = true → issuedDone x i = false → exec (.commandComplete t unit res bad) s = .next s) ∧
    -- WGCLR clears its slots once the adds before it are applied
    (∀ o : WgclrOp, i.cmd = .wgclr o → i.ran = false → i.fin = false → addsDone x i.no = true → ∃ u, exec (.commandComplete t unit res bad) s = .next u ∧
      (tileAt u n).wgb = (x.wgb.filter fun p => decide (p.1 < o.slot) || decide (o.slot + o.count ≤ p.1)) ∧
      (tileAt u n).issued.map (·.no) = (x.issued.filter fun k => decide (k.no ≠ i.no)).map (·.no)) ∧
    -- VDISP starts its kernel
    (∀ o : VdispOp, i.cmd = .vdisp o → i.ran = false → i.fin = false → x.vu.run = false →
      (x.issued.any fun j => decide (j.no < i.no) && !j.fin && (match j.cmd with | .kload _ => true | _ => false)) = false →
      o.entry < 8192 → vuOpcodes.contains ((imemAt x.vu o.entry).toNat / 2 ^ 57) = true →
      ∃ u, exec (.commandComplete t unit res bad) s = .next u ∧
        let v := (tileAt u n).vu
        v.run = true ∧ v.pc = o.entry ∧ v.no = i.no ∧ v.drive = o.drive ∧ v.v = [] ∧ v.p = [] ∧ v.loops = [] ∧ v.imem = x.vu.imem ∧
        sGet v 1 = BitVec.ofNat 32 o.arg1 ∧ sGet v 2 = BitVec.ofNat 32 o.arg2 ∧ sGet v 3 = BitVec.ofNat 32 o.arg3 ∧ sGet v 4 = BitVec.ofNat 32 o.arg4))

/-- LOAD, KLOAD, STORE and PWRITE become a job of the tile's streamer with one request for each block. Rests on R69, R269, R274, R275, R276, R298, R301. The model's own readings and choices in it: log entries 30. -/
def Obligations.StreamerCommandsQueue : Prop :=
  ∀ (s : State) (t : Fin 64) (f : Fetched), s.canon = true →
    let n := phys s t
    let x := tileAt s n
    let ver := seqVer s n
    let job (kind : JobKind) (write : Bool) (v : Option Nat) (dst : Nat) (blks : List BlkReq) : StrJob :=
      { id := x.nextJob, no := some x.nextNo, kind := kind, write := write, ver := v, settDst := dst, blks := blks }
    (∀ o : LoadOp, issues s t (.load o) f →
      ∃ u, exec (.load t o) s = .next u ∧ took s u n ∧ issuedNow s u n f (decide (o.count = 0)) ∧ onlyWords (tileWords n [R.TILE_CMD_CNT]) s u ∧
        (tileAt u n).jobs = x.jobs ++ if o.count = 0 then [] else
          [job (.load o) false (if o.vchk then some (ver % 2 ^ 48) else none) o.settAddr (descBlks s (descOr f.descs o.desc) ver o.block0 o.count 0)]) ∧
    (∀ o : KloadOp, issues s t (.kload o) f →
      ∃ u, exec (.kload t o) s = .next u ∧ took s u n ∧ issuedNow s u n f false ∧ onlyWords (tileWords n [R.TILE_CMD_CNT]) s u ∧
        (tileAt u n).jobs = x.jobs ++ [job (.kload o) false none 0 (descBlks s (descOr f.descs o.desc) ver o.block0 o.count 0)]) ∧
    (∀ o : StoreOp, issues s t (.store o) f →
      let d := descOr f.descs o.desc
      ∃ u, exec (.store t o) s = .next u ∧ took s u n ∧ issuedNow s u n f (decide (o.count = 0)) ∧ onlyWords (tileWords n [R.TILE_CMD_CNT]) s u ∧
        (tileAt u n).jobs = x.jobs ++ if o.count = 0 then [] else
          [job (.store o) true (some ver) o.settAddr
            ((List.range o.count).map fun i => newBlk i (blkAddr d (o.block0 + i)) d.sett d.tid (o.block0 + i) d.fmt d.layout)]) ∧
    (∀ o : PwriteOp, o.wf = true → issues s t (.pwrite o) f → swapWaits s n o.array = false → pwriteFault s n o = none →
      ∃ u, exec (.pwrite t o) s = .next u ∧ took s u n ∧ issuedNow s u n f false ∧
        onlyWords (tileWords n [R.TILE_CMD_CNT] ++ [arrBase n o.array + R.ARR_STATE.off]) s u ∧
        ((arrAt x o.array).job.isSome = true →
          (tileAt u n).jobs = x.jobs ++ [job (.pwrite o) false (some (ver % 2 ^ 48)) 0 (pwriteBlks s o f.descs ver)] ∧ u.regs = (popIssue s n f).1.regs) ∧
        ((arrAt x o.array).job = none → (∀ j ∈ x.jobs, ∀ q, j.kind = .pwrite q → q.array ≠ o.array) → arrWide s n o.array = false →
          planeState s n o.array o.planeB ≠ psActive → planeState u n o.array o.planeB = psStaging))

/-- The streamer's next read goes to the memory controllers of its regions, or is served from sett memory. Rests on R295, R298, R301, R306. The model's own readings and choices in it: log entries 45. -/
def Obligations.StreamerIssues : Prop :=
  ∀ (s : State) (t : Fin 64) (j : StrJob) (b : BlkReq) (pf : Bool), s.canon = true →
    let n := phys s t
    let tb := tileBase n
    let x := tileAt s n
    strPick s n (strOrder x) = .go j b pf → j.write = false →
    (b.sett = false → ((x.jobs.flatMap (·.blks)).filter holdsSlot).length < 48 →
      ∃ u, exec (.streamerIssue t) s = .next u ∧
        blkChanged s u n j.id b.k (fun y => { y with phase := .flight, parts := (regionParts b.addr b.len).length, pf := pf, pois := false, epochs := [],
                                                     tIssue := s.now, data := List.replicate b.len 0 }) ∧
        fld u tb R.STR_RD_REQ_COUNT = min (fld s tb R.STR_RD_REQ_COUNT + 1) (2 ^ 32 - 1) ∧
        ∀ p ∈ regionParts b.addr b.len, ∃ r ∈ (mcAt u (stackOf p.1)).net,
          r.addr = p.1 ∧ r.len = p.2 ∧ r.write = false ∧ r.src = n ∧ r.dests = [(n, j.id, b.k)]) ∧
    (b.sett = true → ∃ u, exec (.streamerIssue t) s = .next u ∧ u.hbm = s.hbm ∧ u.mcs = s.mcs ∧
      blkChanged s u n j.id b.k (fun y => { y with phase := .served, data := settRead (tileAt (ownWaitEnd s n 2) n) b.addr b.len, parts := 0,
                                                   tIssue := s.now, tServe := s.now }) ∧
      fld u tb R.STR_RD_REQ_COUNT = min (fld s tb R.STR_RD_REQ_COUNT + 1) (2 ^ 32 - 1))

/-- Returned blocks are checked and retried, torn versions reread, writes acknowledged and prefetched blocks probed. Rests on R25, R298, R308, R309, R395, R410. The model's own readings and choices in it: log entries 44. -/
def Obligations.StreamerBlocks : Prop :=
  ∀ (s : State) (t : Fin 64) (j : StrJob) (b : BlkReq), s.canon = true →
    let n := phys s t
    let tb := tileBase n
    let x := tileAt s n
    jobOf x j.id = some j → (j.blks.find? fun c => decide (c.k = b.k)) = some b →
    -- a returned block of a read
    (j.write = false → b.phase = .served →
      (b.pf = true → ∃ u, exec (.blockReturn t j.id b.k 0) s = .next u ∧ u.regs = s.regs ∧ blkChanged s u n j.id b.k (fun y => { y with phase := .held })) ∧
      (b.pf = false → isHead x j.id = true → b.checked = false → b.pois = false →
        (returnCheck j b false ≠ 0 → b.att < 2 → ∃ u, exec (.blockReturn t j.id b.k 0) s = .next u ∧
          blkChanged s u n j.id b.k (fun y => { y with phase := .wait, att := y.att + 1 }) ∧
          fld u 0 R.OWL_BLK_RETRY_COUNT = min (fld s 0 R.OWL_BLK_RETRY_COUNT + 1) (2 ^ 32 - 1)) ∧
        (returnCheck j b false = 0 → versionWrong j b = true → b.torn < fld s 0 R.XCH_PARAM3_TORN_RETRIES →
          ∃ u, exec (.blockReturn t j.id b.k 0) s = .next u ∧ blkChanged s u n j.id b.k (fun y => { y with phase := .torn, tTorn := s.now })) ∧
        (returnCheck j b false = 0 → versionWrong j b = false →
          let lat := min ((s.now - b.tIssue) / 2) 0xFFFF
          let s1 := if !b.sett && decide (fld s tb R.STR_LAT_MAX_MC_CLKS < lat) then setFld s tb R.STR_LAT_MAX_MC_CLKS lat else s
          let b1 := { b with checked := true }
          exec (.blockReturn t j.id b.k 0) s = .next (deliver (modBlk s1 n j.id b.k fun y => { y with checked := true }) n
            { j with blks := j.blks.map fun y => if y.k = b.k then b1 else y } b1)))) ∧
    (b.phase = .torn → b.tTorn + clampN 1 1000 (fld s 0 R.XCH_PARAM3_TORN_WAIT) * tcUs ≤ s.now →
      ∃ u, exec (.tornReread t j.id b.k) s = .next u ∧ blkChanged s u n j.id b.k (fun y => { y with phase := .wait, torn := y.torn + 1 }) ∧
        fld u 0 R.XCH_TORN_RETRY_COUNT = min (fld s 0 R.XCH_TORN_RETRY_COUNT + 1) (2 ^ 32 - 1)) ∧
    -- an acknowledged write
    (j.write = true → b.phase = .served → s.ledger = 0 →
      ((∃ c ∈ j.blks, c.k ≠ b.k ∧ c.phase ≠ .done) →
        ∃ u, exec (.writeAck t j.id b.k) s = .next u ∧ blkChanged s u n j.id b.k (fun y => { y with phase := .done })) ∧
      (∀ (no : Nat) (o : StoreOp), (∀ c ∈ j.blks, c.k = b.k ∨ c.phase = .done) → j.no = some no → j.kind = .store o →
        ∃ u, exec (.writeAck t j.id b.k) s = .next u ∧ (∀ i ∈ (tileAt u n).jobs, i.id ≠ j.id) ∧
          (tileAt u n).issued = x.issued.map fun i => if i.no = no then { i with ran := true, fin := true } else i)) ∧
    -- the probe of the head command's prefetched blocks
    ((x.jobs.find? fun i => i.no.isSome) = some j →
      exec (.prefetchProbe t) s = .next (showSlots ((j.blks.filter (·.pf)).foldl (fun s c => probeBlk s n j.id c) s) n) ∧
      (pfStale s n b = true → blkChanged s (probeBlk s n j.id b) n j.id b.k (fun y => { y with phase := .wait, pf := false, epochs := [], parts := 0 }) ∧
        fld (probeBlk s n j.id b) tb R.STR_PF_STALE_COUNT = min (fld s tb R.STR_PF_STALE_COUNT + 1) (2 ^ 32 - 1)) ∧
      (pfStale s n b = false → fld (probeBlk s n j.id b) tb R.STR_PF_USED_COUNT = min (fld s tb R.STR_PF_USED_COUNT + 1) (2 ^ 32 - 1)))

/-- FIRE, TFIRE and SWAP enter their array's queue with their drive images, or halt the stream on a bad image. Rests on R70, R71, R72, R110, R270, R271, R300. The model's own readings and choices in it: log entries 29. -/
def Obligations.ArrayCommandsIssue : Prop :=
  ∀ (s : State) (t : Fin 64) (f : Fetched),
    let n := phys s t
    let x := tileAt s n
    let r := popIssue s n f
    let l := launchFor s n
    let after (tr : Bool) (o : FireOp) (imgs : List (List Byte)) (s1 : State) : State :=
      let as := arraysOf o.mask
      let s2 := countLate (ranCmd s1 n r.2) n (if l.2 then as.length else 0)
      let s3 := modTile s2 n fun y => { y with micro := { y.micro with fired := true } }
      settleHead (finIfDone ((as.zip imgs).foldl (fun s p => fireOne s n p.1 r.2 (o.segmap / 2 ^ (4 * p.1) % 16) tr l.1 p.2 true) s3) n r.2) n
    (∀ (o : FireOp) (tr : Bool), issues s t (if tr then .tfire o else .fire o) f → heldBack s n (if tr then .tfire o else .fire o) = false →
      fireFault s n o.mask = none → (o.feed = false ∨ arraysOf o.mask = []) →
      let imgs := (List.range (arraysOf o.mask).length).map fun j => settRead x (o.drv + 64 * o.stride * j) 576
      ((∀ i ∈ imgs, imageBad i = false) → exec (if tr then .tfire t o else .fire t o) s = .next (after tr o imgs r.1)) ∧
      ((∃ i ∈ imgs, imageBad i = true) → exec (if tr then .tfire t o else .fire t o) s = .next (settleHead (failExec r.1 n r.2 stBlockCheck) n))) ∧
    (∀ (o : FireOp) (tr : Bool), issues s t (if tr then .tfire o else .fire o) f → heldBack s n (if tr then .tfire o else .fire o) = false →
      fireFault s n o.mask = none → o.feed = true → arraysOf o.mask ≠ [] →
      let as := arraysOf o.mask
      let s2 := countLate (ranCmd r.1 n r.2) n (if l.2 then as.length else 0)
      let s3 := modTile s2 n fun y => { y with micro := { y.micro with fired := true } }
      let s4 := as.foldl (fun s a => pushOps s n a [.fire (newFiring s r.2 (o.segmap / 2 ^ (4 * a) % 16) tr l.1)]) s3
      exec (if tr then .tfire t o else .fire t o) s = .next (settleHead (feedJoin s4 n { no := r.2, need := as.length, arrs := as }) n)) ∧
    -- the first consumer of the feed queue
    (∀ (w : FeedUse) (rest : List FeedUse), x.feedQ = w :: rest →
      let more := w.need - x.taken.length
      let imgs := x.taken ++ (x.feed.take more).map (·.bytes)
      (w.arrs = [] ∨ imgs.length < w.need → feedGo s n = modTile s n fun y => { y with feed := y.feed.drop more, taken := imgs }) ∧
      (w.arrs ≠ [] → w.need ≤ imgs.length →
        let s1 := modTile s n fun y => { y with feed := y.feed.drop more, taken := [], feedQ := rest }
        ((∀ i ∈ imgs, imageBad i = false) →
          feedGo s n = feedServe rest.length (finIfDone ((w.arrs.zip imgs).foldl (fun s p => fillPlace s n p.1 w.no p.2) s1) n w.no) n) ∧
        ((∃ i ∈ imgs, imageBad i = true) → feedGo s n = feedServe rest.length (failExec (dropPlaces s1 n w.no w.arrs) n w.no stBlockCheck) n))) ∧
    (∀ m : Nat, issues s t (.swap m) f → heldBack s n (.swap m) = false → swapFault s n m = none →
      let s1 := countLate (ranCmd r.1 n r.2) n (if l.2 then (arraysOf m).length else 0)
      exec (.swap t m) s = .next (settleHead (finIfDone ((arraysOf m).foldl (fun s a =>
        trySwap (modArr s n a fun y => { y with ops := y.ops ++ [.swap r.2 l.1 s.now] }) n a) s1) n r.2) n))

/-- Plane writes, refreshes, ageing, expiry, the wide-mode change, swaps, launch grants and the start of a firing. Rests on R60, R64, R67, R69, R70, R71, R91, R93, R96, R99, R190, R191. The model's own readings and choices in it: log entries 31. -/
def Obligations.PlaneEventsAndFirings : Prop :=
  (
  ∀ (s : State) (t : Fin 64) (a : Fin 16), s.canon = true →
    let n := phys s t
    let ab := arrBase n a
    let x := arrAt (tileAt s n) a
    (∀ j : PlaneJob, x.job = some j → j.rows = false → j.refresh = false → j.wide = false → j.cfa = none →
      (if bitOn j.src.list 63 then 17 else 16) ≤ x.stage.length → rowsWait s n a j = false →
      ∃ u, exec (.planeStaged t a) s = .next u ∧ planeState u n a j.planeB = psWriting ∧
        fld u ab (if j.planeB then R.ARR_SRC_B else R.ARR_SRC_A) = j.src.src % 2 ^ 64 ∧
        fld u ab (if j.planeB then R.ARR_TID_B else R.ARR_TID_A) = j.src.tid % 2 ^ 32 ∧
        (tileAt u n).arrs = (setArr (tileAt s n) a { x with job := some { j with
          rows := true, content := (planeContents false (stagedBlks x) (stagedList x j.src) (remapOf s n a)).1,
          content2 := (planeContents false (stagedBlks x) (stagedList x j.src) (remapOf s n a)).2.1, stamp := s.now } }).arrs) ∧
    (∀ j : PlaneJob, x.job = some j → j.rows = true → j.refresh = false → j.wide = false → fld s ab R.ARR_CTRL_WV_EN = 0 →
      j.stamp + 4 * 512 ≤ s.now → planeState s n a j.planeB ≠ psActive →
      let s3 := setPlaneState (placePlane s n a j.planeB j.content) n a j.planeB psReady
      let s5 := modArr (setFld (setFld s3 ab R.ARR_STATE_RFSH_A 0) ab R.ARR_STATE_RFSH_B 0) n a fun y => { y with job := none, stage := [] }
      exec (.planeWriteDone t a) s = .next (afterPlane (match j.no with | some no => finCmd s5 n no | none => s5) n a) ∧
        planeState s5 n a j.planeB = psReady ∧ fld s5 ab R.ARR_STATE_RFSH_A = 0 ∧ fld s5 ab R.ARR_STATE_RFSH_B = 0) ∧
    (∀ b : Bool, ageReached s n a b 2 = true → hasSrc (srcOf s n a b) = true → refreshing x b = false →
      exec (.planeRefreshRequest t a b) s =
        .next (startPlaneJob (modArr s n a fun y => if b then { y with rfshWantB := true } else { y with rfshWantA := true }) n a) ∧
      (arrWide s n a = false → fld (beginRefresh s n a b) ab (if b then R.ARR_STATE_RFSH_B else R.ARR_STATE_RFSH_A) = 1 ∧
        (tileAt (beginRefresh s n a b) n).jobs = (tileAt s n).jobs ++
          [{ id := (tileAt s n).nextJob, no := none, kind := .refresh a b, write := false, ver := none, settDst := 0, blks := srcBlks (srcOf s n a b) }])) ∧
    (∀ b : Bool, ageReached s n a b 3 = true → (if b then x.lateB else x.lateA) = false →
      ∃ u, exec (.refreshLate t a b) s = .next u ∧ fld u ab R.ARR_STATUS_RFSH_LATE = 1 ∧ onlyWords [ab + R.ARR_STATUS.off] s u ∧
        (tileAt u n).arrs = (setArr (tileAt s n) a (if b then { x with lateB := true } else { x with lateA := true })).arrs) ∧
    (∀ b : Bool, ageReached s n a b 4 = true → planeState s n a b ≠ psExpired →
      ∃ u, exec (.planeExpire t a b) s = .next u ∧ planeState u n a b = psExpired ∧ planeState u n a (!b) = planeState s n a (!b) ∧
        fld u ab (if b then R.ARR_STATUS_EXPIRED_B else R.ARR_STATUS_EXPIRED_A) = 1 ∧ onlyWords [ab + R.ARR_STATE.off, ab + R.ARR_STATUS.off] s u ∧
        (tileAt u n).arrs = (setArr (tileAt s n) a (if b then { x with expB := planeState s n a b } else { x with expA := planeState s n a b })).arrs) ∧
    (∀ v : Bool, hostUp s = true → x.run = none → x.job = none → v ≠ x.modeWide →
      ∃ u, exec (.arrCtrlWide t a (some v)) s = .next u ∧ fldOn u ab R.ARR_CTRL_WIDE = v ∧ planeState u n a false = psEmpty ∧
        planeState u n a true = psEmpty ∧ actB u n a = false) ∧
    (∀ v : Bool, hostUp s = true → (x.run ≠ none ∨ x.job ≠ none ∨ v = x.modeWide) →
      ∃ u, exec (.arrCtrlWide t a (some v)) s = .next u ∧ fldOn u ab R.ARR_CTRL_WIDE = v ∧ onlyWords [ab + R.ARR_CTRL.off] s u ∧ u.tiles = s.tiles)) ∧
  (
  ∀ (s : State) (t : Fin 64) (a : Fin 16) (no t0 : Nat) (l : Option Nat) (rest : List ArrOp), s.canon = true →
    let n := phys s t
    let x := arrAt (tileAt s n) a
    let b := actB s n a
    x.ops = .swap no l t0 :: rest → x.run = none → x.freeAt ≤ s.now → launchDue s l = true → x.wideRun = false →
    (planeState s n a (!b) = psReady → ∃ u, exec (.swapExecute t a) s = .next u ∧ actB u n a = !b ∧ planeState u n a (!b) = psActive ∧
      (planeState s n a b = psActive → planeState u n a b = psReady ∨ planeState u n a b = psStaging) ∧
      fld u (arrBase n a) R.ARR_SWAP_WAIT = min (fld s (arrBase n a) R.ARR_SWAP_WAIT + (s.now - t0) / 4) (2 ^ 32 - 1)) ∧
    (planeState s n a (!b) = psStaging ∨ planeState s n a (!b) = psWriting ∨ planeState s n a (!b) = psExpired → exec (.swapExecute t a) s = .next s)) ∧
  (
  ∀ s : State,
    (s.launchAt.isSome = true → s.lastGrant ≠ some (launchCount s) →
      exec .launchGrant s = .next { grantAll (candidates s) (firingCap s) s with lastGrant := some (launchCount s), grantRot := (s.grantRot + 1) % 64 }) ∧
    (∀ (n : Nat) (a : Fin 16) (f : Firing) (rest : List ArrOp), s.canon = true → (arrAt (tileAt s n) a).ops = .fire f :: rest → f.slice = none →
      let u := startFiring s n a
      let drive := f.codes.map clip7
      fld u (arrBase n a) (if f.tr then R.ARR_TMVM_CNT_COUNT else R.ARR_MVM_CNT_COUNT) =
        min (fld s (arrBase n a) (if f.tr then R.ARR_TMVM_CNT_COUNT else R.ARR_MVM_CNT_COUNT) + 1) (2 ^ 32 - 1) ∧
      ((passRanges drive).length = 2 →
        fld u (arrBase n a) R.ARR_PASS2_CNT_COUNT = min (fld s (arrBase n a) R.ARR_PASS2_CNT_COUNT + 1) (2 ^ 32 - 1)) ∧
      ((passRanges drive).length = 4 →
        fld u (arrBase n a) R.ARR_PASS4_CNT_COUNT = min (fld s (arrBase n a) R.ARR_PASS4_CNT_COUNT + 1) (2 ^ 32 - 1))))

/-- Converted passes enter the lanes as bounded codes, fox work and windows end, and HOLDCLR empties the held micro-batches. Rests on R81, R85, R102, R106, R111, R112, R121, R131. The model's own readings and choices in it: log entries 28. -/
def Obligations.ArrayWorkEnds : Prop :=
  ∀ (s : State) (t : Fin 64), s.canon = true →
    let n := phys s t
    let tb := tileBase n
    (∀ mask : Nat,
      let c := (arraysOf mask).foldl (fun (acc : State × List LaneEntry) a => ((convertPass acc.1 n a).1, acc.2 ++ (convertPass acc.1 n a).2)) (s, [])
      let r := enterAll (fld s tb R.ACC_CTRL_P_M1 + 1) (tileAt c.1 n) (c.2.foldl (fun acc e => insEntry e acc) [])
      let s1 := countAll (setTile c.1 n r.1) tb [(R.ACC_PROMO_CNT, r.2.1), (R.ACC_PROMO_FORCED, r.2.2)]
      let blk (b : Nat) : List LaneEntry := c.2.filter fun e => decide (e.lane / 32 = b)
      let s2 := ((List.range 256).filter fun b => c.2.any fun e => decide (e.lane / 32 = b)).foldl
        (fun s b => blockCount s n b (blk b).length ((blk b).filter (·.sat)).length ((blk b).filter (·.zero')).length) s1
      c.2 ≠ [] → exec (.passConvert t mask) s =
        .next (((arraysOf mask).filterMap fun a => (arrAt (tileAt s n) a).run).foldl (fun s r => firingEnd s n r) s2)) ∧
    (∀ (a : Fin 16) (r : Running) (p : Pass) (rest : List Pass) (e : LaneEntry), (arrAt (tileAt s n) a).run = some r → r.passes = p :: rest → p.endAt ≤ s.now →
      e ∈ (convertPass s n a).2 →
      512 * r.f.seg ≤ e.lane ∧ e.lane < 512 * r.f.seg + 512 ∧ e.arr = a.val ∧ e.wide = r.f.slice.isSome ∧
        ∃ q : Int, -127 ≤ q ∧ q ≤ 127 ∧ (e.sat = true ↔ q.natAbs = 127) ∧ (e.zero' = true ↔ q = 0) ∧
          (r.f.slice = none → e.v = q * 4 ^ p.r)) ∧
    (∀ (a : Fin 16) (j : FoxJob) (rest : List FoxJob), (arrAt (tileAt s n) a).fox = j :: rest → fld s tb R.FOX_CTRL_ENABLE = 0 →
      ∃ u, exec (.foxWorkDone t a) s = .next u ∧ u.freeCtr = s.freeCtr + 512 * j.kept.length ∧
        fld u tb R.FOX_ROWREAD_CNT_COUNT = min (fld s tb R.FOX_ROWREAD_CNT_COUNT + j.kept.length) (2 ^ 32 - 1) ∧
        fld u tb R.FOX_WCLIP_CNT_COUNT =
          min (fld s tb R.FOX_WCLIP_CNT_COUNT + (planeOf (arrAt (tileAt s n) a) j.planeB).outl.length) (2 ^ 32 - 1) ∧
        onlyWords (tileWords n [R.FOX_ROWREAD_CNT, R.FOX_WOUT_CNT, R.FOX_WCLIP_CNT]) s u) ∧
    (∀ b : Fin 256, winW s n ≤ sget (fun _ => 0) (tileAt s n).blkCodes b →
      ∃ u, exec (.blockWindowClose t b) s = .next u ∧ fld u tb (fldAt R.ACC_BLK_SAT_COUNT b) = 0 ∧ fld u tb (fldAt R.ACC_BLK_ZERO_COUNT b) = 0 ∧
        (tileAt u n).blkCodes = sset (fun _ => 0) (tileAt s n).blkCodes b 0 ∧ (tileAt u n).lanes = (tileAt s n).lanes ∧
        onlyWords (tileWords n [fldAt R.ACC_BLK_SAT_COUNT b, fldAt R.ACC_BLK_ZERO_COUNT b]) s u) ∧
    (foxWin s n ≤ (tileAt s n).foxFired → ∃ u, exec (.foxWindowClose t) s = .next u ∧ (tileAt u n).foxFired = 0 ∧
      fld u tb R.FOX_WIN_STATE = 0 ∧ onlyWords (tileWords n [R.FOX_WIN_STATE]) s u) ∧
    (hostUp s = true → ∃ u, exec (.holdClr t) s = .next u ∧ (tileAt u n).hold = [] ∧ u.regs = s.regs)

/-- A rewind restores the mark, counts the replay and sets the drive mode; the third one without a wide area halts the stream. Rests on R127, R128, R129, R130, R283. The model's own readings and choices in it: log entries 42. -/
def Obligations.RewindRestarts : Prop :=
  ∀ (s : State) (t : Fin 64) (m : MarkRec), s.canon = true →
    let n := phys s t
    let tb := tileBase n
    let x := tileAt s n
    let cause := topCause x.micro.pend
    x.mark = some m → fld s tb R.ACC_ESC_STATE_REWIND = 1 → rewindQuiet s n = true → seqState s n ≠ sqHalted →
    (fld s tb R.ACC_ESC_STATE_REPLAYS < 2 → 2 ≤ fld s tb R.TILE_SEQ_LEN_LEN → m.arrs = (List.range 16).map (arrMark s n) →
      (∀ a < 16, (arrAt x a).wideRun = false) → cause ≠ 0 →
      ∃ u, exec (.rewind t) s = .next u ∧ fld u tb R.ACC_ESC_STATE_REWIND = 0 ∧ fld u tb R.ACC_ESC_STATE_REPLAYS = fld s tb R.ACC_ESC_STATE_REPLAYS + 1 ∧
        fld u tb R.ACC_ESC_STATE_CAUSE = cause ∧ fld u tb R.ACC_ESC_STATE_DMODE = (if cause = 1 then 2 else 1) ∧
        fld u tb R.ACC_REPLAY_CNT_COUNT = min (fld s tb R.ACC_REPLAY_CNT_COUNT + 1) (2 ^ 32 - 1) ∧
        fld u tb R.TILE_SEQ_PTR_PTR = (m.idx + 1) % fld s tb R.TILE_SEQ_LEN_LEN ∧ fld u tb R.TILE_SEQ_VER_VERSION = m.ver % 2 ^ 64 ∧
        (tileAt u n).fetched = [] ∧ (tileAt u n).lanes = [] ∧ (tileAt u n).mark = some m) ∧
    (2 ≤ fld s tb R.ACC_ESC_STATE_REPLAYS → cause ≠ 0 → m.op.areaLen = 0 →
      ∃ u, exec (.rewind t) s = .next u ∧ haltedAt s u n stWideArea m.idx ∧ fld u tb R.ACC_ESC_STATE_REWIND = 0)

/-- A calibration sweep starts at the first enabled array, waits for its hold bank, or is remembered while one runs. Rests on R145, R151, R152. The model's own readings and choices in it: log entries 49, 52. -/
def Obligations.CalibrationSweeps : Prop :=
  ∀ (s : State) (t : Fin 64) (c : Instr), s.canon = true →
    let n := phys s t
    let tb := tileBase n
    let cal := (tileAt s n).cal
    -- the triggers: a command of the host, and the ageing count at its limit
    ((c = .calStart t ∧ hostUp s = true) ∨
      (c = .calAgeTrigger t ∧ fld s tb R.CAL_CTRL_AGE_EN = 1 ∧ max 1 (fld s tb R.CAL_AGE_UNITS) ≤ fld s tb R.CAL_AGE_CNT_COUNT)) →
    fld s tb R.CAL_CTRL_ENABLE = 1 →
    ((sweeping s n = true ∨ cal.fromSweep = true) →
      ∃ u, exec c s = .next u ∧ fld u tb R.CAL_STATUS_PEND = 1 ∧ onlyWords (tileWords n [R.CAL_STATUS]) s u) ∧
    (∀ i : Nat, sweeping s n = false → cal.fromSweep = false → enabledFrom s n 0 = some i →
      (ownsBank s n 5 (holdBank s n) = true → ∃ u, exec c s = .next u ∧ fld u tb R.CAL_STATUS_BUSY = 1 ∧ fld u tb R.CAL_STATUS_HOLD_WAIT = 0 ∧
        fld u tb R.CAL_STATUS_ARRAY = i ∧ fld u tb R.CAL_SWEEP_CNT_COUNT = min (fld s tb R.CAL_SWEEP_CNT_COUNT + 1) (2 ^ 32 - 1) ∧
        (tileAt u n).cal.arr = i ∧ (tileAt u n).cal.began = s.now ∧ (tileAt u n).cal.points = [] ∧ (tileAt u n).cal.subs = []) ∧
      (ownsBank s n 5 (holdBank s n) = false → ∃ u, exec c s = .next u ∧ fld u tb R.CAL_STATUS_BUSY = 0 ∧ fld u tb R.CAL_STATUS_HOLD_WAIT = 1 ∧
        fld u tb R.CAL_STATUS_ARRAY = i ∧ onlyWords (tileWords n [R.CAL_STATUS]) s u))

/-- Commit, abort, sub-windows, products, measurement end, trims, remap entries, remap refresh and the trim write-back. Rests on R143, R144, R146, R147, R148, R150, R153, R154, R155, R158, R159, R160. The model's own readings and choices in it: log entries 50, 52. -/
def Obligations.CalibrationCommands : Prop :=
  (
  ∀ (s : State) (t : Fin 64), s.canon = true →
    let n := phys s t
    let tb := tileBase n
    let cal := (tileAt s n).cal
    (hostUp s = true → ∃ u, exec (.calCommit t) s = .next u ∧ u.regs = s.regs ∧
      (fld s tb R.CAL_STATUS_BUSY = 1 → (tileAt u n).cal.cmtHeld = true ∧ (tileAt u n).cal.cmtDue = cal.cmtDue) ∧
      (fld s tb R.CAL_STATUS_BUSY = 0 → (tileAt u n).cal.cmtHeld = cal.cmtHeld ∧ (tileAt u n).cal.cmtDue = some (cal.cmtDue.getD s.now))) ∧
    (hostUp s = true → sweeping s n = true → fld s tb R.CAL_STATUS_PEND = 0 →
      ∃ u, exec (.calAbort t) s = .next u ∧ fld u tb R.CAL_STATUS_BUSY = 0 ∧ fld u tb R.CAL_STATUS_HOLD_WAIT = 0 ∧
        fld u tb R.CAL_STATUS_STAGED = (if cal.staged then 1 else fld s tb R.CAL_STATUS_STAGED) ∧
        (tileAt u n).cal.points = [] ∧ (tileAt u n).cal.subs = [] ∧ (tileAt u n).cal.staged = cal.staged) ∧
    (fld s tb R.CAL_STATUS_BUSY = 1 → fld s tb R.CAL_STATUS_HOLD_WAIT = 0 → calCap s n ≤ cal.fwd →
      ∃ u more, exec (.subWindowClose t) s = .next u ∧ (tileAt u n).cal.fwd = 0 ∧ (tileAt u n).cal.tra = 0 ∧ (tileAt u n).cal.sumM = [] ∧
        (tileAt u n).cal.subs = cal.subs ++ { tr := false, planeB := actB s n (fld s tb R.CAL_STATUS_ARRAY), sumM := cal.sumM, sumP := cal.sumP,
                                              sumS := cal.sumS, marks := cal.marks } :: more ∧
        onlyWords (tileWords n [R.CAL_SUB_DROP]) s u) ∧
    (∀ (c : CalSub) (rest : List CalSub), cal.subs = c :: rest → (∀ j ∈ (tileAt s n).jobs, ∀ a b, j.kind ≠ .hold a b) →
      ∃ u, exec (.calProduct t) s = .next u ∧ (tileAt u n).cal.subs = rest ∧ (tileAt u n).cal.points = (addPoints cal (subPoints s n c)).points ∧
        fld u tb R.DME_CAL_TC_COUNT = min (fld s tb R.DME_CAL_TC_COUNT + 16) (2 ^ 32 - 1) ∧ onlyWords (tileWords n [R.DME_CAL_TC]) s u) ∧
    (∀ t0 : Nat, cal.cmtDue = some t0 → boundaryAfter s t0 = true → (cal.fromSweep = false ∨ fld s tb R.CAL_CTRL_AUTO_REMAP = 0) →
      fld s tb R.CAL_STATUS_PEND = 0 →
      ∃ u, exec (.trimCommitApply t) s = .next u ∧
        (∀ a < 16, ∀ p ∈ trimPairs, rdReg u (calBase n a + p.2) = rdReg s (calBase n a + p.1)) ∧
        fld u tb R.CAL_CMT_CNT_COUNT = min (fld s tb R.CAL_CMT_CNT_COUNT + 1) (2 ^ 32 - 1) ∧
        fld u tb R.CAL_LAST_TEMP_TEMP = fld s (arrBase n 0) R.ARR_TEMP_TEMP ∧ fld u tb R.CAL_AGE_CNT_COUNT = 0 ∧
        fld u tb R.CAL_STATUS_STAGED = 0 ∧ (tileAt u n).cal.cmtDue = none ∧ (tileAt u n).cal.staged = false) ∧
    (∀ (a : Fin 16) (k : Fin 8) (valid : Bool) (col : Fin 512), hostUp s = true →
      ∃ u, exec (.calRemap t a k valid col) s = .next u ∧ fldOn u (calBase n a) (fldAt R.CAL_REMAP_VALID k) = valid ∧
        fld u (calBase n a) (fldAt R.CAL_REMAP_COL k) = col ∧ (remapDup u n a = true → fld u tb R.CAL_STATUS_REMAP_DUP = 1) ∧
        onlyWords [calBase n a + (fldAt R.CAL_REMAP k).off, tb + R.CAL_STATUS.off] s u) ∧
    (∀ a : Fin 16, hostUp s = true →
      let want (s : State) (b : Bool) : State := if ages (planeState s n a b) && hasSrc (srcOf s n a b) then wantRefresh s n a b else s
      exec (.remapRfsh t a) s = .next (want (want s false) true)) ∧
    (∀ G : Option Rat, fld s tb R.CAL_STATUS_BUSY = 1 → fld s tb R.CAL_STATUS_HOLD_WAIT = 0 → cal.subs = [] →
      (enoughPoints s n = true ∨ cal.began + max 1 (fld s tb R.CAL_WIN_TIMEOUT) * tcMs ≤ s.now) →
      G = (match goodGains s n with | [] => none | l => some (median l)) →
      let a := fld s tb R.CAL_STATUS_ARRAY
      let cs := (List.range 512) ++ [520] ++ if fldOn s tb R.CAL_CTRL_ROWS_EN then (List.range 512).map (1024 + ·) else []
      let s2 := cs.foldl (fun s c => stageConv s n a G c) (stageRef s n a G)
      let bad := cs.any fun c => decide (512 ≤ c) && bitOn (rdReg s2 (convRegs s2 n a c).2).toNat 30
      exec (.measurementEnd t) s = .next (nextArray (if bad then suspect s2 n 3 else s2) n (a + 1))) ∧
    (∀ p : Nat × Tile, p ∈ s.tiles → p.2.cal.wbDue = true → (∀ w, s.trimWb = some w → w + 3600 * 1000 * tcMs ≤ s.now) →
      ∃ u, exec .trimFlashWriteback s = .next u ∧ u.trimWb = some s.now ∧ (tileAt u p.1).cal.wbDue = false ∧ u.regs = s.regs ∧
        ∀ a < 16, ∀ q ∈ trimPairs, sget (fun _ => (0 : Word)) u.flashTrims (calBase p.1 a + q.2) = rdReg s (calBase p.1 a + q.2))) ∧
  (
  ∀ (s : State) (n a c : Nat) (G : Option Rat), s.canon = true → a < 16 → (c < 512 ∨ c = 520 ∨ (1024 ≤ c ∧ c < 1536)) →
    (∀ q ∈ (planeOf (arrAt (tileAt s n) a) (actB s n a)).remap, q.1 < 8) →
    let tb := tileBase n
    let ps := sget (fun _ => []) (tileAt s n).cal.points c
    let k := convRegs s n a c
    let u := stageConv s n a G c
    (ps.length < 8 → rdReg u k.2 = 0 ∧ rdReg u k.1 = rdReg s k.1 ∧
      fld u tb R.CAL_FIT_SKIP_COUNT = min (fld s tb R.CAL_FIT_SKIP_COUNT + 1) (2 ^ 32 - 1)) ∧
    (8 ≤ ps.length → fitOf (max 1 (fld s tb R.CAL_TH_MIN_SPREAD)) ps = none → rdReg u k.2 = 0 ∧ rdReg u k.1 = rdReg s k.1 ∧
      fld u tb R.CAL_STATUS_NO_SPREAD = 1) ∧
    (∀ f : Fit, 8 ≤ ps.length → fitOf (max 1 (fld s tb R.CAL_TH_MIN_SPREAD)) ps = some f → fitReason (max 1 (fld s tb R.CAL_TH_RESID)) f = 0 →
      let gain := sext 6 ((rdReg s k.1).toNat / 256 % 64) + (match G with | some q => rneInt (1000 * (q / f.g - 1)) | none => 0)
      let off := sext 6 ((rdReg s k.1).toNat % 64) + rneInt (-16 * f.o)
      (-32 ≤ gain → gain ≤ 31 → -32 ≤ off → off ≤ 31 →
        rdReg u k.1 = BitVec.ofNat 32 (tc 6 gain * 256 + tc 6 off) ∧ rdReg u k.2 = fitWord s.freeCtr f 0 ∧ (tileAt u n).cal.staged = true) ∧
      ((gain < -32 ∨ 31 < gain ∨ off < -32 ∨ 31 < off) →
        rdReg u k.1 = rdReg s k.1 ∧ rdReg u k.2 = fitWord s.freeCtr f 2 ∧
        fld u tb (if 512 ≤ c then R.CAL_STATUS_FAIL_ROW else R.CAL_STATUS_FAIL_COL) = 1)))

/-- The VU's floating-point arithmetic and its transcendental instructions give each active lane the rounded result. Rests on R27, R40, R41, R43, R206, R208, R210, R211. The model's own readings and choices in it: log entries 54. -/
def Obligations.VuFloatResult : Prop :=
  (
  ∀ (s : State) (t : Fin 64) (f : VuFields), s.canon = true →
    let v := vuOf s t
    let a := elemsOf f.w (vRow v f.va.val)
    let b := operandB v f
    let c := elemsOf f.w (vRow v f.vc.val)
    ∀ p ∈ ([(.vadd, 0x01, use2 true, [a, b], fun x => fAdd (x.getD 0 .nan) (x.getD 1 .nan)),
      (.vsub, 0x02, use2 true, [a, b], fun x => fSub (x.getD 0 .nan) (x.getD 1 .nan)),
      (.vmul, 0x03, use2 true, [a, b], fun x => fMul (x.getD 0 .nan) (x.getD 1 .nan)),
      (.vfma, 0x04, { use2 true with vc := .vec }, [a, b, c], fun x => fFma (x.getD 0 .nan) (x.getD 1 .nan) (x.getD 2 .nan)),
      (.vmax, 0x05, use2 true, [a, b], fun x => fMax (x.getD 0 .nan) (x.getD 1 .nan)),
      (.vmin, 0x06, use2 true, [a, b], fun x => fMin (x.getD 0 .nan) (x.getD 1 .nan)),
      (.vabs, 0x07, use1, [a], fun x => fAbs (x.getD 0 .nan)),
      (.vneg, 0x08, use1, [a], fun x => fNeg (x.getD 0 .nan))] :
      List ((Fin 64 → VuFields → Instr) × Nat × VuUse × List (List Nat) × (List FVal → FVal))),
    vuReady s t p.2.1 p.2.2.1 f →
    ∃ u, exec (p.1 t f) s = .next u ∧ vuLeft s u t (vuVec v f (vuFpElems f p.2.2.2.1 p.2.2.2.2))) ∧
  (
  ∀ (s : State) (t : Fin 64) (f : VuFields), s.canon = true →
    let v := vuOf s t
    ∀ p ∈ ([(.vexp2, 0x10, fun k x => tExp k true x), (.vlog2, 0x11, tLog2), (.vrcp, 0x12, tRcp), (.vrsqrt, 0x13, tRsqrt),
      (.vexp, 0x14, fun k x => tExp k false x), (.vtanh, 0x15, tTanh), (.vsigm, 0x16, tSigm)] :
      List ((Fin 64 → VuFields → Instr) × Nat × (Nat → FVal → Word × Nat))),
    vuReady s t p.2.1 use1 f →
    ∃ u, exec (p.1 t f) s = .next u ∧ vuLeft s u t (vuVec v f ((List.range (elemCount f.w)).map fun i =>
      let r := (p.2.2 (s.freeCtr + i) (fpElem f.w ((elemsOf f.w (vRow v f.va.val)).getD i 0)).1).1
      (if f.w then fpResult true (fp32Dec r) else (r.toNat, 0)).1)))

/-- The VU's integer, move, select, compare and predicate instructions give their results and leave the rest. Rests on R44, R206, R208, R209. The model's own readings and choices in it: log entries 53. -/
def Obligations.VuIntegerResult : Prop :=
  (
  ∀ (s : State) (t : Fin 64) (f : VuFields), s.canon = true →
    let v := vuOf s t
    let b := operandB v f
    let two := fun (g : Word → Word → Word) => (List.range 512).map fun i => (g ((vRow v f.va.val).getD i 0) (BitVec.ofNat 32 (b.getD i 0))).toNat
    ∀ p ∈ ([(.viadd, 0x20, use2 false, two fun x y => x + y), (.visub, 0x21, use2 false, two fun x y => x - y),
      (.vimul, 0x22, use2 false, two fun x y => x * y), (.vand, 0x23, use2 false, two fun x y => x &&& y),
      (.vor, 0x24, use2 false, two fun x y => x ||| y), (.vxor, 0x25, use2 false, two fun x y => x ^^^ y),
      (.vshl, 0x26, use2 false, two fun x y => x <<< (y.toNat % 32)), (.vshr, 0x27, use2 false, two fun x y => x >>> (y.toNat % 32)),
      (.vsra, 0x28, use2 false, two fun x y => x.sshiftRight (y.toNat % 32)),
      (.viota, 0x29, { pred := true, vd := .vec, imm := 0xFFFFFFFF }, (List.range 512).map fun i => (BitVec.ofNat 32 i + f.imm).toNat),
      (.vmov, 0x09, { pred := true, wide := true, bs := true, vd := .vec, vb := .vec }, b),
      (.vmovi, 0x0A, { pred := true, vd := .vec, imm := 0xFFFFFFFF }, List.replicate 512 f.imm.toNat),
      (.vsel, 0x32, { use2 true with vc := .pr }, (List.range (elemCount f.w)).map fun i =>
        if (pGet v f.vc.val).getLsbD i then (elemsOf f.w (vRow v f.va.val)).getD i 0 else b.getD i 0)] :
      List ((Fin 64 → VuFields → Instr) × Nat × VuUse × List Nat)),
    vuReady s t p.2.1 p.2.2.1 f →
    ∃ u, exec (p.1 t f) s = .next u ∧ vuLeft s u t (vuVec v f p.2.2.2)) ∧
  (
  ∀ (s : State) (t : Fin 64) (f : VuFields), s.canon = true →
    let v := vuOf s t
    let P := fun (x : BitVec 1024) => pPut v f.vd.val x
    let use := fun (k : RegKind) => ({ wide := true, vd := .pr, va := .pr, vb := k } : VuUse)
    let cmp := fun (w : Bool) => ({ pred := true, wide := w, bs := true, vd := .pr, va := .vec, vb := .vec, imm := 7 } : VuUse)
    ∀ p ∈ ([(.pand, 0x33, use .pr, true, P (pGet v f.va.val &&& pGet v f.vb.val)), (.por, 0x34, use .pr, true, P (pGet v f.va.val ||| pGet v f.vb.val)),
      (.pxor, 0x35, use .pr, true, P (pGet v f.va.val ^^^ pGet v f.vb.val)), (.pnot, 0x36, use .none, true, P (~~~ pGet v f.va.val)),
      (.vcmp, 0x30, cmp true, decide (f.imm.toNat ≠ 7), P (pOf (((elemsOf f.w (vRow v f.va.val)).zip (operandB v f)).map fun q =>
        condFp f.imm.toNat (fpElem f.w q.1).1 (fpElem f.w q.2).1))),
      (.vicmp, 0x31, cmp false, decide (f.imm.toNat ≤ 5), P (pOf (((elemsOf false (vRow v f.va.val)).zip (operandB v f)).map fun q =>
        condInt f.imm.toNat (sext 32 q.1) (sext 32 q.2))))] :
      List ((Fin 64 → VuFields → Instr) × Nat × VuUse × Bool × Vu)),
    vuReady s t p.2.1 p.2.2.1 f → p.2.2.2.1 = true →
    ∃ u, exec (p.1 t f) s = .next u ∧ vuLeft s u t p.2.2.2.2)

/-- The VU's scalar, reduction, draw, scan and sorting instructions give their results and leave the rest. Rests on R206, R209, R212, R223, R224, R225. The model's own readings and choices in it: log entries 55, 56. -/
def Obligations.VuScalarResult : Prop :=
  (
  ∀ (s : State) (t : Fin 64) (f : VuFields), s.canon = true →
    let v := vuOf s t
    let b := if f.bs then f.imm else sGet v f.vb.val
    let a := sGet v f.va.val
    let ok := if f.bs then decide (f.vb.val = 0) else decide (f.imm = 0)
    ∀ p ∈ ([(.smovi, 0x68, { vd := .sc, imm := 0xFFFFFFFF }, true, f.imm), (.sadd, 0x69, useS, ok, a + b), (.ssub, 0x6A, useS, ok, a - b),
      (.smul, 0x6B, useS, ok, a * b), (.slt, 0x6C, useS, ok, if a.toInt < b.toInt then 1 else 0),
      (.vext, 0x6D, { vd := .sc, va := .vec, imm := 0x1FF }, true, (vRow v f.va.val).getD (f.imm.toNat % 512) 0),
      (.pcnt, 0x37, { pred := true, wide := true, vd := .sc, va := .pr }, true,
        BitVec.ofNat 32 ((List.range (elemCount f.w)).filter fun i => (pGet v f.va.val).getLsbD i).length),
      (.vrsum, 0x60, useR true, true, BitVec.ofNat 32 (fpEncode fpFp32 (sumTree (if f.w then 10 else 9) (redVals v f).1 0).1)),
      (.vrmax, 0x61, useR true, decide (activeVals v f ≠ []), BitVec.ofNat 32 (fpEncode fpFp32 ((activeVals v f).foldl (fun x q => fMax x q.1) .nan))),
      (.vrmin, 0x62, useR true, decide (activeVals v f ≠ []), BitVec.ofNat 32 (fpEncode fpFp32 ((activeVals v f).foldl (fun x q => fMin x q.1) .nan))),
      (.vrargmax, 0x63, useR true, true, ((argMax (activeVals v f) none).map fun q => BitVec.ofNat 32 q.2).getD 0xFFFFFFFF),
      (.vrisum, 0x65, useR false, true, (vRow v f.va.val).zipIdx.foldl (fun x q => if active v f q.2 then x + q.1 else x) 0)] :
      List ((Fin 64 → VuFields → Instr) × Nat × VuUse × Bool × Word)),
    vuReady s t p.2.1 p.2.2.1 f → p.2.2.2.1 = true →
    ∃ u, exec (p.1 t f) s = .next u ∧ vuLeft s u t (sPut v f.vd.val p.2.2.2.2)) ∧
  (
  ∀ (s : State) (t : Fin 64) (f : VuFields), s.canon = true →
    let v := vuOf s t
    let n := phys s t
    let draw := fun (g : BitVec 64 → Nat) => (List.range 512).map fun i => g (drawLane (rngSeed s n) 0 (rngCtr s n 0) i)
    let fmt := if f.w then fpBf16 else fpFp32
    let keys := vRow v f.va.val
    let from' := (List.range 512).map fun i =>
      let m := i ^^^ 2 ^ bits f.imm.toNat 3 0
      let b := xor (bitOn (min i m) (bits f.imm.toNat 7 4)) (bitOn f.imm.toNat 8)
      let swap := if b then keyLarger (keys.getD (min i m) 0) (keys.getD (max i m) 0) else keyLarger (keys.getD (max i m) 0) (keys.getD (min i m) 0)
      if swap then m else i
    let sel := (List.range 512).map fun i => keyLarger ((vRow v f.vb.val).getD i 0) (keys.getD i 0)
    let pick := fun (a b : List Word) => sel.zipIdx.map fun q => if q.1 then b.getD q.2 (0 : Word) else a.getD q.2 (0 : Word)
    let keyOk := decide (bits f.imm.toNat 3 0 ≤ 8) && decide (bits f.imm.toNat 7 4 ≠ 0) && decide (bits f.imm.toNat 7 4 ≤ 9)
    ∀ p ∈ ([(.vrnd, 0x78, { pred := true, vd := .vec }, true, vuVec v f (draw fun z => z.toNat % 2 ^ 32)),
      (.vrndu, 0x79, { pred := true, vd := .vec }, true,
        vuVec v f (draw fun z => fpEncode fpFp32 (ofSum (((z.toNat / 2 ^ 40 : Nat) : Rat) / (2 ^ 24 : Nat))))),
      (.vscan, 0x64, use1, true, vuVec v f ((scanLevels fmt (if f.w then 10 else 9) 0 (redVals v f).1 0).1.map (fpEncode fmt))),
      (.vcx, 0x70, { vd := .even, va := .even, imm := 0x1FF }, keyOk,
        vPut (vPut v f.vd.val (from'.map fun i => keys.getD i 0)) (f.vd.val + 1) (from'.map fun i => (vRow v (f.va.val + 1)).getD i 0)),
      (.vcxr, 0x71, { vd := .even, va := .even, vb := .even }, true,
        vPut (vPut v f.vd.val (pick keys (vRow v f.vb.val))) (f.vd.val + 1) (pick (vRow v (f.va.val + 1)) (vRow v (f.vb.val + 1))))] :
      List ((Fin 64 → VuFields → Instr) × Nat × VuUse × Bool × Vu)),
    vuReady s t p.2.1 p.2.2.1 f → p.2.2.2.1 = true →
    ∃ u, exec (p.1 t f) s = .next u ∧ vuLeft s u t p.2.2.2.2)

/-- The VU's loads, stores, gather and scatter move exactly the bytes at their address, in ports the VU owns. Rests on R177, R206, R220, R221, R222. The model's own readings and choices in it: log entries 57. -/
def Obligations.VuMemoryResult : Prop :=
  (
  ∀ (s : State) (t : Fin 64) (f : VuFields), s.canon = true →
    let v := vuOf s t
    let a := vuAddr v f.va.val f.imm
    let rd := fun (len : Nat) => vuRead s (phys s t) a len []
    ∀ p ∈ ([(fun t f => .vld t f [], 0x50, { pred := true, wide := true, vd := .vec, va := .sc, imm := 0xFFFFFFFF }, 2048, 64, loadInto v f (rd 2048)),
      (fun t f => .vldp t f [], 0x52, { pred := true, wide := true, vd := .vec, va := .sc, vc := .num, imm := 0xFFFFFFFF }, 64 * (f.vc.val + 1), 64,
        vPut v f.vd.val (ofBytes (rd (64 * (f.vc.val + 1))))),
      (fun t f => .sld t f [], 0x6E, { vd := .sc, va := .sc, imm := 0xFFFFFFFF }, 4, 4, sPut v f.vd.val (BitVec.ofNat 32 (leNat (rd 4))))] :
      List ((Fin 64 → VuFields → Instr) × Nat × VuUse × Nat × Nat × Vu)),
    vuReady s t p.2.1 p.2.2.1 f → vuMay s t a p.2.2.2.1 p.2.2.2.2.1 →
    ∃ u, exec (p.1 t f) s = .next u ∧ vuLeft s u t p.2.2.2.2.2) ∧
  (
  ∀ (s : State) (t : Fin 64) (f : VuFields), s.canon = true →
    let v := vuOf s t
    let x := tileAt s (phys s t)
    let a := vuAddr v f.va.val f.imm
    ∀ p ∈ ([(.vst, 0x51, { pred := true, wide := true, vd := .vec, va := .sc, imm := 0xFFFFFFFF }, 2048, 64,
        if f.w = true ∧ settKind a ≠ 0 then x else settPutRuns x a (if f.w then 2 else 4) (vBytes (vRow v f.vd.val)) (active v f)),
      (.vstp, 0x53, { pred := true, wide := true, vd := .vec, va := .sc, vc := .num, imm := 0xFFFFFFFF }, 64 * (f.vc.val + 1), 64,
        settPutTile x a ((vBytes (vRow v f.vd.val)).take (64 * (f.vc.val + 1)))),
      (.sst, 0x6F, { vd := .sc, va := .sc, imm := 0xFFFFFFFF }, 4, 4, settPutTile x a (leBytes 4 (sGet v f.vd.val).toNat))] :
      List ((Fin 64 → VuFields → Instr) × Nat × VuUse × Nat × Nat × Tile)),
    vuReady s t p.2.1 p.2.2.1 f → vuMay s t a p.2.2.2.1 p.2.2.2.2.1 →
    ∃ u, exec (p.1 t f) s = .next u ∧ (tileAt u (phys s t)).sett = p.2.2.2.2.2.sett ∧ (tileAt u (phys s t)).vu.v = v.v ∧
      (tileAt u (phys s t)).vu.p = v.p ∧ (tileAt u (phys s t)).vu.s = v.s ∧ (tileAt u (phys s t)).vu.imem = v.imem) ∧
  (
  ∀ (s : State) (t : Fin 64) (f : VuFields), s.canon = true → vuLanesMay s t f →
    let v := vuOf s t
    let u0 : VuUse := { pred := true, vd := .vec, va := .sc, vb := .vec, imm := 0xFFFFFFFF }
    (vuReady s t 0x54 u0 f → ∃ u, exec (.vgather t f []) s = .next u ∧
      vuLeft s u t { v with v := (laneAddrs v f).foldl (fun r q => sset (fun _ => (0 : Word)) r (512 * f.vd.val + q.1)
        (BitVec.ofNat 32 (leNat (vuRead s (phys s t) q.2 4 [])))) v.v }) ∧
    (vuReady s t 0x55 u0 f → ∃ u, exec (.vscatter t f) s = .next u ∧
      (tileAt u (phys s t)).sett = ((laneAddrs v f).foldl (fun x q => settPutTile x q.2 (leBytes 4 ((vRow v f.vd.val).getD q.1 0).toNat))
        (tileAt s (phys s t))).sett ∧
      (tileAt u (phys s t)).vu.v = v.v ∧ (tileAt u (phys s t)).vu.p = v.p ∧ (tileAt u (phys s t)).vu.s = v.s ∧ (tileAt u (phys s t)).vu.imem = v.imem))

/-- The VU's NOP, branches, LOOP, END and RSEED, the seed register and the watchdog. Rests on R209, R226, R230, R231, R232. The model's own readings and choices in it: log entries 58. -/
def Obligations.VuControlResult : Prop :=
  (
  ∀ (s : State) (t : Fin 64) (f : VuFields), s.canon = true →
    let v := vuOf s t
    let pc' : Word → Nat := fun x => if x ≠ 0 then ((v.pc : Int) + f.imm.toInt).toNat else v.pc + 1
    let ok := decide (0 ≤ (v.pc : Int) + f.imm.toInt) && decide ((v.pc : Int) + f.imm.toInt < 8192)
    (∀ p ∈ ([(.vuNop, 0x00, { wide := true }, true, v.pc + 1),
      (.bnz, 0x7C, { va := .sc, imm := 0xFFFFFFFF }, ok, pc' (sGet v f.va.val)),
      (.bz, 0x7D, { va := .sc, imm := 0xFFFFFFFF }, ok, pc' (if sGet v f.va.val = 0 then 1 else 0)),
      (.loop, 0x7B, { va := .sc, imm := 0x1FFF }, decide (f.imm.toNat % 8192 ≠ 0) && decide (sGet v f.va.val = 0), v.pc + 1 + f.imm.toNat % 8192)] :
      List ((Fin 64 → VuFields → Instr) × Nat × VuUse × Bool × Nat)),
    vuReady s t p.2.1 p.2.2.1 f → p.2.2.2.1 = true → vuNextOk s t p.2.2.2.2 →
    ∃ u, exec (p.1 t f) s = .next u ∧ vuLeft s u t v ∧ (tileAt u (phys s t)).vu.pc = p.2.2.2.2 ∧ (tileAt u (phys s t)).vu.run = true ∧
      (tileAt u (phys s t)).vu.loops = []) ∧
    (vuReady s t 0x7F {} f → ∃ u, exec (.vuEnd t f) s = .next u ∧ vuLeft s u t v ∧ (tileAt u (phys s t)).vu.run = false ∧
      (tileAt u (phys s t)).vu.loops = []) ∧
    (vuReady s t 0x7B { va := .sc, imm := 0x1FFF } f → f.imm.toNat % 8192 ≠ 0 → sGet v f.va.val ≠ 0 → vuNextOk s t (v.pc + 1) →
      ∃ u, exec (.loop t f) s = .next u ∧ (tileAt u (phys s t)).vu.pc = v.pc + 1 ∧
        (tileAt u (phys s t)).vu.loops = [{ first := v.pc + 1, last := v.pc + 1 + f.imm.toNat % 8192, left := (sGet v f.va.val).toNat }])) ∧
  (
  ∀ (s : State) (t : Fin 64), s.canon = true →
    let n := phys s t
    let tb := tileBase n
    (∀ f, vuReady s t 0x7A { va := .sc, vb := .sc } f → (vuOf s t).seedHeld = none → ∃ u, exec (.rseed t f) s = .next u ∧
      fld u tb R.VU_RNG_SEED_SEED = (sGet (vuOf s t) f.va.val).toNat + 2 ^ 32 * (sGet (vuOf s t) f.vb.val).toNat ∧
      (∀ c < 5, rngCtr u n c = 0) ∧ vuLeft s u t (vuOf s t)) ∧
    (∀ seed : BitVec 64, hostUp s = true → ∃ u, exec (.vuRngSeedWrite t seed) s = .next u ∧ fld u tb R.VU_RNG_SEED_SEED = seed.toNat ∧
      ((vuOf s t).run = true → (vuOf u t).seedHeld = some (rngSeed s n) ∧ ∀ c < 5, rngCtr u n c = rngCtr s n c) ∧
      ((vuOf s t).run = false → u.tiles = s.tiles ∧ ∀ c < 5, rngCtr u n c = 0)) ∧
    ((vuOf s t).run = true →
      let lim := max 1 (fld s tb R.VU_CTRL_WDOG) * 1024
      (s.now < (vuOf s t).tStart + lim → exec (.vuWatchdog t) s = .next s) ∧
      ((vuOf s t).tStart + lim ≤ s.now → ∃ u, exec (.vuWatchdog t) s = .next u ∧ fld u tb R.VU_FAULT_CAUSE = 9 ∧
        fld u tb R.VU_FAULT_PC = (vuOf s t).pc % 8192 ∧ fld u tb R.VU_STATUS_FAULT = 1 ∧ (tileAt u n).vu.run = false ∧
        fld u tb R.VU_FAULT_CNT = min (fld s tb R.VU_FAULT_CNT + 1) (2 ^ 32 - 1))))

/-- VCVT converts between the packed and the unpacked formats by its part, scale and rounding; VDCVT writes a drive image. Rests on R45, R47, R49, R213, R214, R215, R216, R217, R219. The model's own readings and choices in it: log entries 59. -/
def Obligations.VuConversions : Prop :=
  ∀ (s : State) (t : Fin 64) (f : VuFields), s.canon = true →
    let v := vuOf s t
    let n := phys s t
    let w := f.imm.toNat
    -- VCVT, where its formats and its part exist
    (∀ src dst : Fmt, vuReady s t 0x40 { pred := true, vd := .vec, va := .vec, vc := .vec, imm := 0x7FFF } f →
      fmtOfCode (bits w 3 0) = some src → fmtOfCode (bits w 7 4) = some dst → bits w 9 8 ≠ 3 → src ≠ dst → (unpackedFmt src || unpackedFmt dst) = true →
      let packed := if unpackedFmt src then dst else src
      let part := bits w 13 10
      (fmtIsBlock packed = true ∨ f.vc.val = 0) → (part < cvtParts packed ∨ (unpackedFmt src && unpackedFmt dst) = true) →
      let g := 512 / (fmtGroup packed).getD 512
      let sc := (List.range g).map fun q => ((vBytes (vRow v f.vc.val)).getD (part * g + q) 0).toNat
      let codes := if unpackedFmt src then (vRow v f.va.val).map BitVec.toNat else partCodes src (vRow v f.va.val) part
      let xs := (List.range 512).map fun i => match fmtGroup src with
        | some k => (elemVal src (sc.getD (i / k) 0) (codes.getD i 0)).1
        | none => (decodeElem src (codes.getD i 0)).1
      let m := cvtMode v (fldOn s (tileBase n) R.VU_DESC_GRAD) (bits w 9 8)
      let c := cvtPack dst m.2 (if bitOn w 14 then some sc else none) (rndOf s n 1 m.1) (active v f) xs
      let old := if unpackedFmt dst then (vRow v f.vd.val).map BitVec.toNat else partCodes dst (vRow v f.vd.val) part
      let new := (List.range 512).map fun i => if active v f i then c.1.getD i 0 else old.getD i 0
      ∃ u, exec (.vcvt t f) s = .next u ∧
        (unpackedFmt dst = true → vuLeft s u t (vPut v f.vd.val (ofElems false new))) ∧
        (unpackedFmt dst = false → bitOn w 14 = true ∨ fmtIsBlock dst = false →
          vuLeft s u t (vPut v f.vd.val (putBytes (vRow v f.vd.val) (part * (packElems dst new).length) (packElems dst new))))) ∧
    -- VDCVT, outside a wide run
    (vuReady s t 0x41 { va := .sc, vb := .vec, vc := .num, imm := 0x03FFFFFF } f → v.drive = true → fldOn s (tileBase n) R.ACC_ESC_STATE_WIDE_RUN = false →
      f.vc.val ≤ 1 → vuMay s t (vuAddr v f.va.val f.imm) 576 64 →
      let dm := fld s (tileBase n) R.ACC_ESC_STATE_DMODE
      let mode := if dm = 1 then 0 else if dm = 2 then 1 else f.vc.val
      let image := (driveOf mode (min 8 (fld s (tileBase n) R.ACC_CTRL_PCT_K)) ((elemsOf false (vRow v f.vb.val)).map fun c => (decodeElem .fp32 c).1)).1
      ∃ u, exec (.vdcvt t f) s = .next u ∧ (tileAt u n).sett = (settPutTile (tileAt s n) (vuAddr v f.va.val f.imm) image).sett ∧
        (tileAt u n).vu.v = v.v ∧ (tileAt u n).vu.s = v.s)

/-- Memory controllers accept, merge and serve requests, add accumulator packets, hold those that must wait and refresh by temperature. Rests on R290, R291, R302, R303, R304, R305, R307, R319, R323. The model's own readings and choices in it: log entries 61. -/
def Obligations.MemoryControllerEvents : Prop :=
  ∀ (s : State) (m : Fin 24), s.canon = true →
    let mb := mcBase m
    let x := mcAt s m
    (∀ r : McReq, nextSource x (mcRoom x) = some r →
      let q := { r with stamp := x.stamp, at' := s.now }
      (r.write = true → ∃ u, exec (.mcAccept m) s = .next u ∧ (mcAt u m).wrq = x.wrq ++ [q] ∧ (mcAt u m).net = x.net.erase r ∧ (mcAt u m).rdq = x.rdq ∧
        (mcAt u m).draining = (x.draining || decide (mcHi s m ≤ x.wrq.length + 1)) ∧ u.hbm = s.hbm) ∧
      (r.write = false → (fld s mb R.MC_CTRL_MERGE_EN = 0 ∨ mergeWith x r = none) →
        ∃ u, exec (.mcAccept m) s = .next u ∧ (mcAt u m).rdq = x.rdq ++ [q] ∧ (mcAt u m).net = x.net.erase r ∧ (mcAt u m).wrq = x.wrq) ∧
      (∀ p : McReq, r.write = false → fld s mb R.MC_CTRL_MERGE_EN = 1 → mergeWith x r = some p →
        ∃ u, exec (.mcAccept m) s = .next u ∧
          (mcAt u m).rdq = x.rdq.map (fun y => if y.stamp = p.stamp then { y with dests := y.dests ++ r.dests } else y) ∧
          fld u mb R.MC_MERGE_CNT_COUNT = min (fld s mb R.MC_MERGE_CNT_COUNT + 1) (2 ^ 32 - 1))) ∧
    (∀ (r : McReq) (why corr : Nat) (unc : Bool), mcChoose s m = some (r, why) → stackOf r.addr = m.val →
      (r.write = true → ∃ u, exec (.mcServe m corr unc) s = .next u ∧ hbmRead u r.addr r.data.length = r.data ∧
        (∀ a, (a < r.addr ∨ r.addr + r.data.length ≤ a) → hbmRead u a 1 = hbmRead s a 1) ∧
        (mcAt u m).epochs = sset (fun _ => 0) x.epochs (localRegion r.addr) ((sget (fun _ => 0) x.epochs (localRegion r.addr) + 1) % 65536) ∧
        (mcAt u m).wrq = x.wrq.filter (fun q => decide (q.stamp ≠ r.stamp)) ∧
        fld u mb R.MC_WR_CNT_COUNT = min (fld s mb R.MC_WR_CNT_COUNT + 1) (2 ^ 32 - 1)) ∧
      (r.write = false → ∃ u, exec (.mcServe m corr unc) s = .next u ∧ u.hbm = s.hbm ∧ (mcAt u m).epochs = x.epochs ∧
        (mcAt u m).rdq = x.rdq.filter (fun q => decide (q.stamp ≠ r.stamp)) ∧
        fld u mb R.MC_RD_CNT_COUNT = min (fld s mb R.MC_RD_CNT_COUNT + 1) (2 ^ 32 - 1) ∧
        fld u mb R.MC_ECC_CORR_COUNT = min (fld s mb R.MC_ECC_CORR_COUNT + corr) (2 ^ 32 - 1) ∧
        (unc = true → fld u mb R.MC_STATUS_ECC_UNCORR = 1) ∧
        ∀ n id k, r.dests = [(n, id, k)] → blkChanged s u n id k (partServed s.now r (hbmRead s r.addr r.len) (epochOf s r.addr) unc))) ∧
    (∀ (p : AccPkt) (rest : List AccPkt) (res : List (Nat × Nat)) (bad : Fin 4), x.accq = p :: rest → (∀ q ∈ x.holdq, mustHold s m q = true) →
      (mustHold s m p = false → exec (.accumAdd m res bad) s = .next (accPacket (modMc s m fun y => { y with accq := rest }) m p res bad)) ∧
      (mustHold s m p = true → x.holdq.length < 16 → ∃ u, exec (.accumAdd m res bad) s = .next u ∧ (mcAt u m).accq = rest ∧
        (mcAt u m).holdq = x.holdq ++ [{ p with since := s.now }] ∧ fld u mb R.MC_ACC_STATE_HOLD_Q = x.holdq.length + 1 ∧ u.hbm = s.hbm) ∧
      (p.area = false → findEntry s m p.bucket = none →
        ∃ u, exec (.accumAdd m res bad) s = .next u ∧ (mcAt u m).accq = rest ∧ fld u mb R.MRT_STATUS_NO_ENTRY = 1 ∧
          fld u mb R.MC_ACC_RANGE_COUNT = min (fld s mb R.MC_ACC_RANGE_COUNT + p.data.length) (2 ^ 32 - 1) ∧ u.hbm = s.hbm)) ∧
    (∀ temp : BitVec 8, ∃ u, exec (.perBankRefresh m temp) s = .next u ∧ fld u mb R.MC_TEMP_TEMP = temp.toNat ∧
      fld u mb R.MC_STATE_RFSH_2X = (if 85 < temp.toInt then 1 else 0) ∧ onlyWords [mb + R.MC_TEMP.off, mb + R.MC_STATE.off] s u)

/-- The update program's operations, the start of an update, its block visits and the seed of the update unit. Rests on R318, R328, R329, R330, R331, R334, R335, R336, R345, R346. The model's own readings and choices in it: log entries 64. -/
def Obligations.MartenEvents : Prop :=
  (
  ∀ (s : State) (m : Fin 24) (u : MUpd) (v : MVisit) (d a b c : Fin 32), s.canon = true →
    ∀ p ∈ martenOps m d a b c,
      let regs := (u.armed.getD { bucket := u.bucket, regs := [], prog := [] }).regs
      let k := opKind d
      let n1 := if k = 0 then 16384 else if k = 1 then 512 else if k = 2 then 32 else 1
      let sa := srcVals v regs k a
      let sb := if 2 ≤ p.2.2.1 then srcVals v regs k b else List.replicate n1 0
      let sc := if 3 ≤ p.2.2.1 then srcVals v regs k c else List.replicate n1 0
      martenAt s m u v (opWord p.1 d a (if 2 ≤ p.2.2.1 then b.val else 0) (if 3 ≤ p.2.2.1 then c.val else 0)) →
      ∃ t x, exec p.2.1 s = .next t ∧ (mcAt t m).upd = some { u with visit := some (putOp { v with pc := v.pc + 1 } d x) } ∧ t.hbm = s.hbm ∧
        x.length = min sa.length (min sb.length sc.length) ∧
        ∀ i < x.length, x.getD i 0 = p.2.2.2 (s.freeCtr + i) (fp32Dec (sa.getD i 0)) (fp32Dec (sb.getD i 0)) (fp32Dec (sc.getD i 0))) ∧
  (
  ∀ (s : State) (m : Fin 24), s.canon = true →
    let mb := mcBase m
    (∀ (u : MUpd) (v : MVisit) (d a : Fin 32), ∀ p ∈ martenMeans m d a, martenAt s m u v (opWord p.1 d a 0 0) →
      ∃ t, exec p.2.1 s = .next t ∧ t.hbm = s.hbm ∧ (mcAt t m).upd = some { u with visit := some (putOp { v with pc := v.pc + 1 } d
        (p.2.2 (opVals v (u.armed.getD { bucket := u.bucket, regs := [], prog := [] }).regs a))) }) ∧
    (∀ (u : MUpd) (v : MVisit), martenAt s m u v (opWord 0 0 0 0 0) →
      ∃ t, exec (.progEnd m) s = .next t ∧ t.hbm = s.hbm ∧ (mcAt t m).upd = some { u with visit := some { v with ended := true } }) ∧
    (∀ (bucket : Nat) (ar : Option Armed) (rest : List (Nat × Option Armed)) (e : BktEntry), fld s mb R.MRT_CTRL_ENABLE = 1 → (mcAt s m).upd = none →
      (mcAt s m).mq = (bucket, ar) :: rest → findEntry s m bucket = some e → beforeClose s m bucket e.vnew = false → entryOk e = true →
      (e.div = 0 ∨ ∃ q, ar = some q ∧ progOk e.fmt q.prog = true) → mcSlices e m ≠ [] →
      ∃ t, exec (.martenUpdateStart m) s = .next t ∧ (mcAt t m).mq = rest ∧ fld t mb R.MRT_STATE_BUSY = 1 ∧
        t.hbm = (putPhase s m e 3 (armedOf e)).hbm ∧
        (mcAt t m).upd = some { bucket := bucket, entry := e.idx, k := kOf (uaccOf e) e.div, d := e.div, armed := ar, sigma := (mcSlices e m).headD 0,
                                blk := 0, visit := none, full := [], cands := [], t0 := s.now }) ∧
    (∀ (u : MUpd) (e : BktEntry) (v : MVisit) (bad listBad : Fin 4), (mcAt s m).upd = some u → findEntry s m u.bucket = some e → u.visit = some v →
      let a := u.armed.getD { bucket := u.bucket, regs := [], prog := [] }
      let r := runProg m a.regs a.prog 32 (v, s)
      visitNan r.1 = false →
      exec (.blockVisit m 0 bad listBad) s = .next (blockDone (count (writeVisit (mcDraws r.2 m 0 32) m u e r.1 (projBlock r.2 m e u.blk (r.1.el.getD 0 []))) mb
        R.MRT_BLK_CNT 1) m u e (some (projBlock r.2 m e u.blk (r.1.el.getD 0 []))) listBad)) ∧
    (∀ (u : MUpd) (e : BktEntry) (bad listBad : Fin 4), (mcAt s m).upd = some u → findEntry s m u.bucket = some e → u.visit = none →
      fld s mb R.MRT_CTRL_ENABLE = 1 → fullVisit s m u e = false →
      let rd := readChecked s m (projAddr e u.sigma u.blk) (projExpect e u.sigma u.blk) bad
      (rd.2.1 = true → exec (.blockVisit m 0 bad listBad) s = .next (blockDone (count (localWrite rd.2.2 m (projAddr e u.sigma u.blk)
        (restamp rd.1 { trailerOf rd.1 with version := e.vnew % 2 ^ 48 })) mb R.MRT_RESTAMP 1) m u e none listBad)) ∧
      (rd.2.1 = false → exec (.blockVisit m 0 bad listBad) s = .next (failUpd rd.2.2 m u 1 u.sigma u.blk false))) ∧
    (∀ seed : BitVec 64, hostUp s = true → ∃ t, exec (.mrtSeedWrite m seed) s = .next t ∧ fld t mb R.MRT_SEED_SEED = seed.toNat ∧
      (∀ c < 3, fld t mb (fldAt R.MRT_RNG_CTR_COUNT c) = 0) ∧ t.hbm = s.hbm ∧ t.mcs = s.mcs))

/-- A port's bring-up, training blocks, lane set, identity, activation digest and digest timeout. Rests on R350, R351, R352, R370, R371. The model's own readings and choices in it: log entries 68. -/
def Obligations.LinkBringUp : Prop :=
  ∀ (s : State) (p : Fin 48), s.canon = true →
    let pb := portBase p
    let x := portAt s p
    (mayBringUp s p = true → ∃ u, exec (.portBringUp p) s = .next u ∧ linkOf u p = 2 ∧ admitOf u p = 0 ∧ fld u pb R.PL_STATE_WIDTH = 0 ∧
      fld u pb R.PL_PEER_VALID = 0 ∧ (portAt u p).lanes = [] ∧ (portAt u p).peerId = none ∧ onlyWords (portWords p [R.PL_STATE, R.PL_PEER]) s u) ∧
    (∀ (lane logical : Fin 4) (inv : Bool) (peer : BitVec 18) (port : Fin 64), linkOf s p = 2 →
      ∃ u, exec (.trainingBlockRx p lane inv logical peer port) s = .next u ∧ u.regs = s.regs ∧
        portAt u p = { x with lanes := sput lane.val { ok := true, inv := inv, logical := logical.val, peer := peer.toNat, port := port.val } true x.lanes }) ∧
    (∀ (set : BitVec 4) (g : LaneInfo), linkOf s p = 2 → (goodLanes x).head?.map (·.2) = some g →
      let usable := (List.range 4).filter fun l => bitOn set.toNat l && (goodLanes x).any fun g => decide (g.2.logical = l)
      (usable = [] → exec (.laneSetRx p set) s = .next (goDown s p) ∧ linkOf (goDown s p) p = 1 ∧ admitOf (goDown s p) p = 0) ∧
      (usable ≠ [] → x.fast = false →
        ∃ u, exec (.laneSetRx p set) s = .next u ∧ linkOf u p = 3 ∧ fld u pb R.PL_PEER_MODULE = g.peer % 2 ^ 18 ∧ fld u pb R.PL_PEER_VALID = 1 ∧
          fld u pb R.PL_STATE_PEER_PORT = g.port % 2 ^ 6 ∧ fld u pb R.PL_STATE_WIDTH = (if 4 ≤ usable.length then 4 else if 2 ≤ usable.length then 2 else 1) ∧
          (portAt u p).nonce = s.freeCtr ∧ (portAt u p).nextSeq = 0 ∧ (portAt u p).rxSeq = 0 ∧ (portAt u p).crdHave = [0, 0, 0, 0] ∧
          (portAt u p).crdFreed = (List.range 4).map fun v => rxCap v - rxHeld s p v) ∧
      (usable ≠ [] → x.fast = true → g.peer = fld s pb R.PL_PEER_MODULE →
        ∃ u, exec (.laneSetRx p set) s = .next u ∧ linkOf u p = 4 ∧ (portAt u p).fast = false ∧
          (portAt u p).resend = (if x.replay = [] then none else some 0) ∧ (portAt u p).replay = x.replay ∧ (portAt u p).nextSeq = x.nextSeq)) ∧
    (∀ c : PeerCert, linkOf s p = 3 → ∃ u, exec (.identityRx p c) s = .next u ∧ linkOf u p = 4 ∧
      (portAt u p).peerId = some { valid := c.certOk && c.sigOk && c.keyUsage && decide (c.module = fld s pb R.PL_PEER_MODULE), module := c.module,
                                   port := fld s pb R.PL_STATE_PEER_PORT, key := c.key, digest := c.digest }) ∧
    (∀ (step : Nat) (digest : List Byte), linkOf s p = 4 →
      ∃ u, exec (.activationDigestRx p step digest) s = .next u ∧
        (portAt u p).digests = (x.digests.filter fun d => decide (d.1 ≠ step)) ++ [(step, digest)] ∧
        ((∀ t, x.await ≠ some (step, t)) → u.regs = s.regs ∧ (portAt u p).await = x.await) ∧
        ((∃ t, x.await = some (step, t)) → (portAt u p).await = none)) ∧
    (∀ a t0 : Nat, x.await = some (a, t0) → t0 + 10000 * tcMs ≤ s.now → ∃ u, exec (.digestTimeout p) s = .next u ∧ (portAt u p).await = none ∧
      admitOf u p = 2 ∧ fld u pb R.PL_STATE_QREASON = 2 ∧ fld u pb R.PL_STATUS_QUAR = 1 ∧
      fld u pb R.PL_QUAR_CNT_COUNT = min (fld s pb R.PL_QUAR_CNT_COUNT + 1) (2 ^ 32 - 1))

/-- Replays past the limit, the loss of a lane and the retrain command retrain the link; past the retrain limit it goes down. Rests on R358, R359. The model's own readings and choices in it: log entries 69. -/
def Obligations.LinkRetrains : Prop :=
  ∀ (s : State) (p : Fin 48) (c : Instr), s.canon = true →
    let pb := portBase p
    let x := portAt s p
    ((c = .fastRetrain p ∧ ∃ f ∈ x.replay, replayMax s p + 1 ≤ f.sent) ∨ (∃ lane : Fin 4, c = .laneLockLoss p lane ∧ bitOn (fld s pb R.PL_LANE) (8 * lane.val + 4) = true) ∨
      (c = .plRetrain p ∧ hostUp s = true)) → linkOf s p = 4 →
    (x.retrains < retrainMax s p → ∃ u, exec c s = .next u ∧ linkOf u p = 2 ∧ fld u pb R.PL_STATUS_RETRAIN = 1 ∧
      fld u pb R.PL_RETRAIN_CNT_COUNT = min (fld s pb R.PL_RETRAIN_CNT_COUNT + 1) (2 ^ 32 - 1) ∧ onlyWords (portWords p [R.PL_STATE, R.PL_RETRAIN_CNT, R.PL_STATUS]) s u ∧
      portAt u p = { x with fast := true, retrains := x.retrains + 1, lanes := [], resend := none, replay := x.replay.map fun f => { f with sent := 0 } }) ∧
    (retrainMax s p ≤ x.retrains → exec c s = .next (goDown s p) ∧ linkOf (goDown s p) p = 1 ∧ fld (goDown s p) pb R.PL_STATUS_DOWN = 1 ∧
      fld (goDown s p) pb R.PL_DOWN_CNT_COUNT = min (fld s pb R.PL_DOWN_CNT_COUNT + 1) (2 ^ 32 - 1) ∧ (portAt (goDown s p) p).replay = [] ∧ (portAt (goDown s p) p).txq = [])

/-- Flits sent, replayed and received with their sequence, acknowledgements and credits, and packets forwarded by route or tree. Rests on R353, R354, R355, R356, R357, R360, R361, R363, R364, R366, R368. The model's own readings and choices in it: log entries 70, 118. -/
def Obligations.LinkFlits : Prop :=
  (
  ∀ (s : State) (p : Fin 48), s.canon = true →
    let pb := portBase p
    let x := portAt s p
    let stall (s : State) : State := countAll s pb ((List.range 4).map fun v => (fldAt R.PL_CRD_STALL v, if vcReady x v && decide (x.crdHave.getD v 0 = 0) then 1 else 0))
    let pick := ((List.range 4).map fun i => (x.vcTurn + i) % 4).find? fun v => vcReady x v && decide (x.crdHave.getD v 0 ≠ 0)
    (∀ (f : TxFlit) (rest : List TxFlit), x.replay = f :: rest → linkOf s p = 4 → x.resend = none → f.at' + ackTo s p ≤ s.now →
      ∃ u, exec (.ackTimeout p) s = .next u ∧ (portAt u p).resend = some 0 ∧ (portAt u p).replay = x.replay ∧
        fld u pb R.PL_ACK_TO_CNT_COUNT = min (fld s pb R.PL_ACK_TO_CNT_COUNT + 1) (2 ^ 32 - 1) ∧
        fld u pb R.PL_REPLAY_CNT_COUNT = min (fld s pb R.PL_REPLAY_CNT_COUNT + 1) (2 ^ 32 - 1) ∧ onlyWords (portWords p [R.PL_ACK_TO_CNT, R.PL_REPLAY_CNT]) s u) ∧
    ((linkOf s p = 3 ∨ linkOf s p = 4) →
      (∀ (i : Nat) (f : TxFlit), x.resend = some i → x.replay[i]? = some f → f.sent < replayMax s p + 1 →
        ∃ u, exec (.flitSend p) s = .next u ∧ u.out = s.out ++ [.flit p (flitBytes x f.typ f.seq f.vc f.sop f.eop f.abort f.data)] ∧
          (portAt u p).nextSeq = x.nextSeq ∧ (portAt u p).replay = x.replay.set i { f with sent := f.sent + 1, at' := s.now } ∧
          fld u pb R.PL_REPLAY_FLIT_COUNT = min (fld s pb R.PL_REPLAY_FLIT_COUNT + 1) (2 ^ 32 - 1)) ∧
      (x.resend = none → 512 ≤ x.replay.length → ∃ u, exec (.flitSend p) s = .next u ∧ (portAt u p).replay = x.replay ∧
        u.out = s.out ++ [.flit p (flitBytes x 0 0 0 false false false [0])] ∧
        fld u pb R.PL_WIN_STALL_COUNT = min (fld s pb R.PL_WIN_STALL_COUNT + 1) (2 ^ 32 - 1)) ∧
      (∀ (c : List Byte) (rest : List (List Byte)), x.resend = none → x.replay.length < 512 → x.ctl = c :: rest → (∀ f ∈ x.replay, f.typ ≠ 2) →
        ∃ u, exec (.flitSend p) s = .next u ∧ (portAt u p).ctl = rest ∧ (portAt u p).nextSeq = (x.nextSeq + 1) % 4096 ∧
          u.out = s.out ++ [.flit p (flitBytes x 2 x.nextSeq 0 true true false (c.take 240))] ∧
          (portAt u p).replay = x.replay ++ [{ typ := 2, vc := 0, sop := true, eop := true, abort := false, data := c.take 240, sent := 1, seq := x.nextSeq, at' := s.now }] ∧
          fld u pb R.PL_TX_FLIT_COUNT = min (fld s pb R.PL_TX_FLIT_COUNT + 1) (2 ^ 32 - 1)) ∧
      (x.resend = none → x.replay.length < 512 → x.ctl = [] → pick = none →
        ∃ u, exec (.flitSend p) s = .next u ∧ u.out = s.out ++ [.flit p (flitBytes x 0 0 0 false false false [0])] ∧ (portAt u p).nextSeq = x.nextSeq) ∧
      (∀ v : Nat, x.resend = none → x.replay.length < 512 → x.ctl = [] → pick = some v → linkOf s p = 4 →
        exec (.flitSend p) s = .next (sendData (stall s) p v) ∧
        ∀ (t : TxPkt) (f : TxFlit) (r : List TxFlit), vcHead x v = some t → t.flits = f :: r →
          (sendData (stall s) p v).out = s.out ++ [.flit p (flitBytes x f.typ x.nextSeq f.vc f.sop f.eop f.abort f.data)] ∧
          (portAt (sendData (stall s) p v) p).nextSeq = (x.nextSeq + 1) % 4096))) ∧
  (
  ∀ (s : State) (p : Fin 48) (b : List Byte) (corr unc : Nat), s.canon = true → (linkOf s p = 3 ∨ linkOf s p = 4) →
    let pb := portBase p
    let x := portAt s p
    let h := fieldLe b 0 12
    let typ := h % 16
    let s0 := countAll s pb [(R.PL_FEC_CORR, corr), (R.PL_FEC_UNCORR, unc)]
    let good := unc = 0 ∧ b.length = 256 ∧ crc32c (b.take 252) = fieldLe b 252 4 ∧ typ ≤ 2
    let s1 := takeAck (takeCredits s0 p h) p (h / 2 ^ 40 % 4) (h / 2 ^ 28 % 4096)
    (¬ good → ∃ u, exec (.flitRx p b corr unc) s = .next u ∧ fld u pb R.PL_CRC_ERR_COUNT = min (fld s pb R.PL_CRC_ERR_COUNT + 1) (2 ^ 32 - 1) ∧
      (portAt u p).rxSeq = x.rxSeq ∧ (portAt u p).replay = x.replay ∧ (portAt u p).crdHave = x.crdHave ∧
      (typ ≠ 0 → (portAt u p).nakSent = true ∧ (x.nakSent = false → (portAt u p).nak = true)) ∧ (typ = 0 → portAt u p = x)) ∧
    (good → typ = 0 → exec (.flitRx p b corr unc) s = .next s1) ∧
    (good → typ ≠ 0 → h / 2 ^ 16 % 4096 ≠ x.rxSeq → ∃ u, exec (.flitRx p b corr unc) s = .next u ∧ (portAt u p).rxSeq = x.rxSeq ∧ (portAt u p).nakSent = true) ∧
    (good → typ = 2 → h / 2 ^ 16 % 4096 = x.rxSeq → ∃ u, exec (.flitRx p b corr unc) s = .next u ∧ (portAt u p).rxSeq = (x.rxSeq + 1) % 4096 ∧
      (portAt u p).nakSent = false ∧ fld u pb R.PL_RX_FLIT_COUNT = min (fld s pb R.PL_RX_FLIT_COUNT + 1) (2 ^ 32 - 1)) ∧
    (good → typ = 1 → h / 2 ^ 16 % 4096 = x.rxSeq → exec (.flitRx p b corr unc) s =
      .next (dataFlit (modPort (count s1 pb R.PL_RX_FLIT 1) p fun y => { y with rxSeq := (y.rxSeq + 1) % 4096, nakSent := false }) p (h / 16 % 4)
        (bitOn h 6) (bitOn h 7) (bitOn h 90) ((b.drop 12).take (min 240 (h / 256 % 256 + 1)))))) ∧
  (
  ∀ (s : State) (p : Fin 48) (vc : Fin 4) (x : RxPkt) (t : List RxPkt), rxOf s p vc = x :: t → x.route = none → x.bad = false →
    let h := hdrOf x.bytes
    (kindClass h.kind ≠ some 2 → h.dest ≠ myId s →
      (∀ e alt, unicastPort s p h = some (e, alt) → exec (.packetForward p vc) s =
        .next (rxSettle (forwardTo (setRx (if alt then count s (portBase e) R.PL_ALT_CNT 1 else s) p vc ({ x with route := some ([e], false) } :: t)) p vc x e) p vc)) ∧
      (unicastPort s p h = none → exec (.packetForward p vc) s = .next (rxDrop (count s (portBase p) R.PL_DROP_ROUTE 1) p vc))) ∧
    (∀ m : Nat, kindClass h.kind = some 2 → treeMask s h.tree = some m → bitOn m p = true → kindBad h = false →
      let es := (maskPorts m).filter fun e => decide (e ≠ p.val) && egressOk s e h
      (∀ e ∈ maskPorts m, e ≠ p.val → egressOk s e h = true) →
      exec (.packetForward p vc) s = .next (rxSettle (es.foldl (fun s e => forwardTo s p vc x e) (setRx s p vc ({ x with route := some (es, true) } :: t))) p vc)) ∧
    (kindClass h.kind = some 2 → (treeMask s h.tree = none ∨ ∃ m, treeMask s h.tree = some m ∧ bitOn m p = false) →
      exec (.packetForward p vc) s = .next (rxDrop (portCount s p R.PL_TREE_DROP (some R.PL_STATUS_TREE_DROP)) p vc)))

/-- Each gradient packet is accepted, carried, or dropped and counted by the version and the contributor it names. Rests on R361, R378, R384. The model's own readings and choices in it: log entries 72. -/
def Obligations.ContributionsClassified : Prop :=
  (∀ (s u : State) (p : Fin 49) (b : List Byte), comes s p 1 (pktVer b) b u → holdFull s b = false → exec (.accum p) s = .next (contribute u b false)) ∧
  (∀ (s u : State) (p : Fin 49) (b : List Byte), comes s p 2 (pktVer b) b u → exec (.close p) s = .next (contribute u b true)) ∧
  (∀ (s : State) (b : List Byte) (isClose : Bool),
    ((obkt s (pktBucket b) = none ∨ geomBkt s (pktBucket b) = none) → contribute s b isClose = count s 0 R.XCH_NOT_OWNED 1) ∧
    (∀ (o : OBkt) (g : GBkt), obkt s (pktBucket b) = some o → geomBkt s (pktBucket b) = some g →
      (∃ r, o.sup = some r ∧ r.1 ≤ pktVer b ∧ pktVer b ≤ r.2) → contribute s b isClose = count s 0 R.XCH_STALE_DROP 1) ∧
    (∀ (o : OBkt) (g : GBkt), obkt s (pktBucket b) = some o → geomBkt s (pktBucket b) = some g →
      (∀ r, o.sup = some r → ¬ (r.1 ≤ pktVer b ∧ pktVer b ≤ r.2)) →
      let src := (hdrOf b).src
      let dup := isClose = true ∧ (contribOf o src (pktVer b)).close.isSome = true
      (src ∉ g.contribs → contribute s b isClose = count s 0 R.XCH_NOT_CONTRIB 1) ∧
      (src ∈ g.contribs → o.ver < pktVer b → contribute s b isClose = raiseBit (count s 0 R.XCH_FUTURE_DROP 1) 0 R.XCH_STATUS_FUTURE) ∧
      (src ∈ g.contribs → pktVer b + 1 < o.ver → contribute s b isClose = count s 0 R.XCH_STALE_DROP 1) ∧
      (src ∈ g.contribs → pktVer b + 1 = o.ver → fld s 0 R.XCH_PARAM0_LATE_CARRY = 0 → contribute s b isClose = count s 0 R.XCH_LATE_DROP 1) ∧
      (src ∈ g.contribs → pktVer b + 1 = o.ver → fld s 0 R.XCH_PARAM0_LATE_CARRY = 1 → ¬ dup → contribute s b isClose =
        acceptInto (count s 0 R.XCH_LATE_CARRY 1) g o (contribOf o src (pktVer b)) (fieldLe b 32 4) isClose b) ∧
      (src ∈ g.contribs → pktVer b = o.ver → dup → contribute s b isClose = count s 0 R.XCH_DUP_CLOSE 1) ∧
      (src ∈ g.contribs → pktVer b = o.ver → ¬ dup → contribute s b isClose =
        acceptInto (count s 0 (if isClose then R.XCH_CLOSE_RX else R.XCH_ACC_RX) 1) g o (contribOf o src (pktVer b)) (fieldLe b 32 4) isClose b)))

/-- Broadcast blocks are placed and confirmed, notices and supersedings recorded, and missing blocks asked for again three times. Rests on R385, R387, R389, R390, R391, R393, R394, R425. The model's own readings and choices in it: log entries 73. -/
def Obligations.BlocksAndNotices : Prop :=
  (
  (∀ (s u : State) (p : Fin 49) (b : List Byte), comes s p 3 (pktVer b - 1) b u → exec (.bcast p) s = .next (receiveBlock u b)) ∧
  (∀ (s u : State) (p : Fin 49) (b : List Byte), comes s p 7 (pktVer b - 1) b u →
    exec (.resendData p) s = .next (if bitOn (fieldLe b 39 1) 0 then resendFail u (pktBucket b) (pktVer b) else receiveBlock u b)) ∧
  (∀ (s : State) (b : List Byte) (g : GBkt) (r : RBkt), s.canon = true → geomBkt s (pktBucket b) = some g → rbkt s (pktBucket b) = some r →
    let v := pktVer b
    let pos := fieldLe b 36 2
    let x := rver r v
    let blk := b.drop 48
    let u := receiveBlock s b
    (17 * g.nslice ≤ pos ∨ blk.length ≠ 9216 → u = count s 0 R.XCH_BC_BAD 1) ∧
    (pos < 17 * g.nslice → blk.length = 9216 → x.fullAt ≠ none → u = count s 0 R.XCH_BC_DUP 1) ∧
    (∀ a, pos < 17 * g.nslice → blk.length = 9216 → x.fullAt = none → placeAddr s (posExpect g pos) v = some a →
      ((hbmEnd < a + 9216 ∨ blockCheck (posExpect g pos) false blk ≠ 0 ∨ recoverVer (fld s 0 R.XCH_COMMITTED + 1) (trailerOf blk).version ≠ v) →
        u = count s 0 R.XCH_BC_BAD 1) ∧
      (a + 9216 ≤ hbmEnd → blockCheck (posExpect g pos) false blk = 0 → recoverVer (fld s 0 R.XCH_COMMITTED + 1) (trailerOf blk).version = v →
        hbmRead u a 9216 = blk ∧ (∀ c, (c < a ∨ a + 9216 ≤ c) → hbmRead u c 1 = hbmRead s c 1) ∧
        fld u 0 R.XCH_BC_RX_COUNT = min (fld s 0 R.XCH_BC_RX_COUNT + 1) (2 ^ 32 - 1) ∧
        (overrun s (posExpect g pos).tid v = true → fld u 0 R.XCH_STATUS_OVERRUN = 1) ∧
        ∃ q ∈ u.rbkts, q.bucket = r.bucket ∧ pos ∈ (rver q v).got)))) ∧
  (
  (∀ (s u : State) (p : Fin 49) (b : List Byte), comes s p 4 (pktVer b - 1) b u → exec (.commitNotice p) s =
    .next (confirm (modR u (pktBucket b) fun r => if r.notices.contains (pktVer b) then r else { r with notices := r.notices ++ [pktVer b] }))) ∧
  (∀ (s u : State) (p : Fin 49) (b : List Byte), comes s p 5 (fieldLe b 32 8 - 1) b u → exec (.supersedePacket p) s = .next (supersedeRx u b)) ∧
  (∀ (s : State) (b : List Byte), s.staged = none → (supersedeRx s b).passed = s.passed ++ [(pktVer b, fieldLe b 32 8)]) ∧
  (∀ (s u : State) (p : Fin 49) (b : List Byte), comes s p 6 (pktVer b) b u → exec (.resend p) s = .next (serveResend u b)) ∧
  (∀ s : State, s.canon = true → fld s 0 R.XCH_CONFIRMED ≤ fld (confirm s) 0 R.XCH_CONFIRMED) ∧
  (∀ (s : State) (bucket v : Nat) (r : RBkt) (g : GBkt), s.canon = true → rbkt s bucket = some r → geomBkt s bucket = some g →
    fld s 0 R.XCH_CTRL_RESEND_EN = 1 → xchOn s = true → (rver r v).failed = false → (rver r v).fullAt = none → s.doneV < v → resendDue s r v = true →
    (3 ≤ (rver r v).reqs → exec (.resendTimeout bucket v) s = .next (resendFail s bucket v) ∧
      fld (resendFail s bucket v) 0 R.XCH_RESEND_FAIL_COUNT = min (fld s 0 R.XCH_RESEND_FAIL_COUNT + 1) (2 ^ 32 - 1)) ∧
    ((rver r v).reqs < 3 →
      let miss := (List.range (17 * g.nslice)).filter fun p => !(rver r v).got.contains p
      let s1 := modR (count s 0 R.XCH_RESEND_REQ 1) bucket fun q => putRver q { rver r v with reqs := (rver r v).reqs + 1, reqAt := s.now }
      exec (.resendTimeout bucket v) s = .next (sendUnicast s1 (myPkt s1 g.owner 6 0 (v - 1) (leBytes 4 bucket ++ leBytes 4 0 ++ leBytes 8 v ++ leBytes 4 0 ++
        leBytes 2 (miss.headD 0) ++ leBytes 1 (min 64 (miss.getLastD 0 - miss.headD 0 + 1))) [])))))

/-- The closing table of an owned bucket, its retry, publication and notices, the commit of a step, and the checksum windows. Rests on R379, R380, R381, R385, R388, R389, R414, R418, R421, R424. The model's own readings and choices in it: log entries 74, 77. -/
def Obligations.OwnedBucketsAndSteps : Prop :=
  (
  ∀ (s : State) (bucket : Nat) (o : OBkt) (g : GBkt), s.canon = true → obkt s bucket = some o → geomBkt s bucket = some g →
    let T := deadlineUs s
    let t := xchTimer s
    let due := o.t0 + T ≤ t
    -- the closing table
    (oOpen o = true → o.held = false → o.timing = true →
      (arrivedOf o = g.contribs.length → exec (.bucketDeadline bucket) s = .next (closeStep s g o 0)) ∧
      (arrivedOf o ≠ g.contribs.length → ¬ due → exec (.bucketDeadline bucket) s = .next s) ∧
      (arrivedOf o ≠ g.contribs.length → due → quorum s g ≤ arrivedOf o → exec (.bucketDeadline bucket) s = .next (closeStep s g o 1)) ∧
      (arrivedOf o ≠ g.contribs.length → due → arrivedOf o < quorum s g → o.extended = false → t < o.t0 + 2 * T →
        ∃ u, exec (.bucketDeadline bucket) s = .next u ∧ fld u 0 R.XCH_EXTEND_COUNT = min (fld s 0 R.XCH_EXTEND_COUNT + 1) (2 ^ 32 - 1) ∧
          u.obkts = s.obkts.map fun x => if x.bucket = bucket then { x with extended := true } else x) ∧
      (arrivedOf o ≠ g.contribs.length → arrivedOf o < quorum s g → o.extended = true → o.t0 + 2 * T ≤ t →
        exec (.bucketDeadline bucket) s = .next (closeStep s g { o with extended := true } 2))) ∧
    (∀ kind < 3, fld (closeStep s g o kind) 0 ([R.XCH_CLOSE_FULL_COUNT, R.XCH_CLOSE_PARTIAL_COUNT, R.XCH_CLOSE_SHORT_COUNT].getD kind R.XCH_CLOSE_FULL_COUNT) =
      min (fld s 0 ([R.XCH_CLOSE_FULL_COUNT, R.XCH_CLOSE_PARTIAL_COUNT, R.XCH_CLOSE_SHORT_COUNT].getD kind R.XCH_CLOSE_FULL_COUNT) + 1) (2 ^ 32 - 1)) ∧
    (fwReady s = true → o.failed = true → o.retried = false → o.failAt + tcMs ≤ s.now → exec (.bucketRetry bucket) s = .next (requeue s bucket)) ∧
    (o.published = false → o.busy = false → o.failed = false → allOk g o = true → xchOn s = true →
      let s1 := (List.range (17 * g.nslice)).foldl (fun s pos =>
        match pubBlock s g pos with
        | none => s
        | some b => count (sendTree s g.tree (myPkt s 0 3 g.tree (o.ver - 1) (blockMsg bucket o.ver o.lastD pos o.lastKind o.lastA false) b)) 0 R.XCH_BC_TX 1) s
      exec (.publish bucket) s = .next (becameOpen (modO s1 bucket fun x => { x with published := true }) bucket)) ∧
    (xchOn s = true → o.noticed + 1 ≤ (if o.published then o.ver else o.ver - 1) →
      (covered o (o.noticed + 1) = true → exec (.commitNoticeSend bucket) s = .next (modO s bucket fun x => { x with noticed := o.noticed + 1 })) ∧
      (covered o (o.noticed + 1) = false → windowsClear s (o.noticed + 1) = true → exec (.commitNoticeSend bucket) s =
        .next (modO (sendTree s g.tree (myPkt s 0 4 g.tree o.noticed (leBytes 4 bucket ++ leBytes 4 0 ++ leBytes 8 (o.noticed + 1)) [])) bucket fun x =>
          { x with noticed := o.noticed + 1 })))) ∧
  (
  ∀ s : State, s.canon = true →
    (s.rbkts ≠ [] → (∀ r ∈ s.rbkts, (rver r (s.doneV + 1)).fullAt ≠ none) → s.passed = [] → s.staged = none →
      ∃ u, exec .stepCommit s = .next u ∧ u.doneV = s.doneV + 1 ∧ fld u 0 R.XCH_COMMITTED = (s.doneV + 1) % 2 ^ 64 ∧
        fld u 0 R.XCH_COMMIT_CNT_COUNT = min (fld s 0 R.XCH_COMMIT_CNT_COUNT + 1) (2 ^ 32 - 1) ∧ u.hbm = s.hbm ∧ u.cfg = s.cfg) ∧
    ((s.rbkts = [] ∨ (∃ r ∈ s.rbkts, (rver r (s.doneV + 1)).fullAt = none)) → exec .stepCommit s = .next s) ∧
    (∀ (t : Fin 64) (a : Fin 16), fwReady s = false →
      let n := phys s t
      let w := (arrAt (tileAt s n) a).cs
      (winDue w = false → exec (.checksumWindowClose t a) s = .next s) ∧
      (winDue w = true → w.n < 2 ^ minLog2 w.cfg1 → ∃ u, exec (.checksumWindowClose t a) s = .next u ∧
        fld u 0 R.OWL_CS_THIN_COUNT = min (fld s 0 R.OWL_CS_THIN_COUNT + 1) (2 ^ 32 - 1) ∧ onlyWords [R.OWL_CS_THIN.off] s u ∧
        (tileAt u n).arrs = (setArr (tileAt s n) a { arrAt (tileAt s n) a with cs := { cfg0 := fld s 0 R.OWL_CS_CFG0, cfg1 := fld s 0 R.OWL_CS_CFG1 } }).arrs) ∧
      (winDue w = true → 2 ^ minLog2 w.cfg1 ≤ w.n → ∃ u, exec (.checksumWindowClose t a) s = .next u ∧
        fld u 0 R.OWL_CS_WIN_COUNT = min (fld s 0 R.OWL_CS_WIN_COUNT + 1) (2 ^ 32 - 1) ∧
        (max 0x100 (w.cfg0 / 65536) * w.n * 256 < w.sumZ2 → fld u 0 R.OWL_CS_WIN_FAIL_COUNT = min (fld s 0 R.OWL_CS_WIN_FAIL_COUNT + 1) (2 ^ 32 - 1) ∧
          u.csFails = s.csFails ++ [(n, a.val, w.vlo, w.vhi)] ∧ u.failWins = s.failWins ++ [(w.vlo, w.vhi)]) ∧
        (w.sumZ2 ≤ max 0x100 (w.cfg0 / 65536) * w.n * 256 → u.csFails = s.csFails ∧ u.failWins = s.failWins))))

/-- A suspect tile's level rises, sets its guard band, and at the retire level the tile is retired to a spare; DEN tiles are scanned. Rests on R196, R197, R426, R427, R428, R429, R431. The model's own readings and choices in it: log entries 81. -/
def Obligations.EscalationAndTakeover : Prop :=
  (
  (∀ (s : State) (n : Fin 68) (t : Nat) (x : Nat × Nat), s.canon = true → fwReady s = true → logicalOf s n = some t → s.retiring.contains n.val = false →
    s.suspects.find? (fun y => decide (y.1 = n.val)) = some x →
    let lv := min 4 (fld s 0 (fldAt R.OWL_PTILE_ESC_LEVEL n) + 1)
    ∃ u, exec (.guardbandEscalate n) s = .next u ∧
      (lv < retireLevel s → fld u 0 (fldAt R.OWL_PTILE_ESC_LEVEL n) = lv ∧ u.suspects = s.suspects.erase x ∧ u.retiring = s.retiring ∧ u.tiles = s.tiles ∧
        (gbMode s = 0 → fld u (tileBase n) R.TILE_CTRL_VOFS = min 3 lv) ∧ (gbMode s = 1 → fld u (tileBase n) R.TILE_CTRL_CLK_HALF = min 1 lv) ∧
        onlyWords [0x90400 + 4 * n.val, tileBase n + R.TILE_CTRL.off] s u) ∧
      (retireLevel s ≤ lv → ∃ s1, fld s1 0 (fldAt R.OWL_PTILE_ESC_LEVEL n) = lv ∧ s1.retiring = s.retiring ++ [n.val] ∧ s1.tiles = s.tiles ∧ onlyWords [0x90400 + 4 * n.val, R.OWL_RETIRE.off] s s1 ∧
        fld s1 0 R.OWL_RETIRE = min (fld s 0 R.OWL_RETIRE + 1) (2 ^ 32 - 1) ∧
        (spareOf s (n.val / 17) = none → u = drainModule { s1 with retiring := s1.retiring.filter fun y => decide (y ≠ n.val) }) ∧
        (∀ q, spareOf s (n.val / 17) = some q → takeoverReady s1 n = true →
          u = takeover { s1 with retiring := s1.retiring.filter fun y => decide (y ≠ n.val) } t n q) ∧
        (∀ q, spareOf s (n.val / 17) = some q → takeoverReady s1 n = false → u = s1))) ∧
  (∀ (s : State) (n : Fin 68) (v : Fin 8), s.canon = true → hostUp s = true →
    (fld s 0 (fldAt R.OWL_PTILE_ESC_LEVEL n) ≤ v.val → exec (.owlLevelWrite n v) s = .next s) ∧
    (v.val < fld s 0 (fldAt R.OWL_PTILE_ESC_LEVEL n) → ∃ u, exec (.owlLevelWrite n v) s = .next u ∧ fld u 0 (fldAt R.OWL_PTILE_ESC_LEVEL n) = v.val ∧
      (fwReady s = true → gbMode s = 0 → fld u (tileBase n) R.TILE_CTRL_VOFS = min 3 v.val) ∧
      (fwReady s = true → gbMode s = 1 → fld u (tileBase n) R.TILE_CTRL_CLK_HALF = min 1 v.val) ∧
      u.tiles = s.tiles ∧ onlyWords [0x90400 + 4 * n.val, tileBase n + R.TILE_CTRL.off] s u))) ∧
  (
  (∀ (s : State) (n : Nat) (r : List Nat), s.canon = true → fwReady s = true → scanTile s = none → s.den = n :: r →
    ∃ u, exec .denScanStart s = .next u ∧ fld u 0 (fldAt R.OWL_PTILE_ESC_SCAN n) = 1 ∧ u.den = r ∧ u.tiles = s.tiles ∧
      onlyWords [0x90400 + 4 * n] s u))

/-- A tile that passes its scan becomes SPARE with LEVEL 0; one that fails becomes RETIRED; each is counted; only a SPARE tile takes over. Rests on R432. -/
def Obligations.ScanEnds : Prop :=
  (∀ (s : State) (n : Nat) (pass : Bool), s.canon = true → scanTile s = some n →
    ∃ u, exec (.scanDone pass) s = .next u ∧ ptileState u n = (if pass then 1 else 3) ∧ fld u 0 (fldAt R.MGT_PTILE_STATE_LOGICAL n) = 0 ∧
      fld u 0 (fldAt R.OWL_PTILE_ESC_SCAN n) = (if pass then 2 else 3) ∧
      fld u 0 (fldAt R.OWL_PTILE_ESC_LEVEL n) = (if pass then 0 else fld s 0 (fldAt R.OWL_PTILE_ESC_LEVEL n)) ∧
      fld u 0 R.OWL_SCAN_PASS = min (fld s 0 R.OWL_SCAN_PASS + if pass then 1 else 0) (2 ^ 32 - 1) ∧
      fld u 0 R.OWL_SCAN_FAIL = min (fld s 0 R.OWL_SCAN_FAIL + if pass then 0 else 1) (2 ^ 32 - 1) ∧
      u.scanned = (if pass then s.scanned ++ [n] else s.scanned) ∧ u.den = s.den ∧ u.hbm = s.hbm) ∧
  (∀ (s : State) (d q : Nat), spareOf s d = some q → ptileState s q = 1)

/-- Event queues: enabling empties one, head writes release records or are ignored, moderation sends the vector, overflow is recorded. Rests on R461, R463, R464, R465. The model's own readings and choices in it: log entries 84. -/
def Obligations.EventQueues : Prop :=
  ∀ (s : State) (q : Fin 16), s.canon = true →
    -- setting EN empties the queue and arms it; BASE and SIZE_LOG2 stand while EN is set
    (∀ w : Word, hostUp s = true → evqOn s q = false → bitOn w.toNat 7 = true →
      ∃ u, exec (.evqCfgEn q w) s = .next u ∧ evqOn u q = true ∧ evqHead u q = 0 ∧ evqTail u q = 0 ∧ fld u 0 (fldAt R.EVQ_TAIL_PHASE q) = 1 ∧
        (evqOf u q).armed = true ∧ (evqOf u q).n = 0) ∧
    (∀ w : Word, hostUp s = true → evqOn s q = true →
      ∃ u, exec (.evqCfgEn q w) s = .next u ∧ fld u 0 (fldAt R.EVQ_CFG_SIZE_LOG2 q) = fld s 0 (fldAt R.EVQ_CFG_SIZE_LOG2 q) ∧
        evqHead u q = evqHead s q ∧ evqTail u q = evqTail s q) ∧
    -- a write of EVQ_HEAD releases records written and not released, or is ignored
    (∀ v : BitVec 20, hostUp s = true → evqOn s q = true →
      let d := (v.toNat + evqSize s q - evqHead s q) % evqSize s q
      ∃ u, exec (.evqHead q v) s = .next u ∧ evqTail u q = evqTail s q ∧
        (evqSize s q ≤ v.toNat ∨ evqUsed s q < d → evqHead u q = evqHead s q ∧ u.evqs = s.evqs ∧ fld u 0 (fldAt R.EVQ_STATUS_HEAD_BAD q) = 1) ∧
        (v.toNat < evqSize s q → d ≤ evqUsed s q → evqHead u q = v.toNat ∧ (evqTail s q = v.toNat → (evqOf u q).armed = true))) ∧
    -- moderation: TIME after the first record the vector goes out, or stays pending under its mask
    (∀ t, (evqOf s q).firstAt = some t → (evqOf s q).armed = true →
      (s.now < t + evqTime s q * tcUs → exec (.evqModerationTimeout q) s = .next s) ∧
      (t + evqTime s q * tcUs ≤ s.now → ∃ u, exec (.evqModerationTimeout q) s = .next u ∧ (evqOf u q).armed = false ∧ (evqOf u q).firstAt = none ∧
        u.regs = s.regs ∧
        let v := fld s 0 (fldAt R.EVQ_CFG_VEC q)
        let masked := bitOn (sget msixReset s.msix (4 * v + 3)).toNat 0
        (s.d3hot = false → masked = false → u.out = s.out ++ [.msix v]) ∧ (s.d3hot = false → masked = true → v ∈ u.msixPend ∧ u.out = s.out) ∧
        (s.d3hot = true → u.out = s.out ∧ u.msixPend = s.msixPend))) ∧
    -- an OVERFLOW record is written once the queue has room
    (evqOn s q = true → s.d3hot = false → (evqOf s q).drops ≠ 0 → evqFull s q = false →
      ∃ u l, exec (.overflow q) s = .next u ∧
        u.out = s.out ++ .hostWrite (fld s 0 (fldAt R.EVQ_BASE_ADDR q) * 4096 + 64 * evqTail s q)
          ((overflowRec (evqOf s q).drops).take 3 ++ leBytes 1 (fld s 0 (fldAt R.EVQ_TAIL_PHASE q)) ++ (overflowRec (evqOf s q).drops).drop 4) :: l ∧
        evqTail u q = (evqTail s q + 1) % evqSize s q ∧ (evqOf u q).drops = 0 ∧
        fld u 0 (fldAt R.EVQ_TAIL_PHASE q) =
          (if (evqTail s q + 1) % evqSize s q = 0 then 1 - fld s 0 (fldAt R.EVQ_TAIL_PHASE q) else fld s 0 (fldAt R.EVQ_TAIL_PHASE q)) ∧
        fld u 0 R.EVQ_REC_CNT = min (fld s 0 R.EVQ_REC_CNT + 1) (2 ^ 32 - 1))

/-- Owl raw records leave as datagrams within the rate, and Smiteale composes the firmware records from them. Rests on R435, R436, R437. The model's own readings and choices in it: log entries 85. -/
def Obligations.RecordsLeave : Prop :=
  (∀ (s : State) (r : RawRec), s.canon = true → s.hubUp = true → s.mgmtDown = false → s.owlFifo.find? (fun r => r.net) = some r →
    let recent := s.owlNet.filter fun t => decide (s.now < t + tcMs)
    (recent.length < max 1 (fld s 0 R.OWL_CTRL_RATE) → ∃ u f, exec .owlDatagramSend s = .next u ∧ u.out = s.out ++ [.datagram f] ∧
      rawBytes s r <:+ f ∧ u.owlNet = recent ++ [s.now] ∧ u.owlFifo = owlTaken s.owlFifo r { r with net := false } ∧
      fld u 0 R.OWL_TX_CNT = min (fld s 0 R.OWL_TX_CNT + 1) (2 ^ 32 - 1) ∧ onlyWords [R.OWL_TX_CNT.off] s u) ∧
    (max 1 (fld s 0 R.OWL_CTRL_RATE) ≤ recent.length → ∃ u, exec .owlDatagramSend s = .next u ∧ u.out = s.out ∧
      fld u 0 R.OWL_DROP_RATE = min (fld s 0 R.OWL_DROP_RATE + 1) (2 ^ 32 - 1) ∧ (r.bdg = true → ∀ e ∈ u.fwEvents, e.seq ≠ r.seq))) ∧
  (∀ (s : State), fwComposes s = true →
    (∀ (r : RawRec) (s1 : State), nextRaw s = some (r, s1) →
      (namedBit r.reg r.bit = true →
        let evs := s.fwEvents.filter fun e => decide (e.seq = r.seq)
        (evs = [] → exec (.firmwareRecordCompose true) s = .next s1) ∧
        (evs ≠ [] → ∃ u, exec (.firmwareRecordCompose true) s = .next u ∧ u.fwNum = (s.fwNum + evs.length) % 2 ^ 32 ∧
          u.fwEvents = (s.fwEvents.filter fun e => decide (e.seq ≠ r.seq)) ∧ u.fwRecs.length ≤ 64 ∧
          ∀ e, evs = [e] → u.fwRecs.getLast? = some (eventBytes s1 e))) ∧
      (namedBit r.reg r.bit = false → ∃ u, exec (.firmwareRecordCompose true) s = .next u ∧ u.fwNum = (s.fwNum + 1) % 2 ^ 32 ∧
        u.fwRecs.getLast? = some (eventBytes s1 (eventOfRaw s1 r)) ∧ u.fwRecs.length ≤ 64)) ∧
    (∀ e : FwEvent, (s.fwEvents.find? fun e => decide (e.seq = 0xFFFFFFFF)) = some e →
      ∃ u, exec (.firmwareRecordCompose false) s = .next u ∧ u.fwNum = (s.fwNum + 1) % 2 ^ 32 ∧ u.fwRecs.getLast? = some (eventBytes s e) ∧
        u.fwEvents = s.fwEvents.erase e ∧ u.tiles = s.tiles ∧ u.hbm = s.hbm))

/-- Ringing, acknowledging, taking and finishing a mailbox pair, and the time bound of its command. Rests on R446, R449, R450, R451. The model's own readings and choices in it: log entries 91, 92. -/
def Obligations.MailboxPairs : Prop :=
  ∀ s : State, s.canon = true →
    (∀ p : Fin 64, hostUp s = true →
      (∃ u, exec (.mbxRing p) s = .next u ∧
        (pairState s p = 0 ∨ pairState s p = 3 → pairState u p = 1 ∧ u.mbxPosted = s.mbxPosted ++ [p.val] ∧ onlyWords [(pairFld p).off] s u) ∧
        (pairState s p = 1 ∨ pairState s p = 2 → pairState u p = pairState s p ∧ u.mbxPosted = s.mbxPosted ∧
          fld u 0 R.MBX_RING_BUSY_COUNT = min (fld s 0 R.MBX_RING_BUSY_COUNT + 1) (2 ^ 32 - 1) ∧ fld u 0 R.MBX_STATUS_RING_BUSY = 1)) ∧
      (∃ u, exec (.mbxAck p) s = .next u ∧ u.mbxPosted = s.mbxPosted ∧
        (pairState s p = 3 → pairState u p = 0 ∧ onlyWords [(pairFld p).off] s u) ∧
        (pairState s p ≠ 3 → pairState u p = pairState s p ∧
          fld u 0 R.MBX_ACK_BAD_COUNT = min (fld s 0 R.MBX_ACK_BAD_COUNT + 1) (2 ^ 32 - 1) ∧ fld u 0 R.MBX_STATUS_ACK_BAD = 1))) ∧
    -- taking a pair: it is RUNNING with its page as it stood, or it fails at once
    (∀ p : Nat, s.sec.hand = none → takesPairs s = true →
      nextPair s (s.mbxRun.flatMap fun c => opUnits c.page) (if inRecovery s then s.mbxPosted.filter fun p => decide (p = 0) else s.mbxPosted) = some p →
      ∃ c s1, c.pair = p ∧ c.page = reqPage s p ∧ c.op = fieldLe (reqPage s p) 0 2 ∧ c.since = s.now ∧ pairState s1 p = 2 ∧
        s1.mbxRun = s.mbxRun ++ [c] ∧ s1.mbxPosted = s.mbxPosted.filter (fun q => decide (q ≠ p)) ∧ s1.mbx = s.mbx ∧
        (takeFails s1 c 0 = none → exec (.mailboxTake 0) s = .next s1) ∧
        (∀ e, takeFails s1 c 0 = some e → exec (.mailboxTake 0) s = .next (finish s1 c e.1 e.2 []))) ∧
    -- finishing a command: the response page, DONE, the counters
    (∀ (c : MbxCmd) (status detail : Nat) (result : List Byte), c.pair < 64 → c.page.length = 4096 → result.length ≤ 4032 → status < 65536 →
      let u := finish s c status detail result
      pairState u c.pair = 3 ∧ (∀ x ∈ u.mbxRun, x.pair ≠ c.pair) ∧
      mbxRead u (0x2000 * c.pair + 0x1000) 2 = leBytes 2 status ∧ mbxRead u (0x2000 * c.pair + 0x1000 + 12) 4 = leBytes 4 detail ∧
      mbxRead u (0x2000 * c.pair + 0x1000 + 8) 4 = leBytes 4 result.length ∧ mbxRead u (0x2000 * c.pair + 0x1000 + 64) result.length = result ∧
      fld u 0 R.MBX_CMD_CNT_COUNT = min (fld s 0 R.MBX_CMD_CNT_COUNT + 1) (2 ^ 32 - 1) ∧
      fld u 0 R.MBX_FAIL_CNT_COUNT = min (fld s 0 R.MBX_FAIL_CNT_COUNT + if status = 0 then 0 else 1) (2 ^ 32 - 1)) ∧
    -- past its bound a command fails with TIMEOUT
    (∀ (i : Instr) (pair : Fin 64) (op : Nat) (c : MbxCmd), mailboxRow pair i = some op →
      s.mbxRun.find? (fun c => decide (c.pair = pair.val) && decide (c.op = op)) = some c → s.stall = none → c.since + opBound c < s.now →
      exec i s = .next (finish s c stTimeout 0 []))

/-- GET_INFO, GET_CERT, ATTEST, FW_STATUS, GET_DIGEST and SNAPSHOT answer with the module's own values. Rests on R396, R451, R454, R482, R488. The model's own readings and choices in it: log entries 93, 95. -/
def Obligations.MailboxReports : Prop :=
  ∀ (s : State) (pair : Fin 64) (c : MbxCmd),
    (mbxRuns s pair 1 c → exec (.getInfo pair) s = .next (finish s c 0 0 (partNumber ++ [0xA0, 0, 0, 0] ++ leBytes 4 (myId s) ++
      leBytes 4 (fld s 0 R.XCH_TAG_TAG) ++ [BitVec.ofNat 8 (fld s 0 R.SEC_STATE_SLOT), 0, 0, 0] ++ leBytes 8 (slotVersion s 0) ++ leBytes 8 (slotVersion s 1)))) ∧
    (mbxRuns s pair 0x40 c → exec (.getCert pair) s = .next (finish s c 0 0
      (leBytes 4 (s.sec.certs.getD (par c.page 0 1) []).length ++ s.sec.certs.getD (par c.page 0 1) []))) ∧
    (mbxRuns s pair 0x41 c → ∃ sig u, sig.length = 512 ∧ u.regs = s.regs ∧ u.mbx = s.mbx ∧
      exec (.attest pair) s = .next (finish u c 0 0 ((leBytes 4 1 ++ leBytes 4 (myId s) ++ partNumber ++
        [0xA0, BitVec.ofNat 8 (fld s 0 R.SEC_STATE_SLOT), 0, 0] ++ leBytes 4 (fuseSvn s) ++ slotMeas s (fld s 0 R.SEC_STATE_SLOT) ++
        slotMeas s (1 - fld s 0 R.SEC_STATE_SLOT) ++ myDigest s ++ stagedDigest s ++ leBytes 8 (fld s 0 R.XCH_COMMITTED) ++ sub c.page 64 32 ++
        sha512 s.sec.idMod) ++ sig))) ∧
    (mbxRuns s pair 0x43 c → exec (.fwStatus pair) s = .next (finish s c 0 0 ([BitVec.ofNat 8 (fld s 0 R.SEC_STATE_SLOT), BitVec.ofNat 8 (s.sec.prefer % 2),
      BitVec.ofNat 8 ((if fldOn s 0 R.SEC_STATUS_FALLBACK then 1 else 0) + (if ownerReq s then 2 else 0)), 0] ++ leBytes 4 (fuseSvn s) ++
      leBytes 8 (slotVersion s 0) ++ leBytes 8 (slotVersion s 1) ++ slotMeas s 0 ++ slotMeas s 1))) ∧
    (mbxRuns s pair 0x45 c → exec (.getDigest pair) s = .next (finish s c 0 0 (myDigest s ++ stagedDigest s))) ∧
    (mbxRuns s pair 5 c →
      let st := c.snap.getD (fld s 0 R.XCH_COMMITTED, 0)
      let bs := snapBlocks c.page
      let right := bs.all fun b => decide ((trailerOf (hbmRead s (snapAddr s b.1 b.2 st.1) 9216)).version = low48 st.1)
      ∃ u, u.mbx = s.mbx ∧ u.hbm = s.hbm ∧
        (right = true → exec (.snapshot pair) s = .next (finish u c 0 0 (leBytes 8 st.1 ++ leBytes 4 bs.length ++ leBytes 4 st.2)) ∧
          u.out = s.out ++ bs.zipIdx.map fun d => .hostWrite (par c.page 0 8 + 9216 * d.2) (hbmRead s (snapAddr s d.1.1 d.1.2 st.1) 9216)) ∧
        (right = false → st.1 < fld s 0 R.XCH_COMMITTED → 3 ≤ st.2 → exec (.snapshot pair) s =
          .next (finish u c stRetry (fld s 0 R.XCH_COMMITTED % 2 ^ 32) [])) ∧
        (right = false → st.1 < fld s 0 R.XCH_COMMITTED → st.2 < 3 → exec (.snapshot pair) s = .next u ∧
          u.mbxRun = s.mbxRun.map fun x => if x.pair = c.pair then { x with snap := some (fld s 0 R.XCH_COMMITTED, st.2 + 1), since := s.now } else x))

/-- STAGE_CONFIG, LOAD_STREAMS, STREAM_CTRL, TAKEOVER, UPDATE_RETRY, SUPERSEDE, BUCKET_ARRIVED, BUCKET_HOLD and SET_LEDGER. Rests on R197, R287, R401, R451, R452, R453, R455. The model's own readings and choices in it: log entries 96. -/
def Obligations.MailboxWork : Prop :=
  ∀ (s : State) (pair : Fin 64) (c : MbxCmd),
    (mbxRuns s pair 2 c →
      let A := par c.page 16 8
      let r := memRead s (par c.page 0 8) (par c.page 8 4)
      let why := cfgRefusal s A (sub c.page 88 64) r.1
      (∀ set, parseImage r.1 = some set → why = 0 → exec (.stageConfig pair) s = .next (finish (stageSet r.2 set A) c 0 0 (set.digest.take 4)) ∧
        (s.cfg.isSome = true → (stageSet r.2 set A).staged = some (set, A) ∧ (stageSet r.2 set A).cfg = s.cfg)) ∧
      (why ≠ 0 → exec (.stageConfig pair) s = .next (finish (raiseNamed r.2 0 R.XCH_STATUS_STAGE_REF [] 0x33 5 A 0 0 [why]) c stRefused why []))) ∧
    (mbxRuns s pair 3 c →
      let os := (List.range (par c.page 0 4)).map fun i => 32 + 32 * i
      let atRest := fun o => let st := seqState s (phys s (par c.page o 1)); st = sqStopped ∨ st = sqHalted
      (∀ w, (∀ o ∈ os, atRest o) → checkStreams (os.map fun o => (par c.page o 1, streamOps s (par c.page o 1) (par c.page (o + 8) 8) (par c.page (o + 16) 4))) = some w →
        exec (.loadStreams pair) s = .next (finish s c stCycle (w.1 * 2 ^ 24 + w.2) [])) ∧
      ((∀ o ∈ os, atRest o) → checkStreams (os.map fun o => (par c.page o 1, streamOps s (par c.page o 1) (par c.page (o + 8) 8) (par c.page (o + 16) 4))) = none →
        exec (.loadStreams pair) s = .next (finish (os.foldl (fun s o => loadStream s c.page o) s) c 0 0 []))) ∧
    (mbxRuns s pair 4 c →
      let ts := (maskTiles (par c.page 0 8)).filter fun t => ctrlAllowed s (phys s t) (par c.page 8 1)
      exec (.streamCtrl pair) s = .next (finish (ts.foldl (fun s t => ctrlAct s (phys s t) (par c.page 8 1)) s) c 0 0
        (leBytes 8 (ts.map fun t => 2 ^ t).sum))) ∧
    (mbxRuns s pair 6 c →
      let n := phys s (par c.page 0 1)
      (ptileState s n ≠ 0 ∨ s.retiring.contains n = true → exec (.takeover pair) s = .next (finish s c stBadState (ptileState s n) [])) ∧
      (ptileState s n = 0 → s.retiring.contains n = false → spareOf s (n / 17) = none → exec (.takeover pair) s = .next (finish s c stNoSpare (n / 17) [])) ∧
      (∀ q, ptileState s n = 0 → s.retiring.contains n = false → spareOf s (n / 17) = some q → takeoverReady s n = true →
        exec (.takeover pair) s = .next (finish (Sys2Proof.Machine.takeover s (par c.page 0 1) n q) c 0 0 [BitVec.ofNat 8 q]))) ∧
    (mbxRuns s pair 7 c →
      (obkt s (par c.page 0 4) = none → exec (.updateRetry pair) s = .next (finish s c stMbxOwner 0 [])) ∧
      (∀ o, obkt s (par c.page 0 4) = some o → o.failed = true → par c.page 8 8 = o.ver →
        exec (.updateRetry pair) s = .next (finish (requeue s (par c.page 0 4)) c 0 0 []))) ∧
    (mbxRuns s pair 8 c →
      (obkt s (par c.page 0 4) = none → exec (.supersede pair) s = .next (finish s c stMbxOwner 0 [])) ∧
      (∀ o, obkt s (par c.page 0 4) = some o → par c.page 16 8 < par c.page 8 8 → exec (.supersede pair) s = .next (finish s c stBadParam 8 [])) ∧
      (∀ o, obkt s (par c.page 0 4) = some o → par c.page 8 8 ≤ par c.page 16 8 → par c.page 16 8 ≤ (if o.published then o.ver else o.ver - 1) →
        exec (.supersede pair) s = .next (finish (Sys2Proof.Machine.supersede s (par c.page 0 4) (par c.page 8 8) (par c.page 16 8)) c 0 0 []))) ∧
    (mbxRuns s pair 9 c → ∀ (g : GBkt) (r : RBkt), geomBkt s (par c.page 0 4) = some g → rbkt s (par c.page 0 4) = some r →
      let ps := List.range (17 * g.nslice)
      ∃ u, u.mbx = s.mbx ∧ u.hbm = s.hbm ∧
        (∀ p, ps.find? (fun p => !arrivedOk s g (par c.page 8 8) p) = some p → exec (.bucketArrived pair) s = .next (finish u c stBlkCheck p [])) ∧
        ((∀ p ∈ ps, arrivedOk s g (par c.page 8 8) p = true) → exec (.bucketArrived pair) s = .next (finish u c 0 0 (leBytes 4 (17 * g.nslice))) ∧
          ∃ q ∈ u.rbkts, q.bucket = r.bucket ∧ (rver q (par c.page 8 8)).got = ps ∧ (rver q (par c.page 8 8)).fullAt.isSome = true)) ∧
    (mbxRuns s pair 0xA c →
      (obkt s (par c.page 0 4) = none → exec (.bucketHold pair) s = .next (finish s c stMbxOwner 0 [])) ∧
      (∀ o, obkt s (par c.page 0 4) = some o →
        (par c.page 4 1 = 1 → exec (.bucketHold pair) s = .next (finish (modO s (par c.page 0 4) fun o => { o with held := true }) c 0 0 [])) ∧
        (par c.page 4 1 ≠ 1 → exec (.bucketHold pair) s =
          .next (finish (judgeStep (modO s (par c.page 0 4) fun o => { o with held := false }) (par c.page 0 4)) c 0 0 [])))) ∧
    (mbxRuns s pair 0xB c → exec (.setLedger pair) s = .next (finish { s with ledger := par c.page 0 4 } c 0 0 []))

/-- FW_STOP, FW_STAGE, OWNER_KEY_SET and SVN_COMMIT act on the firmware state, the flash slot and the fuses. Rests on R456, R476, R479, R485, R488, R489. The model's own readings and choices in it: log entries 98. -/
def Obligations.MailboxFirmware : Prop :=
  ∀ (s : State) (pair : Fin 64) (c : MbxCmd), s.canon = true →
    (mbxRuns s pair 0xC c → s.mbxRun = [c] → ∃ u, exec (.fwStop pair) s = .next u ∧ fld u 0 R.HIF_FW_STATE = 4 ∧ u.mbxRun = [] ∧ pairState u c.pair = 3) ∧
    (∀ (data : List Byte) (ok : Bool), mbxRuns s pair 0x42 c → inRecovery s = false →
      let host := bitOn (par c.page 0 8) 63
      let r := if host then (data, s) else memRead s (par c.page 0 8) (par c.page 8 4)
      let slot := 1 - fld s 0 R.SEC_STATE_SLOT
      r.1.length = par c.page 8 4 →
      (imageFail s r.1 ≠ 0 ∨ measureOf r.1 ≠ sub c.page 80 64 → exec (.fwStage pair data ok) s = .next (finish r.2 c stAuth 0 [])) ∧
      (imageFail s r.1 = 0 → measureOf r.1 = sub c.page 80 64 → ∃ u,
        exec (.fwStage pair data ok) s = .next (if ok then finish u c 0 0 [BitVec.ofNat 8 slot] else finish u c stHw 0 []) ∧
        u.sec.meas = s.sec.meas.set slot (if ok then measureOf r.1 else []) ∧
        (ok = true → sgetList flashDefault u.flash (slot * 2 ^ 26) r.1.length = r.1) ∧
        (∀ a, a < slot * 2 ^ 26 ∨ (slot + 1) * 2 ^ 26 ≤ a → r.1.length ≤ 2 ^ 26 → sget flashDefault u.flash a = sget flashDefault s.flash a))) ∧
    (mbxRuns s pair 0x44 c →
      let m := sub c.page 64 512
      (ownerArmed s = false ∨ ownerSet s = true → exec (.ownerKeySet pair) s = .next (finish s c stBadState (fld s 0 R.HIF_FW_STATE) [])) ∧
      (ownerArmed s = true → ownerSet s = false → rsaVerify m (sub c.page 580 512) (sub c.page 64 513) = false →
        exec (.ownerKeySet pair) s = .next (finish s c stAuth 0 [])) ∧
      (ownerArmed s = true → ownerSet s = false → rsaVerify m (sub c.page 580 512) (sub c.page 64 513) = true → ∃ u,
        exec (.ownerKeySet pair) s = .next (finish u c 0 0 []) ∧ u.sec.okey = m ∧ fld u 0 R.SEC_STATE_OWNER_SET = 1 ∧
        (∀ i < 16, rdReg u (R.SEC_OKEY.off + 4 * i) = BitVec.ofNat 32 (fieldLe (sha512 m) (4 * i) 4)) ∧
        fld u 0 R.SEC_STATE_OWNER_REQ = (if par c.page 512 1 = 1 then 1 else 0) ∧ fld u 0 R.SEC_STATUS_OWNER_PROG = 1)) ∧
    (mbxRuns s pair 0x46 c →
      let v := leNat (slotRead s (fld s 0 R.SEC_STATE_SLOT) 8 4)
      (v ≤ fuseSvn s → exec (.svnCommit pair) s = .next (finish s c stBadState (fld s 0 R.HIF_FW_STATE) [])) ∧
      (fuseSvn s < v → exec (.svnCommit pair) s = .next (finish (setFuse s R.SEC_SVN.off (BitVec.ofNat 32 v)) c 0 0 (leBytes 4 v)) ∧
        sget (fun _ => (0 : Word)) (setFuse s R.SEC_SVN.off (BitVec.ofNat 32 v)).fuses R.SEC_SVN.off = BitVec.ofNat 32 v))

/-- The copy engines copy between host memory and HBM unit by unit with their results; PERST and D3hot. Rests on R444, R459, R460, R535. The model's own readings and choices in it: log entries 16. -/
def Obligations.HostCopiesAndResets : Prop :=
  (
  ∀ (s : State) (e : Fin 8), s.canon = true →
    (∀ (hub : Bool) (w : Word), cpyMay s e hub → cpyBusy s e = false → cpyJob s e = none → ∃ u, exec (.hifCpyGo e hub w) s = .next u ∧
      cpyBusy u e = true ∧ fld u 0 (fldAt R.HIF_CPY_STAT_RESULT e) = 0 ∧
      cpyJob u e = some ⟨w.toNat % 4, fld s 0 (fldAt R.HIF_CPY_SRC_ADDR e) / 64 * 64, fld s 0 (fldAt R.HIF_CPY_DST_ADDR e) / 64 * 64,
        fld s 0 (fldAt R.HIF_CPY_LEN_LEN64 e)⟩ ∧ u.hbm = s.hbm ∧ u.out = s.out) ∧
    (∀ (w : Word), 6 ≤ e.val → hostUp s = true → exec (.hifCpyGo e false w) s = .next s) ∧
    (∀ (hub : Bool) (units : Nat) (data : List Byte), cpyMay s e hub → cpyBusy s e = true → ∃ u, exec (.hifCpyAbort e hub units data) s = .next u ∧
      cpyBusy u e = false ∧ fld u 0 (fldAt R.HIF_CPY_STAT_RESULT e) = 5 ∧ cpyJob u e = none) ∧
    (∀ (j : CpyJob) (data : List Byte) (err pois : Option Nat), cpyJob s e = some j → (j.dir % 2 = 0 → data.length = 64 * j.n) →
      ∃ u, exec (.copyDone e data err pois) s = .next u ∧ cpyBusy u e = false ∧ cpyJob u e = none ∧
        fld u 0 (fldAt R.HIF_CPY_STAT_RESULT e) = (cpyRun j data err pois j.n 0 0 s).2 ∧
        -- host memory to HBM, clear of the reserve
        (j.dir = 0 → err = none → pois = none → j.dst + 64 * j.n ≤ 0x17F00000000 →
          fld u 0 (fldAt R.HIF_CPY_STAT_RESULT e) = 0 ∧ hbmRead u j.dst (64 * j.n) = data ∧
          ∀ a, (a < j.dst ∨ j.dst + 64 * j.n ≤ a) → hbmRead u a 1 = hbmRead s a 1) ∧
        -- HBM to host memory
        (j.dir = 1 → err = none → pois = none → j.src + 64 * j.n ≤ 0x17F00000000 →
          fld u 0 (fldAt R.HIF_CPY_STAT_RESULT e) = 0 ∧ u.hbm = s.hbm ∧
          ∃ l, u.out = s.out ++ ((List.range j.n).map fun i => .hostWrite (j.dst + 64 * i) (hbmRead s (j.src + 64 * i) 64)) ++ l) ∧
        -- a unit beyond HBM, or in the reserve, ends it
        (j.dir = 0 → 0 < j.n → hbmEnd < j.dst + 64 → fld u 0 (fldAt R.HIF_CPY_STAT_RESULT e) = 1 ∧ u.hbm = s.hbm) ∧
        (j.dir = 0 → 0 < j.n → 0x17F00000000 ≤ j.dst → j.dst + 64 ≤ hbmEnd →
          fld u 0 (fldAt R.HIF_CPY_STAT_RESULT e) = 2 ∧ u.hbm = s.hbm ∧ fld u 0 R.HIF_RSV_DENY = min (fld s 0 R.HIF_RSV_DENY + 1) (2 ^ 32 - 1)))) ∧
  (
  (∀ (s : State) (moved : List (Nat × List Byte)) (width : Nat) (flit : Bool) (speed : Fin 8), s.canon = true → s.hubUp = true → width < 32 →
    ∃ u, exec (.perst moved width flit speed) s = .next u ∧ fld u 0 R.HIF_LINK_WIDTH = width ∧ fld u 0 R.HIF_LINK_FLIT = (if flit then 1 else 0) ∧
      fld u 0 R.HIF_LINK_SPEED = speed.val ∧ u.d3hot = false ∧ u.msix = [] ∧ u.msixPend = [] ∧ (∀ q < 16, evqOn u q = false) ∧
      u.pwr.width = width ∧ u.hubUp = true ∧ (hostUp u = true ↔ 4 ≤ width)) ∧
  (∀ (s : State) (on : Bool), s.hubUp = true → 4 ≤ s.pwr.width → exec (.d3hotChange on) s = .next { s with d3hot := on } ∧
    hostUp { s with d3hot := on } = !on))

/-- Core stalls and the watchdog, the live-update timeout, and the management network's link and frames. Rests on R472, R473, R486, R487. The model's own readings and choices in it: log entries 100, 103. -/
def Obligations.HubProcessorAndNetwork : Prop :=
  (
  ∀ s : State, s.canon = true → s.hubUp = true →
    (∀ core : Fin 4, ∃ u, exec (.coreStall core) s = .next u ∧ u.stall = some (s.stall.getD s.now) ∧ fld u 0 R.MGT_STATUS_CORE_STALL = 1 ∧
      fld u 0 R.HIF_FW_BEAT = beatNow s ∧ u.mbxRun = s.mbxRun) ∧
    (∀ t, s.stall = some t → 1 ≤ fld s 0 R.HIF_FW_STATE → fld s 0 R.HIF_FW_STATE ≤ 3 → handing s = false → (∀ c ∈ s.mbxRun, c.pair < 64) →
      (s.now < t + 100 * tcMs → exec .fwWatchdog s = .next s) ∧
      (t + 100 * tcMs ≤ s.now → ∃ u, exec .fwWatchdog s = .next u ∧ u.stall = none ∧ u.mbxRun = [] ∧
        fld u 0 R.MGT_FW_RESTART_COUNT = min (fld s 0 R.MGT_FW_RESTART_COUNT + 1) (2 ^ 32 - 1) ∧ fld u 0 R.MGT_STATUS_FW_RESTART = 1 ∧
        u.tiles = s.tiles ∧ u.mbx = s.mbx ∧
        ∀ p < 64, pairState u p = if s.mbxRun.any (fun c => decide (c.pair = p)) then 0 else pairState s p)) ∧
    (∀ (h : Handover) (t : Nat), s.sec.hand = some h → h.at' = some t → t + 1000 * tcMs ≤ s.now →
      (1000 * tcMs < Config.handTime t ∨ s.stall.isSome = true → ∃ u, exec .liveUpdateTimeout s = .next u ∧ fld u 0 R.HIF_FW_STATE = 2 ∧
        u.sec.hand = none ∧ u.stall = none ∧ fld u 0 R.SEC_STATE_SLOT = fld s 0 R.SEC_STATE_SLOT ∧
        fld u 0 R.MGT_FW_ROLLBACK_COUNT = min (fld s 0 R.MGT_FW_ROLLBACK_COUNT + 1) (2 ^ 32 - 1) ∧ fld u 0 R.MGT_STATUS_FW_ROLLBACK = 1) ∧
      (Config.handTime t ≤ 1000 * tcMs → s.stall = none → ∃ u, exec .liveUpdateTimeout s = .next u ∧ fld u 0 R.HIF_FW_STATE = 2 ∧
        u.sec.hand = none ∧ fld u 0 R.SEC_STATE_SLOT = h.new % 2 ∧ u.sec.prefer = h.new ∧
        ∀ i < 16, rdReg u (R.SEC_MEAS.off + 4 * i) = BitVec.ofNat 32 (fieldLe (s.sec.meas.getD h.new []) (4 * i) 4)))) ∧
  (
  ∀ s : State, s.canon = true → s.hubUp = true →
    (s.mgmtDown = true → exec (.managementLinkChange true) s = .next { s with mgmtDown := false }) ∧
    (s.mgmtDown = false → ∃ u, exec (.managementLinkChange false) s = .next u ∧ u.mgmtDown = true ∧ fld u 0 R.MGT_STATUS_LINK_DOWN = 1 ∧ u.out = s.out) ∧
    (∀ f, s.mgmtDown = false →
      (frameAnswer s f = none → ∃ u, exec (.mgmtFrameRx f) s = .next u ∧ u.out = s.out ∧ onlyWords [R.MGT_RX_DISCARD_COUNT.off] s u ∧
        fld u 0 R.MGT_RX_DISCARD_COUNT = min (fld s 0 R.MGT_RX_DISCARD_COUNT + 1) (2 ^ 32 - 1)) ∧
      (∀ a, frameAnswer s f = some a → exec (.mgmtFrameRx f) s = .next { s with out := s.out ++ [.datagram a] })) ∧
    (∀ (f m : List Byte), icmpOf f = some m → m.take 2 ≠ [135#8, 0] → m.take 2 ≠ [128#8, 0] → frameAnswer s f = none) ∧
    (∀ f, icmpOf f = none → frameAnswer s f = none))

/-- The monitor's report commands, its line editor, baud rates, stuck input, idle lock, lockout end and standby line. Rests on R490, R491, R492, R494. The model's own readings and choices in it: log entries 104. -/
def Obligations.MonitorReportsAndLine : Prop :=
  (
  ∀ s : State, monUp s = true → s.mon.stuck = false →
    let replies := fun (i : Instr) (n : Nat) => ∃ ls : List (List Byte), ∃ u, exec i s = .next u ∧ ls.length = n ∧ u.regs = s.regs ∧ u.tiles = s.tiles ∧
      u.hbm = s.hbm ∧ u.out = s.out ++ [.uart ((ls.flatMap fun l => l ++ crlf) ++ ascii "OK" ++ crlf ++ prompt s)]
    replies .help 13 ∧ replies .info 2 ∧ replies .tiles 68 ∧ replies .ports 48 ∧ replies .temp 3 ∧
    (∀ n, 1 ≤ n → n ≤ 64 → replies (.events n) (min n s.fwRecs.length)) ∧
    (∀ off n, 1 ≤ n → n ≤ 64 → (∀ i < n, monMay (off + 4 * i) = true) → ∃ u, exec (.rd off n) s = .next u ∧
      (monRdLines n off (monTakes s)).1.length = n ∧
      u.out = (monRdLines n off (monTakes s)).2.out ++ [.uart (((monRdLines n off (monTakes s)).1.flatMap fun l => l ++ crlf) ++ ascii "OK" ++ crlf ++
        prompt (monRdLines n off (monTakes s)).2)]) ∧
    (∀ off n, 1 ≤ n → n ≤ 64 → (∃ i < n, monMay (off + 4 * i) = false) → exec (.rd off n) s = .next (err (monTakes s) 4)) ∧
    (∀ off n, n = 0 ∨ 64 < n → exec (.rd off n) s = .next (err (monTakes s) 2) ∧ exec (.events n) s = .next (err (monTakes s) 2))) ∧
  (
  ∀ s : State, s.canon = true →
    (∀ b : Byte, monUp s = true → s.mon.stuck = false →
      (b ≠ 13#8 → b ≠ 10#8 → b ≠ 8#8 → b ≠ 127#8 → s.mon.long = false → ∃ u, exec (.uartCharRx b) s = .next u ∧ u.out = s.out ++ [.uart [b]] ∧
        u.regs = s.regs ∧ (s.mon.line.length < 255 → u.mon.line = s.mon.line ++ [b] ∧ u.mon.long = false) ∧
        (255 ≤ s.mon.line.length → u.mon.line = [] ∧ u.mon.long = true)) ∧
      (b = 8#8 ∨ b = 127#8 → ∃ u, exec (.uartCharRx b) s = .next u ∧ u.mon.line = s.mon.line.dropLast ∧ u.out = s.out ++ [.uart [b]]) ∧
      (b = 13#8 ∨ b = 10#8 →
        let s2 := { monTakes s with out := s.out ++ [.uart [b]], mon := { (monTakes s).mon with line := [], long := false } }
        (s.mon.long = false → exec (.uartCharRx b) s = .next (runLine s2 s.mon.line)) ∧
        (s.mon.long = true → ∃ u m, exec (.uartCharRx b) s = .next u ∧ u.out = s2.out ++ [.uart m] ∧ ascii "ERR 2" <+: m ∧ u.mon.line = []))) ∧
    (∀ rate c, monUp s = true → s.mon.stuck = false → baudCode rate = some c → ∃ u, exec (.baud rate) s = .next u ∧ fld u 0 R.MGT_MON_BAUD = c ∧
      u.out = s.out ++ [.uart (ascii "OK" ++ crlf ++ prompt s)] ∧ onlyWords [R.MGT_MON_BAUD.off] s u) ∧
    (s.hubUp = true → s.mon.stuck = false → ∃ u, exec .uartStuck s = .next u ∧ u.mon.stuck = true ∧ fld u 0 R.MGT_STATUS_UART_STUCK = 1) ∧
    (∃ u, exec .uartRxRelease s = .next u ∧ u.mon = { s.mon with stuck := false } ∧ u.regs = s.regs ∧ u.out = s.out) ∧
    (unlocked s = true → (s.now < s.mon.last + 900000 * tcMs → exec .monitorIdleLock s = .next s) ∧
      (s.mon.last + 900000 * tcMs ≤ s.now → ∃ u, exec .monitorIdleLock s = .next u ∧ unlocked u = false ∧ onlyWords [R.MGT_MON_UNLOCKED.off] s u)) ∧
    (∀ t, s.mon.lockAt = some t → (s.now < t + 60000 * tcMs → exec .unlockLockoutEnd s = .next s) ∧
      (t + 60000 * tcMs ≤ s.now → ∃ u, exec .unlockLockoutEnd s = .next u ∧ fld u 0 R.MGT_MON_LOCKOUT = 0 ∧ u.mon.lockAt = none ∧
        onlyWords [R.MGT_MON_LOCKOUT.off] s u)) ∧
    (s.pwr.stby = true → s.hubUp = false → ∃ u m, exec .standbyUartLine s = .next u ∧ u.out = s.out ++ [.uart m] ∧ ascii "glk-stby " <+: m ∧ u.regs = s.regs))

/-- The locked monitor refuses wr, stream, ownerarm and lock; unlocking takes a nonce and its answer, and three failures lock out. Rests on R490, R492, R493. The model's own readings and choices in it: log entries 102. -/
def Obligations.MonitorLocks : Prop :=
  ∀ s : State, s.canon = true → monUp s = true → s.mon.stuck = false →
    -- locked: error 3, and nothing else
    (∀ i, (∃ off v, i = .wr off v) ∨ (∃ m a, i = .stream m a) ∨ i = .ownerArm ∨ i = .lock → unlocked s = false →
      exec i s = .next { monTakes s with out := s.out ++ [.uart (ascii "ERR 3 locked" ++ crlf ++ ascii "glk> ")] }) ∧
    -- unlocked: their effect
    (unlocked s = true →
      (∀ off v, monMay off = true → off % 4 = 0 → exec (.wr off v) s = .next (ok (barWrite (monTakes s) true off v) [])) ∧
      (∀ (m : BitVec 64) a, a ≤ 3 → exec (.stream m a) s = .next (ok (streamCtrl (monTakes s) m.toNat a).1 [hex 16 (streamCtrl (monTakes s) m.toNat a).2])) ∧
      (∃ u, exec .ownerArm s = .next u ∧ u.sec.armAt = some s.now ∧ u.fuses = s.fuses) ∧
      (∃ u, exec .lock s = .next u ∧ unlocked u = false ∧ onlyWords [R.MGT_MON_UNLOCKED.off] s u)) ∧
    -- a nonce, and the answer to it
    (fld s 0 R.MGT_MON_LOCKOUT = 1 → exec .unlock s = .next (err (monTakes s) 6)) ∧
    (fld s 0 R.MGT_MON_LOCKOUT = 0 → ∃ u n, exec .unlock s = .next u ∧ n.length = 32 ∧ u.mon.nonce = some (n, s.now) ∧ u.mon.answer = [] ∧ u.regs = s.regs) ∧
    (∀ g, s.mon.nonce.isSome = true → g ≠ [] → g.length ≤ 8 → ∃ u, exec (.resp (some g)) s = .next u ∧ u.regs = s.regs ∧
      u.mon.answer = s.mon.answer ++ g.flatMap fun w => beBytes 4 w.toNat) ∧
    (s.mon.nonce.isSome = true → ∃ u, exec (.resp none) s = .next u ∧ u.mon.nonce = none ∧
      (answerOk (monTakes s) = true → unlocked u = true ∧ u.mon.fails = 0) ∧
      (answerOk (monTakes s) = false → unlocked u = unlocked s ∧ fld u 0 R.MGT_STATUS_UNLOCK_FAIL = 1 ∧
        fld u 0 R.MGT_UNLOCK_FAIL_COUNT = min (fld s 0 R.MGT_UNLOCK_FAIL_COUNT + 1) (2 ^ 32 - 1) ∧
        (s.mon.fails < 2 → u.mon.fails = s.mon.fails + 1 ∧ fld u 0 R.MGT_MON_LOCKOUT = fld s 0 R.MGT_MON_LOCKOUT) ∧
        (2 ≤ s.mon.fails → fld u 0 R.MGT_MON_LOCKOUT = 1 ∧ u.mon.lockAt = some s.now)))

/-- The telemetry ADC's sequences, reference, period, results, housekeeping, thermal limit and calibration. Rests on R498, R499, R500, R501, R502, R503, R504, R506, R508, R509, R510, R524. The model's own readings and choices in it: log entries 108, 109. -/
def Obligations.AdcEvents : Prop :=
  (
  ∀ s : State, s.canon = true →
    (hostUp s = true → fldOn s 0 R.TAD_CTRL_ENABLE = true → ∃ u, exec .tadStart s = .next u ∧
      (fldOn s 0 R.TAD_STAT_SETTLED = true → s.tad.seq = none → s.tad.calAt = none →
        u.tad.seq = some ((List.range (tadLen s)).map fun i => rdReg s (R.TAD_SLOT.off + 4 * i), s.now) ∧ fld u 0 R.TAD_STAT_BUSY = 1 ∧
        (tadMode s ≠ 0 → u.tad.run = true) ∧ onlyWords [R.TAD_STAT.off] s u) ∧
      (s.tad.seq.isSome = true → u.tad.seq = s.tad.seq ∧ u.tad.late = true ∧ onlyWords [] s u)) ∧
    (hostUp s = true → fld s 0 R.TAD_CTRL_START = 0 → ∃ u, exec .tadStop s = .next u ∧ u.tad.run = false ∧ u.tad.late = false ∧
      u.tad.seq = s.tad.seq ∧ onlyWords [] s u) ∧
    (∀ sel : Fin 4, hostUp s = true → fld s 0 R.TAD_CTRL_START = 0 → sel.val % 3 ≠ tadRef s → ∃ u, exec (.tadRefsel sel) s = .next u ∧
      fld u 0 R.TAD_CTRL_REFSEL = sel.val ∧ fld u 0 R.TAD_STAT_SETTLED = 0 ∧ u.tad.refAt = some s.now ∧ u.tad.seq = none ∧
      (s.tad.seq.isSome = true → fld u 0 R.TAD_STAT_BUSY = 0 ∧ fld u 0 R.TAD_STATUS_ABORT = 1 ∧
        fld u 0 R.TAD_ABORT_CNT_COUNT = min (fld s 0 R.TAD_ABORT_CNT_COUNT + 1) (2 ^ 32 - 1))) ∧
    (∀ (v : BitVec 16) (t : Nat), s.hubUp = true → s.tad.refAt = some t →
      (s.now < t + tadWait s * tcUs → exec (.refSettled v) s = .next s) ∧
      (t + tadWait s * tcUs ≤ s.now → ∃ u, exec (.refSettled v) s = .next u ∧ u.tad.refAt = none ∧
        (tadRef s ≠ 1 ∨ (2000 * 32768 ≤ v.toInt * 5000 ∧ v.toInt * 5000 ≤ 3000 * 32768) → fld u 0 R.TAD_STAT_SETTLED = 1) ∧
        (tadRef s = 1 → (v.toInt * 5000 < 2000 * 32768 ∨ 3000 * 32768 < v.toInt * 5000) →
          fld u 0 R.TAD_STATUS_REF_BAD = 1 ∧ fld u 0 R.TAD_STAT_SETTLED = fld s 0 R.TAD_STAT_SETTLED))) ∧
    (s.hubUp = true → s.tad.run = true → tadMode s = 2 → s.tad.tick + tadPeriod s * tcUs ≤ s.now → ∃ u, exec .periodTick s = .next u ∧
      u.tad.tick = s.tad.tick + tadPeriod s * tcUs ∧
      (s.tad.seq.isSome = true → u.tad.seq = s.tad.seq ∧ fld u 0 R.TAD_PER_SKIP_COUNT = min (fld s 0 R.TAD_PER_SKIP_COUNT + 1) (2 ^ 32 - 1)) ∧
      (s.tad.seq = none → fldOn s 0 R.TAD_CTRL_ENABLE = true → fldOn s 0 R.TAD_STAT_SETTLED = true → s.tad.calAt = none →
        u.tad.seq = some ((List.range (tadLen s)).map fun i => rdReg s (R.TAD_SLOT.off + 4 * i), s.now)))) ∧
  (
  ∀ s : State, s.canon = true →
    (∀ (sl : List Word) (t : Nat) (m : List AdcSlot), s.tad.seq = some (sl, t) → sl.length ≤ 32 →
      (s.now < t + (sl.map slotTime).foldl (· + ·) 0 → exec (.sequenceEnd m) s = .next s) ∧
      (t + (sl.map slotTime).foldl (· + ·) 0 ≤ s.now → m.map (fun x => x.codes.length) = sl.map slotN →
        ∃ u, exec (.sequenceEnd m) s = .next u ∧ u.tad.odd = !s.tad.odd ∧ u.tad.portRd = 0 ∧
          fld u 0 R.TAD_SEQ_CNT_COUNT = min (fld s 0 R.TAD_SEQ_CNT_COUNT + 1) (2 ^ 32 - 1) ∧
          (s.tad.portRd < s.tad.port.length → fld u 0 R.TAD_PORT_LOST_COUNT = min (fld s 0 R.TAD_PORT_LOST_COUNT + 1) (2 ^ 32 - 1)) ∧
          ∀ i, ∀ h : i < sl.length,
            let x := m.getD i { codes := [], bias := 0 }
            let c := slotChan sl[i]
            let v := corrected s c (meanCode x.codes)
            rdReg u (R.TAD_RES.off + 4 * i) = resWord i c (slotFlags s i sl[i] x v) (!s.tad.odd) v.1 ∧
            u.tad.port[i]? = some (resWord i c (slotFlags s i sl[i] x v) (!s.tad.odd) v.1))) ∧
    (∀ codes : List (BitVec 16), s.hubUp = true → codes.length = 17 →
      (s.now < s.tad.hkAt + tcMs → exec (.housekeeping codes) s = .next s) ∧
      (s.tad.hkAt + tcMs ≤ s.now → ∃ v, exec (.housekeeping codes) s = .next (thermJudge ((List.range 4).foldl passTemp v)) ∧ v.tad.hkAt = s.now ∧
        v.tiles = s.tiles ∧ (∀ k, k < 0x60280 ∨ 0x602C4 ≤ k → rdReg v k = rdReg s k) ∧
        ∀ k < 17, rdReg v (R.TAD_HK.off + 4 * k) = resWord k (hkChan k)
          (if atRail (codes.getD k 0) || (corrected s (hkChan k) (codes.getD k 0).toInt).2 then 8 else 0) false
          (corrected s (hkChan k) (codes.getD k 0).toInt).1)) ∧
    (let thr : Int := clampN 80 110 (fld s 0 R.PWR_THERM_THR)
     ((∃ k < 10, thr * 16 ≤ hkCode s k) → (thermJudge s).pwr.therm = true) ∧
     ((∀ k < 10, hkCode s k < (thr - 5) * 16) → (thermJudge s).pwr.therm = false) ∧
     ((∀ k < 10, hkCode s k < thr * 16) → (∃ k < 10, (thr - 5) * 16 ≤ hkCode s k) → thermJudge s = s))) ∧
  (
  ∀ s : State, s.canon = true →
    (∀ (i : Instr) (step c acq : Nat),
      (∃ (ch : Fin 16) (a : BitVec 8), c = ch.val ∧ acq = a.toNat ∧ ((i = .tadCalZero ch a ∧ step = 1) ∨ (i = .tadCalFull ch a ∧ step = 2))) ∨
        (c = 0 ∧ acq = 0 ∧ ((i = .tadCalStore ∧ step = 3) ∨ (i = .tadCalLoad ∧ step = 4))) → hostUp s = true →
      (fldOn s 0 R.TAD_CAL_STAT_BUSY = true → ∃ u, exec i s = .next u ∧ u.tad = s.tad ∧
        fld u 0 R.TAD_CAL_IGN_COUNT = min (fld s 0 R.TAD_CAL_IGN_COUNT + 1) (2 ^ 32 - 1) ∧ onlyWords [R.TAD_CAL_IGN_COUNT.off] s u) ∧
      (fldOn s 0 R.TAD_CAL_STAT_BUSY = false → ∃ u, exec i s = .next u ∧ fld u 0 R.TAD_CAL_STAT_ERR = 0 ∧
        (step = 1 ∨ step = 2 ∨ fwReady s = false → fld u 0 R.TAD_CAL_STAT_BUSY = 1 ∧ fld u 0 R.TAD_CAL_STAT_STORED = 0 ∧ u.tad.cal = some (step, c, acq)) ∧
        (step = 1 ∨ step = 2 → s.tad.seq = none → s.tad.calAt = none → u.tad.calAt = some s.now ∧ fld u 0 R.TAD_STAT_CAL = 1) ∧
        (step = 3 → fwReady s = true → fld u 0 R.TAD_CAL_STAT_BUSY = 0 ∧ fld u 0 R.TAD_CAL_STAT_STORED = 1 ∧
          u.tad.flash = (List.range 16).map fun c => (c, fld s 0 (fldAt R.TAD_OFS_OFS c), fld s 0 (fldAt R.TAD_GAIN_GAIN c))) ∧
        (step = 4 → fwReady s = true → fld u 0 R.TAD_CAL_STAT_BUSY = 0 ∧ ∀ k < 16,
          let v := ((s.tad.flash.find? fun x => decide (x.1 = k)).map (·.2)).getD (0, 0x8000)
          fld u 0 (fldAt R.TAD_OFS_OFS k) = v.1 % 65536 ∧ fld u 0 (fldAt R.TAD_GAIN_GAIN k) = v.2 % 65536))) ∧
    (∀ (step c acq t : Nat) (l : List (BitVec 16)), s.tad.cal = some (step, c, acq) → s.tad.calAt = some t → (step = 1 ∨ step = 2) → c < 16 → l.length = 256 →
      let m := meanCode l
      let d := m - tadOfs s c
      let g := rneInt ((32768 * fldInt s 0 R.TAD_CAL_FS_CODE : Int) / (d : Rat))
      (s.now < t + 256 * (tcUs + acq * 80) → exec (.tadCalStepDone l) s = .next s) ∧
      (t + 256 * (tcUs + acq * 80) ≤ s.now → ∃ u, exec (.tadCalStepDone l) s = .next u ∧ u.tad.cal = none ∧ u.tad.calAt = none ∧
        fld u 0 R.TAD_CAL_STAT_BUSY = 0 ∧
        (step = 1 → l.any atRail = false → fld u 0 (fldAt R.TAD_OFS_OFS c) = tc 16 m) ∧
        (step = 1 → l.any atRail = true → fld u 0 R.TAD_CAL_STAT_ERR = 4) ∧
        (step = 2 → d < 1024 → fld u 0 R.TAD_CAL_STAT_ERR = 2) ∧
        (step = 2 → 1024 ≤ d → (g < 16384 ∨ 65535 < g) → fld u 0 R.TAD_CAL_STAT_ERR = 3) ∧
        (step = 2 → 1024 ≤ d → 16384 ≤ g → g ≤ 65535 → l.any atRail = true → fld u 0 R.TAD_CAL_STAT_ERR = 4) ∧
        (step = 2 → 1024 ≤ d → 16384 ≤ g → g ≤ 65535 → l.any atRail = false → fld u 0 (fldAt R.TAD_GAIN_GAIN c) = g.toNat))))

/-- Badger channels: enabling, disabling, kicks, request edges, minimum interval, and the next burst with its bytes moved. Rests on R511, R512, R513, R514, R515, R516. The model's own readings and choices in it: log entries 110. -/
def Obligations.DmaChannels : Prop :=
  ∀ (s : State) (c : Fin 8), s.canon = true →
    (∀ (hub : Bool) (w : Word), hostUp s = true → (hub = true ∨ c.val < 5) → bdgOn s c = false → ∃ u, exec (.bdgEnable c hub w) s = .next u ∧
      (bdgCfgOk (regWrite s (R.BDG_CFG.off + 0x20 * c.val) (w ||| 1#32)) c = true → bdgOn u c = true ∧ fld u 0 (fldAt R.BDG_POS_P c) = 0 ∧
        fld u 0 (fldAt R.BDG_STAT_ERR_CODE c) = 0) ∧
      (bdgCfgOk (regWrite s (R.BDG_CFG.off + 0x20 * c.val) (w ||| 1#32)) c = false → bdgOn u c = false ∧ fld u 0 (fldAt R.BDG_STAT_ERR_CODE c) = 1 ∧
        fld u 0 (fldAt R.BDG_STAT_ERR c) = 1)) ∧
    (∀ i, (∃ w, i = .bdgEnable c false w) ∨ i = .bdgDisable c false ∨ i = .bdgKick c false → 5 ≤ c.val → exec i s = .next s) ∧
    (∀ hub : Bool, hostUp s = true → (hub = true ∨ c.val < 5) → bdgOn s c = true →
      (∃ u, exec (.bdgDisable c hub) s = .next u ∧ bdgOn u c = false ∧ (bdgOf u c).req = false ∧ (bdgOf u c).held = false ∧
        fld u 0 (fldAt R.BDG_STAT_HELD c) = 0) ∧
      (bdgReq s c = 7 → ∃ u, exec (.bdgKick c hub) s = .next u ∧ bdgRequests s u c) ∧ (bdgReq s c ≠ 7 → exec (.bdgKick c hub) s = .next s)) ∧
    (s.hubUp = true → bdgReq s c ≠ 0 → bdgReq s c ≠ 5 → bdgReq s c ≠ 7 →
      (bdgOn s c = true → (bdgOf s c).line = false → ∃ u, exec (.bdgRequestEdge c true) s = .next u ∧ (bdgOf u c).line = true ∧ bdgRequests s u c) ∧
      (∃ u, exec (.bdgRequestEdge c false) s = .next u ∧ (bdgOf u c).line = false ∧ (bdgOf u c).run = 0 ∧ u.regs = s.regs)) ∧
    (s.hubUp = true → bdgOn s c = true → (bdgOf s c).req = false → (bdgOf s c).held = true →
      (bdgMinInt s c = false ∨ bdgBlocked s c = true → exec (.bdgMinIntExpire c) s = .next s) ∧
      (bdgMinInt s c = true → bdgBlocked s c = false → ∃ u, exec (.bdgMinIntExpire c) s = .next u ∧ (bdgOf u c).req = true ∧ (bdgOf u c).held = false ∧
        fld u 0 (fldAt R.BDG_STAT_HELD c) = 0)) ∧
    (∀ ext, s.hubUp = true → (bdgOrder s).find? (fun c => (bdgOf s c).req && bdgOn s c) = some c.val →
      (bdgBlocked s c = true → ∃ u, exec (.bdgBurst ext []) s = .next u ∧ (bdgOf u c).req = false ∧ (bdgOf u c).held = true ∧ u.bdgMem = s.bdgMem) ∧
      (bdgBlocked s c = false →
        let len := fld s 0 (fldAt R.BDG_LEN_LEN c)
        let p := fld s 0 (fldAt R.BDG_POS_P c)
        let b := fld s 0 (fldAt R.BDG_CFG_BURST c)
        let n := if fldOn s 0 (fldAt R.BDG_CFG_CIRC c) then b else min b (len - p)
        let src := fld s 0 (fldAt R.BDG_SRC_ADDR c)
        let dst := fld s 0 (fldAt R.BDG_DST_ADDR c)
        ∃ u, exec (.bdgBurst ext []) s = .next u ∧ u.bdgLast = c.val ∧ (bdgOf u c).req = false ∧ (bdgOf u c).lastAt = some s.now ∧
          fld u 0 (fldAt R.BDG_BURST_COUNT c) = min (fld s 0 (fldAt R.BDG_BURST_COUNT c) + 1) (2 ^ 32 - 1) ∧
          (p + n < len → len ≤ 262144 → fld u 0 (fldAt R.BDG_POS_P c) = p + n) ∧
          -- from buffer memory to buffer memory
          (src + 4 * len ≤ 0x100000 → dst + 4 * len ≤ 0x100000 → fldOn s 0 (fldAt R.BDG_CFG_SRC_INC c) = true → fldOn s 0 (fldAt R.BDG_CFG_DST_INC c) = true →
            src % 4 = 0 → dst % 4 = 0 → (src + 4 * len ≤ dst ∨ dst + 4 * len ≤ src) → p + n ≤ len →
            (∀ i < n, sget bdgDefault u.bdgMem (dst / 4 + p + i) = sget bdgDefault s.bdgMem (src / 4 + p + i)) ∧
            (∀ a, a < dst / 4 + p ∨ dst / 4 + p + n ≤ a → sget bdgDefault u.bdgMem a = sget bdgDefault s.bdgMem a))))

/-- Losing and restoring main and standby power, the heat trip, the short retry, resets of the module and the start sequence. Rests on R477, R521, R523, R524, R525, R532, R536. The model's own readings and choices in it: log entries 112, 113. -/
def Obligations.PowerAndStart : Prop :=
  (
  ∀ s : State, s.canon = true →
    (s.pwr.on = true → ∃ u, exec .pwrEnDeassert s = .next u ∧ poweredOff u ∧ u.pwr.en = false ∧ u.flash = s.flash ∧ u.fuses = s.fuses) ∧
    (∃ u, exec .standbyLoss s = .next u ∧ u.regs = [] ∧ u.tiles = [] ∧ u.hbm = [] ∧ u.hubUp = false ∧ u.pwr.on = false ∧ u.pwr.stby = false ∧
      u.flash = s.flash ∧ u.fuses = s.fuses ∧ u.pending = s.pending) ∧
    (s.pwr.stby = true →
      (∀ i f, (i = .mainReverse ∧ f = R.PWR_IN_MAIN_REV) ∨ (i = .mainOvervolt ∧ f = R.PWR_IN_MAIN_OV) ∨ (i = .brownout ∧ f = R.PWR_IN_MAIN_UV) →
        ∃ u, exec i s = .next u ∧ fld u 0 f = 1 ∧ u.pwr.inOk = false ∧ u.pwr.on = false ∧ u.pwr.fault = true ∧ u.pwr.good = false ∧
          (s.pwr.on = true → poweredOff u) ∧ (i = .brownout → s.pwr.on = true → fld u 0 R.PWR_RST_CAUSE_CAUSE = 4)) ∧
      (s.pwr.on = true → ∃ u, exec .thermalTrip s = .next u ∧ poweredOff u ∧ fld u 0 R.PWR_IN_TRIP = 1 ∧ fld u 0 R.PWR_IN_CODE = 5 ∧
        fld u 0 R.PWR_RST_CAUSE_CAUSE = 5 ∧ u.pwr.why = .latched ∧ u.pwr.fault = true) ∧
      (s.pwr.on = false → s.pwr.why = .standby → ∃ u, exec .mainShort s = .next u ∧ fld u 0 R.PWR_IN_MAIN_SHORT = 1 ∧ u.pwr.why = .shortRetry ∧
        u.pwr.shortAt = s.now ∧ u.pwr.fault = true) ∧
      (∀ e, s.pwr.why = .shortRetry → s.pwr.en = true →
        (s.now < s.pwr.shortAt + 1000 * tcMs → ∀ ok, exec (.mainShortRetry ok e) s = .next s) ∧
        (s.pwr.shortAt + 1000 * tcMs ≤ s.now → ∃ u, exec (.mainShortRetry false e) s = .next u ∧ u.pwr.why = .latched ∧ fld u 0 R.PWR_IN_MAIN_SHORT = 1 ∧
          u.pwr.on = s.pwr.on)))) ∧
  (
  (∀ (s : State) (t2 : Nat) (e : StartEnv), s.canon = true → sget (fun _ => (0 : Word)) s.fuses R.HIF_FW.off = 0 →
    let u := startFrom2 s t2 e
    ((∀ slot < 2, imageFail s (slotImage s slot) ≠ 0) → u.hubUp = true ∧ u.now = t2 + 4 * tcMs ∧ fld u 0 R.HIF_FW_STATE = 0 ∧
      fld u 0 R.SEC_STATE_RECOVERY = 1 ∧ fld u 0 R.SEC_STATUS_BOOT_FAIL = 1 ∧ u.pwr.good = false) ∧
    ((∃ slot < 2, imageFail s (slotImage s slot) = 0) → e.badStacks = [] → u.hubUp = true ∧ u.now = t2 + 282 * tcMs ∧ u.launchAt = some (t2 + 252 * tcMs) ∧
      fld u 0 R.HIF_FW_STATE = 2 ∧ fld u 0 R.XCH_CTRL_ENABLE = 1)) ∧
  (∀ (s : State) (e : StartEnv), s.canon = true →
    let t2 := max s.now (s.pwr.stbyAt + 20 * tcMs) + 8 * tcMs
    (s.pwr.stby = true → s.pwr.on = false → s.pwr.inOk = true → s.pwr.rstN = false → s.pwr.why = .standby →
      exec (.pwrEnAssert e) s = .next (startFrom2 { s with pwr := { s.pwr with en := true } } t2 e)) ∧
    (s.pwr.stby = true → s.pwr.on = false → s.pwr.inOk = false → s.pwr.en = true → s.pwr.rstN = false → s.pwr.why = .standby →
      exec (.mainRestored e) s = .next (startFrom2 { s with pwr := { s.pwr with inOk := true } } t2 e)) ∧
    (s.pwr.stby = true → s.pwr.on = false → s.pwr.inOk = true → s.pwr.en = true → s.pwr.rstN = false → s.pwr.why = .shortRetry →
      s.pwr.shortAt + 1000 * tcMs ≤ s.now →
      exec (.mainShortRetry true e) s = .next (startFrom2 { s with pwr := { s.pwr with why := .standby } } t2 e)) ∧
    (s.pwr.inOk = true → s.pwr.en = true → s.pwr.rstN = false → exec (.powerOnReset e) s = .next (startFrom2 (allOff s true) (s.now + 28 * tcMs) e)) ∧
    (s.pwr.en = false → ∃ u, exec (.powerOnReset e) s = .next u ∧ u.regs = [] ∧ u.tiles = [] ∧ u.hbm = [] ∧ u.pwr.on = false ∧ u.pwr.stby = true ∧
      u.pwr.stbyAt = s.now)) ∧
  -- the resets of the whole module, with their causes
  (∀ (s : State) (e : StartEnv) (i : Instr) (cause : Nat), s.canon = true → s.pwr.on = true → s.pwr.rstN = false →
    (i = .resetN true e ∧ cause = 1) ∨ (i = .moduleReset e ∧ cause = 2 ∧ hostUp s = true) ∨ (i = .pllUnlock true e ∧ cause = 3) →
    ∃ s1, poweredOff s1 ∧ fld s1 0 R.PWR_RST_CAUSE_CAUSE = cause ∧ s1.now = s.now ∧ s1.flash = s.flash ∧ s1.fuses = s.fuses ∧
      exec i s = .next (if cause = 1 then s1 else startFrom2 s1 s.now e)) ∧
  (∀ (s : State) (e : StartEnv), s.pwr.stby = true → s.pwr.on = false → s.pwr.inOk = true → s.pwr.en = true → s.pwr.why = .standby →
    exec (.resetN false e) s = .next (startFrom2 { s with pwr := { s.pwr with rstN := false } } s.now e)))

/-- Hub, die and tile resets are refused and counted while firmware or work stands in the way, and else reset exactly their part. Rests on R532, R533, R534. The model's own readings and choices in it: log entries 114. -/
def Obligations.PartialResets : Prop :=
  ∀ s : State, s.canon = true → hostUp s = true →
    let refused := fun (i : Instr) => ∃ u, exec i s = .next u ∧ fld u 0 R.PWR_RST_REF_COUNT = min (fld s 0 R.PWR_RST_REF_COUNT + 1) (2 ^ 32 - 1) ∧
      fld u 0 R.PWR_STATUS_RST_REF = 1 ∧ u.tiles = s.tiles ∧ u.hbm = s.hbm ∧ u.mbx = s.mbx
    (fld s 0 R.HIF_FW_STATE ≠ 0 → fld s 0 R.HIF_FW_STATE ≠ 4 → refused .hubReset) ∧
    (fld s 0 R.HIF_FW_STATE = 0 ∨ fld s 0 R.HIF_FW_STATE = 4 → ∃ u, exec .hubReset s = .next u ∧ u.mbxRun = [] ∧ u.mbxPosted = [] ∧ u.cfg = none ∧
      u.hbm = s.hbm ∧ u.owlNet = [] ∧ u.flash = s.flash ∧ (s.launchAt = none → u.tiles = s.tiles)) ∧
    (∀ (dies : BitVec 4) (d : Nat), d < 4 → dies = BitVec.ofNat 4 (2 ^ d) →
      ((∃ m < 68, m / 17 = d ∧ ptileState s m = 0 ∧ seqRests s m = false) → refused (.dieReset dies)) ∧
      ((∀ m < 68, m / 17 = d → ptileState s m ≠ 0 ∨ seqRests s m = true) → ∃ u, exec (.dieReset dies) s = .next u ∧
        (∀ m, m / 17 ≠ d → tileAt u m = tileAt s m) ∧ (fwReady s = false → ∀ m, m / 17 = d → tileAt u m = {}) ∧
        ∀ a, sget hbmDefault u.hbm a = if stackOf a / 6 = d then hbmDefault a else sget hbmDefault s.hbm a)) ∧
    (∀ n : BitVec 7,
      ((68 ≤ n.toNat ∨ (ptileState s n.toNat = 0 ∧ seqRests s n.toNat = false)) → refused (.tileReset n)) ∧
      (n.toNat < 68 → (ptileState s n.toNat ≠ 0 ∨ seqRests s n.toNat = true) → ∃ u, exec (.tileReset n) s = .next u ∧ u.hbm = s.hbm ∧
        (∀ m, m ≠ n.toNat → tileAt u m = tileAt s m) ∧ (fwReady s = false → tileAt u n.toNat = {})))

/-- THROTTLE_N, the undervoltage warning, the power cap and the clock inputs set their flags, and every tile shows the limits. Rests on R194, R521, R522, R524, R526, R527, R528, R529, R530. The model's own readings and choices in it: log entries 115. -/
def Obligations.LimitsFollowPower : Prop :=
  ∀ s : State, s.canon = true → s.pwr.on = true →
    (fldOn s 0 R.PWR_THR_FILTERED = false → ∃ u, exec .throttleAssert s = .next u ∧ fld u 0 R.PWR_THR_PIN = 1 ∧ fld u 0 R.PWR_THR_FILTERED = 1 ∧
      limitsShown u) ∧
    (fldOn s 0 R.PWR_THR_FILTERED = true → ∃ u, exec .throttleAssert s = .next u ∧ fld u 0 R.PWR_THR_PIN = 1 ∧
      fld u 0 R.PWR_TOGGLE_CNT_COUNT = min (fld s 0 R.PWR_TOGGLE_CNT_COUNT + 1) (2 ^ 32 - 1)) ∧
    (∃ u, exec .throttleRelease s = .next u ∧ fld u 0 R.PWR_THR_PIN = 0 ∧ fld u 0 R.PWR_THR_FILTERED = 0 ∧ limitsShown u) ∧
    (fldOn s 0 R.PWR_THR_PIN = true → s.pwr.stuckRep = false → s.pwr.pinAt + max 10 (fld s 0 R.PWR_THR_STUCK_MS) * tcMs ≤ s.now →
      ∃ u, exec .throttleStuck s = .next u ∧ fld u 0 R.PWR_STATUS_THR_STUCK = 1 ∧ u.pwr.stuckRep = true ∧ exec .throttleStuck u = .next u) ∧
    (∀ low, s.pwr.uv ≠ low → ∃ u, exec (.mainUndervolt low) s = .next u ∧ u.pwr.uv = low ∧ limitsShown u ∧ (low = true → fld u 0 R.PWR_STATUS_UV = 1)) ∧
    (∀ (e : StartEnv), ∃ u, exec (.pllUnlock false e) s = .next u ∧ fld u 0 R.CLK_STATUS_UNLOCK = 1 ∧
      fld u 0 R.CLK_UNLOCK_CNT_COUNT = min (fld s 0 R.CLK_UNLOCK_CNT_COUNT + 1) (2 ^ 32 - 1) ∧ u.tiles = s.tiles) ∧
    (∀ present ppm, ∃ u, exec (.hostRefclkChange present ppm) s = .next u ∧ fld u 0 R.CLK_STATUS_REFCLK = (if present then 1 else 0) ∧
      fld u 0 R.CLK_PPM_PPM = (if present then ppm.toNat else 0)) ∧
    (∀ w : BitVec 16,
      let l := (s.pwr.samples ++ [w.toNat]).drop (s.pwr.samples.length + 1 - 1000)
      let sum := l.foldl (· + ·) 0
      ∃ u, exec (.powerSample w) s = .next u ∧ u.pwr.samples = l ∧
        fld u 0 R.PWR_NOW_MEAN10 = (2 * sum + l.length) / (2 * l.length) % 65536 ∧
        (s.pwr.cap = none → fldOn s 0 R.PWR_CTRL_CAP_EN = true → (capLimit s - 50) * l.length ≤ sum → u.pwr.cap = some s.now ∧ limitsShown u ∧
          fld u 0 R.PWR_STATUS_CAP = 1) ∧
        (s.pwr.cap = none → sum < (capLimit s - 50) * l.length → u.pwr.cap = none) ∧
        (∀ t, s.pwr.cap = some t → sum < (capLimit s - capRelease s) * l.length → t + 100 * tcUs ≤ s.now → u.pwr.cap = none ∧ limitsShown u) ∧
        (∀ t, s.pwr.cap = some t → fldOn s 0 R.PWR_CTRL_CAP_EN = true → ((capLimit s - capRelease s) * l.length ≤ sum ∨ s.now < t + 100 * tcUs) →
          u.pwr.cap = some t))

/-- A loss of lock of the root PLL or of its oscillator resets the module with cause PLL; a shorter one is counted and flagged. Rests on R521. -/
def Obligations.PllLoss : Prop :=
  ∀ (s : State) (e : StartEnv), s.canon = true → s.pwr.on = true →
    (s.pwr.rstN = false → ∃ s1, poweredOff s1 ∧ fld s1 0 R.PWR_RST_CAUSE_CAUSE = 3 ∧ s1.now = s.now ∧ s1.flash = s.flash ∧ s1.fuses = s.fuses ∧
      exec (.pllUnlock true e) s = .next (startFrom2 s1 s.now e)) ∧
    (∃ u, exec (.pllUnlock false e) s = .next u ∧ fld u 0 R.CLK_STATUS_UNLOCK = 1 ∧
      fld u 0 R.CLK_UNLOCK_CNT_COUNT = min (fld s 0 R.CLK_UNLOCK_CNT_COUNT + 1) (2 ^ 32 - 1) ∧ u.tiles = s.tiles)
end

