-- ==== Sys2Proof/Laws/Sparse.lean ====
section
/-! SUPPORT. The laws of the sparse tables: reading after writing, and that every write keeps the canonical form. -/

namespace Sys2Proof.Machine

variable {α : Type}

/-- Keys of a table that are all above `k`. -/
def sabove (k : Nat) (l : List (Nat × α)) : Prop := ∀ p ∈ l, k < p.1

theorem sget_of_sabove (d : Nat → α) {l : List (Nat × α)} {k : Nat} (h : sabove k l) : sget d l k = d k := by
  induction l with
  | nil => rfl
  | cons p t ih =>
    have hp : k < p.1 := h p (by simp)
    obtain ⟨k', v⟩ := p
    simp only [sget]
    rw [if_neg (by simp at hp; omega)]
    exact ih fun q hq => h q (by simp [hq])

/-- The canonical form, clause by clause. -/
theorem swf_cons [DecidableEq α] (d : Nat → α) (k : Nat) (v : α) (t : List (Nat × α)) :
    swf d ((k, v) :: t) = true ↔ v ≠ d k ∧ sabove k t ∧ swf d t = true := by
  simp [swf, sabove, and_assoc]

theorem sabove_mono {j k : Nat} (h : j ≤ k) {l : List (Nat × α)} (hl : sabove k l) : sabove j l :=
  fun p hp => Nat.lt_of_le_of_lt h (hl p hp)

theorem sabove_sput {j k : Nat} (hjk : j < k) (v : α) (keep : Bool) {l : List (Nat × α)} (hl : sabove j l) :
    sabove j (sput k v keep l) := by
  induction l with
  | nil => cases keep <;> simp [sput, sabove, hjk]
  | cons p t ih =>
    obtain ⟨k', v'⟩ := p
    have hp : j < k' := hl (k', v') (by simp)
    have ht : sabove j t := fun q hq => hl q (by simp [hq])
    unfold sput
    split
    · intro q hq
      rcases List.mem_cons.1 hq with rfl | hq
      · exact hp
      · exact ih ht q hq
    · split
      · cases keep
        · exact ht
        · intro q hq
          rcases List.mem_cons.1 hq with rfl | hq
          · exact hjk
          · exact ht q hq
      · cases keep
        · exact hl
        · intro q hq
          rcases List.mem_cons.1 hq with rfl | hq
          · exact hjk
          · exact hl q hq

/-- A write keeps the canonical form. -/
theorem swf_sset [DecidableEq α] (d : Nat → α) {l : List (Nat × α)} (h : swf d l = true) (k : Nat) (v : α) :
    swf d (sset d l k v) = true := by
  unfold sset
  induction l with
  | nil => by_cases hv : v = d k <;> simp [sput, swf, hv]
  | cons p t ih =>
    obtain ⟨k', v'⟩ := p
    obtain ⟨hv', hk', ht⟩ := (swf_cons d k' v' t).1 h
    unfold sput
    split
    · rename_i hlt
      exact (swf_cons ..).2 ⟨hv', sabove_sput hlt v _ hk', ih ht⟩
    · split
      · rename_i heq
        subst heq
        by_cases hv : v = d k'
        · simpa [hv] using ht
        · simpa [hv] using (swf_cons ..).2 ⟨hv, hk', ht⟩
      · by_cases hv : v = d k
        · simpa [hv] using h
        · have hlt : k < k' := by omega
          simp only [hv, ne_eq, not_false_eq_true, decide_true, if_true]
          exact (swf_cons ..).2 ⟨hv, fun q hq => by
            rcases List.mem_cons.1 hq with rfl | hq
            · exact hlt
            · exact Nat.lt_trans hlt (hk' q hq), h⟩

/-- Writing a run of values keeps the canonical form. -/
theorem swf_ssetList [DecidableEq α] (d : Nat → α) {l : List (Nat × α)} (h : swf d l = true) (k : Nat) (vs : List α) :
    swf d (ssetList d l k vs) = true := by
  induction vs generalizing l k with
  | nil => exact h
  | cons v vs ih => exact ih (swf_sset d h k v) (k + 1)

/-- Dropping entries keeps the canonical form. -/
theorem swf_filter [DecidableEq α] (d : Nat → α) {l : List (Nat × α)} (h : swf d l = true) (p : Nat × α → Bool) :
    swf d (l.filter p) = true := by
  induction l with
  | nil => rfl
  | cons q t ih =>
    obtain ⟨k, v⟩ := q
    obtain ⟨hv, hk, ht⟩ := (swf_cons d k v t).1 h
    by_cases hp : p (k, v)
    · simp only [List.filter_cons, hp, if_true]
      exact (swf_cons ..).2 ⟨hv, fun q hq => hk q (List.mem_filter.1 hq).1, ih ht⟩
    · simpa [List.filter_cons, hp] using ih ht

/-- A fold of steps that each keep the canonical form keeps it. -/
theorem swf_foldl {β : Type} [DecidableEq α] (d : Nat → α) {l : List (Nat × α)} {g : List (Nat × α) → β → List (Nat × α)} {xs : List β}
    (h : swf d l = true) (hg : ∀ l x, swf d l = true → swf d (g l x) = true) : swf d (xs.foldl g l) = true := by
  induction xs generalizing l with
  | nil => exact h
  | cons x xs ih => exact ih (hg l x h)

@[simp] theorem swf_nil [DecidableEq α] (d : Nat → α) : swf d [] = true := rfl

/-- A key reads as what was last written to it. -/
@[simp] theorem sget_sset_same [DecidableEq α] (d : Nat → α) {l : List (Nat × α)} (h : swf d l = true) (k : Nat) (v : α) :
    sget d (sset d l k v) k = v := by
  unfold sset
  induction l with
  | nil => by_cases hv : v = d k <;> simp [sput, sget, hv]
  | cons p t ih =>
    obtain ⟨k', v'⟩ := p
    obtain ⟨hv', hk', ht⟩ := (swf_cons d k' v' t).1 h
    unfold sput
    split
    · rename_i hlt
      simp only [sget]
      rw [if_neg (by omega)]
      exact ih ht
    · split
      · rename_i heq
        subst heq
        by_cases hv : v = d k'
        · simp [hv, sget_of_sabove d hk']
        · simp [hv, sget]
      · by_cases hv : v = d k
        · have hlt : k < k' := by omega
          simp only [hv, ne_eq, not_true_eq_false, decide_false, if_false, Bool.false_eq_true]
          exact sget_of_sabove d fun q hq => by
            rcases List.mem_cons.1 hq with rfl | hq
            · exact hlt
            · exact Nat.lt_trans hlt (hk' q hq)
        · simp [hv, sget]

/-- A write leaves every other key as it was. -/
theorem sget_sset_other [DecidableEq α] (d : Nat → α) (l : List (Nat × α)) {j k : Nat} (hjk : j ≠ k) (v : α) :
    sget d (sset d l k v) j = sget d l j := by
  unfold sset
  generalize decide (v ≠ d k) = keep
  induction l with
  | nil => cases keep <;> simp [sput, sget, hjk]
  | cons p t ih =>
    obtain ⟨k', v'⟩ := p
    unfold sput
    split
    · simp only [sget, ih]
    · split
      · rename_i heq
        subst heq
        cases keep <;> simp [sget, hjk]
      · cases keep <;> simp [sget, hjk]

/-- A run of writes leaves every key outside the run as it was. -/
theorem sget_ssetList_other [DecidableEq α] (d : Nat → α) (l : List (Nat × α)) (j k : Nat) (vs : List α)
    (h : j < k ∨ k + vs.length ≤ j) : sget d (ssetList d l k vs) j = sget d l j := by
  induction vs generalizing l k with
  | nil => rfl
  | cons v vs ih =>
    simp only [ssetList]
    rw [ih _ _ (by simp at h; omega), sget_sset_other d l (by simp at h; omega)]

/-- A key of a run of writes reads as the value the run gives it. -/
theorem sget_ssetList_in [DecidableEq α] (d : Nat → α) {l : List (Nat × α)} (hl : swf d l = true) (k i : Nat) (vs : List α)
    (h : i < vs.length) : sget d (ssetList d l k vs) (k + i) = vs[i] := by
  induction vs generalizing l k i with
  | nil => simp at h
  | cons v vs ih =>
    simp only [ssetList]
    cases i with
    | zero =>
      exact (sget_ssetList_other d _ k (k + 1) vs (by omega)).trans (sget_sset_same d hl k v)
    | succ i =>
      have := ih (swf_sset d hl k v) (k + 1) i (by simpa using h)
      rw [show k + (i + 1) = k + 1 + i by omega, this]
      rfl

end Sys2Proof.Machine
end

