-- ==== Sys2Proof/Laws/Moves.lean ====
section
/-! SUPPORT. How the relation of Safety.lean is built up: it is reflexive, it chains, and each update of a field of State is one of its steps. -/

namespace Sys2Proof.Machine

variable {l l1 : List Part} {s u v : State}

theorem Moves.refl (l : List Part) (s : State) : Moves l s s :=
  ⟨fun p _ => by cases p <;> rfl, id, Nat.le_refl _, List.prefix_refl _⟩

/-- The parts of `l1` are among those of `l`. -/
structure Part.Sub (l1 l : List Part) : Prop where
  all : l1.all (fun p => l.contains p) = true

theorem Part.Sub.trans {l2 : List Part} (h1 : Part.Sub l1 l2) (h2 : Part.Sub l2 l) : Part.Sub l1 l :=
  ⟨List.all_eq_true.2 fun p hp => List.all_eq_true.1 h2.all p (by simpa using List.all_eq_true.1 h1.all p hp)⟩

/-- Agreement on a part chains. -/
theorem Part.same_trans (p : Part) (h1 : p.same s u) (h2 : p.same u v) : p.same s v := by
  cases p <;> exact Eq.trans h2 h1

/-- A step that touches the parts of `l1` extends one that touches those of `l`. -/
theorem Moves.chain (h : Moves l1 u v) (hl : Part.Sub l1 l) (h0 : Moves l s u) : Moves l s v :=
  ⟨fun p hp => p.same_trans (h0.same p hp) (h.same p fun hq => hp (by
      have := List.all_eq_true.1 hl.all p hq
      simpa using this)),
   fun hc => h.canon (h0.canon hc), Nat.le_trans h0.time h.time, List.IsPrefix.trans h0.sent h.sent⟩

theorem Moves.ite {c : Prop} [Decidable c] (h1 : c → Moves l s u) (h2 : ¬c → Moves l s v) : Moves l s (if c then u else v) := by
  by_cases hc : c
  · rw [if_pos hc]; exact h1 hc
  · rw [if_neg hc]; exact h2 hc

theorem Moves.foldl {α : Type} {g : State → α → State} {xs : List α} (h0 : Moves l s u) (h : ∀ w x, Moves l s w → Moves l s (g w x)) :
    Moves l s (xs.foldl g u) := by
  induction xs generalizing u with
  | nil => exact h0
  | cons x xs ih => exact ih (h u x h0)

theorem Moves.foldl_snd {α β : Type} {g : β × State → α → β × State} {xs : List α} {a : β × State} (h0 : Moves l s a.2)
    (h : ∀ w x, Moves l s w.2 → Moves l s (g w x).2) : Moves l s (xs.foldl g a).2 := by
  induction xs generalizing a with
  | nil => exact h0
  | cons x xs ih => exact ih (h a x h0)

theorem Moves.foldl_fst {α β : Type} {g : State × β → α → State × β} {xs : List α} {a : State × β} (h0 : Moves l s a.1)
    (h : ∀ w x, Moves l s w.1 → Moves l s (g w x).1) : Moves l s (xs.foldl g a).1 := by
  induction xs generalizing a with
  | nil => exact h0
  | cons x xs ih => exact ih (h a x h0)

theorem Moves.ite_snd {α : Type} {c : Prop} [Decidable c] {a b : α × State} (h1 : c → Moves l s a.2) (h2 : ¬c → Moves l s b.2) :
    Moves l s (if c then a else b).2 := by
  by_cases hc : c
  · rw [if_pos hc]; exact h1 hc
  · rw [if_neg hc]; exact h2 hc

theorem Moves.ite_fst {α : Type} {c : Prop} [Decidable c] {a b : State × α} (h1 : c → Moves l s a.1) (h2 : ¬c → Moves l s b.1) :
    Moves l s (if c then a else b).1 := by
  by_cases hc : c
  · rw [if_pos hc]; exact h1 hc
  · rw [if_neg hc]; exact h2 hc

/-- `Moves` for a function that returns a value and the state. -/
structure MovesP {α : Type} (l : List Part) (s : State) (p : α × State) : Prop where
  h : Moves l s p.2

theorem MovesP.of_mk {α : Type} {a : α} (h : Moves l s u) : MovesP l s (a, u) := ⟨h⟩

theorem MovesP.ite {α : Type} {c : Prop} [Decidable c] {a b : α × State} (h1 : c → MovesP l s a) (h2 : ¬c → MovesP l s b) :
    MovesP l s (if c then a else b) := by
  by_cases hc : c
  · rw [if_pos hc]; exact h1 hc
  · rw [if_neg hc]; exact h2 hc

theorem MovesP.foldl {α β : Type} {g : β × State → α → β × State} {xs : List α} {a : β × State} (h0 : MovesP l s a)
    (h : ∀ w x, Moves l s w.2 → MovesP l s (g w x)) : MovesP l s (xs.foldl g a) := by
  induction xs generalizing a with
  | nil => exact h0
  | cons x xs ih => exact ih (h a x h0.h)

/-- `Moves` for a function that returns the state and a value. -/
structure MovesQ {α : Type} (l : List Part) (s : State) (p : State × α) : Prop where
  h : Moves l s p.1

theorem MovesQ.of_mk {α : Type} {a : α} (h : Moves l s u) : MovesQ l s (u, a) := ⟨h⟩

theorem MovesQ.ite {α : Type} {c : Prop} [Decidable c] {a b : State × α} (h1 : c → MovesQ l s a) (h2 : ¬c → MovesQ l s b) :
    MovesQ l s (if c then a else b) := by
  by_cases hc : c
  · rw [if_pos hc]; exact h1 hc
  · rw [if_neg hc]; exact h2 hc

theorem MovesQ.foldl {α β : Type} {g : State × β → α → State × β} {xs : List α} {a : State × β} (h0 : MovesQ l s a)
    (h : ∀ w x, Moves l s w.1 → MovesQ l s (g w x)) : MovesQ l s (xs.foldl g a) := by
  induction xs generalizing a with
  | nil => exact h0
  | cons x xs ih => exact ih (h a x h0.h)

/-- The canonical form, table by table. -/
theorem canon_iff : s.canon = true ↔
    swf resetWord s.regs = true ∧ swf (fun _ => (0 : Word)) s.fuses = true ∧ swf (fun _ => (0 : Word)) s.flashTrims = true ∧ swf hbmDefault s.hbm = true ∧ swf (fun _ => ({} : Tile)) s.tiles = true ∧ swf (fun _ => ({} : Mc)) s.mcs = true ∧ swf (fun _ => ({} : Port)) s.ports = true ∧ swf mbxDefault s.mbx = true ∧ swf (fun _ => ({} : EvqState)) s.evqs = true ∧ swf msixReset s.msix = true ∧ swf flashDefault s.flash = true ∧ swf (fun _ => ({} : BdgCh)) s.bdg = true ∧ swf bdgDefault s.bdgMem = true := by
  simp [State.canon, and_assoc]

/-- A step that leaves every table of State as it was keeps the canonical form. -/
theorem canon_of_tables (h : s.canon = true) (h0 : swf resetWord s.regs = true → swf resetWord v.regs = true) (h1 : swf (fun _ => (0 : Word)) s.fuses = true → swf (fun _ => (0 : Word)) v.fuses = true) (h2 : swf (fun _ => (0 : Word)) s.flashTrims = true → swf (fun _ => (0 : Word)) v.flashTrims = true) (h3 : swf hbmDefault s.hbm = true → swf hbmDefault v.hbm = true) (h4 : swf (fun _ => ({} : Tile)) s.tiles = true → swf (fun _ => ({} : Tile)) v.tiles = true) (h5 : swf (fun _ => ({} : Mc)) s.mcs = true → swf (fun _ => ({} : Mc)) v.mcs = true) (h6 : swf (fun _ => ({} : Port)) s.ports = true → swf (fun _ => ({} : Port)) v.ports = true) (h7 : swf mbxDefault s.mbx = true → swf mbxDefault v.mbx = true) (h8 : swf (fun _ => ({} : EvqState)) s.evqs = true → swf (fun _ => ({} : EvqState)) v.evqs = true) (h9 : swf msixReset s.msix = true → swf msixReset v.msix = true) (h10 : swf flashDefault s.flash = true → swf flashDefault v.flash = true) (h11 : swf (fun _ => ({} : BdgCh)) s.bdg = true → swf (fun _ => ({} : BdgCh)) v.bdg = true) (h12 : swf bdgDefault s.bdgMem = true → swf bdgDefault v.bdgMem = true) : v.canon = true := by
  have hs := canon_iff.1 h
  exact canon_iff.2 ⟨h0 hs.1, h1 hs.2.1, h2 hs.2.2.1, h3 hs.2.2.2.1, h4 hs.2.2.2.2.1, h5 hs.2.2.2.2.2.1, h6 hs.2.2.2.2.2.2.1, h7 hs.2.2.2.2.2.2.2.1, h8 hs.2.2.2.2.2.2.2.2.1, h9 hs.2.2.2.2.2.2.2.2.2.1, h10 hs.2.2.2.2.2.2.2.2.2.2.1, h11 hs.2.2.2.2.2.2.2.2.2.2.2.1, h12 hs.2.2.2.2.2.2.2.2.2.2.2.2⟩

theorem Moves.set_accSent {x0 : List (Nat × Nat × Nat)} (h : Moves l s u) (hm : Part.Sub [.accSent] l) :
    Moves l s { u with accSent := x0 } := by
  refine Moves.chain (l1 := [.accSent]) (u := u) ?_ hm h
  constructor
  · intro p hp
    cases p <;> first | rfl | exact absurd (by decide) hp
  · exact id
  · exact Nat.le_refl _
  · exact List.prefix_refl _

theorem Moves.set_bdg {x0 : List (Nat × BdgCh)} (h : Moves l s u) (hm : Part.Sub [.bdg] l) (c0 : swf (fun _ => ({} : BdgCh)) u.bdg = true → swf (fun _ => ({} : BdgCh)) x0 = true) :
    Moves l s { u with bdg := x0 } := by
  refine Moves.chain (l1 := [.bdg]) (u := u) ?_ hm h
  constructor
  · intro p hp
    cases p <;> first | rfl | exact absurd (by decide) hp
  · exact fun h => canon_of_tables h id id id id id id id id id id id c0 id
  · exact Nat.le_refl _
  · exact List.prefix_refl _

theorem Moves.set_bdgLast {x0 : Nat} (h : Moves l s u) (hm : Part.Sub [.bdgLast] l) :
    Moves l s { u with bdgLast := x0 } := by
  refine Moves.chain (l1 := [.bdgLast]) (u := u) ?_ hm h
  constructor
  · intro p hp
    cases p <;> first | rfl | exact absurd (by decide) hp
  · exact id
  · exact Nat.le_refl _
  · exact List.prefix_refl _

theorem Moves.set_bdgMem {x0 : List (Nat × Word)} (h : Moves l s u) (hm : Part.Sub [.bdgMem] l) (c0 : swf bdgDefault u.bdgMem = true → swf bdgDefault x0 = true) :
    Moves l s { u with bdgMem := x0 } := by
  refine Moves.chain (l1 := [.bdgMem]) (u := u) ?_ hm h
  constructor
  · intro p hp
    cases p <;> first | rfl | exact absurd (by decide) hp
  · exact fun h => canon_of_tables h id id id id id id id id id id id id c0
  · exact Nat.le_refl _
  · exact List.prefix_refl _

theorem Moves.set_beatAt {x0 : Nat} (h : Moves l s u) (hm : Part.Sub [.beatAt] l) :
    Moves l s { u with beatAt := x0 } := by
  refine Moves.chain (l1 := [.beatAt]) (u := u) ?_ hm h
  constructor
  · intro p hp
    cases p <;> first | rfl | exact absurd (by decide) hp
  · exact id
  · exact Nat.le_refl _
  · exact List.prefix_refl _

theorem Moves.set_cpy {x0 : List (Nat × CpyJob)} (h : Moves l s u) (hm : Part.Sub [.cpy] l) :
    Moves l s { u with cpy := x0 } := by
  refine Moves.chain (l1 := [.cpy]) (u := u) ?_ hm h
  constructor
  · intro p hp
    cases p <;> first | rfl | exact absurd (by decide) hp
  · exact id
  · exact Nat.le_refl _
  · exact List.prefix_refl _

theorem Moves.set_csFails {x0 : List (Nat × Nat × Nat × Nat)} (h : Moves l s u) (hm : Part.Sub [.csFails] l) :
    Moves l s { u with csFails := x0 } := by
  refine Moves.chain (l1 := [.csFails]) (u := u) ?_ hm h
  constructor
  · intro p hp
    cases p <;> first | rfl | exact absurd (by decide) hp
  · exact id
  · exact Nat.le_refl _
  · exact List.prefix_refl _

theorem Moves.set_d3hot {x0 : Bool} (h : Moves l s u) (hm : Part.Sub [.d3hot] l) :
    Moves l s { u with d3hot := x0 } := by
  refine Moves.chain (l1 := [.d3hot]) (u := u) ?_ hm h
  constructor
  · intro p hp
    cases p <;> first | rfl | exact absurd (by decide) hp
  · exact id
  · exact Nat.le_refl _
  · exact List.prefix_refl _

theorem Moves.set_den {x0 : List Nat} (h : Moves l s u) (hm : Part.Sub [.den] l) :
    Moves l s { u with den := x0 } := by
  refine Moves.chain (l1 := [.den]) (u := u) ?_ hm h
  constructor
  · intro p hp
    cases p <;> first | rfl | exact absurd (by decide) hp
  · exact id
  · exact Nat.le_refl _
  · exact List.prefix_refl _

theorem Moves.set_doneV {x0 : Nat} (h : Moves l s u) (hm : Part.Sub [.doneV] l) :
    Moves l s { u with doneV := x0 } := by
  refine Moves.chain (l1 := [.doneV]) (u := u) ?_ hm h
  constructor
  · intro p hp
    cases p <;> first | rfl | exact absurd (by decide) hp
  · exact id
  · exact Nat.le_refl _
  · exact List.prefix_refl _

theorem Moves.set_evqs {x0 : List (Nat × EvqState)} (h : Moves l s u) (hm : Part.Sub [.evqs] l) (c0 : swf (fun _ => ({} : EvqState)) u.evqs = true → swf (fun _ => ({} : EvqState)) x0 = true) :
    Moves l s { u with evqs := x0 } := by
  refine Moves.chain (l1 := [.evqs]) (u := u) ?_ hm h
  constructor
  · intro p hp
    cases p <;> first | rfl | exact absurd (by decide) hp
  · exact fun h => canon_of_tables h id id id id id id id id c0 id id id id
  · exact Nat.le_refl _
  · exact List.prefix_refl _

theorem Moves.set_flash {x0 : List (Nat × Byte)} (h : Moves l s u) (hm : Part.Sub [.flash] l) (c0 : swf flashDefault u.flash = true → swf flashDefault x0 = true) :
    Moves l s { u with flash := x0 } := by
  refine Moves.chain (l1 := [.flash]) (u := u) ?_ hm h
  constructor
  · intro p hp
    cases p <;> first | rfl | exact absurd (by decide) hp
  · exact fun h => canon_of_tables h id id id id id id id id id id c0 id id
  · exact Nat.le_refl _
  · exact List.prefix_refl _

theorem Moves.set_freeCtr {x0 : Nat} (h : Moves l s u) (hm : Part.Sub [.freeCtr] l) :
    Moves l s { u with freeCtr := x0 } := by
  refine Moves.chain (l1 := [.freeCtr]) (u := u) ?_ hm h
  constructor
  · intro p hp
    cases p <;> first | rfl | exact absurd (by decide) hp
  · exact id
  · exact Nat.le_refl _
  · exact List.prefix_refl _

theorem Moves.set_fuses {x0 : List (Nat × Word)} (h : Moves l s u) (hm : Part.Sub [.fuses] l) (c0 : swf (fun _ => (0 : Word)) u.fuses = true → swf (fun _ => (0 : Word)) x0 = true) :
    Moves l s { u with fuses := x0 } := by
  refine Moves.chain (l1 := [.fuses]) (u := u) ?_ hm h
  constructor
  · intro p hp
    cases p <;> first | rfl | exact absurd (by decide) hp
  · exact fun h => canon_of_tables h id c0 id id id id id id id id id id id
  · exact Nat.le_refl _
  · exact List.prefix_refl _

theorem Moves.set_fwEvents {x0 : List FwEvent} (h : Moves l s u) (hm : Part.Sub [.fwEvents] l) :
    Moves l s { u with fwEvents := x0 } := by
  refine Moves.chain (l1 := [.fwEvents]) (u := u) ?_ hm h
  constructor
  · intro p hp
    cases p <;> first | rfl | exact absurd (by decide) hp
  · exact id
  · exact Nat.le_refl _
  · exact List.prefix_refl _

theorem Moves.set_fwNet {x0 : List Nat} (h : Moves l s u) (hm : Part.Sub [.fwNet] l) :
    Moves l s { u with fwNet := x0 } := by
  refine Moves.chain (l1 := [.fwNet]) (u := u) ?_ hm h
  constructor
  · intro p hp
    cases p <;> first | rfl | exact absurd (by decide) hp
  · exact id
  · exact Nat.le_refl _
  · exact List.prefix_refl _

theorem Moves.set_fwRaw {x0 : List RawRec} (h : Moves l s u) (hm : Part.Sub [.fwRaw] l) :
    Moves l s { u with fwRaw := x0 } := by
  refine Moves.chain (l1 := [.fwRaw]) (u := u) ?_ hm h
  constructor
  · intro p hp
    cases p <;> first | rfl | exact absurd (by decide) hp
  · exact id
  · exact Nat.le_refl _
  · exact List.prefix_refl _

theorem Moves.set_hbm {x0 : List (Nat × Byte)} (h : Moves l s u) (hm : Part.Sub [.hbm] l) (c0 : swf hbmDefault u.hbm = true → swf hbmDefault x0 = true) :
    Moves l s { u with hbm := x0 } := by
  refine Moves.chain (l1 := [.hbm]) (u := u) ?_ hm h
  constructor
  · intro p hp
    cases p <;> first | rfl | exact absurd (by decide) hp
  · exact fun h => canon_of_tables h id id id c0 id id id id id id id id id
  · exact Nat.le_refl _
  · exact List.prefix_refl _

theorem Moves.set_hostResp {x0 : List Byte} (h : Moves l s u) (hm : Part.Sub [.hostResp] l) :
    Moves l s { u with hostResp := x0 } := by
  refine Moves.chain (l1 := [.hostResp]) (u := u) ?_ hm h
  constructor
  · intro p hp
    cases p <;> first | rfl | exact absurd (by decide) hp
  · exact id
  · exact Nat.le_refl _
  · exact List.prefix_refl _

theorem Moves.set_latches {x0 : List (Nat × Word)} (h : Moves l s u) (hm : Part.Sub [.latches] l) :
    Moves l s { u with latches := x0 } := by
  refine Moves.chain (l1 := [.latches]) (u := u) ?_ hm h
  constructor
  · intro p hp
    cases p <;> first | rfl | exact absurd (by decide) hp
  · exact id
  · exact Nat.le_refl _
  · exact List.prefix_refl _

theorem Moves.set_ledger {x0 : Nat} (h : Moves l s u) (hm : Part.Sub [.ledger] l) :
    Moves l s { u with ledger := x0 } := by
  refine Moves.chain (l1 := [.ledger]) (u := u) ?_ hm h
  constructor
  · intro p hp
    cases p <;> first | rfl | exact absurd (by decide) hp
  · exact id
  · exact Nat.le_refl _
  · exact List.prefix_refl _

theorem Moves.set_localRx {x0 : List PktIn} (h : Moves l s u) (hm : Part.Sub [.localRx] l) :
    Moves l s { u with localRx := x0 } := by
  refine Moves.chain (l1 := [.localRx]) (u := u) ?_ hm h
  constructor
  · intro p hp
    cases p <;> first | rfl | exact absurd (by decide) hp
  · exact id
  · exact Nat.le_refl _
  · exact List.prefix_refl _

theorem Moves.set_mbx {x0 : List (Nat × Byte)} (h : Moves l s u) (hm : Part.Sub [.mbx] l) (c0 : swf mbxDefault u.mbx = true → swf mbxDefault x0 = true) :
    Moves l s { u with mbx := x0 } := by
  refine Moves.chain (l1 := [.mbx]) (u := u) ?_ hm h
  constructor
  · intro p hp
    cases p <;> first | rfl | exact absurd (by decide) hp
  · exact fun h => canon_of_tables h id id id id id id id c0 id id id id id
  · exact Nat.le_refl _
  · exact List.prefix_refl _

theorem Moves.set_mbxPosted {x0 : List Nat} (h : Moves l s u) (hm : Part.Sub [.mbxPosted] l) :
    Moves l s { u with mbxPosted := x0 } := by
  refine Moves.chain (l1 := [.mbxPosted]) (u := u) ?_ hm h
  constructor
  · intro p hp
    cases p <;> first | rfl | exact absurd (by decide) hp
  · exact id
  · exact Nat.le_refl _
  · exact List.prefix_refl _

theorem Moves.set_mbxRun {x0 : List MbxCmd} (h : Moves l s u) (hm : Part.Sub [.mbxRun] l) :
    Moves l s { u with mbxRun := x0 } := by
  refine Moves.chain (l1 := [.mbxRun]) (u := u) ?_ hm h
  constructor
  · intro p hp
    cases p <;> first | rfl | exact absurd (by decide) hp
  · exact id
  · exact Nat.le_refl _
  · exact List.prefix_refl _

theorem Moves.set_mcs {x0 : List (Nat × Mc)} (h : Moves l s u) (hm : Part.Sub [.mcs] l) (c0 : swf (fun _ => ({} : Mc)) u.mcs = true → swf (fun _ => ({} : Mc)) x0 = true) :
    Moves l s { u with mcs := x0 } := by
  refine Moves.chain (l1 := [.mcs]) (u := u) ?_ hm h
  constructor
  · intro p hp
    cases p <;> first | rfl | exact absurd (by decide) hp
  · exact fun h => canon_of_tables h id id id id id c0 id id id id id id id
  · exact Nat.le_refl _
  · exact List.prefix_refl _

theorem Moves.set_mgmtDown {x0 : Bool} (h : Moves l s u) (hm : Part.Sub [.mgmtDown] l) :
    Moves l s { u with mgmtDown := x0 } := by
  refine Moves.chain (l1 := [.mgmtDown]) (u := u) ?_ hm h
  constructor
  · intro p hp
    cases p <;> first | rfl | exact absurd (by decide) hp
  · exact id
  · exact Nat.le_refl _
  · exact List.prefix_refl _

theorem Moves.set_mon {x0 : Mon} (h : Moves l s u) (hm : Part.Sub [.mon] l) :
    Moves l s { u with mon := x0 } := by
  refine Moves.chain (l1 := [.mon]) (u := u) ?_ hm h
  constructor
  · intro p hp
    cases p <;> first | rfl | exact absurd (by decide) hp
  · exact id
  · exact Nat.le_refl _
  · exact List.prefix_refl _

theorem Moves.set_msix {x0 : List (Nat × Word)} (h : Moves l s u) (hm : Part.Sub [.msix] l) (c0 : swf msixReset u.msix = true → swf msixReset x0 = true) :
    Moves l s { u with msix := x0 } := by
  refine Moves.chain (l1 := [.msix]) (u := u) ?_ hm h
  constructor
  · intro p hp
    cases p <;> first | rfl | exact absurd (by decide) hp
  · exact fun h => canon_of_tables h id id id id id id id id id c0 id id id
  · exact Nat.le_refl _
  · exact List.prefix_refl _

theorem Moves.set_msixPend {x0 : List Nat} (h : Moves l s u) (hm : Part.Sub [.msixPend] l) :
    Moves l s { u with msixPend := x0 } := by
  refine Moves.chain (l1 := [.msixPend]) (u := u) ?_ hm h
  constructor
  · intro p hp
    cases p <;> first | rfl | exact absurd (by decide) hp
  · exact id
  · exact Nat.le_refl _
  · exact List.prefix_refl _

theorem Moves.set_now {x0 : Nat} (h : Moves l s u) (hm : Part.Sub [.now] l) (c0 : u.now ≤ x0) :
    Moves l s { u with now := x0 } := by
  refine Moves.chain (l1 := [.now]) (u := u) ?_ hm h
  constructor
  · intro p hp
    cases p <;> first | rfl | exact absurd (by decide) hp
  · exact id
  · exact c0
  · exact List.prefix_refl _

theorem Moves.set_obkts {x0 : List OBkt} (h : Moves l s u) (hm : Part.Sub [.obkts] l) :
    Moves l s { u with obkts := x0 } := by
  refine Moves.chain (l1 := [.obkts]) (u := u) ?_ hm h
  constructor
  · intro p hp
    cases p <;> first | rfl | exact absurd (by decide) hp
  · exact id
  · exact Nat.le_refl _
  · exact List.prefix_refl _

theorem Moves.set_out {x0 : List Out} (h : Moves l s u) (hm : Part.Sub [.out] l) (c0 : u.out <+: x0) :
    Moves l s { u with out := x0 } := by
  refine Moves.chain (l1 := [.out]) (u := u) ?_ hm h
  constructor
  · intro p hp
    cases p <;> first | rfl | exact absurd (by decide) hp
  · exact id
  · exact Nat.le_refl _
  · exact c0

theorem Moves.set_owlFifo {x0 : List RawRec} (h : Moves l s u) (hm : Part.Sub [.owlFifo] l) :
    Moves l s { u with owlFifo := x0 } := by
  refine Moves.chain (l1 := [.owlFifo]) (u := u) ?_ hm h
  constructor
  · intro p hp
    cases p <;> first | rfl | exact absurd (by decide) hp
  · exact id
  · exact Nat.le_refl _
  · exact List.prefix_refl _

theorem Moves.set_passed {x0 : List (Nat × Nat)} (h : Moves l s u) (hm : Part.Sub [.passed] l) :
    Moves l s { u with passed := x0 } := by
  refine Moves.chain (l1 := [.passed]) (u := u) ?_ hm h
  constructor
  · intro p hp
    cases p <;> first | rfl | exact absurd (by decide) hp
  · exact id
  · exact Nat.le_refl _
  · exact List.prefix_refl _

theorem Moves.set_pending {x0 : List Instr} (h : Moves l s u) (hm : Part.Sub [.pending] l) :
    Moves l s { u with pending := x0 } := by
  refine Moves.chain (l1 := [.pending]) (u := u) ?_ hm h
  constructor
  · intro p hp
    cases p <;> first | rfl | exact absurd (by decide) hp
  · exact id
  · exact Nat.le_refl _
  · exact List.prefix_refl _

theorem Moves.set_ports {x0 : List (Nat × Port)} (h : Moves l s u) (hm : Part.Sub [.ports] l) (c0 : swf (fun _ => ({} : Port)) u.ports = true → swf (fun _ => ({} : Port)) x0 = true) :
    Moves l s { u with ports := x0 } := by
  refine Moves.chain (l1 := [.ports]) (u := u) ?_ hm h
  constructor
  · intro p hp
    cases p <;> first | rfl | exact absurd (by decide) hp
  · exact fun h => canon_of_tables h id id id id id id c0 id id id id id id
  · exact Nat.le_refl _
  · exact List.prefix_refl _

theorem Moves.set_pwr {x0 : Pwr} (h : Moves l s u) (hm : Part.Sub [.pwr] l) :
    Moves l s { u with pwr := x0 } := by
  refine Moves.chain (l1 := [.pwr]) (u := u) ?_ hm h
  constructor
  · intro p hp
    cases p <;> first | rfl | exact absurd (by decide) hp
  · exact id
  · exact Nat.le_refl _
  · exact List.prefix_refl _

theorem Moves.set_rbkts {x0 : List RBkt} (h : Moves l s u) (hm : Part.Sub [.rbkts] l) :
    Moves l s { u with rbkts := x0 } := by
  refine Moves.chain (l1 := [.rbkts]) (u := u) ?_ hm h
  constructor
  · intro p hp
    cases p <;> first | rfl | exact absurd (by decide) hp
  · exact id
  · exact Nat.le_refl _
  · exact List.prefix_refl _

theorem Moves.set_regs {x0 : List (Nat × Word)} (h : Moves l s u) (hm : Part.Sub [.regs] l) (c0 : swf resetWord u.regs = true → swf resetWord x0 = true) :
    Moves l s { u with regs := x0 } := by
  refine Moves.chain (l1 := [.regs]) (u := u) ?_ hm h
  constructor
  · intro p hp
    cases p <;> first | rfl | exact absurd (by decide) hp
  · exact fun h => canon_of_tables h c0 id id id id id id id id id id id id
  · exact Nat.le_refl _
  · exact List.prefix_refl _

theorem Moves.set_retiring {x0 : List Nat} (h : Moves l s u) (hm : Part.Sub [.retiring] l) :
    Moves l s { u with retiring := x0 } := by
  refine Moves.chain (l1 := [.retiring]) (u := u) ?_ hm h
  constructor
  · intro p hp
    cases p <;> first | rfl | exact absurd (by decide) hp
  · exact id
  · exact Nat.le_refl _
  · exact List.prefix_refl _

theorem Moves.set_scanned {x0 : List Nat} (h : Moves l s u) (hm : Part.Sub [.scanned] l) :
    Moves l s { u with scanned := x0 } := by
  refine Moves.chain (l1 := [.scanned]) (u := u) ?_ hm h
  constructor
  · intro p hp
    cases p <;> first | rfl | exact absurd (by decide) hp
  · exact id
  · exact Nat.le_refl _
  · exact List.prefix_refl _

theorem Moves.set_sec {x0 : Sec} (h : Moves l s u) (hm : Part.Sub [.sec] l) :
    Moves l s { u with sec := x0 } := by
  refine Moves.chain (l1 := [.sec]) (u := u) ?_ hm h
  constructor
  · intro p hp
    cases p <;> first | rfl | exact absurd (by decide) hp
  · exact id
  · exact Nat.le_refl _
  · exact List.prefix_refl _

theorem Moves.set_seedLow {x0 : List (Nat × Word)} (h : Moves l s u) (hm : Part.Sub [.seedLow] l) :
    Moves l s { u with seedLow := x0 } := by
  refine Moves.chain (l1 := [.seedLow]) (u := u) ?_ hm h
  constructor
  · intro p hp
    cases p <;> first | rfl | exact absurd (by decide) hp
  · exact id
  · exact Nat.le_refl _
  · exact List.prefix_refl _

theorem Moves.set_sigs {x0 : List SigMsg} (h : Moves l s u) (hm : Part.Sub [.sigs] l) :
    Moves l s { u with sigs := x0 } := by
  refine Moves.chain (l1 := [.sigs]) (u := u) ?_ hm h
  constructor
  · intro p hp
    cases p <;> first | rfl | exact absurd (by decide) hp
  · exact id
  · exact Nat.le_refl _
  · exact List.prefix_refl _

theorem Moves.set_staged {x0 : Option (CfgSet × Nat)} (h : Moves l s u) (hm : Part.Sub [.staged] l) :
    Moves l s { u with staged := x0 } := by
  refine Moves.chain (l1 := [.staged]) (u := u) ?_ hm h
  constructor
  · intro p hp
    cases p <;> first | rfl | exact absurd (by decide) hp
  · exact id
  · exact Nat.le_refl _
  · exact List.prefix_refl _

theorem Moves.set_stall {x0 : Option Nat} (h : Moves l s u) (hm : Part.Sub [.stall] l) :
    Moves l s { u with stall := x0 } := by
  refine Moves.chain (l1 := [.stall]) (u := u) ?_ hm h
  constructor
  · intro p hp
    cases p <;> first | rfl | exact absurd (by decide) hp
  · exact id
  · exact Nat.le_refl _
  · exact List.prefix_refl _

theorem Moves.set_suspects {x0 : List (Nat × Nat)} (h : Moves l s u) (hm : Part.Sub [.suspects] l) :
    Moves l s { u with suspects := x0 } := by
  refine Moves.chain (l1 := [.suspects]) (u := u) ?_ hm h
  constructor
  · intro p hp
    cases p <;> first | rfl | exact absurd (by decide) hp
  · exact id
  · exact Nat.le_refl _
  · exact List.prefix_refl _

theorem Moves.set_tad {x0 : Tad} (h : Moves l s u) (hm : Part.Sub [.tad] l) :
    Moves l s { u with tad := x0 } := by
  refine Moves.chain (l1 := [.tad]) (u := u) ?_ hm h
  constructor
  · intro p hp
    cases p <;> first | rfl | exact absurd (by decide) hp
  · exact id
  · exact Nat.le_refl _
  · exact List.prefix_refl _

theorem Moves.set_taintFrom {x0 : Option Nat} (h : Moves l s u) (hm : Part.Sub [.taintFrom] l) :
    Moves l s { u with taintFrom := x0 } := by
  refine Moves.chain (l1 := [.taintFrom]) (u := u) ?_ hm h
  constructor
  · intro p hp
    cases p <;> first | rfl | exact absurd (by decide) hp
  · exact id
  · exact Nat.le_refl _
  · exact List.prefix_refl _

theorem Moves.set_taints {x0 : List Nat} (h : Moves l s u) (hm : Part.Sub [.taints] l) :
    Moves l s { u with taints := x0 } := by
  refine Moves.chain (l1 := [.taints]) (u := u) ?_ hm h
  constructor
  · intro p hp
    cases p <;> first | rfl | exact absurd (by decide) hp
  · exact id
  · exact Nat.le_refl _
  · exact List.prefix_refl _

theorem Moves.set_tiles {x0 : List (Nat × Tile)} (h : Moves l s u) (hm : Part.Sub [.tiles] l) (c0 : swf (fun _ => ({} : Tile)) u.tiles = true → swf (fun _ => ({} : Tile)) x0 = true) :
    Moves l s { u with tiles := x0 } := by
  refine Moves.chain (l1 := [.tiles]) (u := u) ?_ hm h
  constructor
  · intro p hp
    cases p <;> first | rfl | exact absurd (by decide) hp
  · exact fun h => canon_of_tables h id id id id c0 id id id id id id id id
  · exact Nat.le_refl _
  · exact List.prefix_refl _

theorem Moves.set_csFails_failWins {x0 : List (Nat × Nat × Nat × Nat)} {x1 : List (Nat × Nat)} (h : Moves l s u) (hm : Part.Sub [.csFails, .failWins] l) :
    Moves l s { u with csFails := x0, failWins := x1 } := by
  refine Moves.chain (l1 := [.csFails, .failWins]) (u := u) ?_ hm h
  constructor
  · intro p hp
    cases p <;> first | rfl | exact absurd (by decide) hp
  · exact id
  · exact Nat.le_refl _
  · exact List.prefix_refl _

theorem Moves.set_flash_sec {x0 : List (Nat × Byte)} {x1 : Sec} (h : Moves l s u) (hm : Part.Sub [.flash, .sec] l) (c0 : swf flashDefault u.flash = true → swf flashDefault x0 = true) :
    Moves l s { u with flash := x0, sec := x1 } := by
  refine Moves.chain (l1 := [.flash, .sec]) (u := u) ?_ hm h
  constructor
  · intro p hp
    cases p <;> first | rfl | exact absurd (by decide) hp
  · exact fun h => canon_of_tables h id id id id id id id id id id c0 id id
  · exact Nat.le_refl _
  · exact List.prefix_refl _

theorem Moves.set_flashTrims_trimWb {x0 : List (Nat × Word)} {x1 : Option Nat} (h : Moves l s u) (hm : Part.Sub [.flashTrims, .trimWb] l) (c0 : swf (fun _ => (0 : Word)) u.flashTrims = true → swf (fun _ => (0 : Word)) x0 = true) :
    Moves l s { u with flashTrims := x0, trimWb := x1 } := by
  refine Moves.chain (l1 := [.flashTrims, .trimWb]) (u := u) ?_ hm h
  constructor
  · intro p hp
    cases p <;> first | rfl | exact absurd (by decide) hp
  · exact fun h => canon_of_tables h id id c0 id id id id id id id id id id
  · exact Nat.le_refl _
  · exact List.prefix_refl _

theorem Moves.set_freeCtr_latches {x0 : Nat} {x1 : List (Nat × Word)} (h : Moves l s u) (hm : Part.Sub [.freeCtr, .latches] l) :
    Moves l s { u with freeCtr := x0, latches := x1 } := by
  refine Moves.chain (l1 := [.freeCtr, .latches]) (u := u) ?_ hm h
  constructor
  · intro p hp
    cases p <;> first | rfl | exact absurd (by decide) hp
  · exact id
  · exact Nat.le_refl _
  · exact List.prefix_refl _

theorem Moves.set_freeCtr_mon {x0 : Nat} {x1 : Mon} (h : Moves l s u) (hm : Part.Sub [.freeCtr, .mon] l) :
    Moves l s { u with freeCtr := x0, mon := x1 } := by
  refine Moves.chain (l1 := [.freeCtr, .mon]) (u := u) ?_ hm h
  constructor
  · intro p hp
    cases p <;> first | rfl | exact absurd (by decide) hp
  · exact id
  · exact Nat.le_refl _
  · exact List.prefix_refl _

theorem Moves.set_fuses_sec {x0 : List (Nat × Word)} {x1 : Sec} (h : Moves l s u) (hm : Part.Sub [.fuses, .sec] l) (c0 : swf (fun _ => (0 : Word)) u.fuses = true → swf (fun _ => (0 : Word)) x0 = true) :
    Moves l s { u with fuses := x0, sec := x1 } := by
  refine Moves.chain (l1 := [.fuses, .sec]) (u := u) ?_ hm h
  constructor
  · intro p hp
    cases p <;> first | rfl | exact absurd (by decide) hp
  · exact fun h => canon_of_tables h id c0 id id id id id id id id id id id
  · exact Nat.le_refl _
  · exact List.prefix_refl _

theorem Moves.set_out_fwNet {x0 : List Out} {x1 : List Nat} (h : Moves l s u) (hm : Part.Sub [.out, .fwNet] l) (c0 : u.out <+: x0) :
    Moves l s { u with out := x0, fwNet := x1 } := by
  refine Moves.chain (l1 := [.out, .fwNet]) (u := u) ?_ hm h
  constructor
  · intro p hp
    cases p <;> first | rfl | exact absurd (by decide) hp
  · exact id
  · exact Nat.le_refl _
  · exact c0

theorem Moves.set_fwRecs_fwNum {x0 : List (List Byte)} {x1 : Nat} (h : Moves l s u) (hm : Part.Sub [.fwRecs, .fwNum] l) :
    Moves l s { u with fwRecs := x0, fwNum := x1 } := by
  refine Moves.chain (l1 := [.fwRecs, .fwNum]) (u := u) ?_ hm h
  constructor
  · intro p hp
    cases p <;> first | rfl | exact absurd (by decide) hp
  · exact id
  · exact Nat.le_refl _
  · exact List.prefix_refl _

theorem Moves.set_lastGrant_grantRot {x0 : Option Nat} {x1 : Nat} (h : Moves l s u) (hm : Part.Sub [.lastGrant, .grantRot] l) :
    Moves l s { u with lastGrant := x0, grantRot := x1 } := by
  refine Moves.chain (l1 := [.lastGrant, .grantRot]) (u := u) ?_ hm h
  constructor
  · intro p hp
    cases p <;> first | rfl | exact absurd (by decide) hp
  · exact id
  · exact Nat.le_refl _
  · exact List.prefix_refl _

theorem Moves.set_mbxPosted_mbxRun {x0 : List Nat} {x1 : List MbxCmd} (h : Moves l s u) (hm : Part.Sub [.mbxPosted, .mbxRun] l) :
    Moves l s { u with mbxPosted := x0, mbxRun := x1 } := by
  refine Moves.chain (l1 := [.mbxPosted, .mbxRun]) (u := u) ?_ hm h
  constructor
  · intro p hp
    cases p <;> first | rfl | exact absurd (by decide) hp
  · exact id
  · exact Nat.le_refl _
  · exact List.prefix_refl _

theorem Moves.set_hbm_mcs {x0 : List (Nat × Byte)} {x1 : List (Nat × Mc)} (h : Moves l s u) (hm : Part.Sub [.hbm, .mcs] l) (c0 : swf hbmDefault u.hbm = true → swf hbmDefault x0 = true) (c1 : swf (fun _ => ({} : Mc)) u.mcs = true → swf (fun _ => ({} : Mc)) x1 = true) :
    Moves l s { u with hbm := x0, mcs := x1 } := by
  refine Moves.chain (l1 := [.hbm, .mcs]) (u := u) ?_ hm h
  constructor
  · intro p hp
    cases p <;> first | rfl | exact absurd (by decide) hp
  · exact fun h => canon_of_tables h id id id c0 id c1 id id id id id id id
  · exact Nat.le_refl _
  · exact List.prefix_refl _

theorem Moves.set_msix_d3hot {x0 : List (Nat × Word)} {x1 : Bool} (h : Moves l s u) (hm : Part.Sub [.msix, .d3hot] l) (c0 : swf msixReset u.msix = true → swf msixReset x0 = true) :
    Moves l s { u with msix := x0, d3hot := x1 } := by
  refine Moves.chain (l1 := [.msix, .d3hot]) (u := u) ?_ hm h
  constructor
  · intro p hp
    cases p <;> first | rfl | exact absurd (by decide) hp
  · exact fun h => canon_of_tables h id id id id id id id id id c0 id id id
  · exact Nat.le_refl _
  · exact List.prefix_refl _

theorem Moves.set_msix_msixPend {x0 : List (Nat × Word)} {x1 : List Nat} (h : Moves l s u) (hm : Part.Sub [.msix, .msixPend] l) (c0 : swf msixReset u.msix = true → swf msixReset x0 = true) :
    Moves l s { u with msix := x0, msixPend := x1 } := by
  refine Moves.chain (l1 := [.msix, .msixPend]) (u := u) ?_ hm h
  constructor
  · intro p hp
    cases p <;> first | rfl | exact absurd (by decide) hp
  · exact fun h => canon_of_tables h id id id id id id id id id c0 id id id
  · exact Nat.le_refl _
  · exact List.prefix_refl _

theorem Moves.set_now_beatAt {x0 : Nat} {x1 : Nat} (h : Moves l s u) (hm : Part.Sub [.now, .beatAt] l) (c0 : u.now ≤ x0) :
    Moves l s { u with now := x0, beatAt := x1 } := by
  refine Moves.chain (l1 := [.now, .beatAt]) (u := u) ?_ hm h
  constructor
  · intro p hp
    cases p <;> first | rfl | exact absurd (by decide) hp
  · exact id
  · exact c0
  · exact List.prefix_refl _

theorem Moves.set_out_pwr {x0 : List Out} {x1 : Pwr} (h : Moves l s u) (hm : Part.Sub [.out, .pwr] l) (c0 : u.out <+: x0) :
    Moves l s { u with out := x0, pwr := x1 } := by
  refine Moves.chain (l1 := [.out, .pwr]) (u := u) ?_ hm h
  constructor
  · intro p hp
    cases p <;> first | rfl | exact absurd (by decide) hp
  · exact id
  · exact Nat.le_refl _
  · exact c0

theorem Moves.set_owlFifo_fwRaw {x0 : List RawRec} {x1 : List RawRec} (h : Moves l s u) (hm : Part.Sub [.owlFifo, .fwRaw] l) :
    Moves l s { u with owlFifo := x0, fwRaw := x1 } := by
  refine Moves.chain (l1 := [.owlFifo, .fwRaw]) (u := u) ?_ hm h
  constructor
  · intro p hp
    cases p <;> first | rfl | exact absurd (by decide) hp
  · exact id
  · exact Nat.le_refl _
  · exact List.prefix_refl _

theorem Moves.set_owlFifo_fwEvents_owlNet {x0 : List RawRec} {x1 : List FwEvent} {x2 : List Nat} (h : Moves l s u)
    (hm : Part.Sub [.owlFifo, .fwEvents, .owlNet] l) : Moves l s { u with owlFifo := x0, owlNet := x2, fwEvents := x1 } := by
  refine Moves.chain (l1 := [.owlFifo, .fwEvents, .owlNet]) (u := u) ?_ hm h
  constructor
  · intro p hp
    cases p <;> first | rfl | exact absurd (by decide) hp
  · exact id
  · exact Nat.le_refl _
  · exact List.prefix_refl _

theorem Moves.set_pwr_hubUp {x0 : Pwr} {x1 : Bool} (h : Moves l s u) (hm : Part.Sub [.pwr, .hubUp] l) :
    Moves l s { u with pwr := x0, hubUp := x1 } := by
  refine Moves.chain (l1 := [.pwr, .hubUp]) (u := u) ?_ hm h
  constructor
  · intro p hp
    cases p <;> first | rfl | exact absurd (by decide) hp
  · exact id
  · exact Nat.le_refl _
  · exact List.prefix_refl _

theorem Moves.set_sec_beatAt {x0 : Sec} {x1 : Nat} (h : Moves l s u) (hm : Part.Sub [.sec, .beatAt] l) :
    Moves l s { u with sec := x0, beatAt := x1 } := by
  refine Moves.chain (l1 := [.sec, .beatAt]) (u := u) ?_ hm h
  constructor
  · intro p hp
    cases p <;> first | rfl | exact absurd (by decide) hp
  · exact id
  · exact Nat.le_refl _
  · exact List.prefix_refl _

theorem Moves.set_suspects_retiring {x0 : List (Nat × Nat)} {x1 : List Nat} (h : Moves l s u) (hm : Part.Sub [.suspects, .retiring] l) :
    Moves l s { u with suspects := x0, retiring := x1 } := by
  refine Moves.chain (l1 := [.suspects, .retiring]) (u := u) ?_ hm h
  constructor
  · intro p hp
    cases p <;> first | rfl | exact absurd (by decide) hp
  · exact id
  · exact Nat.le_refl _
  · exact List.prefix_refl _

theorem Moves.set_now_launchAt_beatAt {x0 : Nat} {x1 : Option Nat} {x2 : Nat} (h : Moves l s u) (hm : Part.Sub [.now, .launchAt, .beatAt] l) (c0 : u.now ≤ x0) :
    Moves l s { u with now := x0, launchAt := x1, beatAt := x2 } := by
  refine Moves.chain (l1 := [.now, .launchAt, .beatAt]) (u := u) ?_ hm h
  constructor
  · intro p hp
    cases p <;> first | rfl | exact absurd (by decide) hp
  · exact id
  · exact c0
  · exact List.prefix_refl _

theorem Moves.set_mbxRun_beatAt_stall {x0 : List MbxCmd} {x1 : Nat} {x2 : Option Nat} (h : Moves l s u) (hm : Part.Sub [.mbxRun, .beatAt, .stall] l) :
    Moves l s { u with mbxRun := x0, beatAt := x1, stall := x2 } := by
  refine Moves.chain (l1 := [.mbxRun, .beatAt, .stall]) (u := u) ?_ hm h
  constructor
  · intro p hp
    cases p <;> first | rfl | exact absurd (by decide) hp
  · exact id
  · exact Nat.le_refl _
  · exact List.prefix_refl _

theorem Moves.set_owlFifo_out_owlNet {x0 : List RawRec} {x1 : List Out} {x2 : List Nat} (h : Moves l s u) (hm : Part.Sub [.owlFifo, .out, .owlNet] l) (c1 : u.out <+: x1) :
    Moves l s { u with owlFifo := x0, out := x1, owlNet := x2 } := by
  refine Moves.chain (l1 := [.owlFifo, .out, .owlNet]) (u := u) ?_ hm h
  constructor
  · intro p hp
    cases p <;> first | rfl | exact absurd (by decide) hp
  · exact id
  · exact Nat.le_refl _
  · exact c1

theorem Moves.set_sec_beatAt_stall {x0 : Sec} {x1 : Nat} {x2 : Option Nat} (h : Moves l s u) (hm : Part.Sub [.sec, .beatAt, .stall] l) :
    Moves l s { u with sec := x0, beatAt := x1, stall := x2 } := by
  refine Moves.chain (l1 := [.sec, .beatAt, .stall]) (u := u) ?_ hm h
  constructor
  · intro p hp
    cases p <;> first | rfl | exact absurd (by decide) hp
  · exact id
  · exact Nat.le_refl _
  · exact List.prefix_refl _

theorem Moves.set_cfg_staged_prevTag_actAt_obkts_rbkts {x0 : Option CfgSet} {x1 : Option (CfgSet × Nat)} {x2 : Nat} {x3 : Nat} {x4 : List OBkt} {x5 : List RBkt} (h : Moves l s u) (hm : Part.Sub [.cfg, .staged, .prevTag, .actAt, .obkts, .rbkts] l) :
    Moves l s { u with cfg := x0, staged := x1, prevTag := x2, actAt := x3, obkts := x4, rbkts := x5 } := by
  refine Moves.chain (l1 := [.cfg, .staged, .prevTag, .actAt, .obkts, .rbkts]) (u := u) ?_ hm h
  constructor
  · intro p hp
    cases p <;> first | rfl | exact absurd (by decide) hp
  · exact id
  · exact Nat.le_refl _
  · exact List.prefix_refl _

theorem Moves.set_hbm_launchAt_sigs_lastGrant_mgmtDown_pwr_hubUp_d3hot {x0 : List (Nat × Byte)} {x1 : Option Nat} {x2 : List SigMsg} {x3 : Option Nat} {x4 : Bool} {x5 : Pwr} {x6 : Bool} {x7 : Bool} (h : Moves l s u) (hm : Part.Sub [.hbm, .launchAt, .sigs, .lastGrant, .mgmtDown, .pwr, .hubUp, .d3hot] l) (c0 : swf hbmDefault u.hbm = true → swf hbmDefault x0 = true) :
    Moves l s { u with hbm := x0, launchAt := x1, sigs := x2, lastGrant := x3, mgmtDown := x4, pwr := x5, hubUp := x6, d3hot := x7 } := by
  refine Moves.chain (l1 := [.hbm, .launchAt, .sigs, .lastGrant, .mgmtDown, .pwr, .hubUp, .d3hot]) (u := u) ?_ hm h
  constructor
  · intro p hp
    cases p <;> first | rfl | exact absurd (by decide) hp
  · exact fun h => canon_of_tables h id id id c0 id id id id id id id id id
  · exact Nat.le_refl _
  · exact List.prefix_refl _

theorem Moves.set_many {x0 : List (Nat × Word)} {x1 : List RawRec} {x2 : List Nat} {x3 : Option Nat} {x4 : List (Nat × Nat)} {x5 : Option CfgSet} {x6 : Option (CfgSet × Nat)} {x7 : Nat} {x8 : Nat} {x9 : Nat} {x10 : List OBkt} {x11 : List RBkt} {x12 : List (Nat × Nat × Nat)} {x13 : List PktIn} {x14 : List (Nat × Nat)} {x15 : Nat} {x16 : List (Nat × Nat × Nat × Nat)} {x17 : List (Nat × Nat)} {x18 : Nat} {x19 : List FwEvent} {x20 : List (Nat × Byte)} {x21 : List Nat} {x22 : List MbxCmd} {x23 : List (Nat × EvqState)} {x24 : List (Nat × Word)} {x25 : List Nat} {x26 : List (List Byte)} {x27 : Nat} {x28 : List Nat} {x29 : List Nat} {x30 : List RawRec} {x31 : Sec} {x32 : List (Nat × CpyJob)} {x33 : Mon} {x34 : Nat} {x35 : Option Nat} {x36 : Tad} {x37 : List (Nat × BdgCh)} {x38 : List (Nat × Word)} {x39 : Nat} {x40 : List Nat} {x41 : List Nat} {x42 : List Nat} (h : Moves l s u) (hm : Part.Sub [.latches, .owlFifo, .taints, .taintFrom, .suspects, .cfg, .staged, .prevTag, .actAt, .hubAt, .obkts, .rbkts, .accSent, .localRx, .passed, .doneV, .csFails, .failWins, .ledger, .fwEvents, .mbx, .mbxPosted, .mbxRun, .evqs, .msix, .msixPend, .fwRecs, .fwNum, .fwNet, .owlNet, .fwRaw, .sec, .cpy, .mon, .beatAt, .stall, .tad, .bdg, .bdgMem, .bdgLast, .den, .scanned, .retiring] l) (c20 : swf mbxDefault u.mbx = true → swf mbxDefault x20 = true) (c23 : swf (fun _ => ({} : EvqState)) u.evqs = true → swf (fun _ => ({} : EvqState)) x23 = true) (c24 : swf msixReset u.msix = true → swf msixReset x24 = true) (c37 : swf (fun _ => ({} : BdgCh)) u.bdg = true → swf (fun _ => ({} : BdgCh)) x37 = true) (c38 : swf bdgDefault u.bdgMem = true → swf bdgDefault x38 = true) :
    Moves l s { u with latches := x0, owlFifo := x1, taints := x2, taintFrom := x3, suspects := x4, cfg := x5, staged := x6, prevTag := x7, actAt := x8, hubAt := x9, obkts := x10, rbkts := x11, accSent := x12, localRx := x13, passed := x14, doneV := x15, csFails := x16, failWins := x17, ledger := x18, fwEvents := x19, mbx := x20, mbxPosted := x21, mbxRun := x22, evqs := x23, msix := x24, msixPend := x25, fwRecs := x26, fwNum := x27, fwNet := x28, owlNet := x29, fwRaw := x30, sec := x31, cpy := x32, mon := x33, beatAt := x34, stall := x35, tad := x36, bdg := x37, bdgMem := x38, bdgLast := x39, den := x40, scanned := x41, retiring := x42 } := by
  refine Moves.chain (l1 := [.latches, .owlFifo, .taints, .taintFrom, .suspects, .cfg, .staged, .prevTag, .actAt, .hubAt, .obkts, .rbkts, .accSent, .localRx, .passed, .doneV, .csFails, .failWins, .ledger, .fwEvents, .mbx, .mbxPosted, .mbxRun, .evqs, .msix, .msixPend, .fwRecs, .fwNum, .fwNet, .owlNet, .fwRaw, .sec, .cpy, .mon, .beatAt, .stall, .tad, .bdg, .bdgMem, .bdgLast, .den, .scanned, .retiring]) (u := u) ?_ hm h
  constructor
  · intro p hp
    cases p <;> first | rfl | exact absurd (by decide) hp
  · exact fun h => canon_of_tables h id id id id id id id c20 c23 c24 id c37 c38
  · exact Nat.le_refl _
  · exact List.prefix_refl _

end Sys2Proof.Machine
end

