-- ==== Sys2Proof/Laws/Moves/Ops.lean ====
section
/-! SUPPORT. What the functions of Machine/Ops.lean touch. -/

namespace Sys2Proof.Machine

theorem wrReg_moves {l' : List Part} {s' : State} (s : State) (k : Nat) (w : Word) (h' : Moves l' s' s) (hl' : Part.Sub [.regs] l') : Moves l' s' (wrReg s k w) := by
  refine Moves.chain ?_ hl' h'
  clear h' hl'
  unfold wrReg
  try dsimp only
  repeat' (first
    | ((with_reducible apply Part.Sub.mk); rfl)
    | with_reducible apply Moves.refl
    | with_reducible assumption
    | with_reducible apply Moves.ite
    | with_reducible apply Moves.foldl
    | with_reducible apply Moves.ite_fst
    | with_reducible apply Moves.ite_snd
    | with_reducible apply Moves.foldl_fst
    | with_reducible apply Moves.foldl_snd
    | intro _
    | with_reducible apply swf_sset
    | with_reducible apply swf_ssetList
    | with_reducible apply swf_filter
    | with_reducible apply swf_nil
    | with_reducible apply swf_foldl
    | with_reducible apply List.prefix_append
    | with_reducible apply List.prefix_refl
    | split
    | dsimp only
    | with_reducible apply Moves.set_regs
    | exact List.prefix_append _ _
    | exact (List.prefix_append _ _).trans (List.prefix_append _ _)
    | omega)

theorem setFld_moves {l' : List Part} {s' : State} (s : State) (base : Nat) (f : Fld) (v : Nat) (h' : Moves l' s' s) (hl' : Part.Sub [.regs] l') : Moves l' s' (setFld s base f v) := by
  refine Moves.chain ?_ hl' h'
  clear h' hl'
  unfold setFld
  try dsimp only
  repeat' (first
    | ((with_reducible apply Part.Sub.mk); rfl)
    | with_reducible apply Moves.refl
    | with_reducible assumption
    | with_reducible apply wrReg_moves
    | with_reducible apply Moves.ite
    | intro _
    | split
    | dsimp only)

theorem setBit_moves {l' : List Part} {s' : State} (s : State) (base : Nat) (f : Fld) (b : Bool) (h' : Moves l' s' s) (hl' : Part.Sub [.regs] l') : Moves l' s' (setBit s base f b) := by
  refine Moves.chain ?_ hl' h'
  clear h' hl'
  unfold setBit
  try dsimp only
  repeat' (first
    | ((with_reducible apply Part.Sub.mk); rfl)
    | with_reducible apply Moves.refl
    | with_reducible assumption
    | with_reducible apply setFld_moves
    | with_reducible apply Moves.ite
    | intro _
    | split
    | dsimp only)

theorem count_moves {l' : List Part} {s' : State} (s : State) (base : Nat) (f : Fld) (n : Nat) (h' : Moves l' s' s) (hl' : Part.Sub [.regs] l') : Moves l' s' (count s base f n) := by
  refine Moves.chain ?_ hl' h'
  clear h' hl'
  unfold count
  try dsimp only
  repeat' (first
    | ((with_reducible apply Part.Sub.mk); rfl)
    | with_reducible apply Moves.refl
    | with_reducible assumption
    | with_reducible apply setFld_moves
    | dsimp only)

theorem countAll_moves {l' : List Part} {s' : State} (s : State) (base : Nat) (l : List (Fld × Nat)) (h' : Moves l' s' s) (hl' : Part.Sub [.regs] l') :
    Moves l' s' (countAll s base l) := by
  induction l generalizing s with
  | nil => exact h'
  | cons p t ih =>
    obtain ⟨f, n⟩ := p
    exact ih _ (Moves.ite (fun _ => h') fun _ => count_moves _ _ _ _ h' hl')


theorem nextFree_moves {l' : List Part} {s' : State} (s : State) (h' : Moves l' s' s) (hl' : Part.Sub [.freeCtr] l') : Moves l' s' (nextFree s).2 := by
  refine Moves.chain ?_ hl' h'
  clear h' hl'
  refine MovesP.h (p := nextFree s) ?_
  unfold nextFree
  try dsimp only
  repeat' (first
    | ((with_reducible apply Part.Sub.mk); rfl)
    | with_reducible apply MovesP.of_mk
    | with_reducible apply Moves.refl
    | with_reducible assumption
    | dsimp only
    | with_reducible apply Moves.set_freeCtr)

theorem setTile_moves {l' : List Part} {s' : State} (s : State) (n : Nat) (t : Tile) (h' : Moves l' s' s) (hl' : Part.Sub [.tiles] l') : Moves l' s' (setTile s n t) := by
  refine Moves.chain ?_ hl' h'
  clear h' hl'
  unfold setTile
  try dsimp only
  repeat' (first
    | ((with_reducible apply Part.Sub.mk); rfl)
    | with_reducible apply Moves.refl
    | with_reducible assumption
    | intro _
    | with_reducible apply swf_sset
    | dsimp only
    | with_reducible apply Moves.set_tiles)

theorem modTile_moves {l' : List Part} {s' : State} (s : State) (n : Nat) (f : Tile → Tile) (h' : Moves l' s' s) (hl' : Part.Sub [.tiles] l') : Moves l' s' (modTile s n f) := by
  refine Moves.chain ?_ hl' h'
  clear h' hl'
  unfold modTile
  try dsimp only
  repeat' (first
    | ((with_reducible apply Part.Sub.mk); rfl)
    | with_reducible apply Moves.refl
    | with_reducible assumption
    | with_reducible apply setTile_moves
    | dsimp only)

theorem modArr_moves {l' : List Part} {s' : State} (s : State) (n a : Nat) (f : Arr → Arr) (h' : Moves l' s' s) (hl' : Part.Sub [.tiles] l') : Moves l' s' (modArr s n a f) := by
  refine Moves.chain ?_ hl' h'
  clear h' hl'
  unfold modArr
  try dsimp only
  repeat' (first
    | ((with_reducible apply Part.Sub.mk); rfl)
    | with_reducible apply Moves.refl
    | with_reducible assumption
    | with_reducible apply modTile_moves
    | intro _
    | dsimp only)

theorem hbmWrite_moves {l' : List Part} {s' : State} (s : State) (a : Nat) (bs : List Byte) (h' : Moves l' s' s) (hl' : Part.Sub [.hbm] l') : Moves l' s' (hbmWrite s a bs) := by
  refine Moves.chain ?_ hl' h'
  clear h' hl'
  unfold hbmWrite
  try dsimp only
  repeat' (first
    | ((with_reducible apply Part.Sub.mk); rfl)
    | with_reducible apply Moves.refl
    | with_reducible assumption
    | with_reducible apply Moves.ite
    | with_reducible apply Moves.foldl
    | with_reducible apply Moves.ite_fst
    | with_reducible apply Moves.ite_snd
    | with_reducible apply Moves.foldl_fst
    | with_reducible apply Moves.foldl_snd
    | intro _
    | with_reducible apply swf_sset
    | with_reducible apply swf_ssetList
    | with_reducible apply swf_filter
    | with_reducible apply swf_nil
    | with_reducible apply swf_foldl
    | with_reducible apply List.prefix_append
    | with_reducible apply List.prefix_refl
    | split
    | dsimp only
    | with_reducible apply Moves.set_hbm
    | exact List.prefix_append _ _
    | exact (List.prefix_append _ _).trans (List.prefix_append _ _)
    | omega)

end Sys2Proof.Machine
end

