-- ==== Sys2Proof/Laws/Moves/Flags.lean ====
section
/-! SUPPORT. What the functions of Machine/Flags.lean touch. -/

namespace Sys2Proof.Machine

theorem owlDrop_moves {l' : List Part} {s' : State} (s : State) (h' : Moves l' s' s) (hl' : Part.Sub [.regs] l') : Moves l' s' (owlDrop s) := by
  refine Moves.chain ?_ hl' h'
  clear h' hl'
  unfold owlDrop
  try dsimp only
  repeat' (first
    | ((with_reducible apply Part.Sub.mk); rfl)
    | with_reducible apply Moves.refl
    | with_reducible assumption
    | with_reducible apply count_moves
    | with_reducible apply setFld_moves
    | with_reducible apply Moves.ite
    | intro _
    | split
    | dsimp only)

theorem owlRecord_moves {l' : List Part} {s' : State} (s : State) (reg bit kind unit : Nat) (detail : List Nat) (h' : Moves l' s' s) (hl' : Part.Sub [.regs, .owlFifo] l') : Moves l' s' (owlRecord s reg bit kind unit detail) := by
  refine Moves.chain ?_ hl' h'
  clear h' hl'
  unfold owlRecord
  try dsimp only
  repeat' (first
    | ((with_reducible apply Part.Sub.mk); rfl)
    | with_reducible apply Moves.refl
    | with_reducible assumption
    | with_reducible apply owlDrop_moves
    | with_reducible apply count_moves
    | with_reducible apply setFld_moves
    | with_reducible apply Moves.ite
    | intro _
    | split
    | dsimp only
    | with_reducible apply Moves.set_owlFifo)

theorem raiseD_moves {l' : List Part} {s' : State} (s : State) (base : Nat) (f : Fld) (detail : List Nat) (h' : Moves l' s' s) (hl' : Part.Sub [.regs, .owlFifo] l') : Moves l' s' (raiseD s base f detail) := by
  refine Moves.chain ?_ hl' h'
  clear h' hl'
  unfold raiseD
  try dsimp only
  repeat' (first
    | ((with_reducible apply Part.Sub.mk); rfl)
    | with_reducible apply Moves.refl
    | with_reducible assumption
    | with_reducible apply owlRecord_moves
    | with_reducible apply setFld_moves
    | with_reducible apply Moves.ite
    | with_reducible apply Moves.ite_fst
    | with_reducible apply Moves.ite_snd
    | intro _
    | split
    | dsimp only)

theorem raiseBit_moves {l' : List Part} {s' : State} (s : State) (base : Nat) (f : Fld) (h' : Moves l' s' s) (hl' : Part.Sub [.regs, .owlFifo] l') : Moves l' s' (raiseBit s base f) := by
  refine Moves.chain ?_ hl' h'
  clear h' hl'
  unfold raiseBit
  try dsimp only
  repeat' (first
    | ((with_reducible apply Part.Sub.mk); rfl)
    | with_reducible apply Moves.refl
    | with_reducible assumption
    | with_reducible apply raiseD_moves
    | dsimp only)

theorem pushEv_moves {l' : List Part} {s' : State} (s : State) (typ cls ver kind unit op0 op1 : Nat) (detail : List Nat) (h' : Moves l' s' s) (hl' : Part.Sub [.fwEvents] l') : Moves l' s' (pushEv s typ cls ver kind unit op0 op1 detail) := by
  refine Moves.chain ?_ hl' h'
  clear h' hl'
  unfold pushEv
  try dsimp only
  repeat' (first
    | ((with_reducible apply Part.Sub.mk); rfl)
    | with_reducible apply Moves.refl
    | with_reducible assumption
    | dsimp only
    | with_reducible apply Moves.set_fwEvents)

theorem pushNamed_moves {l' : List Part} {s' : State} (s : State) (q : Nat) (l : List FwEvent) (h' : Moves l' s' s) (hl' : Part.Sub [.fwEvents] l') : Moves l' s' (pushNamed s q l) := by
  refine Moves.chain ?_ hl' h'
  clear h' hl'
  unfold pushNamed
  try dsimp only
  repeat' (first
    | ((with_reducible apply Part.Sub.mk); rfl)
    | with_reducible apply Moves.refl
    | with_reducible assumption
    | with_reducible apply Moves.ite
    | intro _
    | split
    | dsimp only
    | with_reducible apply Moves.set_fwEvents)

theorem raiseNamed_moves {l' : List Part} {s' : State} (s : State) (base : Nat) (f : Fld) (raw : List Nat) (typ cls ver op0 op1 : Nat) (detail : List Nat) (h' : Moves l' s' s) (hl' : Part.Sub [.regs, .owlFifo, .fwEvents] l') : Moves l' s' (raiseNamed s base f raw typ cls ver op0 op1 detail) := by
  refine Moves.chain ?_ hl' h'
  clear h' hl'
  unfold raiseNamed
  try dsimp only
  repeat' (first
    | ((with_reducible apply Part.Sub.mk); rfl)
    | with_reducible apply Moves.refl
    | with_reducible assumption
    | with_reducible apply raiseD_moves
    | with_reducible apply pushNamed_moves
    | dsimp only)

theorem raiseIf_moves {l' : List Part} {s' : State} (c : Bool) (s : State) (base : Nat) (f : Fld) (h' : Moves l' s' s) (hl' : Part.Sub [.regs, .owlFifo] l') : Moves l' s' (raiseIf c s base f) := by
  refine Moves.chain ?_ hl' h'
  clear h' hl'
  unfold raiseIf
  try dsimp only
  repeat' (first
    | ((with_reducible apply Part.Sub.mk); rfl)
    | with_reducible apply Moves.refl
    | with_reducible assumption
    | with_reducible apply raiseBit_moves
    | with_reducible apply Moves.ite
    | intro _
    | split
    | dsimp only)

theorem countCnv_moves {l' : List Part} {s' : State} (s : State) (base : Nat) (sat : Fld) (c : Cnv) (h' : Moves l' s' s) (hl' : Part.Sub [.regs] l') : Moves l' s' (countCnv s base sat c) := by
  refine Moves.chain ?_ hl' h'
  clear h' hl'
  unfold countCnv
  try dsimp only
  repeat' (first
    | ((with_reducible apply Part.Sub.mk); rfl)
    | with_reducible apply Moves.refl
    | with_reducible assumption
    | with_reducible apply countAll_moves
    | dsimp only)

theorem parity_moves {l' : List Part} {s' : State} (s : State) (bad path addr : Nat) (h' : Moves l' s' s) (hl' : Part.Sub [.regs, .owlFifo] l') : Moves l' s' (parity s bad path addr) := by
  refine Moves.chain ?_ hl' h'
  clear h' hl'
  unfold parity
  try dsimp only
  repeat' (first
    | ((with_reducible apply Part.Sub.mk); rfl)
    | with_reducible apply Moves.refl
    | with_reducible assumption
    | with_reducible apply raiseD_moves
    | with_reducible apply count_moves
    | with_reducible apply Moves.ite
    | intro _
    | split
    | dsimp only)

theorem parityRuns_moves {l' : List Part} {s' : State} (s : State) (par path addr : Nat) (h' : Moves l' s' s) (hl' : Part.Sub [.regs, .owlFifo] l') : Moves l' s' (parityRuns s par path addr) := by
  refine Moves.chain ?_ hl' h'
  clear h' hl'
  unfold parityRuns
  try dsimp only
  repeat' (first
    | ((with_reducible apply Part.Sub.mk); rfl)
    | with_reducible apply Moves.refl
    | with_reducible assumption
    | with_reducible apply parity_moves
    | with_reducible apply Moves.foldl
    | intro _
    | split
    | dsimp only)

end Sys2Proof.Machine
end

