-- ==== Sys2Proof/Laws/Moves/Sett.lean ====
section
/-! SUPPORT. What the functions of Machine/Sett.lean touch. -/

namespace Sys2Proof.Machine

theorem aliasRefuse_moves {l' : List Part} {s' : State} (s : State) (n : Nat) (h' : Moves l' s' s) (hl' : Part.Sub [.regs, .owlFifo] l') : Moves l' s' (aliasRefuse s n) := by
  refine Moves.chain ?_ hl' h'
  clear h' hl'
  unfold aliasRefuse
  try dsimp only
  repeat' (first
    | ((with_reducible apply Part.Sub.mk); rfl)
    | with_reducible apply Moves.refl
    | with_reducible assumption
    | with_reducible apply raiseBit_moves
    | with_reducible apply count_moves
    | dsimp only)

theorem settWrite_moves {l' : List Part} {s' : State} (s : State) (n a : Nat) (bs : List Byte) (h' : Moves l' s' s) (hl' : Part.Sub [.regs, .tiles, .owlFifo] l') : Moves l' s' (settWrite s n a bs) := by
  refine Moves.chain ?_ hl' h'
  clear h' hl'
  unfold settWrite
  try dsimp only
  repeat' (first
    | ((with_reducible apply Part.Sub.mk); rfl)
    | with_reducible apply Moves.refl
    | with_reducible assumption
    | with_reducible apply aliasRefuse_moves
    | with_reducible apply modTile_moves
    | with_reducible apply Moves.ite
    | intro _
    | split
    | dsimp only)

theorem ownWaitStart_moves {l' : List Part} {s' : State} (s : State) (n unit : Nat) (h' : Moves l' s' s) (hl' : Part.Sub [.tiles] l') : Moves l' s' (ownWaitStart s n unit) := by
  refine Moves.chain ?_ hl' h'
  clear h' hl'
  unfold ownWaitStart
  try dsimp only
  repeat' (first
    | ((with_reducible apply Part.Sub.mk); rfl)
    | with_reducible apply Moves.refl
    | with_reducible assumption
    | with_reducible apply modTile_moves
    | with_reducible apply Moves.ite
    | with_reducible apply Moves.ite_fst
    | with_reducible apply Moves.ite_snd
    | intro _
    | split
    | dsimp only)

theorem ownWaitEnd_moves {l' : List Part} {s' : State} (s : State) (n unit : Nat) (h' : Moves l' s' s) (hl' : Part.Sub [.regs, .tiles] l') : Moves l' s' (ownWaitEnd s n unit) := by
  refine Moves.chain ?_ hl' h'
  clear h' hl'
  unfold ownWaitEnd
  try dsimp only
  repeat' (first
    | ((with_reducible apply Part.Sub.mk); rfl)
    | with_reducible apply Moves.refl
    | with_reducible assumption
    | with_reducible apply modTile_moves
    | with_reducible apply count_moves
    | with_reducible apply Moves.ite
    | with_reducible apply Moves.ite_fst
    | with_reducible apply Moves.ite_snd
    | intro _
    | split
    | dsimp only)

theorem setOwner_moves {l' : List Part} {s' : State} (s : State) (n b p o : Nat) (h' : Moves l' s' s) (hl' : Part.Sub [.regs, .owlFifo] l') : Moves l' s' (setOwner s n b p o) := by
  refine Moves.chain ?_ hl' h'
  clear h' hl'
  unfold setOwner
  try dsimp only
  repeat' (first
    | ((with_reducible apply Part.Sub.mk); rfl)
    | with_reducible apply Moves.refl
    | with_reducible assumption
    | with_reducible apply raiseBit_moves
    | with_reducible apply setFld_moves
    | with_reducible apply Moves.ite
    | intro _
    | split
    | dsimp only)

theorem wgbApply_moves {l' : List Part} {s' : State} (s : State) (n : Nat) (adds : List (Nat × Word)) (h' : Moves l' s' s) (hl' : Part.Sub [.regs, .tiles, .owlFifo] l') : Moves l' s' (wgbApply s n adds) := by
  refine Moves.chain ?_ hl' h'
  clear h' hl'
  unfold wgbApply
  try dsimp only
  repeat' (first
    | ((with_reducible apply Part.Sub.mk); rfl)
    | with_reducible apply Moves.refl
    | with_reducible assumption
    | with_reducible apply raiseBit_moves
    | with_reducible apply setTile_moves
    | with_reducible apply count_moves
    | with_reducible apply Moves.ite
    | with_reducible apply Moves.ite_fst
    | with_reducible apply Moves.ite_snd
    | intro _
    | split
    | dsimp only)

end Sys2Proof.Machine
end

