-- ==== Sys2Proof/Laws/Moves/Contain.lean ====
section
/-! SUPPORT. What the functions of Machine/Contain.lean touch. -/

namespace Sys2Proof.Machine

theorem suspect_moves {l' : List Part} {s' : State} (s : State) (n cause : Nat) (h' : Moves l' s' s) (hl' : Part.Sub [.regs, .owlFifo, .suspects] l') : Moves l' s' (suspect s n cause) := by
  refine Moves.chain ?_ hl' h'
  clear h' hl'
  unfold suspect
  try dsimp only
  repeat' (first
    | ((with_reducible apply Part.Sub.mk); rfl)
    | with_reducible apply Moves.refl
    | with_reducible assumption
    | with_reducible apply raiseD_moves
    | with_reducible apply count_moves
    | with_reducible apply setFld_moves
    | dsimp only
    | with_reducible apply Moves.set_suspects)

theorem taint_moves {l' : List Part} {s' : State} (s : State) (v : Nat) (h' : Moves l' s' s) (hl' : Part.Sub [.regs, .owlFifo, .taints] l') : Moves l' s' (taint s v) := by
  refine Moves.chain ?_ hl' h'
  clear h' hl'
  unfold taint
  try dsimp only
  repeat' (first
    | ((with_reducible apply Part.Sub.mk); rfl)
    | with_reducible apply Moves.refl
    | with_reducible assumption
    | with_reducible apply raiseBit_moves
    | with_reducible apply count_moves
    | with_reducible apply Moves.ite
    | intro _
    | split
    | dsimp only
    | with_reducible apply Moves.set_taints)

theorem detect_moves {l' : List Part} {s' : State} (s : State) (n : Nat) (h' : Moves l' s' s) (hl' : Part.Sub [.regs, .tiles, .owlFifo, .taints, .suspects] l') : Moves l' s' (detect s n) := by
  refine Moves.chain ?_ hl' h'
  clear h' hl'
  unfold detect
  try dsimp only
  repeat' (first
    | ((with_reducible apply Part.Sub.mk); rfl)
    | with_reducible apply Moves.refl
    | with_reducible assumption
    | with_reducible apply taint_moves
    | with_reducible apply suspect_moves
    | with_reducible apply modTile_moves
    | with_reducible apply setFld_moves
    | with_reducible apply Moves.ite
    | intro _
    | split
    | dsimp only)

theorem closeWin_moves {l' : List Part} {s' : State} (s : State) (n a : Nat) (h' : Moves l' s' s) (hl' : Part.Sub [.regs, .tiles, .owlFifo, .csFails, .failWins] l') : Moves l' s' (closeWin s n a) := by
  refine Moves.chain ?_ hl' h'
  clear h' hl'
  unfold closeWin
  try dsimp only
  repeat' (first
    | ((with_reducible apply Part.Sub.mk); rfl)
    | with_reducible apply Moves.refl
    | with_reducible assumption
    | with_reducible apply raiseD_moves
    | with_reducible apply modArr_moves
    | with_reducible apply count_moves
    | with_reducible apply Moves.ite
    | intro _
    | split
    | dsimp only
    | with_reducible apply Moves.set_csFails_failWins)

theorem closeDue_moves {l' : List Part} {s' : State} (s : State) (n a : Nat) (h' : Moves l' s' s) (hl' : Part.Sub [.regs, .tiles, .owlFifo, .csFails, .failWins] l') : Moves l' s' (closeDue s n a) := by
  refine Moves.chain ?_ hl' h'
  clear h' hl'
  unfold closeDue
  try dsimp only
  repeat' (first
    | ((with_reducible apply Part.Sub.mk); rfl)
    | with_reducible apply Moves.refl
    | with_reducible assumption
    | with_reducible apply closeWin_moves
    | with_reducible apply Moves.ite
    | intro _
    | split
    | dsimp only)

theorem windowsCommit_moves {l' : List Part} {s' : State} (s : State) (h' : Moves l' s' s) (hl' : Part.Sub [.regs, .tiles, .owlFifo, .csFails, .failWins] l') : Moves l' s' (windowsCommit s) := by
  refine Moves.chain ?_ hl' h'
  clear h' hl'
  unfold windowsCommit
  try dsimp only
  repeat' (first
    | ((with_reducible apply Part.Sub.mk); rfl)
    | with_reducible apply Moves.refl
    | with_reducible assumption
    | with_reducible apply closeDue_moves
    | with_reducible apply modArr_moves
    | with_reducible apply Moves.foldl
    | intro _
    | dsimp only)

end Sys2Proof.Machine
end

