-- ==== Sys2Proof/Laws/Moves/Mc.lean ====
section
/-! SUPPORT. What the functions of Machine/Mc.lean touch. -/

namespace Sys2Proof.Machine

theorem setMc_moves {l' : List Part} {s' : State} (s : State) (m : Nat) (x : Mc) (h' : Moves l' s' s) (hl' : Part.Sub [.regs, .mcs] l') : Moves l' s' (setMc s m x) := by
  refine Moves.chain ?_ hl' h'
  clear h' hl'
  unfold setMc
  try dsimp only
  repeat' (first
    | ((with_reducible apply Part.Sub.mk); rfl)
    | with_reducible apply Moves.refl
    | with_reducible assumption
    | with_reducible apply setFld_moves
    | intro _
    | with_reducible apply swf_sset
    | dsimp only
    | with_reducible apply Moves.set_mcs)

theorem bumpEpoch_moves {l' : List Part} {s' : State} (s : State) (addr : Nat) (h' : Moves l' s' s) (hl' : Part.Sub [.mcs] l') : Moves l' s' (bumpEpoch s addr) := by
  refine Moves.chain ?_ hl' h'
  clear h' hl'
  unfold bumpEpoch
  try dsimp only
  repeat' (first
    | ((with_reducible apply Part.Sub.mk); rfl)
    | with_reducible apply Moves.refl
    | with_reducible assumption
    | intro _
    | with_reducible apply swf_sset
    | dsimp only
    | with_reducible apply Moves.set_mcs)

theorem memRead_moves {l' : List Part} {s' : State} (s : State) (addr len : Nat) (h' : Moves l' s' s) (hl' : Part.Sub [.regs] l') : Moves l' s' (memRead s addr len).2 := by
  refine Moves.chain ?_ hl' h'
  clear h' hl'
  refine MovesP.h (p := memRead s addr len) ?_
  unfold memRead
  try dsimp only
  repeat' (first
    | ((with_reducible apply Part.Sub.mk); rfl)
    | with_reducible apply MovesP.of_mk
    | with_reducible apply MovesP.foldl
    | with_reducible apply Moves.refl
    | with_reducible assumption
    | with_reducible apply count_moves
    | with_reducible apply Moves.foldl
    | with_reducible apply Moves.foldl_fst
    | with_reducible apply Moves.foldl_snd
    | intro _
    | dsimp only)

theorem memWrite_moves {l' : List Part} {s' : State} (s : State) (addr : Nat) (bs : List Byte) (h' : Moves l' s' s) (hl' : Part.Sub [.regs, .hbm, .mcs] l') : Moves l' s' (memWrite s addr bs) := by
  refine Moves.chain ?_ hl' h'
  clear h' hl'
  unfold memWrite
  try dsimp only
  repeat' (first
    | ((with_reducible apply Part.Sub.mk); rfl)
    | with_reducible apply Moves.refl
    | with_reducible assumption
    | with_reducible apply bumpEpoch_moves
    | with_reducible apply hbmWrite_moves
    | with_reducible apply count_moves
    | with_reducible apply Moves.foldl
    | with_reducible apply Moves.foldl_fst
    | with_reducible apply Moves.foldl_snd
    | intro _
    | dsimp only)

theorem modBlk_moves {l' : List Part} {s' : State} (s : State) (n job k : Nat) (f : BlkReq → BlkReq) (h' : Moves l' s' s) (hl' : Part.Sub [.tiles] l') : Moves l' s' (modBlk s n job k f) := by
  refine Moves.chain ?_ hl' h'
  clear h' hl'
  unfold modBlk
  try dsimp only
  repeat' (first
    | ((with_reducible apply Part.Sub.mk); rfl)
    | with_reducible apply Moves.refl
    | with_reducible assumption
    | with_reducible apply modTile_moves
    | with_reducible apply Moves.ite
    | intro _
    | split
    | dsimp only)

theorem mcRemove_moves {l' : List Part} {s' : State} (s : State) (m : Nat) (r : McReq) (h' : Moves l' s' s) (hl' : Part.Sub [.regs, .mcs] l') : Moves l' s' (mcRemove s m r) := by
  refine Moves.chain ?_ hl' h'
  clear h' hl'
  unfold mcRemove
  try dsimp only
  repeat' (first
    | ((with_reducible apply Part.Sub.mk); rfl)
    | with_reducible apply Moves.refl
    | with_reducible assumption
    | with_reducible apply setMc_moves
    | intro _
    | dsimp only)

theorem mcServe_moves {l' : List Part} {s' : State} (s : State) (m corr : Nat) (unc : Bool) (h' : Moves l' s' s) (hl' : Part.Sub [.regs, .hbm, .tiles, .mcs, .owlFifo] l') : Moves l' s' (mcServe s m corr unc) := by
  refine Moves.chain ?_ hl' h'
  clear h' hl'
  unfold mcServe
  try dsimp only
  repeat' (first
    | ((with_reducible apply Part.Sub.mk); rfl)
    | with_reducible apply Moves.refl
    | with_reducible assumption
    | with_reducible apply mcRemove_moves
    | with_reducible apply modBlk_moves
    | with_reducible apply bumpEpoch_moves
    | with_reducible apply raiseBit_moves
    | with_reducible apply hbmWrite_moves
    | with_reducible apply count_moves
    | with_reducible apply Moves.ite
    | with_reducible apply Moves.foldl
    | with_reducible apply Moves.ite_fst
    | with_reducible apply Moves.ite_snd
    | with_reducible apply Moves.foldl_fst
    | with_reducible apply Moves.foldl_snd
    | intro _
    | split
    | dsimp only)

theorem mcEnter_moves {l' : List Part} {s' : State} (s : State) (m : Nat) (r0 : McReq) (h' : Moves l' s' s) (hl' : Part.Sub [.regs, .mcs] l') : Moves l' s' (mcEnter s m r0) := by
  refine Moves.chain ?_ hl' h'
  clear h' hl'
  unfold mcEnter
  try dsimp only
  repeat' (first
    | ((with_reducible apply Part.Sub.mk); rfl)
    | with_reducible apply Moves.refl
    | with_reducible assumption
    | with_reducible apply setMc_moves
    | with_reducible apply count_moves
    | with_reducible apply Moves.ite
    | intro _
    | split
    | dsimp only)

theorem mcAccept_moves {l' : List Part} {s' : State} (s : State) (m : Nat) (h' : Moves l' s' s) (hl' : Part.Sub [.regs, .mcs] l') : Moves l' s' (mcAccept s m) := by
  refine Moves.chain ?_ hl' h'
  clear h' hl'
  unfold mcAccept
  try dsimp only
  repeat' (first
    | ((with_reducible apply Part.Sub.mk); rfl)
    | with_reducible apply Moves.refl
    | with_reducible assumption
    | with_reducible apply mcEnter_moves
    | with_reducible apply count_moves
    | with_reducible apply Moves.ite
    | intro _
    | split
    | dsimp only)

theorem perBankRefresh_moves {l' : List Part} {s' : State} (s : State) (m : Nat) (temp : BitVec 8) (h' : Moves l' s' s) (hl' : Part.Sub [.regs] l') : Moves l' s' (perBankRefresh s m temp) := by
  refine Moves.chain ?_ hl' h'
  clear h' hl'
  unfold perBankRefresh
  try dsimp only
  repeat' (first
    | ((with_reducible apply Part.Sub.mk); rfl)
    | with_reducible apply Moves.refl
    | with_reducible assumption
    | with_reducible apply setBit_moves
    | with_reducible apply setFld_moves
    | dsimp only)

end Sys2Proof.Machine
end

