-- ==== Sys2Proof/Laws/Moves/Ledger.lean ====
section
/-! SUPPORT. What the functions of Machine/Ledger.lean touch. -/

namespace Sys2Proof.Machine

theorem taintBlock_moves {l' : List Part} {s' : State} (s : State) (tid blk addr : Nat) (inV : Nat → Bool) (h' : Moves l' s' s) (hl' : Part.Sub [.regs, .hbm, .mcs] l') : Moves l' s' (taintBlock s tid blk addr inV) := by
  refine Moves.chain ?_ hl' h'
  clear h' hl'
  unfold taintBlock
  try dsimp only
  repeat' (first
    | ((with_reducible apply Part.Sub.mk); rfl)
    | with_reducible apply Moves.refl
    | with_reducible assumption
    | with_reducible apply memWrite_moves
    | with_reducible apply memRead_moves
    | (with_reducible apply MovesP.mk; with_reducible apply memRead_moves)
    | with_reducible apply count_moves
    | with_reducible apply Moves.ite
    | with_reducible apply Moves.ite_fst
    | with_reducible apply Moves.ite_snd
    | intro _
    | split
    | dsimp only)

theorem taintLedger_moves {l' : List Part} {s' : State} (s : State) (inV : Nat → Bool) (h' : Moves l' s' s) (hl' : Part.Sub [.regs, .hbm, .mcs] l') : Moves l' s' (taintLedger s inV) := by
  refine Moves.chain ?_ hl' h'
  clear h' hl'
  unfold taintLedger
  try dsimp only
  repeat' (first
    | ((with_reducible apply Part.Sub.mk); rfl)
    | with_reducible apply Moves.refl
    | with_reducible assumption
    | with_reducible apply taintBlock_moves
    | with_reducible apply Moves.ite
    | with_reducible apply Moves.foldl
    | intro _
    | split
    | dsimp only)

end Sys2Proof.Machine
end

