-- ==== Sys2Proof/Laws/Moves/Array.lean ====
section
/-! SUPPORT. What the functions of Machine/Array.lean touch. -/

namespace Sys2Proof.Machine

theorem setPlaneState_moves {l' : List Part} {s' : State} (s : State) (n a : Nat) (b : Bool) (v : Nat) (h' : Moves l' s' s) (hl' : Part.Sub [.regs] l') : Moves l' s' (setPlaneState s n a b v) := by
  refine Moves.chain ?_ hl' h'
  clear h' hl'
  unfold setPlaneState
  try dsimp only
  repeat' (first
    | ((with_reducible apply Part.Sub.mk); rfl)
    | with_reducible apply Moves.refl
    | with_reducible assumption
    | with_reducible apply setFld_moves
    | with_reducible apply Moves.ite
    | intro _
    | split
    | dsimp only)

theorem crossing_moves {l' : List Part} {s' : State} (s : State) (n cause : Nat) (fox : Bool) (block : Nat) (h' : Moves l' s' s) (hl' : Part.Sub [.regs, .tiles, .owlFifo] l') : Moves l' s' (crossing s n cause fox block) := by
  refine Moves.chain ?_ hl' h'
  clear h' hl'
  unfold crossing
  try dsimp only
  repeat' (first
    | ((with_reducible apply Part.Sub.mk); rfl)
    | with_reducible apply Moves.refl
    | with_reducible assumption
    | with_reducible apply raiseBit_moves
    | with_reducible apply modTile_moves
    | with_reducible apply count_moves
    | with_reducible apply setBit_moves
    | with_reducible apply setFld_moves
    | with_reducible apply Moves.ite
    | intro _
    | split
    | dsimp only)

theorem foxWindowAdd_moves {l' : List Part} {s' : State} (s : State) (n : Nat) (w : Bool) (k : Nat) (h' : Moves l' s' s) (hl' : Part.Sub [.regs, .tiles, .owlFifo] l') : Moves l' s' (foxWindowAdd s n w k) := by
  refine Moves.chain ?_ hl' h'
  clear h' hl'
  unfold foxWindowAdd
  try dsimp only
  repeat' (first
    | ((with_reducible apply Part.Sub.mk); rfl)
    | with_reducible apply Moves.refl
    | with_reducible assumption
    | with_reducible apply crossing_moves
    | with_reducible apply setFld_moves
    | with_reducible apply Moves.ite
    | intro _
    | split
    | dsimp only)

theorem foxWindowReset_moves {l' : List Part} {s' : State} (s : State) (n : Nat) (h' : Moves l' s' s) (hl' : Part.Sub [.regs, .tiles] l') : Moves l' s' (foxWindowReset s n) := by
  refine Moves.chain ?_ hl' h'
  clear h' hl'
  unfold foxWindowReset
  try dsimp only
  repeat' (first
    | ((with_reducible apply Part.Sub.mk); rfl)
    | with_reducible apply Moves.refl
    | with_reducible assumption
    | with_reducible apply modTile_moves
    | with_reducible apply setFld_moves
    | intro _
    | dsimp only)

theorem foxFiring_moves {l' : List Part} {s' : State} (s : State) (n : Nat) (h' : Moves l' s' s) (hl' : Part.Sub [.regs, .tiles] l') : Moves l' s' (foxFiring s n) := by
  refine Moves.chain ?_ hl' h'
  clear h' hl'
  unfold foxFiring
  try dsimp only
  repeat' (first
    | ((with_reducible apply Part.Sub.mk); rfl)
    | with_reducible apply Moves.refl
    | with_reducible assumption
    | with_reducible apply foxWindowReset_moves
    | with_reducible apply modTile_moves
    | with_reducible apply Moves.ite
    | intro _
    | split
    | dsimp only)

theorem blockWindowReset_moves {l' : List Part} {s' : State} (s : State) (n b : Nat) (h' : Moves l' s' s) (hl' : Part.Sub [.regs, .tiles] l') : Moves l' s' (blockWindowReset s n b) := by
  refine Moves.chain ?_ hl' h'
  clear h' hl'
  unfold blockWindowReset
  try dsimp only
  repeat' (first
    | ((with_reducible apply Part.Sub.mk); rfl)
    | with_reducible apply Moves.refl
    | with_reducible assumption
    | with_reducible apply modTile_moves
    | with_reducible apply setFld_moves
    | intro _
    | dsimp only)

theorem blockCount_moves {l' : List Part} {s' : State} (s : State) (n b codes sat zer : Nat) (h' : Moves l' s' s) (hl' : Part.Sub [.regs, .tiles, .owlFifo] l') : Moves l' s' (blockCount s n b codes sat zer) := by
  refine Moves.chain ?_ hl' h'
  clear h' hl'
  unfold blockCount
  try dsimp only
  repeat' (first
    | ((with_reducible apply Part.Sub.mk); rfl)
    | with_reducible apply Moves.refl
    | with_reducible assumption
    | with_reducible apply blockWindowReset_moves
    | with_reducible apply crossing_moves
    | with_reducible apply modTile_moves
    | with_reducible apply setFld_moves
    | with_reducible apply Moves.ite
    | intro _
    | split
    | dsimp only)

theorem setSrc_moves {l' : List Part} {s' : State} (s : State) (n a : Nat) (b : Bool) (r : SrcRec) (h' : Moves l' s' s) (hl' : Part.Sub [.regs] l') : Moves l' s' (setSrc s n a b r) := by
  refine Moves.chain ?_ hl' h'
  clear h' hl'
  unfold setSrc
  try dsimp only
  repeat' (first
    | ((with_reducible apply Part.Sub.mk); rfl)
    | with_reducible apply Moves.refl
    | with_reducible assumption
    | with_reducible apply setFld_moves
    | with_reducible apply Moves.ite
    | intro _
    | split
    | dsimp only)

theorem planeInForce_moves {l' : List Part} {s' : State} (s : State) (n a : Nat) (b : Bool) (h' : Moves l' s' s) (hl' : Part.Sub [.regs, .tiles, .owlFifo] l') : Moves l' s' (planeInForce s n a b) := by
  refine Moves.chain ?_ hl' h'
  clear h' hl'
  unfold planeInForce
  try dsimp only
  repeat' (first
    | ((with_reducible apply Part.Sub.mk); rfl)
    | with_reducible apply Moves.refl
    | with_reducible assumption
    | with_reducible apply foxWindowAdd_moves
    | with_reducible apply count_moves
    | with_reducible apply Moves.ite
    | intro _
    | split
    | dsimp only)

end Sys2Proof.Machine
end

