-- ==== Sys2Proof/Laws/Moves/CalSums.lean ====
section
/-! SUPPORT. What the functions of Machine/CalSums.lean touch. -/

namespace Sys2Proof.Machine

theorem calClose_moves {l' : List Part} {s' : State} (s : State) (n : Nat) (h' : Moves l' s' s) (hl' : Part.Sub [.regs, .tiles] l') : Moves l' s' (calClose s n) := by
  refine Moves.chain ?_ hl' h'
  clear h' hl'
  unfold calClose
  try dsimp only
  repeat' (first
    | ((with_reducible apply Part.Sub.mk); rfl)
    | with_reducible apply Moves.refl
    | with_reducible assumption
    | with_reducible apply modTile_moves
    | with_reducible apply count_moves
    | with_reducible apply Moves.ite
    | intro _
    | split
    | dsimp only)

theorem calCloseIf_moves {l' : List Part} {s' : State} (s : State) (n a : Nat) (h' : Moves l' s' s) (hl' : Part.Sub [.regs, .tiles] l') : Moves l' s' (calCloseIf s n a) := by
  refine Moves.chain ?_ hl' h'
  clear h' hl'
  unfold calCloseIf
  try dsimp only
  repeat' (first
    | ((with_reducible apply Part.Sub.mk); rfl)
    | with_reducible apply Moves.refl
    | with_reducible assumption
    | with_reducible apply calClose_moves
    | with_reducible apply Moves.ite
    | intro _
    | split
    | dsimp only)

end Sys2Proof.Machine
end

