-- ==== Sys2Proof/Laws/Moves/Seq.lean ====
section
/-! SUPPORT. What the functions of Machine/Seq.lean touch. -/

namespace Sys2Proof.Machine

theorem dropPrefetch_moves {l' : List Part} {s' : State} (s : State) (n : Nat) (h' : Moves l' s' s) (hl' : Part.Sub [.regs, .tiles] l') : Moves l' s' (dropPrefetch s n) := by
  refine Moves.chain ?_ hl' h'
  clear h' hl'
  unfold dropPrefetch
  try dsimp only
  repeat' (first
    | ((with_reducible apply Part.Sub.mk); rfl)
    | with_reducible apply Moves.refl
    | with_reducible assumption
    | with_reducible apply modTile_moves
    | with_reducible apply count_moves
    | with_reducible apply setFld_moves
    | with_reducible apply Moves.ite
    | intro _
    | split
    | dsimp only)

theorem haltSeq_moves {l' : List Part} {s' : State} (s : State) (n status idx : Nat) (atExec : Bool) (h' : Moves l' s' s) (hl' : Part.Sub [.regs, .tiles, .owlFifo, .fwEvents] l') : Moves l' s' (haltSeq s n status idx atExec) := by
  refine Moves.chain ?_ hl' h'
  clear h' hl'
  unfold haltSeq
  try dsimp only
  repeat' (first
    | ((with_reducible apply Part.Sub.mk); rfl)
    | with_reducible apply Moves.refl
    | with_reducible assumption
    | with_reducible apply dropPrefetch_moves
    | with_reducible apply raiseNamed_moves
    | with_reducible apply modTile_moves
    | with_reducible apply count_moves
    | with_reducible apply setFld_moves
    | with_reducible apply Moves.ite
    | intro _
    | split
    | dsimp only)

theorem failExec_moves {l' : List Part} {s' : State} (s : State) (n no status : Nat) (h' : Moves l' s' s) (hl' : Part.Sub [.regs, .tiles, .owlFifo, .fwEvents] l') : Moves l' s' (failExec s n no status) := by
  refine Moves.chain ?_ hl' h'
  clear h' hl'
  unfold failExec
  try dsimp only
  repeat' (first
    | ((with_reducible apply Part.Sub.mk); rfl)
    | with_reducible apply Moves.refl
    | with_reducible assumption
    | with_reducible apply haltSeq_moves
    | with_reducible apply modTile_moves
    | intro _
    | split
    | dsimp only)

theorem settleHead_moves {l' : List Part} {s' : State} (s : State) (n : Nat) (h' : Moves l' s' s) (hl' : Part.Sub [.regs, .tiles, .owlFifo, .fwEvents] l') : Moves l' s' (settleHead s n) := by
  refine Moves.chain ?_ hl' h'
  clear h' hl'
  unfold settleHead
  try dsimp only
  repeat' (first
    | ((with_reducible apply Part.Sub.mk); rfl)
    | with_reducible apply Moves.refl
    | with_reducible assumption
    | with_reducible apply haltSeq_moves
    | with_reducible apply Moves.ite
    | intro _
    | split
    | dsimp only)

theorem popIssue_moves {l' : List Part} {s' : State} (s : State) (n : Nat) (f : Fetched) (h' : Moves l' s' s) (hl' : Part.Sub [.regs, .tiles] l') : Moves l' s' (popIssue s n f).1 := by
  refine Moves.chain ?_ hl' h'
  clear h' hl'
  refine MovesQ.h (p := popIssue s n f) ?_
  unfold popIssue
  try dsimp only
  repeat' (first
    | ((with_reducible apply Part.Sub.mk); rfl)
    | with_reducible apply MovesQ.of_mk
    | with_reducible apply Moves.refl
    | with_reducible assumption
    | with_reducible apply modTile_moves
    | with_reducible apply count_moves
    | intro _
    | dsimp only)

theorem popSeq_moves {l' : List Part} {s' : State} (s : State) (n : Nat) (f : Fetched) (h' : Moves l' s' s) (hl' : Part.Sub [.regs, .tiles] l') : Moves l' s' (popSeq s n f) := by
  refine Moves.chain ?_ hl' h'
  clear h' hl'
  unfold popSeq
  try dsimp only
  repeat' (first
    | ((with_reducible apply Part.Sub.mk); rfl)
    | with_reducible apply Moves.refl
    | with_reducible assumption
    | with_reducible apply modTile_moves
    | with_reducible apply count_moves
    | intro _
    | dsimp only)

theorem startBarrier_moves {l' : List Part} {s' : State} (s : State) (n : Nat) (h' : Moves l' s' s) (hl' : Part.Sub [.tiles] l') : Moves l' s' (startBarrier s n) := by
  refine Moves.chain ?_ hl' h'
  clear h' hl'
  unfold startBarrier
  try dsimp only
  repeat' (first
    | ((with_reducible apply Part.Sub.mk); rfl)
    | with_reducible apply Moves.refl
    | with_reducible assumption
    | with_reducible apply modTile_moves
    | intro _
    | dsimp only)

theorem issueWith_moves {l' : List Part} {s' : State} (s : State) (t : Fin 64) (c : SeqCmd) (go : Nat → Fetched → State → State) (h' : Moves l' s' s) (hl' : Part.Sub [.regs, .tiles, .owlFifo, .fwEvents] l') (hgo : ∀ v0 v1 v2, Moves l' s' v2 → Moves l' s' (go v0 v1 v2)) : Moves l' s' (issueWith s t c go) := by
  unfold issueWith
  try dsimp only
  repeat' (first
    | ((with_reducible refine Part.Sub.trans (l2 := [.regs, .tiles, .owlFifo, .fwEvents]) (Part.Sub.mk ?_) hl'); rfl)
    | with_reducible apply hgo
    | with_reducible apply Moves.refl
    | with_reducible assumption
    | with_reducible apply startBarrier_moves
    | with_reducible apply settleHead_moves
    | with_reducible apply haltSeq_moves
    | intro _
    | split
    | dsimp only)

theorem finCmd_moves {l' : List Part} {s' : State} (s : State) (n no : Nat) (h' : Moves l' s' s) (hl' : Part.Sub [.tiles] l') : Moves l' s' (finCmd s n no) := by
  refine Moves.chain ?_ hl' h'
  clear h' hl'
  unfold finCmd
  try dsimp only
  repeat' (first
    | ((with_reducible apply Part.Sub.mk); rfl)
    | with_reducible apply Moves.refl
    | with_reducible assumption
    | with_reducible apply modTile_moves
    | with_reducible apply Moves.ite
    | intro _
    | split
    | dsimp only)

theorem ranCmd_moves {l' : List Part} {s' : State} (s : State) (n no : Nat) (h' : Moves l' s' s) (hl' : Part.Sub [.tiles] l') : Moves l' s' (ranCmd s n no) := by
  refine Moves.chain ?_ hl' h'
  clear h' hl'
  unfold ranCmd
  try dsimp only
  repeat' (first
    | ((with_reducible apply Part.Sub.mk); rfl)
    | with_reducible apply Moves.refl
    | with_reducible assumption
    | with_reducible apply modTile_moves
    | with_reducible apply Moves.ite
    | intro _
    | split
    | dsimp only)

theorem releaseSignals_moves {l' : List Part} {s' : State} (s : State) (n : Nat) (h' : Moves l' s' s) (hl' : Part.Sub [.tiles, .sigs] l') : Moves l' s' (releaseSignals s n) := by
  refine Moves.chain ?_ hl' h'
  clear h' hl'
  unfold releaseSignals
  try dsimp only
  repeat' (first
    | ((with_reducible apply Part.Sub.mk); rfl)
    | with_reducible apply Moves.refl
    | with_reducible assumption
    | with_reducible apply modTile_moves
    | intro _
    | dsimp only
    | with_reducible apply Moves.set_sigs)

theorem endWait_moves {l' : List Part} {s' : State} (s : State) (n : Nat) (h' : Moves l' s' s) (hl' : Part.Sub [.regs, .tiles, .owlFifo, .fwEvents] l') : Moves l' s' (endWait s n) := by
  refine Moves.chain ?_ hl' h'
  clear h' hl'
  unfold endWait
  try dsimp only
  repeat' (first
    | ((with_reducible apply Part.Sub.mk); rfl)
    | with_reducible apply Moves.refl
    | with_reducible assumption
    | with_reducible apply settleHead_moves
    | with_reducible apply modTile_moves
    | with_reducible apply count_moves
    | with_reducible apply setFld_moves
    | with_reducible apply Moves.ite
    | intro _
    | split
    | dsimp only)

theorem afterComplete_moves {l' : List Part} {s' : State} (s : State) (n : Nat) (h' : Moves l' s' s) (hl' : Part.Sub [.regs, .tiles, .sigs, .owlFifo, .fwEvents] l') : Moves l' s' (afterComplete s n) := by
  refine Moves.chain ?_ hl' h'
  clear h' hl'
  unfold afterComplete
  try dsimp only
  repeat' (first
    | ((with_reducible apply Part.Sub.mk); rfl)
    | with_reducible apply Moves.refl
    | with_reducible assumption
    | with_reducible apply endWait_moves
    | with_reducible apply releaseSignals_moves
    | with_reducible apply Moves.ite
    | intro _
    | split
    | dsimp only)

theorem startWait_moves {l' : List Part} {s' : State} (s : State) (n : Nat) (w : SeqWait) (h' : Moves l' s' s) (hl' : Part.Sub [.regs, .tiles] l') : Moves l' s' (startWait s n w) := by
  refine Moves.chain ?_ hl' h'
  clear h' hl'
  unfold startWait
  try dsimp only
  repeat' (first
    | ((with_reducible apply Part.Sub.mk); rfl)
    | with_reducible apply Moves.refl
    | with_reducible assumption
    | with_reducible apply modTile_moves
    | with_reducible apply setFld_moves
    | intro _
    | dsimp only)

theorem seqRun_moves {l' : List Part} {s' : State} (s : State) (n : Nat) (run : Bool) (h' : Moves l' s' s) (hl' : Part.Sub [.regs, .tiles] l') : Moves l' s' (seqRun s n run) := by
  refine Moves.chain ?_ hl' h'
  clear h' hl'
  unfold seqRun
  try dsimp only
  repeat' (first
    | ((with_reducible apply Part.Sub.mk); rfl)
    | with_reducible apply Moves.refl
    | with_reducible assumption
    | with_reducible apply dropPrefetch_moves
    | with_reducible apply modTile_moves
    | with_reducible apply setBit_moves
    | with_reducible apply setFld_moves
    | with_reducible apply Moves.ite
    | intro _
    | split
    | dsimp only)

theorem seqContinue_moves {l' : List Part} {s' : State} (s : State) (n : Nat) (skip : Bool) (h' : Moves l' s' s) (hl' : Part.Sub [.regs] l') : Moves l' s' (seqContinue s n skip) := by
  refine Moves.chain ?_ hl' h'
  clear h' hl'
  unfold seqContinue
  try dsimp only
  repeat' (first
    | ((with_reducible apply Part.Sub.mk); rfl)
    | with_reducible apply Moves.refl
    | with_reducible assumption
    | with_reducible apply setFld_moves
    | with_reducible apply Moves.ite
    | intro _
    | split
    | dsimp only)

end Sys2Proof.Machine
end

