-- ==== Sys2Proof/Laws/Moves/Jobs.lean ====
section
/-! SUPPORT. What the functions of Machine/Jobs.lean touch. -/

namespace Sys2Proof.Machine

theorem addJob_moves {l' : List Part} {s' : State} (s : State) (n : Nat) (no : Option Nat) (kind : JobKind) (write : Bool) (ver : Option Nat) (dst : Nat) (blks : List BlkReq) (h' : Moves l' s' s) (hl' : Part.Sub [.tiles] l') : Moves l' s' (addJob s n no kind write ver dst blks).1 := by
  refine Moves.chain ?_ hl' h'
  clear h' hl'
  refine MovesQ.h (p := addJob s n no kind write ver dst blks) ?_
  unfold addJob
  try dsimp only
  repeat' (first
    | ((with_reducible apply Part.Sub.mk); rfl)
    | with_reducible apply MovesQ.of_mk
    | with_reducible apply Moves.refl
    | with_reducible assumption
    | with_reducible apply modTile_moves
    | intro _
    | dsimp only)

theorem showSlots_moves {l' : List Part} {s' : State} (s : State) (n : Nat) (h' : Moves l' s' s) (hl' : Part.Sub [.regs] l') : Moves l' s' (showSlots s n) := by
  refine Moves.chain ?_ hl' h'
  clear h' hl'
  unfold showSlots
  try dsimp only
  repeat' (first
    | ((with_reducible apply Part.Sub.mk); rfl)
    | with_reducible apply Moves.refl
    | with_reducible assumption
    | with_reducible apply setFld_moves
    | dsimp only)

theorem dropJob_moves {l' : List Part} {s' : State} (s : State) (n id : Nat) (h' : Moves l' s' s) (hl' : Part.Sub [.regs, .tiles] l') : Moves l' s' (dropJob s n id) := by
  refine Moves.chain ?_ hl' h'
  clear h' hl'
  unfold dropJob
  try dsimp only
  repeat' (first
    | ((with_reducible apply Part.Sub.mk); rfl)
    | with_reducible apply Moves.refl
    | with_reducible assumption
    | with_reducible apply showSlots_moves
    | with_reducible apply modTile_moves
    | with_reducible apply count_moves
    | with_reducible apply Moves.ite
    | intro _
    | split
    | dsimp only)

theorem blockFail_moves {l' : List Part} {s' : State} (s : State) (b : BlkReq) (why : Nat) (h' : Moves l' s' s) (hl' : Part.Sub [.regs, .owlFifo] l') : Moves l' s' (blockFail s b why) := by
  refine Moves.chain ?_ hl' h'
  clear h' hl'
  unfold blockFail
  try dsimp only
  repeat' (first
    | ((with_reducible apply Part.Sub.mk); rfl)
    | with_reducible apply Moves.refl
    | with_reducible assumption
    | with_reducible apply raiseD_moves
    | with_reducible apply count_moves
    | with_reducible apply Moves.ite
    | intro _
    | split
    | dsimp only)

end Sys2Proof.Machine
end

