-- ==== Sys2Proof/Laws/Moves/Rng.lean ====
section
/-! SUPPORT. What the functions of Machine/Rng.lean touch. -/

namespace Sys2Proof.Machine

theorem clearDraws_moves {l' : List Part} {s' : State} (s : State) (n : Nat) (h' : Moves l' s' s) (hl' : Part.Sub [.regs] l') : Moves l' s' (clearDraws s n) := by
  refine Moves.chain ?_ hl' h'
  clear h' hl'
  unfold clearDraws
  try dsimp only
  repeat' (first
    | ((with_reducible apply Part.Sub.mk); rfl)
    | with_reducible apply Moves.refl
    | with_reducible assumption
    | with_reducible apply setFld_moves
    | with_reducible apply Moves.foldl
    | intro _
    | dsimp only)

theorem writeSeed_moves {l' : List Part} {s' : State} (s : State) (n seed : Nat) (h' : Moves l' s' s) (hl' : Part.Sub [.regs, .tiles] l') : Moves l' s' (writeSeed s n seed) := by
  refine Moves.chain ?_ hl' h'
  clear h' hl'
  unfold writeSeed
  try dsimp only
  repeat' (first
    | ((with_reducible apply Part.Sub.mk); rfl)
    | with_reducible apply Moves.refl
    | with_reducible assumption
    | with_reducible apply clearDraws_moves
    | with_reducible apply modTile_moves
    | with_reducible apply setFld_moves
    | with_reducible apply Moves.ite
    | intro _
    | split
    | dsimp only)

theorem reseed_moves {l' : List Part} {s' : State} (s : State) (n seed : Nat) (h' : Moves l' s' s) (hl' : Part.Sub [.regs, .tiles] l') : Moves l' s' (reseed s n seed) := by
  refine Moves.chain ?_ hl' h'
  clear h' hl'
  unfold reseed
  try dsimp only
  repeat' (first
    | ((with_reducible apply Part.Sub.mk); rfl)
    | with_reducible apply Moves.refl
    | with_reducible assumption
    | with_reducible apply clearDraws_moves
    | with_reducible apply modTile_moves
    | with_reducible apply setFld_moves
    | with_reducible apply Moves.ite
    | intro _
    | split
    | dsimp only)

theorem takeDraws_moves {l' : List Part} {s' : State} (s : State) (n c k : Nat) (h' : Moves l' s' s) (hl' : Part.Sub [.regs] l') : Moves l' s' (takeDraws s n c k) := by
  refine Moves.chain ?_ hl' h'
  clear h' hl'
  unfold takeDraws
  try dsimp only
  repeat' (first
    | ((with_reducible apply Part.Sub.mk); rfl)
    | with_reducible apply Moves.refl
    | with_reducible assumption
    | with_reducible apply setFld_moves
    | dsimp only)

end Sys2Proof.Machine
end

