-- ==== Sys2Proof/Laws/Moves/Bucket.lean ====
section
/-! SUPPORT. What the functions of Machine/Bucket.lean touch. -/

namespace Sys2Proof.Machine

theorem localRead_moves {l' : List Part} {s' : State} (s : State) (m L n : Nat) (h' : Moves l' s' s) (hl' : Part.Sub [.regs] l') : Moves l' s' (localRead s m L n).2 := by
  refine Moves.chain ?_ hl' h'
  clear h' hl'
  refine MovesP.h (p := localRead s m L n) ?_
  unfold localRead
  try dsimp only
  repeat' (first
    | ((with_reducible apply Part.Sub.mk); rfl)
    | with_reducible apply MovesP.of_mk
    | with_reducible apply MovesP.foldl
    | with_reducible apply Moves.refl
    | with_reducible assumption
    | with_reducible apply memRead_moves
    | (with_reducible apply MovesP.mk; with_reducible apply memRead_moves)
    | with_reducible apply Moves.foldl
    | with_reducible apply Moves.foldl_fst
    | with_reducible apply Moves.foldl_snd
    | intro _
    | dsimp only)

theorem localWrite_moves {l' : List Part} {s' : State} (s : State) (m L : Nat) (bs : List Byte) (h' : Moves l' s' s) (hl' : Part.Sub [.regs, .hbm, .mcs] l') : Moves l' s' (localWrite s m L bs) := by
  refine Moves.chain ?_ hl' h'
  clear h' hl'
  unfold localWrite
  try dsimp only
  repeat' (first
    | ((with_reducible apply Part.Sub.mk); rfl)
    | with_reducible apply Moves.refl
    | with_reducible assumption
    | with_reducible apply memWrite_moves
    | with_reducible apply Moves.foldl
    | with_reducible apply Moves.foldl_fst
    | with_reducible apply Moves.foldl_snd
    | intro _
    | dsimp only)

theorem modMc_moves {l' : List Part} {s' : State} (s : State) (m : Nat) (f : Mc → Mc) (h' : Moves l' s' s) (hl' : Part.Sub [.mcs] l') : Moves l' s' (modMc s m f) := by
  refine Moves.chain ?_ hl' h'
  clear h' hl'
  unfold modMc
  try dsimp only
  repeat' (first
    | ((with_reducible apply Part.Sub.mk); rfl)
    | with_reducible apply Moves.refl
    | with_reducible assumption
    | intro _
    | with_reducible apply swf_sset
    | dsimp only
    | with_reducible apply Moves.set_mcs)

theorem putState_moves {l' : List Part} {s' : State} (s : State) (m : Nat) (e : BktEntry) (w : Nat) (h' : Moves l' s' s) (hl' : Part.Sub [.regs, .hbm, .mcs] l') : Moves l' s' (putState s m e w) := by
  refine Moves.chain ?_ hl' h'
  clear h' hl'
  unfold putState
  try dsimp only
  repeat' (first
    | ((with_reducible apply Part.Sub.mk); rfl)
    | with_reducible apply Moves.refl
    | with_reducible assumption
    | with_reducible apply localWrite_moves
    | dsimp only)

theorem putPhase_moves {l' : List Part} {s' : State} (s : State) (m : Nat) (e : BktEntry) (phase : Nat) (armed : Bool) (h' : Moves l' s' s) (hl' : Part.Sub [.regs, .hbm, .mcs] l') : Moves l' s' (putPhase s m e phase armed) := by
  refine Moves.chain ?_ hl' h'
  clear h' hl'
  unfold putPhase
  try dsimp only
  repeat' (first
    | ((with_reducible apply Part.Sub.mk); rfl)
    | with_reducible apply Moves.refl
    | with_reducible assumption
    | with_reducible apply putState_moves
    | dsimp only)

theorem putTouched_moves {l' : List Part} {s' : State} (s : State) (m idx bit : Nat) (v : Bool) (h' : Moves l' s' s) (hl' : Part.Sub [.regs, .hbm, .mcs] l') : Moves l' s' (putTouched s m idx bit v) := by
  refine Moves.chain ?_ hl' h'
  clear h' hl'
  unfold putTouched
  try dsimp only
  repeat' (first
    | ((with_reducible apply Part.Sub.mk); rfl)
    | with_reducible apply Moves.refl
    | with_reducible assumption
    | with_reducible apply localWrite_moves
    | with_reducible apply Moves.ite
    | intro _
    | split
    | dsimp only)

theorem readChecked_moves {l' : List Part} {s' : State} (s : State) (m L : Nat) (e : Expect) (bad : Nat) (h' : Moves l' s' s) (hl' : Part.Sub [.regs, .owlFifo] l') : Moves l' s' (readChecked s m L e bad).2.2 := by
  refine Moves.chain ?_ hl' h'
  clear h' hl'
  unfold readChecked
  try dsimp only
  repeat' (first
    | ((with_reducible apply Part.Sub.mk); rfl)
    | with_reducible apply Moves.refl
    | with_reducible assumption
    | with_reducible apply localRead_moves
    | (with_reducible apply MovesP.mk; with_reducible apply localRead_moves)
    | with_reducible apply raiseD_moves
    | with_reducible apply count_moves
    | with_reducible apply Moves.ite
    | with_reducible apply Moves.ite_fst
    | with_reducible apply Moves.ite_snd
    | intro _
    | split
    | dsimp only)

theorem drainModule_moves {l' : List Part} {s' : State} (s : State) (h' : Moves l' s' s) (hl' : Part.Sub [.regs, .owlFifo, .taintFrom, .fwEvents] l') : Moves l' s' (drainModule s) := by
  refine Moves.chain ?_ hl' h'
  clear h' hl'
  unfold drainModule
  try dsimp only
  repeat' (first
    | ((with_reducible apply Part.Sub.mk); rfl)
    | with_reducible apply Moves.refl
    | with_reducible assumption
    | with_reducible apply raiseBit_moves
    | with_reducible apply pushNamed_moves
    | with_reducible apply count_moves
    | with_reducible apply setFld_moves
    | with_reducible apply Moves.ite
    | with_reducible apply Moves.foldl
    | intro _
    | split
    | dsimp only
    | with_reducible apply Moves.set_fwEvents
    | with_reducible apply Moves.set_taintFrom)

theorem mcFault_moves {l' : List Part} {s' : State} (s : State) (m bucket : Nat) (h' : Moves l' s' s) (hl' : Part.Sub [.regs, .owlFifo, .taintFrom, .fwEvents] l') : Moves l' s' (mcFault s m bucket) := by
  refine Moves.chain ?_ hl' h'
  clear h' hl'
  unfold mcFault
  try dsimp only
  repeat' (first
    | ((with_reducible apply Part.Sub.mk); rfl)
    | with_reducible apply Moves.refl
    | with_reducible assumption
    | with_reducible apply drainModule_moves
    | with_reducible apply raiseD_moves
    | with_reducible apply count_moves
    | with_reducible apply Moves.ite
    | intro _
    | split
    | dsimp only)

theorem mcDraws_moves {l' : List Part} {s' : State} (s : State) (m c k : Nat) (h' : Moves l' s' s) (hl' : Part.Sub [.regs] l') : Moves l' s' (mcDraws s m c k) := by
  refine Moves.chain ?_ hl' h'
  clear h' hl'
  unfold mcDraws
  try dsimp only
  repeat' (first
    | ((with_reducible apply Part.Sub.mk); rfl)
    | with_reducible apply Moves.refl
    | with_reducible assumption
    | with_reducible apply setFld_moves
    | dsimp only)

theorem accBlock_moves {l' : List Part} {s' : State} (s : State) (m L tid blk0 ver : Nat) (bf16 : Bool) (du : Int) (first : Bool) (el : List (Nat × Nat × Nat)) (bad : Nat) (h' : Moves l' s' s) (hl' : Part.Sub [.regs, .hbm, .mcs, .owlFifo] l') : Moves l' s' (accBlock s m L tid blk0 ver bf16 du first el bad) := by
  refine Moves.chain ?_ hl' h'
  clear h' hl'
  unfold accBlock
  try dsimp only
  repeat' (first
    | ((with_reducible apply Part.Sub.mk); rfl)
    | with_reducible apply Moves.refl
    | with_reducible assumption
    | with_reducible apply readChecked_moves
    | with_reducible apply localWrite_moves
    | with_reducible apply countCnv_moves
    | with_reducible apply countAll_moves
    | with_reducible apply count_moves
    | with_reducible apply Moves.ite
    | with_reducible apply Moves.foldl
    | with_reducible apply Moves.ite_fst
    | with_reducible apply Moves.ite_snd
    | with_reducible apply Moves.foldl_fst
    | with_reducible apply Moves.foldl_snd
    | intro _
    | split
    | dsimp only)

theorem rangeDrop_moves {l' : List Part} {s' : State} (s : State) (m n : Nat) (h' : Moves l' s' s) (hl' : Part.Sub [.regs, .owlFifo] l') : Moves l' s' (rangeDrop s m n) := by
  refine Moves.chain ?_ hl' h'
  clear h' hl'
  unfold rangeDrop
  try dsimp only
  repeat' (first
    | ((with_reducible apply Part.Sub.mk); rfl)
    | with_reducible apply Moves.refl
    | with_reducible assumption
    | with_reducible apply raiseBit_moves
    | with_reducible apply count_moves
    | with_reducible apply Moves.ite
    | intro _
    | split
    | dsimp only)

theorem accPacket_moves {l' : List Part} {s' : State} (s : State) (m : Nat) (p : AccPkt) (res : List (Nat × Nat)) (bad : Nat) (h' : Moves l' s' s) (hl' : Part.Sub [.regs, .hbm, .mcs, .owlFifo, .taintFrom, .fwEvents] l') : Moves l' s' (accPacket s m p res bad) := by
  refine Moves.chain ?_ hl' h'
  clear h' hl'
  unfold accPacket
  try dsimp only
  repeat' (first
    | ((with_reducible apply Part.Sub.mk); rfl)
    | with_reducible apply Moves.refl
    | with_reducible assumption
    | with_reducible apply rangeDrop_moves
    | with_reducible apply accBlock_moves
    | with_reducible apply mcDraws_moves
    | with_reducible apply mcFault_moves
    | with_reducible apply putTouched_moves
    | with_reducible apply putState_moves
    | with_reducible apply modMc_moves
    | with_reducible apply raiseBit_moves
    | with_reducible apply countAll_moves
    | with_reducible apply count_moves
    | with_reducible apply Moves.ite
    | with_reducible apply Moves.foldl
    | with_reducible apply Moves.ite_fst
    | with_reducible apply Moves.ite_snd
    | with_reducible apply Moves.foldl_fst
    | with_reducible apply Moves.foldl_snd
    | intro _
    | split
    | dsimp only)

theorem showHold_moves {l' : List Part} {s' : State} (s : State) (m : Nat) (h' : Moves l' s' s) (hl' : Part.Sub [.regs] l') : Moves l' s' (showHold s m) := by
  refine Moves.chain ?_ hl' h'
  clear h' hl'
  unfold showHold
  try dsimp only
  repeat' (first
    | ((with_reducible apply Part.Sub.mk); rfl)
    | with_reducible apply Moves.refl
    | with_reducible assumption
    | with_reducible apply setFld_moves
    | dsimp only)

theorem accumAdd_moves {l' : List Part} {s' : State} (s : State) (m : Nat) (res : List (Nat × Nat)) (bad : Nat) (h' : Moves l' s' s) (hl' : Part.Sub [.regs, .hbm, .mcs, .owlFifo, .taintFrom, .fwEvents] l') : Moves l' s' (accumAdd s m res bad) := by
  refine Moves.chain ?_ hl' h'
  clear h' hl'
  unfold accumAdd
  try dsimp only
  repeat' (first
    | ((with_reducible apply Part.Sub.mk); rfl)
    | with_reducible apply Moves.refl
    | with_reducible assumption
    | with_reducible apply showHold_moves
    | with_reducible apply accPacket_moves
    | with_reducible apply modMc_moves
    | with_reducible apply count_moves
    | with_reducible apply Moves.ite
    | intro _
    | split
    | dsimp only)

end Sys2Proof.Machine
end

