-- ==== Sys2Proof/Laws/Moves/Packets.lean ====
section
/-! SUPPORT. What the functions of Machine/Packets.lean touch. -/

namespace Sys2Proof.Machine

theorem modPort_moves {l' : List Part} {s' : State} (s : State) (p : Nat) (f : Port → Port) (h' : Moves l' s' s) (hl' : Part.Sub [.ports] l') : Moves l' s' (modPort s p f) := by
  refine Moves.chain ?_ hl' h'
  clear h' hl'
  unfold modPort
  try dsimp only
  repeat' (first
    | ((with_reducible apply Part.Sub.mk); rfl)
    | with_reducible apply Moves.refl
    | with_reducible assumption
    | intro _
    | with_reducible apply swf_sset
    | dsimp only
    | with_reducible apply Moves.set_ports)

theorem queuePkt_moves {l' : List Part} {s' : State} (s : State) (p : Nat) (b : List Byte) (h' : Moves l' s' s) (hl' : Part.Sub [.ports] l') : Moves l' s' (queuePkt s p b) := by
  refine Moves.chain ?_ hl' h'
  clear h' hl'
  unfold queuePkt
  try dsimp only
  repeat' (first
    | ((with_reducible apply Part.Sub.mk); rfl)
    | with_reducible apply Moves.refl
    | with_reducible assumption
    | with_reducible apply modPort_moves
    | intro _
    | dsimp only)

theorem sendUnicast_moves {l' : List Part} {s' : State} (s : State) (b : List Byte) (h' : Moves l' s' s) (hl' : Part.Sub [.regs, .localRx, .ports] l') : Moves l' s' (sendUnicast s b) := by
  refine Moves.chain ?_ hl' h'
  clear h' hl'
  unfold sendUnicast
  try dsimp only
  repeat' (first
    | ((with_reducible apply Part.Sub.mk); rfl)
    | with_reducible apply Moves.refl
    | with_reducible assumption
    | with_reducible apply queuePkt_moves
    | with_reducible apply count_moves
    | with_reducible apply Moves.ite
    | intro _
    | split
    | dsimp only
    | with_reducible apply Moves.set_localRx)

theorem sendTree_moves {l' : List Part} {s' : State} (s : State) (tree : Nat) (b : List Byte) (h' : Moves l' s' s) (hl' : Part.Sub [.regs, .localRx, .ports] l') : Moves l' s' (sendTree s tree b) := by
  refine Moves.chain ?_ hl' h'
  clear h' hl'
  unfold sendTree
  try dsimp only
  repeat' (first
    | ((with_reducible apply Part.Sub.mk); rfl)
    | with_reducible apply Moves.refl
    | with_reducible assumption
    | with_reducible apply queuePkt_moves
    | with_reducible apply count_moves
    | with_reducible apply Moves.ite
    | with_reducible apply Moves.foldl
    | intro _
    | split
    | dsimp only
    | with_reducible apply Moves.set_localRx)

theorem setRx_moves {l' : List Part} {s' : State} (s : State) (p vc : Nat) (l : List RxPkt) (h' : Moves l' s' s) (hl' : Part.Sub [.ports] l') : Moves l' s' (setRx s p vc l) := by
  refine Moves.chain ?_ hl' h'
  clear h' hl'
  unfold setRx
  try dsimp only
  repeat' (first
    | ((with_reducible apply Part.Sub.mk); rfl)
    | with_reducible apply Moves.refl
    | with_reducible assumption
    | with_reducible apply modPort_moves
    | intro _
    | dsimp only)

theorem freeCredits_moves {l' : List Part} {s' : State} (s : State) (p vc n : Nat) (h' : Moves l' s' s) (hl' : Part.Sub [.ports] l') : Moves l' s' (freeCredits s p vc n) := by
  refine Moves.chain ?_ hl' h'
  clear h' hl'
  unfold freeCredits
  try dsimp only
  repeat' (first
    | ((with_reducible apply Part.Sub.mk); rfl)
    | with_reducible apply Moves.refl
    | with_reducible assumption
    | with_reducible apply modPort_moves
    | with_reducible apply Moves.ite
    | intro _
    | split
    | dsimp only)

theorem rxSettle_moves {l' : List Part} {s' : State} (s : State) (p vc : Nat) (h' : Moves l' s' s) (hl' : Part.Sub [.ports] l') : Moves l' s' (rxSettle s p vc) := by
  refine Moves.chain ?_ hl' h'
  clear h' hl'
  unfold rxSettle
  try dsimp only
  repeat' (first
    | ((with_reducible apply Part.Sub.mk); rfl)
    | with_reducible apply Moves.refl
    | with_reducible assumption
    | with_reducible apply freeCredits_moves
    | with_reducible apply setRx_moves
    | with_reducible apply Moves.ite
    | with_reducible apply Moves.foldl
    | intro _
    | split
    | dsimp only)

theorem rxDrop_moves {l' : List Part} {s' : State} (s : State) (p vc : Nat) (h' : Moves l' s' s) (hl' : Part.Sub [.ports] l') : Moves l' s' (rxDrop s p vc) := by
  refine Moves.chain ?_ hl' h'
  clear h' hl'
  unfold rxDrop
  try dsimp only
  repeat' (first
    | ((with_reducible apply Part.Sub.mk); rfl)
    | with_reducible apply Moves.refl
    | with_reducible assumption
    | with_reducible apply rxSettle_moves
    | with_reducible apply setRx_moves
    | intro _
    | split
    | dsimp only)

theorem takeLocal_moves {l' : List Part} {s' : State} (s : State) (p vc : Nat) {b : List Byte} {t : State} (he : takeLocal s p vc = some (b, t))
    (h' : Moves l' s' s) (hl' : Part.Sub [.localRx, .ports] l') : Moves l' s' t := by
  refine Moves.chain ?_ hl' h'
  clear h' hl'
  unfold takeLocal at he
  split at he
  · split at he
    · split at he
      · cases he
        exact rxSettle_moves _ _ _ (setRx_moves _ _ _ _ (Moves.refl ..) ⟨rfl⟩) ⟨rfl⟩
      · cases he
    · cases he
  · split at he
    · cases he
      exact Moves.set_localRx (Moves.refl ..) ⟨rfl⟩
    · cases he


theorem portCount_moves {l' : List Part} {s' : State} (s : State) (p : Nat) (f : Fld) (bit : Option Fld) (h' : Moves l' s' s) (hl' : Part.Sub [.regs, .owlFifo] l') : Moves l' s' (portCount s p f bit) := by
  refine Moves.chain ?_ hl' h'
  clear h' hl'
  unfold portCount
  try dsimp only
  repeat' (first
    | ((with_reducible apply Part.Sub.mk); rfl)
    | with_reducible apply Moves.refl
    | with_reducible assumption
    | with_reducible apply raiseBit_moves
    | with_reducible apply count_moves
    | with_reducible apply Moves.ite
    | intro _
    | split
    | dsimp only)

theorem destCheck_moves {l' : List Part} {s' : State} (s : State) (p : Nat) (b : List Byte) (ver : Nat) (h' : Moves l' s' s) (hl' : Part.Sub [.regs, .owlFifo] l') : Moves l' s' (destCheck s p b ver).2 := by
  refine Moves.chain ?_ hl' h'
  clear h' hl'
  refine MovesP.h (p := destCheck s p b ver) ?_
  unfold destCheck
  try dsimp only
  repeat' (first
    | ((with_reducible apply Part.Sub.mk); rfl)
    | with_reducible apply MovesP.of_mk
    | with_reducible apply MovesP.ite
    | with_reducible apply Moves.refl
    | with_reducible assumption
    | with_reducible apply portCount_moves
    | with_reducible apply Moves.ite
    | intro _
    | split
    | dsimp only)

end Sys2Proof.Machine
end

