-- ==== Sys2Proof/Laws/Moves/Close.lean ====
section
/-! SUPPORT. What the functions of Machine/Close.lean touch. -/

namespace Sys2Proof.Machine

theorem modO_moves {l' : List Part} {s' : State} (s : State) (b : Nat) (f : OBkt → OBkt) (h' : Moves l' s' s) (hl' : Part.Sub [.obkts] l') : Moves l' s' (modO s b f) := by
  refine Moves.chain ?_ hl' h'
  clear h' hl'
  unfold modO
  try dsimp only
  repeat' (first
    | ((with_reducible apply Part.Sub.mk); rfl)
    | with_reducible apply Moves.refl
    | with_reducible assumption
    | with_reducible apply Moves.ite
    | intro _
    | split
    | dsimp only
    | with_reducible apply Moves.set_obkts)

theorem queueUpdate_moves {l' : List Part} {s' : State} (s : State) (m : Nat) (e : BktEntry) (a : Option Armed) (armed : Bool) (h' : Moves l' s' s) (hl' : Part.Sub [.regs, .hbm, .mcs] l') : Moves l' s' (queueUpdate s m e a armed) := by
  refine Moves.chain ?_ hl' h'
  clear h' hl'
  unfold queueUpdate
  try dsimp only
  repeat' (first
    | ((with_reducible apply Part.Sub.mk); rfl)
    | with_reducible apply Moves.refl
    | with_reducible assumption
    | with_reducible apply putPhase_moves
    | with_reducible apply modMc_moves
    | intro _
    | dsimp only)

theorem armAt_moves {l' : List Part} {s' : State} (s : State) (m bucket : Nat) (h' : Moves l' s' s) (hl' : Part.Sub [.regs, .hbm, .mcs, .owlFifo] l') : Moves l' s' (armAt s m bucket) := by
  refine Moves.chain ?_ hl' h'
  clear h' hl'
  unfold armAt
  try dsimp only
  repeat' (first
    | ((with_reducible apply Part.Sub.mk); rfl)
    | with_reducible apply Moves.refl
    | with_reducible assumption
    | with_reducible apply queueUpdate_moves
    | with_reducible apply putPhase_moves
    | with_reducible apply modMc_moves
    | with_reducible apply raiseBit_moves
    | with_reducible apply count_moves
    | with_reducible apply Moves.ite
    | intro _
    | split
    | dsimp only)

theorem mcReport_moves {l' : List Part} {s' : State} (s : State) (m bucket result sigma blk : Nat) (h' : Moves l' s' s) (hl' : Part.Sub [.regs, .owlFifo, .obkts, .fwEvents] l') : Moves l' s' (mcReport s m bucket result sigma blk) := by
  refine Moves.chain ?_ hl' h'
  clear h' hl'
  unfold mcReport
  try dsimp only
  repeat' (first
    | ((with_reducible apply Part.Sub.mk); rfl)
    | with_reducible apply Moves.refl
    | with_reducible assumption
    | with_reducible apply modO_moves
    | with_reducible apply raiseNamed_moves
    | with_reducible apply Moves.ite
    | with_reducible apply Moves.ite_fst
    | with_reducible apply Moves.ite_snd
    | intro _
    | split
    | dsimp only)

theorem closeAt_moves {l' : List Part} {s' : State} (s : State) (g : GBkt) (d vnew : Nat) (rep : Bool) (h' : Moves l' s' s) (hl' : Part.Sub [.regs, .hbm, .mcs, .owlFifo, .obkts, .fwEvents] l') : Moves l' s' (closeAt s g d vnew rep) := by
  refine Moves.chain ?_ hl' h'
  clear h' hl'
  unfold closeAt
  try dsimp only
  repeat' (first
    | ((with_reducible apply Part.Sub.mk); rfl)
    | with_reducible apply Moves.refl
    | with_reducible assumption
    | with_reducible apply mcReport_moves
    | with_reducible apply queueUpdate_moves
    | with_reducible apply putPhase_moves
    | with_reducible apply modMc_moves
    | with_reducible apply localWrite_moves
    | with_reducible apply raiseBit_moves
    | with_reducible apply Moves.ite
    | with_reducible apply Moves.foldl
    | intro _
    | split
    | dsimp only)

theorem closeStep_moves {l' : List Part} {s' : State} (s : State) (g : GBkt) (o : OBkt) (kind : Nat) (h' : Moves l' s' s) (hl' : Part.Sub [.regs, .hbm, .mcs, .owlFifo, .obkts, .fwEvents] l') : Moves l' s' (closeStep s g o kind) := by
  refine Moves.chain ?_ hl' h'
  clear h' hl'
  unfold closeStep
  try dsimp only
  repeat' (first
    | ((with_reducible apply Part.Sub.mk); rfl)
    | with_reducible apply Moves.refl
    | with_reducible assumption
    | with_reducible apply closeAt_moves
    | with_reducible apply modO_moves
    | with_reducible apply raiseNamed_moves
    | with_reducible apply raiseBit_moves
    | with_reducible apply countAll_moves
    | with_reducible apply count_moves
    | with_reducible apply Moves.ite
    | intro _
    | split
    | dsimp only)

theorem republish_moves {l' : List Part} {s' : State} (s : State) (g : GBkt) (o : OBkt) (h' : Moves l' s' s) (hl' : Part.Sub [.regs, .hbm, .mcs, .owlFifo, .obkts, .fwEvents] l') : Moves l' s' (republish s g o) := by
  refine Moves.chain ?_ hl' h'
  clear h' hl'
  unfold republish
  try dsimp only
  repeat' (first
    | ((with_reducible apply Part.Sub.mk); rfl)
    | with_reducible apply Moves.refl
    | with_reducible assumption
    | with_reducible apply closeAt_moves
    | with_reducible apply modO_moves
    | with_reducible apply count_moves
    | intro _
    | dsimp only)

theorem supersedeOpen_moves {l' : List Part} {s' : State} (s : State) (g : GBkt) (o : OBkt) (f l : Nat) (h' : Moves l' s' s) (hl' : Part.Sub [.regs, .hbm, .mcs, .owlFifo, .obkts, .localRx, .ports, .fwEvents] l') : Moves l' s' (supersedeOpen s g o f l) := by
  refine Moves.chain ?_ hl' h'
  clear h' hl'
  unfold supersedeOpen
  try dsimp only
  repeat' (first
    | ((with_reducible apply Part.Sub.mk); rfl)
    | with_reducible apply Moves.refl
    | with_reducible assumption
    | with_reducible apply republish_moves
    | with_reducible apply modO_moves
    | with_reducible apply sendTree_moves
    | with_reducible apply raiseD_moves
    | with_reducible apply count_moves
    | with_reducible apply Moves.ite
    | intro _
    | split
    | dsimp only)

theorem supersede_moves {l' : List Part} {s' : State} (s : State) (bucket f l : Nat) (h' : Moves l' s' s) (hl' : Part.Sub [.regs, .hbm, .mcs, .owlFifo, .obkts, .localRx, .ports, .fwEvents] l') : Moves l' s' (supersede s bucket f l) := by
  refine Moves.chain ?_ hl' h'
  clear h' hl'
  unfold supersede
  try dsimp only
  repeat' (first
    | ((with_reducible apply Part.Sub.mk); rfl)
    | with_reducible apply Moves.refl
    | with_reducible assumption
    | with_reducible apply supersedeOpen_moves
    | with_reducible apply modO_moves
    | with_reducible apply Moves.ite
    | intro _
    | split
    | dsimp only)

theorem judgeStep_moves {l' : List Part} {s' : State} (s : State) (bucket : Nat) (h' : Moves l' s' s) (hl' : Part.Sub [.regs, .hbm, .mcs, .owlFifo, .obkts, .fwEvents] l') : Moves l' s' (judgeStep s bucket) := by
  refine Moves.chain ?_ hl' h'
  clear h' hl'
  unfold judgeStep
  try dsimp only
  repeat' (first
    | ((with_reducible apply Part.Sub.mk); rfl)
    | with_reducible apply Moves.refl
    | with_reducible assumption
    | with_reducible apply closeStep_moves
    | with_reducible apply modO_moves
    | with_reducible apply count_moves
    | with_reducible apply Moves.ite
    | intro _
    | split
    | dsimp only)

theorem becameOpen_moves {l' : List Part} {s' : State} (s : State) (bucket : Nat) (h' : Moves l' s' s) (hl' : Part.Sub [.regs, .hbm, .mcs, .owlFifo, .obkts, .localRx, .ports, .fwEvents] l') : Moves l' s' (becameOpen s bucket) := by
  refine Moves.chain ?_ hl' h'
  clear h' hl'
  unfold becameOpen
  try dsimp only
  repeat' (first
    | ((with_reducible apply Part.Sub.mk); rfl)
    | with_reducible apply Moves.refl
    | with_reducible assumption
    | with_reducible apply judgeStep_moves
    | with_reducible apply supersedeOpen_moves
    | with_reducible apply modO_moves
    | with_reducible apply Moves.ite
    | intro _
    | split
    | dsimp only)

theorem requeue_moves {l' : List Part} {s' : State} (s : State) (bucket : Nat) (h' : Moves l' s' s) (hl' : Part.Sub [.regs, .hbm, .mcs, .owlFifo, .obkts, .fwEvents] l') : Moves l' s' (requeue s bucket) := by
  refine Moves.chain ?_ hl' h'
  clear h' hl'
  unfold requeue
  try dsimp only
  repeat' (first
    | ((with_reducible apply Part.Sub.mk); rfl)
    | with_reducible apply Moves.refl
    | with_reducible assumption
    | with_reducible apply mcReport_moves
    | with_reducible apply queueUpdate_moves
    | with_reducible apply modO_moves
    | with_reducible apply Moves.ite
    | with_reducible apply Moves.foldl
    | with_reducible apply Moves.ite_fst
    | with_reducible apply Moves.ite_snd
    | with_reducible apply Moves.foldl_fst
    | with_reducible apply Moves.foldl_snd
    | intro _
    | split
    | dsimp only)

end Sys2Proof.Machine
end

