-- ==== Sys2Proof/Laws/Moves/Fire.lean ====
section
/-! SUPPORT. What the functions of Machine/Fire.lean touch. -/

namespace Sys2Proof.Machine

theorem countLate_moves {l' : List Part} {s' : State} (s : State) (n k : Nat) (h' : Moves l' s' s) (hl' : Part.Sub [.regs, .owlFifo] l') : Moves l' s' (countLate s n k) := by
  refine Moves.chain ?_ hl' h'
  clear h' hl'
  unfold countLate
  try dsimp only
  repeat' (first
    | ((with_reducible apply Part.Sub.mk); rfl)
    | with_reducible apply Moves.refl
    | with_reducible assumption
    | with_reducible apply raiseBit_moves
    | with_reducible apply count_moves
    | with_reducible apply Moves.ite
    | intro _
    | split
    | dsimp only)

theorem finIfDone_moves {l' : List Part} {s' : State} (s : State) (n no : Nat) (h' : Moves l' s' s) (hl' : Part.Sub [.tiles] l') : Moves l' s' (finIfDone s n no) := by
  refine Moves.chain ?_ hl' h'
  clear h' hl'
  unfold finIfDone
  try dsimp only
  repeat' (first
    | ((with_reducible apply Part.Sub.mk); rfl)
    | with_reducible apply Moves.refl
    | with_reducible assumption
    | with_reducible apply finCmd_moves
    | with_reducible apply Moves.ite
    | intro _
    | split
    | dsimp only)

theorem doSwap_moves {l' : List Part} {s' : State} (s : State) (n a : Nat) (h' : Moves l' s' s) (hl' : Part.Sub [.regs, .tiles, .owlFifo] l') : Moves l' s' (doSwap s n a) := by
  refine Moves.chain ?_ hl' h'
  clear h' hl'
  unfold doSwap
  try dsimp only
  repeat' (first
    | ((with_reducible apply Part.Sub.mk); rfl)
    | with_reducible apply Moves.refl
    | with_reducible assumption
    | with_reducible apply calCloseIf_moves
    | with_reducible apply planeInForce_moves
    | with_reducible apply setPlaneState_moves
    | with_reducible apply modArr_moves
    | with_reducible apply setBit_moves
    | with_reducible apply Moves.ite
    | intro _
    | split
    | dsimp only)

theorem trySwap_moves {l' : List Part} {s' : State} (s : State) (n a : Nat) (h' : Moves l' s' s) (hl' : Part.Sub [.regs, .tiles, .owlFifo, .fwEvents] l') : Moves l' s' (trySwap s n a) := by
  refine Moves.chain ?_ hl' h'
  clear h' hl'
  unfold trySwap
  try dsimp only
  repeat' (first
    | ((with_reducible apply Part.Sub.mk); rfl)
    | with_reducible apply Moves.refl
    | with_reducible assumption
    | with_reducible apply doSwap_moves
    | with_reducible apply finIfDone_moves
    | with_reducible apply failExec_moves
    | with_reducible apply modArr_moves
    | with_reducible apply count_moves
    | with_reducible apply Moves.ite
    | intro _
    | split
    | dsimp only)

theorem nanLanes_moves {l' : List Part} {s' : State} (s : State) (n seg : Nat) (h' : Moves l' s' s) (hl' : Part.Sub [.tiles] l') : Moves l' s' (nanLanes s n seg) := by
  refine Moves.chain ?_ hl' h'
  clear h' hl'
  unfold nanLanes
  try dsimp only
  repeat' (first
    | ((with_reducible apply Part.Sub.mk); rfl)
    | with_reducible apply Moves.refl
    | with_reducible assumption
    | with_reducible apply modTile_moves
    | with_reducible apply Moves.foldl
    | intro _
    | dsimp only)

theorem vectorOps_moves {l' : List Part} {s' : State} (s : State) (n a : Nat) (f0 : Firing) (img : List Byte) (rsvdHere : Bool) (h' : Moves l' s' s) (hl' : Part.Sub [.regs, .tiles] l') : Moves l' s' (vectorOps s n a f0 img rsvdHere).1 := by
  refine Moves.chain ?_ hl' h'
  clear h' hl'
  unfold vectorOps
  try dsimp only
  repeat' (first
    | ((with_reducible apply Part.Sub.mk); rfl)
    | with_reducible apply Moves.refl
    | with_reducible assumption
    | with_reducible apply nanLanes_moves
    | with_reducible apply modArr_moves
    | with_reducible apply count_moves
    | with_reducible apply setFld_moves
    | with_reducible apply Moves.ite
    | with_reducible apply Moves.ite_fst
    | with_reducible apply Moves.ite_snd
    | intro _
    | split
    | dsimp only)

theorem pushOps_moves {l' : List Part} {s' : State} (s : State) (n a : Nat) (l : List ArrOp) (h' : Moves l' s' s) (hl' : Part.Sub [.tiles] l') : Moves l' s' (pushOps s n a l) := by
  refine Moves.chain ?_ hl' h'
  clear h' hl'
  unfold pushOps
  try dsimp only
  repeat' (first
    | ((with_reducible apply Part.Sub.mk); rfl)
    | with_reducible apply Moves.refl
    | with_reducible assumption
    | with_reducible apply modArr_moves
    | with_reducible apply Moves.ite
    | intro _
    | split
    | dsimp only)

theorem fireOne_moves {l' : List Part} {s' : State} (s : State) (n a no seg : Nat) (tr : Bool) (l : Option Nat) (img : List Byte) (rsvdHere : Bool) (h' : Moves l' s' s) (hl' : Part.Sub [.regs, .tiles] l') : Moves l' s' (fireOne s n a no seg tr l img rsvdHere) := by
  refine Moves.chain ?_ hl' h'
  clear h' hl'
  unfold fireOne
  try dsimp only
  repeat' (first
    | ((with_reducible apply Part.Sub.mk); rfl)
    | with_reducible apply Moves.refl
    | with_reducible assumption
    | with_reducible apply pushOps_moves
    | with_reducible apply vectorOps_moves
    | intro _
    | split
    | dsimp only)

theorem fillPlace_moves {l' : List Part} {s' : State} (s : State) (n a no : Nat) (img : List Byte) (h' : Moves l' s' s) (hl' : Part.Sub [.regs, .tiles] l') : Moves l' s' (fillPlace s n a no img) := by
  refine Moves.chain ?_ hl' h'
  clear h' hl'
  unfold fillPlace
  try dsimp only
  repeat' (first
    | ((with_reducible apply Part.Sub.mk); rfl)
    | with_reducible apply Moves.refl
    | with_reducible assumption
    | with_reducible apply modArr_moves
    | with_reducible apply vectorOps_moves
    | intro _
    | split
    | dsimp only)

theorem dropPlaces_moves {l' : List Part} {s' : State} (s : State) (n no : Nat) (as : List Nat) (h' : Moves l' s' s) (hl' : Part.Sub [.tiles] l') : Moves l' s' (dropPlaces s n no as) := by
  refine Moves.chain ?_ hl' h'
  clear h' hl'
  unfold dropPlaces
  try dsimp only
  repeat' (first
    | ((with_reducible apply Part.Sub.mk); rfl)
    | with_reducible apply Moves.refl
    | with_reducible assumption
    | with_reducible apply modArr_moves
    | with_reducible apply Moves.foldl
    | intro _
    | split
    | dsimp only)

theorem feedServe_moves {l' : List Part} {s' : State} (k : Nat) (s : State) (n : Nat) (h' : Moves l' s' s) (hl' : Part.Sub [.regs, .tiles, .owlFifo, .fwEvents] l') :
    Moves l' s' (feedServe k s n) := by
  have hr : Part.Sub [.regs, .tiles] l' := .trans (l2 := [.regs, .tiles, .owlFifo, .fwEvents]) ⟨rfl⟩ hl'
  have ht : Part.Sub [.tiles] l' := .trans (l2 := [.regs, .tiles, .owlFifo, .fwEvents]) ⟨rfl⟩ hl'
  induction k generalizing s with
  | zero => exact h'
  | succ k ih =>
    unfold feedServe
    dsimp only
    split
    · exact h'
    · exact Moves.ite (fun _ => modTile_moves _ _ _ h' ht) fun _ => ih _ (Moves.ite
        (fun _ => failExec_moves _ _ _ _ (dropPlaces_moves _ _ _ _ (modTile_moves _ _ _ h' ht) ht) hl')
        fun _ => finIfDone_moves _ _ _ (Moves.foldl (modTile_moves _ _ _ h' ht) fun _ _ h => fillPlace_moves _ _ _ _ _ h hr) ht)

theorem feedGo_moves {l' : List Part} {s' : State} (s : State) (n : Nat) (h' : Moves l' s' s) (hl' : Part.Sub [.regs, .tiles, .owlFifo, .fwEvents] l') : Moves l' s' (feedGo s n) := by
  refine Moves.chain ?_ hl' h'
  clear h' hl'
  unfold feedGo
  try dsimp only
  repeat' (first
    | ((with_reducible apply Part.Sub.mk); rfl)
    | with_reducible apply Moves.refl
    | with_reducible assumption
    | with_reducible apply feedServe_moves
    | intro _
    | split
    | dsimp only)

theorem feedJoin_moves {l' : List Part} {s' : State} (s : State) (n : Nat) (u : FeedUse) (h' : Moves l' s' s) (hl' : Part.Sub [.regs, .tiles, .owlFifo, .fwEvents] l') : Moves l' s' (feedJoin s n u) := by
  refine Moves.chain ?_ hl' h'
  clear h' hl'
  unfold feedJoin
  try dsimp only
  repeat' (first
    | ((with_reducible apply Part.Sub.mk); rfl)
    | with_reducible apply Moves.refl
    | with_reducible assumption
    | with_reducible apply feedGo_moves
    | with_reducible apply modTile_moves
    | intro _
    | split
    | dsimp only)

theorem fireCommon_moves {l' : List Part} {s' : State} (s : State) (t : Fin 64) (o : FireOp) (tr : Bool) (h' : Moves l' s' s) (hl' : Part.Sub [.regs, .tiles, .owlFifo, .fwEvents] l') : Moves l' s' (fireCommon s t o tr) := by
  refine Moves.chain ?_ hl' h'
  clear h' hl'
  unfold fireCommon
  try dsimp only
  repeat' (first
    | ((with_reducible apply Part.Sub.mk); rfl)
    | with_reducible apply Moves.refl
    | with_reducible assumption
    | with_reducible apply feedJoin_moves
    | with_reducible apply pushOps_moves
    | with_reducible apply fireOne_moves
    | with_reducible apply finIfDone_moves
    | with_reducible apply countLate_moves
    | with_reducible apply ranCmd_moves
    | with_reducible apply issueWith_moves
    | with_reducible apply popIssue_moves
    | (with_reducible apply MovesQ.mk; with_reducible apply popIssue_moves)
    | with_reducible apply failExec_moves
    | with_reducible apply haltSeq_moves
    | with_reducible apply modTile_moves
    | with_reducible apply Moves.ite
    | with_reducible apply Moves.foldl
    | with_reducible apply Moves.ite_fst
    | with_reducible apply Moves.ite_snd
    | with_reducible apply Moves.foldl_fst
    | with_reducible apply Moves.foldl_snd
    | intro _
    | split
    | dsimp only)

theorem flagC_moves {l' : List Part} {s' : State} (s : State) (n seg : Nat) (h' : Moves l' s' s) (hl' : Part.Sub [.tiles] l') : Moves l' s' (flagC s n seg) := by
  refine Moves.chain ?_ hl' h'
  clear h' hl'
  unfold flagC
  try dsimp only
  repeat' (first
    | ((with_reducible apply Part.Sub.mk); rfl)
    | with_reducible apply Moves.refl
    | with_reducible assumption
    | with_reducible apply modTile_moves
    | with_reducible apply Moves.foldl
    | intro _
    | dsimp only)

theorem startFiring_moves {l' : List Part} {s' : State} (s : State) (n a : Nat) (h' : Moves l' s' s) (hl' : Part.Sub [.regs, .tiles, .owlFifo] l') : Moves l' s' (startFiring s n a) := by
  refine Moves.chain ?_ hl' h'
  clear h' hl'
  unfold startFiring
  try dsimp only
  repeat' (first
    | ((with_reducible apply Part.Sub.mk); rfl)
    | with_reducible apply Moves.refl
    | with_reducible assumption
    | with_reducible apply flagC_moves
    | with_reducible apply foxFiring_moves
    | with_reducible apply foxWindowAdd_moves
    | with_reducible apply modArr_moves
    | with_reducible apply modTile_moves
    | with_reducible apply countAll_moves
    | with_reducible apply count_moves
    | with_reducible apply Moves.ite
    | with_reducible apply Moves.ite_fst
    | with_reducible apply Moves.ite_snd
    | intro _
    | split
    | dsimp only)

theorem slipFiring_moves {l' : List Part} {s' : State} (s : State) (n a : Nat) (h' : Moves l' s' s) (hl' : Part.Sub [.regs, .tiles] l') : Moves l' s' (slipFiring s n a) := by
  refine Moves.chain ?_ hl' h'
  clear h' hl'
  unfold slipFiring
  try dsimp only
  repeat' (first
    | ((with_reducible apply Part.Sub.mk); rfl)
    | with_reducible apply Moves.refl
    | with_reducible assumption
    | with_reducible apply modArr_moves
    | with_reducible apply count_moves
    | intro _
    | split
    | dsimp only)

theorem grantAll_moves {l' : List Part} {s' : State} (cs : List (Nat × Nat × Nat)) (left : Nat) (s : State) (h' : Moves l' s' s) (hl' : Part.Sub [.regs, .tiles, .owlFifo] l') :
    Moves l' s' (grantAll cs left s) := by
  induction cs generalizing left s with
  | nil => exact h'
  | cons c cs ih =>
    obtain ⟨_, t, a⟩ := c
    unfold grantAll
    dsimp only
    have hs : Moves l' s' (slipFiring s (phys s t) a) := slipFiring_moves _ _ _ h' (.trans (l2 := [.regs, .tiles, .owlFifo]) ⟨rfl⟩ hl')
    exact Moves.ite (fun _ => ih _ _ hs) fun _ => Moves.ite (fun _ => ih _ _ hs)
      fun _ => ih _ _ (startFiring_moves _ _ _ h' (.trans (l2 := [.regs, .tiles, .owlFifo]) ⟨rfl⟩ hl'))


theorem checksumPass_moves {l' : List Part} {s' : State} (s : State) (n a : Nat) (ps : Pass) (d dstar : Int) (lam ver : Nat) (h' : Moves l' s' s) (hl' : Part.Sub [.regs, .tiles, .owlFifo, .taints, .suspects, .csFails, .failWins] l') : Moves l' s' (checksumPass s n a ps d dstar lam ver) := by
  refine Moves.chain ?_ hl' h'
  clear h' hl'
  unfold checksumPass
  try dsimp only
  repeat' (first
    | ((with_reducible apply Part.Sub.mk); rfl)
    | with_reducible apply Moves.refl
    | with_reducible assumption
    | with_reducible apply closeDue_moves
    | with_reducible apply detect_moves
    | with_reducible apply raiseD_moves
    | with_reducible apply modArr_moves
    | with_reducible apply count_moves
    | with_reducible apply setFld_moves
    | with_reducible apply Moves.ite
    | intro _
    | split
    | dsimp only)

theorem convertPass_moves {l' : List Part} {s' : State} (s : State) (n a : Nat) (h' : Moves l' s' s) (hl' : Part.Sub [.freeCtr, .regs, .tiles, .owlFifo, .taints, .suspects, .csFails, .failWins] l') : Moves l' s' (convertPass s n a).1 := by
  refine Moves.chain ?_ hl' h'
  clear h' hl'
  refine MovesQ.h (p := convertPass s n a) ?_
  unfold convertPass
  try dsimp only
  repeat' (first
    | ((with_reducible apply Part.Sub.mk); rfl)
    | with_reducible apply MovesQ.of_mk
    | with_reducible apply MovesQ.ite
    | with_reducible apply MovesQ.foldl
    | with_reducible apply Moves.refl
    | with_reducible assumption
    | with_reducible apply checksumPass_moves
    | with_reducible apply modArr_moves
    | with_reducible apply modTile_moves
    | with_reducible apply Moves.ite
    | with_reducible apply Moves.foldl
    | intro _
    | split
    | dsimp only
    | with_reducible apply Moves.set_freeCtr)

theorem promoteSeg_moves {l' : List Part} {s' : State} (s : State) (n seg : Nat) (h' : Moves l' s' s) (hl' : Part.Sub [.regs, .tiles] l') : Moves l' s' (promoteSeg s n seg) := by
  refine Moves.chain ?_ hl' h'
  clear h' hl'
  unfold promoteSeg
  try dsimp only
  repeat' (first
    | ((with_reducible apply Part.Sub.mk); rfl)
    | with_reducible apply Moves.refl
    | with_reducible assumption
    | with_reducible apply modTile_moves
    | with_reducible apply count_moves
    | with_reducible apply Moves.ite
    | with_reducible apply Moves.foldl
    | intro _
    | split
    | dsimp only)

theorem firingEnd_moves {l' : List Part} {s' : State} (s : State) (n : Nat) (r : Running) (h' : Moves l' s' s) (hl' : Part.Sub [.regs, .tiles] l') : Moves l' s' (firingEnd s n r) := by
  refine Moves.chain ?_ hl' h'
  clear h' hl'
  unfold firingEnd
  try dsimp only
  repeat' (first
    | ((with_reducible apply Part.Sub.mk); rfl)
    | with_reducible apply Moves.refl
    | with_reducible assumption
    | with_reducible apply promoteSeg_moves
    | with_reducible apply finIfDone_moves
    | with_reducible apply Moves.ite
    | with_reducible apply Moves.ite_fst
    | with_reducible apply Moves.ite_snd
    | intro _
    | split
    | dsimp only)

end Sys2Proof.Machine
end

