-- ==== Sys2Proof/Laws/Moves/Planes.lean ====
section
/-! SUPPORT. What the functions of Machine/Planes.lean touch. -/

namespace Sys2Proof.Machine

theorem applyWide_moves {l' : List Part} {s' : State} (s : State) (n a : Nat) (h' : Moves l' s' s) (hl' : Part.Sub [.regs, .tiles] l') : Moves l' s' (applyWide s n a) := by
  refine Moves.chain ?_ hl' h'
  clear h' hl'
  unfold applyWide
  try dsimp only
  repeat' (first
    | ((with_reducible apply Part.Sub.mk); rfl)
    | with_reducible apply Moves.refl
    | with_reducible assumption
    | with_reducible apply calCloseIf_moves
    | with_reducible apply setPlaneState_moves
    | with_reducible apply modArr_moves
    | with_reducible apply setBit_moves
    | with_reducible apply Moves.ite
    | intro _
    | split
    | dsimp only)

theorem arrCtrlWide_moves {l' : List Part} {s' : State} (s : State) (n a : Nat) (v : Bool) (h' : Moves l' s' s) (hl' : Part.Sub [.regs, .tiles] l') : Moves l' s' (arrCtrlWide s n a v) := by
  refine Moves.chain ?_ hl' h'
  clear h' hl'
  unfold arrCtrlWide
  try dsimp only
  repeat' (first
    | ((with_reducible apply Part.Sub.mk); rfl)
    | with_reducible apply Moves.refl
    | with_reducible assumption
    | with_reducible apply applyWide_moves
    | with_reducible apply setBit_moves
    | dsimp only)

theorem beginWrite_moves {l' : List Part} {s' : State} (s : State) (n a : Nat) (j : PlaneJob) (h' : Moves l' s' s) (hl' : Part.Sub [.regs, .tiles] l') : Moves l' s' (beginWrite s n a j) := by
  refine Moves.chain ?_ hl' h'
  clear h' hl'
  unfold beginWrite
  try dsimp only
  repeat' (first
    | ((with_reducible apply Part.Sub.mk); rfl)
    | with_reducible apply Moves.refl
    | with_reducible assumption
    | with_reducible apply setPlaneState_moves
    | with_reducible apply modArr_moves
    | with_reducible apply Moves.ite
    | with_reducible apply Moves.foldl
    | intro _
    | split
    | dsimp only)

theorem beginRefresh_moves {l' : List Part} {s' : State} (s : State) (n a : Nat) (b : Bool) (h' : Moves l' s' s) (hl' : Part.Sub [.regs, .tiles] l') : Moves l' s' (beginRefresh s n a b) := by
  refine Moves.chain ?_ hl' h'
  clear h' hl'
  unfold beginRefresh
  try dsimp only
  repeat' (first
    | ((with_reducible apply Part.Sub.mk); rfl)
    | with_reducible apply Moves.refl
    | with_reducible assumption
    | with_reducible apply addJob_moves
    | (with_reducible apply MovesQ.mk; with_reducible apply addJob_moves)
    | with_reducible apply modArr_moves
    | with_reducible apply setFld_moves
    | with_reducible apply Moves.ite
    | with_reducible apply Moves.ite_fst
    | with_reducible apply Moves.ite_snd
    | intro _
    | split
    | dsimp only)

theorem startPlaneJob_moves {l' : List Part} {s' : State} (s : State) (n a : Nat) (h' : Moves l' s' s) (hl' : Part.Sub [.regs, .tiles] l') : Moves l' s' (startPlaneJob s n a) := by
  refine Moves.chain ?_ hl' h'
  clear h' hl'
  unfold startPlaneJob
  try dsimp only
  repeat' (first
    | ((with_reducible apply Part.Sub.mk); rfl)
    | with_reducible apply Moves.refl
    | with_reducible assumption
    | with_reducible apply beginRefresh_moves
    | with_reducible apply beginWrite_moves
    | with_reducible apply Moves.ite
    | intro _
    | split
    | dsimp only)

theorem pwrite_moves {l' : List Part} {s' : State} (s : State) (t : Fin 64) (o : PwriteOp) (h' : Moves l' s' s) (hl' : Part.Sub [.regs, .tiles, .owlFifo, .fwEvents] l') : Moves l' s' (pwrite s t o) := by
  refine Moves.chain ?_ hl' h'
  clear h' hl'
  unfold pwrite
  try dsimp only
  repeat' (first
    | ((with_reducible apply Part.Sub.mk); rfl)
    | with_reducible apply Moves.refl
    | with_reducible assumption
    | with_reducible apply startPlaneJob_moves
    | with_reducible apply addJob_moves
    | (with_reducible apply MovesQ.mk; with_reducible apply addJob_moves)
    | with_reducible apply ranCmd_moves
    | with_reducible apply issueWith_moves
    | with_reducible apply popIssue_moves
    | (with_reducible apply MovesQ.mk; with_reducible apply popIssue_moves)
    | with_reducible apply haltSeq_moves
    | with_reducible apply Moves.ite
    | with_reducible apply Moves.ite_fst
    | with_reducible apply Moves.ite_snd
    | intro _
    | split
    | dsimp only)

theorem failWaiters_moves {l' : List Part} {s' : State} (n a : Nat) (a0' : Nat) (a1' : State) (h' : Moves l' s' a1') (hl' : Part.Sub [.regs, .tiles, .owlFifo, .fwEvents] l') : Moves l' s' (failWaiters n a a0' a1') := by
  induction a0' generalizing n a a1' with
  | zero => exact h'
  | succ k ih =>
    unfold failWaiters
    try dsimp only
    repeat' (first
      | ((with_reducible refine Part.Sub.trans (l2 := [.regs, .tiles, .owlFifo, .fwEvents]) (Part.Sub.mk ?_) hl'); rfl)
      | with_reducible apply ih
      | with_reducible apply Moves.refl
      | with_reducible assumption
      | with_reducible apply trySwap_moves
      | with_reducible apply failExec_moves
      | with_reducible apply modArr_moves
      | with_reducible apply Moves.ite
      | intro _
      | split
      | dsimp only)

theorem afterPlane_moves {l' : List Part} {s' : State} (s : State) (n a : Nat) (h' : Moves l' s' s) (hl' : Part.Sub [.regs, .tiles, .owlFifo, .fwEvents] l') : Moves l' s' (afterPlane s n a) := by
  refine Moves.chain ?_ hl' h'
  clear h' hl'
  unfold afterPlane
  try dsimp only
  repeat' (first
    | ((with_reducible apply Part.Sub.mk); rfl)
    | with_reducible apply Moves.refl
    | with_reducible assumption
    | with_reducible apply failWaiters_moves
    | with_reducible apply startPlaneJob_moves
    | with_reducible apply applyWide_moves
    | dsimp only)

theorem planeInvalid_moves {l' : List Part} {s' : State} (s : State) (n a : Nat) (mism : Bool) (h' : Moves l' s' s) (hl' : Part.Sub [.regs, .tiles, .owlFifo, .fwEvents] l') : Moves l' s' (planeInvalid s n a mism) := by
  refine Moves.chain ?_ hl' h'
  clear h' hl'
  unfold planeInvalid
  try dsimp only
  repeat' (first
    | ((with_reducible apply Part.Sub.mk); rfl)
    | with_reducible apply Moves.refl
    | with_reducible assumption
    | with_reducible apply afterPlane_moves
    | with_reducible apply dropJob_moves
    | with_reducible apply finCmd_moves
    | with_reducible apply calCloseIf_moves
    | with_reducible apply setPlaneState_moves
    | with_reducible apply raiseBit_moves
    | with_reducible apply modArr_moves
    | with_reducible apply setFld_moves
    | with_reducible apply Moves.ite
    | with_reducible apply Moves.foldl
    | intro _
    | split
    | dsimp only)

theorem holdCopy_moves {l' : List Part} {s' : State} (s : State) (n a : Nat) (b : Bool) (blks : List (List Byte)) (h' : Moves l' s' s) (hl' : Part.Sub [.tiles] l') : Moves l' s' (holdCopy s n a b blks) := by
  refine Moves.chain ?_ hl' h'
  clear h' hl'
  unfold holdCopy
  try dsimp only
  repeat' (first
    | ((with_reducible apply Part.Sub.mk); rfl)
    | with_reducible apply Moves.refl
    | with_reducible assumption
    | with_reducible apply modTile_moves
    | with_reducible apply Moves.ite
    | intro _
    | split
    | dsimp only)

theorem planeStaged_moves {l' : List Part} {s' : State} (s : State) (n a : Nat) (h' : Moves l' s' s) (hl' : Part.Sub [.regs, .tiles, .owlFifo, .fwEvents] l') : Moves l' s' (planeStaged s n a) := by
  refine Moves.chain ?_ hl' h'
  clear h' hl'
  unfold planeStaged
  try dsimp only
  repeat' (first
    | ((with_reducible apply Part.Sub.mk); rfl)
    | with_reducible apply Moves.refl
    | with_reducible assumption
    | with_reducible apply holdCopy_moves
    | with_reducible apply planeInvalid_moves
    | with_reducible apply setSrc_moves
    | with_reducible apply setPlaneState_moves
    | with_reducible apply ownWaitEnd_moves
    | with_reducible apply ownWaitStart_moves
    | with_reducible apply settWrite_moves
    | with_reducible apply modArr_moves
    | with_reducible apply countAll_moves
    | with_reducible apply Moves.ite
    | with_reducible apply Moves.foldl
    | with_reducible apply Moves.ite_fst
    | with_reducible apply Moves.ite_snd
    | with_reducible apply Moves.foldl_fst
    | with_reducible apply Moves.foldl_snd
    | intro _
    | split
    | dsimp only)

theorem writeVerify_moves {l' : List Part} {s' : State} (s : State) (n a cells : Nat) (h' : Moves l' s' s) (hl' : Part.Sub [.freeCtr, .regs, .owlFifo] l') : Moves l' s' (writeVerify s n a cells) := by
  refine Moves.chain ?_ hl' h'
  clear h' hl'
  unfold writeVerify
  try dsimp only
  repeat' (first
    | ((with_reducible apply Part.Sub.mk); rfl)
    | with_reducible apply Moves.refl
    | with_reducible assumption
    | with_reducible apply raiseIf_moves
    | with_reducible apply countAll_moves
    | with_reducible apply Moves.ite
    | intro _
    | split
    | dsimp only
    | with_reducible apply Moves.set_freeCtr)

theorem placePlane_moves {l' : List Part} {s' : State} (s : State) (n a : Nat) (b : Bool) (p : Plane) (h' : Moves l' s' s) (hl' : Part.Sub [.freeCtr, .tiles] l') : Moves l' s' (placePlane s n a b p) := by
  refine Moves.chain ?_ hl' h'
  clear h' hl'
  unfold placePlane
  try dsimp only
  repeat' (first
    | ((with_reducible apply Part.Sub.mk); rfl)
    | with_reducible apply Moves.refl
    | with_reducible assumption
    | with_reducible apply modArr_moves
    | intro _
    | dsimp only
    | with_reducible apply Moves.set_freeCtr)

theorem planeWriteDone_moves {l' : List Part} {s' : State} (s : State) (n a : Nat) (h' : Moves l' s' s) (hl' : Part.Sub [.freeCtr, .regs, .tiles, .owlFifo, .fwEvents] l') : Moves l' s' (planeWriteDone s n a) := by
  refine Moves.chain ?_ hl' h'
  clear h' hl'
  unfold planeWriteDone
  try dsimp only
  repeat' (first
    | ((with_reducible apply Part.Sub.mk); rfl)
    | with_reducible apply Moves.refl
    | with_reducible assumption
    | with_reducible apply placePlane_moves
    | with_reducible apply writeVerify_moves
    | with_reducible apply afterPlane_moves
    | with_reducible apply finCmd_moves
    | with_reducible apply calCloseIf_moves
    | with_reducible apply planeInForce_moves
    | with_reducible apply setPlaneState_moves
    | with_reducible apply modArr_moves
    | with_reducible apply count_moves
    | with_reducible apply setFld_moves
    | with_reducible apply Moves.ite
    | with_reducible apply Moves.foldl
    | intro _
    | split
    | dsimp only)

theorem wantRefresh_moves {l' : List Part} {s' : State} (s : State) (n a : Nat) (b : Bool) (h' : Moves l' s' s) (hl' : Part.Sub [.regs, .tiles] l') : Moves l' s' (wantRefresh s n a b) := by
  refine Moves.chain ?_ hl' h'
  clear h' hl'
  unfold wantRefresh
  try dsimp only
  repeat' (first
    | ((with_reducible apply Part.Sub.mk); rfl)
    | with_reducible apply Moves.refl
    | with_reducible assumption
    | with_reducible apply startPlaneJob_moves
    | with_reducible apply modArr_moves
    | with_reducible apply Moves.ite
    | intro _
    | split
    | dsimp only)

theorem readNow_moves {l' : List Part} {s' : State} (s : State) (n : Nat) (b : BlkReq) (h' : Moves l' s' s) (hl' : Part.Sub [.regs] l') : Moves l' s' (readNow s n b).2 := by
  refine Moves.chain ?_ hl' h'
  clear h' hl'
  refine MovesP.h (p := readNow s n b) ?_
  unfold readNow
  try dsimp only
  repeat' (first
    | ((with_reducible apply Part.Sub.mk); rfl)
    | with_reducible apply MovesP.of_mk
    | with_reducible apply MovesP.ite
    | with_reducible apply Moves.refl
    | with_reducible assumption
    | with_reducible apply memRead_moves
    | (with_reducible apply MovesP.mk; with_reducible apply memRead_moves)
    | with_reducible apply Moves.ite
    | intro _
    | split
    | dsimp only)

theorem readSource_moves {l' : List Part} {s' : State} (s : State) (n : Nat) (r : SrcRec) (h' : Moves l' s' s) (hl' : Part.Sub [.regs, .owlFifo] l') : Moves l' s' (readSource s n r).2 := by
  refine Moves.chain ?_ hl' h'
  clear h' hl'
  refine MovesP.h (p := readSource s n r) ?_
  unfold readSource
  try dsimp only
  repeat' (first
    | ((with_reducible apply Part.Sub.mk); rfl)
    | with_reducible apply MovesP.of_mk
    | with_reducible apply MovesP.ite
    | with_reducible apply MovesP.foldl
    | with_reducible apply Moves.refl
    | with_reducible assumption
    | with_reducible apply readNow_moves
    | (with_reducible apply MovesP.mk; with_reducible apply readNow_moves)
    | with_reducible apply blockFail_moves
    | with_reducible apply count_moves
    | with_reducible apply Moves.ite
    | with_reducible apply Moves.foldl
    | with_reducible apply Moves.ite_fst
    | with_reducible apply Moves.ite_snd
    | with_reducible apply Moves.foldl_fst
    | with_reducible apply Moves.foldl_snd
    | intro _
    | split
    | dsimp only)

theorem reloadNarrow_moves {l' : List Part} {s' : State} (s : State) (n a : Nat) (b : Bool) (r : SrcRec) (h' : Moves l' s' s) (hl' : Part.Sub [.freeCtr, .regs, .tiles, .owlFifo] l') : Moves l' s' (reloadNarrow s n a b r) := by
  refine Moves.chain ?_ hl' h'
  clear h' hl'
  unfold reloadNarrow
  try dsimp only
  repeat' (first
    | ((with_reducible apply Part.Sub.mk); rfl)
    | with_reducible apply Moves.refl
    | with_reducible assumption
    | with_reducible apply readSource_moves
    | (with_reducible apply MovesP.mk; with_reducible apply readSource_moves)
    | with_reducible apply placePlane_moves
    | with_reducible apply planeInForce_moves
    | with_reducible apply setSrc_moves
    | with_reducible apply setPlaneState_moves
    | with_reducible apply raiseBit_moves
    | with_reducible apply modArr_moves
    | with_reducible apply count_moves
    | with_reducible apply Moves.ite
    | with_reducible apply Moves.ite_fst
    | with_reducible apply Moves.ite_snd
    | intro _
    | split
    | dsimp only)

theorem reloadWide_moves {l' : List Part} {s' : State} (s : State) (n a : Nat) (m : ArrMark) (h' : Moves l' s' s) (hl' : Part.Sub [.freeCtr, .regs, .tiles, .owlFifo] l') : Moves l' s' (reloadWide s n a m) := by
  refine Moves.chain ?_ hl' h'
  clear h' hl'
  unfold reloadWide
  try dsimp only
  repeat' (first
    | ((with_reducible apply Part.Sub.mk); rfl)
    | with_reducible apply Moves.refl
    | with_reducible assumption
    | with_reducible apply readSource_moves
    | (with_reducible apply MovesP.mk; with_reducible apply readSource_moves)
    | with_reducible apply placePlane_moves
    | with_reducible apply planeInForce_moves
    | with_reducible apply setSrc_moves
    | with_reducible apply setPlaneState_moves
    | with_reducible apply raiseBit_moves
    | with_reducible apply modArr_moves
    | with_reducible apply countAll_moves
    | with_reducible apply count_moves
    | with_reducible apply setBit_moves
    | with_reducible apply Moves.ite
    | with_reducible apply Moves.ite_fst
    | with_reducible apply Moves.ite_snd
    | intro _
    | split
    | dsimp only)

theorem leaveWide_moves {l' : List Part} {s' : State} (s : State) (n a : Nat) (h' : Moves l' s' s) (hl' : Part.Sub [.freeCtr, .regs, .tiles, .owlFifo] l') : Moves l' s' (leaveWide s n a) := by
  refine Moves.chain ?_ hl' h'
  clear h' hl'
  unfold leaveWide
  try dsimp only
  repeat' (first
    | ((with_reducible apply Part.Sub.mk); rfl)
    | with_reducible apply Moves.refl
    | with_reducible assumption
    | with_reducible apply reloadNarrow_moves
    | with_reducible apply modArr_moves
    | with_reducible apply setBit_moves
    | with_reducible apply Moves.ite
    | intro _
    | split
    | dsimp only)

theorem restoreArr_moves {l' : List Part} {s' : State} (s : State) (n a : Nat) (m : ArrMark) (h' : Moves l' s' s) (hl' : Part.Sub [.freeCtr, .regs, .tiles, .owlFifo] l') : Moves l' s' (restoreArr s n a m) := by
  refine Moves.chain ?_ hl' h'
  clear h' hl'
  unfold restoreArr
  try dsimp only
  repeat' (first
    | ((with_reducible apply Part.Sub.mk); rfl)
    | with_reducible apply Moves.refl
    | with_reducible assumption
    | with_reducible apply reloadNarrow_moves
    | with_reducible apply calCloseIf_moves
    | with_reducible apply planeInForce_moves
    | with_reducible apply setPlaneState_moves
    | with_reducible apply setBit_moves
    | with_reducible apply Moves.ite
    | intro _
    | split
    | dsimp only)

end Sys2Proof.Machine
end

