-- ==== Sys2Proof/Laws/Moves/Marks.lean ====
section
/-! SUPPORT. What the functions of Machine/Marks.lean touch. -/

namespace Sys2Proof.Machine

theorem restoreRng_moves {l' : List Part} {s' : State} (s : State) (n : Nat) (l : List Nat) (h' : Moves l' s' s) (hl' : Part.Sub [.regs] l') : Moves l' s' (restoreRng s n l) := by
  refine Moves.chain ?_ hl' h'
  clear h' hl'
  unfold restoreRng
  try dsimp only
  repeat' (first
    | ((with_reducible apply Part.Sub.mk); rfl)
    | with_reducible apply Moves.refl
    | with_reducible assumption
    | with_reducible apply setFld_moves
    | with_reducible apply Moves.foldl
    | intro _
    | dsimp only)

theorem holdInsert_moves {l' : List Part} {s' : State} (s : State) (n id : Nat) (h' : Moves l' s' s) (hl' : Part.Sub [.regs, .tiles, .owlFifo] l') : Moves l' s' (holdInsert s n id) := by
  refine Moves.chain ?_ hl' h'
  clear h' hl'
  unfold holdInsert
  try dsimp only
  repeat' (first
    | ((with_reducible apply Part.Sub.mk); rfl)
    | with_reducible apply Moves.refl
    | with_reducible assumption
    | with_reducible apply raiseIf_moves
    | with_reducible apply modTile_moves
    | with_reducible apply Moves.ite
    | with_reducible apply Moves.ite_fst
    | with_reducible apply Moves.ite_snd
    | intro _
    | split
    | dsimp only)

theorem holdUse_moves {l' : List Part} {s' : State} (s : State) (n id : Nat) (h' : Moves l' s' s) (hl' : Part.Sub [.regs, .tiles] l') : Moves l' s' (holdUse s n id) := by
  refine Moves.chain ?_ hl' h'
  clear h' hl'
  unfold holdUse
  try dsimp only
  repeat' (first
    | ((with_reducible apply Part.Sub.mk); rfl)
    | with_reducible apply Moves.refl
    | with_reducible assumption
    | with_reducible apply modTile_moves
    | with_reducible apply count_moves
    | with_reducible apply Moves.ite
    | with_reducible apply Moves.ite_fst
    | with_reducible apply Moves.ite_snd
    | intro _
    | split
    | dsimp only)

theorem enterWide_moves {l' : List Part} {s' : State} (s : State) (n : Nat) (ms : List ArrMark) (h' : Moves l' s' s) (hl' : Part.Sub [.freeCtr, .regs, .tiles, .owlFifo] l') : Moves l' s' (enterWide s n ms) := by
  refine Moves.chain ?_ hl' h'
  clear h' hl'
  unfold enterWide
  try dsimp only
  repeat' (first
    | ((with_reducible apply Part.Sub.mk); rfl)
    | with_reducible apply Moves.refl
    | with_reducible assumption
    | with_reducible apply reloadWide_moves
    | with_reducible apply Moves.ite
    | with_reducible apply Moves.foldl
    | with_reducible apply Moves.ite_fst
    | with_reducible apply Moves.ite_snd
    | with_reducible apply Moves.foldl_fst
    | with_reducible apply Moves.foldl_snd
    | intro _
    | split
    | dsimp only)

theorem exitWide_moves {l' : List Part} {s' : State} (s : State) (n : Nat) (h' : Moves l' s' s) (hl' : Part.Sub [.freeCtr, .regs, .tiles, .owlFifo] l') : Moves l' s' (exitWide s n) := by
  refine Moves.chain ?_ hl' h'
  clear h' hl'
  unfold exitWide
  try dsimp only
  repeat' (first
    | ((with_reducible apply Part.Sub.mk); rfl)
    | with_reducible apply Moves.refl
    | with_reducible assumption
    | with_reducible apply leaveWide_moves
    | with_reducible apply Moves.foldl
    | intro _
    | dsimp only)

theorem markIssue_moves {l' : List Part} {s' : State} (s : State) (n : Nat) (f : Fetched) (o : MarkOp) (h' : Moves l' s' s) (hl' : Part.Sub [.freeCtr, .regs, .tiles, .owlFifo] l') : Moves l' s' (markIssue s n f o) := by
  refine Moves.chain ?_ hl' h'
  clear h' hl'
  unfold markIssue
  try dsimp only
  repeat' (first
    | ((with_reducible apply Part.Sub.mk); rfl)
    | with_reducible apply Moves.refl
    | with_reducible assumption
    | with_reducible apply exitWide_moves
    | with_reducible apply enterWide_moves
    | with_reducible apply holdUse_moves
    | with_reducible apply holdInsert_moves
    | with_reducible apply popSeq_moves
    | with_reducible apply modTile_moves
    | with_reducible apply setBit_moves
    | with_reducible apply setFld_moves
    | with_reducible apply Moves.ite
    | intro _
    | split
    | dsimp only)

theorem clearWork_moves {l' : List Part} {s' : State} (s : State) (n : Nat) (h' : Moves l' s' s) (hl' : Part.Sub [.regs, .tiles] l') : Moves l' s' (clearWork s n) := by
  refine Moves.chain ?_ hl' h'
  clear h' hl'
  unfold clearWork
  try dsimp only
  repeat' (first
    | ((with_reducible apply Part.Sub.mk); rfl)
    | with_reducible apply Moves.refl
    | with_reducible assumption
    | with_reducible apply modTile_moves
    | with_reducible apply setFld_moves
    | with_reducible apply Moves.foldl
    | with_reducible apply Moves.foldl_fst
    | with_reducible apply Moves.foldl_snd
    | intro _
    | dsimp only)

theorem setReplayMode_moves {l' : List Part} {s' : State} (s : State) (n cause : Nat) (h' : Moves l' s' s) (hl' : Part.Sub [.regs] l') : Moves l' s' (setReplayMode s n cause) := by
  refine Moves.chain ?_ hl' h'
  clear h' hl'
  unfold setReplayMode
  try dsimp only
  repeat' (first
    | ((with_reducible apply Part.Sub.mk); rfl)
    | with_reducible apply Moves.refl
    | with_reducible assumption
    | with_reducible apply setFld_moves
    | with_reducible apply Moves.ite
    | intro _
    | split
    | dsimp only)

theorem resumeAfterMark_moves {l' : List Part} {s' : State} (s : State) (n : Nat) (m : MarkRec) (chk : Bool) (h' : Moves l' s' s) (hl' : Part.Sub [.regs, .tiles] l') : Moves l' s' (resumeAfterMark s n m chk) := by
  refine Moves.chain ?_ hl' h'
  clear h' hl'
  unfold resumeAfterMark
  try dsimp only
  repeat' (first
    | ((with_reducible apply Part.Sub.mk); rfl)
    | with_reducible apply Moves.refl
    | with_reducible assumption
    | with_reducible apply restoreRng_moves
    | with_reducible apply dropPrefetch_moves
    | with_reducible apply modTile_moves
    | with_reducible apply setFld_moves
    | with_reducible apply Moves.ite
    | intro _
    | split
    | dsimp only)

theorem rewind_moves {l' : List Part} {s' : State} (s : State) (n : Nat) (h' : Moves l' s' s) (hl' : Part.Sub [.freeCtr, .regs, .tiles, .owlFifo, .fwEvents] l') : Moves l' s' (rewind s n) := by
  refine Moves.chain ?_ hl' h'
  clear h' hl'
  unfold rewind
  try dsimp only
  repeat' (first
    | ((with_reducible apply Part.Sub.mk); rfl)
    | with_reducible apply Moves.refl
    | with_reducible assumption
    | with_reducible apply resumeAfterMark_moves
    | with_reducible apply setReplayMode_moves
    | with_reducible apply clearWork_moves
    | with_reducible apply enterWide_moves
    | with_reducible apply restoreArr_moves
    | with_reducible apply haltSeq_moves
    | with_reducible apply modTile_moves
    | with_reducible apply count_moves
    | with_reducible apply setFld_moves
    | with_reducible apply Moves.ite
    | with_reducible apply Moves.foldl
    | with_reducible apply Moves.ite_fst
    | with_reducible apply Moves.ite_snd
    | with_reducible apply Moves.foldl_fst
    | with_reducible apply Moves.foldl_snd
    | intro _
    | split
    | dsimp only)

end Sys2Proof.Machine
end

