-- ==== Sys2Proof/Laws/Moves/Streamer.lean ====
section
/-! SUPPORT. What the functions of Machine/Streamer.lean touch. -/

namespace Sys2Proof.Machine

theorem load_moves {l' : List Part} {s' : State} (s : State) (t : Fin 64) (o : LoadOp) (h' : Moves l' s' s) (hl' : Part.Sub [.regs, .tiles, .owlFifo, .fwEvents] l') : Moves l' s' (load s t o) := by
  refine Moves.chain ?_ hl' h'
  clear h' hl'
  unfold load
  try dsimp only
  repeat' (first
    | ((with_reducible apply Part.Sub.mk); rfl)
    | with_reducible apply Moves.refl
    | with_reducible assumption
    | with_reducible apply addJob_moves
    | (with_reducible apply MovesQ.mk; with_reducible apply addJob_moves)
    | with_reducible apply ranCmd_moves
    | with_reducible apply finCmd_moves
    | with_reducible apply issueWith_moves
    | with_reducible apply popIssue_moves
    | (with_reducible apply MovesQ.mk; with_reducible apply popIssue_moves)
    | with_reducible apply count_moves
    | with_reducible apply Moves.ite
    | with_reducible apply Moves.ite_fst
    | with_reducible apply Moves.ite_snd
    | intro _
    | split
    | dsimp only)

theorem kload_moves {l' : List Part} {s' : State} (s : State) (t : Fin 64) (o : KloadOp) (h' : Moves l' s' s) (hl' : Part.Sub [.regs, .tiles, .owlFifo, .fwEvents] l') : Moves l' s' (kload s t o) := by
  refine Moves.chain ?_ hl' h'
  clear h' hl'
  unfold kload
  try dsimp only
  repeat' (first
    | ((with_reducible apply Part.Sub.mk); rfl)
    | with_reducible apply Moves.refl
    | with_reducible assumption
    | with_reducible apply addJob_moves
    | (with_reducible apply MovesQ.mk; with_reducible apply addJob_moves)
    | with_reducible apply ranCmd_moves
    | with_reducible apply issueWith_moves
    | with_reducible apply popIssue_moves
    | (with_reducible apply MovesQ.mk; with_reducible apply popIssue_moves)
    | with_reducible apply count_moves
    | intro _
    | dsimp only)

theorem store_moves {l' : List Part} {s' : State} (s : State) (t : Fin 64) (o : StoreOp) (h' : Moves l' s' s) (hl' : Part.Sub [.regs, .tiles, .owlFifo, .fwEvents] l') : Moves l' s' (store s t o) := by
  refine Moves.chain ?_ hl' h'
  clear h' hl'
  unfold store
  try dsimp only
  repeat' (first
    | ((with_reducible apply Part.Sub.mk); rfl)
    | with_reducible apply Moves.refl
    | with_reducible assumption
    | with_reducible apply addJob_moves
    | (with_reducible apply MovesQ.mk; with_reducible apply addJob_moves)
    | with_reducible apply ranCmd_moves
    | with_reducible apply finCmd_moves
    | with_reducible apply issueWith_moves
    | with_reducible apply popIssue_moves
    | (with_reducible apply MovesQ.mk; with_reducible apply popIssue_moves)
    | with_reducible apply count_moves
    | with_reducible apply Moves.ite
    | with_reducible apply Moves.ite_fst
    | with_reducible apply Moves.ite_snd
    | intro _
    | split
    | dsimp only)

theorem streamerIssue_moves {l' : List Part} {s' : State} (s : State) (n : Nat) (h' : Moves l' s' s) (hl' : Part.Sub [.regs, .tiles, .mcs, .owlFifo, .fwEvents] l') : Moves l' s' (streamerIssue s n) := by
  refine Moves.chain ?_ hl' h'
  clear h' hl'
  unfold streamerIssue
  try dsimp only
  repeat' (first
    | ((with_reducible apply Part.Sub.mk); rfl)
    | with_reducible apply Moves.refl
    | with_reducible assumption
    | with_reducible apply store_moves
    | with_reducible apply showSlots_moves
    | with_reducible apply modBlk_moves
    | with_reducible apply setMc_moves
    | with_reducible apply ownWaitEnd_moves
    | with_reducible apply ownWaitStart_moves
    | with_reducible apply settWrite_moves
    | with_reducible apply countAll_moves
    | with_reducible apply count_moves
    | with_reducible apply setFld_moves
    | with_reducible apply Moves.ite
    | with_reducible apply Moves.foldl
    | with_reducible apply Moves.ite_fst
    | with_reducible apply Moves.ite_snd
    | with_reducible apply Moves.foldl_fst
    | with_reducible apply Moves.foldl_snd
    | intro _
    | split
    | dsimp only)

theorem probeBlk_moves {l' : List Part} {s' : State} (s : State) (n job : Nat) (b : BlkReq) (h' : Moves l' s' s) (hl' : Part.Sub [.regs, .tiles] l') : Moves l' s' (probeBlk s n job b) := by
  refine Moves.chain ?_ hl' h'
  clear h' hl'
  unfold probeBlk
  try dsimp only
  repeat' (first
    | ((with_reducible apply Part.Sub.mk); rfl)
    | with_reducible apply Moves.refl
    | with_reducible assumption
    | with_reducible apply modBlk_moves
    | with_reducible apply countAll_moves
    | with_reducible apply count_moves
    | with_reducible apply Moves.ite
    | with_reducible apply Moves.foldl
    | with_reducible apply Moves.ite_fst
    | with_reducible apply Moves.ite_snd
    | with_reducible apply Moves.foldl_fst
    | with_reducible apply Moves.foldl_snd
    | intro _
    | split
    | dsimp only)

theorem prefetchProbe_moves {l' : List Part} {s' : State} (s : State) (n : Nat) (h' : Moves l' s' s) (hl' : Part.Sub [.regs, .tiles] l') : Moves l' s' (prefetchProbe s n) := by
  refine Moves.chain ?_ hl' h'
  clear h' hl'
  unfold prefetchProbe
  try dsimp only
  repeat' (first
    | ((with_reducible apply Part.Sub.mk); rfl)
    | with_reducible apply Moves.refl
    | with_reducible assumption
    | with_reducible apply probeBlk_moves
    | with_reducible apply showSlots_moves
    | with_reducible apply Moves.foldl
    | intro _
    | split
    | dsimp only)

theorem endJob_moves {l' : List Part} {s' : State} (s : State) (n : Nat) (j : StrJob) (h' : Moves l' s' s) (hl' : Part.Sub [.regs, .tiles, .owlFifo, .fwEvents] l') : Moves l' s' (endJob s n j) := by
  refine Moves.chain ?_ hl' h'
  clear h' hl'
  unfold endJob
  try dsimp only
  repeat' (first
    | ((with_reducible apply Part.Sub.mk); rfl)
    | with_reducible apply Moves.refl
    | with_reducible assumption
    | with_reducible apply store_moves
    | with_reducible apply kload_moves
    | with_reducible apply load_moves
    | with_reducible apply dropJob_moves
    | with_reducible apply finCmd_moves
    | with_reducible apply count_moves
    | with_reducible apply Moves.ite
    | intro _
    | split
    | dsimp only)

theorem blkDone_moves {l' : List Part} {s' : State} (s : State) (n job k : Nat) (h' : Moves l' s' s) (hl' : Part.Sub [.regs, .tiles, .owlFifo, .fwEvents] l') : Moves l' s' (blkDone s n job k) := by
  refine Moves.chain ?_ hl' h'
  clear h' hl'
  unfold blkDone
  try dsimp only
  repeat' (first
    | ((with_reducible apply Part.Sub.mk); rfl)
    | with_reducible apply Moves.refl
    | with_reducible assumption
    | with_reducible apply endJob_moves
    | with_reducible apply showSlots_moves
    | with_reducible apply modBlk_moves
    | intro _
    | split
    | dsimp only)

theorem deliver_moves {l' : List Part} {s' : State} (s : State) (n : Nat) (j : StrJob) (b : BlkReq) (h' : Moves l' s' s) (hl' : Part.Sub [.regs, .tiles, .owlFifo, .fwEvents] l') : Moves l' s' (deliver s n j b) := by
  refine Moves.chain ?_ hl' h'
  clear h' hl'
  unfold deliver
  try dsimp only
  repeat' (first
    | ((with_reducible apply Part.Sub.mk); rfl)
    | with_reducible apply Moves.refl
    | with_reducible assumption
    | with_reducible apply feedGo_moves
    | with_reducible apply blkDone_moves
    | with_reducible apply kload_moves
    | with_reducible apply load_moves
    | with_reducible apply pwrite_moves
    | with_reducible apply ownWaitEnd_moves
    | with_reducible apply ownWaitStart_moves
    | with_reducible apply settWrite_moves
    | with_reducible apply modArr_moves
    | with_reducible apply modTile_moves
    | with_reducible apply countAll_moves
    | with_reducible apply Moves.ite
    | with_reducible apply Moves.ite_fst
    | with_reducible apply Moves.ite_snd
    | intro _
    | split
    | dsimp only)

theorem failJob_moves {l' : List Part} {s' : State} (s : State) (n : Nat) (j : StrJob) (st : Nat) (h' : Moves l' s' s) (hl' : Part.Sub [.regs, .tiles, .owlFifo, .fwEvents] l') : Moves l' s' (failJob s n j st) := by
  refine Moves.chain ?_ hl' h'
  clear h' hl'
  unfold failJob
  try dsimp only
  repeat' (first
    | ((with_reducible apply Part.Sub.mk); rfl)
    | with_reducible apply Moves.refl
    | with_reducible assumption
    | with_reducible apply kload_moves
    | with_reducible apply load_moves
    | with_reducible apply planeInvalid_moves
    | with_reducible apply pwrite_moves
    | with_reducible apply dropJob_moves
    | with_reducible apply failExec_moves
    | intro _
    | split
    | dsimp only)

theorem blockReturn_moves {l' : List Part} {s' : State} (s : State) (n job k bad : Nat) (h' : Moves l' s' s) (hl' : Part.Sub [.regs, .tiles, .owlFifo, .fwEvents] l') : Moves l' s' (blockReturn s n job k bad) := by
  refine Moves.chain ?_ hl' h'
  clear h' hl'
  unfold blockReturn
  try dsimp only
  repeat' (first
    | ((with_reducible apply Part.Sub.mk); rfl)
    | with_reducible apply Moves.refl
    | with_reducible assumption
    | with_reducible apply failJob_moves
    | with_reducible apply deliver_moves
    | with_reducible apply blockFail_moves
    | with_reducible apply modBlk_moves
    | with_reducible apply parity_moves
    | with_reducible apply raiseIf_moves
    | with_reducible apply raiseBit_moves
    | with_reducible apply count_moves
    | with_reducible apply setFld_moves
    | with_reducible apply Moves.ite
    | intro _
    | split
    | dsimp only)

theorem tornReread_moves {l' : List Part} {s' : State} (s : State) (n job k : Nat) (h' : Moves l' s' s) (hl' : Part.Sub [.regs, .tiles] l') : Moves l' s' (tornReread s n job k) := by
  refine Moves.chain ?_ hl' h'
  clear h' hl'
  unfold tornReread
  try dsimp only
  repeat' (first
    | ((with_reducible apply Part.Sub.mk); rfl)
    | with_reducible apply Moves.refl
    | with_reducible assumption
    | with_reducible apply modBlk_moves
    | with_reducible apply count_moves
    | with_reducible apply Moves.ite
    | intro _
    | split
    | dsimp only)

theorem writeAck_moves {l' : List Part} {s' : State} (s : State) (n job k : Nat) (h' : Moves l' s' s) (hl' : Part.Sub [.regs, .hbm, .tiles, .mcs, .owlFifo, .fwEvents] l') : Moves l' s' (writeAck s n job k) := by
  refine Moves.chain ?_ hl' h'
  clear h' hl'
  unfold writeAck
  try dsimp only
  repeat' (first
    | ((with_reducible apply Part.Sub.mk); rfl)
    | with_reducible apply Moves.refl
    | with_reducible assumption
    | with_reducible apply blkDone_moves
    | with_reducible apply taintBlock_moves
    | with_reducible apply Moves.ite
    | intro _
    | split
    | dsimp only)

end Sys2Proof.Machine
end

