-- ==== Sys2Proof/Laws/Moves/Dme.lean ====
section
/-! SUPPORT. What the functions of Machine/Dme.lean touch. -/

namespace Sys2Proof.Machine

theorem enqueue_moves {l' : List Part} {s' : State} (s : State) (t : Fin 64) (c : SeqCmd) (h' : Moves l' s' s) (hl' : Part.Sub [.regs, .tiles, .owlFifo, .fwEvents] l') : Moves l' s' (enqueue s t c) := by
  refine Moves.chain ?_ hl' h'
  clear h' hl'
  unfold enqueue
  try dsimp only
  repeat' (first
    | ((with_reducible apply Part.Sub.mk); rfl)
    | with_reducible apply Moves.refl
    | with_reducible assumption
    | with_reducible apply issueWith_moves
    | with_reducible apply popIssue_moves
    | (with_reducible apply MovesQ.mk; with_reducible apply popIssue_moves)
    | intro _
    | dsimp only)

theorem runFlush_moves {l' : List Part} {s' : State} (s : State) (n : Nat) (i : Issued) (o : FlushOp) (h' : Moves l' s' s) (hl' : Part.Sub [.regs, .tiles, .owlFifo] l') : Moves l' s' (runFlush s n i o) := by
  refine Moves.chain ?_ hl' h'
  clear h' hl'
  unfold runFlush
  try dsimp only
  repeat' (first
    | ((with_reducible apply Part.Sub.mk); rfl)
    | with_reducible apply Moves.refl
    | with_reducible assumption
    | with_reducible apply takeDraws_moves
    | with_reducible apply ranCmd_moves
    | with_reducible apply finCmd_moves
    | with_reducible apply ownWaitEnd_moves
    | with_reducible apply ownWaitStart_moves
    | with_reducible apply settWrite_moves
    | with_reducible apply countCnv_moves
    | with_reducible apply raiseIf_moves
    | with_reducible apply modTile_moves
    | with_reducible apply countAll_moves
    | with_reducible apply Moves.ite
    | with_reducible apply Moves.foldl
    | with_reducible apply Moves.ite_fst
    | with_reducible apply Moves.ite_snd
    | with_reducible apply Moves.foldl_fst
    | with_reducible apply Moves.foldl_snd
    | intro _
    | split
    | dsimp only)

theorem dmeResidues_moves {l' : List Part} {s' : State} (s : State) (n idx : Nat) (a0' : List (Nat × Nat)) (h' : Moves l' s' s) (hl' : Part.Sub [.regs, .tiles, .owlFifo, .taints, .suspects] l') : Moves l' s' (dmeResidues s n idx a0') := by
  induction a0' generalizing s n idx with
  | nil => exact h'
  | cons p t ih =>
    obtain ⟨_, _⟩ := p
    unfold dmeResidues
    try dsimp only
    repeat' (first
      | ((with_reducible refine Part.Sub.trans (l2 := [.regs, .tiles, .owlFifo, .taints, .suspects]) (Part.Sub.mk ?_) hl'); rfl)
      | with_reducible apply ih
      | with_reducible apply Moves.refl
      | with_reducible assumption
      | with_reducible apply detect_moves
      | with_reducible apply raiseD_moves
      | with_reducible apply count_moves
      | with_reducible apply Moves.ite
      | intro _
      | split
      | dsimp only)

theorem poisonRead_moves {l' : List Part} {s' : State} (s : State) (n path : Nat) (bad : List Nat) (h' : Moves l' s' s) (hl' : Part.Sub [.regs, .tiles, .owlFifo, .taints, .suspects] l') : Moves l' s' (poisonRead s n path bad) := by
  refine Moves.chain ?_ hl' h'
  clear h' hl'
  unfold poisonRead
  try dsimp only
  repeat' (first
    | ((with_reducible apply Part.Sub.mk); rfl)
    | with_reducible apply Moves.refl
    | with_reducible assumption
    | with_reducible apply detect_moves
    | with_reducible apply parity_moves
    | with_reducible apply Moves.ite
    | with_reducible apply Moves.foldl
    | intro _
    | split
    | dsimp only)

theorem runDme_moves {l' : List Part} {s' : State} (s : State) (n : Nat) (i : Issued) (o : DmeOp) (res : List (Nat × Nat)) (bad : List Nat) (h' : Moves l' s' s) (hl' : Part.Sub [.freeCtr, .regs, .tiles, .owlFifo, .fwEvents, .taints, .suspects] l') : Moves l' s' (runDme s n i o res bad) := by
  refine Moves.chain ?_ hl' h'
  clear h' hl'
  unfold runDme
  try dsimp only
  repeat' (first
    | ((with_reducible apply Part.Sub.mk); rfl)
    | with_reducible apply Moves.refl
    | with_reducible assumption
    | with_reducible apply feedGo_moves
    | with_reducible apply poisonRead_moves
    | with_reducible apply dmeResidues_moves
    | with_reducible apply takeDraws_moves
    | with_reducible apply ranCmd_moves
    | with_reducible apply finCmd_moves
    | with_reducible apply ownWaitEnd_moves
    | with_reducible apply ownWaitStart_moves
    | with_reducible apply settWrite_moves
    | with_reducible apply countCnv_moves
    | with_reducible apply modTile_moves
    | with_reducible apply count_moves
    | with_reducible apply setFld_moves
    | with_reducible apply Moves.ite
    | with_reducible apply Moves.ite_fst
    | with_reducible apply Moves.ite_snd
    | intro _
    | split
    | dsimp only
    | with_reducible apply Moves.set_freeCtr)

theorem runWgclr_moves {l' : List Part} {s' : State} (s : State) (n : Nat) (i : Issued) (o : WgclrOp) (h' : Moves l' s' s) (hl' : Part.Sub [.regs, .tiles] l') : Moves l' s' (runWgclr s n i o) := by
  refine Moves.chain ?_ hl' h'
  clear h' hl'
  unfold runWgclr
  try dsimp only
  repeat' (first
    | ((with_reducible apply Part.Sub.mk); rfl)
    | with_reducible apply Moves.refl
    | with_reducible assumption
    | with_reducible apply finCmd_moves
    | with_reducible apply modTile_moves
    | with_reducible apply count_moves
    | with_reducible apply Moves.ite
    | with_reducible apply Moves.ite_fst
    | with_reducible apply Moves.ite_snd
    | intro _
    | split
    | dsimp only)

end Sys2Proof.Machine
end

