-- ==== Sys2Proof/Laws/Moves/Send.lean ====
section
/-! SUPPORT. What the functions of Machine/Send.lean touch. -/

namespace Sys2Proof.Machine

theorem putSent_moves {l' : List Part} {s' : State} (s : State) (bucket ver n : Nat) (h' : Moves l' s' s) (hl' : Part.Sub [.accSent] l') : Moves l' s' (putSent s bucket ver n) := by
  refine Moves.chain ?_ hl' h'
  clear h' hl'
  unfold putSent
  try dsimp only
  repeat' (first
    | ((with_reducible apply Part.Sub.mk); rfl)
    | with_reducible apply Moves.refl
    | with_reducible assumption
    | with_reducible apply Moves.ite
    | with_reducible apply Moves.ite_fst
    | with_reducible apply Moves.ite_snd
    | intro _
    | split
    | dsimp only
    | with_reducible apply Moves.set_accSent)

theorem sendAccum_moves {l' : List Part} {s' : State} (s : State) (g : GBkt) (off ver samples group : Nat) (u : Int) (bf16 : Bool) (codes : List Nat) (h' : Moves l' s' s) (hl' : Part.Sub [.regs, .accSent, .localRx, .ports] l') : Moves l' s' (sendAccum s g off ver samples group u bf16 codes) := by
  refine Moves.chain ?_ hl' h'
  clear h' hl'
  unfold sendAccum
  try dsimp only
  repeat' (first
    | ((with_reducible apply Part.Sub.mk); rfl)
    | with_reducible apply Moves.refl
    | with_reducible assumption
    | with_reducible apply putSent_moves
    | with_reducible apply sendUnicast_moves
    | with_reducible apply count_moves
    | with_reducible apply Moves.ite
    | intro _
    | split
    | dsimp only)

theorem toEngines_moves {l' : List Part} {s' : State} (s : State) (g : GBkt) (off ver step : Nat) (u : Int) (bf16 area : Bool) (codes : List Nat) (h' : Moves l' s' s) (hl' : Part.Sub [.mcs] l') : Moves l' s' (toEngines s g off ver step u bf16 area codes) := by
  refine Moves.chain ?_ hl' h'
  clear h' hl'
  unfold toEngines
  try dsimp only
  repeat' (first
    | ((with_reducible apply Part.Sub.mk); rfl)
    | with_reducible apply Moves.refl
    | with_reducible assumption
    | with_reducible apply modMc_moves
    | with_reducible apply Moves.ite
    | with_reducible apply Moves.foldl
    | with_reducible apply Moves.ite_fst
    | with_reducible apply Moves.ite_snd
    | with_reducible apply Moves.foldl_fst
    | with_reducible apply Moves.foldl_snd
    | intro _
    | split
    | dsimp only)

theorem noBucket_moves {l' : List Part} {s' : State} (s : State) (h' : Moves l' s' s) (hl' : Part.Sub [.regs, .owlFifo] l') : Moves l' s' (noBucket s) := by
  refine Moves.chain ?_ hl' h'
  clear h' hl'
  unfold noBucket
  try dsimp only
  repeat' (first
    | ((with_reducible apply Part.Sub.mk); rfl)
    | with_reducible apply Moves.refl
    | with_reducible assumption
    | with_reducible apply raiseBit_moves
    | with_reducible apply count_moves
    | dsimp only)

theorem wgCodes_moves {l' : List Part} {s' : State} (s : State) (n : Nat) (o : WgflushOp) (h' : Moves l' s' s) (hl' : Part.Sub [.regs] l') : Moves l' s' (wgCodes s n o).2 := by
  refine Moves.chain ?_ hl' h'
  clear h' hl'
  refine MovesP.h (p := wgCodes s n o) ?_
  unfold wgCodes
  try dsimp only
  repeat' (first
    | ((with_reducible apply Part.Sub.mk); rfl)
    | with_reducible apply MovesP.of_mk
    | with_reducible apply MovesP.ite
    | with_reducible apply Moves.refl
    | with_reducible assumption
    | with_reducible apply takeDraws_moves
    | with_reducible apply count_moves
    | with_reducible apply Moves.ite
    | with_reducible apply Moves.ite_fst
    | with_reducible apply Moves.ite_snd
    | intro _
    | split
    | dsimp only)

theorem runWgflush_moves {l' : List Part} {s' : State} (s : State) (n : Nat) (i : Issued) (o : WgflushOp) (h' : Moves l' s' s) (hl' : Part.Sub [.regs, .tiles, .mcs, .owlFifo, .accSent, .localRx, .ports] l') : Moves l' s' (runWgflush s n i o) := by
  refine Moves.chain ?_ hl' h'
  clear h' hl'
  unfold runWgflush
  try dsimp only
  repeat' (first
    | ((with_reducible apply Part.Sub.mk); rfl)
    | with_reducible apply Moves.refl
    | with_reducible assumption
    | with_reducible apply wgCodes_moves
    | (with_reducible apply MovesP.mk; with_reducible apply wgCodes_moves)
    | with_reducible apply noBucket_moves
    | with_reducible apply toEngines_moves
    | with_reducible apply sendAccum_moves
    | with_reducible apply finCmd_moves
    | with_reducible apply modTile_moves
    | with_reducible apply count_moves
    | with_reducible apply Moves.ite
    | with_reducible apply Moves.foldl
    | with_reducible apply Moves.ite_fst
    | with_reducible apply Moves.ite_snd
    | with_reducible apply Moves.foldl_fst
    | with_reducible apply Moves.foldl_snd
    | intro _
    | split
    | dsimp only)

theorem areaCodes_moves {l' : List Part} {s' : State} (s : State) (m : Nat) (bf16 : Bool) (ws : List Word) (h' : Moves l' s' s) (hl' : Part.Sub [.regs] l') : Moves l' s' (areaCodes s m bf16 ws).2 := by
  refine Moves.chain ?_ hl' h'
  clear h' hl'
  refine MovesP.h (p := areaCodes s m bf16 ws) ?_
  unfold areaCodes
  try dsimp only
  repeat' (first
    | ((with_reducible apply Part.Sub.mk); rfl)
    | with_reducible apply MovesP.of_mk
    | with_reducible apply MovesP.ite
    | with_reducible apply Moves.refl
    | with_reducible assumption
    | with_reducible apply mcDraws_moves
    | with_reducible apply countCnv_moves
    | with_reducible apply Moves.ite
    | with_reducible apply Moves.ite_fst
    | with_reducible apply Moves.ite_snd
    | intro _
    | split
    | dsimp only)

theorem sendArea_moves {l' : List Part} {s' : State} (s : State) (g : GBkt) (ver samples : Nat) (h' : Moves l' s' s) (hl' : Part.Sub [.regs, .mcs, .owlFifo, .accSent, .localRx, .ports] l') : Moves l' s' (sendArea s g ver samples) := by
  refine Moves.chain ?_ hl' h'
  clear h' hl'
  unfold sendArea
  try dsimp only
  repeat' (first
    | ((with_reducible apply Part.Sub.mk); rfl)
    | with_reducible apply Moves.refl
    | with_reducible assumption
    | with_reducible apply areaCodes_moves
    | (with_reducible apply MovesP.mk; with_reducible apply areaCodes_moves)
    | with_reducible apply sendAccum_moves
    | with_reducible apply readChecked_moves
    | with_reducible apply modMc_moves
    | with_reducible apply Moves.ite
    | with_reducible apply Moves.foldl
    | with_reducible apply Moves.ite_fst
    | with_reducible apply Moves.ite_snd
    | with_reducible apply Moves.foldl_fst
    | with_reducible apply Moves.foldl_snd
    | intro _
    | split
    | dsimp only)

theorem runXclose_moves {l' : List Part} {s' : State} (s : State) (n : Nat) (i : Issued) (o : XcloseOp) (h' : Moves l' s' s) (hl' : Part.Sub [.regs, .tiles, .mcs, .owlFifo, .accSent, .localRx, .ports] l') : Moves l' s' (runXclose s n i o) := by
  refine Moves.chain ?_ hl' h'
  clear h' hl'
  unfold runXclose
  try dsimp only
  repeat' (first
    | ((with_reducible apply Part.Sub.mk); rfl)
    | with_reducible apply Moves.refl
    | with_reducible assumption
    | with_reducible apply sendArea_moves
    | with_reducible apply noBucket_moves
    | with_reducible apply putSent_moves
    | with_reducible apply sendUnicast_moves
    | with_reducible apply finCmd_moves
    | with_reducible apply Moves.ite
    | intro _
    | split
    | dsimp only)

theorem runMissue_moves {l' : List Part} {s' : State} (s : State) (n : Nat) (i : Issued) (bucket : Nat) (h' : Moves l' s' s) (hl' : Part.Sub [.regs, .hbm, .tiles, .mcs, .owlFifo] l') : Moves l' s' (runMissue s n i bucket) := by
  refine Moves.chain ?_ hl' h'
  clear h' hl'
  unfold runMissue
  try dsimp only
  repeat' (first
    | ((with_reducible apply Part.Sub.mk); rfl)
    | with_reducible apply Moves.refl
    | with_reducible assumption
    | with_reducible apply armAt_moves
    | with_reducible apply finCmd_moves
    | with_reducible apply Moves.foldl
    | intro _
    | split
    | dsimp only)

theorem grpWrite_moves {l' : List Part} {s' : State} (s : State) (m group reg : Nat) (w : Word) (h' : Moves l' s' s) (hl' : Part.Sub [.mcs] l') : Moves l' s' (grpWrite s m group reg w) := by
  refine Moves.chain ?_ hl' h'
  clear h' hl'
  unfold grpWrite
  try dsimp only
  repeat' (first
    | ((with_reducible apply Part.Sub.mk); rfl)
    | with_reducible apply Moves.refl
    | with_reducible assumption
    | with_reducible apply modMc_moves
    | with_reducible apply Moves.ite
    | intro _
    | split
    | dsimp only)

theorem runGrpupd_moves {l' : List Part} {s' : State} (s : State) (n : Nat) (i : Issued) (o : GrpupdOp) (h' : Moves l' s' s) (hl' : Part.Sub [.tiles, .mcs] l') : Moves l' s' (runGrpupd s n i o) := by
  refine Moves.chain ?_ hl' h'
  clear h' hl'
  unfold runGrpupd
  try dsimp only
  repeat' (first
    | ((with_reducible apply Part.Sub.mk); rfl)
    | with_reducible apply Moves.refl
    | with_reducible assumption
    | with_reducible apply grpWrite_moves
    | with_reducible apply finCmd_moves
    | with_reducible apply Moves.foldl
    | with_reducible apply Moves.foldl_fst
    | with_reducible apply Moves.foldl_snd
    | intro _
    | dsimp only)

end Sys2Proof.Machine
end

