-- ==== Sys2Proof/Laws/Moves/Exchange.lean ====
section
/-! SUPPORT. What the functions of Machine/Exchange.lean touch. -/

namespace Sys2Proof.Machine

theorem acceptInto_moves {l' : List Part} {s' : State} (s : State) (g : GBkt) (o : OBkt) (c : Contrib) (samples : Nat) (isClose : Bool) (b : List Byte) (h' : Moves l' s' s) (hl' : Part.Sub [.regs, .hbm, .mcs, .owlFifo, .obkts, .fwEvents] l') : Moves l' s' (acceptInto s g o c samples isClose b) := by
  refine Moves.chain ?_ hl' h'
  clear h' hl'
  unfold acceptInto
  try dsimp only
  repeat' (first
    | ((with_reducible apply Part.Sub.mk); rfl)
    | with_reducible apply Moves.refl
    | with_reducible assumption
    | with_reducible apply toEngines_moves
    | with_reducible apply judgeStep_moves
    | with_reducible apply modO_moves
    | with_reducible apply Moves.ite
    | intro _
    | split
    | dsimp only)

theorem contribute_moves {l' : List Part} {s' : State} (s : State) (b : List Byte) (isClose : Bool) (h' : Moves l' s' s) (hl' : Part.Sub [.regs, .hbm, .mcs, .owlFifo, .obkts, .fwEvents] l') : Moves l' s' (contribute s b isClose) := by
  refine Moves.chain ?_ hl' h'
  clear h' hl'
  unfold contribute
  try dsimp only
  repeat' (first
    | ((with_reducible apply Part.Sub.mk); rfl)
    | with_reducible apply Moves.refl
    | with_reducible assumption
    | with_reducible apply acceptInto_moves
    | with_reducible apply raiseBit_moves
    | with_reducible apply count_moves
    | with_reducible apply Moves.ite
    | intro _
    | split
    | dsimp only)

theorem onPacket_moves {l' : List Part} {s' : State} (s : State) (p kind : Nat) (wait : List Byte → Bool) (ver : List Byte → Nat)
    (go : State → List Byte → State) (h' : Moves l' s' s) (hl' : Part.Sub [.regs, .owlFifo, .localRx, .ports] l')
    (hgo : ∀ v b, Moves l' s' v → Moves l' s' (go v b)) : Moves l' s' (onPacket s p kind wait ver go) := by
  unfold onPacket
  refine Moves.ite (fun _ => h') fun _ => ?_
  split
  · exact h'
  · rename_i b s1 he
    have h1 : Moves l' s' s1 := takeLocal_moves s p _ he h' (.trans (l2 := [.regs, .owlFifo, .localRx, .ports]) ⟨rfl⟩ hl')
    have h2 : Moves l' s' (destCheck s1 p b (ver b)).2 := destCheck_moves s1 p b (ver b) h1 (.trans (l2 := [.regs, .owlFifo, .localRx, .ports]) ⟨rfl⟩ hl')
    dsimp only
    exact Moves.ite (fun _ => h') fun _ => Moves.ite (fun _ => hgo _ _ h2) fun _ => h2


theorem publish_moves {l' : List Part} {s' : State} (s : State) (bucket : Nat) (h' : Moves l' s' s) (hl' : Part.Sub [.regs, .hbm, .mcs, .owlFifo, .obkts, .localRx, .ports, .fwEvents] l') : Moves l' s' (publish s bucket) := by
  refine Moves.chain ?_ hl' h'
  clear h' hl'
  unfold publish
  try dsimp only
  repeat' (first
    | ((with_reducible apply Part.Sub.mk); rfl)
    | with_reducible apply Moves.refl
    | with_reducible assumption
    | with_reducible apply becameOpen_moves
    | with_reducible apply modO_moves
    | with_reducible apply sendTree_moves
    | with_reducible apply count_moves
    | with_reducible apply Moves.ite
    | with_reducible apply Moves.foldl
    | intro _
    | split
    | dsimp only)

theorem modR_moves {l' : List Part} {s' : State} (s : State) (bucket : Nat) (f : RBkt → RBkt) (h' : Moves l' s' s) (hl' : Part.Sub [.rbkts] l') : Moves l' s' (modR s bucket f) := by
  refine Moves.chain ?_ hl' h'
  clear h' hl'
  unfold modR
  try dsimp only
  repeat' (first
    | ((with_reducible apply Part.Sub.mk); rfl)
    | with_reducible apply Moves.refl
    | with_reducible assumption
    | with_reducible apply Moves.ite
    | intro _
    | split
    | dsimp only
    | with_reducible apply Moves.set_rbkts)

theorem receiveBlock_moves {l' : List Part} {s' : State} (s : State) (b : List Byte) (h' : Moves l' s' s) (hl' : Part.Sub [.regs, .hbm, .mcs, .owlFifo, .rbkts] l') : Moves l' s' (receiveBlock s b) := by
  refine Moves.chain ?_ hl' h'
  clear h' hl'
  unfold receiveBlock
  try dsimp only
  repeat' (first
    | ((with_reducible apply Part.Sub.mk); rfl)
    | with_reducible apply Moves.refl
    | with_reducible assumption
    | with_reducible apply modR_moves
    | with_reducible apply memWrite_moves
    | with_reducible apply raiseBit_moves
    | with_reducible apply count_moves
    | with_reducible apply Moves.ite
    | intro _
    | split
    | dsimp only)

theorem resendFail_moves {l' : List Part} {s' : State} (s : State) (bucket v : Nat) (h' : Moves l' s' s) (hl' : Part.Sub [.regs, .owlFifo, .rbkts, .fwEvents] l') : Moves l' s' (resendFail s bucket v) := by
  refine Moves.chain ?_ hl' h'
  clear h' hl'
  unfold resendFail
  try dsimp only
  repeat' (first
    | ((with_reducible apply Part.Sub.mk); rfl)
    | with_reducible apply Moves.refl
    | with_reducible assumption
    | with_reducible apply modR_moves
    | with_reducible apply raiseNamed_moves
    | with_reducible apply count_moves
    | with_reducible apply Moves.ite
    | intro _
    | split
    | dsimp only)

theorem serveResend_moves {l' : List Part} {s' : State} (s : State) (b : List Byte) (h' : Moves l' s' s) (hl' : Part.Sub [.regs, .localRx, .ports] l') : Moves l' s' (serveResend s b) := by
  refine Moves.chain ?_ hl' h'
  clear h' hl'
  unfold serveResend
  try dsimp only
  repeat' (first
    | ((with_reducible apply Part.Sub.mk); rfl)
    | with_reducible apply Moves.refl
    | with_reducible assumption
    | with_reducible apply sendUnicast_moves
    | with_reducible apply Moves.ite
    | with_reducible apply Moves.foldl
    | with_reducible apply Moves.ite_fst
    | with_reducible apply Moves.ite_snd
    | with_reducible apply Moves.foldl_fst
    | with_reducible apply Moves.foldl_snd
    | intro _
    | split
    | dsimp only)

theorem resendTimeout_moves {l' : List Part} {s' : State} (s : State) (bucket v : Nat) (h' : Moves l' s' s) (hl' : Part.Sub [.regs, .owlFifo, .rbkts, .localRx, .ports, .fwEvents] l') : Moves l' s' (resendTimeout s bucket v) := by
  refine Moves.chain ?_ hl' h'
  clear h' hl'
  unfold resendTimeout
  try dsimp only
  repeat' (first
    | ((with_reducible apply Part.Sub.mk); rfl)
    | with_reducible apply Moves.refl
    | with_reducible assumption
    | with_reducible apply resendFail_moves
    | with_reducible apply modR_moves
    | with_reducible apply sendUnicast_moves
    | with_reducible apply count_moves
    | with_reducible apply Moves.ite
    | intro _
    | split
    | dsimp only)

theorem confirmUp_moves {l' : List Part} {s' : State} (a0' : Nat) (a1' : State) (h' : Moves l' s' a1') (hl' : Part.Sub [.regs] l') : Moves l' s' (confirmUp a0' a1') := by
  induction a0' generalizing a1' with
  | zero => exact h'
  | succ k ih =>
    unfold confirmUp
    try dsimp only
    repeat' (first
      | ((with_reducible refine Part.Sub.trans (l2 := [.regs]) (Part.Sub.mk ?_) hl'); rfl)
      | with_reducible apply ih
      | with_reducible apply Moves.refl
      | with_reducible assumption
      | with_reducible apply setFld_moves
      | with_reducible apply Moves.ite
      | with_reducible apply Moves.foldl
      | intro _
      | split
      | dsimp only)

theorem confirm_moves {l' : List Part} {s' : State} (s : State) (h' : Moves l' s' s) (hl' : Part.Sub [.regs] l') : Moves l' s' (confirm s) := by
  refine Moves.chain ?_ hl' h'
  clear h' hl'
  unfold confirm
  try dsimp only
  repeat' (first
    | ((with_reducible apply Part.Sub.mk); rfl)
    | with_reducible apply Moves.refl
    | with_reducible assumption
    | with_reducible apply confirmUp_moves
    | intro _
    | dsimp only)

theorem commitNoticeSend_moves {l' : List Part} {s' : State} (s : State) (bucket : Nat) (h' : Moves l' s' s) (hl' : Part.Sub [.regs, .obkts, .localRx, .ports] l') : Moves l' s' (commitNoticeSend s bucket) := by
  refine Moves.chain ?_ hl' h'
  clear h' hl'
  unfold commitNoticeSend
  try dsimp only
  repeat' (first
    | ((with_reducible apply Part.Sub.mk); rfl)
    | with_reducible apply Moves.refl
    | with_reducible assumption
    | with_reducible apply modO_moves
    | with_reducible apply sendTree_moves
    | with_reducible apply Moves.ite
    | intro _
    | split
    | dsimp only)

end Sys2Proof.Machine
end

