-- ==== Sys2Proof/Laws/Moves/Regs.lean ====
section
/-! SUPPORT. What the functions of Machine/Regs.lean touch. -/

namespace Sys2Proof.Machine

theorem dropLatch_moves {l' : List Part} {s' : State} (s : State) (k : Nat) (h' : Moves l' s' s) (hl' : Part.Sub [.latches] l') : Moves l' s' (dropLatch s k) := by
  refine Moves.chain ?_ hl' h'
  clear h' hl'
  unfold dropLatch
  try dsimp only
  repeat' (first
    | ((with_reducible apply Part.Sub.mk); rfl)
    | with_reducible apply Moves.refl
    | with_reducible assumption
    | intro _
    | dsimp only
    | with_reducible apply Moves.set_latches)

theorem regWrite_moves {l' : List Part} {s' : State} (s : State) (k : Nat) (v : Word) (h' : Moves l' s' s) (hl' : Part.Sub [.regs, .latches] l') : Moves l' s' (regWrite s k v) := by
  refine Moves.chain ?_ hl' h'
  clear h' hl'
  unfold regWrite
  try dsimp only
  repeat' (first
    | ((with_reducible apply Part.Sub.mk); rfl)
    | with_reducible apply Moves.refl
    | with_reducible assumption
    | with_reducible apply dropLatch_moves
    | with_reducible apply wrReg_moves
    | with_reducible apply Moves.ite
    | intro _
    | split
    | dsimp only)

theorem regWrite64_moves {l' : List Part} {s' : State} (s : State) (k v : Nat) (h' : Moves l' s' s) (hl' : Part.Sub [.regs, .latches] l') : Moves l' s' (regWrite64 s k v) := by
  refine Moves.chain ?_ hl' h'
  clear h' hl'
  unfold regWrite64
  try dsimp only
  repeat' (first
    | ((with_reducible apply Part.Sub.mk); rfl)
    | with_reducible apply Moves.refl
    | with_reducible assumption
    | with_reducible apply regWrite_moves
    | dsimp only)

end Sys2Proof.Machine
end

