-- ==== Sys2Proof/Laws/Moves/Activate.lean ====
section
/-! SUPPORT. What the functions of Machine/Activate.lean touch. -/

namespace Sys2Proof.Machine

theorem setAdmit_moves {l' : List Part} {s' : State} (s : State) (p adm reason : Nat) (h' : Moves l' s' s) (hl' : Part.Sub [.regs, .owlFifo, .ports] l') : Moves l' s' (setAdmit s p adm reason) := by
  refine Moves.chain ?_ hl' h'
  clear h' hl'
  unfold setAdmit
  try dsimp only
  repeat' (first
    | ((with_reducible apply Part.Sub.mk); rfl)
    | with_reducible apply Moves.refl
    | with_reducible assumption
    | with_reducible apply modPort_moves
    | with_reducible apply raiseBit_moves
    | with_reducible apply count_moves
    | with_reducible apply setFld_moves
    | with_reducible apply Moves.ite
    | intro _
    | split
    | dsimp only)

theorem judgePort_moves {l' : List Part} {s' : State} (s : State) (p : Nat) (digest : List Byte) (h' : Moves l' s' s) (hl' : Part.Sub [.regs, .owlFifo, .ports] l') : Moves l' s' (judgePort s p digest) := by
  refine Moves.chain ?_ hl' h'
  clear h' hl'
  unfold judgePort
  try dsimp only
  repeat' (first
    | ((with_reducible apply Part.Sub.mk); rfl)
    | with_reducible apply Moves.refl
    | with_reducible assumption
    | with_reducible apply setAdmit_moves
    | intro _
    | split
    | dsimp only)

theorem digestArrived_moves {l' : List Part} {s' : State} (s : State) (p step : Nat) (digest : List Byte) (h' : Moves l' s' s) (hl' : Part.Sub [.regs, .owlFifo, .ports] l') : Moves l' s' (digestArrived s p step digest) := by
  refine Moves.chain ?_ hl' h'
  clear h' hl'
  unfold digestArrived
  try dsimp only
  repeat' (first
    | ((with_reducible apply Part.Sub.mk); rfl)
    | with_reducible apply Moves.refl
    | with_reducible assumption
    | with_reducible apply judgePort_moves
    | with_reducible apply modPort_moves
    | with_reducible apply Moves.ite
    | intro _
    | split
    | dsimp only)

theorem activatePort_moves {l' : List Part} {s' : State} (s : State) (A : Nat) (p : Nat) (h' : Moves l' s' s) (hl' : Part.Sub [.regs, .owlFifo, .ports] l') : Moves l' s' (activatePort s A p) := by
  refine Moves.chain ?_ hl' h'
  clear h' hl'
  unfold activatePort
  try dsimp only
  repeat' (first
    | ((with_reducible apply Part.Sub.mk); rfl)
    | with_reducible apply Moves.refl
    | with_reducible assumption
    | with_reducible apply digestArrived_moves
    | with_reducible apply modPort_moves
    | with_reducible apply Moves.ite
    | with_reducible apply Moves.ite_fst
    | with_reducible apply Moves.ite_snd
    | intro _
    | split
    | dsimp only)

theorem writeTable_moves {l' : List Part} {s' : State} (s : State) (owned : List GBkt) (m : Nat) (h' : Moves l' s' s) (hl' : Part.Sub [.regs, .hbm, .mcs] l') : Moves l' s' (writeTable s owned m) := by
  refine Moves.chain ?_ hl' h'
  clear h' hl'
  unfold writeTable
  try dsimp only
  repeat' (first
    | ((with_reducible apply Part.Sub.mk); rfl)
    | with_reducible apply Moves.refl
    | with_reducible assumption
    | with_reducible apply localWrite_moves
    | with_reducible apply setFld_moves
    | intro _
    | dsimp only)

theorem writeGroups_moves {l' : List Part} {s' : State} (s : State) (c : CfgSet) (h' : Moves l' s' s) (hl' : Part.Sub [.regs, .mcs] l') : Moves l' s' (writeGroups s c) := by
  refine Moves.chain ?_ hl' h'
  clear h' hl'
  unfold writeGroups
  try dsimp only
  repeat' (first
    | ((with_reducible apply Part.Sub.mk); rfl)
    | with_reducible apply Moves.refl
    | with_reducible assumption
    | with_reducible apply modMc_moves
    | with_reducible apply wrReg_moves
    | with_reducible apply Moves.foldl
    | with_reducible apply Moves.foldl_fst
    | with_reducible apply Moves.foldl_snd
    | intro _
    | dsimp only)

theorem writeArrCtrl_moves {l' : List Part} {s' : State} (s : State) (n a : Nat) (w : Word) (h' : Moves l' s' s) (hl' : Part.Sub [.regs, .latches] l') : Moves l' s' (writeArrCtrl s n a w) := by
  refine Moves.chain ?_ hl' h'
  clear h' hl'
  unfold writeArrCtrl
  try dsimp only
  repeat' (first
    | ((with_reducible apply Part.Sub.mk); rfl)
    | with_reducible apply Moves.refl
    | with_reducible assumption
    | with_reducible apply regWrite_moves
    | with_reducible apply setBit_moves
    | dsimp only)

theorem writeRegs_moves {l' : List Part} {s' : State} (s : State) (base : Nat) (fs : List Fld) (ws : List Word) (h' : Moves l' s' s) (hl' : Part.Sub [.regs, .latches] l') : Moves l' s' (writeRegs s base fs ws) := by
  refine Moves.chain ?_ hl' h'
  clear h' hl'
  unfold writeRegs
  try dsimp only
  repeat' (first
    | ((with_reducible apply Part.Sub.mk); rfl)
    | with_reducible apply Moves.refl
    | with_reducible assumption
    | with_reducible apply regWrite_moves
    | with_reducible apply Moves.foldl
    | with_reducible apply Moves.foldl_fst
    | with_reducible apply Moves.foldl_snd
    | intro _
    | dsimp only)

theorem writePolicies_moves {l' : List Part} {s' : State} (s : State) (c : CfgSet) (n : Nat) (h' : Moves l' s' s) (hl' : Part.Sub [.regs, .latches] l') : Moves l' s' (writePolicies s c n) := by
  refine Moves.chain ?_ hl' h'
  clear h' hl'
  unfold writePolicies
  try dsimp only
  repeat' (first
    | ((with_reducible apply Part.Sub.mk); rfl)
    | with_reducible apply Moves.refl
    | with_reducible assumption
    | with_reducible apply writeRegs_moves
    | with_reducible apply writeArrCtrl_moves
    | with_reducible apply regWrite_moves
    | with_reducible apply Moves.foldl
    | intro _
    | dsimp only)

theorem drained_moves {l' : List Part} {s' : State} (s : State) (c : CfgSet) (h' : Moves l' s' s) (hl' : Part.Sub [.regs, .tiles, .fwEvents] l') : Moves l' s' (drained s c) := by
  refine Moves.chain ?_ hl' h'
  clear h' hl'
  unfold drained
  try dsimp only
  repeat' (first
    | ((with_reducible apply Part.Sub.mk); rfl)
    | with_reducible apply Moves.refl
    | with_reducible assumption
    | with_reducible apply seqRun_moves
    | with_reducible apply pushEv_moves
    | with_reducible apply setFld_moves
    | with_reducible apply Moves.ite
    | with_reducible apply Moves.foldl
    | intro _
    | split
    | dsimp only)

theorem beginUpdate_moves {l' : List Part} {s' : State} (s : State) (c : CfgSet) (h' : Moves l' s' s) (hl' : Part.Sub [.regs, .sec] l') : Moves l' s' (beginUpdate s c) := by
  refine Moves.chain ?_ hl' h'
  clear h' hl'
  unfold beginUpdate
  try dsimp only
  repeat' (first
    | ((with_reducible apply Part.Sub.mk); rfl)
    | with_reducible apply Moves.refl
    | with_reducible assumption
    | with_reducible apply setFld_moves
    | with_reducible apply Moves.ite
    | intro _
    | split
    | dsimp only
    | with_reducible apply Moves.set_sec)

theorem activate_moves {l' : List Part} {s' : State} (s : State) (c : CfgSet) (A : Nat) (h' : Moves l' s' s) (hl' : Part.Sub [.regs, .latches, .hbm, .tiles, .mcs, .owlFifo, .cfg, .staged, .prevTag, .actAt, .obkts, .rbkts, .localRx, .ports, .fwEvents, .sec] l') : Moves l' s' (activate s c A) := by
  refine Moves.chain ?_ hl' h'
  clear h' hl'
  unfold activate
  try dsimp only
  repeat' (first
    | ((with_reducible apply Part.Sub.mk); rfl)
    | with_reducible apply Moves.refl
    | with_reducible assumption
    | with_reducible apply beginUpdate_moves
    | with_reducible apply drained_moves
    | with_reducible apply writePolicies_moves
    | with_reducible apply writeRegs_moves
    | with_reducible apply writeGroups_moves
    | with_reducible apply writeTable_moves
    | with_reducible apply activatePort_moves
    | with_reducible apply becameOpen_moves
    | with_reducible apply setFld_moves
    | with_reducible apply wrReg_moves
    | with_reducible apply Moves.foldl
    | with_reducible apply Moves.foldl_fst
    | with_reducible apply Moves.foldl_snd
    | intro _
    | dsimp only
    | with_reducible apply Moves.set_cfg_staged_prevTag_actAt_obkts_rbkts)

theorem activateAt_moves {l' : List Part} {s' : State} (s : State) (v : Nat) (h' : Moves l' s' s) (hl' : Part.Sub [.regs, .latches, .hbm, .tiles, .mcs, .owlFifo, .cfg, .staged, .prevTag, .actAt, .obkts, .rbkts, .localRx, .ports, .fwEvents, .sec] l') : Moves l' s' (activateAt s v) := by
  refine Moves.chain ?_ hl' h'
  clear h' hl'
  unfold activateAt
  try dsimp only
  repeat' (first
    | ((with_reducible apply Part.Sub.mk); rfl)
    | with_reducible apply Moves.refl
    | with_reducible assumption
    | with_reducible apply activate_moves
    | with_reducible apply Moves.ite
    | intro _
    | split
    | dsimp only)

theorem passOn_moves {l' : List Part} {s' : State} (a0' : Nat) (a1' : State) (h' : Moves l' s' a1') (hl' : Part.Sub [.regs, .latches, .hbm, .tiles, .mcs, .owlFifo, .cfg, .staged, .prevTag, .actAt, .obkts, .rbkts, .localRx, .doneV, .ports, .fwEvents, .sec] l') : Moves l' s' (passOn a0' a1') := by
  induction a0' generalizing a1' with
  | zero => exact h'
  | succ k ih =>
    unfold passOn
    try dsimp only
    repeat' (first
      | ((with_reducible refine Part.Sub.trans (l2 := [.regs, .latches, .hbm, .tiles, .mcs, .owlFifo, .cfg, .staged, .prevTag, .actAt, .obkts, .rbkts, .localRx, .doneV, .ports, .fwEvents, .sec]) (Part.Sub.mk ?_) hl'); rfl)
      | with_reducible apply ih
      | with_reducible apply Moves.refl
      | with_reducible assumption
      | with_reducible apply activateAt_moves
      | with_reducible apply Moves.ite
      | with_reducible apply Moves.ite_fst
      | with_reducible apply Moves.ite_snd
      | intro _
      | split
      | dsimp only
      | with_reducible apply Moves.set_doneV)

theorem passAll_moves {l' : List Part} {s' : State} (s : State) (h' : Moves l' s' s) (hl' : Part.Sub [.regs, .latches, .hbm, .tiles, .mcs, .owlFifo, .cfg, .staged, .prevTag, .actAt, .obkts, .rbkts, .localRx, .doneV, .ports, .fwEvents, .sec] l') : Moves l' s' (passAll s) := by
  refine Moves.chain ?_ hl' h'
  clear h' hl'
  unfold passAll
  try dsimp only
  repeat' (first
    | ((with_reducible apply Part.Sub.mk); rfl)
    | with_reducible apply Moves.refl
    | with_reducible assumption
    | with_reducible apply passOn_moves
    | dsimp only)

theorem wideStep_moves {l' : List Part} {s' : State} (s : State) (v : Nat) (h' : Moves l' s' s) (hl' : Part.Sub [.tiles, .fwEvents] l') : Moves l' s' (wideStep s v) := by
  refine Moves.chain ?_ hl' h'
  clear h' hl'
  unfold wideStep
  try dsimp only
  repeat' (first
    | ((with_reducible apply Part.Sub.mk); rfl)
    | with_reducible apply Moves.refl
    | with_reducible assumption
    | with_reducible apply pushEv_moves
    | with_reducible apply modTile_moves
    | with_reducible apply Moves.ite
    | with_reducible apply Moves.foldl
    | intro _
    | split
    | dsimp only)

theorem stepCommit_moves {l' : List Part} {s' : State} (s : State) (h' : Moves l' s' s) (hl' : Part.Sub [.regs, .latches, .hbm, .tiles, .mcs, .owlFifo, .cfg, .staged, .prevTag, .actAt, .obkts, .rbkts, .localRx, .doneV, .csFails, .failWins, .ports, .fwEvents, .sec] l') : Moves l' s' (stepCommit s) := by
  refine Moves.chain ?_ hl' h'
  clear h' hl'
  unfold stepCommit
  try dsimp only
  repeat' (first
    | ((with_reducible apply Part.Sub.mk); rfl)
    | with_reducible apply Moves.refl
    | with_reducible assumption
    | with_reducible apply wideStep_moves
    | with_reducible apply passAll_moves
    | with_reducible apply activateAt_moves
    | with_reducible apply windowsCommit_moves
    | with_reducible apply pushEv_moves
    | with_reducible apply count_moves
    | with_reducible apply setFld_moves
    | with_reducible apply Moves.ite
    | intro _
    | split
    | dsimp only
    | with_reducible apply Moves.set_doneV)

theorem supersedeRx_moves {l' : List Part} {s' : State} (s : State) (b : List Byte) (h' : Moves l' s' s) (hl' : Part.Sub [.regs, .latches, .hbm, .tiles, .mcs, .owlFifo, .cfg, .staged, .prevTag, .actAt, .obkts, .rbkts, .localRx, .passed, .doneV, .ports, .fwEvents, .sec] l') : Moves l' s' (supersedeRx s b) := by
  refine Moves.chain ?_ hl' h'
  clear h' hl'
  unfold supersedeRx
  try dsimp only
  repeat' (first
    | ((with_reducible apply Part.Sub.mk); rfl)
    | with_reducible apply Moves.refl
    | with_reducible assumption
    | with_reducible apply passAll_moves
    | with_reducible apply confirm_moves
    | with_reducible apply modR_moves
    | with_reducible apply taintLedger_moves
    | with_reducible apply raiseNamed_moves
    | with_reducible apply count_moves
    | with_reducible apply Moves.ite
    | intro _
    | split
    | dsimp only
    | with_reducible apply Moves.set_passed)

theorem windowFail_moves {l' : List Part} {s' : State} (s : State) (n vlo vhi : Nat) (h' : Moves l' s' s) (hl' : Part.Sub [.regs, .hbm, .tiles, .mcs, .owlFifo, .taints, .suspects, .obkts, .localRx, .ports, .fwEvents] l') : Moves l' s' (windowFail s n vlo vhi) := by
  refine Moves.chain ?_ hl' h'
  clear h' hl'
  unfold windowFail
  try dsimp only
  repeat' (first
    | ((with_reducible apply Part.Sub.mk); rfl)
    | with_reducible apply Moves.refl
    | with_reducible assumption
    | with_reducible apply supersede_moves
    | with_reducible apply taintLedger_moves
    | with_reducible apply detect_moves
    | with_reducible apply suspect_moves
    | with_reducible apply pushEv_moves
    | with_reducible apply Moves.ite
    | with_reducible apply Moves.foldl
    | intro _
    | split
    | dsimp only)

end Sys2Proof.Machine
end

