-- ==== Sys2Proof/Laws/Moves/Events.lean ====
section
/-! SUPPORT. What the functions of Machine/Events.lean touch. -/

namespace Sys2Proof.Machine

theorem raiseVec_moves {l' : List Part} {s' : State} (s : State) (v : Nat) (h' : Moves l' s' s) (hl' : Part.Sub [.out, .msixPend] l') : Moves l' s' (raiseVec s v) := by
  refine Moves.chain ?_ hl' h'
  clear h' hl'
  unfold raiseVec
  try dsimp only
  repeat' (first
    | ((with_reducible apply Part.Sub.mk); rfl)
    | with_reducible apply Moves.refl
    | with_reducible assumption
    | with_reducible apply Moves.ite
    | intro _
    | with_reducible apply List.prefix_append
    | with_reducible apply List.prefix_refl
    | split
    | dsimp only
    | with_reducible apply Moves.set_msixPend
    | with_reducible apply Moves.set_out
    | exact List.prefix_append _ _
    | exact (List.prefix_append _ _).trans (List.prefix_append _ _))

theorem msixWrite_moves {l' : List Part} {s' : State} (s : State) (i : Nat) (w : Word) (h' : Moves l' s' s) (hl' : Part.Sub [.out, .msix, .msixPend] l') : Moves l' s' (msixWrite s i w) := by
  refine Moves.chain ?_ hl' h'
  clear h' hl'
  unfold msixWrite
  try dsimp only
  repeat' (first
    | ((with_reducible apply Part.Sub.mk); rfl)
    | with_reducible apply Moves.refl
    | with_reducible assumption
    | with_reducible apply raiseVec_moves
    | with_reducible apply Moves.ite
    | intro _
    | with_reducible apply swf_sset
    | split
    | dsimp only
    | with_reducible apply Moves.set_msix
    | with_reducible apply Moves.set_msix_msixPend
    | with_reducible apply Moves.set_msixPend)

theorem modEvq_moves {l' : List Part} {s' : State} (s : State) (q : Nat) (f : EvqState → EvqState) (h' : Moves l' s' s) (hl' : Part.Sub [.evqs] l') : Moves l' s' (modEvq s q f) := by
  refine Moves.chain ?_ hl' h'
  clear h' hl'
  unfold modEvq
  try dsimp only
  repeat' (first
    | ((with_reducible apply Part.Sub.mk); rfl)
    | with_reducible apply Moves.refl
    | with_reducible assumption
    | intro _
    | with_reducible apply swf_sset
    | dsimp only
    | with_reducible apply Moves.set_evqs)

theorem evqSignal_moves {l' : List Part} {s' : State} (s : State) (q : Nat) (h' : Moves l' s' s) (hl' : Part.Sub [.out, .evqs, .msixPend] l') : Moves l' s' (evqSignal s q) := by
  refine Moves.chain ?_ hl' h'
  clear h' hl'
  unfold evqSignal
  try dsimp only
  repeat' (first
    | ((with_reducible apply Part.Sub.mk); rfl)
    | with_reducible apply Moves.refl
    | with_reducible assumption
    | with_reducible apply modEvq_moves
    | with_reducible apply raiseVec_moves
    | with_reducible apply Moves.ite
    | intro _
    | split
    | dsimp only)

theorem evqArm_moves {l' : List Part} {s' : State} (s : State) (q left : Nat) (h' : Moves l' s' s) (hl' : Part.Sub [.out, .evqs, .msixPend] l') : Moves l' s' (evqArm s q left) := by
  refine Moves.chain ?_ hl' h'
  clear h' hl'
  unfold evqArm
  try dsimp only
  repeat' (first
    | ((with_reducible apply Part.Sub.mk); rfl)
    | with_reducible apply Moves.refl
    | with_reducible assumption
    | with_reducible apply evqSignal_moves
    | with_reducible apply modEvq_moves
    | with_reducible apply Moves.ite
    | intro _
    | split
    | dsimp only)

theorem evqPut_moves {l' : List Part} {s' : State} (s : State) (q : Nat) (rec : List Byte) (h' : Moves l' s' s) (hl' : Part.Sub [.regs, .out, .evqs, .msixPend] l') : Moves l' s' (evqPut s q rec) := by
  refine Moves.chain ?_ hl' h'
  clear h' hl'
  unfold evqPut
  try dsimp only
  repeat' (first
    | ((with_reducible apply Part.Sub.mk); rfl)
    | with_reducible apply Moves.refl
    | with_reducible assumption
    | with_reducible apply evqSignal_moves
    | with_reducible apply modEvq_moves
    | with_reducible apply count_moves
    | with_reducible apply setFld_moves
    | with_reducible apply Moves.ite
    | intro _
    | with_reducible apply List.prefix_append
    | with_reducible apply List.prefix_refl
    | split
    | dsimp only
    | with_reducible apply Moves.set_out
    | exact List.prefix_append _ _
    | exact (List.prefix_append _ _).trans (List.prefix_append _ _))

theorem evqOverflow_moves {l' : List Part} {s' : State} (s : State) (q : Nat) (h' : Moves l' s' s) (hl' : Part.Sub [.regs, .out, .evqs, .msixPend] l') : Moves l' s' (evqOverflow s q) := by
  refine Moves.chain ?_ hl' h'
  clear h' hl'
  unfold evqOverflow
  try dsimp only
  repeat' (first
    | ((with_reducible apply Part.Sub.mk); rfl)
    | with_reducible apply Moves.refl
    | with_reducible assumption
    | with_reducible apply evqPut_moves
    | with_reducible apply modEvq_moves
    | with_reducible apply Moves.ite
    | intro _
    | split
    | dsimp only)

theorem evqDrop_moves {l' : List Part} {s' : State} (s : State) (q : Nat) (h' : Moves l' s' s) (hl' : Part.Sub [.regs, .owlFifo, .evqs] l') : Moves l' s' (evqDrop s q) := by
  refine Moves.chain ?_ hl' h'
  clear h' hl'
  unfold evqDrop
  try dsimp only
  repeat' (first
    | ((with_reducible apply Part.Sub.mk); rfl)
    | with_reducible apply Moves.refl
    | with_reducible assumption
    | with_reducible apply modEvq_moves
    | with_reducible apply raiseBit_moves
    | with_reducible apply count_moves
    | with_reducible apply Moves.ite
    | intro _
    | split
    | dsimp only)

theorem evqWrite_moves {l' : List Part} {s' : State} (s : State) (q : Nat) (rec : List Byte) (h' : Moves l' s' s) (hl' : Part.Sub [.regs, .owlFifo, .out, .evqs, .msixPend] l') : Moves l' s' (evqWrite s q rec) := by
  refine Moves.chain ?_ hl' h'
  clear h' hl'
  unfold evqWrite
  try dsimp only
  repeat' (first
    | ((with_reducible apply Part.Sub.mk); rfl)
    | with_reducible apply Moves.refl
    | with_reducible assumption
    | with_reducible apply evqDrop_moves
    | with_reducible apply evqOverflow_moves
    | with_reducible apply evqPut_moves
    | with_reducible apply Moves.ite
    | intro _
    | split
    | dsimp only)

theorem writeEvent_moves {l' : List Part} {s' : State} (s : State) (cls : Nat) (rec : List Byte) (h' : Moves l' s' s) (hl' : Part.Sub [.regs, .owlFifo, .out, .evqs, .msixPend] l') : Moves l' s' (writeEvent s cls rec) := by
  refine Moves.chain ?_ hl' h'
  clear h' hl'
  unfold writeEvent
  try dsimp only
  repeat' (first
    | ((with_reducible apply Part.Sub.mk); rfl)
    | with_reducible apply Moves.refl
    | with_reducible assumption
    | with_reducible apply evqWrite_moves
    | with_reducible apply count_moves
    | with_reducible apply Moves.ite
    | with_reducible apply Moves.foldl
    | intro _
    | split
    | dsimp only)

theorem evqCfgWrite_moves {l' : List Part} {s' : State} (s : State) (q : Nat) (w : Word) (h' : Moves l' s' s) (hl' : Part.Sub [.regs, .latches, .out, .evqs, .msixPend] l') : Moves l' s' (evqCfgWrite s q w) := by
  refine Moves.chain ?_ hl' h'
  clear h' hl'
  unfold evqCfgWrite
  try dsimp only
  repeat' (first
    | ((with_reducible apply Part.Sub.mk); rfl)
    | with_reducible apply Moves.refl
    | with_reducible assumption
    | with_reducible apply evqArm_moves
    | with_reducible apply modEvq_moves
    | with_reducible apply regWrite_moves
    | with_reducible apply setFld_moves
    | with_reducible apply Moves.ite
    | intro _
    | split
    | dsimp only)

theorem evqHeadWrite_moves {l' : List Part} {s' : State} (s : State) (q v : Nat) (h' : Moves l' s' s) (hl' : Part.Sub [.regs, .owlFifo, .out, .evqs, .msixPend] l') : Moves l' s' (evqHeadWrite s q v) := by
  refine Moves.chain ?_ hl' h'
  clear h' hl'
  unfold evqHeadWrite
  try dsimp only
  repeat' (first
    | ((with_reducible apply Part.Sub.mk); rfl)
    | with_reducible apply Moves.refl
    | with_reducible assumption
    | with_reducible apply evqArm_moves
    | with_reducible apply raiseBit_moves
    | with_reducible apply setFld_moves
    | with_reducible apply Moves.ite
    | intro _
    | split
    | dsimp only)

theorem owlSend_moves {l' : List Part} {s' : State} (s : State) (h' : Moves l' s' s) (hl' : Part.Sub [.regs, .owlFifo, .fwEvents, .out, .owlNet] l') : Moves l' s' (owlSend s) := by
  refine Moves.chain ?_ hl' h'
  clear h' hl'
  unfold owlSend
  try dsimp only
  repeat' (first
    | ((with_reducible apply Part.Sub.mk); rfl)
    | with_reducible apply Moves.refl
    | with_reducible assumption
    | with_reducible apply raiseBit_moves
    | with_reducible apply count_moves
    | with_reducible apply Moves.ite
    | intro _
    | with_reducible apply List.prefix_append
    | with_reducible apply List.prefix_refl
    | split
    | dsimp only
    | with_reducible apply Moves.set_owlFifo_out_owlNet
    | with_reducible apply Moves.set_owlFifo_fwEvents_owlNet
    | exact List.prefix_append _ _
    | exact (List.prefix_append _ _).trans (List.prefix_append _ _))

theorem fwSend_moves {l' : List Part} {s' : State} (s : State) (rec : List Byte) (h' : Moves l' s' s) (hl' : Part.Sub [.freeCtr, .regs, .out, .fwNet] l') : Moves l' s' (fwSend s rec) := by
  refine Moves.chain ?_ hl' h'
  clear h' hl'
  unfold fwSend
  try dsimp only
  repeat' (first
    | ((with_reducible apply Part.Sub.mk); rfl)
    | with_reducible apply Moves.refl
    | with_reducible assumption
    | with_reducible apply nextFree_moves
    | (with_reducible apply MovesP.mk; with_reducible apply nextFree_moves)
    | with_reducible apply count_moves
    | with_reducible apply Moves.ite
    | with_reducible apply Moves.ite_fst
    | with_reducible apply Moves.ite_snd
    | intro _
    | with_reducible apply List.prefix_append
    | with_reducible apply List.prefix_refl
    | split
    | dsimp only
    | with_reducible apply Moves.set_fwNet
    | with_reducible apply Moves.set_out_fwNet
    | exact List.prefix_append _ _
    | exact (List.prefix_append _ _).trans (List.prefix_append _ _))

theorem composeRec_moves {l' : List Part} {s' : State} (s : State) (e : FwEvent) (h' : Moves l' s' s) (hl' : Part.Sub [.freeCtr, .regs, .owlFifo, .out, .evqs, .msixPend, .fwRecs, .fwNum, .fwNet] l') : Moves l' s' (composeRec s e) := by
  refine Moves.chain ?_ hl' h'
  clear h' hl'
  unfold composeRec
  try dsimp only
  repeat' (first
    | ((with_reducible apply Part.Sub.mk); rfl)
    | with_reducible apply Moves.refl
    | with_reducible assumption
    | with_reducible apply fwSend_moves
    | with_reducible apply writeEvent_moves
    | dsimp only
    | with_reducible apply Moves.set_fwRecs_fwNum)

theorem nextRaw_moves {l' : List Part} {s' : State} (s : State) {r : RawRec} {t : State} (he : nextRaw s = some (r, t))
    (h' : Moves l' s' s) (hl' : Part.Sub [.owlFifo, .fwRaw, .bdg] l') : Moves l' s' t := by
  refine Moves.chain ?_ hl' h'
  clear h' hl'
  unfold nextRaw at he
  split at he
  · cases he
    exact Moves.set_fwRaw (Moves.refl ..) ⟨rfl⟩
  · obtain ⟨q, _, hq⟩ := Option.map_eq_some_iff.1 he
    cases hq
    exact Moves.set_owlFifo (Moves.refl ..) ⟨rfl⟩


theorem fwCompose_moves {l' : List Part} {s' : State} (s : State) (raw : Bool) (h' : Moves l' s' s) (hl' : Part.Sub [.freeCtr, .regs, .owlFifo, .fwEvents, .out, .evqs, .msixPend, .fwRecs, .fwNum, .fwNet, .fwRaw, .bdg] l') :
    Moves l' s' (fwCompose s raw) := by
  unfold fwCompose
  refine Moves.ite (fun _ => h') fun _ => Moves.ite (fun _ => ?_) fun _ => ?_
  · split
    · rename_i r s1 he
      have h1 : Moves l' s' s1 := nextRaw_moves s he h' (.trans (l2 := [.freeCtr, .regs, .owlFifo, .fwEvents, .out, .evqs, .msixPend, .fwRecs, .fwNum, .fwNet, .fwRaw, .bdg]) ⟨rfl⟩ hl')
      refine Moves.ite (fun _ => Moves.foldl (Moves.set_fwEvents h1 (.trans (l2 := [.freeCtr, .regs, .owlFifo, .fwEvents, .out, .evqs, .msixPend, .fwRecs, .fwNum, .fwNet, .fwRaw, .bdg]) ⟨rfl⟩ hl')) fun _ _ h => composeRec_moves _ _ h (.trans (l2 := [.freeCtr, .regs, .owlFifo, .fwEvents, .out, .evqs, .msixPend, .fwRecs, .fwNum, .fwNet, .fwRaw, .bdg]) ⟨rfl⟩ hl')) fun _ => composeRec_moves _ _ h1 (.trans (l2 := [.freeCtr, .regs, .owlFifo, .fwEvents, .out, .evqs, .msixPend, .fwRecs, .fwNum, .fwNet, .fwRaw, .bdg]) ⟨rfl⟩ hl')
    · exact h'
  · split
    · exact composeRec_moves _ _ (Moves.set_fwEvents h' (.trans (l2 := [.freeCtr, .regs, .owlFifo, .fwEvents, .out, .evqs, .msixPend, .fwRecs, .fwNum, .fwNet, .fwRaw, .bdg]) ⟨rfl⟩ hl')) (.trans (l2 := [.freeCtr, .regs, .owlFifo, .fwEvents, .out, .evqs, .msixPend, .fwRecs, .fwNum, .fwNet, .fwRaw, .bdg]) ⟨rfl⟩ hl')
    · exact h'


end Sys2Proof.Machine
end

