-- ==== Sys2Proof/Laws/Moves/Badger.lean ====
section
/-! SUPPORT. What the functions of Machine/Badger.lean touch. -/

namespace Sys2Proof.Machine

theorem modBdg_moves {l' : List Part} {s' : State} (s : State) (c : Nat) (f : BdgCh → BdgCh) (h' : Moves l' s' s) (hl' : Part.Sub [.bdg] l') : Moves l' s' (modBdg s c f) := by
  refine Moves.chain ?_ hl' h'
  clear h' hl'
  unfold modBdg
  try dsimp only
  repeat' (first
    | ((with_reducible apply Part.Sub.mk); rfl)
    | with_reducible apply Moves.refl
    | with_reducible assumption
    | intro _
    | with_reducible apply swf_sset
    | dsimp only
    | with_reducible apply Moves.set_bdg)

theorem bdgError_moves {l' : List Part} {s' : State} (s : State) (c code : Nat) (h' : Moves l' s' s) (hl' : Part.Sub [.regs, .owlFifo] l') : Moves l' s' (bdgError s c code) := by
  refine Moves.chain ?_ hl' h'
  clear h' hl'
  unfold bdgError
  try dsimp only
  repeat' (first
    | ((with_reducible apply Part.Sub.mk); rfl)
    | with_reducible apply Moves.refl
    | with_reducible assumption
    | with_reducible apply raiseBit_moves
    | with_reducible apply setFld_moves
    | dsimp only)

theorem bdgDrop_moves {l' : List Part} {s' : State} (s : State) (c : Nat) (h' : Moves l' s' s) (hl' : Part.Sub [.regs, .bdg] l') : Moves l' s' (bdgDrop s c) := by
  refine Moves.chain ?_ hl' h'
  clear h' hl'
  unfold bdgDrop
  try dsimp only
  repeat' (first
    | ((with_reducible apply Part.Sub.mk); rfl)
    | with_reducible apply Moves.refl
    | with_reducible assumption
    | with_reducible apply modBdg_moves
    | with_reducible apply setFld_moves
    | intro _
    | dsimp only)

theorem bdgStart_moves {l' : List Part} {s' : State} (s : State) (c : Nat) (h' : Moves l' s' s) (hl' : Part.Sub [.regs, .owlFifo, .bdg] l') : Moves l' s' (bdgStart s c) := by
  refine Moves.chain ?_ hl' h'
  clear h' hl'
  unfold bdgStart
  try dsimp only
  repeat' (first
    | ((with_reducible apply Part.Sub.mk); rfl)
    | with_reducible apply Moves.refl
    | with_reducible assumption
    | with_reducible apply bdgDrop_moves
    | with_reducible apply bdgError_moves
    | with_reducible apply modBdg_moves
    | with_reducible apply setFld_moves
    | with_reducible apply Moves.ite
    | intro _
    | split
    | dsimp only)

theorem bdgHold_moves {l' : List Part} {s' : State} (s : State) (c : Nat) (h' : Moves l' s' s) (hl' : Part.Sub [.regs, .bdg] l') : Moves l' s' (bdgHold s c) := by
  refine Moves.chain ?_ hl' h'
  clear h' hl'
  unfold bdgHold
  try dsimp only
  repeat' (first
    | ((with_reducible apply Part.Sub.mk); rfl)
    | with_reducible apply Moves.refl
    | with_reducible assumption
    | with_reducible apply modBdg_moves
    | with_reducible apply count_moves
    | with_reducible apply setFld_moves
    | intro _
    | dsimp only)

theorem bdgRequest_moves {l' : List Part} {s' : State} (s : State) (c : Nat) (h' : Moves l' s' s) (hl' : Part.Sub [.regs, .owlFifo, .bdg] l') : Moves l' s' (bdgRequest s c) := by
  refine Moves.chain ?_ hl' h'
  clear h' hl'
  unfold bdgRequest
  try dsimp only
  repeat' (first
    | ((with_reducible apply Part.Sub.mk); rfl)
    | with_reducible apply Moves.refl
    | with_reducible assumption
    | with_reducible apply bdgHold_moves
    | with_reducible apply modBdg_moves
    | with_reducible apply raiseBit_moves
    | with_reducible apply count_moves
    | with_reducible apply Moves.ite
    | intro _
    | split
    | dsimp only)

theorem bdgLine_moves {l' : List Part} {s' : State} (s : State) (c : Nat) (asserted : Bool) (h' : Moves l' s' s) (hl' : Part.Sub [.regs, .owlFifo, .bdg] l') : Moves l' s' (bdgLine s c asserted) := by
  refine Moves.chain ?_ hl' h'
  clear h' hl'
  unfold bdgLine
  try dsimp only
  repeat' (first
    | ((with_reducible apply Part.Sub.mk); rfl)
    | with_reducible apply Moves.refl
    | with_reducible assumption
    | with_reducible apply bdgRequest_moves
    | with_reducible apply modBdg_moves
    | with_reducible apply Moves.ite
    | intro _
    | split
    | dsimp only)

theorem bdgPulse_moves {l' : List Part} {s' : State} (s : State) (h' : Moves l' s' s) (hl' : Part.Sub [.regs, .owlFifo, .bdg] l') : Moves l' s' (bdgPulse s) := by
  refine Moves.chain ?_ hl' h'
  clear h' hl'
  unfold bdgPulse
  try dsimp only
  repeat' (first
    | ((with_reducible apply Part.Sub.mk); rfl)
    | with_reducible apply Moves.refl
    | with_reducible assumption
    | with_reducible apply bdgLine_moves
    | with_reducible apply Moves.ite
    | with_reducible apply Moves.foldl
    | intro _
    | split
    | dsimp only)

theorem bdgRelease_moves {l' : List Part} {s' : State} (s : State) (c : Nat) (h' : Moves l' s' s) (hl' : Part.Sub [.regs, .bdg] l') : Moves l' s' (bdgRelease s c) := by
  refine Moves.chain ?_ hl' h'
  clear h' hl'
  unfold bdgRelease
  try dsimp only
  repeat' (first
    | ((with_reducible apply Part.Sub.mk); rfl)
    | with_reducible apply Moves.refl
    | with_reducible assumption
    | with_reducible apply modBdg_moves
    | with_reducible apply setFld_moves
    | with_reducible apply Moves.ite
    | intro _
    | split
    | dsimp only)

theorem bdgCfgWrite_moves {l' : List Part} {s' : State} (s : State) (c : Nat) (w : Word) (h' : Moves l' s' s) (hl' : Part.Sub [.regs, .latches, .owlFifo, .bdg] l') : Moves l' s' (bdgCfgWrite s c w) := by
  refine Moves.chain ?_ hl' h'
  clear h' hl'
  unfold bdgCfgWrite
  try dsimp only
  repeat' (first
    | ((with_reducible apply Part.Sub.mk); rfl)
    | with_reducible apply Moves.refl
    | with_reducible assumption
    | with_reducible apply bdgRequest_moves
    | with_reducible apply bdgStart_moves
    | with_reducible apply bdgDrop_moves
    | with_reducible apply regWrite_moves
    | with_reducible apply setFld_moves
    | with_reducible apply Moves.ite
    | intro _
    | split
    | dsimp only)

theorem bdgWrite_moves {l' : List Part} {s' : State} (s : State) (hub : Bool) (c o : Nat) (w : Word) (h' : Moves l' s' s) (hl' : Part.Sub [.regs, .latches, .owlFifo, .bdg] l') : Moves l' s' (bdgWrite s hub c o w) := by
  refine Moves.chain ?_ hl' h'
  clear h' hl'
  unfold bdgWrite
  try dsimp only
  repeat' (first
    | ((with_reducible apply Part.Sub.mk); rfl)
    | with_reducible apply Moves.refl
    | with_reducible assumption
    | with_reducible apply bdgCfgWrite_moves
    | with_reducible apply bdgRelease_moves
    | with_reducible apply regWrite_moves
    | with_reducible apply Moves.ite
    | intro _
    | split
    | dsimp only)

theorem bdgRead_moves {l' : List Part} {s' : State} (s : State) (a : Nat) (ext : Word) (h' : Moves l' s' s) (hl' : Part.Sub [.tad] l') : Moves l' s' (bdgRead s a ext).2 := by
  refine Moves.chain ?_ hl' h'
  clear h' hl'
  refine MovesP.h (p := bdgRead s a ext) ?_
  unfold bdgRead
  try dsimp only
  repeat' (first
    | ((with_reducible apply Part.Sub.mk); rfl)
    | with_reducible apply MovesP.of_mk
    | with_reducible apply MovesP.ite
    | with_reducible apply Moves.refl
    | with_reducible assumption
    | with_reducible apply Moves.ite
    | intro _
    | split
    | dsimp only
    | with_reducible apply Moves.set_tad)

theorem bdgPut_moves {l' : List Part} {s' : State} (s : State) (a : Nat) (w : Word) (h' : Moves l' s' s) (hl' : Part.Sub [.out, .bdgMem] l') : Moves l' s' (bdgPut s a w) := by
  refine Moves.chain ?_ hl' h'
  clear h' hl'
  unfold bdgPut
  try dsimp only
  repeat' (first
    | ((with_reducible apply Part.Sub.mk); rfl)
    | with_reducible apply Moves.refl
    | with_reducible assumption
    | intro _
    | with_reducible apply swf_sset
    | with_reducible apply List.prefix_append
    | with_reducible apply List.prefix_refl
    | split
    | dsimp only
    | with_reducible apply Moves.set_bdgMem
    | with_reducible apply Moves.set_out
    | exact List.prefix_append _ _
    | exact (List.prefix_append _ _).trans (List.prefix_append _ _))

theorem owlWords_moves {l' : List Part} {s' : State} (s : State) (n : Nat) (h' : Moves l' s' s) (hl' : Part.Sub [.owlFifo, .fwRaw, .bdg] l') : Moves l' s' (owlWords s n).2 := by
  refine Moves.chain ?_ hl' h'
  clear h' hl'
  refine MovesP.h (p := owlWords s n) ?_
  unfold owlWords
  try dsimp only
  repeat' (first
    | ((with_reducible apply Part.Sub.mk); rfl)
    | with_reducible apply MovesP.of_mk
    | with_reducible apply Moves.refl
    | with_reducible assumption
    | intro _
    | with_reducible apply swf_nil
    | split
    | dsimp only
    | with_reducible apply Moves.set_bdg
    | with_reducible apply Moves.set_owlFifo_fwRaw)

theorem bdgWords_moves {l' : List Part} {s' : State} (src dst len p : Nat) (sInc dInc : Bool) (ext : List Word) (bad : List Nat) (a0' : List Nat) (a1' : State) (h' : Moves l' s' a1') (hl' : Part.Sub [.regs, .owlFifo, .out, .tad, .bdgMem] l') : Moves l' s' (bdgWords src dst len p sInc dInc ext bad a0' a1') := by
  induction a0' generalizing src dst len p sInc dInc ext bad a1' with
  | nil => exact h'
  | cons p t ih =>
    unfold bdgWords
    try dsimp only
    repeat' (first
      | ((with_reducible refine Part.Sub.trans (l2 := [.regs, .owlFifo, .out, .tad, .bdgMem]) (Part.Sub.mk ?_) hl'); rfl)
      | with_reducible apply ih
      | with_reducible apply Moves.refl
      | with_reducible assumption
      | with_reducible apply bdgPut_moves
      | with_reducible apply bdgRead_moves
      | (with_reducible apply MovesP.mk; with_reducible apply bdgRead_moves)
      | with_reducible apply parity_moves
      | with_reducible apply Moves.ite
      | with_reducible apply Moves.ite_fst
      | with_reducible apply Moves.ite_snd
      | intro _
      | split
      | dsimp only)

theorem bdgAfter_moves {l' : List Part} {s' : State} (s : State) (c p n : Nat) (h' : Moves l' s' s) (hl' : Part.Sub [.regs, .owlFifo, .out, .msixPend, .bdg] l') : Moves l' s' (bdgAfter s c p n) := by
  refine Moves.chain ?_ hl' h'
  clear h' hl'
  unfold bdgAfter
  try dsimp only
  repeat' (first
    | ((with_reducible apply Part.Sub.mk); rfl)
    | with_reducible apply Moves.refl
    | with_reducible assumption
    | with_reducible apply bdgDrop_moves
    | with_reducible apply modBdg_moves
    | with_reducible apply raiseVec_moves
    | with_reducible apply raiseBit_moves
    | with_reducible apply count_moves
    | with_reducible apply setFld_moves
    | with_reducible apply Moves.ite
    | intro _
    | split
    | dsimp only)

theorem bdgBurst_moves {l' : List Part} {s' : State} (s : State) (c : Nat) (ext : List Word) (bad : List Nat) (h' : Moves l' s' s) (hl' : Part.Sub [.regs, .owlFifo, .out, .msixPend, .fwRaw, .tad, .bdg, .bdgMem, .bdgLast] l') : Moves l' s' (bdgBurst s c ext bad) := by
  refine Moves.chain ?_ hl' h'
  clear h' hl'
  unfold bdgBurst
  try dsimp only
  repeat' (first
    | ((with_reducible apply Part.Sub.mk); rfl)
    | with_reducible apply Moves.refl
    | with_reducible assumption
    | with_reducible apply bdgAfter_moves
    | with_reducible apply bdgWords_moves
    | with_reducible apply owlWords_moves
    | (with_reducible apply MovesP.mk; with_reducible apply owlWords_moves)
    | with_reducible apply bdgDrop_moves
    | with_reducible apply bdgError_moves
    | with_reducible apply modBdg_moves
    | with_reducible apply Moves.ite
    | with_reducible apply Moves.ite_fst
    | with_reducible apply Moves.ite_snd
    | intro _
    | split
    | dsimp only
    | with_reducible apply Moves.set_bdgLast)

end Sys2Proof.Machine
end

