-- ==== Sys2Proof/Laws/Moves/Calib.lean ====
section
/-! SUPPORT. What the functions of Machine/Calib.lean touch. -/

namespace Sys2Proof.Machine

theorem holdReads_moves {l' : List Part} {s' : State} (s : State) (n a : Nat) (h' : Moves l' s' s) (hl' : Part.Sub [.regs, .tiles] l') : Moves l' s' (holdReads s n a) := by
  refine Moves.chain ?_ hl' h'
  clear h' hl'
  unfold holdReads
  try dsimp only
  repeat' (first
    | ((with_reducible apply Part.Sub.mk); rfl)
    | with_reducible apply Moves.refl
    | with_reducible assumption
    | with_reducible apply addJob_moves
    | (with_reducible apply MovesQ.mk; with_reducible apply addJob_moves)
    | with_reducible apply count_moves
    | with_reducible apply Moves.ite
    | with_reducible apply Moves.foldl
    | with_reducible apply Moves.ite_fst
    | with_reducible apply Moves.ite_snd
    | with_reducible apply Moves.foldl_fst
    | with_reducible apply Moves.foldl_snd
    | intro _
    | split
    | dsimp only)

theorem startArray_moves {l' : List Part} {s' : State} (s : State) (n a : Nat) (h' : Moves l' s' s) (hl' : Part.Sub [.regs, .tiles] l') : Moves l' s' (startArray s n a) := by
  refine Moves.chain ?_ hl' h'
  clear h' hl'
  unfold startArray
  try dsimp only
  repeat' (first
    | ((with_reducible apply Part.Sub.mk); rfl)
    | with_reducible apply Moves.refl
    | with_reducible assumption
    | with_reducible apply holdReads_moves
    | with_reducible apply modTile_moves
    | with_reducible apply count_moves
    | with_reducible apply setFld_moves
    | with_reducible apply Moves.ite
    | intro _
    | split
    | dsimp only)

theorem askCommit_moves {l' : List Part} {s' : State} (s : State) (n : Nat) (sweep : Bool) (h' : Moves l' s' s) (hl' : Part.Sub [.tiles] l') : Moves l' s' (askCommit s n sweep) := by
  refine Moves.chain ?_ hl' h'
  clear h' hl'
  unfold askCommit
  try dsimp only
  repeat' (first
    | ((with_reducible apply Part.Sub.mk); rfl)
    | with_reducible apply Moves.refl
    | with_reducible assumption
    | with_reducible apply modTile_moves
    | intro _
    | dsimp only)

theorem endSweep_moves {l' : List Part} {s' : State} (s : State) (n : Nat) (h' : Moves l' s' s) (hl' : Part.Sub [.regs, .tiles] l') : Moves l' s' (endSweep s n) := by
  refine Moves.chain ?_ hl' h'
  clear h' hl'
  unfold endSweep
  try dsimp only
  repeat' (first
    | ((with_reducible apply Part.Sub.mk); rfl)
    | with_reducible apply Moves.refl
    | with_reducible assumption
    | with_reducible apply askCommit_moves
    | with_reducible apply modTile_moves
    | with_reducible apply setFld_moves
    | with_reducible apply Moves.ite
    | intro _
    | split
    | dsimp only)

theorem nextArray_moves {l' : List Part} {s' : State} (s : State) (n a : Nat) (h' : Moves l' s' s) (hl' : Part.Sub [.regs, .tiles] l') : Moves l' s' (nextArray s n a) := by
  refine Moves.chain ?_ hl' h'
  clear h' hl'
  unfold nextArray
  try dsimp only
  repeat' (first
    | ((with_reducible apply Part.Sub.mk); rfl)
    | with_reducible apply Moves.refl
    | with_reducible assumption
    | with_reducible apply endSweep_moves
    | with_reducible apply startArray_moves
    | with_reducible apply Moves.ite
    | intro _
    | split
    | dsimp only)

theorem calTrigger_moves {l' : List Part} {s' : State} (s : State) (n : Nat) (h' : Moves l' s' s) (hl' : Part.Sub [.regs, .tiles] l') : Moves l' s' (calTrigger s n) := by
  refine Moves.chain ?_ hl' h'
  clear h' hl'
  unfold calTrigger
  try dsimp only
  repeat' (first
    | ((with_reducible apply Part.Sub.mk); rfl)
    | with_reducible apply Moves.refl
    | with_reducible assumption
    | with_reducible apply nextArray_moves
    | with_reducible apply modTile_moves
    | with_reducible apply setFld_moves
    | with_reducible apply Moves.ite
    | intro _
    | split
    | dsimp only)

theorem calPending_moves {l' : List Part} {s' : State} (s : State) (n : Nat) (h' : Moves l' s' s) (hl' : Part.Sub [.regs, .tiles] l') : Moves l' s' (calPending s n) := by
  refine Moves.chain ?_ hl' h'
  clear h' hl'
  unfold calPending
  try dsimp only
  repeat' (first
    | ((with_reducible apply Part.Sub.mk); rfl)
    | with_reducible apply Moves.refl
    | with_reducible assumption
    | with_reducible apply calTrigger_moves
    | with_reducible apply setFld_moves
    | with_reducible apply Moves.ite
    | intro _
    | split
    | dsimp only)

theorem calTempCheck_moves {l' : List Part} {s' : State} (s : State) (n : Nat) (old : Int) (h' : Moves l' s' s) (hl' : Part.Sub [.regs, .tiles] l') : Moves l' s' (calTempCheck s n old) := by
  refine Moves.chain ?_ hl' h'
  clear h' hl'
  unfold calTempCheck
  try dsimp only
  repeat' (first
    | ((with_reducible apply Part.Sub.mk); rfl)
    | with_reducible apply Moves.refl
    | with_reducible assumption
    | with_reducible apply calTrigger_moves
    | with_reducible apply Moves.ite
    | intro _
    | split
    | dsimp only)

theorem calCommit_moves {l' : List Part} {s' : State} (s : State) (n : Nat) (h' : Moves l' s' s) (hl' : Part.Sub [.tiles] l') : Moves l' s' (calCommit s n) := by
  refine Moves.chain ?_ hl' h'
  clear h' hl'
  unfold calCommit
  try dsimp only
  repeat' (first
    | ((with_reducible apply Part.Sub.mk); rfl)
    | with_reducible apply Moves.refl
    | with_reducible assumption
    | with_reducible apply askCommit_moves
    | with_reducible apply modTile_moves
    | with_reducible apply Moves.ite
    | intro _
    | split
    | dsimp only)

theorem calAbort_moves {l' : List Part} {s' : State} (s : State) (n : Nat) (h' : Moves l' s' s) (hl' : Part.Sub [.regs, .tiles] l') : Moves l' s' (calAbort s n) := by
  refine Moves.chain ?_ hl' h'
  clear h' hl'
  unfold calAbort
  try dsimp only
  repeat' (first
    | ((with_reducible apply Part.Sub.mk); rfl)
    | with_reducible apply Moves.refl
    | with_reducible assumption
    | with_reducible apply calPending_moves
    | with_reducible apply dropJob_moves
    | with_reducible apply modTile_moves
    | with_reducible apply setFld_moves
    | with_reducible apply Moves.ite
    | with_reducible apply Moves.foldl
    | intro _
    | split
    | dsimp only)

theorem calProduct_moves {l' : List Part} {s' : State} (s : State) (n : Nat) (h' : Moves l' s' s) (hl' : Part.Sub [.regs, .tiles] l') : Moves l' s' (calProduct s n) := by
  refine Moves.chain ?_ hl' h'
  clear h' hl'
  unfold calProduct
  try dsimp only
  repeat' (first
    | ((with_reducible apply Part.Sub.mk); rfl)
    | with_reducible apply Moves.refl
    | with_reducible assumption
    | with_reducible apply modTile_moves
    | with_reducible apply count_moves
    | with_reducible apply Moves.ite
    | intro _
    | split
    | dsimp only)

theorem stageConv_moves {l' : List Part} {s' : State} (s : State) (n a : Nat) (G : Option Rat) (c : Nat) (h' : Moves l' s' s) (hl' : Part.Sub [.freeCtr, .regs, .tiles, .owlFifo, .staged] l') : Moves l' s' (stageConv s n a G c) := by
  refine Moves.chain ?_ hl' h'
  clear h' hl'
  unfold stageConv
  try dsimp only
  repeat' (first
    | ((with_reducible apply Part.Sub.mk); rfl)
    | with_reducible apply Moves.refl
    | with_reducible assumption
    | with_reducible apply raiseBit_moves
    | with_reducible apply modTile_moves
    | with_reducible apply count_moves
    | with_reducible apply wrReg_moves
    | with_reducible apply Moves.ite
    | with_reducible apply Moves.ite_fst
    | with_reducible apply Moves.ite_snd
    | intro _
    | split
    | dsimp only
    | with_reducible apply Moves.set_freeCtr
    | with_reducible apply Moves.set_staged)

theorem stageRef_moves {l' : List Part} {s' : State} (s : State) (n a : Nat) (G : Option Rat) (h' : Moves l' s' s) (hl' : Part.Sub [.regs, .tiles, .owlFifo, .staged] l') : Moves l' s' (stageRef s n a G) := by
  refine Moves.chain ?_ hl' h'
  clear h' hl'
  unfold stageRef
  try dsimp only
  repeat' (first
    | ((with_reducible apply Part.Sub.mk); rfl)
    | with_reducible apply Moves.refl
    | with_reducible assumption
    | with_reducible apply raiseBit_moves
    | with_reducible apply modTile_moves
    | with_reducible apply count_moves
    | with_reducible apply setFld_moves
    | with_reducible apply Moves.ite
    | intro _
    | split
    | dsimp only
    | with_reducible apply Moves.set_staged)

theorem measurementEnd_moves {l' : List Part} {s' : State} (s : State) (n : Nat) (h' : Moves l' s' s) (hl' : Part.Sub [.freeCtr, .regs, .tiles, .owlFifo, .suspects, .staged] l') : Moves l' s' (measurementEnd s n) := by
  refine Moves.chain ?_ hl' h'
  clear h' hl'
  unfold measurementEnd
  try dsimp only
  repeat' (first
    | ((with_reducible apply Part.Sub.mk); rfl)
    | with_reducible apply Moves.refl
    | with_reducible assumption
    | with_reducible apply stageRef_moves
    | with_reducible apply stageConv_moves
    | with_reducible apply nextArray_moves
    | with_reducible apply suspect_moves
    | with_reducible apply Moves.ite
    | with_reducible apply Moves.foldl
    | with_reducible apply Moves.ite_fst
    | with_reducible apply Moves.ite_snd
    | with_reducible apply Moves.foldl_fst
    | with_reducible apply Moves.foldl_snd
    | intro _
    | split
    | dsimp only)

theorem copyTrims_moves {l' : List Part} {s' : State} (s : State) (n : Nat) (h' : Moves l' s' s) (hl' : Part.Sub [.regs] l') : Moves l' s' (copyTrims s n) := by
  refine Moves.chain ?_ hl' h'
  clear h' hl'
  unfold copyTrims
  try dsimp only
  repeat' (first
    | ((with_reducible apply Part.Sub.mk); rfl)
    | with_reducible apply Moves.refl
    | with_reducible assumption
    | with_reducible apply wrReg_moves
    | with_reducible apply Moves.foldl
    | with_reducible apply Moves.foldl_fst
    | with_reducible apply Moves.foldl_snd
    | intro _
    | dsimp only)

theorem discardPoints_moves {l' : List Part} {s' : State} (s : State) (n a : Nat) (cols : List Nat) (h' : Moves l' s' s) (hl' : Part.Sub [.tiles] l') : Moves l' s' (discardPoints s n a cols) := by
  refine Moves.chain ?_ hl' h'
  clear h' hl'
  unfold discardPoints
  try dsimp only
  repeat' (first
    | ((with_reducible apply Part.Sub.mk); rfl)
    | with_reducible apply Moves.refl
    | with_reducible assumption
    | with_reducible apply modTile_moves
    | with_reducible apply Moves.ite
    | with_reducible apply Moves.foldl
    | intro _
    | split
    | dsimp only)

theorem setRemap_moves {l' : List Part} {s' : State} (s : State) (n a k : Nat) (valid : Bool) (col : Nat) (h' : Moves l' s' s) (hl' : Part.Sub [.regs, .tiles, .owlFifo] l') : Moves l' s' (setRemap s n a k valid col) := by
  refine Moves.chain ?_ hl' h'
  clear h' hl'
  unfold setRemap
  try dsimp only
  repeat' (first
    | ((with_reducible apply Part.Sub.mk); rfl)
    | with_reducible apply Moves.refl
    | with_reducible assumption
    | with_reducible apply discardPoints_moves
    | with_reducible apply raiseIf_moves
    | with_reducible apply setBit_moves
    | with_reducible apply setFld_moves
    | with_reducible apply Moves.ite
    | intro _
    | split
    | dsimp only)

theorem remapRfsh_moves {l' : List Part} {s' : State} (s : State) (n a : Nat) (h' : Moves l' s' s) (hl' : Part.Sub [.regs, .tiles] l') : Moves l' s' (remapRfsh s n a) := by
  refine Moves.chain ?_ hl' h'
  clear h' hl'
  unfold remapRfsh
  try dsimp only
  repeat' (first
    | ((with_reducible apply Part.Sub.mk); rfl)
    | with_reducible apply Moves.refl
    | with_reducible assumption
    | with_reducible apply wantRefresh_moves
    | with_reducible apply Moves.ite
    | with_reducible apply Moves.foldl
    | intro _
    | split
    | dsimp only)

theorem autoRemap_moves {l' : List Part} {s' : State} (s : State) (n : Nat) (a0' : List (Nat × Nat)) (h' : Moves l' s' s) (hl' : Part.Sub [.regs, .tiles, .owlFifo, .suspects] l') : Moves l' s' (autoRemap s n a0') := by
  induction a0' generalizing s n with
  | nil => exact h'
  | cons p t ih =>
    obtain ⟨_, _⟩ := p
    unfold autoRemap
    try dsimp only
    repeat' (first
      | ((with_reducible refine Part.Sub.trans (l2 := [.regs, .tiles, .owlFifo, .suspects]) (Part.Sub.mk ?_) hl'); rfl)
      | with_reducible apply ih
      | with_reducible apply Moves.refl
      | with_reducible assumption
      | with_reducible apply remapRfsh_moves
      | with_reducible apply setRemap_moves
      | with_reducible apply suspect_moves
      | with_reducible apply raiseBit_moves
      | with_reducible apply count_moves
      | with_reducible apply setBit_moves
      | intro _
      | split
      | dsimp only)

theorem trimCommitApply_moves {l' : List Part} {s' : State} (s : State) (n : Nat) (h' : Moves l' s' s) (hl' : Part.Sub [.regs, .tiles, .owlFifo, .suspects] l') : Moves l' s' (trimCommitApply s n) := by
  refine Moves.chain ?_ hl' h'
  clear h' hl'
  unfold trimCommitApply
  try dsimp only
  repeat' (first
    | ((with_reducible apply Part.Sub.mk); rfl)
    | with_reducible apply Moves.refl
    | with_reducible assumption
    | with_reducible apply autoRemap_moves
    | with_reducible apply copyTrims_moves
    | with_reducible apply calPending_moves
    | with_reducible apply modTile_moves
    | with_reducible apply count_moves
    | with_reducible apply setFld_moves
    | with_reducible apply Moves.ite
    | intro _
    | split
    | dsimp only)

theorem trimFlashWriteback_moves {l' : List Part} {s' : State} (s : State) (h' : Moves l' s' s) (hl' : Part.Sub [.flashTrims, .trimWb, .tiles] l') : Moves l' s' (trimFlashWriteback s) := by
  refine Moves.chain ?_ hl' h'
  clear h' hl'
  unfold trimFlashWriteback
  try dsimp only
  repeat' (first
    | ((with_reducible apply Part.Sub.mk); rfl)
    | with_reducible apply Moves.refl
    | with_reducible assumption
    | with_reducible apply modTile_moves
    | with_reducible apply Moves.ite
    | with_reducible apply Moves.foldl
    | with_reducible apply Moves.ite_fst
    | with_reducible apply Moves.ite_snd
    | with_reducible apply Moves.foldl_fst
    | with_reducible apply Moves.foldl_snd
    | intro _
    | with_reducible apply swf_sset
    | with_reducible apply swf_filter
    | with_reducible apply swf_nil
    | with_reducible apply swf_foldl
    | split
    | dsimp only
    | with_reducible apply Moves.set_flashTrims_trimWb)

theorem loadTrims_moves {l' : List Part} {s' : State} (s : State) (n : Nat) (h' : Moves l' s' s) (hl' : Part.Sub [.regs, .tiles] l') : Moves l' s' (loadTrims s n) := by
  refine Moves.chain ?_ hl' h'
  clear h' hl'
  unfold loadTrims
  try dsimp only
  repeat' (first
    | ((with_reducible apply Part.Sub.mk); rfl)
    | with_reducible apply Moves.refl
    | with_reducible assumption
    | with_reducible apply askCommit_moves
    | with_reducible apply wrReg_moves
    | with_reducible apply Moves.foldl
    | with_reducible apply Moves.foldl_fst
    | with_reducible apply Moves.foldl_snd
    | intro _
    | dsimp only)

theorem handoverComplete_moves {l' : List Part} {s' : State} (s : State) (n b p : Nat) (h' : Moves l' s' s) (hl' : Part.Sub [.regs, .tiles] l') : Moves l' s' (handoverComplete s n b p) := by
  refine Moves.chain ?_ hl' h'
  clear h' hl'
  unfold handoverComplete
  try dsimp only
  repeat' (first
    | ((with_reducible apply Part.Sub.mk); rfl)
    | with_reducible apply Moves.refl
    | with_reducible assumption
    | with_reducible apply startArray_moves
    | with_reducible apply count_moves
    | with_reducible apply setFld_moves
    | with_reducible apply Moves.ite
    | intro _
    | split
    | dsimp only)

end Sys2Proof.Machine
end

