-- ==== Sys2Proof/Laws/Moves/Escalate.lean ====
section
/-! SUPPORT. What the functions of Machine/Escalate.lean touch. -/

namespace Sys2Proof.Machine

theorem setPtile_moves {l' : List Part} {s' : State} (s : State) (n st lg : Nat) (h' : Moves l' s' s) (hl' : Part.Sub [.regs] l') : Moves l' s' (setPtile s n st lg) := by
  refine Moves.chain ?_ hl' h'
  clear h' hl'
  unfold setPtile
  try dsimp only
  repeat' (first
    | ((with_reducible apply Part.Sub.mk); rfl)
    | with_reducible apply Moves.refl
    | with_reducible assumption
    | with_reducible apply setFld_moves
    | dsimp only)

theorem copyRegs_moves {l' : List Part} {s' : State} (s : State) (p q : Nat) (h' : Moves l' s' s) (hl' : Part.Sub [.regs] l') : Moves l' s' (copyRegs s p q) := by
  refine Moves.chain ?_ hl' h'
  clear h' hl'
  unfold copyRegs
  try dsimp only
  repeat' (first
    | ((with_reducible apply Part.Sub.mk); rfl)
    | with_reducible apply Moves.refl
    | with_reducible assumption
    | with_reducible apply wrReg_moves
    | with_reducible apply Moves.ite
    | with_reducible apply Moves.foldl
    | with_reducible apply Moves.ite_fst
    | with_reducible apply Moves.ite_snd
    | with_reducible apply Moves.foldl_fst
    | with_reducible apply Moves.foldl_snd
    | intro _
    | split
    | dsimp only)

theorem takeoverRewind_moves {l' : List Part} {s' : State} (s : State) (n : Nat) (h' : Moves l' s' s) (hl' : Part.Sub [.regs, .tiles] l') : Moves l' s' (takeoverRewind s n) := by
  refine Moves.chain ?_ hl' h'
  clear h' hl'
  unfold takeoverRewind
  try dsimp only
  repeat' (first
    | ((with_reducible apply Part.Sub.mk); rfl)
    | with_reducible apply Moves.refl
    | with_reducible assumption
    | with_reducible apply resumeAfterMark_moves
    | with_reducible apply clearWork_moves
    | with_reducible apply Moves.ite
    | intro _
    | split
    | dsimp only)

theorem takeoverPlanes_moves {l' : List Part} {s' : State} (s : State) (p q a : Nat) (h' : Moves l' s' s) (hl' : Part.Sub [.freeCtr, .regs, .tiles, .owlFifo] l') : Moves l' s' (takeoverPlanes s p q a) := by
  refine Moves.chain ?_ hl' h'
  clear h' hl'
  unfold takeoverPlanes
  try dsimp only
  repeat' (first
    | ((with_reducible apply Part.Sub.mk); rfl)
    | with_reducible apply Moves.refl
    | with_reducible assumption
    | with_reducible apply reloadWide_moves
    | with_reducible apply reloadNarrow_moves
    | with_reducible apply modArr_moves
    | with_reducible apply setBit_moves
    | with_reducible apply Moves.ite
    | intro _
    | split
    | dsimp only)

theorem takeover_moves {l' : List Part} {s' : State} (s : State) (t p q : Nat) (h' : Moves l' s' s) (hl' : Part.Sub [.freeCtr, .regs, .tiles, .owlFifo, .den] l') : Moves l' s' (takeover s t p q) := by
  refine Moves.chain ?_ hl' h'
  clear h' hl'
  unfold takeover
  try dsimp only
  repeat' (first
    | ((with_reducible apply Part.Sub.mk); rfl)
    | with_reducible apply Moves.refl
    | with_reducible assumption
    | with_reducible apply takeoverPlanes_moves
    | with_reducible apply takeoverRewind_moves
    | with_reducible apply copyRegs_moves
    | with_reducible apply setPtile_moves
    | with_reducible apply calTrigger_moves
    | with_reducible apply dropPrefetch_moves
    | with_reducible apply modTile_moves
    | with_reducible apply setFld_moves
    | with_reducible apply Moves.ite
    | with_reducible apply Moves.foldl
    | intro _
    | with_reducible apply Moves.set_den
    | split
    | dsimp only)

theorem applyGuard_moves {l' : List Part} {s' : State} (s : State) (n level : Nat) (h' : Moves l' s' s) (hl' : Part.Sub [.regs] l') : Moves l' s' (applyGuard s n level) := by
  refine Moves.chain ?_ hl' h'
  clear h' hl'
  unfold applyGuard
  try dsimp only
  repeat' (first
    | ((with_reducible apply Part.Sub.mk); rfl)
    | with_reducible apply Moves.refl
    | with_reducible assumption
    | with_reducible apply setFld_moves
    | intro _
    | split
    | dsimp only)

theorem retire_moves {l' : List Part} {s' : State} (s : State) (n t cause : Nat) (h' : Moves l' s' s) (hl' : Part.Sub [.freeCtr, .regs, .tiles, .owlFifo, .taintFrom, .fwEvents, .den, .retiring] l') : Moves l' s' (retire s n t cause) := by
  refine Moves.chain ?_ hl' h'
  clear h' hl'
  unfold retire
  try dsimp only
  repeat' (first
    | ((with_reducible apply Part.Sub.mk); rfl)
    | with_reducible apply Moves.refl
    | with_reducible assumption
    | with_reducible apply takeover_moves
    | with_reducible apply drainModule_moves
    | with_reducible apply raiseD_moves
    | with_reducible apply count_moves
    | with_reducible apply Moves.ite
    | intro _
    | split
    | dsimp only
    | with_reducible apply Moves.set_retiring)

theorem escalate_moves {l' : List Part} {s' : State} (s : State) (n : Nat) (h' : Moves l' s' s) (hl' : Part.Sub [.freeCtr, .regs, .tiles, .owlFifo, .taintFrom, .suspects, .fwEvents, .den, .retiring] l') : Moves l' s' (escalate s n) := by
  refine Moves.chain ?_ hl' h'
  clear h' hl'
  unfold escalate
  try dsimp only
  repeat' (first
    | ((with_reducible apply Part.Sub.mk); rfl)
    | with_reducible apply Moves.refl
    | with_reducible assumption
    | with_reducible apply retire_moves
    | with_reducible apply applyGuard_moves
    | with_reducible apply setFld_moves
    | with_reducible apply Moves.ite
    | with_reducible apply Moves.ite_fst
    | with_reducible apply Moves.ite_snd
    | intro _
    | split
    | dsimp only
    | with_reducible apply Moves.set_suspects
    | with_reducible apply Moves.set_suspects_retiring)

theorem levelWrite_moves {l' : List Part} {s' : State} (s : State) (n v : Nat) (h' : Moves l' s' s) (hl' : Part.Sub [.regs] l') : Moves l' s' (levelWrite s n v) := by
  refine Moves.chain ?_ hl' h'
  clear h' hl'
  unfold levelWrite
  try dsimp only
  repeat' (first
    | ((with_reducible apply Part.Sub.mk); rfl)
    | with_reducible apply Moves.refl
    | with_reducible assumption
    | with_reducible apply applyGuard_moves
    | with_reducible apply setFld_moves
    | with_reducible apply Moves.ite
    | intro _
    | split
    | dsimp only)

end Sys2Proof.Machine
end

