-- ==== Sys2Proof/Laws/Moves/VuCore.lean ====
section
/-! SUPPORT. What the functions of Machine/VuCore.lean touch. -/

namespace Sys2Proof.Machine

theorem modVu_moves {l' : List Part} {s' : State} (s : State) (n : Nat) (f : Vu → Vu) (h' : Moves l' s' s) (hl' : Part.Sub [.tiles] l') : Moves l' s' (modVu s n f) := by
  refine Moves.chain ?_ hl' h'
  clear h' hl'
  unfold modVu
  try dsimp only
  repeat' (first
    | ((with_reducible apply Part.Sub.mk); rfl)
    | with_reducible apply Moves.refl
    | with_reducible assumption
    | with_reducible apply modTile_moves
    | intro _
    | dsimp only)

theorem vuStop_moves {l' : List Part} {s' : State} (s : State) (n : Nat) (h' : Moves l' s' s) (hl' : Part.Sub [.regs, .tiles] l') : Moves l' s' (vuStop s n) := by
  refine Moves.chain ?_ hl' h'
  clear h' hl'
  unfold vuStop
  try dsimp only
  repeat' (first
    | ((with_reducible apply Part.Sub.mk); rfl)
    | with_reducible apply Moves.refl
    | with_reducible assumption
    | with_reducible apply modVu_moves
    | with_reducible apply clearDraws_moves
    | with_reducible apply count_moves
    | with_reducible apply Moves.ite
    | intro _
    | split
    | dsimp only)

theorem vuFault_moves {l' : List Part} {s' : State} (s : State) (n cause : Nat) (h' : Moves l' s' s) (hl' : Part.Sub [.regs, .tiles, .owlFifo, .fwEvents] l') : Moves l' s' (vuFault s n cause) := by
  refine Moves.chain ?_ hl' h'
  clear h' hl'
  unfold vuFault
  try dsimp only
  repeat' (first
    | ((with_reducible apply Part.Sub.mk); rfl)
    | with_reducible apply Moves.refl
    | with_reducible assumption
    | with_reducible apply vuStop_moves
    | with_reducible apply failExec_moves
    | with_reducible apply raiseBit_moves
    | with_reducible apply count_moves
    | with_reducible apply setFld_moves
    | dsimp only)

theorem vuSettle_moves {l' : List Part} {s' : State} (s : State) (n : Nat) (h' : Moves l' s' s) (hl' : Part.Sub [.regs, .tiles, .owlFifo, .fwEvents] l') : Moves l' s' (vuSettle s n) := by
  refine Moves.chain ?_ hl' h'
  clear h' hl'
  unfold vuSettle
  try dsimp only
  repeat' (first
    | ((with_reducible apply Part.Sub.mk); rfl)
    | with_reducible apply Moves.refl
    | with_reducible assumption
    | with_reducible apply vuFault_moves
    | with_reducible apply modVu_moves
    | with_reducible apply count_moves
    | with_reducible apply Moves.ite
    | intro _
    | split
    | dsimp only)

theorem runVdisp_moves {l' : List Part} {s' : State} (s : State) (n : Nat) (i : Issued) (o : VdispOp) (h' : Moves l' s' s) (hl' : Part.Sub [.regs, .tiles, .owlFifo, .fwEvents] l') : Moves l' s' (runVdisp s n i o) := by
  refine Moves.chain ?_ hl' h'
  clear h' hl'
  unfold runVdisp
  try dsimp only
  repeat' (first
    | ((with_reducible apply Part.Sub.mk); rfl)
    | with_reducible apply Moves.refl
    | with_reducible assumption
    | with_reducible apply vuSettle_moves
    | with_reducible apply modVu_moves
    | with_reducible apply kload_moves
    | with_reducible apply ranCmd_moves
    | with_reducible apply setBit_moves
    | with_reducible apply setFld_moves
    | with_reducible apply Moves.ite
    | with_reducible apply Moves.foldl
    | with_reducible apply Moves.ite_fst
    | with_reducible apply Moves.ite_snd
    | with_reducible apply Moves.foldl_fst
    | with_reducible apply Moves.foldl_snd
    | intro _
    | split
    | dsimp only)

/-- What an instruction of the VU does touches only the parts listed. -/
def VuMoves (l : List Part) (s : State) : VuOut → Prop
  | .wait => True
  | .fault _ => True
  | .fail _ => True
  | .done u => Moves l s u
  | .goto _ u => Moves l s u
  | .finish u => Moves l s u

theorem VuMoves.wait {l : List Part} {s : State} : VuMoves l s .wait := trivial

theorem VuMoves.fault {l : List Part} {s : State} {c : Nat} : VuMoves l s (.fault c) := trivial

theorem VuMoves.fail {l : List Part} {s : State} {c : Nat} : VuMoves l s (.fail c) := trivial

theorem VuMoves.done {l : List Part} {s u : State} (h : Moves l s u) : VuMoves l s (.done u) := h

theorem VuMoves.goto {l : List Part} {s u : State} {p : Nat} (h : Moves l s u) : VuMoves l s (.goto p u) := h

theorem VuMoves.finish {l : List Part} {s u : State} (h : Moves l s u) : VuMoves l s (.finish u) := h

theorem VuMoves.ite {l : List Part} {s : State} {c : Prop} [Decidable c] {a b : VuOut} (h1 : c → VuMoves l s a) (h2 : ¬c → VuMoves l s b) :
    VuMoves l s (if c then a else b) := by
  by_cases hc : c
  · rw [if_pos hc]; exact h1 hc
  · rw [if_neg hc]; exact h2 hc

theorem vuIssue_moves {l' : List Part} {s' : State} (s : State) (t : Fin 64) (opc : Nat) (u : VuUse) (f : VuFields) (go : Nat → Vu → State → VuOut)
    (h' : Moves l' s' s) (hl' : Part.Sub [.regs, .tiles, .owlFifo, .fwEvents] l') (hgo : ∀ n v x, Moves l' s' x → VuMoves l' s' (go n v x)) :
    Moves l' s' (vuIssue s t opc u f go) := by
  have sub : ∀ {a : List Part}, Part.Sub a [.regs, .tiles, .owlFifo, .fwEvents] → Part.Sub a l' := fun h => h.trans hl'
  unfold vuIssue
  dsimp only
  refine Moves.ite (fun _ => h') fun _ => ?_
  have h0 : Moves l' s' (parity s f.fetchBad.val 6 (8 * (tileAt s (phys s ↑t)).vu.pc)) := parity_moves _ _ _ _ h' (sub ⟨rfl⟩)
  have fl : ∀ c, Moves l' s' (vuFault (count (parity s f.fetchBad.val 6 (8 * (tileAt s (phys s ↑t)).vu.pc)) (tileBase (phys s ↑t)) R.VU_INSN_CNT 1)
      (phys s ↑t) c) := fun c => vuFault_moves _ _ _ (count_moves _ _ _ _ h0 (sub ⟨rfl⟩)) (sub ⟨rfl⟩)
  refine Moves.ite (fun _ => fl _) fun _ => Moves.ite (fun _ => fl _) fun _ => ?_
  have hg := hgo (phys s ↑t) (tileAt s (phys s ↑t)).vu _ h0
  split <;> rename_i he <;> rw [he] at hg
  · exact ownWaitStart_moves _ _ _ h' (sub ⟨rfl⟩)
  · exact fl _
  · exact failExec_moves _ _ _ _ (vuStop_moves _ _ (count_moves _ _ _ _ h0 (sub ⟨rfl⟩)) (sub ⟨rfl⟩)) (sub ⟨rfl⟩)
  · exact vuSettle_moves _ _ (modVu_moves _ _ _ (count_moves _ _ _ _ (ownWaitEnd_moves _ _ _ hg (sub ⟨rfl⟩)) (sub ⟨rfl⟩)) (sub ⟨rfl⟩)) (sub ⟨rfl⟩)
  · exact vuSettle_moves _ _ (modVu_moves _ _ _ (count_moves _ _ _ _ hg (sub ⟨rfl⟩)) (sub ⟨rfl⟩)) (sub ⟨rfl⟩)
  · exact finCmd_moves _ _ _ (count_moves _ _ _ _ (vuStop_moves _ _ (count_moves _ _ _ _ hg (sub ⟨rfl⟩)) (sub ⟨rfl⟩)) (sub ⟨rfl⟩)) (sub ⟨rfl⟩)


theorem vuDone_moves {l' : List Part} {s' : State} (s : State) (n : Nat) (f : Vu → Vu) (h' : Moves l' s' s) (hl' : Part.Sub [.tiles] l') : VuMoves l' s' (vuDone s n f) := by
  unfold vuDone
  try dsimp only
  repeat' (first
    | ((with_reducible refine Part.Sub.trans (l2 := [.tiles]) (Part.Sub.mk ?_) hl'); rfl)

    | with_reducible apply VuMoves.done
    | with_reducible apply Moves.refl
    | with_reducible assumption
    | with_reducible apply modVu_moves
    | dsimp only)

theorem vuCnv_moves {l' : List Part} {s' : State} (s : State) (n : Nat) (c : Cnv) (h' : Moves l' s' s) (hl' : Part.Sub [.regs] l') : Moves l' s' (vuCnv s n c) := by
  refine Moves.chain ?_ hl' h'
  clear h' hl'
  unfold vuCnv
  try dsimp only
  repeat' (first
    | ((with_reducible apply Part.Sub.mk); rfl)
    | with_reducible apply Moves.refl
    | with_reducible assumption
    | with_reducible apply countCnv_moves
    | dsimp only)

theorem vuFp_moves {l' : List Part} {s' : State} (s : State) (n : Nat) (v : Vu) (f : VuFields) (ops : List (List Nat)) (g : List FVal → FVal) (h' : Moves l' s' s) (hl' : Part.Sub [.regs, .tiles] l') : VuMoves l' s' (vuFp s n v f ops g) := by
  unfold vuFp
  try dsimp only
  repeat' (first
    | ((with_reducible refine Part.Sub.trans (l2 := [.regs, .tiles]) (Part.Sub.mk ?_) hl'); rfl)

    | with_reducible apply VuMoves.ite
    | with_reducible apply Moves.refl
    | with_reducible assumption
    | with_reducible apply vuCnv_moves
    | with_reducible apply vuDone_moves
    | with_reducible apply Moves.ite
    | with_reducible apply Moves.ite_fst
    | with_reducible apply Moves.ite_snd
    | intro _
    | split
    | dsimp only)

theorem vuTrans_moves {l' : List Part} {s' : State} (s : State) (n : Nat) (v : Vu) (f : VuFields) (g : Nat → FVal → Word × Nat) (h' : Moves l' s' s) (hl' : Part.Sub [.freeCtr, .regs, .tiles] l') : VuMoves l' s' (vuTrans s n v f g) := by
  unfold vuTrans
  try dsimp only
  repeat' (first
    | ((with_reducible refine Part.Sub.trans (l2 := [.freeCtr, .regs, .tiles]) (Part.Sub.mk ?_) hl'); rfl)

    | with_reducible apply VuMoves.ite
    | with_reducible apply Moves.refl
    | with_reducible assumption
    | with_reducible apply vuCnv_moves
    | with_reducible apply vuDone_moves
    | with_reducible apply Moves.ite
    | with_reducible apply Moves.ite_fst
    | with_reducible apply Moves.ite_snd
    | intro _
    | split
    | dsimp only
    | with_reducible apply Moves.set_freeCtr)

theorem vuBits_moves {l' : List Part} {s' : State} (s : State) (n : Nat) (v : Vu) (f : VuFields) (new : List Nat) (h' : Moves l' s' s) (hl' : Part.Sub [.tiles] l') : VuMoves l' s' (vuBits s n v f new) := by
  unfold vuBits
  try dsimp only
  repeat' (first
    | ((with_reducible refine Part.Sub.trans (l2 := [.tiles]) (Part.Sub.mk ?_) hl'); rfl)

    | with_reducible apply Moves.refl
    | with_reducible assumption
    | with_reducible apply vuDone_moves
    | intro _
    | dsimp only)

theorem vuInt_moves {l' : List Part} {s' : State} (s : State) (n : Nat) (v : Vu) (f : VuFields) (g : Word → Word → Word) (h' : Moves l' s' s) (hl' : Part.Sub [.tiles] l') : VuMoves l' s' (vuInt s n v f g) := by
  unfold vuInt
  try dsimp only
  repeat' (first
    | ((with_reducible refine Part.Sub.trans (l2 := [.tiles]) (Part.Sub.mk ?_) hl'); rfl)

    | with_reducible apply Moves.refl
    | with_reducible assumption
    | with_reducible apply vuBits_moves
    | intro _
    | dsimp only)

theorem vuScalar_moves {l' : List Part} {s' : State} (s : State) (n : Nat) (v : Vu) (f : VuFields) (g : Word → Word → Word) (h' : Moves l' s' s) (hl' : Part.Sub [.tiles] l') : VuMoves l' s' (vuScalar s n v f g) := by
  unfold vuScalar
  try dsimp only
  repeat' (first
    | ((with_reducible refine Part.Sub.trans (l2 := [.tiles]) (Part.Sub.mk ?_) hl'); rfl)

    | with_reducible apply VuMoves.fault
    | with_reducible apply VuMoves.ite
    | with_reducible apply Moves.refl
    | with_reducible assumption
    | with_reducible apply vuDone_moves
    | with_reducible apply Moves.ite
    | intro _
    | split
    | dsimp only)

theorem vuCompare_moves {l' : List Part} {s' : State} (s : State) (n : Nat) (f : VuFields) (bits : List Bool) (h' : Moves l' s' s) (hl' : Part.Sub [.tiles] l') : VuMoves l' s' (vuCompare s n f bits) := by
  unfold vuCompare
  try dsimp only
  repeat' (first
    | ((with_reducible refine Part.Sub.trans (l2 := [.tiles]) (Part.Sub.mk ?_) hl'); rfl)

    | with_reducible apply Moves.refl
    | with_reducible assumption
    | with_reducible apply vuDone_moves
    | intro _
    | dsimp only)

theorem vuAccess_moves {l' : List Part} {s' : State} (s : State) (n addr len al : Nat) (go : VuOut) (h' : Moves l' s' s) (hl' : Part.Sub [] l') (hgo : VuMoves l' s' go) : VuMoves l' s' (vuAccess s n addr len al go) := by
  unfold vuAccess
  try dsimp only
  repeat' (first
    | ((with_reducible refine Part.Sub.trans (l2 := []) (Part.Sub.mk ?_) hl'); rfl)

    | with_reducible apply VuMoves.wait
    | with_reducible apply VuMoves.fault
    | with_reducible apply VuMoves.ite
    | with_reducible apply Moves.refl
    | with_reducible assumption
    | with_reducible apply Moves.ite
    | intro _
    | split
    | dsimp only)

theorem vuStoreRuns_moves {l' : List Part} {s' : State} (s : State) (n addr sz : Nat) (bs : List Byte) (act : Nat → Bool) (h' : Moves l' s' s) (hl' : Part.Sub [.regs, .tiles, .owlFifo] l') : Moves l' s' (vuStoreRuns s n addr sz bs act) := by
  refine Moves.chain ?_ hl' h'
  clear h' hl'
  unfold vuStoreRuns
  try dsimp only
  repeat' (first
    | ((with_reducible apply Part.Sub.mk); rfl)
    | with_reducible apply Moves.refl
    | with_reducible assumption
    | with_reducible apply settWrite_moves
    | with_reducible apply Moves.ite
    | with_reducible apply Moves.foldl
    | intro _
    | split
    | dsimp only)

end Sys2Proof.Machine
end

