-- ==== Sys2Proof/Laws/Moves/VuArith.lean ====
section
/-! SUPPORT. What the functions of Machine/VuArith.lean touch. -/

namespace Sys2Proof.Machine

theorem vuFp2_moves {l' : List Part} {s' : State} (s : State) (t : Fin 64) (opc : Nat) (f : VuFields) (g : FVal → FVal → FVal) (h' : Moves l' s' s) (hl' : Part.Sub [.regs, .tiles, .owlFifo, .fwEvents] l') : Moves l' s' (vuFp2 s t opc f g) := by
  unfold vuFp2
  try dsimp only
  repeat' (first
    | ((with_reducible refine Part.Sub.trans (l2 := [.regs, .tiles, .owlFifo, .fwEvents]) (Part.Sub.mk ?_) hl'); rfl)

    | with_reducible apply Moves.refl
    | with_reducible assumption
    | with_reducible apply vuFp_moves
    | with_reducible apply vuIssue_moves
    | intro _
    | dsimp only)

theorem vuFp1_moves {l' : List Part} {s' : State} (s : State) (t : Fin 64) (opc : Nat) (f : VuFields) (g : FVal → FVal) (h' : Moves l' s' s) (hl' : Part.Sub [.regs, .tiles, .owlFifo, .fwEvents] l') : Moves l' s' (vuFp1 s t opc f g) := by
  unfold vuFp1
  try dsimp only
  repeat' (first
    | ((with_reducible refine Part.Sub.trans (l2 := [.regs, .tiles, .owlFifo, .fwEvents]) (Part.Sub.mk ?_) hl'); rfl)

    | with_reducible apply Moves.refl
    | with_reducible assumption
    | with_reducible apply vuFp_moves
    | with_reducible apply vuIssue_moves
    | intro _
    | dsimp only)

theorem vuInt2_moves {l' : List Part} {s' : State} (s : State) (t : Fin 64) (opc : Nat) (f : VuFields) (g : Word → Word → Word) (h' : Moves l' s' s) (hl' : Part.Sub [.regs, .tiles, .owlFifo, .fwEvents] l') : Moves l' s' (vuInt2 s t opc f g) := by
  unfold vuInt2
  try dsimp only
  repeat' (first
    | ((with_reducible refine Part.Sub.trans (l2 := [.regs, .tiles, .owlFifo, .fwEvents]) (Part.Sub.mk ?_) hl'); rfl)

    | with_reducible apply Moves.refl
    | with_reducible assumption
    | with_reducible apply vuInt_moves
    | with_reducible apply vuIssue_moves
    | intro _
    | dsimp only)

theorem vuTr_moves {l' : List Part} {s' : State} (s : State) (t : Fin 64) (opc : Nat) (f : VuFields) (g : Nat → FVal → Word × Nat) (h' : Moves l' s' s) (hl' : Part.Sub [.freeCtr, .regs, .tiles, .owlFifo, .fwEvents] l') : Moves l' s' (vuTr s t opc f g) := by
  unfold vuTr
  try dsimp only
  repeat' (first
    | ((with_reducible refine Part.Sub.trans (l2 := [.freeCtr, .regs, .tiles, .owlFifo, .fwEvents]) (Part.Sub.mk ?_) hl'); rfl)

    | with_reducible apply Moves.refl
    | with_reducible assumption
    | with_reducible apply vuTrans_moves
    | with_reducible apply vuIssue_moves
    | intro _
    | dsimp only)

theorem vuPred_moves {l' : List Part} {s' : State} (s : State) (t : Fin 64) (opc : Nat) (two : Bool) (f : VuFields) (g : BitVec 1024 → BitVec 1024 → BitVec 1024) (h' : Moves l' s' s) (hl' : Part.Sub [.regs, .tiles, .owlFifo, .fwEvents] l') : Moves l' s' (vuPred s t opc two f g) := by
  unfold vuPred
  try dsimp only
  repeat' (first
    | ((with_reducible refine Part.Sub.trans (l2 := [.regs, .tiles, .owlFifo, .fwEvents]) (Part.Sub.mk ?_) hl'); rfl)

    | with_reducible apply VuMoves.ite
    | with_reducible apply Moves.refl
    | with_reducible assumption
    | with_reducible apply vuDone_moves
    | with_reducible apply vuIssue_moves
    | with_reducible apply Moves.ite
    | intro _
    | split
    | dsimp only)

end Sys2Proof.Machine
end

