-- ==== Sys2Proof/Laws/Moves/VuVec.lean ====
section
/-! SUPPORT. What the functions of Machine/VuVec.lean touch. -/

namespace Sys2Proof.Machine

theorem vcvt_moves {l' : List Part} {s' : State} (s : State) (n : Nat) (v : Vu) (f : VuFields) (h' : Moves l' s' s) (hl' : Part.Sub [.regs, .tiles] l') : VuMoves l' s' (vcvt s n v f) := by
  unfold vcvt
  try dsimp only
  repeat' (first
    | ((with_reducible refine Part.Sub.trans (l2 := [.regs, .tiles]) (Part.Sub.mk ?_) hl'); rfl)

    | with_reducible apply VuMoves.fault
    | with_reducible apply VuMoves.ite
    | with_reducible apply Moves.refl
    | with_reducible assumption
    | with_reducible apply vuCnv_moves
    | with_reducible apply vuDone_moves
    | with_reducible apply takeDraws_moves
    | with_reducible apply Moves.ite
    | with_reducible apply Moves.foldl
    | with_reducible apply Moves.ite_fst
    | with_reducible apply Moves.ite_snd
    | with_reducible apply Moves.foldl_fst
    | with_reducible apply Moves.foldl_snd
    | intro _
    | split
    | dsimp only)

theorem vdcvt_moves {l' : List Part} {s' : State} (s : State) (n : Nat) (v : Vu) (f : VuFields) (h' : Moves l' s' s) (hl' : Part.Sub [.regs, .tiles, .owlFifo] l') : VuMoves l' s' (vdcvt s n v f) := by
  unfold vdcvt
  try dsimp only
  repeat' (first
    | ((with_reducible refine Part.Sub.trans (l2 := [.regs, .tiles, .owlFifo]) (Part.Sub.mk ?_) hl'); rfl)

    | with_reducible apply VuMoves.done
    | with_reducible apply VuMoves.wait
    | with_reducible apply VuMoves.fault
    | with_reducible apply VuMoves.fail
    | with_reducible apply VuMoves.ite
    | with_reducible apply Moves.refl
    | with_reducible assumption
    | with_reducible apply vuAccess_moves
    | with_reducible apply vuCnv_moves
    | with_reducible apply addJob_moves
    | (with_reducible apply MovesQ.mk; with_reducible apply addJob_moves)
    | with_reducible apply settWrite_moves
    | with_reducible apply modTile_moves
    | with_reducible apply Moves.ite
    | with_reducible apply Moves.ite_fst
    | with_reducible apply Moves.ite_snd
    | intro _
    | split
    | dsimp only)

theorem lanesAccess_moves {l' : List Part} {s' : State} (s : State) (n : Nat) (l : List (Nat × Nat)) (go : VuOut) (h' : Moves l' s' s) (hl' : Part.Sub [] l') (hgo : VuMoves l' s' go) : VuMoves l' s' (lanesAccess s n l go) := by
  unfold lanesAccess
  try dsimp only
  repeat' (first
    | ((with_reducible refine Part.Sub.trans (l2 := []) (Part.Sub.mk ?_) hl'); rfl)

    | with_reducible apply VuMoves.wait
    | with_reducible apply VuMoves.fault
    | with_reducible apply VuMoves.ite
    | with_reducible apply Moves.refl
    | with_reducible assumption
    | with_reducible apply Moves.ite
    | with_reducible apply Moves.ite_fst
    | with_reducible apply Moves.ite_snd
    | intro _
    | split
    | dsimp only)

theorem vuRedMax_moves {l' : List Part} {s' : State} (s : State) (n : Nat) (v : Vu) (f : VuFields) (g : FVal → FVal → FVal) (h' : Moves l' s' s) (hl' : Part.Sub [.freeCtr, .regs, .tiles] l') : VuMoves l' s' (vuRedMax s n v f g) := by
  unfold vuRedMax
  try dsimp only
  repeat' (first
    | ((with_reducible refine Part.Sub.trans (l2 := [.freeCtr, .regs, .tiles]) (Part.Sub.mk ?_) hl'); rfl)

    | with_reducible apply Moves.refl
    | with_reducible assumption
    | with_reducible apply vuCnv_moves
    | with_reducible apply vuDone_moves
    | with_reducible apply Moves.foldl
    | with_reducible apply Moves.foldl_fst
    | with_reducible apply Moves.foldl_snd
    | intro _
    | split
    | dsimp only
    | with_reducible apply Moves.set_freeCtr)

theorem vuDraw_moves {l' : List Part} {s' : State} (s : State) (n : Nat) (v : Vu) (f : VuFields) (g : BitVec 64 → Nat) (h' : Moves l' s' s) (hl' : Part.Sub [.regs, .tiles] l') : VuMoves l' s' (vuDraw s n v f g) := by
  unfold vuDraw
  try dsimp only
  repeat' (first
    | ((with_reducible refine Part.Sub.trans (l2 := [.regs, .tiles]) (Part.Sub.mk ?_) hl'); rfl)

    | with_reducible apply Moves.refl
    | with_reducible assumption
    | with_reducible apply vuBits_moves
    | with_reducible apply takeDraws_moves
    | intro _
    | dsimp only)

theorem vuBranch_moves {l' : List Part} {s' : State} (s : State) (v : Vu) (f : VuFields) (take : Word → Bool) (h' : Moves l' s' s) (hl' : Part.Sub [] l') : VuMoves l' s' (vuBranch s v f take) := by
  unfold vuBranch
  try dsimp only
  repeat' (first
    | ((with_reducible refine Part.Sub.trans (l2 := []) (Part.Sub.mk ?_) hl'); rfl)

    | with_reducible apply VuMoves.goto
    | with_reducible apply VuMoves.fault
    | with_reducible apply VuMoves.ite
    | with_reducible apply Moves.refl
    | with_reducible assumption
    | with_reducible apply Moves.ite
    | intro _
    | split
    | dsimp only)

end Sys2Proof.Machine
end

