-- ==== Sys2Proof/Laws/Moves/Marten.lean ====
section
/-! SUPPORT. What the functions of Machine/Marten.lean touch. -/

namespace Sys2Proof.Machine

theorem runOp_moves {l' : List Part} {s' : State} (s : State) (m : Nat) (v : MVisit) (regs : List Word) (w : Word) (h' : Moves l' s' s) (hl' : Part.Sub [.freeCtr, .regs] l') : Moves l' s' (runOp s m v regs w).2 := by
  refine Moves.chain ?_ hl' h'
  clear h' hl'
  refine MovesP.h (p := runOp s m v regs w) ?_
  unfold runOp
  try dsimp only
  repeat' (first
    | ((with_reducible apply Part.Sub.mk); rfl)
    | with_reducible apply MovesP.of_mk
    | with_reducible apply MovesP.ite
    | with_reducible apply Moves.refl
    | with_reducible assumption
    | with_reducible apply countCnv_moves
    | with_reducible apply Moves.ite
    | with_reducible apply Moves.ite_fst
    | with_reducible apply Moves.ite_snd
    | intro _
    | split
    | dsimp only
    | with_reducible apply Moves.set_freeCtr)

theorem runProg_moves {l' : List Part} {s' : State} (m : Nat) (regs prog : List Word) (f : Nat) (x : MVisit × State) (h' : Moves l' s' x.2)
    (hl' : Part.Sub [.freeCtr, .regs] l') : Moves l' s' (runProg m regs prog f x).2 := by
  induction f generalizing x with
  | zero => exact h'
  | succ f ih => exact Moves.ite_snd (fun _ => h') fun _ => ih _ (runOp_moves _ _ _ _ _ h' hl')


theorem setUpd_moves {l' : List Part} {s' : State} (s : State) (m : Nat) (u : Option MUpd) (h' : Moves l' s' s) (hl' : Part.Sub [.regs, .mcs] l') : Moves l' s' (setUpd s m u) := by
  refine Moves.chain ?_ hl' h'
  clear h' hl'
  unfold setUpd
  try dsimp only
  repeat' (first
    | ((with_reducible apply Part.Sub.mk); rfl)
    | with_reducible apply Moves.refl
    | with_reducible assumption
    | with_reducible apply modMc_moves
    | with_reducible apply setFld_moves
    | intro _
    | split
    | dsimp only)

theorem setLast_moves {l' : List Part} {s' : State} (s : State) (m result entry sigma blk : Nat) (list : Bool) (h' : Moves l' s' s) (hl' : Part.Sub [.regs] l') : Moves l' s' (setLast s m result entry sigma blk list) := by
  refine Moves.chain ?_ hl' h'
  clear h' hl'
  unfold setLast
  try dsimp only
  repeat' (first
    | ((with_reducible apply Part.Sub.mk); rfl)
    | with_reducible apply Moves.refl
    | with_reducible assumption
    | with_reducible apply wrReg_moves
    | with_reducible apply Moves.ite
    | intro _
    | split
    | dsimp only)

theorem clearVisited_moves {l' : List Part} {s' : State} (s : State) (m bucket : Nat) (h' : Moves l' s' s) (hl' : Part.Sub [.mcs] l') : Moves l' s' (clearVisited s m bucket) := by
  refine Moves.chain ?_ hl' h'
  clear h' hl'
  unfold clearVisited
  try dsimp only
  repeat' (first
    | ((with_reducible apply Part.Sub.mk); rfl)
    | with_reducible apply Moves.refl
    | with_reducible assumption
    | with_reducible apply modMc_moves
    | intro _
    | dsimp only)

theorem busyCount_moves {l' : List Part} {s' : State} (s : State) (m : Nat) (u : MUpd) (h' : Moves l' s' s) (hl' : Part.Sub [.regs] l') : Moves l' s' (busyCount s m u) := by
  refine Moves.chain ?_ hl' h'
  clear h' hl'
  unfold busyCount
  try dsimp only
  repeat' (first
    | ((with_reducible apply Part.Sub.mk); rfl)
    | with_reducible apply Moves.refl
    | with_reducible assumption
    | with_reducible apply count_moves
    | dsimp only)

theorem failUpd_moves {l' : List Part} {s' : State} (s : State) (m : Nat) (u : MUpd) (result sigma blk : Nat) (list : Bool) (h' : Moves l' s' s) (hl' : Part.Sub [.regs, .hbm, .mcs, .owlFifo, .obkts, .fwEvents] l') : Moves l' s' (failUpd s m u result sigma blk list) := by
  refine Moves.chain ?_ hl' h'
  clear h' hl'
  unfold failUpd
  try dsimp only
  repeat' (first
    | ((with_reducible apply Part.Sub.mk); rfl)
    | with_reducible apply Moves.refl
    | with_reducible assumption
    | with_reducible apply busyCount_moves
    | with_reducible apply clearVisited_moves
    | with_reducible apply setLast_moves
    | with_reducible apply setUpd_moves
    | with_reducible apply mcReport_moves
    | with_reducible apply putPhase_moves
    | with_reducible apply modMc_moves
    | with_reducible apply raiseBit_moves
    | with_reducible apply count_moves
    | with_reducible apply Moves.ite
    | with_reducible apply Moves.ite_fst
    | with_reducible apply Moves.ite_snd
    | intro _
    | split
    | dsimp only)

theorem endUpd_moves {l' : List Part} {s' : State} (s : State) (m : Nat) (u : MUpd) (e : BktEntry) (h' : Moves l' s' s) (hl' : Part.Sub [.regs, .hbm, .mcs, .owlFifo, .obkts, .fwEvents] l') : Moves l' s' (endUpd s m u e) := by
  refine Moves.chain ?_ hl' h'
  clear h' hl'
  unfold endUpd
  try dsimp only
  repeat' (first
    | ((with_reducible apply Part.Sub.mk); rfl)
    | with_reducible apply Moves.refl
    | with_reducible assumption
    | with_reducible apply busyCount_moves
    | with_reducible apply clearVisited_moves
    | with_reducible apply setLast_moves
    | with_reducible apply setUpd_moves
    | with_reducible apply mcReport_moves
    | with_reducible apply putState_moves
    | with_reducible apply count_moves
    | dsimp only)

theorem martenStart_moves {l' : List Part} {s' : State} (s : State) (m : Nat) (h' : Moves l' s' s) (hl' : Part.Sub [.regs, .hbm, .mcs, .owlFifo, .obkts, .fwEvents] l') : Moves l' s' (martenStart s m) := by
  refine Moves.chain ?_ hl' h'
  clear h' hl'
  unfold martenStart
  try dsimp only
  repeat' (first
    | ((with_reducible apply Part.Sub.mk); rfl)
    | with_reducible apply Moves.refl
    | with_reducible assumption
    | with_reducible apply endUpd_moves
    | with_reducible apply failUpd_moves
    | with_reducible apply clearVisited_moves
    | with_reducible apply setUpd_moves
    | with_reducible apply putPhase_moves
    | with_reducible apply modMc_moves
    | with_reducible apply raiseBit_moves
    | with_reducible apply Moves.ite
    | intro _
    | split
    | dsimp only)

theorem readPart_moves {l' : List Part} {s' : State} (s : State) (m L tid blk0 fmt n bad : Nat) (h' : Moves l' s' s) (hl' : Part.Sub [.regs, .owlFifo] l') : Moves l' s' (readPart s m L tid blk0 fmt n bad).2 := by
  refine Moves.chain ?_ hl' h'
  clear h' hl'
  refine MovesP.h (p := readPart s m L tid blk0 fmt n bad) ?_
  unfold readPart
  try dsimp only
  repeat' (first
    | ((with_reducible apply Part.Sub.mk); rfl)
    | with_reducible apply MovesP.of_mk
    | with_reducible apply MovesP.ite
    | with_reducible apply MovesP.foldl
    | with_reducible apply Moves.refl
    | with_reducible assumption
    | with_reducible apply readChecked_moves
    | with_reducible apply Moves.ite
    | with_reducible apply Moves.foldl
    | with_reducible apply Moves.ite_fst
    | with_reducible apply Moves.ite_snd
    | with_reducible apply Moves.foldl_fst
    | with_reducible apply Moves.foldl_snd
    | intro _
    | split
    | dsimp only)

theorem visitTarget_moves {l' : List Part} {s' : State} (s : State) (m : Nat) (u : MUpd) (e : BktEntry) (tch : Bool) (h' : Moves l' s' s) (hl' : Part.Sub [.regs, .owlFifo] l') : Moves l' s' (visitTarget s m u e tch).2 := by
  refine Moves.chain ?_ hl' h'
  clear h' hl'
  refine MovesP.h (p := visitTarget s m u e tch) ?_
  unfold visitTarget
  try dsimp only
  repeat' (first
    | ((with_reducible apply Part.Sub.mk); rfl)
    | with_reducible apply MovesP.of_mk
    | with_reducible apply MovesP.ite
    | with_reducible apply Moves.refl
    | with_reducible assumption
    | with_reducible apply readPart_moves
    | (with_reducible apply MovesP.mk; with_reducible apply readPart_moves)
    | with_reducible apply Moves.ite
    | intro _
    | split
    | dsimp only)

theorem visitParts_moves {l' : List Part} {s' : State} (s : State) (m : Nat) (u : MUpd) (e : BktEntry) (bad : Nat) (h' : Moves l' s' s) (hl' : Part.Sub [.regs, .owlFifo] l') : Moves l' s' (visitParts s m u e bad).2 := by
  refine Moves.chain ?_ hl' h'
  clear h' hl'
  refine MovesP.h (p := visitParts s m u e bad) ?_
  unfold visitParts
  try dsimp only
  repeat' (first
    | ((with_reducible apply Part.Sub.mk); rfl)
    | with_reducible apply MovesP.of_mk
    | with_reducible apply MovesP.ite
    | with_reducible apply Moves.refl
    | with_reducible assumption
    | with_reducible apply visitTarget_moves
    | (with_reducible apply MovesP.mk; with_reducible apply visitTarget_moves)
    | with_reducible apply readPart_moves
    | (with_reducible apply MovesP.mk; with_reducible apply readPart_moves)
    | with_reducible apply Moves.ite
    | with_reducible apply Moves.ite_fst
    | with_reducible apply Moves.ite_snd
    | intro _
    | split
    | dsimp only)

theorem loadVisit_moves {l' : List Part} {s' : State} (s : State) (m : Nat) (u : MUpd) (e : BktEntry) (bad : Nat) (h' : Moves l' s' s)
    (hl' : Part.Sub [.regs, .owlFifo] l') : Moves l' s' (loadVisit s m u e bad).2 := by
  refine MovesP.h (p := loadVisit s m u e bad) ?_
  have h1 := visitParts_moves s m u e bad h' (.trans (l2 := [.regs, .owlFifo]) ⟨rfl⟩ hl')
  unfold loadVisit
  generalize visitParts s m u e bad = r at h1 ⊢
  obtain ⟨⟨a, b, c, d⟩, t⟩ := r
  dsimp only at h1 ⊢
  split
  · refine MovesP.ite (fun _ => .of_mk h1) fun _ => ?_
    exact .of_mk (countCnv_moves _ _ _ _ h1 (.trans (l2 := [.regs, .owlFifo]) ⟨rfl⟩ hl'))
  · exact .of_mk h1


theorem writePart_moves {l' : List Part} {s' : State} (s : State) (m L tid blk0 fmt : Nat) (e : BktEntry) (pay : List (List Byte)) (h' : Moves l' s' s) (hl' : Part.Sub [.regs, .hbm, .mcs] l') : Moves l' s' (writePart s m L tid blk0 fmt e pay) := by
  refine Moves.chain ?_ hl' h'
  clear h' hl'
  unfold writePart
  try dsimp only
  repeat' (first
    | ((with_reducible apply Part.Sub.mk); rfl)
    | with_reducible apply Moves.refl
    | with_reducible assumption
    | with_reducible apply localWrite_moves
    | with_reducible apply Moves.foldl
    | with_reducible apply Moves.foldl_fst
    | with_reducible apply Moves.foldl_snd
    | intro _
    | dsimp only)

theorem writeVisit_moves {l' : List Part} {s' : State} (s : State) (m : Nat) (u : MUpd) (e : BktEntry) (v : MVisit) (pc : List ProjCol) (h' : Moves l' s' s) (hl' : Part.Sub [.regs, .hbm, .mcs] l') : Moves l' s' (writeVisit s m u e v pc) := by
  refine Moves.chain ?_ hl' h'
  clear h' hl'
  unfold writeVisit
  try dsimp only
  repeat' (first
    | ((with_reducible apply Part.Sub.mk); rfl)
    | with_reducible apply Moves.refl
    | with_reducible assumption
    | with_reducible apply writePart_moves
    | with_reducible apply localWrite_moves
    | with_reducible apply countCnv_moves
    | with_reducible apply Moves.ite
    | with_reducible apply Moves.ite_fst
    | with_reducible apply Moves.ite_snd
    | intro _
    | split
    | dsimp only)

theorem addClip_moves {l' : List Part} {s' : State} (s : State) (m : Nat) (e : BktEntry) (sigma k n : Nat) (h' : Moves l' s' s) (hl' : Part.Sub [.regs, .hbm, .mcs] l') : Moves l' s' (addClip s m e sigma k n) := by
  refine Moves.chain ?_ hl' h'
  clear h' hl'
  unfold addClip
  try dsimp only
  repeat' (first
    | ((with_reducible apply Part.Sub.mk); rfl)
    | with_reducible apply Moves.refl
    | with_reducible assumption
    | with_reducible apply localWrite_moves
    | dsimp only)

theorem writeList_moves {l' : List Part} {s' : State} (s : State) (m : Nat) (u : MUpd) (e : BktEntry) (kept : List Outlier) (h' : Moves l' s' s) (hl' : Part.Sub [.regs, .hbm, .mcs] l') : Moves l' s' (writeList s m u e kept) := by
  refine Moves.chain ?_ hl' h'
  clear h' hl'
  unfold writeList
  try dsimp only
  repeat' (first
    | ((with_reducible apply Part.Sub.mk); rfl)
    | with_reducible apply Moves.refl
    | with_reducible assumption
    | with_reducible apply addClip_moves
    | with_reducible apply localWrite_moves
    | with_reducible apply countAll_moves
    | with_reducible apply Moves.ite
    | with_reducible apply Moves.foldl
    | intro _
    | split
    | dsimp only)

theorem buildList_moves {l' : List Part} {s' : State} (s : State) (m : Nat) (u : MUpd) (e : BktEntry) (bad : Nat) (h' : Moves l' s' s)
    (hl' : Part.Sub [.regs, .hbm, .mcs, .owlFifo] l') : Moves l' s' (buildList s m u e bad).2 := by
  refine MovesP.h (p := buildList s m u e bad) ?_
  have h1 := readChecked_moves s m (listAddr e u.sigma) { tid := e.ltid, blk := (e.lblk0 + u.sigma) % 2 ^ 32, fmt := fmtCode .int32, layout := 3 } bad
    h' (.trans (l2 := [.regs, .hbm, .mcs, .owlFifo]) ⟨rfl⟩ hl')
  unfold buildList
  generalize readChecked s m (listAddr e u.sigma) { tid := e.ltid, blk := (e.lblk0 + u.sigma) % 2 ^ 32, fmt := fmtCode .int32, layout := 3 } bad = r at h1 ⊢
  obtain ⟨a, b, t⟩ := r
  dsimp only at h1 ⊢
  exact MovesP.ite (fun _ => .of_mk (writeList_moves _ _ _ _ _ h1 (.trans (l2 := [.regs, .hbm, .mcs, .owlFifo]) ⟨rfl⟩ hl'))) fun _ => .of_mk h1


theorem blockDone_moves {l' : List Part} {s' : State} (s : State) (m : Nat) (u : MUpd) (e : BktEntry) (proj : Option (List ProjCol)) (listBad : Nat)
    (h' : Moves l' s' s) (hl' : Part.Sub [.regs, .hbm, .mcs, .owlFifo, .obkts, .fwEvents] l') : Moves l' s' (blockDone s m u e proj listBad) := by
  have sub : ∀ {a : List Part}, Part.Sub a [.regs, .hbm, .mcs, .owlFifo, .obkts, .fwEvents] → Part.Sub a l' := fun h => h.trans hl'
  unfold blockDone
  extract_lets bit s1 u1
  have h1 : Moves l' s' s1 := modMc_moves _ _ _ (putTouched_moves _ _ _ _ _ h' (sub ⟨rfl⟩)) (sub ⟨rfl⟩)
  clear_value s1 u1
  refine Moves.ite (fun _ => setUpd_moves _ _ _ h1 (sub ⟨rfl⟩)) fun _ => ?_
  rename_i l _
  have h2 : Moves l' s' l.2 := buildList_moves s1 m u1 e listBad h1 (sub ⟨rfl⟩)
  clear_value l
  obtain ⟨b, t⟩ := l
  dsimp only at h2 ⊢
  apply Moves.ite <;> intro _
  · apply failUpd_moves
    · exact h2
    · exact sub ⟨rfl⟩
  split
  · exact setUpd_moves _ _ _ h2 (sub ⟨rfl⟩)
  · split
    · exact endUpd_moves _ _ _ _ h2 (sub ⟨rfl⟩)
    · exact h2


theorem restampBlock_moves {l' : List Part} {s' : State} (s : State) (m : Nat) (u : MUpd) (e : BktEntry) (bad listBad : Nat) (h' : Moves l' s' s) (hl' : Part.Sub [.regs, .hbm, .mcs, .owlFifo, .obkts, .fwEvents] l') : Moves l' s' (restampBlock s m u e bad listBad) := by
  refine Moves.chain ?_ hl' h'
  clear h' hl'
  unfold restampBlock
  try dsimp only
  repeat' (first
    | ((with_reducible apply Part.Sub.mk); rfl)
    | with_reducible apply Moves.refl
    | with_reducible assumption
    | with_reducible apply blockDone_moves
    | with_reducible apply failUpd_moves
    | with_reducible apply readChecked_moves
    | with_reducible apply localWrite_moves
    | with_reducible apply count_moves
    | with_reducible apply Moves.ite
    | with_reducible apply Moves.ite_fst
    | with_reducible apply Moves.ite_snd
    | intro _
    | split
    | dsimp only)

theorem finishVisit_moves {l' : List Part} {s' : State} (s : State) (m : Nat) (u : MUpd) (e : BktEntry) (v : MVisit) (res bad listBad : Nat) (h' : Moves l' s' s) (hl' : Part.Sub [.freeCtr, .regs, .hbm, .mcs, .owlFifo, .taintFrom, .obkts, .fwEvents] l') : Moves l' s' (finishVisit s m u e v res bad listBad) := by
  refine Moves.chain ?_ hl' h'
  clear h' hl'
  unfold finishVisit
  try dsimp only
  repeat' (first
    | ((with_reducible apply Part.Sub.mk); rfl)
    | with_reducible apply Moves.refl
    | with_reducible assumption
    | with_reducible apply restampBlock_moves
    | with_reducible apply blockDone_moves
    | with_reducible apply writeVisit_moves
    | with_reducible apply failUpd_moves
    | with_reducible apply runProg_moves
    | with_reducible apply mcDraws_moves
    | with_reducible apply mcFault_moves
    | with_reducible apply raiseBit_moves
    | with_reducible apply count_moves
    | with_reducible apply Moves.ite
    | with_reducible apply Moves.ite_fst
    | with_reducible apply Moves.ite_snd
    | intro _
    | split
    | dsimp only)

theorem blockVisit_moves {l' : List Part} {s' : State} (s : State) (m res bad listBad : Nat) (h' : Moves l' s' s) (hl' : Part.Sub [.freeCtr, .regs, .hbm, .mcs, .owlFifo, .taintFrom, .obkts, .fwEvents] l') : Moves l' s' (blockVisit s m res bad listBad) := by
  refine Moves.chain ?_ hl' h'
  clear h' hl'
  unfold blockVisit
  try dsimp only
  repeat' (first
    | ((with_reducible apply Part.Sub.mk); rfl)
    | with_reducible apply Moves.refl
    | with_reducible assumption
    | with_reducible apply finishVisit_moves
    | with_reducible apply restampBlock_moves
    | with_reducible apply blockDone_moves
    | with_reducible apply loadVisit_moves
    | with_reducible apply failUpd_moves
    | with_reducible apply Moves.ite
    | with_reducible apply Moves.ite_fst
    | with_reducible apply Moves.ite_snd
    | intro _
    | split
    | dsimp only)

theorem opStep_moves {l' : List Part} {s' : State} (s : State) (m : Nat) (w : Word) (h' : Moves l' s' s) (hl' : Part.Sub [.freeCtr, .regs, .hbm, .mcs, .owlFifo, .obkts, .fwEvents] l') : Moves l' s' (opStep s m w) := by
  refine Moves.chain ?_ hl' h'
  clear h' hl'
  unfold opStep
  try dsimp only
  repeat' (first
    | ((with_reducible apply Part.Sub.mk); rfl)
    | with_reducible apply Moves.refl
    | with_reducible assumption
    | with_reducible apply blockDone_moves
    | with_reducible apply loadVisit_moves
    | with_reducible apply failUpd_moves
    | with_reducible apply setUpd_moves
    | with_reducible apply runOp_moves
    | (with_reducible apply MovesP.mk; with_reducible apply runOp_moves)
    | with_reducible apply Moves.ite
    | with_reducible apply Moves.ite_fst
    | with_reducible apply Moves.ite_snd
    | intro _
    | split
    | dsimp only)

theorem mrtSeed_moves {l' : List Part} {s' : State} (s : State) (m seed : Nat) (h' : Moves l' s' s) (hl' : Part.Sub [.regs] l') : Moves l' s' (mrtSeed s m seed) := by
  refine Moves.chain ?_ hl' h'
  clear h' hl'
  unfold mrtSeed
  try dsimp only
  repeat' (first
    | ((with_reducible apply Part.Sub.mk); rfl)
    | with_reducible apply Moves.refl
    | with_reducible assumption
    | with_reducible apply setFld_moves
    | with_reducible apply Moves.foldl
    | intro _
    | dsimp only)

end Sys2Proof.Machine
end

