-- ==== Sys2Proof/Laws/Moves/Boot.lean ====
section
/-! SUPPORT. What the functions of Machine/Boot.lean touch. -/

namespace Sys2Proof.Machine

theorem clearRegs_moves {l' : List Part} {s' : State} (s : State) (p : Nat → Bool) (h' : Moves l' s' s) (hl' : Part.Sub [.regs] l') : Moves l' s' (clearRegs s p) := by
  refine Moves.chain ?_ hl' h'
  clear h' hl'
  unfold clearRegs
  try dsimp only
  repeat' (first
    | ((with_reducible apply Part.Sub.mk); rfl)
    | with_reducible apply Moves.refl
    | with_reducible assumption
    | intro _
    | with_reducible apply swf_filter
    | dsimp only
    | with_reducible apply Moves.set_regs)

theorem loadFuses_moves {l' : List Part} {s' : State} (s : State) (p : Nat → Bool) (h' : Moves l' s' s) (hl' : Part.Sub [.regs] l') : Moves l' s' (loadFuses s p) := by
  refine Moves.chain ?_ hl' h'
  clear h' hl'
  unfold loadFuses
  try dsimp only
  repeat' (first
    | ((with_reducible apply Part.Sub.mk); rfl)
    | with_reducible apply Moves.refl
    | with_reducible assumption
    | with_reducible apply wrReg_moves
    | with_reducible apply Moves.ite
    | with_reducible apply Moves.foldl
    | with_reducible apply Moves.ite_fst
    | with_reducible apply Moves.ite_snd
    | with_reducible apply Moves.foldl_fst
    | with_reducible apply Moves.foldl_snd
    | intro _
    | split
    | dsimp only)

theorem resetTile_moves {l' : List Part} {s' : State} (s : State) (n : Nat) (h' : Moves l' s' s) (hl' : Part.Sub [.regs, .seedLow, .tiles] l') : Moves l' s' (resetTile s n) := by
  refine Moves.chain ?_ hl' h'
  clear h' hl'
  unfold resetTile
  try dsimp only
  repeat' (first
    | ((with_reducible apply Part.Sub.mk); rfl)
    | with_reducible apply Moves.refl
    | with_reducible assumption
    | with_reducible apply loadFuses_moves
    | with_reducible apply clearRegs_moves
    | with_reducible apply setTile_moves
    | intro _
    | dsimp only
    | with_reducible apply Moves.set_seedLow)

theorem resetMc_moves {l' : List Part} {s' : State} (s : State) (m : Nat) (h' : Moves l' s' s) (hl' : Part.Sub [.regs, .hbm, .mcs] l') : Moves l' s' (resetMc s m) := by
  refine Moves.chain ?_ hl' h'
  clear h' hl'
  unfold resetMc
  try dsimp only
  repeat' (first
    | ((with_reducible apply Part.Sub.mk); rfl)
    | with_reducible apply Moves.refl
    | with_reducible assumption
    | with_reducible apply clearRegs_moves
    | intro _
    | with_reducible apply swf_sset
    | with_reducible apply swf_filter
    | dsimp only
    | with_reducible apply Moves.set_hbm_mcs)

theorem resetPort_moves {l' : List Part} {s' : State} (s : State) (p : Nat) (h' : Moves l' s' s) (hl' : Part.Sub [.regs, .ports] l') : Moves l' s' (resetPort s p) := by
  refine Moves.chain ?_ hl' h'
  clear h' hl'
  unfold resetPort
  try dsimp only
  repeat' (first
    | ((with_reducible apply Part.Sub.mk); rfl)
    | with_reducible apply Moves.refl
    | with_reducible assumption
    | with_reducible apply clearRegs_moves
    | intro _
    | with_reducible apply swf_sset
    | dsimp only
    | with_reducible apply Moves.set_ports)

theorem resetDie_moves {l' : List Part} {s' : State} (s : State) (d : Nat) (h' : Moves l' s' s) (hl' : Part.Sub [.regs, .seedLow, .hbm, .tiles, .mcs, .ports] l') : Moves l' s' (resetDie s d) := by
  refine Moves.chain ?_ hl' h'
  clear h' hl'
  unfold resetDie
  try dsimp only
  repeat' (first
    | ((with_reducible apply Part.Sub.mk); rfl)
    | with_reducible apply Moves.refl
    | with_reducible assumption
    | with_reducible apply resetPort_moves
    | with_reducible apply resetMc_moves
    | with_reducible apply resetTile_moves
    | with_reducible apply Moves.foldl
    | with_reducible apply Moves.foldl_fst
    | with_reducible apply Moves.foldl_snd
    | intro _
    | dsimp only
    | with_reducible apply Moves.set_seedLow)

theorem resetHub_moves {l' : List Part} {s' : State} (s : State) (h' : Moves l' s' s) (hl' : Part.Sub [.regs, .latches, .hbm, .mcs, .owlFifo, .taints, .taintFrom, .suspects, .cfg, .staged, .prevTag, .actAt, .hubAt, .obkts, .rbkts, .accSent, .localRx, .passed, .doneV, .csFails, .failWins, .ledger, .fwEvents, .mbx, .mbxPosted, .mbxRun, .evqs, .msix, .msixPend, .fwRecs, .fwNum, .fwNet, .owlNet, .fwRaw, .sec, .cpy, .mon, .beatAt, .stall, .tad, .bdg, .bdgMem, .bdgLast, .den, .scanned, .retiring] l') : Moves l' s' (resetHub s) := by
  refine Moves.chain ?_ hl' h'
  clear h' hl'
  unfold resetHub
  try dsimp only
  repeat' (first
    | ((with_reducible apply Part.Sub.mk); rfl)
    | with_reducible apply Moves.refl
    | with_reducible assumption
    | with_reducible apply loadFuses_moves
    | with_reducible apply clearRegs_moves
    | with_reducible apply armAt_moves
    | with_reducible apply setBit_moves
    | with_reducible apply setFld_moves
    | with_reducible apply Moves.ite
    | with_reducible apply Moves.foldl
    | with_reducible apply Moves.ite_fst
    | with_reducible apply Moves.ite_snd
    | with_reducible apply Moves.foldl_fst
    | with_reducible apply Moves.foldl_snd
    | intro _
    | with_reducible apply swf_sset
    | with_reducible apply swf_ssetList
    | with_reducible apply swf_filter
    | with_reducible apply swf_nil
    | with_reducible apply swf_foldl
    | with_reducible apply List.prefix_append
    | with_reducible apply List.prefix_refl
    | split
    | dsimp only
    | with_reducible apply Moves.set_many
    | exact List.prefix_append _ _
    | exact (List.prefix_append _ _).trans (List.prefix_append _ _)
    | omega)

theorem reloadTrims_moves {l' : List Part} {s' : State} (s : State) (n : Nat) (h' : Moves l' s' s) (hl' : Part.Sub [.regs, .tiles] l') : Moves l' s' (reloadTrims s n) := by
  refine Moves.chain ?_ hl' h'
  clear h' hl'
  unfold reloadTrims
  try dsimp only
  repeat' (first
    | ((with_reducible apply Part.Sub.mk); rfl)
    | with_reducible apply Moves.refl
    | with_reducible assumption
    | with_reducible apply loadTrims_moves
    | with_reducible apply Moves.ite
    | intro _
    | split
    | dsimp only)

theorem showPins_moves {l' : List Part} {s' : State} (s : State) (ready : Bool) (h' : Moves l' s' s) (hl' : Part.Sub [.regs, .out, .pwr] l') : Moves l' s' (showPins s ready) := by
  refine Moves.chain ?_ hl' h'
  clear h' hl'
  unfold showPins
  try dsimp only
  repeat' (first
    | ((with_reducible apply Part.Sub.mk); rfl)
    | with_reducible apply Moves.refl
    | with_reducible assumption
    | with_reducible apply setFld_moves
    | with_reducible apply Moves.ite
    | intro _
    | with_reducible apply List.prefix_append
    | with_reducible apply List.prefix_refl
    | with_reducible apply Moves.set_out_pwr
    | split
    | dsimp only
    | exact List.prefix_append _ _
    | exact (List.prefix_append _ _).trans (List.prefix_append _ _))

theorem settleThr_moves {l' : List Part} {s' : State} (s : State) (h' : Moves l' s' s) (hl' : Part.Sub [.regs, .pwr] l') : Moves l' s' (settleThr s) := by
  refine Moves.chain ?_ hl' h'
  clear h' hl'
  unfold settleThr
  try dsimp only
  repeat' (first
    | ((with_reducible apply Part.Sub.mk); rfl)
    | with_reducible apply Moves.refl
    | with_reducible assumption
    | with_reducible apply countAll_moves
    | with_reducible apply count_moves
    | with_reducible apply Moves.ite
    | with_reducible apply Moves.foldl
    | intro _
    | split
    | dsimp only
    | with_reducible apply Moves.set_pwr)

theorem showThr_moves {l' : List Part} {s' : State} (s : State) (h' : Moves l' s' s) (hl' : Part.Sub [.regs, .pwr] l') : Moves l' s' (showThr s) := by
  refine Moves.chain ?_ hl' h'
  clear h' hl'
  unfold showThr
  try dsimp only
  repeat' (first
    | ((with_reducible apply Part.Sub.mk); rfl)
    | with_reducible apply Moves.refl
    | with_reducible assumption
    | with_reducible apply settleThr_moves
    | with_reducible apply setBit_moves
    | with_reducible apply setFld_moves
    | with_reducible apply Moves.ite
    | with_reducible apply Moves.foldl
    | intro _
    | split
    | dsimp only)

theorem powerDown_moves {l' : List Part} {s' : State} (s : State) (why : OffWhy) (h' : Moves l' s' s) (hl' : Part.Sub [.regs, .latches, .seedLow, .hbm, .tiles, .mcs, .launchAt, .sigs, .lastGrant, .owlFifo, .taints, .taintFrom, .suspects, .cfg, .staged, .prevTag, .actAt, .hubAt, .obkts, .rbkts, .accSent, .localRx, .passed, .doneV, .csFails, .failWins, .ledger, .ports, .fwEvents, .out, .mbx, .mbxPosted, .mbxRun, .evqs, .msix, .msixPend, .fwRecs, .fwNum, .fwNet, .owlNet, .fwRaw, .mgmtDown, .sec, .cpy, .mon, .beatAt, .stall, .tad, .bdg, .bdgMem, .bdgLast, .den, .scanned, .retiring, .pwr, .hubUp, .d3hot] l') : Moves l' s' (powerDown s why) := by
  refine Moves.chain ?_ hl' h'
  clear h' hl'
  unfold powerDown
  try dsimp only
  repeat' (first
    | ((with_reducible apply Part.Sub.mk); rfl)
    | with_reducible apply Moves.refl
    | with_reducible assumption
    | with_reducible apply showPins_moves
    | with_reducible apply resetHub_moves
    | with_reducible apply resetDie_moves
    | with_reducible apply clearRegs_moves
    | with_reducible apply setFld_moves
    | with_reducible apply Moves.foldl
    | intro _
    | with_reducible apply swf_nil
    | with_reducible apply swf_foldl
    | dsimp only
    | with_reducible apply Moves.set_hbm_launchAt_sigs_lastGrant_mgmtDown_pwr_hubUp_d3hot)

theorem bootRom_moves {l' : List Part} {s' : State} (s : State) (h' : Moves l' s' s) (hl' : Part.Sub [.regs, .owlFifo, .sec] l') : Moves l' s' (bootRom s) := by
  refine Moves.chain ?_ hl' h'
  clear h' hl'
  unfold bootRom
  try dsimp only
  repeat' (first
    | ((with_reducible apply Part.Sub.mk); rfl)
    | with_reducible apply Moves.refl
    | with_reducible assumption
    | with_reducible apply raiseBit_moves
    | with_reducible apply setFld_moves
    | with_reducible apply wrReg_moves
    | with_reducible apply Moves.ite
    | with_reducible apply Moves.foldl
    | with_reducible apply Moves.ite_fst
    | with_reducible apply Moves.ite_snd
    | with_reducible apply Moves.foldl_fst
    | with_reducible apply Moves.foldl_snd
    | intro _
    | split
    | dsimp only
    | with_reducible apply Moves.set_sec)

theorem bringReady_moves {l' : List Part} {s' : State} (s : State) (h' : Moves l' s' s) (hl' : Part.Sub [.regs, .tiles] l') : Moves l' s' (bringReady s) := by
  refine Moves.chain ?_ hl' h'
  clear h' hl'
  unfold bringReady
  try dsimp only
  repeat' (first
    | ((with_reducible apply Part.Sub.mk); rfl)
    | with_reducible apply Moves.refl
    | with_reducible assumption
    | with_reducible apply mrtSeed_moves
    | with_reducible apply loadTrims_moves
    | with_reducible apply reseed_moves
    | with_reducible apply setFld_moves
    | with_reducible apply Moves.ite
    | with_reducible apply Moves.foldl
    | with_reducible apply Moves.ite_fst
    | with_reducible apply Moves.ite_snd
    | with_reducible apply Moves.foldl_fst
    | with_reducible apply Moves.foldl_snd
    | intro _
    | split
    | dsimp only)

theorem rebootHub_moves {l' : List Part} {s' : State} (s : State) (h' : Moves l' s' s) (hl' : Part.Sub [.regs, .latches, .hbm, .tiles, .mcs, .owlFifo, .taints, .taintFrom, .suspects, .cfg, .staged, .prevTag, .actAt, .hubAt, .obkts, .rbkts, .accSent, .localRx, .passed, .doneV, .csFails, .failWins, .ledger, .fwEvents, .out, .mbx, .mbxPosted, .mbxRun, .evqs, .msix, .msixPend, .fwRecs, .fwNum, .fwNet, .owlNet, .fwRaw, .sec, .cpy, .mon, .beatAt, .stall, .tad, .bdg, .bdgMem, .bdgLast, .den, .scanned, .retiring, .pwr] l') : Moves l' s' (rebootHub s) := by
  refine Moves.chain ?_ hl' h'
  clear h' hl'
  unfold rebootHub
  try dsimp only
  repeat' (first
    | ((with_reducible apply Part.Sub.mk); rfl)
    | with_reducible apply Moves.refl
    | with_reducible assumption
    | with_reducible apply bringReady_moves
    | with_reducible apply bootRom_moves
    | with_reducible apply showPins_moves
    | with_reducible apply resetHub_moves
    | with_reducible apply Moves.ite
    | intro _
    | split
    | dsimp only)

theorem linkReport_moves {l' : List Part} {s' : State} (s : State) (h' : Moves l' s' s) (hl' : Part.Sub [.fwEvents] l') : Moves l' s' (linkReport s) := by
  refine Moves.chain ?_ hl' h'
  clear h' hl'
  unfold linkReport
  try dsimp only
  repeat' (first
    | ((with_reducible apply Part.Sub.mk); rfl)
    | with_reducible apply Moves.refl
    | with_reducible assumption
    | with_reducible apply pushEv_moves
    | with_reducible apply Moves.ite
    | intro _
    | split
    | dsimp only)

theorem stackReport_moves {l' : List Part} {s' : State} (s : State) (m : Nat) (h' : Moves l' s' s) (hl' : Part.Sub [.fwEvents, .out] l') : Moves l' s' (stackReport s m) := by
  refine Moves.chain ?_ hl' h'
  clear h' hl'
  unfold stackReport
  try dsimp only
  repeat' (first
    | ((with_reducible apply Part.Sub.mk); rfl)
    | with_reducible apply Moves.refl
    | with_reducible assumption
    | with_reducible apply pushEv_moves
    | intro _
    | with_reducible apply List.prefix_append
    | with_reducible apply List.prefix_refl
    | dsimp only
    | with_reducible apply Moves.set_out
    | exact List.prefix_append _ _
    | exact (List.prefix_append _ _).trans (List.prefix_append _ _))

theorem powered_moves {l' : List Part} {s' : State} (s : State) (e : StartEnv) (h' : Moves l' s' s) (hl' : Part.Sub [.pwr, .hubUp] l') : Moves l' s' (powered s e) := by
  refine Moves.chain ?_ hl' h'
  clear h' hl'
  unfold powered
  try dsimp only
  repeat' (first
    | ((with_reducible apply Part.Sub.mk); rfl)
    | with_reducible apply Moves.refl
    | with_reducible assumption
    | dsimp only
    | with_reducible apply Moves.set_pwr_hubUp)

theorem startHub_moves {l' : List Part} {s' : State} (s : State) (e : StartEnv) (h' : Moves l' s' s) (hl' : Part.Sub [.regs, .latches, .hbm, .mcs, .owlFifo, .taints, .taintFrom, .suspects, .cfg, .staged, .prevTag, .actAt, .hubAt, .obkts, .rbkts, .accSent, .localRx, .passed, .doneV, .csFails, .failWins, .ledger, .fwEvents, .mbx, .mbxPosted, .mbxRun, .evqs, .msix, .msixPend, .fwRecs, .fwNum, .fwNet, .owlNet, .fwRaw, .sec, .cpy, .mon, .beatAt, .stall, .tad, .bdg, .bdgMem, .bdgLast, .den, .scanned, .retiring, .pwr, .hubUp] l') : Moves l' s' (startHub s e) := by
  refine Moves.chain ?_ hl' h'
  clear h' hl'
  unfold startHub
  try dsimp only
  repeat' (first
    | ((with_reducible apply Part.Sub.mk); rfl)
    | with_reducible apply Moves.refl
    | with_reducible assumption
    | with_reducible apply powered_moves
    | with_reducible apply resetHub_moves
    | with_reducible apply setBit_moves
    | with_reducible apply setFld_moves
    | with_reducible apply Moves.ite
    | intro _
    | split
    | dsimp only
    | with_reducible apply Moves.set_pwr)

theorem startBoot_moves {l' : List Part} {s' : State} (s : State) (e : StartEnv) (h' : Moves l' s' s) (hl' : Part.Sub [.regs, .latches, .seedLow, .hbm, .tiles, .mcs, .owlFifo, .taints, .taintFrom, .suspects, .cfg, .staged, .prevTag, .actAt, .hubAt, .obkts, .rbkts, .accSent, .localRx, .passed, .doneV, .csFails, .failWins, .ledger, .ports, .fwEvents, .mbx, .mbxPosted, .mbxRun, .evqs, .msix, .msixPend, .fwRecs, .fwNum, .fwNet, .owlNet, .fwRaw, .sec, .cpy, .mon, .beatAt, .stall, .tad, .bdg, .bdgMem, .bdgLast, .den, .scanned, .retiring, .pwr, .hubUp] l') : Moves l' s' (startBoot s e) := by
  refine Moves.chain ?_ hl' h'
  clear h' hl'
  unfold startBoot
  try dsimp only
  repeat' (first
    | ((with_reducible apply Part.Sub.mk); rfl)
    | with_reducible apply Moves.refl
    | with_reducible assumption
    | with_reducible apply startHub_moves
    | with_reducible apply bootRom_moves
    | with_reducible apply resetDie_moves
    | with_reducible apply Moves.foldl
    | intro _
    | dsimp only)

theorem startFrom2_moves {l' : List Part} {s' : State} (s : State) (t2 : Nat) (e : StartEnv) (ht : s.now ≤ t2) (h' : Moves l' s' s)
    (hl' : Part.Sub [.now, .regs, .latches, .seedLow, .hbm, .tiles, .mcs, .launchAt, .owlFifo, .taints, .taintFrom, .suspects, .cfg, .staged, .prevTag, .actAt, .hubAt, .obkts, .rbkts, .accSent, .localRx, .passed, .doneV, .csFails, .failWins, .ledger, .ports, .fwEvents, .out, .mbx, .mbxPosted, .mbxRun, .evqs, .msix, .msixPend, .fwRecs, .fwNum, .fwNet, .owlNet, .fwRaw, .sec, .cpy, .mon, .beatAt, .stall, .tad, .bdg, .bdgMem, .bdgLast, .den, .scanned, .retiring, .pwr, .hubUp] l') : Moves l' s' (startFrom2 s t2 e) := by
  have sub : ∀ {a : List Part}, Part.Sub a [.now, .regs, .latches, .seedLow, .hbm, .tiles, .mcs, .launchAt, .owlFifo, .taints, .taintFrom, .suspects, .cfg, .staged, .prevTag, .actAt, .hubAt, .obkts, .rbkts, .accSent, .localRx, .passed, .doneV, .csFails, .failWins, .ledger, .ports, .fwEvents, .out, .mbx, .mbxPosted, .mbxRun, .evqs, .msix, .msixPend, .fwRecs, .fwNum, .fwNet, .owlNet, .fwRaw, .sec, .cpy, .mon, .beatAt, .stall, .tad, .bdg, .bdgMem, .bdgLast, .den, .scanned, .retiring, .pwr, .hubUp] → Part.Sub a l' := fun h => h.trans hl'
  unfold startFrom2
  extract_lets ms s4
  have h0 : Moves l' s' { s with now := t2 + ms 4 } := Moves.set_now h' (sub ⟨rfl⟩) (Nat.le_trans ht (Nat.le_add_right _ _))
  have h4 : Moves l' s' s4 := startBoot_moves _ _ h0 (sub ⟨rfl⟩)
  have hn : s4.now = t2 + ms 4 := (startBoot_moves _ e (Moves.refl [.regs, .latches, .seedLow, .hbm, .tiles, .mcs, .owlFifo, .taints, .taintFrom, .suspects, .cfg, .staged, .prevTag, .actAt, .hubAt, .obkts, .rbkts, .accSent, .localRx, .passed, .doneV, .csFails, .failWins, .ledger, .ports, .fwEvents, .mbx, .mbxPosted, .mbxRun, .evqs, .msix, .msixPend, .fwRecs, .fwNum, .fwNet, .owlNet, .fwRaw, .sec, .cpy, .mon, .beatAt, .stall, .tad, .bdg, .bdgMem, .bdgLast, .den, .scanned, .retiring, .pwr, .hubUp] { s with now := t2 + ms 4 }) ⟨rfl⟩).same .now (by decide)
  have h5 : ms 4 ≤ ms 252 ∧ ms 4 ≤ ms 282 := ⟨Nat.mul_le_mul_right _ (by decide), Nat.mul_le_mul_right _ (by decide)⟩
  clear_value s4 ms
  refine Moves.ite (fun _ => showPins_moves _ _ (showThr_moves _ h4 (sub ⟨rfl⟩)) (sub ⟨rfl⟩)) fun _ => Moves.ite (fun _ => ?_) fun _ => ?_
  · have h6 : Moves l' s' { s4 with now := t2 + ms 252, beatAt := t2 + ms 192 } := Moves.set_now_beatAt h4 (sub ⟨rfl⟩) (by omega)
    exact showPins_moves _ _ (showThr_moves _ (Moves.foldl (linkReport_moves _ h6 (sub ⟨rfl⟩)) fun _ _ h => stackReport_moves _ _ h (sub ⟨rfl⟩))
      (sub ⟨rfl⟩)) (sub ⟨rfl⟩)
  · have h6 : Moves l' s' { s4 with launchAt := some (t2 + ms 252), now := t2 + ms 282, beatAt := t2 + ms 192 } :=
      Moves.set_now_launchAt_beatAt h4 (sub ⟨rfl⟩) (by omega)
    exact showPins_moves _ _ (showThr_moves _ (bringReady_moves _ (linkReport_moves _ h6 (sub ⟨rfl⟩)) (sub ⟨rfl⟩)) (sub ⟨rfl⟩)) (sub ⟨rfl⟩)


theorem startUp_moves {l' : List Part} {s' : State} (s : State) (e : StartEnv) (h' : Moves l' s' s) (hl' : Part.Sub [.now, .regs, .latches, .seedLow, .hbm, .tiles, .mcs, .launchAt, .owlFifo, .taints, .taintFrom, .suspects, .cfg, .staged, .prevTag, .actAt, .hubAt, .obkts, .rbkts, .accSent, .localRx, .passed, .doneV, .csFails, .failWins, .ledger, .ports, .fwEvents, .out, .mbx, .mbxPosted, .mbxRun, .evqs, .msix, .msixPend, .fwRecs, .fwNum, .fwNet, .owlNet, .fwRaw, .sec, .cpy, .mon, .beatAt, .stall, .tad, .bdg, .bdgMem, .bdgLast, .den, .scanned, .retiring, .pwr, .hubUp] l') :
    Moves l' s' (startUp s e) := by
  unfold startUp
  exact Moves.ite (fun _ => startFrom2_moves _ _ _ (Nat.le_trans (Nat.le_max_left _ _) (Nat.le_add_right _ _)) h' (.trans (l2 := [.now, .regs, .latches, .seedLow, .hbm, .tiles, .mcs, .launchAt, .owlFifo, .taints, .taintFrom, .suspects, .cfg, .staged, .prevTag, .actAt, .hubAt, .obkts, .rbkts, .accSent, .localRx, .passed, .doneV, .csFails, .failWins, .ledger, .ports, .fwEvents, .out, .mbx, .mbxPosted, .mbxRun, .evqs, .msix, .msixPend, .fwRecs, .fwNum, .fwNet, .owlNet, .fwRaw, .sec, .cpy, .mon, .beatAt, .stall, .tad, .bdg, .bdgMem, .bdgLast, .den, .scanned, .retiring, .pwr, .hubUp]) ⟨rfl⟩ hl')) fun _ => h'


theorem moduleReset_moves {l' : List Part} {s' : State} (s : State) (cause : Nat) (e : StartEnv) (h' : Moves l' s' s) (hl' : Part.Sub [.now, .regs, .latches, .seedLow, .hbm, .tiles, .mcs, .launchAt, .sigs, .lastGrant, .owlFifo, .taints, .taintFrom, .suspects, .cfg, .staged, .prevTag, .actAt, .hubAt, .obkts, .rbkts, .accSent, .localRx, .passed, .doneV, .csFails, .failWins, .ledger, .ports, .fwEvents, .out, .mbx, .mbxPosted, .mbxRun, .evqs, .msix, .msixPend, .fwRecs, .fwNum, .fwNet, .owlNet, .fwRaw, .mgmtDown, .sec, .cpy, .mon, .beatAt, .stall, .tad, .bdg, .bdgMem, .bdgLast, .den, .scanned, .retiring, .pwr, .hubUp, .d3hot] l') :
    Moves l' s' (moduleReset s cause e) := by
  have sub : ∀ {a : List Part}, Part.Sub a [.now, .regs, .latches, .seedLow, .hbm, .tiles, .mcs, .launchAt, .sigs, .lastGrant, .owlFifo, .taints, .taintFrom, .suspects, .cfg, .staged, .prevTag, .actAt, .hubAt, .obkts, .rbkts, .accSent, .localRx, .passed, .doneV, .csFails, .failWins, .ledger, .ports, .fwEvents, .out, .mbx, .mbxPosted, .mbxRun, .evqs, .msix, .msixPend, .fwRecs, .fwNum, .fwNet, .owlNet, .fwRaw, .mgmtDown, .sec, .cpy, .mon, .beatAt, .stall, .tad, .bdg, .bdgMem, .bdgLast, .den, .scanned, .retiring, .pwr, .hubUp, .d3hot] → Part.Sub a l' := fun h => h.trans hl'
  unfold moduleReset
  refine Moves.ite (fun _ => h') fun _ => ?_
  have h1 : Moves [.regs, .latches, .seedLow, .hbm, .tiles, .mcs, .launchAt, .sigs, .lastGrant, .owlFifo, .taints, .taintFrom, .suspects, .cfg, .staged, .prevTag, .actAt, .hubAt, .obkts, .rbkts, .accSent, .localRx, .passed, .doneV, .csFails, .failWins, .ledger, .ports, .fwEvents, .out, .mbx, .mbxPosted, .mbxRun, .evqs, .msix, .msixPend, .fwRecs, .fwNum, .fwNet, .owlNet, .fwRaw, .mgmtDown, .sec, .cpy, .mon, .beatAt, .stall, .tad, .bdg, .bdgMem, .bdgLast, .den, .scanned, .retiring, .pwr, .hubUp, .d3hot] s (setFld (powerDown s .standby) 0 R.PWR_RST_CAUSE_CAUSE cause) :=
    setFld_moves _ _ _ _ (powerDown_moves _ _ (Moves.refl ..) ⟨rfl⟩) ⟨rfl⟩
  have hn : (setFld (powerDown s .standby) 0 R.PWR_RST_CAUSE_CAUSE cause).now ≤ s.now := Nat.le_of_eq (h1.same .now (by decide))
  have h2 := Moves.chain h1 (sub ⟨rfl⟩) h'
  exact Moves.ite (fun _ => h2) fun _ => startFrom2_moves _ _ _ hn h2 (sub ⟨rfl⟩)


end Sys2Proof.Machine
end

