-- ==== Sys2Proof/Laws/Moves/Power.lean ====
section
/-! SUPPORT. What the functions of Machine/Power.lean touch. -/

namespace Sys2Proof.Machine

theorem allOff_moves {l' : List Part} {s' : State} (s : State) (stby : Bool) (h' : Moves l' s' s) (hl' : Part.Sub [.regs, .trimWb, .latches, .seedLow, .hbm, .tiles, .mcs, .launchAt, .sigs, .lastGrant, .grantRot, .owlFifo, .taints, .taintFrom, .suspects, .cfg, .staged, .prevTag, .actAt, .hubAt, .obkts, .rbkts, .accSent, .localRx, .passed, .doneV, .csFails, .failWins, .ledger, .ports, .fwEvents, .hostResp, .mbx, .mbxPosted, .mbxRun, .evqs, .msix, .msixPend, .fwRecs, .fwNum, .fwNet, .owlNet, .fwRaw, .mgmtDown, .sec, .cpy, .mon, .beatAt, .stall, .tad, .bdg, .bdgMem, .bdgLast, .den, .scanned, .retiring, .pwr, .hubUp, .d3hot] l') :
    Moves l' s' (allOff s stby) := by
  refine Moves.chain ?_ hl' h'
  unfold allOff
  constructor
  · intro p hp
    cases p <;> first | rfl | exact absurd (by decide) hp
  · exact fun h => canon_of_tables h (fun _ => rfl) id id (fun _ => rfl) (fun _ => rfl) (fun _ => rfl) (fun _ => rfl) (fun _ => rfl) (fun _ => rfl) (fun _ => rfl) id (fun _ => rfl) (fun _ => rfl)
  · exact Nat.le_refl _
  · exact List.prefix_refl _


theorem rstRefused_moves {l' : List Part} {s' : State} (s : State) (h' : Moves l' s' s) (hl' : Part.Sub [.regs, .owlFifo] l') : Moves l' s' (rstRefused s) := by
  refine Moves.chain ?_ hl' h'
  clear h' hl'
  unfold rstRefused
  try dsimp only
  repeat' (first
    | ((with_reducible apply Part.Sub.mk); rfl)
    | with_reducible apply Moves.refl
    | with_reducible assumption
    | with_reducible apply raiseBit_moves
    | with_reducible apply count_moves
    | dsimp only)

theorem hubResetReq_moves {l' : List Part} {s' : State} (s : State) (h' : Moves l' s' s) (hl' : Part.Sub [.regs, .latches, .hbm, .tiles, .mcs, .owlFifo, .taints, .taintFrom, .suspects, .cfg, .staged, .prevTag, .actAt, .hubAt, .obkts, .rbkts, .accSent, .localRx, .passed, .doneV, .csFails, .failWins, .ledger, .fwEvents, .out, .mbx, .mbxPosted, .mbxRun, .evqs, .msix, .msixPend, .fwRecs, .fwNum, .fwNet, .owlNet, .fwRaw, .sec, .cpy, .mon, .beatAt, .stall, .tad, .bdg, .bdgMem, .bdgLast, .den, .scanned, .retiring, .pwr] l') : Moves l' s' (hubResetReq s) := by
  refine Moves.chain ?_ hl' h'
  clear h' hl'
  unfold hubResetReq
  try dsimp only
  repeat' (first
    | ((with_reducible apply Part.Sub.mk); rfl)
    | with_reducible apply Moves.refl
    | with_reducible assumption
    | with_reducible apply rstRefused_moves
    | with_reducible apply rebootHub_moves
    | with_reducible apply setFld_moves
    | with_reducible apply Moves.ite
    | intro _
    | split
    | dsimp only)

theorem dieResetReq_moves {l' : List Part} {s' : State} (s : State) (d : Nat) (h' : Moves l' s' s) (hl' : Part.Sub [.regs, .seedLow, .hbm, .tiles, .mcs, .owlFifo, .ports, .pwr] l') : Moves l' s' (dieResetReq s d) := by
  refine Moves.chain ?_ hl' h'
  clear h' hl'
  unfold dieResetReq
  try dsimp only
  repeat' (first
    | ((with_reducible apply Part.Sub.mk); rfl)
    | with_reducible apply Moves.refl
    | with_reducible assumption
    | with_reducible apply rstRefused_moves
    | with_reducible apply showThr_moves
    | with_reducible apply settleThr_moves
    | with_reducible apply reloadTrims_moves
    | with_reducible apply resetDie_moves
    | with_reducible apply Moves.ite
    | with_reducible apply Moves.foldl
    | intro _
    | split
    | dsimp only)

theorem tileResetReq_moves {l' : List Part} {s' : State} (s : State) (n : Nat) (h' : Moves l' s' s) (hl' : Part.Sub [.regs, .seedLow, .tiles, .owlFifo, .pwr] l') : Moves l' s' (tileResetReq s n) := by
  refine Moves.chain ?_ hl' h'
  clear h' hl'
  unfold tileResetReq
  try dsimp only
  repeat' (first
    | ((with_reducible apply Part.Sub.mk); rfl)
    | with_reducible apply Moves.refl
    | with_reducible assumption
    | with_reducible apply rstRefused_moves
    | with_reducible apply showThr_moves
    | with_reducible apply settleThr_moves
    | with_reducible apply reloadTrims_moves
    | with_reducible apply resetTile_moves
    | with_reducible apply Moves.ite
    | intro _
    | split
    | dsimp only)

theorem pwrRstWrite_moves {l' : List Part} {s' : State} (s : State) (w : Nat) (e : StartEnv) (h' : Moves l' s' s) (hl' : Part.Sub [.now, .regs, .latches, .seedLow, .hbm, .tiles, .mcs, .launchAt, .sigs, .lastGrant, .owlFifo, .taints, .taintFrom, .suspects, .cfg, .staged, .prevTag, .actAt, .hubAt, .obkts, .rbkts, .accSent, .localRx, .passed, .doneV, .csFails, .failWins, .ledger, .ports, .fwEvents, .out, .mbx, .mbxPosted, .mbxRun, .evqs, .msix, .msixPend, .fwRecs, .fwNum, .fwNet, .owlNet, .fwRaw, .mgmtDown, .sec, .cpy, .mon, .beatAt, .stall, .tad, .bdg, .bdgMem, .bdgLast, .den, .scanned, .retiring, .pwr, .hubUp, .d3hot] l') : Moves l' s' (pwrRstWrite s w e) := by
  refine Moves.chain ?_ hl' h'
  clear h' hl'
  unfold pwrRstWrite
  try dsimp only
  repeat' (first
    | ((with_reducible apply Part.Sub.mk); rfl)
    | with_reducible apply Moves.refl
    | with_reducible assumption
    | with_reducible apply tileResetReq_moves
    | with_reducible apply dieResetReq_moves
    | with_reducible apply hubResetReq_moves
    | with_reducible apply moduleReset_moves
    | with_reducible apply Moves.ite
    | with_reducible apply Moves.foldl
    | intro _
    | split
    | dsimp only)

theorem inputSet_moves {l' : List Part} {s' : State} (s : State) (f : Fld) (h' : Moves l' s' s) (hl' : Part.Sub [.regs, .owlFifo, .out, .pwr] l') : Moves l' s' (inputSet s f) := by
  refine Moves.chain ?_ hl' h'
  clear h' hl'
  unfold inputSet
  try dsimp only
  repeat' (first
    | ((with_reducible apply Part.Sub.mk); rfl)
    | with_reducible apply Moves.refl
    | with_reducible assumption
    | with_reducible apply showPins_moves
    | with_reducible apply raiseBit_moves
    | with_reducible apply setFld_moves
    | with_reducible apply Moves.ite
    | intro _
    | split
    | dsimp only)

theorem inputLost_moves {l' : List Part} {s' : State} (s : State) (f : Fld) (h' : Moves l' s' s) (hl' : Part.Sub [.regs, .latches, .seedLow, .hbm, .tiles, .mcs, .launchAt, .sigs, .lastGrant, .owlFifo, .taints, .taintFrom, .suspects, .cfg, .staged, .prevTag, .actAt, .hubAt, .obkts, .rbkts, .accSent, .localRx, .passed, .doneV, .csFails, .failWins, .ledger, .ports, .fwEvents, .out, .mbx, .mbxPosted, .mbxRun, .evqs, .msix, .msixPend, .fwRecs, .fwNum, .fwNet, .owlNet, .fwRaw, .mgmtDown, .sec, .cpy, .mon, .beatAt, .stall, .tad, .bdg, .bdgMem, .bdgLast, .den, .scanned, .retiring, .pwr, .hubUp, .d3hot] l') : Moves l' s' (inputLost s f) := by
  refine Moves.chain ?_ hl' h'
  clear h' hl'
  unfold inputLost
  try dsimp only
  repeat' (first
    | ((with_reducible apply Part.Sub.mk); rfl)
    | with_reducible apply Moves.refl
    | with_reducible assumption
    | with_reducible apply inputSet_moves
    | with_reducible apply powerDown_moves
    | with_reducible apply Moves.ite
    | intro _
    | split
    | dsimp only
    | with_reducible apply Moves.set_pwr)

theorem capJudge_moves {l' : List Part} {s' : State} (s : State) (h' : Moves l' s' s) (hl' : Part.Sub [.regs, .owlFifo, .pwr] l') : Moves l' s' (capJudge s) := by
  refine Moves.chain ?_ hl' h'
  clear h' hl'
  unfold capJudge
  try dsimp only
  repeat' (first
    | ((with_reducible apply Part.Sub.mk); rfl)
    | with_reducible apply Moves.refl
    | with_reducible assumption
    | with_reducible apply showThr_moves
    | with_reducible apply settleThr_moves
    | with_reducible apply raiseBit_moves
    | with_reducible apply Moves.ite
    | with_reducible apply Moves.foldl
    | intro _
    | split
    | dsimp only
    | with_reducible apply Moves.set_pwr)

theorem pwrCtrlWrite_moves {l' : List Part} {s' : State} (s : State) (w : Word) (h' : Moves l' s' s) (hl' : Part.Sub [.regs, .latches, .pwr] l') : Moves l' s' (pwrCtrlWrite s w) := by
  refine Moves.chain ?_ hl' h'
  clear h' hl'
  unfold pwrCtrlWrite
  try dsimp only
  repeat' (first
    | ((with_reducible apply Part.Sub.mk); rfl)
    | with_reducible apply Moves.refl
    | with_reducible assumption
    | with_reducible apply showThr_moves
    | with_reducible apply settleThr_moves
    | with_reducible apply regWrite_moves
    | with_reducible apply Moves.ite
    | intro _
    | split
    | dsimp only
    | with_reducible apply Moves.set_pwr)

end Sys2Proof.Machine
end

