-- ==== Sys2Proof/Laws/Moves/Mbx.lean ====
section
/-! SUPPORT. What the functions of Machine/Mbx.lean touch. -/

namespace Sys2Proof.Machine

theorem mbxWrite_moves {l' : List Part} {s' : State} (s : State) (off : Nat) (b : List Byte) (h' : Moves l' s' s) (hl' : Part.Sub [.mbx] l') : Moves l' s' (mbxWrite s off b) := by
  refine Moves.chain ?_ hl' h'
  clear h' hl'
  unfold mbxWrite
  try dsimp only
  repeat' (first
    | ((with_reducible apply Part.Sub.mk); rfl)
    | with_reducible apply Moves.refl
    | with_reducible assumption
    | with_reducible apply Moves.ite
    | with_reducible apply Moves.foldl
    | with_reducible apply Moves.ite_fst
    | with_reducible apply Moves.ite_snd
    | with_reducible apply Moves.foldl_fst
    | with_reducible apply Moves.foldl_snd
    | intro _
    | with_reducible apply swf_sset
    | with_reducible apply swf_ssetList
    | with_reducible apply swf_filter
    | with_reducible apply swf_nil
    | with_reducible apply swf_foldl
    | with_reducible apply List.prefix_append
    | with_reducible apply List.prefix_refl
    | split
    | dsimp only
    | with_reducible apply Moves.set_mbx
    | exact List.prefix_append _ _
    | exact (List.prefix_append _ _).trans (List.prefix_append _ _)
    | omega)

theorem setPair_moves {l' : List Part} {s' : State} (s : State) (p st : Nat) (h' : Moves l' s' s) (hl' : Part.Sub [.regs] l') : Moves l' s' (setPair s p st) := by
  refine Moves.chain ?_ hl' h'
  clear h' hl'
  unfold setPair
  try dsimp only
  repeat' (first
    | ((with_reducible apply Part.Sub.mk); rfl)
    | with_reducible apply Moves.refl
    | with_reducible assumption
    | with_reducible apply setFld_moves
    | dsimp only)

theorem mbxRing_moves {l' : List Part} {s' : State} (s : State) (p : Nat) (h' : Moves l' s' s) (hl' : Part.Sub [.regs, .owlFifo, .mbxPosted] l') : Moves l' s' (mbxRing s p) := by
  refine Moves.chain ?_ hl' h'
  clear h' hl'
  unfold mbxRing
  try dsimp only
  repeat' (first
    | ((with_reducible apply Part.Sub.mk); rfl)
    | with_reducible apply Moves.refl
    | with_reducible assumption
    | with_reducible apply setPair_moves
    | with_reducible apply raiseBit_moves
    | with_reducible apply count_moves
    | with_reducible apply Moves.ite
    | intro _
    | split
    | dsimp only
    | with_reducible apply Moves.set_mbxPosted)

theorem mbxAck_moves {l' : List Part} {s' : State} (s : State) (p : Nat) (h' : Moves l' s' s) (hl' : Part.Sub [.regs, .owlFifo] l') : Moves l' s' (mbxAck s p) := by
  refine Moves.chain ?_ hl' h'
  clear h' hl'
  unfold mbxAck
  try dsimp only
  repeat' (first
    | ((with_reducible apply Part.Sub.mk); rfl)
    | with_reducible apply Moves.refl
    | with_reducible assumption
    | with_reducible apply setPair_moves
    | with_reducible apply raiseBit_moves
    | with_reducible apply count_moves
    | with_reducible apply Moves.ite
    | intro _
    | split
    | dsimp only)

theorem finish_moves {l' : List Part} {s' : State} (s : State) (c : MbxCmd) (status detail : Nat) (result : List Byte) (h' : Moves l' s' s) (hl' : Part.Sub [.regs, .fwEvents, .out, .mbx, .mbxRun, .msixPend] l') : Moves l' s' (finish s c status detail result) := by
  refine Moves.chain ?_ hl' h'
  clear h' hl'
  unfold finish
  try dsimp only
  repeat' (first
    | ((with_reducible apply Part.Sub.mk); rfl)
    | with_reducible apply Moves.refl
    | with_reducible assumption
    | with_reducible apply setPair_moves
    | with_reducible apply mbxWrite_moves
    | with_reducible apply raiseVec_moves
    | with_reducible apply pushEv_moves
    | with_reducible apply countAll_moves
    | with_reducible apply Moves.ite
    | intro _
    | split
    | dsimp only
    | with_reducible apply Moves.set_mbxRun)

theorem runCmd_moves {l' : List Part} {s' : State} (s : State) (pair op : Nat) (k : MbxCmd → State × MbxEnd) (h' : Moves l' s' s)
    (hl' : Part.Sub [.regs, .fwEvents, .out, .mbx, .mbxRun, .msixPend] l') (hk : ∀ c, MovesQ l' s' (k c)) : Moves l' s' (runCmd s pair op k) := by
  have sub : ∀ {a : List Part}, Part.Sub a [.regs, .fwEvents, .out, .mbx, .mbxRun, .msixPend] → Part.Sub a l' := fun h => h.trans hl'
  unfold runCmd
  split
  · exact h'
  · rename_i c _
    refine Moves.ite (fun _ => h') fun _ => Moves.ite (fun _ => finish_moves _ _ _ _ _ h' (sub ⟨rfl⟩)) fun _ => ?_
    have h1 := (hk c).h
    generalize k c = r at h1 ⊢
    dsimp only
    split
    · exact finish_moves _ _ _ _ _ h1 (sub ⟨rfl⟩)
    · exact h1


theorem mailboxTake_moves {l' : List Part} {s' : State} (s : State) (bad : Nat) (h' : Moves l' s' s) (hl' : Part.Sub [.regs, .owlFifo, .fwEvents, .out, .mbx, .mbxPosted, .mbxRun, .msixPend] l') : Moves l' s' (mailboxTake s bad) := by
  refine Moves.chain ?_ hl' h'
  clear h' hl'
  unfold mailboxTake
  try dsimp only
  repeat' (first
    | ((with_reducible apply Part.Sub.mk); rfl)
    | with_reducible apply Moves.refl
    | with_reducible assumption
    | with_reducible apply finish_moves
    | with_reducible apply setPair_moves
    | with_reducible apply parity_moves
    | with_reducible apply Moves.ite
    | with_reducible apply Moves.ite_fst
    | with_reducible apply Moves.ite_snd
    | intro _
    | split
    | dsimp only
    | with_reducible apply Moves.set_mbxPosted_mbxRun)

theorem freezeBeat_moves {l' : List Part} {s' : State} (s : State) (h' : Moves l' s' s) (hl' : Part.Sub [.regs, .beatAt] l') : Moves l' s' (freezeBeat s) := by
  refine Moves.chain ?_ hl' h'
  clear h' hl'
  unfold freezeBeat
  try dsimp only
  repeat' (first
    | ((with_reducible apply Part.Sub.mk); rfl)
    | with_reducible apply Moves.refl
    | with_reducible assumption
    | with_reducible apply setFld_moves
    | dsimp only
    | with_reducible apply Moves.set_beatAt)

theorem handOver_moves {l' : List Part} {s' : State} (s : State) (h : Handover) (h' : Moves l' s' s) (hl' : Part.Sub [.regs, .sec, .beatAt] l') : Moves l' s' (handOver s h) := by
  refine Moves.chain ?_ hl' h'
  clear h' hl'
  unfold handOver
  try dsimp only
  repeat' (first
    | ((with_reducible apply Part.Sub.mk); rfl)
    | with_reducible apply Moves.refl
    | with_reducible assumption
    | with_reducible apply setFld_moves
    | with_reducible apply wrReg_moves
    | with_reducible apply Moves.foldl
    | intro _
    | dsimp only
    | with_reducible apply Moves.set_sec_beatAt)

theorem handStep_moves {l' : List Part} {s' : State} (s : State) (h' : Moves l' s' s) (hl' : Part.Sub [.regs, .sec, .beatAt] l') : Moves l' s' (handStep s) := by
  refine Moves.chain ?_ hl' h'
  clear h' hl'
  unfold handStep
  try dsimp only
  repeat' (first
    | ((with_reducible apply Part.Sub.mk); rfl)
    | with_reducible apply Moves.refl
    | with_reducible assumption
    | with_reducible apply handOver_moves
    | with_reducible apply freezeBeat_moves
    | with_reducible apply Moves.ite
    | intro _
    | split
    | dsimp only
    | with_reducible apply Moves.set_sec)

end Sys2Proof.Machine
end

