-- ==== Sys2Proof/Laws/Moves/MbxCmds.lean ====
section
/-! SUPPORT. What the functions of Machine/MbxCmds.lean touch. -/

namespace Sys2Proof.Machine

theorem stageSet_moves {l' : List Part} {s' : State} (s : State) (c : CfgSet) (A : Nat) (h' : Moves l' s' s) (hl' : Part.Sub [.regs, .latches, .hbm, .tiles, .mcs, .owlFifo, .cfg, .staged, .prevTag, .actAt, .obkts, .rbkts, .localRx, .doneV, .ports, .fwEvents, .sec] l') : Moves l' s' (stageSet s c A) := by
  refine Moves.chain ?_ hl' h'
  clear h' hl'
  unfold stageSet
  try dsimp only
  repeat' (first
    | ((with_reducible apply Part.Sub.mk); rfl)
    | with_reducible apply Moves.refl
    | with_reducible assumption
    | with_reducible apply activate_moves
    | with_reducible apply setFld_moves
    | with_reducible apply Moves.ite
    | intro _
    | split
    | dsimp only
    | with_reducible apply Moves.set_doneV
    | with_reducible apply Moves.set_staged)

theorem loadStream_moves {l' : List Part} {s' : State} (s : State) (page : List Byte) (o : Nat) (h' : Moves l' s' s) (hl' : Part.Sub [.regs, .tiles] l') : Moves l' s' (loadStream s page o) := by
  refine Moves.chain ?_ hl' h'
  clear h' hl'
  unfold loadStream
  try dsimp only
  repeat' (first
    | ((with_reducible apply Part.Sub.mk); rfl)
    | with_reducible apply Moves.refl
    | with_reducible assumption
    | with_reducible apply seqRun_moves
    | with_reducible apply modTile_moves
    | with_reducible apply setFld_moves
    | with_reducible apply Moves.ite
    | intro _
    | split
    | dsimp only)

theorem ctrlAct_moves {l' : List Part} {s' : State} (s : State) (n action : Nat) (h' : Moves l' s' s) (hl' : Part.Sub [.regs, .tiles] l') : Moves l' s' (ctrlAct s n action) := by
  refine Moves.chain ?_ hl' h'
  clear h' hl'
  unfold ctrlAct
  try dsimp only
  repeat' (first
    | ((with_reducible apply Part.Sub.mk); rfl)
    | with_reducible apply Moves.refl
    | with_reducible assumption
    | with_reducible apply seqContinue_moves
    | with_reducible apply seqRun_moves
    | intro _
    | split
    | dsimp only)

theorem streamCtrl_moves {l' : List Part} {s' : State} (s : State) (mask action : Nat) (h' : Moves l' s' s) (hl' : Part.Sub [.regs, .tiles] l') : Moves l' s' (streamCtrl s mask action).1 := by
  refine Moves.chain ?_ hl' h'
  clear h' hl'
  refine MovesQ.h (p := streamCtrl s mask action) ?_
  unfold streamCtrl
  try dsimp only
  repeat' (first
    | ((with_reducible apply Part.Sub.mk); rfl)
    | with_reducible apply MovesQ.of_mk
    | with_reducible apply MovesQ.foldl
    | with_reducible apply Moves.refl
    | with_reducible assumption
    | with_reducible apply ctrlAct_moves
    | with_reducible apply Moves.foldl
    | intro _
    | dsimp only)

theorem takeFree_moves {l' : List Part} {s' : State} (a0' : Nat) (a1' : State) (h' : Moves l' s' a1') (hl' : Part.Sub [.freeCtr] l') : Moves l' s' (takeFree a0' a1').2 := by
  induction a0' generalizing a1' with
  | zero => exact h'
  | succ k ih =>
    unfold takeFree
    try dsimp only
    repeat' (first
      | ((with_reducible refine Part.Sub.trans (l2 := [.freeCtr]) (Part.Sub.mk ?_) hl'); rfl)
      | with_reducible apply ih
      | with_reducible apply Moves.refl
      | with_reducible assumption
      | with_reducible apply nextFree_moves
      | (with_reducible apply MovesP.mk; with_reducible apply nextFree_moves)
      | dsimp only)

theorem setFuse_moves {l' : List Part} {s' : State} (s : State) (k : Nat) (w : Word) (h' : Moves l' s' s) (hl' : Part.Sub [.regs, .fuses] l') : Moves l' s' (setFuse s k w) := by
  refine Moves.chain ?_ hl' h'
  clear h' hl'
  unfold setFuse
  try dsimp only
  repeat' (first
    | ((with_reducible apply Part.Sub.mk); rfl)
    | with_reducible apply Moves.refl
    | with_reducible assumption
    | with_reducible apply wrReg_moves
    | intro _
    | with_reducible apply swf_sset
    | dsimp only
    | with_reducible apply Moves.set_fuses)

end Sys2Proof.Machine
end

