-- ==== Sys2Proof/Laws/Moves/Copy.lean ====
section
/-! SUPPORT. What the functions of Machine/Copy.lean touch. -/

namespace Sys2Proof.Machine

theorem denyReserve_moves {l' : List Part} {s' : State} (s : State) (h' : Moves l' s' s) (hl' : Part.Sub [.regs, .owlFifo] l') : Moves l' s' (denyReserve s) := by
  refine Moves.chain ?_ hl' h'
  clear h' hl'
  unfold denyReserve
  try dsimp only
  repeat' (first
    | ((with_reducible apply Part.Sub.mk); rfl)
    | with_reducible apply Moves.refl
    | with_reducible assumption
    | with_reducible apply raiseBit_moves
    | with_reducible apply count_moves
    | dsimp only)

theorem cpyEnd_moves {l' : List Part} {s' : State} (s : State) (e result : Nat) (h' : Moves l' s' s) (hl' : Part.Sub [.regs, .fwEvents, .out, .msixPend, .cpy] l') : Moves l' s' (cpyEnd s e result) := by
  refine Moves.chain ?_ hl' h'
  clear h' hl'
  unfold cpyEnd
  try dsimp only
  repeat' (first
    | ((with_reducible apply Part.Sub.mk); rfl)
    | with_reducible apply Moves.refl
    | with_reducible assumption
    | with_reducible apply raiseVec_moves
    | with_reducible apply pushEv_moves
    | with_reducible apply setFld_moves
    | with_reducible apply Moves.ite
    | with_reducible apply Moves.ite_fst
    | with_reducible apply Moves.ite_snd
    | intro _
    | split
    | dsimp only
    | with_reducible apply Moves.set_cpy)

theorem cpyGo_moves {l' : List Part} {s' : State} (s : State) (e : Nat) (h' : Moves l' s' s) (hl' : Part.Sub [.regs, .cpy] l') : Moves l' s' (cpyGo s e) := by
  refine Moves.chain ?_ hl' h'
  clear h' hl'
  unfold cpyGo
  try dsimp only
  repeat' (first
    | ((with_reducible apply Part.Sub.mk); rfl)
    | with_reducible apply Moves.refl
    | with_reducible assumption
    | with_reducible apply setFld_moves
    | dsimp only
    | with_reducible apply Moves.set_cpy)

theorem cpyDeny_moves {l' : List Part} {s' : State} (s : State) (a : Nat) (h' : Moves l' s' s) (hl' : Part.Sub [.regs, .owlFifo] l') : Moves l' s' (cpyDeny s a) := by
  refine Moves.chain ?_ hl' h'
  clear h' hl'
  unfold cpyDeny
  try dsimp only
  repeat' (first
    | ((with_reducible apply Part.Sub.mk); rfl)
    | with_reducible apply Moves.refl
    | with_reducible assumption
    | with_reducible apply raiseBit_moves
    | with_reducible apply count_moves
    | dsimp only)

theorem cpyMove_moves {l' : List Part} {s' : State} (s : State) (dir src dst : Nat) (d : List Byte) (h' : Moves l' s' s) (hl' : Part.Sub [.regs, .hbm, .tiles, .mcs, .owlFifo, .out] l') : Moves l' s' (cpyMove s dir src dst d).1 := by
  refine Moves.chain ?_ hl' h'
  clear h' hl'
  refine MovesQ.h (p := cpyMove s dir src dst d) ?_
  unfold cpyMove
  try dsimp only
  repeat' (first
    | ((with_reducible apply Part.Sub.mk); rfl)
    | with_reducible apply MovesQ.of_mk
    | with_reducible apply MovesQ.ite
    | with_reducible apply Moves.refl
    | with_reducible assumption
    | with_reducible apply cpyDeny_moves
    | with_reducible apply memWrite_moves
    | with_reducible apply memRead_moves
    | (with_reducible apply MovesP.mk; with_reducible apply memRead_moves)
    | with_reducible apply settWrite_moves
    | with_reducible apply Moves.ite
    | with_reducible apply Moves.ite_fst
    | with_reducible apply Moves.ite_snd
    | intro _
    | with_reducible apply List.prefix_append
    | with_reducible apply List.prefix_refl
    | split
    | dsimp only
    | with_reducible apply Moves.set_out
    | exact List.prefix_append _ _
    | exact (List.prefix_append _ _).trans (List.prefix_append _ _))

theorem cpyRun_moves {l' : List Part} {s' : State} (j : CpyJob) (data : List Byte) (err pois : Option Nat) (a0' : Nat) (a1' : Nat) (a2' : Nat) (a3' : State) (h' : Moves l' s' a3') (hl' : Part.Sub [.regs, .hbm, .tiles, .mcs, .owlFifo, .out] l') : Moves l' s' (cpyRun j data err pois a0' a1' a2' a3').1 := by
  induction a0' generalizing j data err pois a1' a2' a3' with
  | zero => exact h'
  | succ k ih =>
    unfold cpyRun
    try dsimp only
    repeat' (first
      | ((with_reducible refine Part.Sub.trans (l2 := [.regs, .hbm, .tiles, .mcs, .owlFifo, .out]) (Part.Sub.mk ?_) hl'); rfl)
      | with_reducible apply ih
      | with_reducible apply Moves.refl
      | with_reducible assumption
      | with_reducible apply cpyMove_moves
      | (with_reducible apply MovesQ.mk; with_reducible apply cpyMove_moves)
      | with_reducible apply denyReserve_moves
      | with_reducible apply raiseBit_moves
      | with_reducible apply Moves.ite
      | with_reducible apply Moves.ite_fst
      | with_reducible apply Moves.ite_snd
      | intro _
      | split
      | dsimp only)

theorem cpyPart_moves {l' : List Part} {s' : State} (s : State) (e units : Nat) (data : List Byte) (h' : Moves l' s' s) (hl' : Part.Sub [.regs, .hbm, .tiles, .mcs, .owlFifo, .out] l') : Moves l' s' (cpyPart s e units data) := by
  refine Moves.chain ?_ hl' h'
  clear h' hl'
  unfold cpyPart
  try dsimp only
  repeat' (first
    | ((with_reducible apply Part.Sub.mk); rfl)
    | with_reducible apply Moves.refl
    | with_reducible assumption
    | with_reducible apply cpyRun_moves
    | (with_reducible apply MovesQ.mk; with_reducible apply cpyRun_moves)
    | with_reducible apply Moves.ite
    | with_reducible apply Moves.ite_fst
    | with_reducible apply Moves.ite_snd
    | intro _
    | split
    | dsimp only)

theorem cpyStop_moves {l' : List Part} {s' : State} (s : State) (e units : Nat) (data : List Byte) (h' : Moves l' s' s) (hl' : Part.Sub [.regs, .hbm, .tiles, .mcs, .owlFifo, .fwEvents, .out, .msixPend, .cpy] l') : Moves l' s' (cpyStop s e units data) := by
  refine Moves.chain ?_ hl' h'
  clear h' hl'
  unfold cpyStop
  try dsimp only
  repeat' (first
    | ((with_reducible apply Part.Sub.mk); rfl)
    | with_reducible apply Moves.refl
    | with_reducible assumption
    | with_reducible apply cpyPart_moves
    | with_reducible apply cpyEnd_moves
    | with_reducible apply Moves.ite
    | intro _
    | split
    | dsimp only)

theorem cpyCtrlWrite_moves {l' : List Part} {s' : State} (s : State) (hub : Bool) (e : Nat) (w : Word) (units : Nat) (data : List Byte) (h' : Moves l' s' s) (hl' : Part.Sub [.regs, .latches, .hbm, .tiles, .mcs, .owlFifo, .fwEvents, .out, .msixPend, .cpy] l') : Moves l' s' (cpyCtrlWrite s hub e w units data) := by
  refine Moves.chain ?_ hl' h'
  clear h' hl'
  unfold cpyCtrlWrite
  try dsimp only
  repeat' (first
    | ((with_reducible apply Part.Sub.mk); rfl)
    | with_reducible apply Moves.refl
    | with_reducible assumption
    | with_reducible apply cpyStop_moves
    | with_reducible apply cpyGo_moves
    | with_reducible apply regWrite_moves
    | with_reducible apply Moves.ite
    | intro _
    | split
    | dsimp only)

end Sys2Proof.Machine
end

