-- ==== Sys2Proof/Laws/Moves/Links.lean ====
section
/-! SUPPORT. What the functions of Machine/Links.lean touch. -/

namespace Sys2Proof.Machine

theorem showLanes_moves {l' : List Part} {s' : State} (s : State) (p : Nat) (used : List Nat) (h' : Moves l' s' s) (hl' : Part.Sub [.regs, .owlFifo] l') : Moves l' s' (showLanes s p used) := by
  refine Moves.chain ?_ hl' h'
  clear h' hl'
  unfold showLanes
  try dsimp only
  repeat' (first
    | ((with_reducible apply Part.Sub.mk); rfl)
    | with_reducible apply Moves.refl
    | with_reducible assumption
    | with_reducible apply raiseBit_moves
    | with_reducible apply setFld_moves
    | with_reducible apply Moves.ite
    | with_reducible apply Moves.foldl
    | with_reducible apply Moves.ite_fst
    | with_reducible apply Moves.ite_snd
    | with_reducible apply Moves.foldl_fst
    | with_reducible apply Moves.foldl_snd
    | intro _
    | split
    | dsimp only)

theorem abortFrom_moves {l' : List Part} {s' : State} (s : State) (p vc : Nat) (h' : Moves l' s' s) (hl' : Part.Sub [.ports] l') : Moves l' s' (abortFrom s p vc) := by
  refine Moves.chain ?_ hl' h'
  clear h' hl'
  unfold abortFrom
  try dsimp only
  repeat' (first
    | ((with_reducible apply Part.Sub.mk); rfl)
    | with_reducible apply Moves.refl
    | with_reducible assumption
    | with_reducible apply modPort_moves
    | with_reducible apply Moves.ite
    | with_reducible apply Moves.foldl
    | intro _
    | split
    | dsimp only)

theorem dropPartial_moves {l' : List Part} {s' : State} (s : State) (p vc : Nat) (h' : Moves l' s' s) (hl' : Part.Sub [.ports] l') : Moves l' s' (dropPartial s p vc) := by
  refine Moves.chain ?_ hl' h'
  clear h' hl'
  unfold dropPartial
  try dsimp only
  repeat' (first
    | ((with_reducible apply Part.Sub.mk); rfl)
    | with_reducible apply Moves.refl
    | with_reducible assumption
    | with_reducible apply abortFrom_moves
    | with_reducible apply setRx_moves
    | with_reducible apply Moves.ite
    | intro _
    | split
    | dsimp only)

theorem goDown_moves {l' : List Part} {s' : State} (s : State) (p : Nat) (h' : Moves l' s' s) (hl' : Part.Sub [.regs, .owlFifo, .ports] l') : Moves l' s' (goDown s p) := by
  refine Moves.chain ?_ hl' h'
  clear h' hl'
  unfold goDown
  try dsimp only
  repeat' (first
    | ((with_reducible apply Part.Sub.mk); rfl)
    | with_reducible apply Moves.refl
    | with_reducible assumption
    | with_reducible apply dropPartial_moves
    | with_reducible apply rxSettle_moves
    | with_reducible apply modPort_moves
    | with_reducible apply raiseBit_moves
    | with_reducible apply count_moves
    | with_reducible apply setFld_moves
    | with_reducible apply Moves.foldl
    | with_reducible apply Moves.foldl_fst
    | with_reducible apply Moves.foldl_snd
    | intro _
    | dsimp only)

theorem beginTraining_moves {l' : List Part} {s' : State} (s : State) (p : Nat) (h' : Moves l' s' s) (hl' : Part.Sub [.regs, .ports] l') : Moves l' s' (beginTraining s p) := by
  refine Moves.chain ?_ hl' h'
  clear h' hl'
  unfold beginTraining
  try dsimp only
  repeat' (first
    | ((with_reducible apply Part.Sub.mk); rfl)
    | with_reducible apply Moves.refl
    | with_reducible assumption
    | with_reducible apply modPort_moves
    | with_reducible apply setFld_moves
    | intro _
    | dsimp only)

theorem showCredits_moves {l' : List Part} {s' : State} (s : State) (p : Nat) (h' : Moves l' s' s) (hl' : Part.Sub [.regs] l') : Moves l' s' (showCredits s p) := by
  refine Moves.chain ?_ hl' h'
  clear h' hl'
  unfold showCredits
  try dsimp only
  repeat' (first
    | ((with_reducible apply Part.Sub.mk); rfl)
    | with_reducible apply Moves.refl
    | with_reducible assumption
    | with_reducible apply setFld_moves
    | intro _
    | dsimp only)

theorem beginIdentify_moves {l' : List Part} {s' : State} (s : State) (p : Nat) (h' : Moves l' s' s) (hl' : Part.Sub [.freeCtr, .regs, .ports] l') : Moves l' s' (beginIdentify s p) := by
  refine Moves.chain ?_ hl' h'
  clear h' hl'
  unfold beginIdentify
  try dsimp only
  repeat' (first
    | ((with_reducible apply Part.Sub.mk); rfl)
    | with_reducible apply Moves.refl
    | with_reducible assumption
    | with_reducible apply showCredits_moves
    | with_reducible apply modPort_moves
    | with_reducible apply nextFree_moves
    | (with_reducible apply MovesP.mk; with_reducible apply nextFree_moves)
    | with_reducible apply setFld_moves
    | intro _
    | dsimp only)

theorem laneSetRx_moves {l' : List Part} {s' : State} (s : State) (p set : Nat) (h' : Moves l' s' s) (hl' : Part.Sub [.freeCtr, .regs, .owlFifo, .ports] l') : Moves l' s' (laneSetRx s p set) := by
  refine Moves.chain ?_ hl' h'
  clear h' hl'
  unfold laneSetRx
  try dsimp only
  repeat' (first
    | ((with_reducible apply Part.Sub.mk); rfl)
    | with_reducible apply Moves.refl
    | with_reducible assumption
    | with_reducible apply beginIdentify_moves
    | with_reducible apply beginTraining_moves
    | with_reducible apply goDown_moves
    | with_reducible apply showLanes_moves
    | with_reducible apply modPort_moves
    | with_reducible apply setFld_moves
    | with_reducible apply Moves.ite
    | with_reducible apply Moves.ite_fst
    | with_reducible apply Moves.ite_snd
    | intro _
    | split
    | dsimp only)

theorem identityRx_moves {l' : List Part} {s' : State} (s : State) (p : Nat) (c : PeerCert) (h' : Moves l' s' s) (hl' : Part.Sub [.regs, .owlFifo, .ports] l') : Moves l' s' (identityRx s p c) := by
  refine Moves.chain ?_ hl' h'
  clear h' hl'
  unfold identityRx
  try dsimp only
  repeat' (first
    | ((with_reducible apply Part.Sub.mk); rfl)
    | with_reducible apply Moves.refl
    | with_reducible assumption
    | with_reducible apply judgePort_moves
    | with_reducible apply modPort_moves
    | with_reducible apply setFld_moves
    | with_reducible apply Moves.ite
    | intro _
    | split
    | dsimp only)

theorem digestTimeout_moves {l' : List Part} {s' : State} (s : State) (p : Nat) (h' : Moves l' s' s) (hl' : Part.Sub [.regs, .owlFifo, .ports] l') : Moves l' s' (digestTimeout s p) := by
  refine Moves.chain ?_ hl' h'
  clear h' hl'
  unfold digestTimeout
  try dsimp only
  repeat' (first
    | ((with_reducible apply Part.Sub.mk); rfl)
    | with_reducible apply Moves.refl
    | with_reducible assumption
    | with_reducible apply setAdmit_moves
    | with_reducible apply modPort_moves
    | with_reducible apply Moves.ite
    | intro _
    | split
    | dsimp only)

theorem fastRetrain_moves {l' : List Part} {s' : State} (s : State) (p : Nat) (h' : Moves l' s' s) (hl' : Part.Sub [.regs, .owlFifo, .ports] l') : Moves l' s' (fastRetrain s p) := by
  refine Moves.chain ?_ hl' h'
  clear h' hl'
  unfold fastRetrain
  try dsimp only
  repeat' (first
    | ((with_reducible apply Part.Sub.mk); rfl)
    | with_reducible apply Moves.refl
    | with_reducible assumption
    | with_reducible apply goDown_moves
    | with_reducible apply modPort_moves
    | with_reducible apply raiseBit_moves
    | with_reducible apply count_moves
    | with_reducible apply setFld_moves
    | with_reducible apply Moves.ite
    | intro _
    | split
    | dsimp only)

theorem rewindTx_moves {l' : List Part} {s' : State} (s : State) (p : Nat) (h' : Moves l' s' s) (hl' : Part.Sub [.regs, .ports] l') : Moves l' s' (rewindTx s p) := by
  refine Moves.chain ?_ hl' h'
  clear h' hl'
  unfold rewindTx
  try dsimp only
  repeat' (first
    | ((with_reducible apply Part.Sub.mk); rfl)
    | with_reducible apply Moves.refl
    | with_reducible assumption
    | with_reducible apply modPort_moves
    | with_reducible apply count_moves
    | with_reducible apply Moves.ite
    | intro _
    | split
    | dsimp only)

theorem emitFlit_moves {l' : List Part} {s' : State} (s : State) (p : Nat) (f : TxFlit) (h' : Moves l' s' s) (hl' : Part.Sub [.regs, .ports, .out] l') : Moves l' s' (emitFlit s p f) := by
  refine Moves.chain ?_ hl' h'
  clear h' hl'
  unfold emitFlit
  try dsimp only
  repeat' (first
    | ((with_reducible apply Part.Sub.mk); rfl)
    | with_reducible apply Moves.refl
    | with_reducible assumption
    | with_reducible apply modPort_moves
    | with_reducible apply count_moves
    | with_reducible apply Moves.ite
    | intro _
    | with_reducible apply List.prefix_append
    | with_reducible apply List.prefix_refl
    | split
    | dsimp only
    | with_reducible apply Moves.set_out
    | exact List.prefix_append _ _
    | exact (List.prefix_append _ _).trans (List.prefix_append _ _))

theorem sendNew_moves {l' : List Part} {s' : State} (s : State) (p : Nat) (f : TxFlit) (h' : Moves l' s' s) (hl' : Part.Sub [.regs, .ports, .out] l') : Moves l' s' (sendNew s p f) := by
  refine Moves.chain ?_ hl' h'
  clear h' hl'
  unfold sendNew
  try dsimp only
  repeat' (first
    | ((with_reducible apply Part.Sub.mk); rfl)
    | with_reducible apply Moves.refl
    | with_reducible assumption
    | with_reducible apply emitFlit_moves
    | with_reducible apply modPort_moves
    | intro _
    | dsimp only)

theorem sendIdle_moves {l' : List Part} {s' : State} (s : State) (p : Nat) (h' : Moves l' s' s) (hl' : Part.Sub [.regs, .ports, .out] l') : Moves l' s' (sendIdle s p) := by
  refine Moves.chain ?_ hl' h'
  clear h' hl'
  unfold sendIdle
  try dsimp only
  repeat' (first
    | ((with_reducible apply Part.Sub.mk); rfl)
    | with_reducible apply Moves.refl
    | with_reducible assumption
    | with_reducible apply emitFlit_moves
    | dsimp only)

theorem sendData_moves {l' : List Part} {s' : State} (s : State) (p v : Nat) (h' : Moves l' s' s) (hl' : Part.Sub [.regs, .ports, .out] l') : Moves l' s' (sendData s p v) := by
  refine Moves.chain ?_ hl' h'
  clear h' hl'
  unfold sendData
  try dsimp only
  repeat' (first
    | ((with_reducible apply Part.Sub.mk); rfl)
    | with_reducible apply Moves.refl
    | with_reducible assumption
    | with_reducible apply sendNew_moves
    | with_reducible apply showCredits_moves
    | with_reducible apply rxSettle_moves
    | with_reducible apply modPort_moves
    | intro _
    | split
    | dsimp only)

theorem flitSend_moves {l' : List Part} {s' : State} (s0 : State) (p : Nat) (h' : Moves l' s' s0) (hl' : Part.Sub [.regs, .ports, .out] l') : Moves l' s' (flitSend s0 p) := by
  refine Moves.chain ?_ hl' h'
  clear h' hl'
  unfold flitSend
  try dsimp only
  repeat' (first
    | ((with_reducible apply Part.Sub.mk); rfl)
    | with_reducible apply Moves.refl
    | with_reducible assumption
    | with_reducible apply sendData_moves
    | with_reducible apply sendIdle_moves
    | with_reducible apply sendNew_moves
    | with_reducible apply emitFlit_moves
    | with_reducible apply modPort_moves
    | with_reducible apply countAll_moves
    | with_reducible apply count_moves
    | with_reducible apply Moves.ite
    | intro _
    | split
    | dsimp only)

theorem wantNak_moves {l' : List Part} {s' : State} (s : State) (p : Nat) (h' : Moves l' s' s) (hl' : Part.Sub [.ports] l') : Moves l' s' (wantNak s p) := by
  refine Moves.chain ?_ hl' h'
  clear h' hl'
  unfold wantNak
  try dsimp only
  repeat' (first
    | ((with_reducible apply Part.Sub.mk); rfl)
    | with_reducible apply Moves.refl
    | with_reducible assumption
    | with_reducible apply modPort_moves
    | with_reducible apply Moves.ite
    | intro _
    | split
    | dsimp only)

theorem takeCredits_moves {l' : List Part} {s' : State} (s : State) (p h : Nat) (h' : Moves l' s' s) (hl' : Part.Sub [.regs, .ports] l') : Moves l' s' (takeCredits s p h) := by
  refine Moves.chain ?_ hl' h'
  clear h' hl'
  unfold takeCredits
  try dsimp only
  repeat' (first
    | ((with_reducible apply Part.Sub.mk); rfl)
    | with_reducible apply Moves.refl
    | with_reducible assumption
    | with_reducible apply showCredits_moves
    | with_reducible apply modPort_moves
    | intro _
    | dsimp only)

theorem takeAck_moves {l' : List Part} {s' : State} (s : State) (p typ seq : Nat) (h' : Moves l' s' s) (hl' : Part.Sub [.regs, .ports] l') : Moves l' s' (takeAck s p typ seq) := by
  refine Moves.chain ?_ hl' h'
  clear h' hl'
  unfold takeAck
  try dsimp only
  repeat' (first
    | ((with_reducible apply Part.Sub.mk); rfl)
    | with_reducible apply Moves.refl
    | with_reducible assumption
    | with_reducible apply rewindTx_moves
    | with_reducible apply modPort_moves
    | with_reducible apply Moves.ite
    | intro _
    | split
    | dsimp only)

theorem dropBad_moves {l' : List Part} {s' : State} (a0' : Nat) (a1' : State) (a2' : Nat) (a3' : Nat) (h' : Moves l' s' a1') (hl' : Part.Sub [.ports] l') : Moves l' s' (dropBad a0' a1' a2' a3') := by
  induction a0' generalizing a1' a2' a3' with
  | zero => exact h'
  | succ k ih =>
    unfold dropBad
    try dsimp only
    repeat' (first
      | ((with_reducible refine Part.Sub.trans (l2 := [.ports]) (Part.Sub.mk ?_) hl'); rfl)
      | with_reducible apply ih
      | with_reducible apply Moves.refl
      | with_reducible assumption
      | with_reducible apply rxDrop_moves
      | with_reducible apply Moves.ite
      | intro _
      | split
      | dsimp only)

theorem passOnFlit_moves {l' : List Part} {s' : State} (s : State) (p vc : Nat) (es : List Nat) (f : TxFlit) (h' : Moves l' s' s) (hl' : Part.Sub [.ports] l') : Moves l' s' (passOnFlit s p vc es f) := by
  refine Moves.chain ?_ hl' h'
  clear h' hl'
  unfold passOnFlit
  try dsimp only
  repeat' (first
    | ((with_reducible apply Part.Sub.mk); rfl)
    | with_reducible apply Moves.refl
    | with_reducible assumption
    | with_reducible apply modPort_moves
    | with_reducible apply Moves.ite
    | with_reducible apply Moves.foldl
    | intro _
    | split
    | dsimp only)

theorem dataFlit_moves {l' : List Part} {s' : State} (s0 : State) (p vc : Nat) (sop eop abort : Bool) (data : List Byte) (h' : Moves l' s' s0) (hl' : Part.Sub [.regs, .owlFifo, .ports] l') : Moves l' s' (dataFlit s0 p vc sop eop abort data) := by
  refine Moves.chain ?_ hl' h'
  clear h' hl'
  unfold dataFlit
  try dsimp only
  repeat' (first
    | ((with_reducible apply Part.Sub.mk); rfl)
    | with_reducible apply Moves.refl
    | with_reducible assumption
    | with_reducible apply passOnFlit_moves
    | with_reducible apply dropBad_moves
    | with_reducible apply dropPartial_moves
    | with_reducible apply rxSettle_moves
    | with_reducible apply freeCredits_moves
    | with_reducible apply setRx_moves
    | with_reducible apply raiseBit_moves
    | with_reducible apply count_moves
    | with_reducible apply Moves.ite
    | intro _
    | split
    | dsimp only)

theorem flitRx_moves {l' : List Part} {s' : State} (s0 : State) (p : Nat) (b : List Byte) (corr unc : Nat) (h' : Moves l' s' s0) (hl' : Part.Sub [.regs, .owlFifo, .ports] l') : Moves l' s' (flitRx s0 p b corr unc) := by
  refine Moves.chain ?_ hl' h'
  clear h' hl'
  unfold flitRx
  try dsimp only
  repeat' (first
    | ((with_reducible apply Part.Sub.mk); rfl)
    | with_reducible apply Moves.refl
    | with_reducible assumption
    | with_reducible apply dataFlit_moves
    | with_reducible apply takeAck_moves
    | with_reducible apply takeCredits_moves
    | with_reducible apply wantNak_moves
    | with_reducible apply modPort_moves
    | with_reducible apply countAll_moves
    | with_reducible apply count_moves
    | with_reducible apply Moves.ite
    | intro _
    | split
    | dsimp only)

theorem forwardTo_moves {l' : List Part} {s' : State} (s : State) (p vc : Nat) (h : RxPkt) (e : Nat) (h' : Moves l' s' s) (hl' : Part.Sub [.ports] l') : Moves l' s' (forwardTo s p vc h e) := by
  refine Moves.chain ?_ hl' h'
  clear h' hl'
  unfold forwardTo
  try dsimp only
  repeat' (first
    | ((with_reducible apply Part.Sub.mk); rfl)
    | with_reducible apply Moves.refl
    | with_reducible assumption
    | with_reducible apply modPort_moves
    | with_reducible apply Moves.ite
    | intro _
    | split
    | dsimp only)

theorem routeHead_moves {l' : List Part} {s' : State} (s : State) (p vc : Nat) (h : RxPkt) (t : List RxPkt) (es : List Nat) (loc : Bool) (h' : Moves l' s' s) (hl' : Part.Sub [.ports] l') : Moves l' s' (routeHead s p vc h t es loc) := by
  refine Moves.chain ?_ hl' h'
  clear h' hl'
  unfold routeHead
  try dsimp only
  repeat' (first
    | ((with_reducible apply Part.Sub.mk); rfl)
    | with_reducible apply Moves.refl
    | with_reducible assumption
    | with_reducible apply forwardTo_moves
    | with_reducible apply rxSettle_moves
    | with_reducible apply setRx_moves
    | with_reducible apply Moves.foldl
    | intro _
    | dsimp only)

theorem countKindBad_moves {l' : List Part} {s' : State} (s : State) (p : Nat) (b : List Byte) (h' : Moves l' s' s) (hl' : Part.Sub [.regs, .owlFifo] l') : Moves l' s' (countKindBad s p b) := by
  refine Moves.chain ?_ hl' h'
  clear h' hl'
  unfold countKindBad
  try dsimp only
  repeat' (first
    | ((with_reducible apply Part.Sub.mk); rfl)
    | with_reducible apply Moves.refl
    | with_reducible assumption
    | with_reducible apply portCount_moves
    | with_reducible apply Moves.ite
    | intro _
    | split
    | dsimp only)

theorem packetForward_moves {l' : List Part} {s' : State} (s : State) (p vc : Nat) (h' : Moves l' s' s) (hl' : Part.Sub [.regs, .owlFifo, .ports] l') : Moves l' s' (packetForward s p vc) := by
  refine Moves.chain ?_ hl' h'
  clear h' hl'
  unfold packetForward
  try dsimp only
  repeat' (first
    | ((with_reducible apply Part.Sub.mk); rfl)
    | with_reducible apply Moves.refl
    | with_reducible assumption
    | with_reducible apply countKindBad_moves
    | with_reducible apply routeHead_moves
    | with_reducible apply portCount_moves
    | with_reducible apply rxDrop_moves
    | with_reducible apply count_moves
    | with_reducible apply Moves.ite
    | with_reducible apply Moves.foldl
    | intro _
    | split
    | dsimp only)

end Sys2Proof.Machine
end

