-- ==== Sys2Proof/Laws/Moves/Tad.lean ====
section
/-! SUPPORT. What the functions of Machine/Tad.lean touch. -/

namespace Sys2Proof.Machine

theorem tadBegin_moves {l' : List Part} {s' : State} (s : State) (h' : Moves l' s' s) (hl' : Part.Sub [.regs, .tad] l') : Moves l' s' (tadBegin s) := by
  refine Moves.chain ?_ hl' h'
  clear h' hl'
  unfold tadBegin
  try dsimp only
  repeat' (first
    | ((with_reducible apply Part.Sub.mk); rfl)
    | with_reducible apply Moves.refl
    | with_reducible assumption
    | with_reducible apply setFld_moves
    | with_reducible apply Moves.ite
    | intro _
    | split
    | dsimp only
    | with_reducible apply Moves.set_tad)

theorem tadResume_moves {l' : List Part} {s' : State} (s : State) (h' : Moves l' s' s) (hl' : Part.Sub [.regs, .tad] l') : Moves l' s' (tadResume s) := by
  refine Moves.chain ?_ hl' h'
  clear h' hl'
  unfold tadResume
  try dsimp only
  repeat' (first
    | ((with_reducible apply Part.Sub.mk); rfl)
    | with_reducible apply Moves.refl
    | with_reducible assumption
    | with_reducible apply tadBegin_moves
    | with_reducible apply Moves.ite
    | intro _
    | split
    | dsimp only
    | with_reducible apply Moves.set_tad)

theorem tadStart_moves {l' : List Part} {s' : State} (s : State) (h' : Moves l' s' s) (hl' : Part.Sub [.regs, .tad] l') : Moves l' s' (tadStart s) := by
  refine Moves.chain ?_ hl' h'
  clear h' hl'
  unfold tadStart
  try dsimp only
  repeat' (first
    | ((with_reducible apply Part.Sub.mk); rfl)
    | with_reducible apply Moves.refl
    | with_reducible assumption
    | with_reducible apply tadResume_moves
    | with_reducible apply Moves.ite
    | intro _
    | split
    | dsimp only
    | with_reducible apply Moves.set_tad)

theorem tadStop_moves {l' : List Part} {s' : State} (s : State) (h' : Moves l' s' s) (hl' : Part.Sub [.tad] l') : Moves l' s' (tadStop s) := by
  refine Moves.chain ?_ hl' h'
  clear h' hl'
  unfold tadStop
  try dsimp only
  repeat' (first
    | ((with_reducible apply Part.Sub.mk); rfl)
    | with_reducible apply Moves.refl
    | with_reducible assumption
    | dsimp only
    | with_reducible apply Moves.set_tad)

theorem tadRefChange_moves {l' : List Part} {s' : State} (s : State) (h' : Moves l' s' s) (hl' : Part.Sub [.regs, .owlFifo, .tad] l') : Moves l' s' (tadRefChange s) := by
  refine Moves.chain ?_ hl' h'
  clear h' hl'
  unfold tadRefChange
  try dsimp only
  repeat' (first
    | ((with_reducible apply Part.Sub.mk); rfl)
    | with_reducible apply Moves.refl
    | with_reducible assumption
    | with_reducible apply raiseBit_moves
    | with_reducible apply count_moves
    | with_reducible apply setFld_moves
    | with_reducible apply Moves.ite
    | intro _
    | split
    | dsimp only
    | with_reducible apply Moves.set_tad)

theorem tadCtrlWrite_moves {l' : List Part} {s' : State} (s : State) (w : Word) (h' : Moves l' s' s) (hl' : Part.Sub [.regs, .latches, .owlFifo, .tad] l') : Moves l' s' (tadCtrlWrite s w) := by
  refine Moves.chain ?_ hl' h'
  clear h' hl'
  unfold tadCtrlWrite
  try dsimp only
  repeat' (first
    | ((with_reducible apply Part.Sub.mk); rfl)
    | with_reducible apply Moves.refl
    | with_reducible assumption
    | with_reducible apply tadRefChange_moves
    | with_reducible apply tadStop_moves
    | with_reducible apply tadStart_moves
    | with_reducible apply regWrite_moves
    | with_reducible apply Moves.ite
    | intro _
    | split
    | dsimp only)

theorem tadFlags_moves {l' : List Part} {s' : State} (s : State) (now before : Nat) (h' : Moves l' s' s) (hl' : Part.Sub [.regs, .owlFifo] l') : Moves l' s' (tadFlags s now before) := by
  refine Moves.chain ?_ hl' h'
  clear h' hl'
  unfold tadFlags
  try dsimp only
  repeat' (first
    | ((with_reducible apply Part.Sub.mk); rfl)
    | with_reducible apply Moves.refl
    | with_reducible assumption
    | with_reducible apply raiseBit_moves
    | with_reducible apply count_moves
    | with_reducible apply Moves.ite
    | with_reducible apply Moves.foldl
    | intro _
    | split
    | dsimp only)

theorem tadHold_moves {l' : List Part} {s' : State} (s : State) (h' : Moves l' s' s) (hl' : Part.Sub [.regs, .tad] l') : Moves l' s' (tadHold s) := by
  refine Moves.chain ?_ hl' h'
  clear h' hl'
  unfold tadHold
  try dsimp only
  repeat' (first
    | ((with_reducible apply Part.Sub.mk); rfl)
    | with_reducible apply Moves.refl
    | with_reducible assumption
    | with_reducible apply setFld_moves
    | with_reducible apply Moves.ite
    | with_reducible apply Moves.ite_fst
    | with_reducible apply Moves.ite_snd
    | intro _
    | split
    | dsimp only
    | with_reducible apply Moves.set_tad)

theorem tadEnd_moves {l' : List Part} {s' : State} (s : State) (sl : List Word) (m : List AdcSlot) (h' : Moves l' s' s) (hl' : Part.Sub [.regs, .owlFifo, .tad, .bdg] l') : Moves l' s' (tadEnd s sl m) := by
  refine Moves.chain ?_ hl' h'
  clear h' hl'
  unfold tadEnd
  try dsimp only
  repeat' (first
    | ((with_reducible apply Part.Sub.mk); rfl)
    | with_reducible apply Moves.refl
    | with_reducible assumption
    | with_reducible apply tadHold_moves
    | with_reducible apply tadFlags_moves
    | with_reducible apply tadResume_moves
    | with_reducible apply bdgPulse_moves
    | with_reducible apply raiseBit_moves
    | with_reducible apply count_moves
    | with_reducible apply setFld_moves
    | with_reducible apply wrReg_moves
    | with_reducible apply Moves.ite
    | with_reducible apply Moves.foldl
    | with_reducible apply Moves.ite_fst
    | with_reducible apply Moves.ite_snd
    | with_reducible apply Moves.foldl_fst
    | with_reducible apply Moves.foldl_snd
    | intro _
    | split
    | dsimp only
    | with_reducible apply Moves.set_tad)

theorem passTemp_moves {l' : List Part} {s' : State} (s : State) (d : Nat) (h' : Moves l' s' s) (hl' : Part.Sub [.regs, .tiles] l') : Moves l' s' (passTemp s d) := by
  refine Moves.chain ?_ hl' h'
  clear h' hl'
  unfold passTemp
  try dsimp only
  repeat' (first
    | ((with_reducible apply Part.Sub.mk); rfl)
    | with_reducible apply Moves.refl
    | with_reducible assumption
    | with_reducible apply calTempCheck_moves
    | with_reducible apply setFld_moves
    | with_reducible apply Moves.foldl
    | intro _
    | dsimp only)

theorem thermJudge_moves {l' : List Part} {s' : State} (s : State) (h' : Moves l' s' s) (hl' : Part.Sub [.regs, .owlFifo, .pwr] l') : Moves l' s' (thermJudge s) := by
  refine Moves.chain ?_ hl' h'
  clear h' hl'
  unfold thermJudge
  try dsimp only
  repeat' (first
    | ((with_reducible apply Part.Sub.mk); rfl)
    | with_reducible apply Moves.refl
    | with_reducible assumption
    | with_reducible apply showThr_moves
    | with_reducible apply raiseBit_moves
    | with_reducible apply Moves.ite
    | intro _
    | split
    | dsimp only
    | with_reducible apply Moves.set_pwr)

theorem tadCalEnd_moves {l' : List Part} {s' : State} (s : State) (err : Nat) (h' : Moves l' s' s) (hl' : Part.Sub [.regs, .owlFifo, .tad] l') : Moves l' s' (tadCalEnd s err) := by
  refine Moves.chain ?_ hl' h'
  clear h' hl'
  unfold tadCalEnd
  try dsimp only
  repeat' (first
    | ((with_reducible apply Part.Sub.mk); rfl)
    | with_reducible apply Moves.refl
    | with_reducible assumption
    | with_reducible apply tadResume_moves
    | with_reducible apply raiseBit_moves
    | with_reducible apply setFld_moves
    | with_reducible apply Moves.ite
    | intro _
    | split
    | dsimp only
    | with_reducible apply Moves.set_tad)

theorem tadFlash_moves {l' : List Part} {s' : State} (s : State) (h' : Moves l' s' s) (hl' : Part.Sub [.regs, .owlFifo, .flash, .tad] l') : Moves l' s' (tadFlash s) := by
  refine Moves.chain ?_ hl' h'
  clear h' hl'
  unfold tadFlash
  try dsimp only
  repeat' (first
    | ((with_reducible apply Part.Sub.mk); rfl)
    | with_reducible apply Moves.refl
    | with_reducible assumption
    | with_reducible apply tadCalEnd_moves
    | with_reducible apply setFld_moves
    | with_reducible apply Moves.ite
    | with_reducible apply Moves.foldl
    | with_reducible apply Moves.ite_fst
    | with_reducible apply Moves.ite_snd
    | with_reducible apply Moves.foldl_fst
    | with_reducible apply Moves.foldl_snd
    | intro _
    | with_reducible apply swf_foldl
    | split
    | dsimp only
    | with_reducible apply Moves.set_flash
    | with_reducible apply Moves.set_tad)

theorem tadCalWrite_moves {l' : List Part} {s' : State} (s : State) (w : Word) (h' : Moves l' s' s) (hl' : Part.Sub [.regs, .latches, .owlFifo, .flash, .tad] l') : Moves l' s' (tadCalWrite s w) := by
  refine Moves.chain ?_ hl' h'
  clear h' hl'
  unfold tadCalWrite
  try dsimp only
  repeat' (first
    | ((with_reducible apply Part.Sub.mk); rfl)
    | with_reducible apply Moves.refl
    | with_reducible assumption
    | with_reducible apply tadFlash_moves
    | with_reducible apply tadHold_moves
    | with_reducible apply regWrite_moves
    | with_reducible apply count_moves
    | with_reducible apply setFld_moves
    | with_reducible apply Moves.ite
    | intro _
    | split
    | dsimp only
    | with_reducible apply Moves.set_tad)

theorem tadCalDone_moves {l' : List Part} {s' : State} (s : State) (step c : Nat) (l : List (BitVec 16)) (h' : Moves l' s' s) (hl' : Part.Sub [.regs, .owlFifo, .tad] l') : Moves l' s' (tadCalDone s step c l) := by
  refine Moves.chain ?_ hl' h'
  clear h' hl'
  unfold tadCalDone
  try dsimp only
  repeat' (first
    | ((with_reducible apply Part.Sub.mk); rfl)
    | with_reducible apply Moves.refl
    | with_reducible assumption
    | with_reducible apply tadCalEnd_moves
    | with_reducible apply setFld_moves
    | with_reducible apply Moves.ite
    | intro _
    | split
    | dsimp only)

theorem tadWrite_moves {l' : List Part} {s' : State} (s : State) (o : Nat) (w : Word) (h' : Moves l' s' s) (hl' : Part.Sub [.regs, .latches, .owlFifo, .flash, .tad] l') : Moves l' s' (tadWrite s o w) := by
  refine Moves.chain ?_ hl' h'
  clear h' hl'
  unfold tadWrite
  try dsimp only
  repeat' (first
    | ((with_reducible apply Part.Sub.mk); rfl)
    | with_reducible apply Moves.refl
    | with_reducible assumption
    | with_reducible apply tadCalWrite_moves
    | with_reducible apply tadCtrlWrite_moves
    | with_reducible apply regWrite_moves
    | with_reducible apply count_moves
    | with_reducible apply Moves.ite
    | intro _
    | split
    | dsimp only)

end Sys2Proof.Machine
end

