-- ==== Sys2Proof/Laws/Moves/Bars.lean ====
section
/-! SUPPORT. What the functions of Machine/Bars.lean touch. -/

namespace Sys2Proof.Machine

theorem barRead_moves {l' : List Part} {s' : State} (s0 : State) (hub : Bool) (off : Nat) (h' : Moves l' s' s0) (hl' : Part.Sub [.freeCtr, .regs, .latches, .pwr] l') :
    Moves l' s' (barRead s0 hub off).2 := by
  have sub : ∀ {a : List Part}, Part.Sub a [.freeCtr, .regs, .latches, .pwr] → Part.Sub a l' := fun h => h.trans hl'
  refine MovesP.h (p := barRead s0 hub off) ?_
  unfold barRead
  extract_lets s h key w s1
  have hs : Moves l' s' s := Moves.ite (fun _ => settleThr_moves _ h' (sub ⟨rfl⟩)) fun _ => h'
  have h1 : Moves l' s' s1 := Moves.set_freeCtr hs (sub ⟨rfl⟩)
  clear_value s1 w key h s
  refine MovesP.ite (fun _ => .of_mk (Moves.set_latches h1 (sub ⟨rfl⟩))) fun _ => MovesP.ite (fun _ => ?_) fun _ => .of_mk h1
  split
  · exact .of_mk (Moves.set_latches h1 (sub ⟨rfl⟩))
  · exact .of_mk h1


theorem barReadBytes_moves {l' : List Part} {s' : State} (s : State) (hub : Bool) (off len : Nat) (h' : Moves l' s' s) (hl' : Part.Sub [.freeCtr, .regs, .latches, .hostResp, .pwr] l') : Moves l' s' (barReadBytes s hub off len) := by
  refine Moves.chain ?_ hl' h'
  clear h' hl'
  unfold barReadBytes
  try dsimp only
  repeat' (first
    | ((with_reducible apply Part.Sub.mk); rfl)
    | with_reducible apply Moves.refl
    | with_reducible assumption
    | with_reducible apply barRead_moves
    | with_reducible apply Moves.ite
    | with_reducible apply Moves.ite_fst
    | with_reducible apply Moves.ite_snd
    | intro _
    | split
    | dsimp only
    | with_reducible apply Moves.set_hostResp)

theorem seedWrite_moves {l' : List Part} {s' : State} (s : State) (k : Nat) (high : Bool) (v : Word) (set : State → Nat → State) (h' : Moves l' s' s) (hl' : Part.Sub [.latches, .seedLow] l') (hset : ∀ v0 v1, Moves l' s' v0 → Moves l' s' (set v0 v1)) : Moves l' s' (seedWrite s k high v set) := by
  unfold seedWrite
  try dsimp only
  repeat' (first
    | ((with_reducible refine Part.Sub.trans (l2 := [.latches, .seedLow]) (Part.Sub.mk ?_) hl'); rfl)
    | with_reducible apply hset
    | with_reducible apply Moves.refl
    | with_reducible assumption
    | with_reducible apply dropLatch_moves
    | with_reducible apply Moves.ite
    | with_reducible apply Moves.ite_fst
    | with_reducible apply Moves.ite_snd
    | intro _
    | split
    | dsimp only
    | with_reducible apply Moves.set_seedLow)

theorem seqCtrlWrite_moves {l' : List Part} {s' : State} (s : State) (n : Nat) (w : Nat) (h' : Moves l' s' s) (hl' : Part.Sub [.regs, .tiles] l') : Moves l' s' (seqCtrlWrite s n w) := by
  refine Moves.chain ?_ hl' h'
  clear h' hl'
  unfold seqCtrlWrite
  try dsimp only
  repeat' (first
    | ((with_reducible apply Part.Sub.mk); rfl)
    | with_reducible apply Moves.refl
    | with_reducible assumption
    | with_reducible apply seqContinue_moves
    | with_reducible apply seqRun_moves
    | with_reducible apply setFld_moves
    | with_reducible apply Moves.ite
    | intro _
    | split
    | dsimp only)

theorem calArrWrite_moves {l' : List Part} {s' : State} (s : State) (n a o : Nat) (v : Word) (h' : Moves l' s' s) (hl' : Part.Sub [.regs, .latches, .tiles, .owlFifo] l') : Moves l' s' (calArrWrite s n a o v) := by
  refine Moves.chain ?_ hl' h'
  clear h' hl'
  unfold calArrWrite
  try dsimp only
  repeat' (first
    | ((with_reducible apply Part.Sub.mk); rfl)
    | with_reducible apply Moves.refl
    | with_reducible assumption
    | with_reducible apply remapRfsh_moves
    | with_reducible apply setRemap_moves
    | with_reducible apply regWrite_moves
    | with_reducible apply raiseBit_moves
    | with_reducible apply count_moves
    | with_reducible apply setFld_moves
    | with_reducible apply Moves.ite
    | intro _
    | split
    | dsimp only)

theorem calCmdWrite_moves {l' : List Part} {s' : State} (s : State) (n w : Nat) (h' : Moves l' s' s) (hl' : Part.Sub [.regs, .tiles] l') : Moves l' s' (calCmdWrite s n w) := by
  refine Moves.chain ?_ hl' h'
  clear h' hl'
  unfold calCmdWrite
  try dsimp only
  repeat' (first
    | ((with_reducible apply Part.Sub.mk); rfl)
    | with_reducible apply Moves.refl
    | with_reducible assumption
    | with_reducible apply calAbort_moves
    | with_reducible apply calCommit_moves
    | with_reducible apply calTrigger_moves
    | with_reducible apply Moves.ite
    | intro _
    | split
    | dsimp only)

theorem tileWrite_moves {l' : List Part} {s' : State} (s : State) (n o : Nat) (v : Word) (h' : Moves l' s' s) (hl' : Part.Sub [.regs, .latches, .seedLow, .tiles, .owlFifo, .fwEvents, .pwr] l') : Moves l' s' (tileWrite s n o v) := by
  refine Moves.chain ?_ hl' h'
  clear h' hl'
  unfold tileWrite
  try dsimp only
  repeat' (first
    | ((with_reducible apply Part.Sub.mk); rfl)
    | with_reducible apply Moves.refl
    | with_reducible assumption
    | with_reducible apply calCmdWrite_moves
    | with_reducible apply calArrWrite_moves
    | with_reducible apply seqCtrlWrite_moves
    | with_reducible apply seedWrite_moves
    | with_reducible apply settleThr_moves
    | with_reducible apply endWait_moves
    | with_reducible apply regWrite_moves
    | with_reducible apply applyWide_moves
    | with_reducible apply writeSeed_moves
    | with_reducible apply setOwner_moves
    | with_reducible apply modTile_moves
    | with_reducible apply Moves.ite
    | intro _
    | split
    | dsimp only)

theorem mcRegWrite_moves {l' : List Part} {s' : State} (s : State) (m o : Nat) (v : Word) (h' : Moves l' s' s) (hl' : Part.Sub [.regs, .latches, .seedLow, .mcs] l') : Moves l' s' (mcRegWrite s m o v) := by
  refine Moves.chain ?_ hl' h'
  clear h' hl'
  unfold mcRegWrite
  try dsimp only
  repeat' (first
    | ((with_reducible apply Part.Sub.mk); rfl)
    | with_reducible apply Moves.refl
    | with_reducible assumption
    | with_reducible apply seedWrite_moves
    | with_reducible apply mrtSeed_moves
    | with_reducible apply regWrite_moves
    | with_reducible apply grpWrite_moves
    | with_reducible apply Moves.ite
    | intro _
    | split
    | dsimp only)

theorem portWrite_moves {l' : List Part} {s' : State} (s : State) (p o : Nat) (v : Word) (h' : Moves l' s' s) (hl' : Part.Sub [.regs, .latches, .owlFifo, .ports] l') : Moves l' s' (portWrite s p o v) := by
  refine Moves.chain ?_ hl' h'
  clear h' hl'
  unfold portWrite
  try dsimp only
  repeat' (first
    | ((with_reducible apply Part.Sub.mk); rfl)
    | with_reducible apply Moves.refl
    | with_reducible assumption
    | with_reducible apply fastRetrain_moves
    | with_reducible apply goDown_moves
    | with_reducible apply regWrite_moves
    | with_reducible apply Moves.ite
    | intro _
    | split
    | dsimp only)

theorem owlPrune_moves {l' : List Part} {s' : State} (s : State) (h' : Moves l' s' s) (hl' : Part.Sub [.owlFifo] l') : Moves l' s' (owlPrune s) := by
  refine Moves.chain ?_ hl' h'
  clear h' hl'
  unfold owlPrune
  try dsimp only
  repeat' (first
    | ((with_reducible apply Part.Sub.mk); rfl)
    | with_reducible apply Moves.refl
    | with_reducible assumption
    | intro _
    | dsimp only
    | with_reducible apply Moves.set_owlFifo)

theorem evqWriteReg_moves {l' : List Part} {s' : State} (s : State) (o : Nat) (v : Word) (h' : Moves l' s' s) (hl' : Part.Sub [.regs, .latches, .owlFifo, .out, .evqs, .msixPend] l') : Moves l' s' (evqWriteReg s o v) := by
  refine Moves.chain ?_ hl' h'
  clear h' hl'
  unfold evqWriteReg
  try dsimp only
  repeat' (first
    | ((with_reducible apply Part.Sub.mk); rfl)
    | with_reducible apply Moves.refl
    | with_reducible assumption
    | with_reducible apply evqHeadWrite_moves
    | with_reducible apply evqCfgWrite_moves
    | with_reducible apply regWrite_moves
    | with_reducible apply Moves.ite
    | intro _
    | split
    | dsimp only)

theorem hubWrite_moves {l' : List Part} {s' : State} (s : State) (hub : Bool) (o : Nat) (v : Word) (h' : Moves l' s' s) (hl' : Part.Sub [.now, .regs, .latches, .seedLow, .hbm, .tiles, .mcs, .launchAt, .sigs, .lastGrant, .owlFifo, .taints, .taintFrom, .suspects, .cfg, .staged, .prevTag, .actAt, .hubAt, .obkts, .rbkts, .accSent, .localRx, .passed, .doneV, .csFails, .failWins, .ledger, .ports, .fwEvents, .out, .mbx, .mbxPosted, .mbxRun, .evqs, .msix, .msixPend, .fwRecs, .fwNum, .fwNet, .owlNet, .fwRaw, .mgmtDown, .flash, .sec, .cpy, .mon, .beatAt, .stall, .tad, .bdg, .bdgMem, .bdgLast, .den, .scanned, .retiring, .pwr, .hubUp, .d3hot] l') : Moves l' s' (hubWrite s hub o v) := by
  refine Moves.chain ?_ hl' h'
  clear h' hl'
  unfold hubWrite
  try dsimp only
  repeat' (first
    | ((with_reducible apply Part.Sub.mk); rfl)
    | with_reducible apply Moves.refl
    | with_reducible assumption
    | with_reducible apply evqWriteReg_moves
    | with_reducible apply owlPrune_moves
    | with_reducible apply tadWrite_moves
    | with_reducible apply cpyCtrlWrite_moves
    | with_reducible apply mbxAck_moves
    | with_reducible apply mbxRing_moves
    | with_reducible apply pwrCtrlWrite_moves
    | with_reducible apply pwrRstWrite_moves
    | with_reducible apply settleThr_moves
    | with_reducible apply showPins_moves
    | with_reducible apply levelWrite_moves
    | with_reducible apply bdgWrite_moves
    | with_reducible apply regWrite_moves
    | with_reducible apply armAt_moves
    | with_reducible apply Moves.ite
    | intro _
    | split
    | dsimp only
    | with_reducible apply Moves.set_sec)

theorem barWrite_moves {l' : List Part} {s' : State} (s : State) (hub : Bool) (off : Nat) (v : Word) (h' : Moves l' s' s) (hl' : Part.Sub [.now, .regs, .latches, .seedLow, .hbm, .tiles, .mcs, .launchAt, .sigs, .lastGrant, .owlFifo, .taints, .taintFrom, .suspects, .cfg, .staged, .prevTag, .actAt, .hubAt, .obkts, .rbkts, .accSent, .localRx, .passed, .doneV, .csFails, .failWins, .ledger, .ports, .fwEvents, .out, .mbx, .mbxPosted, .mbxRun, .evqs, .msix, .msixPend, .fwRecs, .fwNum, .fwNet, .owlNet, .fwRaw, .mgmtDown, .flash, .sec, .cpy, .mon, .beatAt, .stall, .tad, .bdg, .bdgMem, .bdgLast, .den, .scanned, .retiring, .pwr, .hubUp, .d3hot] l') : Moves l' s' (barWrite s hub off v) := by
  refine Moves.chain ?_ hl' h'
  clear h' hl'
  unfold barWrite
  try dsimp only
  repeat' (first
    | ((with_reducible apply Part.Sub.mk); rfl)
    | with_reducible apply Moves.refl
    | with_reducible assumption
    | with_reducible apply hubWrite_moves
    | with_reducible apply portWrite_moves
    | with_reducible apply mcRegWrite_moves
    | with_reducible apply tileWrite_moves
    | with_reducible apply mbxWrite_moves
    | with_reducible apply msixWrite_moves
    | with_reducible apply Moves.ite
    | intro _
    | with_reducible apply swf_sset
    | split
    | dsimp only
    | with_reducible apply Moves.set_bdgMem)

end Sys2Proof.Machine
end

