-- ==== Sys2Proof/Laws/Moves/Complete.lean ====
section
/-! SUPPORT. What the functions of Machine/Complete.lean touch. -/

namespace Sys2Proof.Machine

theorem runIssued_moves {l' : List Part} {s' : State} (s : State) (n : Nat) (i : Issued) (res : List (Nat × Nat)) (bad : List Nat) (h' : Moves l' s' s) (hl' : Part.Sub [.freeCtr, .regs, .hbm, .tiles, .mcs, .owlFifo, .taints, .suspects, .accSent, .localRx, .ports, .fwEvents] l') : Moves l' s' (runIssued s n i res bad) := by
  refine Moves.chain ?_ hl' h'
  clear h' hl'
  unfold runIssued
  try dsimp only
  repeat' (first
    | ((with_reducible apply Part.Sub.mk); rfl)
    | with_reducible apply Moves.refl
    | with_reducible assumption
    | with_reducible apply runVdisp_moves
    | with_reducible apply runGrpupd_moves
    | with_reducible apply runMissue_moves
    | with_reducible apply runXclose_moves
    | with_reducible apply runWgflush_moves
    | with_reducible apply runWgclr_moves
    | with_reducible apply runDme_moves
    | with_reducible apply runFlush_moves
    | intro _
    | split
    | dsimp only)

theorem commandComplete_moves {l' : List Part} {s' : State} (s : State) (n u : Nat) (res : List (Nat × Nat)) (bad : List Nat) (h' : Moves l' s' s) (hl' : Part.Sub [.freeCtr, .regs, .hbm, .tiles, .mcs, .sigs, .owlFifo, .taints, .suspects, .accSent, .localRx, .ports, .fwEvents] l') : Moves l' s' (commandComplete s n u res bad) := by
  refine Moves.chain ?_ hl' h'
  clear h' hl'
  unfold commandComplete
  try dsimp only
  repeat' (first
    | ((with_reducible apply Part.Sub.mk); rfl)
    | with_reducible apply Moves.refl
    | with_reducible assumption
    | with_reducible apply runIssued_moves
    | with_reducible apply afterComplete_moves
    | with_reducible apply modTile_moves
    | with_reducible apply Moves.ite
    | intro _
    | split
    | dsimp only)

end Sys2Proof.Machine
end

