-- ==== Sys2Proof/Laws/Moves/Firmware.lean ====
section
/-! SUPPORT. What the functions of Machine/Firmware.lean touch. -/

namespace Sys2Proof.Machine

theorem fwRestart_moves {l' : List Part} {s' : State} (s : State) (h' : Moves l' s' s) (hl' : Part.Sub [.regs, .owlFifo, .mbxRun, .beatAt, .stall] l') : Moves l' s' (fwRestart s) := by
  refine Moves.chain ?_ hl' h'
  clear h' hl'
  unfold fwRestart
  try dsimp only
  repeat' (first
    | ((with_reducible apply Part.Sub.mk); rfl)
    | with_reducible apply Moves.refl
    | with_reducible assumption
    | with_reducible apply setPair_moves
    | with_reducible apply raiseBit_moves
    | with_reducible apply count_moves
    | with_reducible apply Moves.foldl
    | intro _
    | dsimp only
    | with_reducible apply Moves.set_mbxRun_beatAt_stall)

theorem rollBack_moves {l' : List Part} {s' : State} (s : State) (h' : Moves l' s' s) (hl' : Part.Sub [.regs, .owlFifo, .sec, .beatAt, .stall] l') : Moves l' s' (rollBack s) := by
  refine Moves.chain ?_ hl' h'
  clear h' hl'
  unfold rollBack
  try dsimp only
  repeat' (first
    | ((with_reducible apply Part.Sub.mk); rfl)
    | with_reducible apply Moves.refl
    | with_reducible assumption
    | with_reducible apply raiseBit_moves
    | with_reducible apply count_moves
    | with_reducible apply setFld_moves
    | dsimp only
    | with_reducible apply Moves.set_sec_beatAt_stall)

end Sys2Proof.Machine
end

