-- ==== Sys2Proof/Laws/Moves/Monitor.lean ====
section
/-! SUPPORT. What the functions of Machine/Monitor.lean touch. -/

namespace Sys2Proof.Machine

theorem say_moves {l' : List Part} {s' : State} (s : State) (b : List Byte) (h' : Moves l' s' s) (hl' : Part.Sub [.out] l') : Moves l' s' (say s b) := by
  refine Moves.chain ?_ hl' h'
  clear h' hl'
  unfold say
  try dsimp only
  repeat' (first
    | ((with_reducible apply Part.Sub.mk); rfl)
    | with_reducible apply Moves.refl
    | with_reducible assumption
    | with_reducible apply List.prefix_append
    | with_reducible apply List.prefix_refl
    | dsimp only
    | with_reducible apply Moves.set_out
    | exact List.prefix_append _ _
    | exact (List.prefix_append _ _).trans (List.prefix_append _ _))

theorem ok_moves {l' : List Part} {s' : State} (s : State) (ls : List (List Byte)) (h' : Moves l' s' s) (hl' : Part.Sub [.out] l') : Moves l' s' (ok s ls) := by
  refine Moves.chain ?_ hl' h'
  clear h' hl'
  unfold ok
  try dsimp only
  repeat' (first
    | ((with_reducible apply Part.Sub.mk); rfl)
    | with_reducible apply Moves.refl
    | with_reducible assumption
    | with_reducible apply say_moves
    | intro _
    | dsimp only)

theorem err_moves {l' : List Part} {s' : State} (s : State) (code : Nat) (h' : Moves l' s' s) (hl' : Part.Sub [.out] l') : Moves l' s' (err s code) := by
  refine Moves.chain ?_ hl' h'
  clear h' hl'
  unfold err
  try dsimp only
  repeat' (first
    | ((with_reducible apply Part.Sub.mk); rfl)
    | with_reducible apply Moves.refl
    | with_reducible assumption
    | with_reducible apply say_moves
    | dsimp only)

theorem whenOpen_moves {l' : List Part} {s' : State} (s : State) (f : State → State) (h' : Moves l' s' s) (hl' : Part.Sub [.out] l') (hf : ∀ v0, Moves l' s' v0 → Moves l' s' (f v0)) : Moves l' s' (whenOpen s f) := by
  unfold whenOpen
  try dsimp only
  repeat' (first
    | ((with_reducible refine Part.Sub.trans (l2 := [.out]) (Part.Sub.mk ?_) hl'); rfl)
    | with_reducible apply hf
    | with_reducible apply Moves.refl
    | with_reducible assumption
    | with_reducible apply err_moves
    | with_reducible apply Moves.ite
    | intro _
    | split
    | dsimp only)

theorem entered_moves {l' : List Part} {s' : State} (s : State) (f : State → State) (h' : Moves l' s' s) (hl' : Part.Sub [.mon] l') (hf : ∀ v0, Moves l' s' v0 → Moves l' s' (f v0)) : Moves l' s' (entered s f) := by
  unfold entered
  try dsimp only
  repeat' (first
    | ((with_reducible refine Part.Sub.trans (l2 := [.mon]) (Part.Sub.mk ?_) hl'); rfl)
    | with_reducible apply hf
    | with_reducible apply Moves.refl
    | with_reducible assumption
    | with_reducible apply Moves.ite
    | intro _
    | split
    | dsimp only
    | with_reducible apply Moves.set_mon)

theorem monHelp_moves {l' : List Part} {s' : State} (s : State) (h' : Moves l' s' s) (hl' : Part.Sub [.out] l') : Moves l' s' (monHelp s) := by
  refine Moves.chain ?_ hl' h'
  clear h' hl'
  unfold monHelp
  try dsimp only
  repeat' (first
    | ((with_reducible apply Part.Sub.mk); rfl)
    | with_reducible apply Moves.refl
    | with_reducible assumption
    | with_reducible apply ok_moves
    | dsimp only)

theorem monInfo_moves {l' : List Part} {s' : State} (s : State) (h' : Moves l' s' s) (hl' : Part.Sub [.out] l') : Moves l' s' (monInfo s) := by
  refine Moves.chain ?_ hl' h'
  clear h' hl'
  unfold monInfo
  try dsimp only
  repeat' (first
    | ((with_reducible apply Part.Sub.mk); rfl)
    | with_reducible apply Moves.refl
    | with_reducible assumption
    | with_reducible apply ok_moves
    | with_reducible apply Moves.ite
    | intro _
    | split
    | dsimp only)

theorem monRdLines_moves {l' : List Part} {s' : State} (a0' : Nat) (a1' : Nat) (a2' : State) (h' : Moves l' s' a2') (hl' : Part.Sub [.freeCtr, .regs, .latches, .pwr] l') : Moves l' s' (monRdLines a0' a1' a2').2 := by
  induction a0' generalizing a1' a2' with
  | zero => exact h'
  | succ k ih =>
    unfold monRdLines
    try dsimp only
    repeat' (first
      | ((with_reducible refine Part.Sub.trans (l2 := [.freeCtr, .regs, .latches, .pwr]) (Part.Sub.mk ?_) hl'); rfl)
      | with_reducible apply ih
      | with_reducible apply Moves.refl
      | with_reducible assumption
      | with_reducible apply barRead_moves
      | with_reducible apply Moves.ite
      | with_reducible apply Moves.ite_fst
      | with_reducible apply Moves.ite_snd
      | intro _
      | split
      | dsimp only)

theorem monRd_moves {l' : List Part} {s' : State} (s : State) (off n : Nat) (h' : Moves l' s' s) (hl' : Part.Sub [.freeCtr, .regs, .latches, .out, .pwr] l') : Moves l' s' (monRd s off n) := by
  refine Moves.chain ?_ hl' h'
  clear h' hl'
  unfold monRd
  try dsimp only
  repeat' (first
    | ((with_reducible apply Part.Sub.mk); rfl)
    | with_reducible apply Moves.refl
    | with_reducible assumption
    | with_reducible apply monRdLines_moves
    | (with_reducible apply MovesP.mk; with_reducible apply monRdLines_moves)
    | with_reducible apply err_moves
    | with_reducible apply ok_moves
    | with_reducible apply Moves.ite
    | with_reducible apply Moves.ite_fst
    | with_reducible apply Moves.ite_snd
    | intro _
    | split
    | dsimp only)

theorem monTiles_moves {l' : List Part} {s' : State} (s : State) (h' : Moves l' s' s) (hl' : Part.Sub [.out] l') : Moves l' s' (monTiles s) := by
  refine Moves.chain ?_ hl' h'
  clear h' hl'
  unfold monTiles
  try dsimp only
  repeat' (first
    | ((with_reducible apply Part.Sub.mk); rfl)
    | with_reducible apply Moves.refl
    | with_reducible assumption
    | with_reducible apply ok_moves
    | intro _
    | split
    | dsimp only)

theorem monPorts_moves {l' : List Part} {s' : State} (s : State) (h' : Moves l' s' s) (hl' : Part.Sub [.out] l') : Moves l' s' (monPorts s) := by
  refine Moves.chain ?_ hl' h'
  clear h' hl'
  unfold monPorts
  try dsimp only
  repeat' (first
    | ((with_reducible apply Part.Sub.mk); rfl)
    | with_reducible apply Moves.refl
    | with_reducible assumption
    | with_reducible apply ok_moves
    | with_reducible apply Moves.ite
    | intro _
    | split
    | dsimp only)

theorem monTemp_moves {l' : List Part} {s' : State} (s : State) (h' : Moves l' s' s) (hl' : Part.Sub [.freeCtr, .out] l') : Moves l' s' (monTemp s) := by
  refine Moves.chain ?_ hl' h'
  clear h' hl'
  unfold monTemp
  try dsimp only
  repeat' (first
    | ((with_reducible apply Part.Sub.mk); rfl)
    | with_reducible apply Moves.refl
    | with_reducible assumption
    | with_reducible apply ok_moves
    | intro _
    | dsimp only
    | with_reducible apply Moves.set_freeCtr)

theorem monEvents_moves {l' : List Part} {s' : State} (s : State) (n : Nat) (h' : Moves l' s' s) (hl' : Part.Sub [.out] l') : Moves l' s' (monEvents s n) := by
  refine Moves.chain ?_ hl' h'
  clear h' hl'
  unfold monEvents
  try dsimp only
  repeat' (first
    | ((with_reducible apply Part.Sub.mk); rfl)
    | with_reducible apply Moves.refl
    | with_reducible assumption
    | with_reducible apply err_moves
    | with_reducible apply ok_moves
    | with_reducible apply Moves.ite
    | intro _
    | split
    | dsimp only)

theorem monBaud_moves {l' : List Part} {s' : State} (s : State) (rate : Nat) (h' : Moves l' s' s) (hl' : Part.Sub [.regs, .out] l') : Moves l' s' (monBaud s rate) := by
  refine Moves.chain ?_ hl' h'
  clear h' hl'
  unfold monBaud
  try dsimp only
  repeat' (first
    | ((with_reducible apply Part.Sub.mk); rfl)
    | with_reducible apply Moves.refl
    | with_reducible assumption
    | with_reducible apply err_moves
    | with_reducible apply ok_moves
    | with_reducible apply setFld_moves
    | intro _
    | split
    | dsimp only)

theorem monUnlock_moves {l' : List Part} {s' : State} (s : State) (h' : Moves l' s' s) (hl' : Part.Sub [.freeCtr, .out, .mon] l') : Moves l' s' (monUnlock s) := by
  refine Moves.chain ?_ hl' h'
  clear h' hl'
  unfold monUnlock
  try dsimp only
  repeat' (first
    | ((with_reducible apply Part.Sub.mk); rfl)
    | with_reducible apply Moves.refl
    | with_reducible assumption
    | with_reducible apply err_moves
    | with_reducible apply ok_moves
    | with_reducible apply Moves.ite
    | intro _
    | split
    | dsimp only
    | with_reducible apply Moves.set_freeCtr_mon)

theorem unlockFail_moves {l' : List Part} {s' : State} (s : State) (h' : Moves l' s' s) (hl' : Part.Sub [.regs, .owlFifo, .out, .mon] l') : Moves l' s' (unlockFail s) := by
  refine Moves.chain ?_ hl' h'
  clear h' hl'
  unfold unlockFail
  try dsimp only
  repeat' (first
    | ((with_reducible apply Part.Sub.mk); rfl)
    | with_reducible apply Moves.refl
    | with_reducible assumption
    | with_reducible apply err_moves
    | with_reducible apply raiseBit_moves
    | with_reducible apply count_moves
    | with_reducible apply setFld_moves
    | with_reducible apply Moves.ite
    | intro _
    | split
    | dsimp only
    | with_reducible apply Moves.set_mon)

theorem monResp_moves {l' : List Part} {s' : State} (s : State) (groups : Option (List Word)) (h' : Moves l' s' s) (hl' : Part.Sub [.regs, .owlFifo, .out, .mon] l') : Moves l' s' (monResp s groups) := by
  refine Moves.chain ?_ hl' h'
  clear h' hl'
  unfold monResp
  try dsimp only
  repeat' (first
    | ((with_reducible apply Part.Sub.mk); rfl)
    | with_reducible apply Moves.refl
    | with_reducible assumption
    | with_reducible apply unlockFail_moves
    | with_reducible apply err_moves
    | with_reducible apply ok_moves
    | with_reducible apply setFld_moves
    | with_reducible apply Moves.ite
    | intro _
    | split
    | dsimp only
    | with_reducible apply Moves.set_mon)

theorem monWr_moves {l' : List Part} {s' : State} (s : State) (off : Nat) (v : Word) (h' : Moves l' s' s) (hl' : Part.Sub [.now, .regs, .latches, .seedLow, .hbm, .tiles, .mcs, .launchAt, .sigs, .lastGrant, .owlFifo, .taints, .taintFrom, .suspects, .cfg, .staged, .prevTag, .actAt, .hubAt, .obkts, .rbkts, .accSent, .localRx, .passed, .doneV, .csFails, .failWins, .ledger, .ports, .fwEvents, .out, .mbx, .mbxPosted, .mbxRun, .evqs, .msix, .msixPend, .fwRecs, .fwNum, .fwNet, .owlNet, .fwRaw, .mgmtDown, .flash, .sec, .cpy, .mon, .beatAt, .stall, .tad, .bdg, .bdgMem, .bdgLast, .den, .scanned, .retiring, .pwr, .hubUp, .d3hot] l') : Moves l' s' (monWr s off v) := by
  refine Moves.chain ?_ hl' h'
  clear h' hl'
  unfold monWr
  try dsimp only
  repeat' (first
    | ((with_reducible apply Part.Sub.mk); rfl)
    | with_reducible apply Moves.refl
    | with_reducible assumption
    | with_reducible apply whenOpen_moves
    | with_reducible apply err_moves
    | with_reducible apply ok_moves
    | with_reducible apply barWrite_moves
    | with_reducible apply Moves.ite
    | intro _
    | split
    | dsimp only)

theorem monStream_moves {l' : List Part} {s' : State} (s : State) (mask action : Nat) (h' : Moves l' s' s) (hl' : Part.Sub [.regs, .tiles, .out] l') : Moves l' s' (monStream s mask action) := by
  refine Moves.chain ?_ hl' h'
  clear h' hl'
  unfold monStream
  try dsimp only
  repeat' (first
    | ((with_reducible apply Part.Sub.mk); rfl)
    | with_reducible apply Moves.refl
    | with_reducible assumption
    | with_reducible apply whenOpen_moves
    | with_reducible apply err_moves
    | with_reducible apply ok_moves
    | with_reducible apply streamCtrl_moves
    | (with_reducible apply MovesQ.mk; with_reducible apply streamCtrl_moves)
    | with_reducible apply Moves.ite
    | with_reducible apply Moves.ite_fst
    | with_reducible apply Moves.ite_snd
    | intro _
    | split
    | dsimp only)

theorem monOwnerArm_moves {l' : List Part} {s' : State} (s : State) (h' : Moves l' s' s) (hl' : Part.Sub [.now, .regs, .latches, .seedLow, .hbm, .tiles, .mcs, .launchAt, .sigs, .lastGrant, .owlFifo, .taints, .taintFrom, .suspects, .cfg, .staged, .prevTag, .actAt, .hubAt, .obkts, .rbkts, .accSent, .localRx, .passed, .doneV, .csFails, .failWins, .ledger, .ports, .fwEvents, .out, .mbx, .mbxPosted, .mbxRun, .evqs, .msix, .msixPend, .fwRecs, .fwNum, .fwNet, .owlNet, .fwRaw, .mgmtDown, .flash, .sec, .cpy, .mon, .beatAt, .stall, .tad, .bdg, .bdgMem, .bdgLast, .den, .scanned, .retiring, .pwr, .hubUp, .d3hot] l') : Moves l' s' (monOwnerArm s) := by
  refine Moves.chain ?_ hl' h'
  clear h' hl'
  unfold monOwnerArm
  try dsimp only
  repeat' (first
    | ((with_reducible apply Part.Sub.mk); rfl)
    | with_reducible apply Moves.refl
    | with_reducible assumption
    | with_reducible apply whenOpen_moves
    | with_reducible apply ok_moves
    | with_reducible apply barWrite_moves
    | intro _
    | dsimp only)

theorem lockMon_moves {l' : List Part} {s' : State} (s : State) (h' : Moves l' s' s) (hl' : Part.Sub [.regs] l') : Moves l' s' (lockMon s) := by
  refine Moves.chain ?_ hl' h'
  clear h' hl'
  unfold lockMon
  try dsimp only
  repeat' (first
    | ((with_reducible apply Part.Sub.mk); rfl)
    | with_reducible apply Moves.refl
    | with_reducible assumption
    | with_reducible apply setFld_moves
    | dsimp only)

theorem monLock_moves {l' : List Part} {s' : State} (s : State) (h' : Moves l' s' s) (hl' : Part.Sub [.regs, .out] l') : Moves l' s' (monLock s) := by
  refine Moves.chain ?_ hl' h'
  clear h' hl'
  unfold monLock
  try dsimp only
  repeat' (first
    | ((with_reducible apply Part.Sub.mk); rfl)
    | with_reducible apply Moves.refl
    | with_reducible assumption
    | with_reducible apply lockMon_moves
    | with_reducible apply whenOpen_moves
    | with_reducible apply ok_moves
    | intro _
    | dsimp only)

theorem runLine_moves {l' : List Part} {s' : State} (s : State) (line : List Byte) (h' : Moves l' s' s) (hl' : Part.Sub [.now, .freeCtr, .regs, .latches, .seedLow, .hbm, .tiles, .mcs, .launchAt, .sigs, .lastGrant, .owlFifo, .taints, .taintFrom, .suspects, .cfg, .staged, .prevTag, .actAt, .hubAt, .obkts, .rbkts, .accSent, .localRx, .passed, .doneV, .csFails, .failWins, .ledger, .ports, .fwEvents, .out, .mbx, .mbxPosted, .mbxRun, .evqs, .msix, .msixPend, .fwRecs, .fwNum, .fwNet, .owlNet, .fwRaw, .mgmtDown, .flash, .sec, .cpy, .mon, .beatAt, .stall, .tad, .bdg, .bdgMem, .bdgLast, .den, .scanned, .retiring, .pwr, .hubUp, .d3hot] l') : Moves l' s' (runLine s line) := by
  refine Moves.chain ?_ hl' h'
  clear h' hl'
  unfold runLine
  try dsimp only
  repeat' (first
    | ((with_reducible apply Part.Sub.mk); rfl)
    | with_reducible apply Moves.refl
    | with_reducible assumption
    | with_reducible apply monLock_moves
    | with_reducible apply monOwnerArm_moves
    | with_reducible apply monStream_moves
    | with_reducible apply monWr_moves
    | with_reducible apply monResp_moves
    | with_reducible apply monUnlock_moves
    | with_reducible apply monBaud_moves
    | with_reducible apply monEvents_moves
    | with_reducible apply monTemp_moves
    | with_reducible apply monPorts_moves
    | with_reducible apply monTiles_moves
    | with_reducible apply monRd_moves
    | with_reducible apply monInfo_moves
    | with_reducible apply monHelp_moves
    | with_reducible apply err_moves
    | with_reducible apply say_moves
    | with_reducible apply Moves.ite
    | intro _
    | split
    | dsimp only)

theorem uartChar_moves {l' : List Part} {s' : State} (s : State) (b : Byte) (h' : Moves l' s' s) (hl' : Part.Sub [.now, .freeCtr, .regs, .latches, .seedLow, .hbm, .tiles, .mcs, .launchAt, .sigs, .lastGrant, .owlFifo, .taints, .taintFrom, .suspects, .cfg, .staged, .prevTag, .actAt, .hubAt, .obkts, .rbkts, .accSent, .localRx, .passed, .doneV, .csFails, .failWins, .ledger, .ports, .fwEvents, .out, .mbx, .mbxPosted, .mbxRun, .evqs, .msix, .msixPend, .fwRecs, .fwNum, .fwNet, .owlNet, .fwRaw, .mgmtDown, .flash, .sec, .cpy, .mon, .beatAt, .stall, .tad, .bdg, .bdgMem, .bdgLast, .den, .scanned, .retiring, .pwr, .hubUp, .d3hot] l') : Moves l' s' (uartChar s b) := by
  refine Moves.chain ?_ hl' h'
  clear h' hl'
  unfold uartChar
  try dsimp only
  repeat' (first
    | ((with_reducible apply Part.Sub.mk); rfl)
    | with_reducible apply Moves.refl
    | with_reducible assumption
    | with_reducible apply runLine_moves
    | with_reducible apply say_moves
    | with_reducible apply Moves.ite
    | intro _
    | split
    | dsimp only
    | with_reducible apply Moves.set_mon)

end Sys2Proof.Machine
end

