-- ==== Sys2Proof/Laws/Moves/Tick.lean ====
section
/-! SUPPORT. What the functions of Machine/Tick.lean touch. -/

namespace Sys2Proof.Machine

theorem tick_moves {l' : List Part} {s' : State} (s : State) (h' : Moves l' s' s) (hl' : Part.Sub [.now, .regs, .owlFifo, .flash, .sec, .beatAt, .tad] l') : Moves l' s' (tick s) := by
  refine Moves.chain ?_ hl' h'
  clear h' hl'
  unfold tick
  try dsimp only
  repeat' (first
    | ((with_reducible apply Part.Sub.mk); rfl)
    | with_reducible apply Moves.refl
    | with_reducible assumption
    | with_reducible apply tadFlash_moves
    | with_reducible apply handStep_moves
    | dsimp only
    | with_reducible apply Moves.set_now
    | omega)

end Sys2Proof.Machine
end

