-- ==== Sys2Proof/Laws/Answers.lean ====
section
/-! SUPPORT. A command answers a next state that touches only the listed parts. -/

namespace Sys2Proof.Machine

/-- The outcome `o` is a next state reached from `s` by touching only the parts `l`. -/
def Answers (l : List Part) (s : State) (o : Host.Outcome State Fault Refusal) : Prop :=
  ∃ t, o = .next t ∧ Moves l s t

theorem Answers.next {l : List Part} {s t : State} (h : Moves l s t) : Answers l s (.next t) := ⟨t, rfl, h⟩

theorem Answers.ite {l : List Part} {s : State} {c : Prop} [Decidable c] {a b : Host.Outcome State Fault Refusal}
    (ha : c → Answers l s a) (hb : ¬c → Answers l s b) : Answers l s (if c then a else b) := by
  split
  · exact ha ‹_›
  · exact hb ‹_›

end Sys2Proof.Machine
end

