-- ==== Sys2Proof/Laws/Blocks.lean ====
section
/-! SUPPORT. Little-endian fields and block trailers: what was written is what is read, and a restamped block passes its check; the length of a SHA-512. -/

namespace Sys2Proof.Machine

@[simp] theorem leBytes_length (n v : Nat) : (leBytes n v).length = n := by
  induction n generalizing v with
  | zero => rfl
  | succ n ih => simp [leBytes, ih]

theorem leNat_leBytes (n v : Nat) : leNat (leBytes n v) = v % 2 ^ (8 * n) := by
  induction n generalizing v with
  | zero => simp [leBytes, leNat, Nat.mod_one]
  | succ n ih =>
    rw [leBytes, leNat, ih, BitVec.toNat_ofNat]
    have h : 2 ^ (8 * (n + 1)) = 256 * 2 ^ (8 * n) := by rw [Nat.mul_add, Nat.pow_add, Nat.mul_comm]
    rw [h, Nat.mod_mul]

/-- A field that stands after `a` in a list of bytes reads as it was written. -/
theorem fieldLe_mid (a c : List Byte) (n v off : Nat) (ha : a.length = off) : fieldLe (a ++ (leBytes n v ++ c)) off n = v % 2 ^ (8 * n) := by
  subst ha
  rw [fieldLe, List.drop_left, List.take_left' (leBytes_length n v), leNat_leBytes]

/-- A number of zero bytes is 0. -/
theorem leNat_zeros (l : List Byte) (h : ∀ b ∈ l, b = 0) : leNat l = 0 := by
  induction l with
  | nil => rfl
  | cons b l ih =>
    rw [leNat, h b (List.mem_cons_self ..), ih fun c hc => h c (List.mem_cons_of_mem _ hc)]
    rfl

theorem sha512Round_length (v : List W64) (k : W64) (h : v.length = 8) : (sha512Round v k).length = 8 := by
  match v, h with
  | [_, _, _, _, _, _, _, _], _ => rfl

theorem sha512Block_length (h : List W64) (c : List Byte) (hh : h.length = 8) : (sha512Block h c).length = 8 := by
  have key : ∀ (ks : List W64) (v : List W64), v.length = 8 → (ks.foldl sha512Round v).length = 8 := by
    intro ks
    induction ks with
    | nil => intro v hv; exact hv
    | cons k ks ih => intro v hv; exact ih _ (sha512Round_length v k hv)
  simp only [sha512Block, List.length_zipWith, hh, key _ h hh, Nat.min_self]

/-- A SHA-512 is 64 bytes long. -/
@[simp] theorem sha512_length (m : List Byte) : (sha512 m).length = 64 := by
  have key : ∀ (is : List Nat) (h : List W64), h.length = 8 →
      (is.foldl (fun h i => sha512Block h (((sha512Pad m).drop (128 * i)).take 128)) h).length = 8 := by
    intro is
    induction is with
    | nil => intro h hh; exact hh
    | cons i is ih => intro h hh; exact ih _ (sha512Block_length h _ hh)
  have hl := key (List.range ((sha512Pad m).length / 128)) sha512H rfl
  unfold sha512
  dsimp only
  generalize List.foldl _ sha512H _ = h at hl ⊢
  match h, hl with
  | [_, _, _, _, _, _, _, _], _ => simp

/-- The fields of a trailer that stands after 9184 bytes, each at its own width. -/
theorem trailerOf_append (b : List Byte) (t : Trailer) (h : b.length = 9184) : trailerOf (b ++ trailerBytes t) =
    { crc := t.crc % 2 ^ 32, version := t.version % 2 ^ 48, tag := t.tag % 2 ^ 32, tid := t.tid % 2 ^ 32, block := t.block % 2 ^ 32,
      format := t.format % 2 ^ 16, flags := t.flags % 2 ^ 16, summary := t.summary % 2 ^ 48 } := by
  have e0 := fieldLe_mid b (leBytes 6 t.version ++ (leBytes 4 t.tag ++ (leBytes 4 t.tid ++ (leBytes 4 t.block ++ (leBytes 2 t.format ++ (leBytes 2 t.flags ++ leBytes 6 t.summary)))))) 4 t.crc 9184 h
  have e1 := fieldLe_mid (b ++ leBytes 4 t.crc) (leBytes 4 t.tag ++ (leBytes 4 t.tid ++ (leBytes 4 t.block ++ (leBytes 2 t.format ++ (leBytes 2 t.flags ++ leBytes 6 t.summary))))) 6 t.version 9188 (by simp [h])
  have e2 := fieldLe_mid (b ++ leBytes 4 t.crc ++ leBytes 6 t.version) (leBytes 4 t.tid ++ (leBytes 4 t.block ++ (leBytes 2 t.format ++ (leBytes 2 t.flags ++ leBytes 6 t.summary)))) 4 t.tag 9194 (by simp [h])
  have e3 := fieldLe_mid (b ++ leBytes 4 t.crc ++ leBytes 6 t.version ++ leBytes 4 t.tag) (leBytes 4 t.block ++ (leBytes 2 t.format ++ (leBytes 2 t.flags ++ leBytes 6 t.summary))) 4 t.tid 9198 (by simp [h])
  have e4 := fieldLe_mid (b ++ leBytes 4 t.crc ++ leBytes 6 t.version ++ leBytes 4 t.tag ++ leBytes 4 t.tid) (leBytes 2 t.format ++ (leBytes 2 t.flags ++ leBytes 6 t.summary)) 4 t.block 9202 (by simp [h])
  have e5 := fieldLe_mid (b ++ leBytes 4 t.crc ++ leBytes 6 t.version ++ leBytes 4 t.tag ++ leBytes 4 t.tid ++ leBytes 4 t.block) (leBytes 2 t.flags ++ leBytes 6 t.summary) 2 t.format 9206 (by simp [h])
  have e6 := fieldLe_mid (b ++ leBytes 4 t.crc ++ leBytes 6 t.version ++ leBytes 4 t.tag ++ leBytes 4 t.tid ++ leBytes 4 t.block ++ leBytes 2 t.format) (leBytes 6 t.summary) 2 t.flags 9208 (by simp [h])
  have e7 := fieldLe_mid (b ++ leBytes 4 t.crc ++ leBytes 6 t.version ++ leBytes 4 t.tag ++ leBytes 4 t.tid ++ leBytes 4 t.block ++ leBytes 2 t.format ++ leBytes 2 t.flags) [] 6 t.summary 9210 (by simp [h])
  simp only [List.append_assoc, List.append_nil] at e0 e1 e2 e3 e4 e5 e6 e7
  simp only [trailerOf, trailerBytes, List.append_assoc, e0, e1, e2, e3, e4, e5, e6, e7]

/-- The CRC of a block leaves out the bytes of its own field. -/
theorem blockCrc_append (b : List Byte) (t : Trailer) (c : Nat) (h : b.length = 9184) :
    blockCrc (b ++ trailerBytes { t with crc := c }) = blockCrc (b ++ trailerBytes t) := by
  have h1 : ∀ x : Trailer, (b ++ trailerBytes x).take 9184 = b := fun x => List.take_left' h
  have h2 : ∀ x : Trailer, (b ++ trailerBytes x).drop 9188 = leBytes 6 x.version ++ (leBytes 4 x.tag ++ (leBytes 4 x.tid ++ (leBytes 4 x.block ++
      (leBytes 2 x.format ++ (leBytes 2 x.flags ++ leBytes 6 x.summary))))) := by
    intro x
    have : b ++ trailerBytes x = (b ++ leBytes 4 x.crc) ++ (leBytes 6 x.version ++ (leBytes 4 x.tag ++ (leBytes 4 x.tid ++ (leBytes 4 x.block ++
      (leBytes 2 x.format ++ (leBytes 2 x.flags ++ leBytes 6 x.summary)))))) := by simp only [trailerBytes, List.append_assoc]
    rw [this]
    exact List.drop_left' (by simp [h])
  simp only [blockCrc, h1, h2]

/-- A block whose trailer was written anew, in a format that exists, passes its check. -/
theorem blockCheck_restamp (b : List Byte) (t : Trailer) (h : 9184 ≤ b.length) (hf : t.format % 16 ≤ 10) :
    blockCheck { tid := t.tid % 2 ^ 32, blk := t.block % 2 ^ 32, fmt := t.format % 16, layout := t.format / 16 % 16 } false (restamp b t) = 0 := by
  have hb : (b.take 9184).length = 9184 := by simp [h]
  have hc : ∀ l, crc32c l < 2 ^ 32 := fun l => BitVec.isLt _
  have ht := trailerOf_append (b.take 9184) { t with crc := blockCrc (b.take 9184 ++ trailerBytes t) } hb
  have hk := blockCrc_append (b.take 9184) t (blockCrc (b.take 9184 ++ trailerBytes t)) hb
  have hk0 := blockCrc_append (b.take 9184) t 0 hb
  have hm := Nat.mod_eq_of_lt (hc ((b.take 9184 ++ trailerBytes t).take 9184 ++ ((b.take 9184 ++ trailerBytes t).drop 9188).take 28))
  have f1 : t.format % 65536 % 16 = t.format % 16 := by omega
  have f2 : t.format % 65536 / 16 % 16 = t.format / 16 % 16 := by omega
  simp only [restamp]
  rw [hk0]
  unfold blockCheck
  dsimp only
  rw [ht, hk]
  dsimp only
  have hm' : blockCrc (b.take 9184 ++ trailerBytes t) % 2 ^ 32 = blockCrc (b.take 9184 ++ trailerBytes t) := hm
  have g1 : t.format % 2 ^ 16 % 16 = t.format % 16 := f1
  have g2 : t.format % 2 ^ 16 / 16 % 16 = t.format / 16 % 16 := f2
  rw [hm', g1, g2]
  simp [hf]

end Sys2Proof.Machine
end

