-- ==== Sys2Proof/Laws/Exec/Activate.lean ====
section
/-! SUPPORT. What the commands of Machine/Activate.lean touch. -/

namespace Sys2Proof.Machine

theorem execStepCommit_moves (s : State) : Answers [.regs, .latches, .hbm, .tiles, .mcs, .owlFifo, .cfg, .staged, .prevTag, .actAt, .obkts, .rbkts, .localRx, .doneV, .csFails, .failWins, .ports, .fwEvents, .sec] s (execStepCommit s) := by
  unfold execStepCommit
  try dsimp only
  repeat' (first
    | with_reducible apply Answers.next
    | ((with_reducible apply Part.Sub.mk); rfl)
    | with_reducible apply Moves.refl
    | with_reducible assumption
    | with_reducible apply stepCommit_moves
    | dsimp only)

theorem execSupersedePacket_moves (p : Fin 49) (s : State) : Answers [.regs, .latches, .hbm, .tiles, .mcs, .owlFifo, .cfg, .staged, .prevTag, .actAt, .obkts, .rbkts, .localRx, .passed, .doneV, .ports, .fwEvents, .sec] s (execSupersedePacket p s) := by
  unfold execSupersedePacket
  try dsimp only
  repeat' (first
    | with_reducible apply Answers.next
    | ((with_reducible apply Part.Sub.mk); rfl)
    | with_reducible apply Moves.refl
    | with_reducible assumption
    | with_reducible apply supersedeRx_moves
    | with_reducible apply onPacket_moves
    | intro _
    | dsimp only)

theorem execChecksumWindowClose_moves (t : Fin 64) (a : Fin 16) (s : State) : Answers [.regs, .hbm, .tiles, .mcs, .owlFifo, .taints, .suspects, .obkts, .localRx, .csFails, .failWins, .ports, .fwEvents] s (execChecksumWindowClose t a s) := by
  unfold execChecksumWindowClose
  try dsimp only
  repeat' (first
    | with_reducible apply Answers.next
    | with_reducible apply Answers.ite
    | ((with_reducible apply Part.Sub.mk); rfl)
    | with_reducible apply Moves.refl
    | with_reducible assumption
    | with_reducible apply windowFail_moves
    | with_reducible apply closeDue_moves
    | with_reducible apply Moves.ite
    | with_reducible apply Moves.foldl
    | with_reducible apply Moves.ite_fst
    | with_reducible apply Moves.ite_snd
    | with_reducible apply Moves.foldl_fst
    | with_reducible apply Moves.foldl_snd
    | intro _
    | split
    | dsimp only
    | with_reducible apply Moves.set_csFails)

end Sys2Proof.Machine
end

