-- ==== Sys2Proof/Laws/Exec/Badger.lean ====
section
/-! SUPPORT. What the commands of Machine/Badger.lean touch. -/

namespace Sys2Proof.Machine

theorem execBdgRequestEdge_moves (c : Fin 8) (asserted : Bool) (s : State) : Answers [.regs, .owlFifo, .bdg] s (execBdgRequestEdge c asserted s) := by
  unfold execBdgRequestEdge
  try dsimp only
  repeat' (first
    | with_reducible apply Answers.next
    | with_reducible apply Answers.ite
    | ((with_reducible apply Part.Sub.mk); rfl)
    | with_reducible apply Moves.refl
    | with_reducible assumption
    | with_reducible apply bdgLine_moves
    | with_reducible apply Moves.ite
    | intro _
    | split
    | dsimp only)

theorem execBdgMinIntExpire_moves (c : Fin 8) (s : State) : Answers [.regs, .bdg] s (execBdgMinIntExpire c s) := by
  unfold execBdgMinIntExpire
  try dsimp only
  repeat' (first
    | with_reducible apply Answers.next
    | with_reducible apply Answers.ite
    | ((with_reducible apply Part.Sub.mk); rfl)
    | with_reducible apply Moves.refl
    | with_reducible assumption
    | with_reducible apply bdgRelease_moves
    | with_reducible apply Moves.ite
    | intro _
    | split
    | dsimp only)

theorem execBdgEnable_moves (c : Fin 8) (hub : Bool) (w : Word) (s : State) : Answers [.regs, .latches, .owlFifo, .bdg] s (execBdgEnable c hub w s) := by
  unfold execBdgEnable
  try dsimp only
  repeat' (first
    | with_reducible apply Answers.next
    | with_reducible apply Answers.ite
    | ((with_reducible apply Part.Sub.mk); rfl)
    | with_reducible apply Moves.refl
    | with_reducible assumption
    | with_reducible apply bdgWrite_moves
    | with_reducible apply Moves.ite
    | intro _
    | split
    | dsimp only)

theorem execBdgDisable_moves (c : Fin 8) (hub : Bool) (s : State) : Answers [.regs, .latches, .owlFifo, .bdg] s (execBdgDisable c hub s) := by
  unfold execBdgDisable
  try dsimp only
  repeat' (first
    | with_reducible apply Answers.next
    | with_reducible apply Answers.ite
    | ((with_reducible apply Part.Sub.mk); rfl)
    | with_reducible apply Moves.refl
    | with_reducible assumption
    | with_reducible apply bdgWrite_moves
    | with_reducible apply Moves.ite
    | intro _
    | split
    | dsimp only)

theorem execBdgKick_moves (c : Fin 8) (hub : Bool) (s : State) : Answers [.regs, .latches, .owlFifo, .bdg] s (execBdgKick c hub s) := by
  unfold execBdgKick
  try dsimp only
  repeat' (first
    | with_reducible apply Answers.next
    | with_reducible apply Answers.ite
    | ((with_reducible apply Part.Sub.mk); rfl)
    | with_reducible apply Moves.refl
    | with_reducible assumption
    | with_reducible apply bdgWrite_moves
    | with_reducible apply Moves.ite
    | intro _
    | split
    | dsimp only)

theorem execBdgBurst_moves (ext : List Word) (bad : List Nat) (s : State) : Answers [.regs, .owlFifo, .out, .msixPend, .fwRaw, .tad, .bdg, .bdgMem, .bdgLast] s (execBdgBurst ext bad s) := by
  unfold execBdgBurst
  try dsimp only
  repeat' (first
    | with_reducible apply Answers.next
    | with_reducible apply Answers.ite
    | ((with_reducible apply Part.Sub.mk); rfl)
    | with_reducible apply Moves.refl
    | with_reducible assumption
    | with_reducible apply bdgBurst_moves
    | with_reducible apply bdgHold_moves
    | with_reducible apply Moves.ite
    | intro _
    | split
    | dsimp only)

end Sys2Proof.Machine
end

