-- ==== Sys2Proof/Laws/Exec/Bars.lean ====
section
/-! SUPPORT. What the commands of Machine/Bars.lean touch. -/

namespace Sys2Proof.Machine

theorem execReg64LowRead_moves (hub : Bool) (off len : Nat) (s : State) : Answers [.freeCtr, .regs, .latches, .hostResp, .pwr] s (execReg64LowRead hub off len s) := by
  unfold execReg64LowRead
  try dsimp only
  repeat' (first
    | with_reducible apply Answers.next
    | with_reducible apply Answers.ite
    | ((with_reducible apply Part.Sub.mk); rfl)
    | with_reducible apply Moves.refl
    | with_reducible assumption
    | with_reducible apply barReadBytes_moves
    | with_reducible apply Moves.ite
    | with_reducible apply Moves.ite_fst
    | with_reducible apply Moves.ite_snd
    | intro _
    | split
    | dsimp only)

theorem execReg64HighRead_moves (hub : Bool) (off len : Nat) (s : State) : Answers [.freeCtr, .regs, .latches, .hostResp, .pwr] s (execReg64HighRead hub off len s) := by
  unfold execReg64HighRead
  try dsimp only
  repeat' (first
    | with_reducible apply Answers.next
    | with_reducible apply Answers.ite
    | ((with_reducible apply Part.Sub.mk); rfl)
    | with_reducible apply Moves.refl
    | with_reducible assumption
    | with_reducible apply barReadBytes_moves
    | with_reducible apply Moves.ite
    | with_reducible apply Moves.ite_fst
    | with_reducible apply Moves.ite_snd
    | intro _
    | split
    | dsimp only)

theorem execRegisterWrite_moves (hub : Bool) (off len : Nat) (v : Word) (s : State) : Answers [.now, .regs, .latches, .seedLow, .hbm, .tiles, .mcs, .launchAt, .sigs, .lastGrant, .owlFifo, .taints, .taintFrom, .suspects, .cfg, .staged, .prevTag, .actAt, .hubAt, .obkts, .rbkts, .accSent, .localRx, .passed, .doneV, .csFails, .failWins, .ledger, .ports, .fwEvents, .out, .mbx, .mbxPosted, .mbxRun, .evqs, .msix, .msixPend, .fwRecs, .fwNum, .fwNet, .owlNet, .fwRaw, .mgmtDown, .flash, .sec, .cpy, .mon, .beatAt, .stall, .tad, .bdg, .bdgMem, .bdgLast, .den, .scanned, .retiring, .pwr, .hubUp, .d3hot] s (execRegisterWrite hub off len v s) := by
  unfold execRegisterWrite
  try dsimp only
  repeat' (first
    | with_reducible apply Answers.next
    | with_reducible apply Answers.ite
    | ((with_reducible apply Part.Sub.mk); rfl)
    | with_reducible apply Moves.refl
    | with_reducible assumption
    | with_reducible apply barWrite_moves
    | with_reducible apply Moves.ite
    | intro _
    | split
    | dsimp only)

end Sys2Proof.Machine
end

