-- ==== Sys2Proof/Laws/Exec/Bucket.lean ====
section
/-! SUPPORT. What the commands of Machine/Bucket.lean touch. -/

namespace Sys2Proof.Machine

theorem execAccumAdd_moves (m : Fin 24) (res : List (Nat × Nat)) (bad : Fin 4) (s : State) : Answers [.regs, .hbm, .mcs, .owlFifo, .taintFrom, .fwEvents] s (execAccumAdd m res bad s) := by
  unfold execAccumAdd
  try dsimp only
  repeat' (first
    | with_reducible apply Answers.next
    | ((with_reducible apply Part.Sub.mk); rfl)
    | with_reducible apply Moves.refl
    | with_reducible assumption
    | with_reducible apply accumAdd_moves
    | dsimp only)

end Sys2Proof.Machine
end

