-- ==== Sys2Proof/Laws/Exec/CalSums.lean ====
section
/-! SUPPORT. What the commands of Machine/CalSums.lean touch. -/

namespace Sys2Proof.Machine

theorem execSubWindowClose_moves (t : Fin 64) (s : State) : Answers [.regs, .tiles] s (execSubWindowClose t s) := by
  unfold execSubWindowClose
  try dsimp only
  repeat' (first
    | with_reducible apply Answers.next
    | with_reducible apply Answers.ite
    | ((with_reducible apply Part.Sub.mk); rfl)
    | with_reducible apply Moves.refl
    | with_reducible assumption
    | with_reducible apply calClose_moves
    | with_reducible apply Moves.ite
    | intro _
    | split
    | dsimp only)

end Sys2Proof.Machine
end

