-- ==== Sys2Proof/Laws/Exec/Calib.lean ====
section
/-! SUPPORT. What the commands of Machine/Calib.lean touch. -/

namespace Sys2Proof.Machine

theorem execCalStart_moves (t : Fin 64) (s : State) : Answers [.regs, .tiles] s (execCalStart t s) := by
  unfold execCalStart
  try dsimp only
  repeat' (first
    | with_reducible apply Answers.next
    | with_reducible apply Answers.ite
    | ((with_reducible apply Part.Sub.mk); rfl)
    | with_reducible apply Moves.refl
    | with_reducible assumption
    | with_reducible apply calTrigger_moves
    | with_reducible apply Moves.ite
    | intro _
    | split
    | dsimp only)

theorem execCalAgeTrigger_moves (t : Fin 64) (s : State) : Answers [.regs, .tiles] s (execCalAgeTrigger t s) := by
  unfold execCalAgeTrigger
  try dsimp only
  repeat' (first
    | with_reducible apply Answers.next
    | with_reducible apply Answers.ite
    | ((with_reducible apply Part.Sub.mk); rfl)
    | with_reducible apply Moves.refl
    | with_reducible assumption
    | with_reducible apply calTrigger_moves
    | with_reducible apply Moves.ite
    | intro _
    | split
    | dsimp only)

theorem execCalCommit_moves (t : Fin 64) (s : State) : Answers [.tiles] s (execCalCommit t s) := by
  unfold execCalCommit
  try dsimp only
  repeat' (first
    | with_reducible apply Answers.next
    | with_reducible apply Answers.ite
    | ((with_reducible apply Part.Sub.mk); rfl)
    | with_reducible apply Moves.refl
    | with_reducible assumption
    | with_reducible apply calCommit_moves
    | with_reducible apply Moves.ite
    | intro _
    | split
    | dsimp only)

theorem execCalAbort_moves (t : Fin 64) (s : State) : Answers [.regs, .tiles] s (execCalAbort t s) := by
  unfold execCalAbort
  try dsimp only
  repeat' (first
    | with_reducible apply Answers.next
    | with_reducible apply Answers.ite
    | ((with_reducible apply Part.Sub.mk); rfl)
    | with_reducible apply Moves.refl
    | with_reducible assumption
    | with_reducible apply calAbort_moves
    | with_reducible apply Moves.ite
    | intro _
    | split
    | dsimp only)

theorem execCalProduct_moves (t : Fin 64) (s : State) : Answers [.regs, .tiles] s (execCalProduct t s) := by
  unfold execCalProduct
  try dsimp only
  repeat' (first
    | with_reducible apply Answers.next
    | ((with_reducible apply Part.Sub.mk); rfl)
    | with_reducible apply Moves.refl
    | with_reducible assumption
    | with_reducible apply calProduct_moves
    | dsimp only)

theorem execMeasurementEnd_moves (t : Fin 64) (s : State) : Answers [.freeCtr, .regs, .tiles, .owlFifo, .suspects, .staged] s (execMeasurementEnd t s) := by
  unfold execMeasurementEnd
  try dsimp only
  repeat' (first
    | with_reducible apply Answers.next
    | ((with_reducible apply Part.Sub.mk); rfl)
    | with_reducible apply Moves.refl
    | with_reducible assumption
    | with_reducible apply measurementEnd_moves
    | dsimp only)

theorem execCalRemap_moves (t : Fin 64) (a : Fin 16) (k : Fin 8) (valid : Bool) (col : Fin 512) (s : State) : Answers [.regs, .tiles, .owlFifo] s (execCalRemap t a k valid col s) := by
  unfold execCalRemap
  try dsimp only
  repeat' (first
    | with_reducible apply Answers.next
    | with_reducible apply Answers.ite
    | ((with_reducible apply Part.Sub.mk); rfl)
    | with_reducible apply Moves.refl
    | with_reducible assumption
    | with_reducible apply setRemap_moves
    | with_reducible apply Moves.ite
    | intro _
    | split
    | dsimp only)

theorem execRemapRfsh_moves (t : Fin 64) (a : Fin 16) (s : State) : Answers [.regs, .tiles] s (execRemapRfsh t a s) := by
  unfold execRemapRfsh
  try dsimp only
  repeat' (first
    | with_reducible apply Answers.next
    | with_reducible apply Answers.ite
    | ((with_reducible apply Part.Sub.mk); rfl)
    | with_reducible apply Moves.refl
    | with_reducible assumption
    | with_reducible apply remapRfsh_moves
    | with_reducible apply Moves.ite
    | intro _
    | split
    | dsimp only)

theorem execTrimCommitApply_moves (t : Fin 64) (s : State) : Answers [.regs, .tiles, .owlFifo, .suspects] s (execTrimCommitApply t s) := by
  unfold execTrimCommitApply
  try dsimp only
  repeat' (first
    | with_reducible apply Answers.next
    | ((with_reducible apply Part.Sub.mk); rfl)
    | with_reducible apply Moves.refl
    | with_reducible assumption
    | with_reducible apply trimCommitApply_moves
    | dsimp only)

theorem execTrimFlashWriteback_moves (s : State) : Answers [.flashTrims, .trimWb, .tiles] s (execTrimFlashWriteback s) := by
  unfold execTrimFlashWriteback
  try dsimp only
  repeat' (first
    | with_reducible apply Answers.next
    | ((with_reducible apply Part.Sub.mk); rfl)
    | with_reducible apply Moves.refl
    | with_reducible assumption
    | with_reducible apply trimFlashWriteback_moves
    | dsimp only)

theorem execHandoverComplete_moves (t : Fin 64) (b : Fin 48) (p : Fin 2) (s : State) : Answers [.regs, .tiles] s (execHandoverComplete t b p s) := by
  unfold execHandoverComplete
  try dsimp only
  repeat' (first
    | with_reducible apply Answers.next
    | ((with_reducible apply Part.Sub.mk); rfl)
    | with_reducible apply Moves.refl
    | with_reducible assumption
    | with_reducible apply handoverComplete_moves
    | dsimp only)

end Sys2Proof.Machine
end

