-- ==== Sys2Proof/Laws/Exec/Close.lean ====
section
/-! SUPPORT. What the commands of Machine/Close.lean touch. -/

namespace Sys2Proof.Machine

theorem execBucketDeadline_moves (bucket : Nat) (s : State) : Answers [.regs, .hbm, .mcs, .owlFifo, .obkts, .fwEvents] s (execBucketDeadline bucket s) := by
  unfold execBucketDeadline
  try dsimp only
  repeat' (first
    | with_reducible apply Answers.next
    | ((with_reducible apply Part.Sub.mk); rfl)
    | with_reducible apply Moves.refl
    | with_reducible assumption
    | with_reducible apply judgeStep_moves
    | dsimp only)

theorem execBucketRetry_moves (bucket : Nat) (s : State) : Answers [.regs, .hbm, .mcs, .owlFifo, .obkts, .fwEvents] s (execBucketRetry bucket s) := by
  unfold execBucketRetry
  try dsimp only
  repeat' (first
    | with_reducible apply Answers.next
    | with_reducible apply Answers.ite
    | ((with_reducible apply Part.Sub.mk); rfl)
    | with_reducible apply Moves.refl
    | with_reducible assumption
    | with_reducible apply requeue_moves
    | with_reducible apply Moves.ite
    | intro _
    | split
    | dsimp only)

end Sys2Proof.Machine
end

