-- ==== Sys2Proof/Laws/Exec/Complete.lean ====
section
/-! SUPPORT. What the commands of Machine/Complete.lean touch. -/

namespace Sys2Proof.Machine

theorem execCommandComplete_moves (t : Fin 64) (unit : Fin 7) (res : List (Nat × Nat)) (bad : List Nat) (s : State) : Answers [.freeCtr, .regs, .hbm, .tiles, .mcs, .sigs, .owlFifo, .taints, .suspects, .accSent, .localRx, .ports, .fwEvents] s (execCommandComplete t unit res bad s) := by
  unfold execCommandComplete
  try dsimp only
  repeat' (first
    | with_reducible apply Answers.next
    | ((with_reducible apply Part.Sub.mk); rfl)
    | with_reducible apply Moves.refl
    | with_reducible assumption
    | with_reducible apply commandComplete_moves
    | dsimp only)

end Sys2Proof.Machine
end

