-- ==== Sys2Proof/Laws/Exec/Copy.lean ====
section
/-! SUPPORT. What the commands of Machine/Copy.lean touch. -/

namespace Sys2Proof.Machine

theorem execBar2Access_moves (size : Fin 6) (off len : Nat) (data : Option (List Byte)) (s : State) : Answers [.regs, .hbm, .mcs, .owlFifo, .hostResp] s (execBar2Access size off len data s) := by
  unfold execBar2Access
  try dsimp only
  repeat' (first
    | with_reducible apply Answers.next
    | with_reducible apply Answers.ite
    | ((with_reducible apply Part.Sub.mk); rfl)
    | with_reducible apply Moves.refl
    | with_reducible assumption
    | with_reducible apply denyReserve_moves
    | with_reducible apply memWrite_moves
    | with_reducible apply memRead_moves
    | (with_reducible apply MovesP.mk; with_reducible apply memRead_moves)
    | with_reducible apply raiseBit_moves
    | with_reducible apply count_moves
    | with_reducible apply Moves.ite
    | with_reducible apply Moves.ite_fst
    | with_reducible apply Moves.ite_snd
    | intro _
    | split
    | dsimp only
    | with_reducible apply Moves.set_hostResp)

theorem execCopyDone_moves (e : Fin 8) (data : List Byte) (err pois : Option Nat) (s : State) : Answers [.regs, .hbm, .tiles, .mcs, .owlFifo, .fwEvents, .out, .msixPend, .cpy] s (execCopyDone e data err pois s) := by
  unfold execCopyDone
  try dsimp only
  repeat' (first
    | with_reducible apply Answers.next
    | with_reducible apply Answers.ite
    | ((with_reducible apply Part.Sub.mk); rfl)
    | with_reducible apply Moves.refl
    | with_reducible assumption
    | with_reducible apply err_moves
    | with_reducible apply cpyRun_moves
    | (with_reducible apply MovesQ.mk; with_reducible apply cpyRun_moves)
    | with_reducible apply cpyEnd_moves
    | with_reducible apply Moves.ite
    | with_reducible apply Moves.ite_fst
    | with_reducible apply Moves.ite_snd
    | intro _
    | split
    | dsimp only)

theorem execHifCpyGo_moves (e : Fin 8) (hub : Bool) (w : Word) (s : State) : Answers [.regs, .latches, .hbm, .tiles, .mcs, .owlFifo, .fwEvents, .out, .msixPend, .cpy] s (execHifCpyGo e hub w s) := by
  unfold execHifCpyGo
  try dsimp only
  repeat' (first
    | with_reducible apply Answers.next
    | with_reducible apply Answers.ite
    | ((with_reducible apply Part.Sub.mk); rfl)
    | with_reducible apply Moves.refl
    | with_reducible assumption
    | with_reducible apply cpyCtrlWrite_moves
    | with_reducible apply Moves.ite
    | intro _
    | split
    | dsimp only)

theorem execHifCpyAbort_moves (e : Fin 8) (hub : Bool) (units : Nat) (data : List Byte) (s : State) : Answers [.regs, .latches, .hbm, .tiles, .mcs, .owlFifo, .fwEvents, .out, .msixPend, .cpy] s (execHifCpyAbort e hub units data s) := by
  unfold execHifCpyAbort
  try dsimp only
  repeat' (first
    | with_reducible apply Answers.next
    | with_reducible apply Answers.ite
    | ((with_reducible apply Part.Sub.mk); rfl)
    | with_reducible apply Moves.refl
    | with_reducible assumption
    | with_reducible apply cpyCtrlWrite_moves
    | with_reducible apply Moves.ite
    | intro _
    | split
    | dsimp only)

theorem execPerst_moves (moved : List (Nat × List Byte)) (width : Nat) (flit : Bool) (speed : Fin 8) (s : State) : Answers [.regs, .hbm, .tiles, .mcs, .owlFifo, .fwEvents, .out, .evqs, .msix, .msixPend, .cpy, .pwr, .d3hot] s (execPerst moved width flit speed s) := by
  unfold execPerst
  try dsimp only
  repeat' (first
    | with_reducible apply Answers.next
    | with_reducible apply Answers.ite
    | ((with_reducible apply Part.Sub.mk); rfl)
    | with_reducible apply Moves.refl
    | with_reducible assumption
    | with_reducible apply cpyStop_moves
    | with_reducible apply linkReport_moves
    | with_reducible apply modEvq_moves
    | with_reducible apply setBit_moves
    | with_reducible apply setFld_moves
    | with_reducible apply Moves.ite
    | with_reducible apply Moves.foldl
    | with_reducible apply Moves.ite_fst
    | with_reducible apply Moves.ite_snd
    | with_reducible apply Moves.foldl_fst
    | with_reducible apply Moves.foldl_snd
    | intro _
    | with_reducible apply swf_nil
    | with_reducible apply swf_foldl
    | split
    | dsimp only
    | with_reducible apply Moves.set_msix_d3hot
    | with_reducible apply Moves.set_msixPend
    | with_reducible apply Moves.set_pwr)

theorem execD3hotChange_moves (on : Bool) (s : State) : Answers [.d3hot] s (execD3hotChange on s) := by
  unfold execD3hotChange
  try dsimp only
  repeat' (first
    | with_reducible apply Answers.next
    | with_reducible apply Answers.ite
    | ((with_reducible apply Part.Sub.mk); rfl)
    | with_reducible apply Moves.refl
    | with_reducible assumption
    | with_reducible apply Moves.ite
    | intro _
    | split
    | dsimp only
    | with_reducible apply Moves.set_d3hot)

end Sys2Proof.Machine
end

