-- ==== Sys2Proof/Laws/Exec/Dme.lean ====
section
/-! SUPPORT. What the commands of Machine/Dme.lean touch. -/

namespace Sys2Proof.Machine

theorem execFlush_moves (t : Fin 64) (o : FlushOp) (s : State) : Answers [.regs, .tiles, .owlFifo, .fwEvents] s (execFlush t o s) := by
  unfold execFlush
  try dsimp only
  repeat' (first
    | with_reducible apply Answers.next
    | ((with_reducible apply Part.Sub.mk); rfl)
    | with_reducible apply Moves.refl
    | with_reducible assumption
    | with_reducible apply enqueue_moves
    | dsimp only)

theorem execDmeop_moves (t : Fin 64) (o : DmeOp) (s : State) : Answers [.regs, .tiles, .owlFifo, .fwEvents] s (execDmeop t o s) := by
  unfold execDmeop
  try dsimp only
  repeat' (first
    | with_reducible apply Answers.next
    | ((with_reducible apply Part.Sub.mk); rfl)
    | with_reducible apply Moves.refl
    | with_reducible assumption
    | with_reducible apply issueWith_moves
    | with_reducible apply feedJoin_moves
    | with_reducible apply popIssue_moves
    | (with_reducible apply MovesQ.h; with_reducible apply MovesQ.mk; with_reducible apply popIssue_moves)
    | with_reducible apply Moves.ite
    | intro _
    | split
    | dsimp only)

theorem execWgclr_moves (t : Fin 64) (o : WgclrOp) (s : State) : Answers [.regs, .tiles, .owlFifo, .fwEvents] s (execWgclr t o s) := by
  unfold execWgclr
  try dsimp only
  repeat' (first
    | with_reducible apply Answers.next
    | ((with_reducible apply Part.Sub.mk); rfl)
    | with_reducible apply Moves.refl
    | with_reducible assumption
    | with_reducible apply enqueue_moves
    | dsimp only)

end Sys2Proof.Machine
end

