-- ==== Sys2Proof/Laws/Exec/Escalate.lean ====
section
/-! SUPPORT. What the commands of Machine/Escalate.lean touch. -/

namespace Sys2Proof.Machine

theorem execGuardbandEscalate_moves (n : Fin 68) (s : State) : Answers [.freeCtr, .regs, .tiles, .owlFifo, .taintFrom, .suspects, .fwEvents, .den, .retiring] s (execGuardbandEscalate n s) := by
  unfold execGuardbandEscalate
  try dsimp only
  repeat' (first
    | with_reducible apply Answers.next
    | ((with_reducible apply Part.Sub.mk); rfl)
    | with_reducible apply Moves.refl
    | with_reducible assumption
    | with_reducible apply escalate_moves
    | dsimp only)

theorem execOwlLevelWrite_moves (n : Fin 68) (v : Fin 8) (s : State) : Answers [.regs] s (execOwlLevelWrite n v s) := by
  unfold execOwlLevelWrite
  try dsimp only
  repeat' (first
    | with_reducible apply Answers.next
    | with_reducible apply Answers.ite
    | ((with_reducible apply Part.Sub.mk); rfl)
    | with_reducible apply Moves.refl
    | with_reducible assumption
    | with_reducible apply levelWrite_moves
    | with_reducible apply Moves.ite
    | intro _
    | split
    | dsimp only)

theorem execDenScanStart_moves (s : State) : Answers [.regs, .den] s (execDenScanStart s) := by
  unfold execDenScanStart
  try dsimp only
  repeat' (first
    | with_reducible apply Answers.next
    | with_reducible apply Answers.ite
    | ((with_reducible apply Part.Sub.mk); rfl)
    | with_reducible apply Moves.refl
    | with_reducible assumption
    | with_reducible apply setFld_moves
    | with_reducible apply Moves.ite
    | intro _
    | split
    | dsimp only
    | with_reducible apply Moves.set_den)

theorem execScanDone_moves (pass : Bool) (s : State) : Answers [.regs, .tiles, .scanned] s (execScanDone pass s) := by
  unfold execScanDone
  try dsimp only
  repeat' (first
    | with_reducible apply Answers.next
    | with_reducible apply Answers.ite
    | ((with_reducible apply Part.Sub.mk); rfl)
    | with_reducible apply Moves.refl
    | with_reducible assumption
    | with_reducible apply setPtile_moves
    | with_reducible apply setPlaneState_moves
    | with_reducible apply modArr_moves
    | with_reducible apply count_moves
    | with_reducible apply setFld_moves
    | with_reducible apply Moves.ite
    | with_reducible apply Moves.foldl
    | intro _
    | split
    | dsimp only
    | with_reducible apply Moves.set_scanned)

end Sys2Proof.Machine
end

