-- ==== Sys2Proof/Laws/Exec/Events.lean ====
section
/-! SUPPORT. What the commands of Machine/Events.lean touch. -/

namespace Sys2Proof.Machine

theorem execOverflow_moves (q : Fin 16) (s : State) : Answers [.regs, .out, .evqs, .msixPend] s (execOverflow q s) := by
  unfold execOverflow
  try dsimp only
  repeat' (first
    | with_reducible apply Answers.next
    | ((with_reducible apply Part.Sub.mk); rfl)
    | with_reducible apply Moves.refl
    | with_reducible assumption
    | with_reducible apply evqOverflow_moves
    | dsimp only)

theorem execEvqModerationTimeout_moves (q : Fin 16) (s : State) : Answers [.out, .evqs, .msixPend] s (execEvqModerationTimeout q s) := by
  unfold execEvqModerationTimeout
  try dsimp only
  repeat' (first
    | with_reducible apply Answers.next
    | with_reducible apply Answers.ite
    | ((with_reducible apply Part.Sub.mk); rfl)
    | with_reducible apply Moves.refl
    | with_reducible assumption
    | with_reducible apply modEvq_moves
    | with_reducible apply raiseVec_moves
    | with_reducible apply Moves.ite
    | intro _
    | split
    | dsimp only)

theorem execEvqCfgEn_moves (q : Fin 16) (w : Word) (s : State) : Answers [.regs, .latches, .out, .evqs, .msixPend] s (execEvqCfgEn q w s) := by
  unfold execEvqCfgEn
  try dsimp only
  repeat' (first
    | with_reducible apply Answers.next
    | with_reducible apply Answers.ite
    | ((with_reducible apply Part.Sub.mk); rfl)
    | with_reducible apply Moves.refl
    | with_reducible assumption
    | with_reducible apply evqCfgWrite_moves
    | with_reducible apply Moves.ite
    | intro _
    | split
    | dsimp only)

theorem execEvqHead_moves (q : Fin 16) (v : BitVec 20) (s : State) : Answers [.regs, .owlFifo, .out, .evqs, .msixPend] s (execEvqHead q v s) := by
  unfold execEvqHead
  try dsimp only
  repeat' (first
    | with_reducible apply Answers.next
    | with_reducible apply Answers.ite
    | ((with_reducible apply Part.Sub.mk); rfl)
    | with_reducible apply Moves.refl
    | with_reducible assumption
    | with_reducible apply evqHeadWrite_moves
    | with_reducible apply Moves.ite
    | intro _
    | split
    | dsimp only)

theorem execOwlDatagramSend_moves (s : State) : Answers [.regs, .owlFifo, .fwEvents, .out, .owlNet] s (execOwlDatagramSend s) := by
  unfold execOwlDatagramSend
  try dsimp only
  repeat' (first
    | with_reducible apply Answers.next
    | ((with_reducible apply Part.Sub.mk); rfl)
    | with_reducible apply Moves.refl
    | with_reducible assumption
    | with_reducible apply owlSend_moves
    | dsimp only)

theorem execFirmwareRecordCompose_moves (raw : Bool) (s : State) : Answers [.freeCtr, .regs, .owlFifo, .fwEvents, .out, .evqs, .msixPend, .fwRecs, .fwNum, .fwNet, .fwRaw, .bdg] s (execFirmwareRecordCompose raw s) := by
  unfold execFirmwareRecordCompose
  try dsimp only
  repeat' (first
    | with_reducible apply Answers.next
    | ((with_reducible apply Part.Sub.mk); rfl)
    | with_reducible apply Moves.refl
    | with_reducible assumption
    | with_reducible apply fwCompose_moves
    | dsimp only)

end Sys2Proof.Machine
end

