-- ==== Sys2Proof/Laws/Exec/Exchange.lean ====
section
/-! SUPPORT. What the commands of Machine/Exchange.lean touch. -/

namespace Sys2Proof.Machine

theorem execAccum_moves (p : Fin 49) (s : State) : Answers [.regs, .hbm, .mcs, .owlFifo, .obkts, .localRx, .ports, .fwEvents] s (execAccum p s) := by
  unfold execAccum
  try dsimp only
  repeat' (first
    | with_reducible apply Answers.next
    | ((with_reducible apply Part.Sub.mk); rfl)
    | with_reducible apply Moves.refl
    | with_reducible assumption
    | with_reducible apply onPacket_moves
    | with_reducible apply contribute_moves
    | intro _
    | dsimp only)

theorem execClose_moves (p : Fin 49) (s : State) : Answers [.regs, .hbm, .mcs, .owlFifo, .obkts, .localRx, .ports, .fwEvents] s (execClose p s) := by
  unfold execClose
  try dsimp only
  repeat' (first
    | with_reducible apply Answers.next
    | ((with_reducible apply Part.Sub.mk); rfl)
    | with_reducible apply Moves.refl
    | with_reducible assumption
    | with_reducible apply onPacket_moves
    | with_reducible apply contribute_moves
    | intro _
    | dsimp only)

theorem execPublish_moves (bucket : Nat) (s : State) : Answers [.regs, .hbm, .mcs, .owlFifo, .obkts, .localRx, .ports, .fwEvents] s (execPublish bucket s) := by
  unfold execPublish
  try dsimp only
  repeat' (first
    | with_reducible apply Answers.next
    | ((with_reducible apply Part.Sub.mk); rfl)
    | with_reducible apply Moves.refl
    | with_reducible assumption
    | with_reducible apply publish_moves
    | dsimp only)

theorem execBcast_moves (p : Fin 49) (s : State) : Answers [.regs, .hbm, .mcs, .owlFifo, .rbkts, .localRx, .ports] s (execBcast p s) := by
  unfold execBcast
  try dsimp only
  repeat' (first
    | with_reducible apply Answers.next
    | ((with_reducible apply Part.Sub.mk); rfl)
    | with_reducible apply Moves.refl
    | with_reducible assumption
    | with_reducible apply receiveBlock_moves
    | with_reducible apply onPacket_moves
    | intro _
    | dsimp only)

theorem execResendData_moves (p : Fin 49) (s : State) : Answers [.regs, .hbm, .mcs, .owlFifo, .rbkts, .localRx, .ports, .fwEvents] s (execResendData p s) := by
  unfold execResendData
  try dsimp only
  repeat' (first
    | with_reducible apply Answers.next
    | with_reducible apply Answers.ite
    | ((with_reducible apply Part.Sub.mk); rfl)
    | with_reducible apply Moves.refl
    | with_reducible assumption
    | with_reducible apply resendFail_moves
    | with_reducible apply receiveBlock_moves
    | with_reducible apply onPacket_moves
    | with_reducible apply Moves.ite
    | intro _
    | split
    | dsimp only)

theorem execResend_moves (p : Fin 49) (s : State) : Answers [.regs, .owlFifo, .localRx, .ports] s (execResend p s) := by
  unfold execResend
  try dsimp only
  repeat' (first
    | with_reducible apply Answers.next
    | ((with_reducible apply Part.Sub.mk); rfl)
    | with_reducible apply Moves.refl
    | with_reducible assumption
    | with_reducible apply serveResend_moves
    | with_reducible apply onPacket_moves
    | intro _
    | dsimp only)

theorem execResendTimeout_moves (bucket ver : Nat) (s : State) : Answers [.regs, .owlFifo, .rbkts, .localRx, .ports, .fwEvents] s (execResendTimeout bucket ver s) := by
  unfold execResendTimeout
  try dsimp only
  repeat' (first
    | with_reducible apply Answers.next
    | ((with_reducible apply Part.Sub.mk); rfl)
    | with_reducible apply Moves.refl
    | with_reducible assumption
    | with_reducible apply resendTimeout_moves
    | dsimp only)

theorem execCommitNotice_moves (p : Fin 49) (s : State) : Answers [.regs, .owlFifo, .rbkts, .localRx, .ports] s (execCommitNotice p s) := by
  unfold execCommitNotice
  try dsimp only
  repeat' (first
    | with_reducible apply Answers.next
    | with_reducible apply Answers.ite
    | ((with_reducible apply Part.Sub.mk); rfl)
    | with_reducible apply Moves.refl
    | with_reducible assumption
    | with_reducible apply confirm_moves
    | with_reducible apply modR_moves
    | with_reducible apply onPacket_moves
    | with_reducible apply Moves.ite
    | intro _
    | split
    | dsimp only)

theorem execCommitNoticeSend_moves (bucket : Nat) (s : State) : Answers [.regs, .obkts, .localRx, .ports] s (execCommitNoticeSend bucket s) := by
  unfold execCommitNoticeSend
  try dsimp only
  repeat' (first
    | with_reducible apply Answers.next
    | ((with_reducible apply Part.Sub.mk); rfl)
    | with_reducible apply Moves.refl
    | with_reducible assumption
    | with_reducible apply commitNoticeSend_moves
    | dsimp only)

end Sys2Proof.Machine
end

