-- ==== Sys2Proof/Laws/Exec/Fire.lean ====
section
/-! SUPPORT. What the commands of Machine/Fire.lean touch. -/

namespace Sys2Proof.Machine

theorem execSwap_moves (t : Fin 64) (mask : Nat) (s : State) : Answers [.regs, .tiles, .owlFifo, .fwEvents] s (execSwap t mask s) := by
  unfold execSwap
  try dsimp only
  repeat' (first
    | with_reducible apply Answers.next
    | with_reducible apply Answers.ite
    | ((with_reducible apply Part.Sub.mk); rfl)
    | with_reducible apply Moves.refl
    | with_reducible assumption
    | with_reducible apply trySwap_moves
    | with_reducible apply finIfDone_moves
    | with_reducible apply countLate_moves
    | with_reducible apply ranCmd_moves
    | with_reducible apply issueWith_moves
    | with_reducible apply popIssue_moves
    | (with_reducible apply MovesQ.mk; with_reducible apply popIssue_moves)
    | with_reducible apply haltSeq_moves
    | with_reducible apply modArr_moves
    | with_reducible apply Moves.ite
    | with_reducible apply Moves.foldl
    | with_reducible apply Moves.ite_fst
    | with_reducible apply Moves.ite_snd
    | with_reducible apply Moves.foldl_fst
    | with_reducible apply Moves.foldl_snd
    | intro _
    | split
    | dsimp only)

theorem execSwapExecute_moves (t : Fin 64) (a : Fin 16) (s : State) : Answers [.regs, .tiles, .owlFifo, .fwEvents] s (execSwapExecute t a s) := by
  unfold execSwapExecute
  try dsimp only
  repeat' (first
    | with_reducible apply Answers.next
    | ((with_reducible apply Part.Sub.mk); rfl)
    | with_reducible apply Moves.refl
    | with_reducible assumption
    | with_reducible apply trySwap_moves
    | dsimp only)

theorem execFire_moves (t : Fin 64) (o : FireOp) (s : State) : Answers [.regs, .tiles, .owlFifo, .fwEvents] s (execFire t o s) := by
  unfold execFire
  try dsimp only
  repeat' (first
    | with_reducible apply Answers.next
    | ((with_reducible apply Part.Sub.mk); rfl)
    | with_reducible apply Moves.refl
    | with_reducible assumption
    | with_reducible apply fireCommon_moves
    | dsimp only)

theorem execTfire_moves (t : Fin 64) (o : FireOp) (s : State) : Answers [.regs, .tiles, .owlFifo, .fwEvents] s (execTfire t o s) := by
  unfold execTfire
  try dsimp only
  repeat' (first
    | with_reducible apply Answers.next
    | ((with_reducible apply Part.Sub.mk); rfl)
    | with_reducible apply Moves.refl
    | with_reducible assumption
    | with_reducible apply fireCommon_moves
    | dsimp only)

theorem execLaunchGrant_moves (s : State) : Answers [.regs, .tiles, .lastGrant, .grantRot, .owlFifo] s (execLaunchGrant s) := by
  unfold execLaunchGrant
  try dsimp only
  repeat' (first
    | with_reducible apply Answers.next
    | with_reducible apply Answers.ite
    | ((with_reducible apply Part.Sub.mk); rfl)
    | with_reducible apply Moves.refl
    | with_reducible assumption
    | with_reducible apply grantAll_moves
    | with_reducible apply Moves.ite
    | intro _
    | split
    | dsimp only
    | with_reducible apply Moves.set_lastGrant_grantRot)

theorem execPassConvert_moves (t : Fin 64) (mask : Nat) (s : State) : Answers [.freeCtr, .regs, .tiles, .owlFifo, .taints, .suspects, .csFails, .failWins] s (execPassConvert t mask s) := by
  unfold execPassConvert
  try dsimp only
  repeat' (first
    | with_reducible apply Answers.next
    | with_reducible apply Answers.ite
    | ((with_reducible apply Part.Sub.mk); rfl)
    | with_reducible apply Moves.refl
    | with_reducible assumption
    | with_reducible apply firingEnd_moves
    | with_reducible apply convertPass_moves
    | (with_reducible apply MovesQ.mk; with_reducible apply convertPass_moves)
    | with_reducible apply blockCount_moves
    | with_reducible apply setTile_moves
    | with_reducible apply countAll_moves
    | with_reducible apply Moves.ite
    | with_reducible apply Moves.foldl
    | with_reducible apply Moves.ite_fst
    | with_reducible apply Moves.ite_snd
    | with_reducible apply Moves.foldl_fst
    | with_reducible apply Moves.foldl_snd
    | intro _
    | split
    | dsimp only)

theorem execFoxWorkDone_moves (t : Fin 64) (a : Fin 16) (s : State) : Answers [.freeCtr, .regs, .tiles, .owlFifo] s (execFoxWorkDone t a s) := by
  unfold execFoxWorkDone
  try dsimp only
  repeat' (first
    | with_reducible apply Answers.next
    | with_reducible apply Answers.ite
    | ((with_reducible apply Part.Sub.mk); rfl)
    | with_reducible apply Moves.refl
    | with_reducible assumption
    | with_reducible apply finIfDone_moves
    | with_reducible apply foxWindowAdd_moves
    | with_reducible apply modArr_moves
    | with_reducible apply modTile_moves
    | with_reducible apply countAll_moves
    | with_reducible apply Moves.ite
    | with_reducible apply Moves.foldl
    | with_reducible apply Moves.ite_fst
    | with_reducible apply Moves.ite_snd
    | with_reducible apply Moves.foldl_fst
    | with_reducible apply Moves.foldl_snd
    | intro _
    | split
    | dsimp only
    | with_reducible apply Moves.set_freeCtr)

theorem execBlockWindowClose_moves (t : Fin 64) (b : Fin 256) (s : State) : Answers [.regs, .tiles] s (execBlockWindowClose t b s) := by
  unfold execBlockWindowClose
  try dsimp only
  repeat' (first
    | with_reducible apply Answers.next
    | with_reducible apply Answers.ite
    | ((with_reducible apply Part.Sub.mk); rfl)
    | with_reducible apply Moves.refl
    | with_reducible assumption
    | with_reducible apply blockWindowReset_moves
    | with_reducible apply Moves.ite
    | intro _
    | split
    | dsimp only)

theorem execFoxWindowClose_moves (t : Fin 64) (s : State) : Answers [.regs, .tiles] s (execFoxWindowClose t s) := by
  unfold execFoxWindowClose
  try dsimp only
  repeat' (first
    | with_reducible apply Answers.next
    | with_reducible apply Answers.ite
    | ((with_reducible apply Part.Sub.mk); rfl)
    | with_reducible apply Moves.refl
    | with_reducible assumption
    | with_reducible apply foxWindowReset_moves
    | with_reducible apply Moves.ite
    | intro _
    | split
    | dsimp only)

theorem execHoldClr_moves (t : Fin 64) (s : State) : Answers [.tiles] s (execHoldClr t s) := by
  unfold execHoldClr
  try dsimp only
  repeat' (first
    | with_reducible apply Answers.next
    | with_reducible apply Answers.ite
    | ((with_reducible apply Part.Sub.mk); rfl)
    | with_reducible apply Moves.refl
    | with_reducible assumption
    | with_reducible apply modTile_moves
    | with_reducible apply Moves.ite
    | intro _
    | split
    | dsimp only)

end Sys2Proof.Machine
end

