-- ==== Sys2Proof/Laws/Exec/Firmware.lean ====
section
/-! SUPPORT. What the commands of Machine/Firmware.lean touch. -/

namespace Sys2Proof.Machine

theorem execCoreStall_moves (_core : Fin 4) (s : State) : Answers [.regs, .owlFifo, .beatAt, .stall] s (execCoreStall _core s) := by
  unfold execCoreStall
  try dsimp only
  repeat' (first
    | with_reducible apply Answers.next
    | with_reducible apply Answers.ite
    | ((with_reducible apply Part.Sub.mk); rfl)
    | with_reducible apply Moves.refl
    | with_reducible assumption
    | with_reducible apply freezeBeat_moves
    | with_reducible apply raiseBit_moves
    | with_reducible apply Moves.ite
    | intro _
    | split
    | dsimp only
    | with_reducible apply Moves.set_stall)

theorem execFwWatchdog_moves (s : State) : Answers [.regs, .owlFifo, .mbxRun, .beatAt, .stall] s (execFwWatchdog s) := by
  unfold execFwWatchdog
  try dsimp only
  repeat' (first
    | with_reducible apply Answers.next
    | with_reducible apply Answers.ite
    | ((with_reducible apply Part.Sub.mk); rfl)
    | with_reducible apply Moves.refl
    | with_reducible assumption
    | with_reducible apply fwRestart_moves
    | with_reducible apply Moves.ite
    | intro _
    | split
    | dsimp only)

theorem execLiveUpdateTimeout_moves (s0 : State) : Answers [.regs, .owlFifo, .sec, .beatAt, .stall] s0 (execLiveUpdateTimeout s0) := by
  unfold execLiveUpdateTimeout
  try dsimp only
  repeat' (first
    | with_reducible apply Answers.next
    | with_reducible apply Answers.ite
    | ((with_reducible apply Part.Sub.mk); rfl)
    | with_reducible apply Moves.refl
    | with_reducible assumption
    | with_reducible apply rollBack_moves
    | with_reducible apply handStep_moves
    | with_reducible apply Moves.ite
    | intro _
    | split
    | dsimp only)

theorem execManagementLinkChange_moves (up : Bool) (s : State) : Answers [.regs, .owlFifo, .mgmtDown] s (execManagementLinkChange up s) := by
  unfold execManagementLinkChange
  try dsimp only
  repeat' (first
    | with_reducible apply Answers.next
    | with_reducible apply Answers.ite
    | ((with_reducible apply Part.Sub.mk); rfl)
    | with_reducible apply Moves.refl
    | with_reducible assumption
    | with_reducible apply raiseBit_moves
    | with_reducible apply Moves.ite
    | intro _
    | split
    | dsimp only
    | with_reducible apply Moves.set_mgmtDown)

theorem execMgmtFrameRx_moves (f : List Byte) (s : State) : Answers [.regs, .out] s (execMgmtFrameRx f s) := by
  unfold execMgmtFrameRx
  try dsimp only
  repeat' (first
    | with_reducible apply Answers.next
    | with_reducible apply Answers.ite
    | ((with_reducible apply Part.Sub.mk); rfl)
    | with_reducible apply Moves.refl
    | with_reducible assumption
    | with_reducible apply count_moves
    | with_reducible apply Moves.ite
    | intro _
    | with_reducible apply List.prefix_append
    | split
    | dsimp only
    | with_reducible apply Moves.set_out)

end Sys2Proof.Machine
end

