-- ==== Sys2Proof/Laws/Exec/Links.lean ====
section
/-! SUPPORT. What the commands of Machine/Links.lean touch. -/

namespace Sys2Proof.Machine

theorem execPortBringUp_moves (p : Fin 48) (s : State) : Answers [.regs, .ports] s (execPortBringUp p s) := by
  unfold execPortBringUp
  try dsimp only
  repeat' (first
    | with_reducible apply Answers.next
    | with_reducible apply Answers.ite
    | ((with_reducible apply Part.Sub.mk); rfl)
    | with_reducible apply Moves.refl
    | with_reducible assumption
    | with_reducible apply beginTraining_moves
    | with_reducible apply Moves.ite
    | intro _
    | split
    | dsimp only)

theorem execTrainingBlockRx_moves (p : Fin 48) (lane : Fin 4) (inv : Bool) (logical : Fin 4) (peer : BitVec 18) (port : Fin 64) (s : State) : Answers [.ports, .out] s (execTrainingBlockRx p lane inv logical peer port s) := by
  unfold execTrainingBlockRx
  try dsimp only
  repeat' (first
    | with_reducible apply Answers.next
    | with_reducible apply Answers.ite
    | ((with_reducible apply Part.Sub.mk); rfl)
    | with_reducible apply Moves.refl
    | with_reducible assumption
    | with_reducible apply ok_moves
    | with_reducible apply modPort_moves
    | with_reducible apply Moves.ite
    | intro _
    | split
    | dsimp only)

theorem execLaneSetRx_moves (p : Fin 48) (set : BitVec 4) (s : State) : Answers [.freeCtr, .regs, .owlFifo, .ports] s (execLaneSetRx p set s) := by
  unfold execLaneSetRx
  try dsimp only
  repeat' (first
    | with_reducible apply Answers.next
    | ((with_reducible apply Part.Sub.mk); rfl)
    | with_reducible apply Moves.refl
    | with_reducible assumption
    | with_reducible apply laneSetRx_moves
    | dsimp only)

theorem execIdentityRx_moves (p : Fin 48) (c : PeerCert) (s : State) : Answers [.regs, .owlFifo, .ports] s (execIdentityRx p c s) := by
  unfold execIdentityRx
  try dsimp only
  repeat' (first
    | with_reducible apply Answers.next
    | ((with_reducible apply Part.Sub.mk); rfl)
    | with_reducible apply Moves.refl
    | with_reducible assumption
    | with_reducible apply identityRx_moves
    | dsimp only)

theorem execActivationDigestRx_moves (p : Fin 48) (step : Nat) (digest : List Byte) (s : State) : Answers [.regs, .owlFifo, .ports] s (execActivationDigestRx p step digest s) := by
  unfold execActivationDigestRx
  try dsimp only
  repeat' (first
    | with_reducible apply Answers.next
    | with_reducible apply Answers.ite
    | ((with_reducible apply Part.Sub.mk); rfl)
    | with_reducible apply Moves.refl
    | with_reducible assumption
    | with_reducible apply digestArrived_moves
    | with_reducible apply modPort_moves
    | with_reducible apply Moves.ite
    | with_reducible apply Moves.ite_fst
    | with_reducible apply Moves.ite_snd
    | intro _
    | split
    | dsimp only)

theorem execDigestTimeout_moves (p : Fin 48) (s : State) : Answers [.regs, .owlFifo, .ports] s (execDigestTimeout p s) := by
  unfold execDigestTimeout
  try dsimp only
  repeat' (first
    | with_reducible apply Answers.next
    | ((with_reducible apply Part.Sub.mk); rfl)
    | with_reducible apply Moves.refl
    | with_reducible assumption
    | with_reducible apply digestTimeout_moves
    | dsimp only)

theorem execFastRetrain_moves (p : Fin 48) (s : State) : Answers [.regs, .owlFifo, .ports] s (execFastRetrain p s) := by
  unfold execFastRetrain
  try dsimp only
  repeat' (first
    | with_reducible apply Answers.next
    | with_reducible apply Answers.ite
    | ((with_reducible apply Part.Sub.mk); rfl)
    | with_reducible apply Moves.refl
    | with_reducible assumption
    | with_reducible apply fastRetrain_moves
    | with_reducible apply Moves.ite
    | intro _
    | split
    | dsimp only)

theorem execLaneLockLoss_moves (p : Fin 48) (lane : Fin 4) (s : State) : Answers [.regs, .owlFifo, .ports] s (execLaneLockLoss p lane s) := by
  unfold execLaneLockLoss
  try dsimp only
  repeat' (first
    | with_reducible apply Answers.next
    | with_reducible apply Answers.ite
    | ((with_reducible apply Part.Sub.mk); rfl)
    | with_reducible apply Moves.refl
    | with_reducible assumption
    | with_reducible apply fastRetrain_moves
    | with_reducible apply Moves.ite
    | intro _
    | split
    | dsimp only)

theorem execPlRetrain_moves (p : Fin 48) (s : State) : Answers [.regs, .owlFifo, .ports] s (execPlRetrain p s) := by
  unfold execPlRetrain
  try dsimp only
  repeat' (first
    | with_reducible apply Answers.next
    | with_reducible apply Answers.ite
    | ((with_reducible apply Part.Sub.mk); rfl)
    | with_reducible apply Moves.refl
    | with_reducible assumption
    | with_reducible apply fastRetrain_moves
    | with_reducible apply Moves.ite
    | intro _
    | split
    | dsimp only)

theorem execAckTimeout_moves (p : Fin 48) (s : State) : Answers [.regs, .ports] s (execAckTimeout p s) := by
  unfold execAckTimeout
  try dsimp only
  repeat' (first
    | with_reducible apply Answers.next
    | with_reducible apply Answers.ite
    | ((with_reducible apply Part.Sub.mk); rfl)
    | with_reducible apply Moves.refl
    | with_reducible assumption
    | with_reducible apply rewindTx_moves
    | with_reducible apply count_moves
    | with_reducible apply Moves.ite
    | intro _
    | split
    | dsimp only)

theorem execFlitSend_moves (p : Fin 48) (s : State) : Answers [.regs, .ports, .out] s (execFlitSend p s) := by
  unfold execFlitSend
  try dsimp only
  repeat' (first
    | with_reducible apply Answers.next
    | ((with_reducible apply Part.Sub.mk); rfl)
    | with_reducible apply Moves.refl
    | with_reducible assumption
    | with_reducible apply flitSend_moves
    | dsimp only)

theorem execFlitRx_moves (p : Fin 48) (b : List Byte) (corr unc : Nat) (s : State) : Answers [.regs, .owlFifo, .ports] s (execFlitRx p b corr unc s) := by
  unfold execFlitRx
  try dsimp only
  repeat' (first
    | with_reducible apply Answers.next
    | ((with_reducible apply Part.Sub.mk); rfl)
    | with_reducible apply Moves.refl
    | with_reducible assumption
    | with_reducible apply flitRx_moves
    | dsimp only)

theorem execPacketForward_moves (p : Fin 48) (vc : Fin 4) (s : State) : Answers [.regs, .owlFifo, .ports] s (execPacketForward p vc s) := by
  unfold execPacketForward
  try dsimp only
  repeat' (first
    | with_reducible apply Answers.next
    | ((with_reducible apply Part.Sub.mk); rfl)
    | with_reducible apply Moves.refl
    | with_reducible assumption
    | with_reducible apply packetForward_moves
    | dsimp only)

end Sys2Proof.Machine
end

