-- ==== Sys2Proof/Laws/Exec/Marks.lean ====
section
/-! SUPPORT. What the commands of Machine/Marks.lean touch. -/

namespace Sys2Proof.Machine

theorem execMark_moves (t : Fin 64) (o : MarkOp) (s : State) : Answers [.freeCtr, .regs, .tiles, .owlFifo, .fwEvents] s (execMark t o s) := by
  unfold execMark
  try dsimp only
  repeat' (first
    | with_reducible apply Answers.next
    | ((with_reducible apply Part.Sub.mk); rfl)
    | with_reducible apply Moves.refl
    | with_reducible assumption
    | with_reducible apply markIssue_moves
    | with_reducible apply issueWith_moves
    | intro _
    | dsimp only)

theorem execRewind_moves (t : Fin 64) (s : State) : Answers [.freeCtr, .regs, .tiles, .owlFifo, .fwEvents] s (execRewind t s) := by
  unfold execRewind
  try dsimp only
  repeat' (first
    | with_reducible apply Answers.next
    | ((with_reducible apply Part.Sub.mk); rfl)
    | with_reducible apply Moves.refl
    | with_reducible assumption
    | with_reducible apply rewind_moves
    | dsimp only)

end Sys2Proof.Machine
end

