-- ==== Sys2Proof/Laws/Exec/Marten.lean ====
section
/-! SUPPORT. What the commands of Machine/Marten.lean touch. -/

namespace Sys2Proof.Machine

theorem execMartenUpdateStart_moves (m : Fin 24) (s : State) : Answers [.regs, .hbm, .mcs, .owlFifo, .obkts, .fwEvents] s (execMartenUpdateStart m s) := by
  unfold execMartenUpdateStart
  try dsimp only
  repeat' (first
    | with_reducible apply Answers.next
    | ((with_reducible apply Part.Sub.mk); rfl)
    | with_reducible apply Moves.refl
    | with_reducible assumption
    | with_reducible apply martenStart_moves
    | dsimp only)

theorem execBlockVisit_moves (m : Fin 24) (res : Fin 3) (bad : Fin 4) (listBad : Fin 4) (s : State) : Answers [.freeCtr, .regs, .hbm, .mcs, .owlFifo, .taintFrom, .obkts, .fwEvents] s (execBlockVisit m res bad listBad s) := by
  unfold execBlockVisit
  try dsimp only
  repeat' (first
    | with_reducible apply Answers.next
    | ((with_reducible apply Part.Sub.mk); rfl)
    | with_reducible apply Moves.refl
    | with_reducible assumption
    | with_reducible apply blockVisit_moves
    | dsimp only)

theorem execProgEnd_moves (m : Fin 24) (s : State) : Answers [.freeCtr, .regs, .hbm, .mcs, .owlFifo, .obkts, .fwEvents] s (execProgEnd m s) := by
  unfold execProgEnd mOp
  try dsimp only
  repeat' (first
    | with_reducible apply Answers.next
    | ((with_reducible apply Part.Sub.mk); rfl)
    | with_reducible apply Moves.refl
    | with_reducible assumption
    | with_reducible apply opStep_moves
    | dsimp only)

theorem execAdd_moves (m : Fin 24) (d a b : Fin 32) (s : State) : Answers [.freeCtr, .regs, .hbm, .mcs, .owlFifo, .obkts, .fwEvents] s (execAdd m d a b s) := by
  unfold execAdd mOp
  try dsimp only
  repeat' (first
    | with_reducible apply Answers.next
    | ((with_reducible apply Part.Sub.mk); rfl)
    | with_reducible apply Moves.refl
    | with_reducible assumption
    | with_reducible apply opStep_moves
    | dsimp only)

theorem execSub_moves (m : Fin 24) (d a b : Fin 32) (s : State) : Answers [.freeCtr, .regs, .hbm, .mcs, .owlFifo, .obkts, .fwEvents] s (execSub m d a b s) := by
  unfold execSub mOp
  try dsimp only
  repeat' (first
    | with_reducible apply Answers.next
    | ((with_reducible apply Part.Sub.mk); rfl)
    | with_reducible apply Moves.refl
    | with_reducible assumption
    | with_reducible apply opStep_moves
    | dsimp only)

theorem execMul_moves (m : Fin 24) (d a b : Fin 32) (s : State) : Answers [.freeCtr, .regs, .hbm, .mcs, .owlFifo, .obkts, .fwEvents] s (execMul m d a b s) := by
  unfold execMul mOp
  try dsimp only
  repeat' (first
    | with_reducible apply Answers.next
    | ((with_reducible apply Part.Sub.mk); rfl)
    | with_reducible apply Moves.refl
    | with_reducible assumption
    | with_reducible apply opStep_moves
    | dsimp only)

theorem execFma_moves (m : Fin 24) (d a b c : Fin 32) (s : State) : Answers [.freeCtr, .regs, .hbm, .mcs, .owlFifo, .obkts, .fwEvents] s (execFma m d a b c s) := by
  unfold execFma mOp
  try dsimp only
  repeat' (first
    | with_reducible apply Answers.next
    | ((with_reducible apply Part.Sub.mk); rfl)
    | with_reducible apply Moves.refl
    | with_reducible assumption
    | with_reducible apply opStep_moves
    | dsimp only)

theorem execMax_moves (m : Fin 24) (d a b : Fin 32) (s : State) : Answers [.freeCtr, .regs, .hbm, .mcs, .owlFifo, .obkts, .fwEvents] s (execMax m d a b s) := by
  unfold execMax mOp
  try dsimp only
  repeat' (first
    | with_reducible apply Answers.next
    | ((with_reducible apply Part.Sub.mk); rfl)
    | with_reducible apply Moves.refl
    | with_reducible assumption
    | with_reducible apply opStep_moves
    | dsimp only)

theorem execMin_moves (m : Fin 24) (d a b : Fin 32) (s : State) : Answers [.freeCtr, .regs, .hbm, .mcs, .owlFifo, .obkts, .fwEvents] s (execMin m d a b s) := by
  unfold execMin mOp
  try dsimp only
  repeat' (first
    | with_reducible apply Answers.next
    | ((with_reducible apply Part.Sub.mk); rfl)
    | with_reducible apply Moves.refl
    | with_reducible assumption
    | with_reducible apply opStep_moves
    | dsimp only)

theorem execAbs_moves (m : Fin 24) (d a : Fin 32) (s : State) : Answers [.freeCtr, .regs, .hbm, .mcs, .owlFifo, .obkts, .fwEvents] s (execAbs m d a s) := by
  unfold execAbs mOp
  try dsimp only
  repeat' (first
    | with_reducible apply Answers.next
    | ((with_reducible apply Part.Sub.mk); rfl)
    | with_reducible apply Moves.refl
    | with_reducible assumption
    | with_reducible apply opStep_moves
    | dsimp only)

theorem execNeg_moves (m : Fin 24) (d a : Fin 32) (s : State) : Answers [.freeCtr, .regs, .hbm, .mcs, .owlFifo, .obkts, .fwEvents] s (execNeg m d a s) := by
  unfold execNeg mOp
  try dsimp only
  repeat' (first
    | with_reducible apply Answers.next
    | ((with_reducible apply Part.Sub.mk); rfl)
    | with_reducible apply Moves.refl
    | with_reducible assumption
    | with_reducible apply opStep_moves
    | dsimp only)

theorem execSign_moves (m : Fin 24) (d a : Fin 32) (s : State) : Answers [.freeCtr, .regs, .hbm, .mcs, .owlFifo, .obkts, .fwEvents] s (execSign m d a s) := by
  unfold execSign mOp
  try dsimp only
  repeat' (first
    | with_reducible apply Answers.next
    | ((with_reducible apply Part.Sub.mk); rfl)
    | with_reducible apply Moves.refl
    | with_reducible assumption
    | with_reducible apply opStep_moves
    | dsimp only)

theorem execSqrt_moves (m : Fin 24) (d a : Fin 32) (s : State) : Answers [.freeCtr, .regs, .hbm, .mcs, .owlFifo, .obkts, .fwEvents] s (execSqrt m d a s) := by
  unfold execSqrt mOp
  try dsimp only
  repeat' (first
    | with_reducible apply Answers.next
    | ((with_reducible apply Part.Sub.mk); rfl)
    | with_reducible apply Moves.refl
    | with_reducible assumption
    | with_reducible apply opStep_moves
    | dsimp only)

theorem execRsqrt_moves (m : Fin 24) (d a : Fin 32) (s : State) : Answers [.freeCtr, .regs, .hbm, .mcs, .owlFifo, .obkts, .fwEvents] s (execRsqrt m d a s) := by
  unfold execRsqrt mOp
  try dsimp only
  repeat' (first
    | with_reducible apply Answers.next
    | ((with_reducible apply Part.Sub.mk); rfl)
    | with_reducible apply Moves.refl
    | with_reducible assumption
    | with_reducible apply opStep_moves
    | dsimp only)

theorem execRcp_moves (m : Fin 24) (d a : Fin 32) (s : State) : Answers [.freeCtr, .regs, .hbm, .mcs, .owlFifo, .obkts, .fwEvents] s (execRcp m d a s) := by
  unfold execRcp mOp
  try dsimp only
  repeat' (first
    | with_reducible apply Answers.next
    | ((with_reducible apply Part.Sub.mk); rfl)
    | with_reducible apply Moves.refl
    | with_reducible assumption
    | with_reducible apply opStep_moves
    | dsimp only)

theorem execClamp_moves (m : Fin 24) (d a b : Fin 32) (s : State) : Answers [.freeCtr, .regs, .hbm, .mcs, .owlFifo, .obkts, .fwEvents] s (execClamp m d a b s) := by
  unfold execClamp mOp
  try dsimp only
  repeat' (first
    | with_reducible apply Answers.next
    | ((with_reducible apply Part.Sub.mk); rfl)
    | with_reducible apply Moves.refl
    | with_reducible assumption
    | with_reducible apply opStep_moves
    | dsimp only)

theorem execMov_moves (m : Fin 24) (d a : Fin 32) (s : State) : Answers [.freeCtr, .regs, .hbm, .mcs, .owlFifo, .obkts, .fwEvents] s (execMov m d a s) := by
  unfold execMov mOp
  try dsimp only
  repeat' (first
    | with_reducible apply Answers.next
    | ((with_reducible apply Part.Sub.mk); rfl)
    | with_reducible apply Moves.refl
    | with_reducible assumption
    | with_reducible apply opStep_moves
    | dsimp only)

theorem execRrow_moves (m : Fin 24) (d a : Fin 32) (s : State) : Answers [.freeCtr, .regs, .hbm, .mcs, .owlFifo, .obkts, .fwEvents] s (execRrow m d a s) := by
  unfold execRrow mOp
  try dsimp only
  repeat' (first
    | with_reducible apply Answers.next
    | ((with_reducible apply Part.Sub.mk); rfl)
    | with_reducible apply Moves.refl
    | with_reducible assumption
    | with_reducible apply opStep_moves
    | dsimp only)

theorem execRcol_moves (m : Fin 24) (d a : Fin 32) (s : State) : Answers [.freeCtr, .regs, .hbm, .mcs, .owlFifo, .obkts, .fwEvents] s (execRcol m d a s) := by
  unfold execRcol mOp
  try dsimp only
  repeat' (first
    | with_reducible apply Answers.next
    | ((with_reducible apply Part.Sub.mk); rfl)
    | with_reducible apply Moves.refl
    | with_reducible assumption
    | with_reducible apply opStep_moves
    | dsimp only)

theorem execRall_moves (m : Fin 24) (d a : Fin 32) (s : State) : Answers [.freeCtr, .regs, .hbm, .mcs, .owlFifo, .obkts, .fwEvents] s (execRall m d a s) := by
  unfold execRall mOp
  try dsimp only
  repeat' (first
    | with_reducible apply Answers.next
    | ((with_reducible apply Part.Sub.mk); rfl)
    | with_reducible apply Moves.refl
    | with_reducible assumption
    | with_reducible apply opStep_moves
    | dsimp only)

theorem execRmean_moves (m : Fin 24) (d a : Fin 32) (s : State) : Answers [.freeCtr, .regs, .hbm, .mcs, .owlFifo, .obkts, .fwEvents] s (execRmean m d a s) := by
  unfold execRmean mOp
  try dsimp only
  repeat' (first
    | with_reducible apply Answers.next
    | ((with_reducible apply Part.Sub.mk); rfl)
    | with_reducible apply Moves.refl
    | with_reducible assumption
    | with_reducible apply opStep_moves
    | dsimp only)

theorem execMrtSeedWrite_moves (m : Fin 24) (seed : BitVec 64) (s : State) : Answers [.regs] s (execMrtSeedWrite m seed s) := by
  unfold execMrtSeedWrite
  try dsimp only
  repeat' (first
    | with_reducible apply Answers.next
    | with_reducible apply Answers.ite
    | ((with_reducible apply Part.Sub.mk); rfl)
    | with_reducible apply Moves.refl
    | with_reducible assumption
    | with_reducible apply mrtSeed_moves
    | with_reducible apply Moves.ite
    | intro _
    | split
    | dsimp only)

end Sys2Proof.Machine
end

