-- ==== Sys2Proof/Laws/Exec/Mbx.lean ====
section
/-! SUPPORT. What the commands of Machine/Mbx.lean touch. -/

namespace Sys2Proof.Machine

theorem execMbxRing_moves (p : Fin 64) (s : State) : Answers [.regs, .owlFifo, .mbxPosted] s (execMbxRing p s) := by
  unfold execMbxRing
  try dsimp only
  repeat' (first
    | with_reducible apply Answers.next
    | with_reducible apply Answers.ite
    | ((with_reducible apply Part.Sub.mk); rfl)
    | with_reducible apply Moves.refl
    | with_reducible assumption
    | with_reducible apply mbxRing_moves
    | with_reducible apply Moves.ite
    | intro _
    | split
    | dsimp only)

theorem execMbxAck_moves (p : Fin 64) (s : State) : Answers [.regs, .owlFifo] s (execMbxAck p s) := by
  unfold execMbxAck
  try dsimp only
  repeat' (first
    | with_reducible apply Answers.next
    | with_reducible apply Answers.ite
    | ((with_reducible apply Part.Sub.mk); rfl)
    | with_reducible apply Moves.refl
    | with_reducible assumption
    | with_reducible apply mbxAck_moves
    | with_reducible apply Moves.ite
    | intro _
    | split
    | dsimp only)

theorem execMailboxTake_moves (bad : Fin 4) (s : State) : Answers [.regs, .owlFifo, .fwEvents, .out, .mbx, .mbxPosted, .mbxRun, .msixPend, .sec, .beatAt] s (execMailboxTake bad s) := by
  unfold execMailboxTake
  try dsimp only
  repeat' (first
    | with_reducible apply Answers.next
    | ((with_reducible apply Part.Sub.mk); rfl)
    | with_reducible apply Moves.refl
    | with_reducible assumption
    | with_reducible apply handStep_moves
    | with_reducible apply mailboxTake_moves
    | dsimp only)

end Sys2Proof.Machine
end

