-- ==== Sys2Proof/Laws/Exec/MbxCmds.lean ====
section
/-! SUPPORT. What the commands of Machine/MbxCmds.lean touch. -/

namespace Sys2Proof.Machine

theorem execGetInfo_moves (pair : Fin 64) (s : State) : Answers [.regs, .fwEvents, .out, .mbx, .mbxRun, .msixPend] s (execGetInfo pair s) := by
  unfold execGetInfo
  try dsimp only
  repeat' (first
    | with_reducible apply Answers.next
    | ((with_reducible apply Part.Sub.mk); rfl)
    | with_reducible apply MovesQ.of_mk
    | with_reducible apply Moves.refl
    | with_reducible assumption
    | with_reducible apply runCmd_moves
    | intro _
    | dsimp only)

theorem execStageConfig_moves (pair : Fin 64) (s : State) : Answers [.regs, .latches, .hbm, .tiles, .mcs, .owlFifo, .cfg, .staged, .prevTag, .actAt, .obkts, .rbkts, .localRx, .doneV, .ports, .fwEvents, .out, .mbx, .mbxRun, .msixPend, .sec] s (execStageConfig pair s) := by
  unfold execStageConfig
  try dsimp only
  repeat' (first
    | with_reducible apply Answers.next
    | with_reducible apply Answers.ite
    | ((with_reducible apply Part.Sub.mk); rfl)
    | with_reducible apply MovesQ.of_mk
    | with_reducible apply MovesQ.ite
    | with_reducible apply Moves.refl
    | with_reducible assumption
    | with_reducible apply stageSet_moves
    | with_reducible apply runCmd_moves
    | with_reducible apply memRead_moves
    | (with_reducible apply MovesP.mk; with_reducible apply memRead_moves)
    | with_reducible apply raiseNamed_moves
    | with_reducible apply Moves.ite
    | with_reducible apply Moves.ite_fst
    | with_reducible apply Moves.ite_snd
    | intro _
    | split
    | dsimp only)

theorem execLoadStreams_moves (pair : Fin 64) (s : State) : Answers [.regs, .tiles, .fwEvents, .out, .mbx, .mbxRun, .msixPend] s (execLoadStreams pair s) := by
  unfold execLoadStreams
  try dsimp only
  repeat' (first
    | with_reducible apply Answers.next
    | ((with_reducible apply Part.Sub.mk); rfl)
    | with_reducible apply MovesQ.of_mk
    | with_reducible apply MovesQ.foldl
    | with_reducible apply Moves.refl
    | with_reducible assumption
    | with_reducible apply loadStream_moves
    | with_reducible apply runCmd_moves
    | with_reducible apply Moves.foldl
    | with_reducible apply Moves.foldl_fst
    | with_reducible apply Moves.foldl_snd
    | intro _
    | split
    | dsimp only)

theorem execStreamCtrl_moves (pair : Fin 64) (s : State) : Answers [.regs, .tiles, .fwEvents, .out, .mbx, .mbxRun, .msixPend] s (execStreamCtrl pair s) := by
  unfold execStreamCtrl
  try dsimp only
  repeat' (first
    | with_reducible apply Answers.next
    | ((with_reducible apply Part.Sub.mk); rfl)
    | with_reducible apply MovesQ.of_mk
    | with_reducible apply Moves.refl
    | with_reducible assumption
    | with_reducible apply streamCtrl_moves
    | (with_reducible apply MovesQ.mk; with_reducible apply streamCtrl_moves)
    | with_reducible apply runCmd_moves
    | intro _
    | dsimp only)

theorem execSnapshot_moves (pair : Fin 64) (s : State) : Answers [.regs, .fwEvents, .out, .mbx, .mbxRun, .msixPend] s (execSnapshot pair s) := by
  unfold execSnapshot
  try dsimp only
  repeat' (first
    | with_reducible apply Answers.next
    | with_reducible apply Answers.ite
    | ((with_reducible apply Part.Sub.mk); rfl)
    | with_reducible apply MovesQ.of_mk
    | with_reducible apply MovesQ.ite
    | with_reducible apply MovesQ.foldl
    | with_reducible apply Moves.refl
    | with_reducible assumption
    | with_reducible apply runCmd_moves
    | with_reducible apply memRead_moves
    | (with_reducible apply MovesP.mk; with_reducible apply memRead_moves)
    | with_reducible apply Moves.ite
    | with_reducible apply Moves.foldl
    | with_reducible apply Moves.ite_fst
    | with_reducible apply Moves.ite_snd
    | with_reducible apply Moves.foldl_fst
    | with_reducible apply Moves.foldl_snd
    | intro _
    | with_reducible apply List.prefix_append
    | split
    | dsimp only
    | with_reducible apply Moves.set_mbxRun
    | with_reducible apply Moves.set_out)

theorem execTakeover_moves (pair : Fin 64) (s : State) : Answers [.freeCtr, .regs, .tiles, .owlFifo, .fwEvents, .out, .mbx, .mbxRun, .msixPend, .den] s (execTakeover pair s) := by
  unfold execTakeover
  try dsimp only
  repeat' (first
    | with_reducible apply Answers.next
    | with_reducible apply Answers.ite
    | ((with_reducible apply Part.Sub.mk); rfl)
    | with_reducible apply MovesQ.of_mk
    | with_reducible apply MovesQ.ite
    | with_reducible apply Moves.refl
    | with_reducible assumption
    | with_reducible apply runCmd_moves
    | with_reducible apply takeover_moves
    | with_reducible apply Moves.ite
    | intro _
    | split
    | dsimp only)

theorem execUpdateRetry_moves (pair : Fin 64) (s : State) : Answers [.regs, .hbm, .mcs, .owlFifo, .obkts, .fwEvents, .out, .mbx, .mbxRun, .msixPend] s (execUpdateRetry pair s) := by
  unfold execUpdateRetry
  try dsimp only
  repeat' (first
    | with_reducible apply Answers.next
    | with_reducible apply Answers.ite
    | ((with_reducible apply Part.Sub.mk); rfl)
    | with_reducible apply MovesQ.of_mk
    | with_reducible apply MovesQ.ite
    | with_reducible apply Moves.refl
    | with_reducible assumption
    | with_reducible apply runCmd_moves
    | with_reducible apply requeue_moves
    | with_reducible apply Moves.ite
    | intro _
    | split
    | dsimp only)

theorem execSupersede_moves (pair : Fin 64) (s : State) : Answers [.regs, .hbm, .mcs, .owlFifo, .obkts, .localRx, .ports, .fwEvents, .out, .mbx, .mbxRun, .msixPend] s (execSupersede pair s) := by
  unfold execSupersede
  try dsimp only
  repeat' (first
    | with_reducible apply Answers.next
    | with_reducible apply Answers.ite
    | ((with_reducible apply Part.Sub.mk); rfl)
    | with_reducible apply MovesQ.of_mk
    | with_reducible apply MovesQ.ite
    | with_reducible apply Moves.refl
    | with_reducible assumption
    | with_reducible apply runCmd_moves
    | with_reducible apply supersede_moves
    | with_reducible apply Moves.ite
    | intro _
    | split
    | dsimp only)

theorem execBucketArrived_moves (pair : Fin 64) (s : State) : Answers [.regs, .rbkts, .fwEvents, .out, .mbx, .mbxRun, .msixPend] s (execBucketArrived pair s) := by
  unfold execBucketArrived
  try dsimp only
  repeat' (first
    | with_reducible apply Answers.next
    | ((with_reducible apply Part.Sub.mk); rfl)
    | with_reducible apply MovesQ.of_mk
    | with_reducible apply MovesQ.foldl
    | with_reducible apply Moves.refl
    | with_reducible assumption
    | with_reducible apply runCmd_moves
    | with_reducible apply modR_moves
    | with_reducible apply memRead_moves
    | (with_reducible apply MovesP.mk; with_reducible apply memRead_moves)
    | with_reducible apply Moves.foldl
    | with_reducible apply Moves.foldl_fst
    | with_reducible apply Moves.foldl_snd
    | intro _
    | split
    | dsimp only)

theorem execBucketHold_moves (pair : Fin 64) (s : State) : Answers [.regs, .hbm, .mcs, .owlFifo, .obkts, .fwEvents, .out, .mbx, .mbxRun, .msixPend] s (execBucketHold pair s) := by
  unfold execBucketHold
  try dsimp only
  repeat' (first
    | with_reducible apply Answers.next
    | with_reducible apply Answers.ite
    | ((with_reducible apply Part.Sub.mk); rfl)
    | with_reducible apply MovesQ.of_mk
    | with_reducible apply MovesQ.ite
    | with_reducible apply Moves.refl
    | with_reducible assumption
    | with_reducible apply runCmd_moves
    | with_reducible apply judgeStep_moves
    | with_reducible apply modO_moves
    | with_reducible apply Moves.ite
    | intro _
    | split
    | dsimp only)

theorem execSetLedger_moves (pair : Fin 64) (s : State) : Answers [.regs, .ledger, .fwEvents, .out, .mbx, .mbxRun, .msixPend] s (execSetLedger pair s) := by
  unfold execSetLedger
  try dsimp only
  repeat' (first
    | with_reducible apply Answers.next
    | ((with_reducible apply Part.Sub.mk); rfl)
    | with_reducible apply MovesQ.of_mk
    | with_reducible apply Moves.refl
    | with_reducible assumption
    | with_reducible apply runCmd_moves
    | intro _
    | dsimp only
    | with_reducible apply Moves.set_ledger)

theorem execFwStop_moves (pair : Fin 64) (s : State) : Answers [.regs, .fwEvents, .out, .mbx, .mbxRun, .msixPend, .beatAt] s (execFwStop pair s) := by
  unfold execFwStop
  try dsimp only
  repeat' (first
    | with_reducible apply Answers.next
    | with_reducible apply Answers.ite
    | ((with_reducible apply Part.Sub.mk); rfl)
    | with_reducible apply MovesQ.of_mk
    | with_reducible apply MovesQ.ite
    | with_reducible apply Moves.refl
    | with_reducible assumption
    | with_reducible apply freezeBeat_moves
    | with_reducible apply runCmd_moves
    | with_reducible apply setFld_moves
    | with_reducible apply Moves.ite
    | intro _
    | split
    | dsimp only)

theorem execGetCert_moves (pair : Fin 64) (s : State) : Answers [.regs, .fwEvents, .out, .mbx, .mbxRun, .msixPend] s (execGetCert pair s) := by
  unfold execGetCert
  try dsimp only
  repeat' (first
    | with_reducible apply Answers.next
    | ((with_reducible apply Part.Sub.mk); rfl)
    | with_reducible apply MovesQ.of_mk
    | with_reducible apply Moves.refl
    | with_reducible assumption
    | with_reducible apply runCmd_moves
    | intro _
    | dsimp only)

theorem execAttest_moves (pair : Fin 64) (s : State) : Answers [.freeCtr, .regs, .fwEvents, .out, .mbx, .mbxRun, .msixPend] s (execAttest pair s) := by
  unfold execAttest
  try dsimp only
  repeat' (first
    | with_reducible apply Answers.next
    | ((with_reducible apply Part.Sub.mk); rfl)
    | with_reducible apply MovesQ.of_mk
    | with_reducible apply Moves.refl
    | with_reducible assumption
    | with_reducible apply takeFree_moves
    | (with_reducible apply MovesP.mk; with_reducible apply takeFree_moves)
    | with_reducible apply runCmd_moves
    | intro _
    | dsimp only)

theorem execFwStage_moves (pair : Fin 64) (data : List Byte) (ok : Bool) (s : State) : Answers [.regs, .latches, .hbm, .tiles, .mcs, .owlFifo, .taints, .taintFrom, .suspects, .cfg, .staged, .prevTag, .actAt, .hubAt, .obkts, .rbkts, .accSent, .localRx, .passed, .doneV, .csFails, .failWins, .ledger, .fwEvents, .out, .mbx, .mbxPosted, .mbxRun, .evqs, .msix, .msixPend, .fwRecs, .fwNum, .fwNet, .owlNet, .fwRaw, .flash, .sec, .cpy, .mon, .beatAt, .stall, .tad, .bdg, .bdgMem, .bdgLast, .den, .scanned, .retiring, .pwr] s (execFwStage pair data ok s) := by
  unfold execFwStage
  try dsimp only
  repeat' (first
    | with_reducible apply Answers.next
    | with_reducible apply Answers.ite
    | ((with_reducible apply Part.Sub.mk); rfl)
    | with_reducible apply MovesQ.of_mk
    | with_reducible apply MovesQ.ite
    | with_reducible apply Moves.refl
    | with_reducible assumption
    | with_reducible apply ok_moves
    | with_reducible apply runCmd_moves
    | with_reducible apply rebootHub_moves
    | with_reducible apply memRead_moves
    | (with_reducible apply MovesP.mk; with_reducible apply memRead_moves)
    | with_reducible apply setFld_moves
    | with_reducible apply Moves.ite
    | with_reducible apply Moves.ite_fst
    | with_reducible apply Moves.ite_snd
    | intro _
    | with_reducible apply swf_sset
    | with_reducible apply swf_ssetList
    | with_reducible apply swf_filter
    | with_reducible apply swf_nil
    | split
    | dsimp only
    | with_reducible apply Moves.set_flash_sec
    | with_reducible apply Moves.set_sec)

theorem execFwStatus_moves (pair : Fin 64) (s : State) : Answers [.regs, .fwEvents, .out, .mbx, .mbxRun, .msixPend] s (execFwStatus pair s) := by
  unfold execFwStatus
  try dsimp only
  repeat' (first
    | with_reducible apply Answers.next
    | with_reducible apply Answers.ite
    | ((with_reducible apply Part.Sub.mk); rfl)
    | with_reducible apply MovesQ.of_mk
    | with_reducible apply MovesQ.ite
    | with_reducible apply Moves.refl
    | with_reducible assumption
    | with_reducible apply runCmd_moves
    | with_reducible apply Moves.ite
    | intro _
    | split
    | dsimp only)

theorem execOwnerKeySet_moves (pair : Fin 64) (s : State) : Answers [.regs, .fuses, .owlFifo, .fwEvents, .out, .mbx, .mbxRun, .msixPend, .sec] s (execOwnerKeySet pair s) := by
  unfold execOwnerKeySet
  try dsimp only
  repeat' (first
    | with_reducible apply Answers.next
    | with_reducible apply Answers.ite
    | ((with_reducible apply Part.Sub.mk); rfl)
    | with_reducible apply MovesQ.of_mk
    | with_reducible apply MovesQ.ite
    | with_reducible apply MovesQ.foldl
    | with_reducible apply Moves.refl
    | with_reducible assumption
    | with_reducible apply setFuse_moves
    | with_reducible apply runCmd_moves
    | with_reducible apply raiseBit_moves
    | with_reducible apply setBit_moves
    | with_reducible apply setFld_moves
    | with_reducible apply Moves.ite
    | with_reducible apply Moves.foldl
    | intro _
    | with_reducible apply swf_sset
    | with_reducible apply swf_nil
    | with_reducible apply swf_foldl
    | split
    | dsimp only
    | with_reducible apply Moves.set_fuses_sec)

theorem execGetDigest_moves (pair : Fin 64) (s : State) : Answers [.regs, .fwEvents, .out, .mbx, .mbxRun, .msixPend] s (execGetDigest pair s) := by
  unfold execGetDigest
  try dsimp only
  repeat' (first
    | with_reducible apply Answers.next
    | ((with_reducible apply Part.Sub.mk); rfl)
    | with_reducible apply MovesQ.of_mk
    | with_reducible apply Moves.refl
    | with_reducible assumption
    | with_reducible apply runCmd_moves
    | intro _
    | dsimp only)

theorem execSvnCommit_moves (pair : Fin 64) (s : State) : Answers [.regs, .fuses, .fwEvents, .out, .mbx, .mbxRun, .msixPend] s (execSvnCommit pair s) := by
  unfold execSvnCommit
  try dsimp only
  repeat' (first
    | with_reducible apply Answers.next
    | with_reducible apply Answers.ite
    | ((with_reducible apply Part.Sub.mk); rfl)
    | with_reducible apply MovesQ.of_mk
    | with_reducible apply MovesQ.ite
    | with_reducible apply Moves.refl
    | with_reducible assumption
    | with_reducible apply setFuse_moves
    | with_reducible apply runCmd_moves
    | with_reducible apply Moves.ite
    | intro _
    | split
    | dsimp only)

end Sys2Proof.Machine
end

