-- ==== Sys2Proof/Laws/Exec/Mc.lean ====
section
/-! SUPPORT. What the commands of Machine/Mc.lean touch. -/

namespace Sys2Proof.Machine

theorem execMcServe_moves (m : Fin 24) (corr : Nat) (unc : Bool) (s : State) : Answers [.regs, .hbm, .tiles, .mcs, .owlFifo] s (execMcServe m corr unc s) := by
  unfold execMcServe
  try dsimp only
  repeat' (first
    | with_reducible apply Answers.next
    | ((with_reducible apply Part.Sub.mk); rfl)
    | with_reducible apply Moves.refl
    | with_reducible assumption
    | with_reducible apply mcServe_moves
    | dsimp only)

theorem execMcAccept_moves (m : Fin 24) (s : State) : Answers [.regs, .mcs] s (execMcAccept m s) := by
  unfold execMcAccept
  try dsimp only
  repeat' (first
    | with_reducible apply Answers.next
    | ((with_reducible apply Part.Sub.mk); rfl)
    | with_reducible apply Moves.refl
    | with_reducible assumption
    | with_reducible apply mcAccept_moves
    | dsimp only)

theorem execPerBankRefresh_moves (m : Fin 24) (temp : BitVec 8) (s : State) : Answers [.regs] s (execPerBankRefresh m temp s) := by
  unfold execPerBankRefresh
  try dsimp only
  repeat' (first
    | with_reducible apply Answers.next
    | ((with_reducible apply Part.Sub.mk); rfl)
    | with_reducible apply Moves.refl
    | with_reducible assumption
    | with_reducible apply perBankRefresh_moves
    | dsimp only)

end Sys2Proof.Machine
end

