-- ==== Sys2Proof/Laws/Exec/Monitor.lean ====
section
/-! SUPPORT. What the commands of Machine/Monitor.lean touch. -/

namespace Sys2Proof.Machine

theorem execHelp_moves (s : State) : Answers [.out, .mon] s (execHelp s) := by
  unfold execHelp
  try dsimp only
  repeat' (first
    | with_reducible apply Answers.next
    | with_reducible apply Answers.ite
    | ((with_reducible apply Part.Sub.mk); rfl)
    | with_reducible apply Moves.refl
    | with_reducible assumption
    | with_reducible apply monHelp_moves
    | with_reducible apply entered_moves
    | with_reducible apply Moves.ite
    | with_reducible apply Moves.foldl
    | with_reducible apply Moves.ite_fst
    | with_reducible apply Moves.ite_snd
    | with_reducible apply Moves.foldl_fst
    | with_reducible apply Moves.foldl_snd
    | intro _
    | with_reducible apply swf_sset
    | with_reducible apply swf_ssetList
    | with_reducible apply swf_filter
    | with_reducible apply swf_nil
    | with_reducible apply swf_foldl
    | with_reducible apply List.prefix_append
    | split
    | dsimp only
    | omega)

theorem execInfo_moves (s : State) : Answers [.out, .mon] s (execInfo s) := by
  unfold execInfo
  try dsimp only
  repeat' (first
    | with_reducible apply Answers.next
    | with_reducible apply Answers.ite
    | ((with_reducible apply Part.Sub.mk); rfl)
    | with_reducible apply Moves.refl
    | with_reducible assumption
    | with_reducible apply monInfo_moves
    | with_reducible apply entered_moves
    | with_reducible apply Moves.ite
    | with_reducible apply Moves.foldl
    | with_reducible apply Moves.ite_fst
    | with_reducible apply Moves.ite_snd
    | with_reducible apply Moves.foldl_fst
    | with_reducible apply Moves.foldl_snd
    | intro _
    | with_reducible apply swf_sset
    | with_reducible apply swf_ssetList
    | with_reducible apply swf_filter
    | with_reducible apply swf_nil
    | with_reducible apply swf_foldl
    | with_reducible apply List.prefix_append
    | split
    | dsimp only
    | omega)

theorem execRd_moves (off n : Nat) (s : State) : Answers [.freeCtr, .regs, .latches, .out, .mon, .pwr] s (execRd off n s) := by
  unfold execRd
  try dsimp only
  repeat' (first
    | with_reducible apply Answers.next
    | ((with_reducible apply Part.Sub.mk); rfl)
    | with_reducible apply Moves.refl
    | with_reducible assumption
    | with_reducible apply monRd_moves
    | with_reducible apply entered_moves
    | intro _
    | dsimp only)

theorem execTiles_moves (s : State) : Answers [.out, .mon] s (execTiles s) := by
  unfold execTiles
  try dsimp only
  repeat' (first
    | with_reducible apply Answers.next
    | with_reducible apply Answers.ite
    | ((with_reducible apply Part.Sub.mk); rfl)
    | with_reducible apply Moves.refl
    | with_reducible assumption
    | with_reducible apply monTiles_moves
    | with_reducible apply entered_moves
    | with_reducible apply Moves.ite
    | with_reducible apply Moves.foldl
    | with_reducible apply Moves.ite_fst
    | with_reducible apply Moves.ite_snd
    | with_reducible apply Moves.foldl_fst
    | with_reducible apply Moves.foldl_snd
    | intro _
    | with_reducible apply swf_sset
    | with_reducible apply swf_ssetList
    | with_reducible apply swf_filter
    | with_reducible apply swf_nil
    | with_reducible apply swf_foldl
    | with_reducible apply List.prefix_append
    | split
    | dsimp only
    | omega)

theorem execPorts_moves (s : State) : Answers [.out, .mon] s (execPorts s) := by
  unfold execPorts
  try dsimp only
  repeat' (first
    | with_reducible apply Answers.next
    | with_reducible apply Answers.ite
    | ((with_reducible apply Part.Sub.mk); rfl)
    | with_reducible apply Moves.refl
    | with_reducible assumption
    | with_reducible apply monPorts_moves
    | with_reducible apply entered_moves
    | with_reducible apply Moves.ite
    | with_reducible apply Moves.foldl
    | with_reducible apply Moves.ite_fst
    | with_reducible apply Moves.ite_snd
    | with_reducible apply Moves.foldl_fst
    | with_reducible apply Moves.foldl_snd
    | intro _
    | with_reducible apply swf_sset
    | with_reducible apply swf_ssetList
    | with_reducible apply swf_filter
    | with_reducible apply swf_nil
    | with_reducible apply swf_foldl
    | with_reducible apply List.prefix_append
    | split
    | dsimp only
    | omega)

theorem execTemp_moves (s : State) : Answers [.freeCtr, .out, .mon] s (execTemp s) := by
  unfold execTemp
  try dsimp only
  repeat' (first
    | with_reducible apply Answers.next
    | with_reducible apply Answers.ite
    | ((with_reducible apply Part.Sub.mk); rfl)
    | with_reducible apply Moves.refl
    | with_reducible assumption
    | with_reducible apply monTemp_moves
    | with_reducible apply entered_moves
    | with_reducible apply Moves.ite
    | with_reducible apply Moves.foldl
    | with_reducible apply Moves.ite_fst
    | with_reducible apply Moves.ite_snd
    | with_reducible apply Moves.foldl_fst
    | with_reducible apply Moves.foldl_snd
    | intro _
    | with_reducible apply swf_sset
    | with_reducible apply swf_ssetList
    | with_reducible apply swf_filter
    | with_reducible apply swf_nil
    | with_reducible apply swf_foldl
    | with_reducible apply List.prefix_append
    | split
    | dsimp only
    | omega)

theorem execEvents_moves (n : Nat) (s : State) : Answers [.out, .mon] s (execEvents n s) := by
  unfold execEvents
  try dsimp only
  repeat' (first
    | with_reducible apply Answers.next
    | ((with_reducible apply Part.Sub.mk); rfl)
    | with_reducible apply Moves.refl
    | with_reducible assumption
    | with_reducible apply monEvents_moves
    | with_reducible apply entered_moves
    | intro _
    | dsimp only)

theorem execBaud_moves (rate : Nat) (s : State) : Answers [.regs, .out, .mon] s (execBaud rate s) := by
  unfold execBaud
  try dsimp only
  repeat' (first
    | with_reducible apply Answers.next
    | ((with_reducible apply Part.Sub.mk); rfl)
    | with_reducible apply Moves.refl
    | with_reducible assumption
    | with_reducible apply monBaud_moves
    | with_reducible apply entered_moves
    | intro _
    | dsimp only)

theorem execUnlock_moves (s : State) : Answers [.freeCtr, .out, .mon] s (execUnlock s) := by
  unfold execUnlock
  try dsimp only
  repeat' (first
    | with_reducible apply Answers.next
    | with_reducible apply Answers.ite
    | ((with_reducible apply Part.Sub.mk); rfl)
    | with_reducible apply Moves.refl
    | with_reducible assumption
    | with_reducible apply monUnlock_moves
    | with_reducible apply entered_moves
    | with_reducible apply Moves.ite
    | with_reducible apply Moves.foldl
    | with_reducible apply Moves.ite_fst
    | with_reducible apply Moves.ite_snd
    | with_reducible apply Moves.foldl_fst
    | with_reducible apply Moves.foldl_snd
    | intro _
    | with_reducible apply swf_sset
    | with_reducible apply swf_ssetList
    | with_reducible apply swf_filter
    | with_reducible apply swf_nil
    | with_reducible apply swf_foldl
    | with_reducible apply List.prefix_append
    | split
    | dsimp only
    | omega)

theorem execResp_moves (groups : Option (List Word)) (s : State) : Answers [.regs, .owlFifo, .out, .mon] s (execResp groups s) := by
  unfold execResp
  try dsimp only
  repeat' (first
    | with_reducible apply Answers.next
    | ((with_reducible apply Part.Sub.mk); rfl)
    | with_reducible apply Moves.refl
    | with_reducible assumption
    | with_reducible apply monResp_moves
    | with_reducible apply entered_moves
    | intro _
    | dsimp only)

theorem execWr_moves (off : Nat) (v : Word) (s : State) : Answers [.now, .regs, .latches, .seedLow, .hbm, .tiles, .mcs, .launchAt, .sigs, .lastGrant, .owlFifo, .taints, .taintFrom, .suspects, .cfg, .staged, .prevTag, .actAt, .hubAt, .obkts, .rbkts, .accSent, .localRx, .passed, .doneV, .csFails, .failWins, .ledger, .ports, .fwEvents, .out, .mbx, .mbxPosted, .mbxRun, .evqs, .msix, .msixPend, .fwRecs, .fwNum, .fwNet, .owlNet, .fwRaw, .mgmtDown, .flash, .sec, .cpy, .mon, .beatAt, .stall, .tad, .bdg, .bdgMem, .bdgLast, .den, .scanned, .retiring, .pwr, .hubUp, .d3hot] s (execWr off v s) := by
  unfold execWr
  try dsimp only
  repeat' (first
    | with_reducible apply Answers.next
    | ((with_reducible apply Part.Sub.mk); rfl)
    | with_reducible apply Moves.refl
    | with_reducible assumption
    | with_reducible apply monWr_moves
    | with_reducible apply entered_moves
    | intro _
    | dsimp only)

theorem execStream_moves (mask : BitVec 64) (action : Nat) (s : State) : Answers [.regs, .tiles, .out, .mon] s (execStream mask action s) := by
  unfold execStream
  try dsimp only
  repeat' (first
    | with_reducible apply Answers.next
    | ((with_reducible apply Part.Sub.mk); rfl)
    | with_reducible apply Moves.refl
    | with_reducible assumption
    | with_reducible apply monStream_moves
    | with_reducible apply entered_moves
    | intro _
    | dsimp only)

theorem execOwnerArm_moves (s : State) : Answers [.now, .regs, .latches, .seedLow, .hbm, .tiles, .mcs, .launchAt, .sigs, .lastGrant, .owlFifo, .taints, .taintFrom, .suspects, .cfg, .staged, .prevTag, .actAt, .hubAt, .obkts, .rbkts, .accSent, .localRx, .passed, .doneV, .csFails, .failWins, .ledger, .ports, .fwEvents, .out, .mbx, .mbxPosted, .mbxRun, .evqs, .msix, .msixPend, .fwRecs, .fwNum, .fwNet, .owlNet, .fwRaw, .mgmtDown, .flash, .sec, .cpy, .mon, .beatAt, .stall, .tad, .bdg, .bdgMem, .bdgLast, .den, .scanned, .retiring, .pwr, .hubUp, .d3hot] s (execOwnerArm s) := by
  unfold execOwnerArm
  try dsimp only
  repeat' (first
    | with_reducible apply Answers.next
    | with_reducible apply Answers.ite
    | ((with_reducible apply Part.Sub.mk); rfl)
    | with_reducible apply Moves.refl
    | with_reducible assumption
    | with_reducible apply monOwnerArm_moves
    | with_reducible apply entered_moves
    | with_reducible apply Moves.ite
    | with_reducible apply Moves.foldl
    | with_reducible apply Moves.ite_fst
    | with_reducible apply Moves.ite_snd
    | with_reducible apply Moves.foldl_fst
    | with_reducible apply Moves.foldl_snd
    | intro _
    | with_reducible apply swf_sset
    | with_reducible apply swf_ssetList
    | with_reducible apply swf_filter
    | with_reducible apply swf_nil
    | with_reducible apply swf_foldl
    | with_reducible apply List.prefix_append
    | split
    | dsimp only
    | omega)

theorem execLock_moves (s : State) : Answers [.regs, .out, .mon] s (execLock s) := by
  unfold execLock
  try dsimp only
  repeat' (first
    | with_reducible apply Answers.next
    | with_reducible apply Answers.ite
    | ((with_reducible apply Part.Sub.mk); rfl)
    | with_reducible apply Moves.refl
    | with_reducible assumption
    | with_reducible apply monLock_moves
    | with_reducible apply entered_moves
    | with_reducible apply Moves.ite
    | with_reducible apply Moves.foldl
    | with_reducible apply Moves.ite_fst
    | with_reducible apply Moves.ite_snd
    | with_reducible apply Moves.foldl_fst
    | with_reducible apply Moves.foldl_snd
    | intro _
    | with_reducible apply swf_sset
    | with_reducible apply swf_ssetList
    | with_reducible apply swf_filter
    | with_reducible apply swf_nil
    | with_reducible apply swf_foldl
    | with_reducible apply List.prefix_append
    | split
    | dsimp only
    | omega)

theorem execMonitorIdleLock_moves (s : State) : Answers [.regs] s (execMonitorIdleLock s) := by
  unfold execMonitorIdleLock
  try dsimp only
  repeat' (first
    | with_reducible apply Answers.next
    | with_reducible apply Answers.ite
    | ((with_reducible apply Part.Sub.mk); rfl)
    | with_reducible apply Moves.refl
    | with_reducible assumption
    | with_reducible apply lockMon_moves
    | with_reducible apply Moves.ite
    | intro _
    | split
    | dsimp only)

theorem execUnlockLockoutEnd_moves (s : State) : Answers [.regs, .mon] s (execUnlockLockoutEnd s) := by
  unfold execUnlockLockoutEnd
  try dsimp only
  repeat' (first
    | with_reducible apply Answers.next
    | with_reducible apply Answers.ite
    | ((with_reducible apply Part.Sub.mk); rfl)
    | with_reducible apply Moves.refl
    | with_reducible assumption
    | with_reducible apply setFld_moves
    | with_reducible apply Moves.ite
    | intro _
    | split
    | dsimp only
    | with_reducible apply Moves.set_mon)

theorem execUartStuck_moves (s : State) : Answers [.regs, .owlFifo, .mon] s (execUartStuck s) := by
  unfold execUartStuck
  try dsimp only
  repeat' (first
    | with_reducible apply Answers.next
    | with_reducible apply Answers.ite
    | ((with_reducible apply Part.Sub.mk); rfl)
    | with_reducible apply Moves.refl
    | with_reducible assumption
    | with_reducible apply raiseBit_moves
    | with_reducible apply Moves.ite
    | intro _
    | split
    | dsimp only
    | with_reducible apply Moves.set_mon)

theorem execUartRxRelease_moves (s : State) : Answers [.mon] s (execUartRxRelease s) := by
  unfold execUartRxRelease
  try dsimp only
  repeat' (first
    | with_reducible apply Answers.next
    | ((with_reducible apply Part.Sub.mk); rfl)
    | with_reducible apply Moves.refl
    | with_reducible assumption
    | dsimp only
    | with_reducible apply Moves.set_mon)

theorem execUartCharRx_moves (b : Byte) (s : State) : Answers [.now, .freeCtr, .regs, .latches, .seedLow, .hbm, .tiles, .mcs, .launchAt, .sigs, .lastGrant, .owlFifo, .taints, .taintFrom, .suspects, .cfg, .staged, .prevTag, .actAt, .hubAt, .obkts, .rbkts, .accSent, .localRx, .passed, .doneV, .csFails, .failWins, .ledger, .ports, .fwEvents, .out, .mbx, .mbxPosted, .mbxRun, .evqs, .msix, .msixPend, .fwRecs, .fwNum, .fwNet, .owlNet, .fwRaw, .mgmtDown, .flash, .sec, .cpy, .mon, .beatAt, .stall, .tad, .bdg, .bdgMem, .bdgLast, .den, .scanned, .retiring, .pwr, .hubUp, .d3hot] s (execUartCharRx b s) := by
  unfold execUartCharRx
  try dsimp only
  repeat' (first
    | with_reducible apply Answers.next
    | ((with_reducible apply Part.Sub.mk); rfl)
    | with_reducible apply Moves.refl
    | with_reducible assumption
    | with_reducible apply uartChar_moves
    | with_reducible apply entered_moves
    | intro _
    | dsimp only)

end Sys2Proof.Machine
end

