-- ==== Sys2Proof/Laws/Exec/Planes.lean ====
section
/-! SUPPORT. What the commands of Machine/Planes.lean touch. -/

namespace Sys2Proof.Machine

theorem execArrCtrlWide_moves (t : Fin 64) (a : Fin 16) (v : Option Bool) (s : State) : Answers [.regs, .tiles] s (execArrCtrlWide t a v s) := by
  unfold execArrCtrlWide
  try dsimp only
  repeat' (first
    | with_reducible apply Answers.next
    | with_reducible apply Answers.ite
    | ((with_reducible apply Part.Sub.mk); rfl)
    | with_reducible apply Moves.refl
    | with_reducible assumption
    | with_reducible apply arrCtrlWide_moves
    | with_reducible apply applyWide_moves
    | with_reducible apply Moves.ite
    | intro _
    | split
    | dsimp only)

theorem execPwrite_moves (t : Fin 64) (o : PwriteOp) (s : State) : Answers [.regs, .tiles, .owlFifo, .fwEvents] s (execPwrite t o s) := by
  unfold execPwrite
  try dsimp only
  repeat' (first
    | with_reducible apply Answers.next
    | ((with_reducible apply Part.Sub.mk); rfl)
    | with_reducible apply Moves.refl
    | with_reducible assumption
    | with_reducible apply pwrite_moves
    | dsimp only)

theorem execPlaneStaged_moves (t : Fin 64) (a : Fin 16) (s : State) : Answers [.regs, .tiles, .owlFifo, .fwEvents] s (execPlaneStaged t a s) := by
  unfold execPlaneStaged
  try dsimp only
  repeat' (first
    | with_reducible apply Answers.next
    | ((with_reducible apply Part.Sub.mk); rfl)
    | with_reducible apply Moves.refl
    | with_reducible assumption
    | with_reducible apply planeStaged_moves
    | dsimp only)

theorem execPlaneWriteDone_moves (t : Fin 64) (a : Fin 16) (s : State) : Answers [.freeCtr, .regs, .tiles, .owlFifo, .fwEvents] s (execPlaneWriteDone t a s) := by
  unfold execPlaneWriteDone
  try dsimp only
  repeat' (first
    | with_reducible apply Answers.next
    | ((with_reducible apply Part.Sub.mk); rfl)
    | with_reducible apply Moves.refl
    | with_reducible assumption
    | with_reducible apply planeWriteDone_moves
    | dsimp only)

theorem execPlaneRefreshRequest_moves (t : Fin 64) (a : Fin 16) (b : Bool) (s : State) : Answers [.regs, .tiles] s (execPlaneRefreshRequest t a b s) := by
  unfold execPlaneRefreshRequest
  try dsimp only
  repeat' (first
    | with_reducible apply Answers.next
    | with_reducible apply Answers.ite
    | ((with_reducible apply Part.Sub.mk); rfl)
    | with_reducible apply Moves.refl
    | with_reducible assumption
    | with_reducible apply wantRefresh_moves
    | with_reducible apply Moves.ite
    | intro _
    | split
    | dsimp only)

theorem execRefreshLate_moves (t : Fin 64) (a : Fin 16) (b : Bool) (s : State) : Answers [.regs, .tiles, .owlFifo] s (execRefreshLate t a b s) := by
  unfold execRefreshLate
  try dsimp only
  repeat' (first
    | with_reducible apply Answers.next
    | with_reducible apply Answers.ite
    | ((with_reducible apply Part.Sub.mk); rfl)
    | with_reducible apply Moves.refl
    | with_reducible assumption
    | with_reducible apply raiseBit_moves
    | with_reducible apply modArr_moves
    | with_reducible apply Moves.ite
    | intro _
    | split
    | dsimp only)

theorem execPlaneExpire_moves (t : Fin 64) (a : Fin 16) (b : Bool) (s : State) : Answers [.regs, .tiles, .owlFifo] s (execPlaneExpire t a b s) := by
  unfold execPlaneExpire
  try dsimp only
  repeat' (first
    | with_reducible apply Answers.next
    | with_reducible apply Answers.ite
    | ((with_reducible apply Part.Sub.mk); rfl)
    | with_reducible apply Moves.refl
    | with_reducible assumption
    | with_reducible apply setPlaneState_moves
    | with_reducible apply raiseBit_moves
    | with_reducible apply modArr_moves
    | with_reducible apply Moves.ite
    | intro _
    | split
    | dsimp only)

end Sys2Proof.Machine
end

