-- ==== Sys2Proof/Laws/Exec/Send.lean ====
section
/-! SUPPORT. What the commands of Machine/Send.lean touch. -/

namespace Sys2Proof.Machine

theorem execWgflush_moves (t : Fin 64) (o : WgflushOp) (s : State) : Answers [.regs, .tiles, .owlFifo, .fwEvents] s (execWgflush t o s) := by
  unfold execWgflush
  try dsimp only
  repeat' (first
    | with_reducible apply Answers.next
    | ((with_reducible apply Part.Sub.mk); rfl)
    | with_reducible apply Moves.refl
    | with_reducible assumption
    | with_reducible apply enqueue_moves
    | dsimp only)

theorem execXclose_moves (t : Fin 64) (o : XcloseOp) (s : State) : Answers [.regs, .tiles, .owlFifo, .fwEvents] s (execXclose t o s) := by
  unfold execXclose
  try dsimp only
  repeat' (first
    | with_reducible apply Answers.next
    | ((with_reducible apply Part.Sub.mk); rfl)
    | with_reducible apply Moves.refl
    | with_reducible assumption
    | with_reducible apply enqueue_moves
    | dsimp only)

theorem execMissue_moves (t : Fin 64) (bucket : Nat) (s : State) : Answers [.regs, .tiles, .owlFifo, .fwEvents] s (execMissue t bucket s) := by
  unfold execMissue
  try dsimp only
  repeat' (first
    | with_reducible apply Answers.next
    | with_reducible apply Answers.ite
    | ((with_reducible apply Part.Sub.mk); rfl)
    | with_reducible apply Moves.refl
    | with_reducible assumption
    | with_reducible apply issueWith_moves
    | with_reducible apply popIssue_moves
    | (with_reducible apply MovesQ.mk; with_reducible apply popIssue_moves)
    | with_reducible apply haltSeq_moves
    | with_reducible apply Moves.ite
    | with_reducible apply Moves.ite_fst
    | with_reducible apply Moves.ite_snd
    | intro _
    | split
    | dsimp only)

theorem execGrpupd_moves (t : Fin 64) (o : GrpupdOp) (s : State) : Answers [.regs, .tiles, .owlFifo, .fwEvents] s (execGrpupd t o s) := by
  unfold execGrpupd
  try dsimp only
  repeat' (first
    | with_reducible apply Answers.next
    | ((with_reducible apply Part.Sub.mk); rfl)
    | with_reducible apply Moves.refl
    | with_reducible assumption
    | with_reducible apply enqueue_moves
    | dsimp only)

end Sys2Proof.Machine
end

