-- ==== Sys2Proof/Laws/Exec/Seq.lean ====
section
/-! SUPPORT. What the commands of Machine/Seq.lean touch. -/

namespace Sys2Proof.Machine

theorem execCommandFetch_moves (t : Fin 64) (bad : Fin 4) (par : Fin 10) (s : State) : Answers [.regs, .tiles, .owlFifo, .fwEvents] s (execCommandFetch t bad par s) := by
  unfold execCommandFetch
  try dsimp only
  repeat' (first
    | with_reducible apply Answers.next
    | with_reducible apply Answers.ite
    | ((with_reducible apply Part.Sub.mk); rfl)
    | with_reducible apply Moves.refl
    | with_reducible assumption
    | with_reducible apply settleHead_moves
    | with_reducible apply parityRuns_moves
    | with_reducible apply modTile_moves
    | with_reducible apply count_moves
    | with_reducible apply setFld_moves
    | with_reducible apply Moves.ite
    | intro _
    | split
    | dsimp only)

theorem execNop_moves (t : Fin 64) (s : State) : Answers [.regs, .tiles, .owlFifo, .fwEvents] s (execNop t s) := by
  unfold execNop
  try dsimp only
  repeat' (first
    | with_reducible apply Answers.next
    | ((with_reducible apply Part.Sub.mk); rfl)
    | with_reducible apply Moves.refl
    | with_reducible assumption
    | with_reducible apply issueWith_moves
    | with_reducible apply popSeq_moves
    | intro _
    | dsimp only)

theorem execLaunch_moves (t : Fin 64) (o : LaunchOp) (s : State) : Answers [.regs, .tiles, .owlFifo, .fwEvents] s (execLaunch t o s) := by
  unfold execLaunch
  try dsimp only
  repeat' (first
    | with_reducible apply Answers.next
    | ((with_reducible apply Part.Sub.mk); rfl)
    | with_reducible apply Moves.refl
    | with_reducible assumption
    | with_reducible apply issueWith_moves
    | with_reducible apply popSeq_moves
    | with_reducible apply modTile_moves
    | intro _
    | dsimp only)

theorem execFence_moves (t : Fin 64) (units : Nat) (s : State) : Answers [.regs, .tiles, .owlFifo, .fwEvents] s (execFence t units s) := by
  unfold execFence
  try dsimp only
  repeat' (first
    | with_reducible apply Answers.next
    | with_reducible apply Answers.ite
    | ((with_reducible apply Part.Sub.mk); rfl)
    | with_reducible apply Moves.refl
    | with_reducible assumption
    | with_reducible apply startWait_moves
    | with_reducible apply issueWith_moves
    | with_reducible apply popSeq_moves
    | with_reducible apply Moves.ite
    | intro _
    | split
    | dsimp only)

theorem execWait_moves (t : Fin 64) (o : WaitOp) (s : State) : Answers [.regs, .tiles, .owlFifo, .fwEvents] s (execWait t o s) := by
  unfold execWait
  try dsimp only
  repeat' (first
    | with_reducible apply Answers.next
    | with_reducible apply Answers.ite
    | ((with_reducible apply Part.Sub.mk); rfl)
    | with_reducible apply Moves.refl
    | with_reducible assumption
    | with_reducible apply startWait_moves
    | with_reducible apply issueWith_moves
    | with_reducible apply popSeq_moves
    | with_reducible apply Moves.ite
    | intro _
    | split
    | dsimp only)

theorem execSignal_moves (t : Fin 64) (o : SignalOp) (s : State) : Answers [.regs, .tiles, .sigs, .owlFifo, .fwEvents] s (execSignal t o s) := by
  unfold execSignal
  try dsimp only
  repeat' (first
    | with_reducible apply Answers.next
    | ((with_reducible apply Part.Sub.mk); rfl)
    | with_reducible apply Moves.refl
    | with_reducible assumption
    | with_reducible apply releaseSignals_moves
    | with_reducible apply issueWith_moves
    | with_reducible apply popSeq_moves
    | with_reducible apply modTile_moves
    | intro _
    | dsimp only)

theorem execSignalArrive_moves (t : Fin 64) (s : State) : Answers [.regs, .tiles, .sigs, .owlFifo, .fwEvents] s (execSignalArrive t s) := by
  unfold execSignalArrive
  try dsimp only
  repeat' (first
    | with_reducible apply Answers.next
    | with_reducible apply Answers.ite
    | ((with_reducible apply Part.Sub.mk); rfl)
    | with_reducible apply Moves.refl
    | with_reducible assumption
    | with_reducible apply endWait_moves
    | with_reducible apply count_moves
    | with_reducible apply Moves.ite
    | intro _
    | split
    | dsimp only
    | with_reducible apply Moves.set_sigs)

theorem execSigclr_moves (t : Fin 64) (ctr : Nat) (s : State) : Answers [.regs, .tiles, .owlFifo, .fwEvents] s (execSigclr t ctr s) := by
  unfold execSigclr
  try dsimp only
  repeat' (first
    | with_reducible apply Answers.next
    | ((with_reducible apply Part.Sub.mk); rfl)
    | with_reducible apply Moves.refl
    | with_reducible assumption
    | with_reducible apply issueWith_moves
    | with_reducible apply popSeq_moves
    | with_reducible apply setFld_moves
    | intro _
    | dsimp only)

theorem execSetver_moves (t : Fin 64) (o : SetverOp) (s : State) : Answers [.regs, .tiles, .owlFifo, .fwEvents] s (execSetver t o s) := by
  unfold execSetver
  try dsimp only
  repeat' (first
    | with_reducible apply Answers.next
    | with_reducible apply Answers.ite
    | ((with_reducible apply Part.Sub.mk); rfl)
    | with_reducible apply Moves.refl
    | with_reducible assumption
    | with_reducible apply issueWith_moves
    | with_reducible apply popSeq_moves
    | with_reducible apply modTile_moves
    | with_reducible apply setFld_moves
    | with_reducible apply Moves.ite
    | with_reducible apply Moves.ite_fst
    | with_reducible apply Moves.ite_snd
    | intro _
    | split
    | dsimp only)

theorem execSettown_moves (t : Fin 64) (o : SettownOp) (s : State) : Answers [.regs, .tiles, .owlFifo, .fwEvents] s (execSettown t o s) := by
  unfold execSettown
  try dsimp only
  repeat' (first
    | with_reducible apply Answers.next
    | ((with_reducible apply Part.Sub.mk); rfl)
    | with_reducible apply Moves.refl
    | with_reducible assumption
    | with_reducible apply issueWith_moves
    | with_reducible apply popSeq_moves
    | with_reducible apply setOwner_moves
    | intro _
    | dsimp only)

theorem execCheckBarrierEnd_moves (t : Fin 64) (s : State) : Answers [.regs, .tiles] s (execCheckBarrierEnd t s) := by
  unfold execCheckBarrierEnd
  try dsimp only
  repeat' (first
    | with_reducible apply Answers.next
    | with_reducible apply Answers.ite
    | ((with_reducible apply Part.Sub.mk); rfl)
    | with_reducible apply Moves.refl
    | with_reducible assumption
    | with_reducible apply modTile_moves
    | with_reducible apply count_moves
    | with_reducible apply Moves.ite
    | with_reducible apply Moves.ite_fst
    | with_reducible apply Moves.ite_snd
    | intro _
    | split
    | dsimp only)

theorem execSeqRun_moves (t : Fin 64) (run : Bool) (s : State) : Answers [.regs, .tiles] s (execSeqRun t run s) := by
  unfold execSeqRun
  try dsimp only
  repeat' (first
    | with_reducible apply Answers.next
    | with_reducible apply Answers.ite
    | ((with_reducible apply Part.Sub.mk); rfl)
    | with_reducible apply Moves.refl
    | with_reducible assumption
    | with_reducible apply seqRun_moves
    | with_reducible apply Moves.ite
    | intro _
    | split
    | dsimp only)

theorem execSeqResume_moves (t : Fin 64) (s : State) : Answers [.regs] s (execSeqResume t s) := by
  unfold execSeqResume
  try dsimp only
  repeat' (first
    | with_reducible apply Answers.next
    | with_reducible apply Answers.ite
    | ((with_reducible apply Part.Sub.mk); rfl)
    | with_reducible apply Moves.refl
    | with_reducible assumption
    | with_reducible apply seqContinue_moves
    | with_reducible apply Moves.ite
    | intro _
    | split
    | dsimp only)

theorem execSeqSkip_moves (t : Fin 64) (s : State) : Answers [.regs] s (execSeqSkip t s) := by
  unfold execSeqSkip
  try dsimp only
  repeat' (first
    | with_reducible apply Answers.next
    | with_reducible apply Answers.ite
    | ((with_reducible apply Part.Sub.mk); rfl)
    | with_reducible apply Moves.refl
    | with_reducible assumption
    | with_reducible apply seqContinue_moves
    | with_reducible apply Moves.ite
    | intro _
    | split
    | dsimp only)

theorem execSeqLong_moves (t : Fin 64) (no : Option Nat) (s : State) : Answers [.regs, .tiles, .owlFifo, .fwEvents] s (execSeqLong t no s) := by
  unfold execSeqLong
  try dsimp only
  repeat' (first
    | with_reducible apply Answers.next
    | with_reducible apply Answers.ite
    | ((with_reducible apply Part.Sub.mk); rfl)
    | with_reducible apply Moves.refl
    | with_reducible assumption
    | with_reducible apply raiseNamed_moves
    | with_reducible apply modTile_moves
    | with_reducible apply count_moves
    | with_reducible apply Moves.ite
    | with_reducible apply Moves.ite_fst
    | with_reducible apply Moves.ite_snd
    | intro _
    | split
    | dsimp only)

end Sys2Proof.Machine
end

