-- ==== Sys2Proof/Laws/Exec/Sett.lean ====
section
/-! SUPPORT. What the commands of Machine/Sett.lean touch. -/

namespace Sys2Proof.Machine

theorem execSettHandover_moves (t : Fin 64) (b : Fin 48) (w : Word) (s : State) : Answers [.regs, .owlFifo] s (execSettHandover t b w s) := by
  unfold execSettHandover
  try dsimp only
  repeat' (first
    | with_reducible apply Answers.next
    | with_reducible apply Answers.ite
    | ((with_reducible apply Part.Sub.mk); rfl)
    | with_reducible apply Moves.refl
    | with_reducible assumption
    | with_reducible apply setOwner_moves
    | with_reducible apply Moves.ite
    | intro _
    | split
    | dsimp only)

theorem execOwnTimeout_moves (t : Fin 64) (unit : Fin 16) (s : State) : Answers [.regs, .tiles, .owlFifo] s (execOwnTimeout t unit s) := by
  unfold execOwnTimeout
  try dsimp only
  repeat' (first
    | with_reducible apply Answers.next
    | with_reducible apply Answers.ite
    | ((with_reducible apply Part.Sub.mk); rfl)
    | with_reducible apply Moves.refl
    | with_reducible assumption
    | with_reducible apply raiseBit_moves
    | with_reducible apply modTile_moves
    | with_reducible apply Moves.ite
    | with_reducible apply Moves.ite_fst
    | with_reducible apply Moves.ite_snd
    | intro _
    | split
    | dsimp only)

theorem execHostSettAccess_moves (t : Fin 64) (off len : Nat) (data : Option (List Byte)) (coll : Bool) (s : State) : Answers [.regs, .tiles, .owlFifo, .hostResp] s (execHostSettAccess t off len data coll s) := by
  unfold execHostSettAccess
  try dsimp only
  repeat' (first
    | with_reducible apply Answers.next
    | with_reducible apply Answers.ite
    | ((with_reducible apply Part.Sub.mk); rfl)
    | with_reducible apply Moves.refl
    | with_reducible assumption
    | with_reducible apply settWrite_moves
    | with_reducible apply raiseBit_moves
    | with_reducible apply count_moves
    | with_reducible apply Moves.ite
    | intro _
    | split
    | dsimp only
    | with_reducible apply Moves.set_hostResp)

theorem execWgbAdd_moves (t : Fin 64) (vuAdds : List (Nat × Word)) (s : State) : Answers [.regs, .tiles, .owlFifo] s (execWgbAdd t vuAdds s) := by
  unfold execWgbAdd
  try dsimp only
  repeat' (first
    | with_reducible apply Answers.next
    | with_reducible apply Answers.ite
    | ((with_reducible apply Part.Sub.mk); rfl)
    | with_reducible apply Moves.refl
    | with_reducible assumption
    | with_reducible apply wgbApply_moves
    | with_reducible apply modTile_moves
    | with_reducible apply Moves.ite
    | with_reducible apply Moves.ite_fst
    | with_reducible apply Moves.ite_snd
    | intro _
    | split
    | dsimp only)

end Sys2Proof.Machine
end

