-- ==== Sys2Proof/Laws/Exec/Streamer.lean ====
section
/-! SUPPORT. What the commands of Machine/Streamer.lean touch. -/

namespace Sys2Proof.Machine

theorem execLoad_moves (t : Fin 64) (o : LoadOp) (s : State) : Answers [.regs, .tiles, .owlFifo, .fwEvents] s (execLoad t o s) := by
  unfold execLoad
  try dsimp only
  repeat' (first
    | with_reducible apply Answers.next
    | ((with_reducible apply Part.Sub.mk); rfl)
    | with_reducible apply Moves.refl
    | with_reducible assumption
    | with_reducible apply load_moves
    | dsimp only)

theorem execKload_moves (t : Fin 64) (o : KloadOp) (s : State) : Answers [.regs, .tiles, .owlFifo, .fwEvents] s (execKload t o s) := by
  unfold execKload
  try dsimp only
  repeat' (first
    | with_reducible apply Answers.next
    | ((with_reducible apply Part.Sub.mk); rfl)
    | with_reducible apply Moves.refl
    | with_reducible assumption
    | with_reducible apply kload_moves
    | dsimp only)

theorem execStore_moves (t : Fin 64) (o : StoreOp) (s : State) : Answers [.regs, .tiles, .owlFifo, .fwEvents] s (execStore t o s) := by
  unfold execStore
  try dsimp only
  repeat' (first
    | with_reducible apply Answers.next
    | ((with_reducible apply Part.Sub.mk); rfl)
    | with_reducible apply Moves.refl
    | with_reducible assumption
    | with_reducible apply store_moves
    | dsimp only)

theorem execStreamerIssue_moves (t : Fin 64) (s : State) : Answers [.regs, .tiles, .mcs, .owlFifo, .fwEvents] s (execStreamerIssue t s) := by
  unfold execStreamerIssue
  try dsimp only
  repeat' (first
    | with_reducible apply Answers.next
    | ((with_reducible apply Part.Sub.mk); rfl)
    | with_reducible apply Moves.refl
    | with_reducible assumption
    | with_reducible apply streamerIssue_moves
    | dsimp only)

theorem execPrefetchProbe_moves (t : Fin 64) (s : State) : Answers [.regs, .tiles] s (execPrefetchProbe t s) := by
  unfold execPrefetchProbe
  try dsimp only
  repeat' (first
    | with_reducible apply Answers.next
    | ((with_reducible apply Part.Sub.mk); rfl)
    | with_reducible apply Moves.refl
    | with_reducible assumption
    | with_reducible apply prefetchProbe_moves
    | dsimp only)

theorem execBlockReturn_moves (t : Fin 64) (job k : Nat) (bad : Fin 4) (s : State) : Answers [.regs, .tiles, .owlFifo, .fwEvents] s (execBlockReturn t job k bad s) := by
  unfold execBlockReturn
  try dsimp only
  repeat' (first
    | with_reducible apply Answers.next
    | ((with_reducible apply Part.Sub.mk); rfl)
    | with_reducible apply Moves.refl
    | with_reducible assumption
    | with_reducible apply blockReturn_moves
    | dsimp only)

theorem execTornReread_moves (t : Fin 64) (job k : Nat) (s : State) : Answers [.regs, .tiles] s (execTornReread t job k s) := by
  unfold execTornReread
  try dsimp only
  repeat' (first
    | with_reducible apply Answers.next
    | ((with_reducible apply Part.Sub.mk); rfl)
    | with_reducible apply Moves.refl
    | with_reducible assumption
    | with_reducible apply tornReread_moves
    | dsimp only)

theorem execWriteAck_moves (t : Fin 64) (job k : Nat) (s : State) : Answers [.regs, .hbm, .tiles, .mcs, .owlFifo, .fwEvents] s (execWriteAck t job k s) := by
  unfold execWriteAck
  try dsimp only
  repeat' (first
    | with_reducible apply Answers.next
    | ((with_reducible apply Part.Sub.mk); rfl)
    | with_reducible apply Moves.refl
    | with_reducible assumption
    | with_reducible apply writeAck_moves
    | dsimp only)

end Sys2Proof.Machine
end

