-- ==== Sys2Proof/Laws/Exec/Tad.lean ====
section
/-! SUPPORT. What the commands of Machine/Tad.lean touch. -/

namespace Sys2Proof.Machine

theorem execTadStart_moves (s : State) : Answers [.regs, .latches, .owlFifo, .tad] s (execTadStart s) := by
  unfold execTadStart
  try dsimp only
  repeat' (first
    | with_reducible apply Answers.next
    | with_reducible apply Answers.ite
    | ((with_reducible apply Part.Sub.mk); rfl)
    | with_reducible apply Moves.refl
    | with_reducible assumption
    | with_reducible apply tadCtrlWrite_moves
    | with_reducible apply Moves.ite
    | intro _
    | split
    | dsimp only)

theorem execTadStop_moves (s : State) : Answers [.regs, .latches, .owlFifo, .tad] s (execTadStop s) := by
  unfold execTadStop
  try dsimp only
  repeat' (first
    | with_reducible apply Answers.next
    | with_reducible apply Answers.ite
    | ((with_reducible apply Part.Sub.mk); rfl)
    | with_reducible apply Moves.refl
    | with_reducible assumption
    | with_reducible apply tadCtrlWrite_moves
    | with_reducible apply Moves.ite
    | intro _
    | split
    | dsimp only)

theorem execTadRefsel_moves (sel : Fin 4) (s : State) : Answers [.regs, .latches, .owlFifo, .tad] s (execTadRefsel sel s) := by
  unfold execTadRefsel
  try dsimp only
  repeat' (first
    | with_reducible apply Answers.next
    | with_reducible apply Answers.ite
    | ((with_reducible apply Part.Sub.mk); rfl)
    | with_reducible apply Moves.refl
    | with_reducible assumption
    | with_reducible apply tadCtrlWrite_moves
    | with_reducible apply Moves.ite
    | intro _
    | split
    | dsimp only)

theorem execRefSettled_moves (v : BitVec 16) (s : State) : Answers [.regs, .owlFifo, .tad] s (execRefSettled v s) := by
  unfold execRefSettled
  try dsimp only
  repeat' (first
    | with_reducible apply Answers.next
    | with_reducible apply Answers.ite
    | ((with_reducible apply Part.Sub.mk); rfl)
    | with_reducible apply Moves.refl
    | with_reducible assumption
    | with_reducible apply tadResume_moves
    | with_reducible apply raiseBit_moves
    | with_reducible apply setFld_moves
    | with_reducible apply Moves.ite
    | intro _
    | split
    | dsimp only
    | with_reducible apply Moves.set_tad)

theorem execPeriodTick_moves (s : State) : Answers [.now, .regs, .owlFifo, .flash, .sec, .beatAt, .tad] s (execPeriodTick s) := by
  unfold execPeriodTick
  try dsimp only
  repeat' (first
    | with_reducible apply Answers.next
    | with_reducible apply Answers.ite
    | ((with_reducible apply Part.Sub.mk); rfl)
    | with_reducible apply Moves.refl
    | with_reducible assumption
    | with_reducible apply tick_moves
    | with_reducible apply tadBegin_moves
    | with_reducible apply raiseBit_moves
    | with_reducible apply count_moves
    | with_reducible apply Moves.ite
    | intro _
    | split
    | dsimp only
    | with_reducible apply Moves.set_tad)

theorem execSequenceEnd_moves (m : List AdcSlot) (s : State) : Answers [.regs, .owlFifo, .tad, .bdg] s (execSequenceEnd m s) := by
  unfold execSequenceEnd
  try dsimp only
  repeat' (first
    | with_reducible apply Answers.next
    | with_reducible apply Answers.ite
    | ((with_reducible apply Part.Sub.mk); rfl)
    | with_reducible apply Moves.refl
    | with_reducible assumption
    | with_reducible apply tadEnd_moves
    | with_reducible apply Moves.ite
    | with_reducible apply Moves.foldl
    | with_reducible apply Moves.ite_fst
    | with_reducible apply Moves.ite_snd
    | with_reducible apply Moves.foldl_fst
    | with_reducible apply Moves.foldl_snd
    | intro _
    | split
    | dsimp only)

theorem execHousekeeping_moves (codes : List (BitVec 16)) (s : State) : Answers [.regs, .tiles, .owlFifo, .tad, .pwr] s (execHousekeeping codes s) := by
  unfold execHousekeeping
  try dsimp only
  repeat' (first
    | with_reducible apply Answers.next
    | with_reducible apply Answers.ite
    | ((with_reducible apply Part.Sub.mk); rfl)
    | with_reducible apply Moves.refl
    | with_reducible assumption
    | with_reducible apply thermJudge_moves
    | with_reducible apply passTemp_moves
    | with_reducible apply wrReg_moves
    | with_reducible apply Moves.ite
    | with_reducible apply Moves.foldl
    | with_reducible apply Moves.ite_fst
    | with_reducible apply Moves.ite_snd
    | with_reducible apply Moves.foldl_fst
    | with_reducible apply Moves.foldl_snd
    | intro _
    | split
    | dsimp only
    | with_reducible apply Moves.set_tad)

theorem execTadCalZero_moves (chan : Fin 16) (acq : BitVec 8) (s : State) : Answers [.regs, .latches, .owlFifo, .flash, .tad] s (execTadCalZero chan acq s) := by
  unfold execTadCalZero
  try dsimp only
  repeat' (first
    | with_reducible apply Answers.next
    | with_reducible apply Answers.ite
    | ((with_reducible apply Part.Sub.mk); rfl)
    | with_reducible apply Moves.refl
    | with_reducible assumption
    | with_reducible apply tadCalWrite_moves
    | with_reducible apply Moves.ite
    | intro _
    | split
    | dsimp only)

theorem execTadCalFull_moves (chan : Fin 16) (acq : BitVec 8) (s : State) : Answers [.regs, .latches, .owlFifo, .flash, .tad] s (execTadCalFull chan acq s) := by
  unfold execTadCalFull
  try dsimp only
  repeat' (first
    | with_reducible apply Answers.next
    | with_reducible apply Answers.ite
    | ((with_reducible apply Part.Sub.mk); rfl)
    | with_reducible apply Moves.refl
    | with_reducible assumption
    | with_reducible apply tadCalWrite_moves
    | with_reducible apply Moves.ite
    | intro _
    | split
    | dsimp only)

theorem execTadCalStore_moves (s : State) : Answers [.regs, .latches, .owlFifo, .flash, .tad] s (execTadCalStore s) := by
  unfold execTadCalStore
  try dsimp only
  repeat' (first
    | with_reducible apply Answers.next
    | with_reducible apply Answers.ite
    | ((with_reducible apply Part.Sub.mk); rfl)
    | with_reducible apply Moves.refl
    | with_reducible assumption
    | with_reducible apply tadCalWrite_moves
    | with_reducible apply Moves.ite
    | intro _
    | split
    | dsimp only)

theorem execTadCalLoad_moves (s : State) : Answers [.regs, .latches, .owlFifo, .flash, .tad] s (execTadCalLoad s) := by
  unfold execTadCalLoad
  try dsimp only
  repeat' (first
    | with_reducible apply Answers.next
    | with_reducible apply Answers.ite
    | ((with_reducible apply Part.Sub.mk); rfl)
    | with_reducible apply Moves.refl
    | with_reducible assumption
    | with_reducible apply tadCalWrite_moves
    | with_reducible apply Moves.ite
    | intro _
    | split
    | dsimp only)

theorem execTadCalStepDone_moves (l : List (BitVec 16)) (s : State) : Answers [.regs, .owlFifo, .tad] s (execTadCalStepDone l s) := by
  unfold execTadCalStepDone
  try dsimp only
  repeat' (first
    | with_reducible apply Answers.next
    | with_reducible apply Answers.ite
    | ((with_reducible apply Part.Sub.mk); rfl)
    | with_reducible apply Moves.refl
    | with_reducible assumption
    | with_reducible apply tadCalDone_moves
    | with_reducible apply Moves.ite
    | intro _
    | split
    | dsimp only)

end Sys2Proof.Machine
end

