-- ==== Sys2Proof/Laws/Exec/VuArith.lean ====
section
/-! SUPPORT. What the commands of Machine/VuArith.lean touch. -/

namespace Sys2Proof.Machine

theorem execVuNop_moves (t : Fin 64) (f : VuFields) (s : State) : Answers [.regs, .tiles, .owlFifo, .fwEvents] s (execVuNop t f s) := by
  unfold execVuNop vuNext
  try dsimp only
  repeat' (first
    | with_reducible apply Answers.next
    | ((with_reducible apply Part.Sub.mk); rfl)
    | with_reducible apply VuMoves.done
    | with_reducible apply Moves.refl
    | with_reducible assumption
    | with_reducible apply vuIssue_moves
    | intro _
    | dsimp only)

theorem execVadd_moves (t : Fin 64) (f : VuFields) (s : State) : Answers [.regs, .tiles, .owlFifo, .fwEvents] s (execVadd t f s) := by
  unfold execVadd vuNext
  try dsimp only
  repeat' (first
    | with_reducible apply Answers.next
    | ((with_reducible apply Part.Sub.mk); rfl)
    | with_reducible apply Moves.refl
    | with_reducible assumption
    | with_reducible apply vuFp2_moves
    | dsimp only)

theorem execVsub_moves (t : Fin 64) (f : VuFields) (s : State) : Answers [.regs, .tiles, .owlFifo, .fwEvents] s (execVsub t f s) := by
  unfold execVsub vuNext
  try dsimp only
  repeat' (first
    | with_reducible apply Answers.next
    | ((with_reducible apply Part.Sub.mk); rfl)
    | with_reducible apply Moves.refl
    | with_reducible assumption
    | with_reducible apply vuFp2_moves
    | dsimp only)

theorem execVmul_moves (t : Fin 64) (f : VuFields) (s : State) : Answers [.regs, .tiles, .owlFifo, .fwEvents] s (execVmul t f s) := by
  unfold execVmul vuNext
  try dsimp only
  repeat' (first
    | with_reducible apply Answers.next
    | ((with_reducible apply Part.Sub.mk); rfl)
    | with_reducible apply Moves.refl
    | with_reducible assumption
    | with_reducible apply vuFp2_moves
    | dsimp only)

theorem execVfma_moves (t : Fin 64) (f : VuFields) (s : State) : Answers [.regs, .tiles, .owlFifo, .fwEvents] s (execVfma t f s) := by
  unfold execVfma vuNext
  try dsimp only
  repeat' (first
    | with_reducible apply Answers.next
    | ((with_reducible apply Part.Sub.mk); rfl)
    | with_reducible apply Moves.refl
    | with_reducible assumption
    | with_reducible apply vuFp_moves
    | with_reducible apply vuIssue_moves
    | intro _
    | dsimp only)

theorem execVmax_moves (t : Fin 64) (f : VuFields) (s : State) : Answers [.regs, .tiles, .owlFifo, .fwEvents] s (execVmax t f s) := by
  unfold execVmax vuNext
  try dsimp only
  repeat' (first
    | with_reducible apply Answers.next
    | ((with_reducible apply Part.Sub.mk); rfl)
    | with_reducible apply Moves.refl
    | with_reducible assumption
    | with_reducible apply vuFp2_moves
    | dsimp only)

theorem execVmin_moves (t : Fin 64) (f : VuFields) (s : State) : Answers [.regs, .tiles, .owlFifo, .fwEvents] s (execVmin t f s) := by
  unfold execVmin vuNext
  try dsimp only
  repeat' (first
    | with_reducible apply Answers.next
    | ((with_reducible apply Part.Sub.mk); rfl)
    | with_reducible apply Moves.refl
    | with_reducible assumption
    | with_reducible apply vuFp2_moves
    | dsimp only)

theorem execVabs_moves (t : Fin 64) (f : VuFields) (s : State) : Answers [.regs, .tiles, .owlFifo, .fwEvents] s (execVabs t f s) := by
  unfold execVabs vuNext
  try dsimp only
  repeat' (first
    | with_reducible apply Answers.next
    | ((with_reducible apply Part.Sub.mk); rfl)
    | with_reducible apply Moves.refl
    | with_reducible assumption
    | with_reducible apply vuFp1_moves
    | dsimp only)

theorem execVneg_moves (t : Fin 64) (f : VuFields) (s : State) : Answers [.regs, .tiles, .owlFifo, .fwEvents] s (execVneg t f s) := by
  unfold execVneg vuNext
  try dsimp only
  repeat' (first
    | with_reducible apply Answers.next
    | ((with_reducible apply Part.Sub.mk); rfl)
    | with_reducible apply Moves.refl
    | with_reducible assumption
    | with_reducible apply vuFp1_moves
    | dsimp only)

theorem execVmov_moves (t : Fin 64) (f : VuFields) (s : State) : Answers [.regs, .tiles, .owlFifo, .fwEvents] s (execVmov t f s) := by
  unfold execVmov vuNext
  try dsimp only
  repeat' (first
    | with_reducible apply Answers.next
    | ((with_reducible apply Part.Sub.mk); rfl)
    | with_reducible apply Moves.refl
    | with_reducible assumption
    | with_reducible apply vuBits_moves
    | with_reducible apply vuIssue_moves
    | intro _
    | dsimp only)

theorem execVmovi_moves (t : Fin 64) (f : VuFields) (s : State) : Answers [.regs, .tiles, .owlFifo, .fwEvents] s (execVmovi t f s) := by
  unfold execVmovi vuNext
  try dsimp only
  repeat' (first
    | with_reducible apply Answers.next
    | ((with_reducible apply Part.Sub.mk); rfl)
    | with_reducible apply Moves.refl
    | with_reducible assumption
    | with_reducible apply vuBits_moves
    | with_reducible apply vuIssue_moves
    | intro _
    | dsimp only)

theorem execVexp2_moves (t : Fin 64) (f : VuFields) (s : State) : Answers [.freeCtr, .regs, .tiles, .owlFifo, .fwEvents] s (execVexp2 t f s) := by
  unfold execVexp2 vuNext
  try dsimp only
  repeat' (first
    | with_reducible apply Answers.next
    | ((with_reducible apply Part.Sub.mk); rfl)
    | with_reducible apply Moves.refl
    | with_reducible assumption
    | with_reducible apply vuTr_moves
    | intro _
    | dsimp only)

theorem execVlog2_moves (t : Fin 64) (f : VuFields) (s : State) : Answers [.freeCtr, .regs, .tiles, .owlFifo, .fwEvents] s (execVlog2 t f s) := by
  unfold execVlog2 vuNext
  try dsimp only
  repeat' (first
    | with_reducible apply Answers.next
    | ((with_reducible apply Part.Sub.mk); rfl)
    | with_reducible apply Moves.refl
    | with_reducible assumption
    | with_reducible apply vuTr_moves
    | dsimp only)

theorem execVrcp_moves (t : Fin 64) (f : VuFields) (s : State) : Answers [.freeCtr, .regs, .tiles, .owlFifo, .fwEvents] s (execVrcp t f s) := by
  unfold execVrcp vuNext
  try dsimp only
  repeat' (first
    | with_reducible apply Answers.next
    | ((with_reducible apply Part.Sub.mk); rfl)
    | with_reducible apply Moves.refl
    | with_reducible assumption
    | with_reducible apply vuTr_moves
    | dsimp only)

theorem execVrsqrt_moves (t : Fin 64) (f : VuFields) (s : State) : Answers [.freeCtr, .regs, .tiles, .owlFifo, .fwEvents] s (execVrsqrt t f s) := by
  unfold execVrsqrt vuNext
  try dsimp only
  repeat' (first
    | with_reducible apply Answers.next
    | ((with_reducible apply Part.Sub.mk); rfl)
    | with_reducible apply Moves.refl
    | with_reducible assumption
    | with_reducible apply vuTr_moves
    | dsimp only)

theorem execVexp_moves (t : Fin 64) (f : VuFields) (s : State) : Answers [.freeCtr, .regs, .tiles, .owlFifo, .fwEvents] s (execVexp t f s) := by
  unfold execVexp vuNext
  try dsimp only
  repeat' (first
    | with_reducible apply Answers.next
    | ((with_reducible apply Part.Sub.mk); rfl)
    | with_reducible apply Moves.refl
    | with_reducible assumption
    | with_reducible apply vuTr_moves
    | intro _
    | dsimp only)

theorem execVtanh_moves (t : Fin 64) (f : VuFields) (s : State) : Answers [.freeCtr, .regs, .tiles, .owlFifo, .fwEvents] s (execVtanh t f s) := by
  unfold execVtanh vuNext
  try dsimp only
  repeat' (first
    | with_reducible apply Answers.next
    | ((with_reducible apply Part.Sub.mk); rfl)
    | with_reducible apply Moves.refl
    | with_reducible assumption
    | with_reducible apply vuTr_moves
    | dsimp only)

theorem execVsigm_moves (t : Fin 64) (f : VuFields) (s : State) : Answers [.freeCtr, .regs, .tiles, .owlFifo, .fwEvents] s (execVsigm t f s) := by
  unfold execVsigm vuNext
  try dsimp only
  repeat' (first
    | with_reducible apply Answers.next
    | ((with_reducible apply Part.Sub.mk); rfl)
    | with_reducible apply Moves.refl
    | with_reducible assumption
    | with_reducible apply vuTr_moves
    | dsimp only)

theorem execViadd_moves (t : Fin 64) (f : VuFields) (s : State) : Answers [.regs, .tiles, .owlFifo, .fwEvents] s (execViadd t f s) := by
  unfold execViadd vuNext
  try dsimp only
  repeat' (first
    | with_reducible apply Answers.next
    | ((with_reducible apply Part.Sub.mk); rfl)
    | with_reducible apply Moves.refl
    | with_reducible assumption
    | with_reducible apply vuInt2_moves
    | dsimp only)

theorem execVisub_moves (t : Fin 64) (f : VuFields) (s : State) : Answers [.regs, .tiles, .owlFifo, .fwEvents] s (execVisub t f s) := by
  unfold execVisub vuNext
  try dsimp only
  repeat' (first
    | with_reducible apply Answers.next
    | ((with_reducible apply Part.Sub.mk); rfl)
    | with_reducible apply Moves.refl
    | with_reducible assumption
    | with_reducible apply vuInt2_moves
    | dsimp only)

theorem execVimul_moves (t : Fin 64) (f : VuFields) (s : State) : Answers [.regs, .tiles, .owlFifo, .fwEvents] s (execVimul t f s) := by
  unfold execVimul vuNext
  try dsimp only
  repeat' (first
    | with_reducible apply Answers.next
    | ((with_reducible apply Part.Sub.mk); rfl)
    | with_reducible apply Moves.refl
    | with_reducible assumption
    | with_reducible apply vuInt2_moves
    | dsimp only)

theorem execVand_moves (t : Fin 64) (f : VuFields) (s : State) : Answers [.regs, .tiles, .owlFifo, .fwEvents] s (execVand t f s) := by
  unfold execVand vuNext
  try dsimp only
  repeat' (first
    | with_reducible apply Answers.next
    | ((with_reducible apply Part.Sub.mk); rfl)
    | with_reducible apply Moves.refl
    | with_reducible assumption
    | with_reducible apply vuInt2_moves
    | dsimp only)

theorem execVor_moves (t : Fin 64) (f : VuFields) (s : State) : Answers [.regs, .tiles, .owlFifo, .fwEvents] s (execVor t f s) := by
  unfold execVor vuNext
  try dsimp only
  repeat' (first
    | with_reducible apply Answers.next
    | ((with_reducible apply Part.Sub.mk); rfl)
    | with_reducible apply Moves.refl
    | with_reducible assumption
    | with_reducible apply vuInt2_moves
    | dsimp only)

theorem execVxor_moves (t : Fin 64) (f : VuFields) (s : State) : Answers [.regs, .tiles, .owlFifo, .fwEvents] s (execVxor t f s) := by
  unfold execVxor vuNext
  try dsimp only
  repeat' (first
    | with_reducible apply Answers.next
    | ((with_reducible apply Part.Sub.mk); rfl)
    | with_reducible apply Moves.refl
    | with_reducible assumption
    | with_reducible apply vuInt2_moves
    | dsimp only)

theorem execVshl_moves (t : Fin 64) (f : VuFields) (s : State) : Answers [.regs, .tiles, .owlFifo, .fwEvents] s (execVshl t f s) := by
  unfold execVshl vuNext
  try dsimp only
  repeat' (first
    | with_reducible apply Answers.next
    | ((with_reducible apply Part.Sub.mk); rfl)
    | with_reducible apply Moves.refl
    | with_reducible assumption
    | with_reducible apply vuInt2_moves
    | intro _
    | dsimp only)

theorem execVshr_moves (t : Fin 64) (f : VuFields) (s : State) : Answers [.regs, .tiles, .owlFifo, .fwEvents] s (execVshr t f s) := by
  unfold execVshr vuNext
  try dsimp only
  repeat' (first
    | with_reducible apply Answers.next
    | ((with_reducible apply Part.Sub.mk); rfl)
    | with_reducible apply Moves.refl
    | with_reducible assumption
    | with_reducible apply vuInt2_moves
    | intro _
    | dsimp only)

theorem execVsra_moves (t : Fin 64) (f : VuFields) (s : State) : Answers [.regs, .tiles, .owlFifo, .fwEvents] s (execVsra t f s) := by
  unfold execVsra vuNext
  try dsimp only
  repeat' (first
    | with_reducible apply Answers.next
    | ((with_reducible apply Part.Sub.mk); rfl)
    | with_reducible apply Moves.refl
    | with_reducible assumption
    | with_reducible apply vuInt2_moves
    | intro _
    | dsimp only)

theorem execViota_moves (t : Fin 64) (f : VuFields) (s : State) : Answers [.regs, .tiles, .owlFifo, .fwEvents] s (execViota t f s) := by
  unfold execViota vuNext
  try dsimp only
  repeat' (first
    | with_reducible apply Answers.next
    | ((with_reducible apply Part.Sub.mk); rfl)
    | with_reducible apply Moves.refl
    | with_reducible assumption
    | with_reducible apply vuBits_moves
    | with_reducible apply vuIssue_moves
    | intro _
    | dsimp only)

theorem execVcmp_moves (t : Fin 64) (f : VuFields) (s : State) : Answers [.regs, .tiles, .owlFifo, .fwEvents] s (execVcmp t f s) := by
  unfold execVcmp vuNext
  try dsimp only
  repeat' (first
    | with_reducible apply Answers.next
    | with_reducible apply Answers.ite
    | ((with_reducible apply Part.Sub.mk); rfl)
    | with_reducible apply VuMoves.fault
    | with_reducible apply VuMoves.ite
    | with_reducible apply Moves.refl
    | with_reducible assumption
    | with_reducible apply vuCompare_moves
    | with_reducible apply vuCnv_moves
    | with_reducible apply vuIssue_moves
    | with_reducible apply Moves.ite
    | with_reducible apply Moves.ite_fst
    | with_reducible apply Moves.ite_snd
    | intro _
    | split
    | dsimp only)

theorem execVicmp_moves (t : Fin 64) (f : VuFields) (s : State) : Answers [.regs, .tiles, .owlFifo, .fwEvents] s (execVicmp t f s) := by
  unfold execVicmp vuNext
  try dsimp only
  repeat' (first
    | with_reducible apply Answers.next
    | with_reducible apply Answers.ite
    | ((with_reducible apply Part.Sub.mk); rfl)
    | with_reducible apply VuMoves.fault
    | with_reducible apply VuMoves.ite
    | with_reducible apply Moves.refl
    | with_reducible assumption
    | with_reducible apply vuCompare_moves
    | with_reducible apply vuIssue_moves
    | with_reducible apply Moves.ite
    | with_reducible apply Moves.ite_fst
    | with_reducible apply Moves.ite_snd
    | intro _
    | split
    | dsimp only)

theorem execVsel_moves (t : Fin 64) (f : VuFields) (s : State) : Answers [.regs, .tiles, .owlFifo, .fwEvents] s (execVsel t f s) := by
  unfold execVsel vuNext
  try dsimp only
  repeat' (first
    | with_reducible apply Answers.next
    | with_reducible apply Answers.ite
    | ((with_reducible apply Part.Sub.mk); rfl)
    | with_reducible apply VuMoves.ite
    | with_reducible apply Moves.refl
    | with_reducible assumption
    | with_reducible apply vuBits_moves
    | with_reducible apply vuIssue_moves
    | with_reducible apply Moves.ite
    | intro _
    | split
    | dsimp only)

theorem execPand_moves (t : Fin 64) (f : VuFields) (s : State) : Answers [.regs, .tiles, .owlFifo, .fwEvents] s (execPand t f s) := by
  unfold execPand vuNext
  try dsimp only
  repeat' (first
    | with_reducible apply Answers.next
    | ((with_reducible apply Part.Sub.mk); rfl)
    | with_reducible apply Moves.refl
    | with_reducible assumption
    | with_reducible apply vuPred_moves
    | dsimp only)

theorem execPor_moves (t : Fin 64) (f : VuFields) (s : State) : Answers [.regs, .tiles, .owlFifo, .fwEvents] s (execPor t f s) := by
  unfold execPor vuNext
  try dsimp only
  repeat' (first
    | with_reducible apply Answers.next
    | ((with_reducible apply Part.Sub.mk); rfl)
    | with_reducible apply Moves.refl
    | with_reducible assumption
    | with_reducible apply vuPred_moves
    | dsimp only)

theorem execPxor_moves (t : Fin 64) (f : VuFields) (s : State) : Answers [.regs, .tiles, .owlFifo, .fwEvents] s (execPxor t f s) := by
  unfold execPxor vuNext
  try dsimp only
  repeat' (first
    | with_reducible apply Answers.next
    | ((with_reducible apply Part.Sub.mk); rfl)
    | with_reducible apply Moves.refl
    | with_reducible assumption
    | with_reducible apply vuPred_moves
    | dsimp only)

theorem execPnot_moves (t : Fin 64) (f : VuFields) (s : State) : Answers [.regs, .tiles, .owlFifo, .fwEvents] s (execPnot t f s) := by
  unfold execPnot vuNext
  try dsimp only
  repeat' (first
    | with_reducible apply Answers.next
    | ((with_reducible apply Part.Sub.mk); rfl)
    | with_reducible apply Moves.refl
    | with_reducible assumption
    | with_reducible apply vuPred_moves
    | intro _
    | dsimp only)

theorem execPcnt_moves (t : Fin 64) (f : VuFields) (s : State) : Answers [.regs, .tiles, .owlFifo, .fwEvents] s (execPcnt t f s) := by
  unfold execPcnt vuNext
  try dsimp only
  repeat' (first
    | with_reducible apply Answers.next
    | ((with_reducible apply Part.Sub.mk); rfl)
    | with_reducible apply Moves.refl
    | with_reducible assumption
    | with_reducible apply vuDone_moves
    | with_reducible apply vuIssue_moves
    | intro _
    | dsimp only)

theorem execSmovi_moves (t : Fin 64) (f : VuFields) (s : State) : Answers [.regs, .tiles, .owlFifo, .fwEvents] s (execSmovi t f s) := by
  unfold execSmovi vuNext
  try dsimp only
  repeat' (first
    | with_reducible apply Answers.next
    | ((with_reducible apply Part.Sub.mk); rfl)
    | with_reducible apply Moves.refl
    | with_reducible assumption
    | with_reducible apply vuDone_moves
    | with_reducible apply vuIssue_moves
    | intro _
    | dsimp only)

theorem execSadd_moves (t : Fin 64) (f : VuFields) (s : State) : Answers [.regs, .tiles, .owlFifo, .fwEvents] s (execSadd t f s) := by
  unfold execSadd vuNext
  try dsimp only
  repeat' (first
    | with_reducible apply Answers.next
    | ((with_reducible apply Part.Sub.mk); rfl)
    | with_reducible apply Moves.refl
    | with_reducible assumption
    | with_reducible apply vuScalar_moves
    | with_reducible apply vuIssue_moves
    | intro _
    | dsimp only)

theorem execSsub_moves (t : Fin 64) (f : VuFields) (s : State) : Answers [.regs, .tiles, .owlFifo, .fwEvents] s (execSsub t f s) := by
  unfold execSsub vuNext
  try dsimp only
  repeat' (first
    | with_reducible apply Answers.next
    | ((with_reducible apply Part.Sub.mk); rfl)
    | with_reducible apply Moves.refl
    | with_reducible assumption
    | with_reducible apply vuScalar_moves
    | with_reducible apply vuIssue_moves
    | intro _
    | dsimp only)

theorem execSmul_moves (t : Fin 64) (f : VuFields) (s : State) : Answers [.regs, .tiles, .owlFifo, .fwEvents] s (execSmul t f s) := by
  unfold execSmul vuNext
  try dsimp only
  repeat' (first
    | with_reducible apply Answers.next
    | ((with_reducible apply Part.Sub.mk); rfl)
    | with_reducible apply Moves.refl
    | with_reducible assumption
    | with_reducible apply vuScalar_moves
    | with_reducible apply vuIssue_moves
    | intro _
    | dsimp only)

theorem execSlt_moves (t : Fin 64) (f : VuFields) (s : State) : Answers [.regs, .tiles, .owlFifo, .fwEvents] s (execSlt t f s) := by
  unfold execSlt vuNext
  try dsimp only
  repeat' (first
    | with_reducible apply Answers.next
    | with_reducible apply Answers.ite
    | ((with_reducible apply Part.Sub.mk); rfl)
    | with_reducible apply VuMoves.ite
    | with_reducible apply Moves.refl
    | with_reducible assumption
    | with_reducible apply vuScalar_moves
    | with_reducible apply vuIssue_moves
    | with_reducible apply Moves.ite
    | intro _
    | split
    | dsimp only)

theorem execVext_moves (t : Fin 64) (f : VuFields) (s : State) : Answers [.regs, .tiles, .owlFifo, .fwEvents] s (execVext t f s) := by
  unfold execVext vuNext
  try dsimp only
  repeat' (first
    | with_reducible apply Answers.next
    | ((with_reducible apply Part.Sub.mk); rfl)
    | with_reducible apply Moves.refl
    | with_reducible assumption
    | with_reducible apply vuDone_moves
    | with_reducible apply vuIssue_moves
    | intro _
    | dsimp only)

end Sys2Proof.Machine
end

