-- ==== Sys2Proof/Laws/Exec/VuCore.lean ====
section
/-! SUPPORT. What the commands of Machine/VuCore.lean touch. -/

namespace Sys2Proof.Machine

theorem execVdisp_moves (t : Fin 64) (o : VdispOp) (s : State) : Answers [.regs, .tiles, .owlFifo, .fwEvents] s (execVdisp t o s) := by
  unfold execVdisp
  try dsimp only
  repeat' (first
    | with_reducible apply Answers.next
    | ((with_reducible apply Part.Sub.mk); rfl)
    | with_reducible apply Moves.refl
    | with_reducible assumption
    | with_reducible apply enqueue_moves
    | dsimp only)

end Sys2Proof.Machine
end

