-- ==== Sys2Proof/Laws/Exec/VuVec.lean ====
section
/-! SUPPORT. What the commands of Machine/VuVec.lean touch. -/

namespace Sys2Proof.Machine

theorem execVcvt_moves (t : Fin 64) (f : VuFields) (s : State) : Answers [.regs, .tiles, .owlFifo, .fwEvents] s (execVcvt t f s) := by
  unfold execVcvt vuNext
  try dsimp only
  repeat' (first
    | with_reducible apply Answers.next
    | ((with_reducible apply Part.Sub.mk); rfl)
    | with_reducible apply Moves.refl
    | with_reducible assumption
    | with_reducible apply vcvt_moves
    | with_reducible apply vuIssue_moves
    | intro _
    | dsimp only)

theorem execVdcvt_moves (t : Fin 64) (f : VuFields) (s : State) : Answers [.regs, .tiles, .owlFifo, .fwEvents] s (execVdcvt t f s) := by
  unfold execVdcvt vuNext
  try dsimp only
  repeat' (first
    | with_reducible apply Answers.next
    | ((with_reducible apply Part.Sub.mk); rfl)
    | with_reducible apply Moves.refl
    | with_reducible assumption
    | with_reducible apply vdcvt_moves
    | with_reducible apply vuIssue_moves
    | intro _
    | dsimp only)

theorem execVld_moves (t : Fin 64) (f : VuFields) (bad : List Nat) (s : State) : Answers [.regs, .tiles, .owlFifo, .taints, .suspects, .fwEvents] s (execVld t f bad s) := by
  unfold execVld vuNext
  try dsimp only
  repeat' (first
    | with_reducible apply Answers.next
    | ((with_reducible apply Part.Sub.mk); rfl)
    | with_reducible apply Moves.refl
    | with_reducible assumption
    | with_reducible apply vuAccess_moves
    | with_reducible apply vuDone_moves
    | with_reducible apply vuIssue_moves
    | with_reducible apply poisonRead_moves
    | intro _
    | dsimp only)

theorem execVst_moves (t : Fin 64) (f : VuFields) (s : State) : Answers [.regs, .tiles, .owlFifo, .fwEvents] s (execVst t f s) := by
  unfold execVst vuNext
  try dsimp only
  repeat' (first
    | with_reducible apply Answers.next
    | with_reducible apply Answers.ite
    | ((with_reducible apply Part.Sub.mk); rfl)
    | with_reducible apply VuMoves.done
    | with_reducible apply VuMoves.ite
    | with_reducible apply Moves.refl
    | with_reducible assumption
    | with_reducible apply vuStoreRuns_moves
    | with_reducible apply vuAccess_moves
    | with_reducible apply vuIssue_moves
    | with_reducible apply aliasRefuse_moves
    | with_reducible apply Moves.ite
    | intro _
    | split
    | dsimp only)

theorem execVldp_moves (t : Fin 64) (f : VuFields) (bad : List Nat) (s : State) : Answers [.regs, .tiles, .owlFifo, .taints, .suspects, .fwEvents] s (execVldp t f bad s) := by
  unfold execVldp vuNext
  try dsimp only
  repeat' (first
    | with_reducible apply Answers.next
    | ((with_reducible apply Part.Sub.mk); rfl)
    | with_reducible apply Moves.refl
    | with_reducible assumption
    | with_reducible apply vuAccess_moves
    | with_reducible apply vuDone_moves
    | with_reducible apply vuIssue_moves
    | with_reducible apply poisonRead_moves
    | intro _
    | dsimp only)

theorem execVstp_moves (t : Fin 64) (f : VuFields) (s : State) : Answers [.regs, .tiles, .owlFifo, .fwEvents] s (execVstp t f s) := by
  unfold execVstp vuNext
  try dsimp only
  repeat' (first
    | with_reducible apply Answers.next
    | ((with_reducible apply Part.Sub.mk); rfl)
    | with_reducible apply VuMoves.done
    | with_reducible apply Moves.refl
    | with_reducible assumption
    | with_reducible apply vuAccess_moves
    | with_reducible apply vuIssue_moves
    | with_reducible apply settWrite_moves
    | intro _
    | dsimp only)

theorem execVgather_moves (t : Fin 64) (f : VuFields) (bad : List Nat) (s : State) : Answers [.regs, .tiles, .owlFifo, .taints, .suspects, .fwEvents] s (execVgather t f bad s) := by
  unfold execVgather vuNext
  with_reducible apply Answers.next
  with_reducible apply vuIssue_moves
  · exact Moves.refl _ _
  · exact ⟨rfl⟩
  · intro n v x h
    dsimp only
    generalize laneAddrs v f = l
    refine lanesAccess_moves x n l _ h ?_ ?_
    · exact ⟨rfl⟩
    · with_reducible apply vuDone_moves
      · exact poisonRead_moves _ _ _ _ h ⟨rfl⟩
      · exact ⟨rfl⟩

theorem execVscatter_moves (t : Fin 64) (f : VuFields) (s : State) : Answers [.regs, .tiles, .owlFifo, .fwEvents] s (execVscatter t f s) := by
  unfold execVscatter vuNext
  with_reducible apply Answers.next
  with_reducible apply vuIssue_moves
  · exact Moves.refl _ _
  · exact ⟨rfl⟩
  · intro n v x h
    dsimp only
    generalize laneAddrs v f = l
    refine lanesAccess_moves x n l _ h ?_ ?_
    · exact ⟨rfl⟩
    · exact VuMoves.done (Moves.foldl h fun _ _ h => settWrite_moves _ _ _ _ h ⟨rfl⟩)

theorem execSld_moves (t : Fin 64) (f : VuFields) (bad : List Nat) (s : State) : Answers [.regs, .tiles, .owlFifo, .taints, .suspects, .fwEvents] s (execSld t f bad s) := by
  unfold execSld vuNext
  try dsimp only
  repeat' (first
    | with_reducible apply Answers.next
    | ((with_reducible apply Part.Sub.mk); rfl)
    | with_reducible apply Moves.refl
    | with_reducible assumption
    | with_reducible apply vuAccess_moves
    | with_reducible apply vuDone_moves
    | with_reducible apply vuIssue_moves
    | with_reducible apply poisonRead_moves
    | intro _
    | dsimp only)

theorem execSst_moves (t : Fin 64) (f : VuFields) (s : State) : Answers [.regs, .tiles, .owlFifo, .fwEvents] s (execSst t f s) := by
  unfold execSst vuNext
  try dsimp only
  repeat' (first
    | with_reducible apply Answers.next
    | ((with_reducible apply Part.Sub.mk); rfl)
    | with_reducible apply VuMoves.done
    | with_reducible apply Moves.refl
    | with_reducible assumption
    | with_reducible apply vuAccess_moves
    | with_reducible apply vuIssue_moves
    | with_reducible apply settWrite_moves
    | intro _
    | dsimp only)

theorem execVrsum_moves (t : Fin 64) (f : VuFields) (s : State) : Answers [.regs, .tiles, .owlFifo, .fwEvents] s (execVrsum t f s) := by
  unfold execVrsum vuNext
  try dsimp only
  repeat' (first
    | with_reducible apply Answers.next
    | with_reducible apply Answers.ite
    | ((with_reducible apply Part.Sub.mk); rfl)
    | with_reducible apply VuMoves.ite
    | with_reducible apply Moves.refl
    | with_reducible assumption
    | with_reducible apply vuCnv_moves
    | with_reducible apply vuDone_moves
    | with_reducible apply vuIssue_moves
    | with_reducible apply Moves.ite
    | with_reducible apply Moves.ite_fst
    | with_reducible apply Moves.ite_snd
    | intro _
    | split
    | dsimp only)

theorem execVrmax_moves (t : Fin 64) (f : VuFields) (s : State) : Answers [.freeCtr, .regs, .tiles, .owlFifo, .fwEvents] s (execVrmax t f s) := by
  unfold execVrmax vuNext
  try dsimp only
  repeat' (first
    | with_reducible apply Answers.next
    | ((with_reducible apply Part.Sub.mk); rfl)
    | with_reducible apply Moves.refl
    | with_reducible assumption
    | with_reducible apply vuRedMax_moves
    | with_reducible apply vuIssue_moves
    | intro _
    | dsimp only)

theorem execVrmin_moves (t : Fin 64) (f : VuFields) (s : State) : Answers [.freeCtr, .regs, .tiles, .owlFifo, .fwEvents] s (execVrmin t f s) := by
  unfold execVrmin vuNext
  try dsimp only
  repeat' (first
    | with_reducible apply Answers.next
    | ((with_reducible apply Part.Sub.mk); rfl)
    | with_reducible apply Moves.refl
    | with_reducible assumption
    | with_reducible apply vuRedMax_moves
    | with_reducible apply vuIssue_moves
    | intro _
    | dsimp only)

theorem execVrargmax_moves (t : Fin 64) (f : VuFields) (s : State) : Answers [.regs, .tiles, .owlFifo, .fwEvents] s (execVrargmax t f s) := by
  unfold execVrargmax vuNext
  try dsimp only
  repeat' (first
    | with_reducible apply Answers.next
    | ((with_reducible apply Part.Sub.mk); rfl)
    | with_reducible apply Moves.refl
    | with_reducible assumption
    | with_reducible apply vuCnv_moves
    | with_reducible apply vuDone_moves
    | with_reducible apply vuIssue_moves
    | intro _
    | split
    | dsimp only)

theorem execVscan_moves (t : Fin 64) (f : VuFields) (s : State) : Answers [.regs, .tiles, .owlFifo, .fwEvents] s (execVscan t f s) := by
  unfold execVscan vuNext
  try dsimp only
  repeat' (first
    | with_reducible apply Answers.next
    | with_reducible apply Answers.ite
    | ((with_reducible apply Part.Sub.mk); rfl)
    | with_reducible apply VuMoves.ite
    | with_reducible apply Moves.refl
    | with_reducible assumption
    | with_reducible apply vuCnv_moves
    | with_reducible apply vuDone_moves
    | with_reducible apply vuIssue_moves
    | with_reducible apply Moves.ite
    | with_reducible apply Moves.ite_fst
    | with_reducible apply Moves.ite_snd
    | intro _
    | split
    | dsimp only)

theorem execVrisum_moves (t : Fin 64) (f : VuFields) (s : State) : Answers [.regs, .tiles, .owlFifo, .fwEvents] s (execVrisum t f s) := by
  unfold execVrisum vuNext
  try dsimp only
  repeat' (first
    | with_reducible apply Answers.next
    | with_reducible apply Answers.ite
    | ((with_reducible apply Part.Sub.mk); rfl)
    | with_reducible apply VuMoves.ite
    | with_reducible apply Moves.refl
    | with_reducible assumption
    | with_reducible apply vuDone_moves
    | with_reducible apply vuIssue_moves
    | with_reducible apply Moves.ite
    | with_reducible apply Moves.foldl
    | with_reducible apply Moves.ite_fst
    | with_reducible apply Moves.ite_snd
    | with_reducible apply Moves.foldl_fst
    | with_reducible apply Moves.foldl_snd
    | intro _
    | split
    | dsimp only)

theorem execVcx_moves (t : Fin 64) (f : VuFields) (s : State) : Answers [.regs, .tiles, .owlFifo, .fwEvents] s (execVcx t f s) := by
  unfold execVcx vuNext
  try dsimp only
  repeat' (first
    | with_reducible apply Answers.next
    | with_reducible apply Answers.ite
    | ((with_reducible apply Part.Sub.mk); rfl)
    | with_reducible apply VuMoves.fault
    | with_reducible apply VuMoves.ite
    | with_reducible apply Moves.refl
    | with_reducible assumption
    | with_reducible apply vuCnv_moves
    | with_reducible apply vuDone_moves
    | with_reducible apply vuIssue_moves
    | with_reducible apply Moves.ite
    | intro _
    | split
    | dsimp only)

theorem execVcxr_moves (t : Fin 64) (f : VuFields) (s : State) : Answers [.regs, .tiles, .owlFifo, .fwEvents] s (execVcxr t f s) := by
  unfold execVcxr vuNext
  try dsimp only
  repeat' (first
    | with_reducible apply Answers.next
    | with_reducible apply Answers.ite
    | ((with_reducible apply Part.Sub.mk); rfl)
    | with_reducible apply VuMoves.ite
    | with_reducible apply Moves.refl
    | with_reducible assumption
    | with_reducible apply vuCnv_moves
    | with_reducible apply vuDone_moves
    | with_reducible apply vuIssue_moves
    | with_reducible apply Moves.ite
    | with_reducible apply Moves.ite_fst
    | with_reducible apply Moves.ite_snd
    | intro _
    | split
    | dsimp only)

theorem execVrnd_moves (t : Fin 64) (f : VuFields) (s : State) : Answers [.regs, .tiles, .owlFifo, .fwEvents] s (execVrnd t f s) := by
  unfold execVrnd vuNext
  try dsimp only
  repeat' (first
    | with_reducible apply Answers.next
    | ((with_reducible apply Part.Sub.mk); rfl)
    | with_reducible apply Moves.refl
    | with_reducible assumption
    | with_reducible apply vuDraw_moves
    | with_reducible apply vuIssue_moves
    | intro _
    | dsimp only)

theorem execVrndu_moves (t : Fin 64) (f : VuFields) (s : State) : Answers [.regs, .tiles, .owlFifo, .fwEvents] s (execVrndu t f s) := by
  unfold execVrndu vuNext
  try dsimp only
  repeat' (first
    | with_reducible apply Answers.next
    | ((with_reducible apply Part.Sub.mk); rfl)
    | with_reducible apply Moves.refl
    | with_reducible assumption
    | with_reducible apply vuDraw_moves
    | with_reducible apply vuIssue_moves
    | intro _
    | dsimp only)

theorem execRseed_moves (t : Fin 64) (f : VuFields) (s : State) : Answers [.regs, .tiles, .owlFifo, .fwEvents] s (execRseed t f s) := by
  unfold execRseed vuNext
  try dsimp only
  repeat' (first
    | with_reducible apply Answers.next
    | ((with_reducible apply Part.Sub.mk); rfl)
    | with_reducible apply VuMoves.done
    | with_reducible apply Moves.refl
    | with_reducible assumption
    | with_reducible apply vuIssue_moves
    | with_reducible apply reseed_moves
    | intro _
    | dsimp only)

theorem execVuRngSeedWrite_moves (t : Fin 64) (seed : BitVec 64) (s : State) : Answers [.regs, .tiles] s (execVuRngSeedWrite t seed s) := by
  unfold execVuRngSeedWrite
  try dsimp only
  repeat' (first
    | with_reducible apply Answers.next
    | with_reducible apply Answers.ite
    | ((with_reducible apply Part.Sub.mk); rfl)
    | with_reducible apply Moves.refl
    | with_reducible assumption
    | with_reducible apply writeSeed_moves
    | with_reducible apply Moves.ite
    | intro _
    | split
    | dsimp only)

theorem execLoop_moves (t : Fin 64) (f : VuFields) (s : State) : Answers [.regs, .tiles, .owlFifo, .fwEvents] s (execLoop t f s) := by
  unfold execLoop vuNext
  try dsimp only
  repeat' (first
    | with_reducible apply Answers.next
    | with_reducible apply Answers.ite
    | ((with_reducible apply Part.Sub.mk); rfl)
    | with_reducible apply VuMoves.goto
    | with_reducible apply VuMoves.fault
    | with_reducible apply VuMoves.ite
    | with_reducible apply Moves.refl
    | with_reducible assumption
    | with_reducible apply vuIssue_moves
    | with_reducible apply modVu_moves
    | with_reducible apply Moves.ite
    | intro _
    | split
    | dsimp only)

theorem execBnz_moves (t : Fin 64) (f : VuFields) (s : State) : Answers [.regs, .tiles, .owlFifo, .fwEvents] s (execBnz t f s) := by
  unfold execBnz vuNext
  try dsimp only
  repeat' (first
    | with_reducible apply Answers.next
    | ((with_reducible apply Part.Sub.mk); rfl)
    | with_reducible apply Moves.refl
    | with_reducible assumption
    | with_reducible apply vuBranch_moves
    | with_reducible apply vuIssue_moves
    | intro _
    | dsimp only)

theorem execBz_moves (t : Fin 64) (f : VuFields) (s : State) : Answers [.regs, .tiles, .owlFifo, .fwEvents] s (execBz t f s) := by
  unfold execBz vuNext
  try dsimp only
  repeat' (first
    | with_reducible apply Answers.next
    | ((with_reducible apply Part.Sub.mk); rfl)
    | with_reducible apply Moves.refl
    | with_reducible assumption
    | with_reducible apply vuBranch_moves
    | with_reducible apply vuIssue_moves
    | intro _
    | dsimp only)

theorem execVuEnd_moves (t : Fin 64) (f : VuFields) (s : State) : Answers [.regs, .tiles, .owlFifo, .fwEvents, .out, .mbx, .mbxRun, .msixPend] s (execVuEnd t f s) := by
  unfold execVuEnd vuNext
  try dsimp only
  repeat' (first
    | with_reducible apply Answers.next
    | ((with_reducible apply Part.Sub.mk); rfl)
    | with_reducible apply VuMoves.finish
    | with_reducible apply Moves.refl
    | with_reducible assumption
    | with_reducible apply finish_moves
    | with_reducible apply vuIssue_moves
    | intro _
    | dsimp only)

theorem execVuWatchdog_moves (t : Fin 64) (s : State) : Answers [.regs, .tiles, .owlFifo, .fwEvents] s (execVuWatchdog t s) := by
  unfold execVuWatchdog
  try dsimp only
  repeat' (first
    | with_reducible apply Answers.next
    | with_reducible apply Answers.ite
    | ((with_reducible apply Part.Sub.mk); rfl)
    | with_reducible apply Moves.refl
    | with_reducible assumption
    | with_reducible apply vuFault_moves
    | with_reducible apply Moves.ite
    | intro _
    | split
    | dsimp only)

end Sys2Proof.Machine
end

