-- ==== Sys2Proof/Laws/PerInstr.lean ====
section
/-! SUPPORT. What holds of every command as syntax: no command is listed to change the queue of commands that wait. -/

namespace Sys2Proof.Laws.KeepsQueue

/-- The queue of waiting commands is not among the parts of the state that the command can change. -/
def Statement (i : Instr) : Prop := i.touches.contains Machine.Part.pending = false

theorem registerWrite (hub : Bool) (off : Nat) (len : Nat) (v : Word) : Statement (.registerWrite hub off len v) := rfl
theorem reg64LowRead (hub : Bool) (off : Nat) (len : Nat) : Statement (.reg64LowRead hub off len) := rfl
theorem reg64HighRead (hub : Bool) (off : Nat) (len : Nat) : Statement (.reg64HighRead hub off len) := rfl
theorem commandFetch (t : Fin 64) (bad : Fin 4) (par : Fin 10) : Statement (.commandFetch t bad par) := rfl
theorem commandComplete (t : Fin 64) (unit : Fin 7) (res : List (Nat × Nat)) (bad : List Nat) : Statement (.commandComplete t unit res bad) := rfl
theorem nop (t : Fin 64) : Statement (.nop t) := rfl
theorem mark (t : Fin 64) (o : MarkOp) : Statement (.mark t o) := rfl
theorem launch (t : Fin 64) (o : LaunchOp) : Statement (.launch t o) := rfl
theorem fence (t : Fin 64) (units : Nat) : Statement (.fence t units) := rfl
theorem signal (t : Fin 64) (o : SignalOp) : Statement (.signal t o) := rfl
theorem signalArrive (t : Fin 64) : Statement (.signalArrive t) := rfl
theorem wait (t : Fin 64) (o : WaitOp) : Statement (.wait t o) := rfl
theorem sigclr (t : Fin 64) (ctr : Nat) : Statement (.sigclr t ctr) := rfl
theorem setver (t : Fin 64) (o : SetverOp) : Statement (.setver t o) := rfl
theorem settown (t : Fin 64) (o : SettownOp) : Statement (.settown t o) := rfl
theorem pwrite (t : Fin 64) (o : PwriteOp) : Statement (.pwrite t o) := rfl
theorem swap (t : Fin 64) (mask : Nat) : Statement (.swap t mask) := rfl
theorem fire (t : Fin 64) (o : FireOp) : Statement (.fire t o) := rfl
theorem tfire (t : Fin 64) (o : FireOp) : Statement (.tfire t o) := rfl
theorem flush (t : Fin 64) (o : FlushOp) : Statement (.flush t o) := rfl
theorem dmeop (t : Fin 64) (o : DmeOp) : Statement (.dmeop t o) := rfl
theorem vdisp (t : Fin 64) (o : VdispOp) : Statement (.vdisp t o) := rfl
theorem kload (t : Fin 64) (o : KloadOp) : Statement (.kload t o) := rfl
theorem load (t : Fin 64) (o : LoadOp) : Statement (.load t o) := rfl
theorem store (t : Fin 64) (o : StoreOp) : Statement (.store t o) := rfl
theorem wgclr (t : Fin 64) (o : WgclrOp) : Statement (.wgclr t o) := rfl
theorem wgflush (t : Fin 64) (o : WgflushOp) : Statement (.wgflush t o) := rfl
theorem xclose (t : Fin 64) (o : XcloseOp) : Statement (.xclose t o) := rfl
theorem missue (t : Fin 64) (bucket : Nat) : Statement (.missue t bucket) := rfl
theorem grpupd (t : Fin 64) (o : GrpupdOp) : Statement (.grpupd t o) := rfl
theorem seqResume (t : Fin 64) : Statement (.seqResume t) := rfl
theorem seqSkip (t : Fin 64) : Statement (.seqSkip t) := rfl
theorem seqRun (t : Fin 64) (run : Bool) : Statement (.seqRun t run) := rfl
theorem seqLong (t : Fin 64) (no : Option Nat) : Statement (.seqLong t no) := rfl
theorem planeStaged (t : Fin 64) (a : Fin 16) : Statement (.planeStaged t a) := rfl
theorem planeWriteDone (t : Fin 64) (a : Fin 16) : Statement (.planeWriteDone t a) := rfl
theorem swapExecute (t : Fin 64) (a : Fin 16) : Statement (.swapExecute t a) := rfl
theorem launchGrant : Statement .launchGrant := rfl
theorem passConvert (t : Fin 64) (mask : Nat) : Statement (.passConvert t mask) := rfl
theorem foxWorkDone (t : Fin 64) (a : Fin 16) : Statement (.foxWorkDone t a) := rfl
theorem blockWindowClose (t : Fin 64) (b : Fin 256) : Statement (.blockWindowClose t b) := rfl
theorem foxWindowClose (t : Fin 64) : Statement (.foxWindowClose t) := rfl
theorem checkBarrierEnd (t : Fin 64) : Statement (.checkBarrierEnd t) := rfl
theorem rewind (t : Fin 64) : Statement (.rewind t) := rfl
theorem holdClr (t : Fin 64) : Statement (.holdClr t) := rfl
theorem arrCtrlWide (t : Fin 64) (a : Fin 16) (v : Option Bool) : Statement (.arrCtrlWide t a v) := rfl
theorem planeRefreshRequest (t : Fin 64) (a : Fin 16) (b : Bool) : Statement (.planeRefreshRequest t a b) := rfl
theorem refreshLate (t : Fin 64) (a : Fin 16) (b : Bool) : Statement (.refreshLate t a b) := rfl
theorem planeExpire (t : Fin 64) (a : Fin 16) (b : Bool) : Statement (.planeExpire t a b) := rfl
theorem calStart (t : Fin 64) : Statement (.calStart t) := rfl
theorem calCommit (t : Fin 64) : Statement (.calCommit t) := rfl
theorem calAbort (t : Fin 64) : Statement (.calAbort t) := rfl
theorem calAgeTrigger (t : Fin 64) : Statement (.calAgeTrigger t) := rfl
theorem subWindowClose (t : Fin 64) : Statement (.subWindowClose t) := rfl
theorem calProduct (t : Fin 64) : Statement (.calProduct t) := rfl
theorem measurementEnd (t : Fin 64) : Statement (.measurementEnd t) := rfl
theorem trimCommitApply (t : Fin 64) : Statement (.trimCommitApply t) := rfl
theorem calRemap (t : Fin 64) (a : Fin 16) (k : Fin 8) (valid : Bool) (col : Fin 512) : Statement (.calRemap t a k valid col) := rfl
theorem remapRfsh (t : Fin 64) (a : Fin 16) : Statement (.remapRfsh t a) := rfl
theorem trimFlashWriteback : Statement .trimFlashWriteback := rfl
theorem settHandover (t : Fin 64) (b : Fin 48) (w : Word) : Statement (.settHandover t b w) := rfl
theorem handoverComplete (t : Fin 64) (b : Fin 48) (p : Fin 2) : Statement (.handoverComplete t b p) := rfl
theorem ownTimeout (t : Fin 64) (unit : Fin 16) : Statement (.ownTimeout t unit) := rfl
theorem hostSettAccess (t : Fin 64) (off : Nat) (len : Nat) (data : Option (List Byte)) (coll : Bool) : Statement (.hostSettAccess t off len data coll) := rfl
theorem wgbAdd (t : Fin 64) (vuAdds : List (Nat × Word)) : Statement (.wgbAdd t vuAdds) := rfl
theorem vuNop (t : Fin 64) (f : VuFields) : Statement (.vuNop t f) := rfl
theorem vadd (t : Fin 64) (f : VuFields) : Statement (.vadd t f) := rfl
theorem vsub (t : Fin 64) (f : VuFields) : Statement (.vsub t f) := rfl
theorem vmul (t : Fin 64) (f : VuFields) : Statement (.vmul t f) := rfl
theorem vfma (t : Fin 64) (f : VuFields) : Statement (.vfma t f) := rfl
theorem vmax (t : Fin 64) (f : VuFields) : Statement (.vmax t f) := rfl
theorem vmin (t : Fin 64) (f : VuFields) : Statement (.vmin t f) := rfl
theorem vabs (t : Fin 64) (f : VuFields) : Statement (.vabs t f) := rfl
theorem vneg (t : Fin 64) (f : VuFields) : Statement (.vneg t f) := rfl
theorem vmov (t : Fin 64) (f : VuFields) : Statement (.vmov t f) := rfl
theorem vmovi (t : Fin 64) (f : VuFields) : Statement (.vmovi t f) := rfl
theorem vexp2 (t : Fin 64) (f : VuFields) : Statement (.vexp2 t f) := rfl
theorem vlog2 (t : Fin 64) (f : VuFields) : Statement (.vlog2 t f) := rfl
theorem vrcp (t : Fin 64) (f : VuFields) : Statement (.vrcp t f) := rfl
theorem vrsqrt (t : Fin 64) (f : VuFields) : Statement (.vrsqrt t f) := rfl
theorem vexp (t : Fin 64) (f : VuFields) : Statement (.vexp t f) := rfl
theorem vtanh (t : Fin 64) (f : VuFields) : Statement (.vtanh t f) := rfl
theorem vsigm (t : Fin 64) (f : VuFields) : Statement (.vsigm t f) := rfl
theorem viadd (t : Fin 64) (f : VuFields) : Statement (.viadd t f) := rfl
theorem visub (t : Fin 64) (f : VuFields) : Statement (.visub t f) := rfl
theorem vimul (t : Fin 64) (f : VuFields) : Statement (.vimul t f) := rfl
theorem vand (t : Fin 64) (f : VuFields) : Statement (.vand t f) := rfl
theorem vor (t : Fin 64) (f : VuFields) : Statement (.vor t f) := rfl
theorem vxor (t : Fin 64) (f : VuFields) : Statement (.vxor t f) := rfl
theorem vshl (t : Fin 64) (f : VuFields) : Statement (.vshl t f) := rfl
theorem vshr (t : Fin 64) (f : VuFields) : Statement (.vshr t f) := rfl
theorem vsra (t : Fin 64) (f : VuFields) : Statement (.vsra t f) := rfl
theorem viota (t : Fin 64) (f : VuFields) : Statement (.viota t f) := rfl
theorem vcmp (t : Fin 64) (f : VuFields) : Statement (.vcmp t f) := rfl
theorem vicmp (t : Fin 64) (f : VuFields) : Statement (.vicmp t f) := rfl
theorem vsel (t : Fin 64) (f : VuFields) : Statement (.vsel t f) := rfl
theorem pand (t : Fin 64) (f : VuFields) : Statement (.pand t f) := rfl
theorem por (t : Fin 64) (f : VuFields) : Statement (.por t f) := rfl
theorem pxor (t : Fin 64) (f : VuFields) : Statement (.pxor t f) := rfl
theorem pnot (t : Fin 64) (f : VuFields) : Statement (.pnot t f) := rfl
theorem pcnt (t : Fin 64) (f : VuFields) : Statement (.pcnt t f) := rfl
theorem vcvt (t : Fin 64) (f : VuFields) : Statement (.vcvt t f) := rfl
theorem vdcvt (t : Fin 64) (f : VuFields) : Statement (.vdcvt t f) := rfl
theorem vld (t : Fin 64) (f : VuFields) (bad : List Nat) : Statement (.vld t f bad) := rfl
theorem vst (t : Fin 64) (f : VuFields) : Statement (.vst t f) := rfl
theorem vldp (t : Fin 64) (f : VuFields) (bad : List Nat) : Statement (.vldp t f bad) := rfl
theorem vstp (t : Fin 64) (f : VuFields) : Statement (.vstp t f) := rfl
theorem vgather (t : Fin 64) (f : VuFields) (bad : List Nat) : Statement (.vgather t f bad) := rfl
theorem vscatter (t : Fin 64) (f : VuFields) : Statement (.vscatter t f) := rfl
theorem vrsum (t : Fin 64) (f : VuFields) : Statement (.vrsum t f) := rfl
theorem vrmax (t : Fin 64) (f : VuFields) : Statement (.vrmax t f) := rfl
theorem vrmin (t : Fin 64) (f : VuFields) : Statement (.vrmin t f) := rfl
theorem vrargmax (t : Fin 64) (f : VuFields) : Statement (.vrargmax t f) := rfl
theorem vscan (t : Fin 64) (f : VuFields) : Statement (.vscan t f) := rfl
theorem vrisum (t : Fin 64) (f : VuFields) : Statement (.vrisum t f) := rfl
theorem smovi (t : Fin 64) (f : VuFields) : Statement (.smovi t f) := rfl
theorem sadd (t : Fin 64) (f : VuFields) : Statement (.sadd t f) := rfl
theorem ssub (t : Fin 64) (f : VuFields) : Statement (.ssub t f) := rfl
theorem smul (t : Fin 64) (f : VuFields) : Statement (.smul t f) := rfl
theorem slt (t : Fin 64) (f : VuFields) : Statement (.slt t f) := rfl
theorem vext (t : Fin 64) (f : VuFields) : Statement (.vext t f) := rfl
theorem sld (t : Fin 64) (f : VuFields) (bad : List Nat) : Statement (.sld t f bad) := rfl
theorem sst (t : Fin 64) (f : VuFields) : Statement (.sst t f) := rfl
theorem vcx (t : Fin 64) (f : VuFields) : Statement (.vcx t f) := rfl
theorem vcxr (t : Fin 64) (f : VuFields) : Statement (.vcxr t f) := rfl
theorem vrnd (t : Fin 64) (f : VuFields) : Statement (.vrnd t f) := rfl
theorem vrndu (t : Fin 64) (f : VuFields) : Statement (.vrndu t f) := rfl
theorem rseed (t : Fin 64) (f : VuFields) : Statement (.rseed t f) := rfl
theorem loop (t : Fin 64) (f : VuFields) : Statement (.loop t f) := rfl
theorem bnz (t : Fin 64) (f : VuFields) : Statement (.bnz t f) := rfl
theorem bz (t : Fin 64) (f : VuFields) : Statement (.bz t f) := rfl
theorem vuEnd (t : Fin 64) (f : VuFields) : Statement (.vuEnd t f) := rfl
theorem vuWatchdog (t : Fin 64) : Statement (.vuWatchdog t) := rfl
theorem vuRngSeedWrite (t : Fin 64) (seed : BitVec 64) : Statement (.vuRngSeedWrite t seed) := rfl
theorem streamerIssue (t : Fin 64) : Statement (.streamerIssue t) := rfl
theorem blockReturn (t : Fin 64) (job : Nat) (k : Nat) (bad : Fin 4) : Statement (.blockReturn t job k bad) := rfl
theorem writeAck (t : Fin 64) (job : Nat) (k : Nat) : Statement (.writeAck t job k) := rfl
theorem prefetchProbe (t : Fin 64) : Statement (.prefetchProbe t) := rfl
theorem tornReread (t : Fin 64) (job : Nat) (k : Nat) : Statement (.tornReread t job k) := rfl
theorem mcAccept (m : Fin 24) : Statement (.mcAccept m) := rfl
theorem mcServe (m : Fin 24) (corr : Nat) (unc : Bool) : Statement (.mcServe m corr unc) := rfl
theorem accumAdd (m : Fin 24) (res : List (Nat × Nat)) (bad : Fin 4) : Statement (.accumAdd m res bad) := rfl
theorem martenUpdateStart (m : Fin 24) : Statement (.martenUpdateStart m) := rfl
theorem blockVisit (m : Fin 24) (res : Fin 3) (bad : Fin 4) (listBad : Fin 4) : Statement (.blockVisit m res bad listBad) := rfl
theorem progEnd (m : Fin 24) : Statement (.progEnd m) := rfl
theorem add (m : Fin 24) (d : Fin 32) (a : Fin 32) (b : Fin 32) : Statement (.add m d a b) := rfl
theorem sub (m : Fin 24) (d : Fin 32) (a : Fin 32) (b : Fin 32) : Statement (.sub m d a b) := rfl
theorem mul (m : Fin 24) (d : Fin 32) (a : Fin 32) (b : Fin 32) : Statement (.mul m d a b) := rfl
theorem fma (m : Fin 24) (d : Fin 32) (a : Fin 32) (b : Fin 32) (c : Fin 32) : Statement (.fma m d a b c) := rfl
theorem max (m : Fin 24) (d : Fin 32) (a : Fin 32) (b : Fin 32) : Statement (.max m d a b) := rfl
theorem min (m : Fin 24) (d : Fin 32) (a : Fin 32) (b : Fin 32) : Statement (.min m d a b) := rfl
theorem abs (m : Fin 24) (d : Fin 32) (a : Fin 32) : Statement (.abs m d a) := rfl
theorem neg (m : Fin 24) (d : Fin 32) (a : Fin 32) : Statement (.neg m d a) := rfl
theorem sign (m : Fin 24) (d : Fin 32) (a : Fin 32) : Statement (.sign m d a) := rfl
theorem sqrt (m : Fin 24) (d : Fin 32) (a : Fin 32) : Statement (.sqrt m d a) := rfl
theorem rsqrt (m : Fin 24) (d : Fin 32) (a : Fin 32) : Statement (.rsqrt m d a) := rfl
theorem rcp (m : Fin 24) (d : Fin 32) (a : Fin 32) : Statement (.rcp m d a) := rfl
theorem clamp (m : Fin 24) (d : Fin 32) (a : Fin 32) (b : Fin 32) : Statement (.clamp m d a b) := rfl
theorem mov (m : Fin 24) (d : Fin 32) (a : Fin 32) : Statement (.mov m d a) := rfl
theorem rrow (m : Fin 24) (d : Fin 32) (a : Fin 32) : Statement (.rrow m d a) := rfl
theorem rcol (m : Fin 24) (d : Fin 32) (a : Fin 32) : Statement (.rcol m d a) := rfl
theorem rall (m : Fin 24) (d : Fin 32) (a : Fin 32) : Statement (.rall m d a) := rfl
theorem rmean (m : Fin 24) (d : Fin 32) (a : Fin 32) : Statement (.rmean m d a) := rfl
theorem bucketRetry (bucket : Nat) : Statement (.bucketRetry bucket) := rfl
theorem mrtSeedWrite (m : Fin 24) (seed : BitVec 64) : Statement (.mrtSeedWrite m seed) := rfl
theorem portBringUp (p : Fin 48) : Statement (.portBringUp p) := rfl
theorem trainingBlockRx (p : Fin 48) (lane : Fin 4) (inv : Bool) (logical : Fin 4) (peer : BitVec 18) (port : Fin 64) : Statement (.trainingBlockRx p lane inv logical peer port) := rfl
theorem laneSetRx (p : Fin 48) (set : BitVec 4) : Statement (.laneSetRx p set) := rfl
theorem identityRx (p : Fin 48) (c : PeerCert) : Statement (.identityRx p c) := rfl
theorem activationDigestRx (p : Fin 48) (step : Nat) (digest : List Byte) : Statement (.activationDigestRx p step digest) := rfl
theorem digestTimeout (p : Fin 48) : Statement (.digestTimeout p) := rfl
theorem flitSend (p : Fin 48) : Statement (.flitSend p) := rfl
theorem flitRx (p : Fin 48) (b : List Byte) (corr : Nat) (unc : Nat) : Statement (.flitRx p b corr unc) := rfl
theorem ackTimeout (p : Fin 48) : Statement (.ackTimeout p) := rfl
theorem fastRetrain (p : Fin 48) : Statement (.fastRetrain p) := rfl
theorem laneLockLoss (p : Fin 48) (lane : Fin 4) : Statement (.laneLockLoss p lane) := rfl
theorem plRetrain (p : Fin 48) : Statement (.plRetrain p) := rfl
theorem packetForward (p : Fin 48) (vc : Fin 4) : Statement (.packetForward p vc) := rfl
theorem accum (p : Fin 49) : Statement (.accum p) := rfl
theorem close (p : Fin 49) : Statement (.close p) := rfl
theorem bcast (p : Fin 49) : Statement (.bcast p) := rfl
theorem commitNotice (p : Fin 49) : Statement (.commitNotice p) := rfl
theorem supersedePacket (p : Fin 49) : Statement (.supersedePacket p) := rfl
theorem resend (p : Fin 49) : Statement (.resend p) := rfl
theorem resendData (p : Fin 49) : Statement (.resendData p) := rfl
theorem bucketDeadline (bucket : Nat) : Statement (.bucketDeadline bucket) := rfl
theorem publish (bucket : Nat) : Statement (.publish bucket) := rfl
theorem stepCommit : Statement .stepCommit := rfl
theorem resendTimeout (bucket : Nat) (ver : Nat) : Statement (.resendTimeout bucket ver) := rfl
theorem commitNoticeSend (bucket : Nat) : Statement (.commitNoticeSend bucket) := rfl
theorem checksumWindowClose (t : Fin 64) (a : Fin 16) : Statement (.checksumWindowClose t a) := rfl
theorem guardbandEscalate (n : Fin 68) : Statement (.guardbandEscalate n) := rfl
theorem owlLevelWrite (n : Fin 68) (v : Fin 8) : Statement (.owlLevelWrite n v) := rfl
theorem denScanStart : Statement .denScanStart := rfl
theorem scanDone (pass : Bool) : Statement (.scanDone pass) := rfl
theorem owlDatagramSend : Statement .owlDatagramSend := rfl
theorem firmwareRecordCompose (raw : Bool) : Statement (.firmwareRecordCompose raw) := rfl
theorem overflow (q : Fin 16) : Statement (.overflow q) := rfl
theorem evqModerationTimeout (q : Fin 16) : Statement (.evqModerationTimeout q) := rfl
theorem evqCfgEn (q : Fin 16) (w : Word) : Statement (.evqCfgEn q w) := rfl
theorem evqHead (q : Fin 16) (v : BitVec 20) : Statement (.evqHead q v) := rfl
theorem bar2Access (size : Fin 6) (off : Nat) (len : Nat) (data : Option (List Byte)) : Statement (.bar2Access size off len data) := rfl
theorem mbxRing (p : Fin 64) : Statement (.mbxRing p) := rfl
theorem mbxAck (p : Fin 64) : Statement (.mbxAck p) := rfl
theorem mailboxTake (bad : Fin 4) : Statement (.mailboxTake bad) := rfl
theorem getInfo (pair : Fin 64) : Statement (.getInfo pair) := rfl
theorem stageConfig (pair : Fin 64) : Statement (.stageConfig pair) := rfl
theorem loadStreams (pair : Fin 64) : Statement (.loadStreams pair) := rfl
theorem streamCtrl (pair : Fin 64) : Statement (.streamCtrl pair) := rfl
theorem snapshot (pair : Fin 64) : Statement (.snapshot pair) := rfl
theorem takeover (pair : Fin 64) : Statement (.takeover pair) := rfl
theorem updateRetry (pair : Fin 64) : Statement (.updateRetry pair) := rfl
theorem supersede (pair : Fin 64) : Statement (.supersede pair) := rfl
theorem bucketArrived (pair : Fin 64) : Statement (.bucketArrived pair) := rfl
theorem bucketHold (pair : Fin 64) : Statement (.bucketHold pair) := rfl
theorem setLedger (pair : Fin 64) : Statement (.setLedger pair) := rfl
theorem fwStop (pair : Fin 64) : Statement (.fwStop pair) := rfl
theorem getCert (pair : Fin 64) : Statement (.getCert pair) := rfl
theorem attest (pair : Fin 64) : Statement (.attest pair) := rfl
theorem fwStage (pair : Fin 64) (data : List Byte) (ok : Bool) : Statement (.fwStage pair data ok) := rfl
theorem fwStatus (pair : Fin 64) : Statement (.fwStatus pair) := rfl
theorem ownerKeySet (pair : Fin 64) : Statement (.ownerKeySet pair) := rfl
theorem getDigest (pair : Fin 64) : Statement (.getDigest pair) := rfl
theorem svnCommit (pair : Fin 64) : Statement (.svnCommit pair) := rfl
theorem hifCpyGo (e : Fin 8) (hub : Bool) (w : Word) : Statement (.hifCpyGo e hub w) := rfl
theorem hifCpyAbort (e : Fin 8) (hub : Bool) (units : Nat) (data : List Byte) : Statement (.hifCpyAbort e hub units data) := rfl
theorem copyDone (e : Fin 8) (data : List Byte) (err : Option Nat) (pois : Option Nat) : Statement (.copyDone e data err pois) := rfl
theorem perst (moved : List (Nat × List Byte)) (width : Nat) (flit : Bool) (speed : Fin 8) : Statement (.perst moved width flit speed) := rfl
theorem fwWatchdog : Statement .fwWatchdog := rfl
theorem coreStall (core : Fin 4) : Statement (.coreStall core) := rfl
theorem liveUpdateTimeout : Statement .liveUpdateTimeout := rfl
theorem mgmtFrameRx (f : List Byte) : Statement (.mgmtFrameRx f) := rfl
theorem uartCharRx (b : Byte) : Statement (.uartCharRx b) := rfl
theorem help : Statement .help := rfl
theorem info : Statement .info := rfl
theorem rd (off : Nat) (n : Nat) : Statement (.rd off n) := rfl
theorem tiles : Statement .tiles := rfl
theorem ports : Statement .ports := rfl
theorem temp : Statement .temp := rfl
theorem events (n : Nat) : Statement (.events n) := rfl
theorem baud (rate : Nat) : Statement (.baud rate) := rfl
theorem unlock : Statement .unlock := rfl
theorem resp (groups : Option (List Word)) : Statement (.resp groups) := rfl
theorem wr (off : Nat) (v : Word) : Statement (.wr off v) := rfl
theorem stream (mask : BitVec 64) (action : Nat) : Statement (.stream mask action) := rfl
theorem ownerArm : Statement .ownerArm := rfl
theorem lock : Statement .lock := rfl
theorem monitorIdleLock : Statement .monitorIdleLock := rfl
theorem uartStuck : Statement .uartStuck := rfl
theorem tadStart : Statement .tadStart := rfl
theorem tadStop : Statement .tadStop := rfl
theorem tadRefsel (sel : Fin 4) : Statement (.tadRefsel sel) := rfl
theorem refSettled (v : BitVec 16) : Statement (.refSettled v) := rfl
theorem periodTick : Statement .periodTick := rfl
theorem sequenceEnd (m : List AdcSlot) : Statement (.sequenceEnd m) := rfl
theorem housekeeping (codes : List (BitVec 16)) : Statement (.housekeeping codes) := rfl
theorem tadCalZero (chan : Fin 16) (acq : BitVec 8) : Statement (.tadCalZero chan acq) := rfl
theorem tadCalFull (chan : Fin 16) (acq : BitVec 8) : Statement (.tadCalFull chan acq) := rfl
theorem tadCalStore : Statement .tadCalStore := rfl
theorem tadCalLoad : Statement .tadCalLoad := rfl
theorem tadCalStepDone (l : List (BitVec 16)) : Statement (.tadCalStepDone l) := rfl
theorem bdgEnable (c : Fin 8) (hub : Bool) (w : Word) : Statement (.bdgEnable c hub w) := rfl
theorem bdgDisable (c : Fin 8) (hub : Bool) : Statement (.bdgDisable c hub) := rfl
theorem bdgKick (c : Fin 8) (hub : Bool) : Statement (.bdgKick c hub) := rfl
theorem bdgRequestEdge (c : Fin 8) (asserted : Bool) : Statement (.bdgRequestEdge c asserted) := rfl
theorem bdgMinIntExpire (c : Fin 8) : Statement (.bdgMinIntExpire c) := rfl
theorem bdgBurst (ext : List Word) (bad : List Nat) : Statement (.bdgBurst ext bad) := rfl
theorem pwrEnAssert (e : StartEnv) : Statement (.pwrEnAssert e) := rfl
theorem pwrEnDeassert : Statement .pwrEnDeassert := rfl
theorem powerOnReset (e : StartEnv) : Statement (.powerOnReset e) := rfl
theorem standbyLoss : Statement .standbyLoss := rfl
theorem resetN (asserted : Bool) (e : StartEnv) : Statement (.resetN asserted e) := rfl
theorem moduleReset (e : StartEnv) : Statement (.moduleReset e) := rfl
theorem hubReset : Statement .hubReset := rfl
theorem dieReset (dies : BitVec 4) : Statement (.dieReset dies) := rfl
theorem tileReset (n : BitVec 7) : Statement (.tileReset n) := rfl
theorem mainReverse : Statement .mainReverse := rfl
theorem mainShort : Statement .mainShort := rfl
theorem mainUndervolt (low : Bool) : Statement (.mainUndervolt low) := rfl
theorem brownout : Statement .brownout := rfl
theorem mainOvervolt : Statement .mainOvervolt := rfl
theorem mainRestored (e : StartEnv) : Statement (.mainRestored e) := rfl
theorem thermalTrip : Statement .thermalTrip := rfl
theorem pllUnlock (long : Bool) (e : StartEnv) : Statement (.pllUnlock long e) := rfl
theorem powerSample (w : BitVec 16) : Statement (.powerSample w) := rfl
theorem throttleAssert : Statement .throttleAssert := rfl
theorem throttleRelease : Statement .throttleRelease := rfl
theorem throttleStuck : Statement .throttleStuck := rfl
theorem standbyUartLine : Statement .standbyUartLine := rfl
theorem perBankRefresh (m : Fin 24) (temp : BitVec 8) : Statement (.perBankRefresh m temp) := rfl
theorem mainShortRetry (ok : Bool) (e : StartEnv) : Statement (.mainShortRetry ok e) := rfl
theorem uartRxRelease : Statement .uartRxRelease := rfl
theorem unlockLockoutEnd : Statement .unlockLockoutEnd := rfl
theorem managementLinkChange (up : Bool) : Statement (.managementLinkChange up) := rfl
theorem d3hotChange (on : Bool) : Statement (.d3hotChange on) := rfl
theorem hostRefclkChange (present : Bool) (ppm : BitVec 16) : Statement (.hostRefclkChange present ppm) := rfl

end Sys2Proof.Laws.KeepsQueue
end

