-- ==== Sys2Proof/Laws/State.lean ====
section
/-! SUPPORT. What each named update of State leaves as it was, field by field: one lemma per field per update. -/

namespace Sys2Proof.Machine

@[simp] theorem wrReg_pending (s : State) (k : Nat) (w : Word) : (wrReg s k w).pending = s.pending := rfl
@[simp] theorem wrReg_now (s : State) (k : Nat) (w : Word) : (wrReg s k w).now = s.now := rfl
@[simp] theorem wrReg_freeCtr (s : State) (k : Nat) (w : Word) : (wrReg s k w).freeCtr = s.freeCtr := rfl
@[simp] theorem wrReg_fuses (s : State) (k : Nat) (w : Word) : (wrReg s k w).fuses = s.fuses := rfl
@[simp] theorem wrReg_flashTrims (s : State) (k : Nat) (w : Word) : (wrReg s k w).flashTrims = s.flashTrims := rfl
@[simp] theorem wrReg_trimWb (s : State) (k : Nat) (w : Word) : (wrReg s k w).trimWb = s.trimWb := rfl
@[simp] theorem wrReg_latches (s : State) (k : Nat) (w : Word) : (wrReg s k w).latches = s.latches := rfl
@[simp] theorem wrReg_seedLow (s : State) (k : Nat) (w : Word) : (wrReg s k w).seedLow = s.seedLow := rfl
@[simp] theorem wrReg_hbm (s : State) (k : Nat) (w : Word) : (wrReg s k w).hbm = s.hbm := rfl
@[simp] theorem wrReg_tiles (s : State) (k : Nat) (w : Word) : (wrReg s k w).tiles = s.tiles := rfl
@[simp] theorem wrReg_mcs (s : State) (k : Nat) (w : Word) : (wrReg s k w).mcs = s.mcs := rfl
@[simp] theorem wrReg_launchAt (s : State) (k : Nat) (w : Word) : (wrReg s k w).launchAt = s.launchAt := rfl
@[simp] theorem wrReg_sigs (s : State) (k : Nat) (w : Word) : (wrReg s k w).sigs = s.sigs := rfl
@[simp] theorem wrReg_lastGrant (s : State) (k : Nat) (w : Word) : (wrReg s k w).lastGrant = s.lastGrant := rfl
@[simp] theorem wrReg_grantRot (s : State) (k : Nat) (w : Word) : (wrReg s k w).grantRot = s.grantRot := rfl
@[simp] theorem wrReg_owlFifo (s : State) (k : Nat) (w : Word) : (wrReg s k w).owlFifo = s.owlFifo := rfl
@[simp] theorem wrReg_taints (s : State) (k : Nat) (w : Word) : (wrReg s k w).taints = s.taints := rfl
@[simp] theorem wrReg_taintFrom (s : State) (k : Nat) (w : Word) : (wrReg s k w).taintFrom = s.taintFrom := rfl
@[simp] theorem wrReg_suspects (s : State) (k : Nat) (w : Word) : (wrReg s k w).suspects = s.suspects := rfl
@[simp] theorem wrReg_cfg (s : State) (k : Nat) (w : Word) : (wrReg s k w).cfg = s.cfg := rfl
@[simp] theorem wrReg_staged (s : State) (k : Nat) (w : Word) : (wrReg s k w).staged = s.staged := rfl
@[simp] theorem wrReg_prevTag (s : State) (k : Nat) (w : Word) : (wrReg s k w).prevTag = s.prevTag := rfl
@[simp] theorem wrReg_actAt (s : State) (k : Nat) (w : Word) : (wrReg s k w).actAt = s.actAt := rfl
@[simp] theorem wrReg_hubAt (s : State) (k : Nat) (w : Word) : (wrReg s k w).hubAt = s.hubAt := rfl
@[simp] theorem wrReg_obkts (s : State) (k : Nat) (w : Word) : (wrReg s k w).obkts = s.obkts := rfl
@[simp] theorem wrReg_rbkts (s : State) (k : Nat) (w : Word) : (wrReg s k w).rbkts = s.rbkts := rfl
@[simp] theorem wrReg_accSent (s : State) (k : Nat) (w : Word) : (wrReg s k w).accSent = s.accSent := rfl
@[simp] theorem wrReg_localRx (s : State) (k : Nat) (w : Word) : (wrReg s k w).localRx = s.localRx := rfl
@[simp] theorem wrReg_passed (s : State) (k : Nat) (w : Word) : (wrReg s k w).passed = s.passed := rfl
@[simp] theorem wrReg_doneV (s : State) (k : Nat) (w : Word) : (wrReg s k w).doneV = s.doneV := rfl
@[simp] theorem wrReg_csFails (s : State) (k : Nat) (w : Word) : (wrReg s k w).csFails = s.csFails := rfl
@[simp] theorem wrReg_failWins (s : State) (k : Nat) (w : Word) : (wrReg s k w).failWins = s.failWins := rfl
@[simp] theorem wrReg_ledger (s : State) (k : Nat) (w : Word) : (wrReg s k w).ledger = s.ledger := rfl
@[simp] theorem wrReg_ports (s : State) (k : Nat) (w : Word) : (wrReg s k w).ports = s.ports := rfl
@[simp] theorem wrReg_fwEvents (s : State) (k : Nat) (w : Word) : (wrReg s k w).fwEvents = s.fwEvents := rfl
@[simp] theorem wrReg_out (s : State) (k : Nat) (w : Word) : (wrReg s k w).out = s.out := rfl
@[simp] theorem wrReg_hostResp (s : State) (k : Nat) (w : Word) : (wrReg s k w).hostResp = s.hostResp := rfl
@[simp] theorem wrReg_mbx (s : State) (k : Nat) (w : Word) : (wrReg s k w).mbx = s.mbx := rfl
@[simp] theorem wrReg_mbxPosted (s : State) (k : Nat) (w : Word) : (wrReg s k w).mbxPosted = s.mbxPosted := rfl
@[simp] theorem wrReg_mbxRun (s : State) (k : Nat) (w : Word) : (wrReg s k w).mbxRun = s.mbxRun := rfl
@[simp] theorem wrReg_evqs (s : State) (k : Nat) (w : Word) : (wrReg s k w).evqs = s.evqs := rfl
@[simp] theorem wrReg_msix (s : State) (k : Nat) (w : Word) : (wrReg s k w).msix = s.msix := rfl
@[simp] theorem wrReg_msixPend (s : State) (k : Nat) (w : Word) : (wrReg s k w).msixPend = s.msixPend := rfl
@[simp] theorem wrReg_fwRecs (s : State) (k : Nat) (w : Word) : (wrReg s k w).fwRecs = s.fwRecs := rfl
@[simp] theorem wrReg_fwNum (s : State) (k : Nat) (w : Word) : (wrReg s k w).fwNum = s.fwNum := rfl
@[simp] theorem wrReg_fwNet (s : State) (k : Nat) (w : Word) : (wrReg s k w).fwNet = s.fwNet := rfl
@[simp] theorem wrReg_owlNet (s : State) (k : Nat) (w : Word) : (wrReg s k w).owlNet = s.owlNet := rfl
@[simp] theorem wrReg_fwRaw (s : State) (k : Nat) (w : Word) : (wrReg s k w).fwRaw = s.fwRaw := rfl
@[simp] theorem wrReg_mgmtDown (s : State) (k : Nat) (w : Word) : (wrReg s k w).mgmtDown = s.mgmtDown := rfl
@[simp] theorem wrReg_flash (s : State) (k : Nat) (w : Word) : (wrReg s k w).flash = s.flash := rfl
@[simp] theorem wrReg_sec (s : State) (k : Nat) (w : Word) : (wrReg s k w).sec = s.sec := rfl
@[simp] theorem wrReg_cpy (s : State) (k : Nat) (w : Word) : (wrReg s k w).cpy = s.cpy := rfl
@[simp] theorem wrReg_mon (s : State) (k : Nat) (w : Word) : (wrReg s k w).mon = s.mon := rfl
@[simp] theorem wrReg_beatAt (s : State) (k : Nat) (w : Word) : (wrReg s k w).beatAt = s.beatAt := rfl
@[simp] theorem wrReg_stall (s : State) (k : Nat) (w : Word) : (wrReg s k w).stall = s.stall := rfl
@[simp] theorem wrReg_tad (s : State) (k : Nat) (w : Word) : (wrReg s k w).tad = s.tad := rfl
@[simp] theorem wrReg_bdg (s : State) (k : Nat) (w : Word) : (wrReg s k w).bdg = s.bdg := rfl
@[simp] theorem wrReg_bdgMem (s : State) (k : Nat) (w : Word) : (wrReg s k w).bdgMem = s.bdgMem := rfl
@[simp] theorem wrReg_bdgLast (s : State) (k : Nat) (w : Word) : (wrReg s k w).bdgLast = s.bdgLast := rfl
@[simp] theorem wrReg_den (s : State) (k : Nat) (w : Word) : (wrReg s k w).den = s.den := rfl
@[simp] theorem wrReg_scanned (s : State) (k : Nat) (w : Word) : (wrReg s k w).scanned = s.scanned := rfl
@[simp] theorem wrReg_retiring (s : State) (k : Nat) (w : Word) : (wrReg s k w).retiring = s.retiring := rfl
@[simp] theorem wrReg_pwr (s : State) (k : Nat) (w : Word) : (wrReg s k w).pwr = s.pwr := rfl
@[simp] theorem wrReg_hubUp (s : State) (k : Nat) (w : Word) : (wrReg s k w).hubUp = s.hubUp := rfl
@[simp] theorem wrReg_d3hot (s : State) (k : Nat) (w : Word) : (wrReg s k w).d3hot = s.d3hot := rfl

@[simp] theorem setFld_pending (s : State) (b : Nat) (f : Fld) (v : Nat) : (setFld s b f v).pending = s.pending := ((setFld_moves s b f v (.refl [.regs] s) ⟨rfl⟩).same .pending (by decide))
@[simp] theorem setFld_now (s : State) (b : Nat) (f : Fld) (v : Nat) : (setFld s b f v).now = s.now := ((setFld_moves s b f v (.refl [.regs] s) ⟨rfl⟩).same .now (by decide))
@[simp] theorem setFld_freeCtr (s : State) (b : Nat) (f : Fld) (v : Nat) : (setFld s b f v).freeCtr = s.freeCtr := ((setFld_moves s b f v (.refl [.regs] s) ⟨rfl⟩).same .freeCtr (by decide))
@[simp] theorem setFld_fuses (s : State) (b : Nat) (f : Fld) (v : Nat) : (setFld s b f v).fuses = s.fuses := ((setFld_moves s b f v (.refl [.regs] s) ⟨rfl⟩).same .fuses (by decide))
@[simp] theorem setFld_flashTrims (s : State) (b : Nat) (f : Fld) (v : Nat) : (setFld s b f v).flashTrims = s.flashTrims := ((setFld_moves s b f v (.refl [.regs] s) ⟨rfl⟩).same .flashTrims (by decide))
@[simp] theorem setFld_trimWb (s : State) (b : Nat) (f : Fld) (v : Nat) : (setFld s b f v).trimWb = s.trimWb := ((setFld_moves s b f v (.refl [.regs] s) ⟨rfl⟩).same .trimWb (by decide))
@[simp] theorem setFld_latches (s : State) (b : Nat) (f : Fld) (v : Nat) : (setFld s b f v).latches = s.latches := ((setFld_moves s b f v (.refl [.regs] s) ⟨rfl⟩).same .latches (by decide))
@[simp] theorem setFld_seedLow (s : State) (b : Nat) (f : Fld) (v : Nat) : (setFld s b f v).seedLow = s.seedLow := ((setFld_moves s b f v (.refl [.regs] s) ⟨rfl⟩).same .seedLow (by decide))
@[simp] theorem setFld_hbm (s : State) (b : Nat) (f : Fld) (v : Nat) : (setFld s b f v).hbm = s.hbm := ((setFld_moves s b f v (.refl [.regs] s) ⟨rfl⟩).same .hbm (by decide))
@[simp] theorem setFld_tiles (s : State) (b : Nat) (f : Fld) (v : Nat) : (setFld s b f v).tiles = s.tiles := ((setFld_moves s b f v (.refl [.regs] s) ⟨rfl⟩).same .tiles (by decide))
@[simp] theorem setFld_mcs (s : State) (b : Nat) (f : Fld) (v : Nat) : (setFld s b f v).mcs = s.mcs := ((setFld_moves s b f v (.refl [.regs] s) ⟨rfl⟩).same .mcs (by decide))
@[simp] theorem setFld_launchAt (s : State) (b : Nat) (f : Fld) (v : Nat) : (setFld s b f v).launchAt = s.launchAt := ((setFld_moves s b f v (.refl [.regs] s) ⟨rfl⟩).same .launchAt (by decide))
@[simp] theorem setFld_sigs (s : State) (b : Nat) (f : Fld) (v : Nat) : (setFld s b f v).sigs = s.sigs := ((setFld_moves s b f v (.refl [.regs] s) ⟨rfl⟩).same .sigs (by decide))
@[simp] theorem setFld_lastGrant (s : State) (b : Nat) (f : Fld) (v : Nat) : (setFld s b f v).lastGrant = s.lastGrant := ((setFld_moves s b f v (.refl [.regs] s) ⟨rfl⟩).same .lastGrant (by decide))
@[simp] theorem setFld_grantRot (s : State) (b : Nat) (f : Fld) (v : Nat) : (setFld s b f v).grantRot = s.grantRot := ((setFld_moves s b f v (.refl [.regs] s) ⟨rfl⟩).same .grantRot (by decide))
@[simp] theorem setFld_owlFifo (s : State) (b : Nat) (f : Fld) (v : Nat) : (setFld s b f v).owlFifo = s.owlFifo := ((setFld_moves s b f v (.refl [.regs] s) ⟨rfl⟩).same .owlFifo (by decide))
@[simp] theorem setFld_taints (s : State) (b : Nat) (f : Fld) (v : Nat) : (setFld s b f v).taints = s.taints := ((setFld_moves s b f v (.refl [.regs] s) ⟨rfl⟩).same .taints (by decide))
@[simp] theorem setFld_taintFrom (s : State) (b : Nat) (f : Fld) (v : Nat) : (setFld s b f v).taintFrom = s.taintFrom := ((setFld_moves s b f v (.refl [.regs] s) ⟨rfl⟩).same .taintFrom (by decide))
@[simp] theorem setFld_suspects (s : State) (b : Nat) (f : Fld) (v : Nat) : (setFld s b f v).suspects = s.suspects := ((setFld_moves s b f v (.refl [.regs] s) ⟨rfl⟩).same .suspects (by decide))
@[simp] theorem setFld_cfg (s : State) (b : Nat) (f : Fld) (v : Nat) : (setFld s b f v).cfg = s.cfg := ((setFld_moves s b f v (.refl [.regs] s) ⟨rfl⟩).same .cfg (by decide))
@[simp] theorem setFld_staged (s : State) (b : Nat) (f : Fld) (v : Nat) : (setFld s b f v).staged = s.staged := ((setFld_moves s b f v (.refl [.regs] s) ⟨rfl⟩).same .staged (by decide))
@[simp] theorem setFld_prevTag (s : State) (b : Nat) (f : Fld) (v : Nat) : (setFld s b f v).prevTag = s.prevTag := ((setFld_moves s b f v (.refl [.regs] s) ⟨rfl⟩).same .prevTag (by decide))
@[simp] theorem setFld_actAt (s : State) (b : Nat) (f : Fld) (v : Nat) : (setFld s b f v).actAt = s.actAt := ((setFld_moves s b f v (.refl [.regs] s) ⟨rfl⟩).same .actAt (by decide))
@[simp] theorem setFld_hubAt (s : State) (b : Nat) (f : Fld) (v : Nat) : (setFld s b f v).hubAt = s.hubAt := ((setFld_moves s b f v (.refl [.regs] s) ⟨rfl⟩).same .hubAt (by decide))
@[simp] theorem setFld_obkts (s : State) (b : Nat) (f : Fld) (v : Nat) : (setFld s b f v).obkts = s.obkts := ((setFld_moves s b f v (.refl [.regs] s) ⟨rfl⟩).same .obkts (by decide))
@[simp] theorem setFld_rbkts (s : State) (b : Nat) (f : Fld) (v : Nat) : (setFld s b f v).rbkts = s.rbkts := ((setFld_moves s b f v (.refl [.regs] s) ⟨rfl⟩).same .rbkts (by decide))
@[simp] theorem setFld_accSent (s : State) (b : Nat) (f : Fld) (v : Nat) : (setFld s b f v).accSent = s.accSent := ((setFld_moves s b f v (.refl [.regs] s) ⟨rfl⟩).same .accSent (by decide))
@[simp] theorem setFld_localRx (s : State) (b : Nat) (f : Fld) (v : Nat) : (setFld s b f v).localRx = s.localRx := ((setFld_moves s b f v (.refl [.regs] s) ⟨rfl⟩).same .localRx (by decide))
@[simp] theorem setFld_passed (s : State) (b : Nat) (f : Fld) (v : Nat) : (setFld s b f v).passed = s.passed := ((setFld_moves s b f v (.refl [.regs] s) ⟨rfl⟩).same .passed (by decide))
@[simp] theorem setFld_doneV (s : State) (b : Nat) (f : Fld) (v : Nat) : (setFld s b f v).doneV = s.doneV := ((setFld_moves s b f v (.refl [.regs] s) ⟨rfl⟩).same .doneV (by decide))
@[simp] theorem setFld_csFails (s : State) (b : Nat) (f : Fld) (v : Nat) : (setFld s b f v).csFails = s.csFails := ((setFld_moves s b f v (.refl [.regs] s) ⟨rfl⟩).same .csFails (by decide))
@[simp] theorem setFld_failWins (s : State) (b : Nat) (f : Fld) (v : Nat) : (setFld s b f v).failWins = s.failWins := ((setFld_moves s b f v (.refl [.regs] s) ⟨rfl⟩).same .failWins (by decide))
@[simp] theorem setFld_ledger (s : State) (b : Nat) (f : Fld) (v : Nat) : (setFld s b f v).ledger = s.ledger := ((setFld_moves s b f v (.refl [.regs] s) ⟨rfl⟩).same .ledger (by decide))
@[simp] theorem setFld_ports (s : State) (b : Nat) (f : Fld) (v : Nat) : (setFld s b f v).ports = s.ports := ((setFld_moves s b f v (.refl [.regs] s) ⟨rfl⟩).same .ports (by decide))
@[simp] theorem setFld_fwEvents (s : State) (b : Nat) (f : Fld) (v : Nat) : (setFld s b f v).fwEvents = s.fwEvents := ((setFld_moves s b f v (.refl [.regs] s) ⟨rfl⟩).same .fwEvents (by decide))
@[simp] theorem setFld_out (s : State) (b : Nat) (f : Fld) (v : Nat) : (setFld s b f v).out = s.out := ((setFld_moves s b f v (.refl [.regs] s) ⟨rfl⟩).same .out (by decide))
@[simp] theorem setFld_hostResp (s : State) (b : Nat) (f : Fld) (v : Nat) : (setFld s b f v).hostResp = s.hostResp := ((setFld_moves s b f v (.refl [.regs] s) ⟨rfl⟩).same .hostResp (by decide))
@[simp] theorem setFld_mbx (s : State) (b : Nat) (f : Fld) (v : Nat) : (setFld s b f v).mbx = s.mbx := ((setFld_moves s b f v (.refl [.regs] s) ⟨rfl⟩).same .mbx (by decide))
@[simp] theorem setFld_mbxPosted (s : State) (b : Nat) (f : Fld) (v : Nat) : (setFld s b f v).mbxPosted = s.mbxPosted := ((setFld_moves s b f v (.refl [.regs] s) ⟨rfl⟩).same .mbxPosted (by decide))
@[simp] theorem setFld_mbxRun (s : State) (b : Nat) (f : Fld) (v : Nat) : (setFld s b f v).mbxRun = s.mbxRun := ((setFld_moves s b f v (.refl [.regs] s) ⟨rfl⟩).same .mbxRun (by decide))
@[simp] theorem setFld_evqs (s : State) (b : Nat) (f : Fld) (v : Nat) : (setFld s b f v).evqs = s.evqs := ((setFld_moves s b f v (.refl [.regs] s) ⟨rfl⟩).same .evqs (by decide))
@[simp] theorem setFld_msix (s : State) (b : Nat) (f : Fld) (v : Nat) : (setFld s b f v).msix = s.msix := ((setFld_moves s b f v (.refl [.regs] s) ⟨rfl⟩).same .msix (by decide))
@[simp] theorem setFld_msixPend (s : State) (b : Nat) (f : Fld) (v : Nat) : (setFld s b f v).msixPend = s.msixPend := ((setFld_moves s b f v (.refl [.regs] s) ⟨rfl⟩).same .msixPend (by decide))
@[simp] theorem setFld_fwRecs (s : State) (b : Nat) (f : Fld) (v : Nat) : (setFld s b f v).fwRecs = s.fwRecs := ((setFld_moves s b f v (.refl [.regs] s) ⟨rfl⟩).same .fwRecs (by decide))
@[simp] theorem setFld_fwNum (s : State) (b : Nat) (f : Fld) (v : Nat) : (setFld s b f v).fwNum = s.fwNum := ((setFld_moves s b f v (.refl [.regs] s) ⟨rfl⟩).same .fwNum (by decide))
@[simp] theorem setFld_fwNet (s : State) (b : Nat) (f : Fld) (v : Nat) : (setFld s b f v).fwNet = s.fwNet := ((setFld_moves s b f v (.refl [.regs] s) ⟨rfl⟩).same .fwNet (by decide))
@[simp] theorem setFld_owlNet (s : State) (b : Nat) (f : Fld) (v : Nat) : (setFld s b f v).owlNet = s.owlNet := ((setFld_moves s b f v (.refl [.regs] s) ⟨rfl⟩).same .owlNet (by decide))
@[simp] theorem setFld_fwRaw (s : State) (b : Nat) (f : Fld) (v : Nat) : (setFld s b f v).fwRaw = s.fwRaw := ((setFld_moves s b f v (.refl [.regs] s) ⟨rfl⟩).same .fwRaw (by decide))
@[simp] theorem setFld_mgmtDown (s : State) (b : Nat) (f : Fld) (v : Nat) : (setFld s b f v).mgmtDown = s.mgmtDown := ((setFld_moves s b f v (.refl [.regs] s) ⟨rfl⟩).same .mgmtDown (by decide))
@[simp] theorem setFld_flash (s : State) (b : Nat) (f : Fld) (v : Nat) : (setFld s b f v).flash = s.flash := ((setFld_moves s b f v (.refl [.regs] s) ⟨rfl⟩).same .flash (by decide))
@[simp] theorem setFld_sec (s : State) (b : Nat) (f : Fld) (v : Nat) : (setFld s b f v).sec = s.sec := ((setFld_moves s b f v (.refl [.regs] s) ⟨rfl⟩).same .sec (by decide))
@[simp] theorem setFld_cpy (s : State) (b : Nat) (f : Fld) (v : Nat) : (setFld s b f v).cpy = s.cpy := ((setFld_moves s b f v (.refl [.regs] s) ⟨rfl⟩).same .cpy (by decide))
@[simp] theorem setFld_mon (s : State) (b : Nat) (f : Fld) (v : Nat) : (setFld s b f v).mon = s.mon := ((setFld_moves s b f v (.refl [.regs] s) ⟨rfl⟩).same .mon (by decide))
@[simp] theorem setFld_beatAt (s : State) (b : Nat) (f : Fld) (v : Nat) : (setFld s b f v).beatAt = s.beatAt := ((setFld_moves s b f v (.refl [.regs] s) ⟨rfl⟩).same .beatAt (by decide))
@[simp] theorem setFld_stall (s : State) (b : Nat) (f : Fld) (v : Nat) : (setFld s b f v).stall = s.stall := ((setFld_moves s b f v (.refl [.regs] s) ⟨rfl⟩).same .stall (by decide))
@[simp] theorem setFld_tad (s : State) (b : Nat) (f : Fld) (v : Nat) : (setFld s b f v).tad = s.tad := ((setFld_moves s b f v (.refl [.regs] s) ⟨rfl⟩).same .tad (by decide))
@[simp] theorem setFld_bdg (s : State) (b : Nat) (f : Fld) (v : Nat) : (setFld s b f v).bdg = s.bdg := ((setFld_moves s b f v (.refl [.regs] s) ⟨rfl⟩).same .bdg (by decide))
@[simp] theorem setFld_bdgMem (s : State) (b : Nat) (f : Fld) (v : Nat) : (setFld s b f v).bdgMem = s.bdgMem := ((setFld_moves s b f v (.refl [.regs] s) ⟨rfl⟩).same .bdgMem (by decide))
@[simp] theorem setFld_bdgLast (s : State) (b : Nat) (f : Fld) (v : Nat) : (setFld s b f v).bdgLast = s.bdgLast := ((setFld_moves s b f v (.refl [.regs] s) ⟨rfl⟩).same .bdgLast (by decide))
@[simp] theorem setFld_den (s : State) (b : Nat) (f : Fld) (v : Nat) : (setFld s b f v).den = s.den := ((setFld_moves s b f v (.refl [.regs] s) ⟨rfl⟩).same .den (by decide))
@[simp] theorem setFld_scanned (s : State) (b : Nat) (f : Fld) (v : Nat) : (setFld s b f v).scanned = s.scanned := ((setFld_moves s b f v (.refl [.regs] s) ⟨rfl⟩).same .scanned (by decide))
@[simp] theorem setFld_retiring (s : State) (b : Nat) (f : Fld) (v : Nat) : (setFld s b f v).retiring = s.retiring := ((setFld_moves s b f v (.refl [.regs] s) ⟨rfl⟩).same .retiring (by decide))
@[simp] theorem setFld_pwr (s : State) (b : Nat) (f : Fld) (v : Nat) : (setFld s b f v).pwr = s.pwr := ((setFld_moves s b f v (.refl [.regs] s) ⟨rfl⟩).same .pwr (by decide))
@[simp] theorem setFld_hubUp (s : State) (b : Nat) (f : Fld) (v : Nat) : (setFld s b f v).hubUp = s.hubUp := ((setFld_moves s b f v (.refl [.regs] s) ⟨rfl⟩).same .hubUp (by decide))
@[simp] theorem setFld_d3hot (s : State) (b : Nat) (f : Fld) (v : Nat) : (setFld s b f v).d3hot = s.d3hot := ((setFld_moves s b f v (.refl [.regs] s) ⟨rfl⟩).same .d3hot (by decide))

@[simp] theorem setBit_pending (s : State) (b : Nat) (f : Fld) (v : Bool) : (setBit s b f v).pending = s.pending := ((setBit_moves s b f v (.refl [.regs] s) ⟨rfl⟩).same .pending (by decide))
@[simp] theorem setBit_now (s : State) (b : Nat) (f : Fld) (v : Bool) : (setBit s b f v).now = s.now := ((setBit_moves s b f v (.refl [.regs] s) ⟨rfl⟩).same .now (by decide))
@[simp] theorem setBit_freeCtr (s : State) (b : Nat) (f : Fld) (v : Bool) : (setBit s b f v).freeCtr = s.freeCtr := ((setBit_moves s b f v (.refl [.regs] s) ⟨rfl⟩).same .freeCtr (by decide))
@[simp] theorem setBit_fuses (s : State) (b : Nat) (f : Fld) (v : Bool) : (setBit s b f v).fuses = s.fuses := ((setBit_moves s b f v (.refl [.regs] s) ⟨rfl⟩).same .fuses (by decide))
@[simp] theorem setBit_flashTrims (s : State) (b : Nat) (f : Fld) (v : Bool) : (setBit s b f v).flashTrims = s.flashTrims := ((setBit_moves s b f v (.refl [.regs] s) ⟨rfl⟩).same .flashTrims (by decide))
@[simp] theorem setBit_trimWb (s : State) (b : Nat) (f : Fld) (v : Bool) : (setBit s b f v).trimWb = s.trimWb := ((setBit_moves s b f v (.refl [.regs] s) ⟨rfl⟩).same .trimWb (by decide))
@[simp] theorem setBit_latches (s : State) (b : Nat) (f : Fld) (v : Bool) : (setBit s b f v).latches = s.latches := ((setBit_moves s b f v (.refl [.regs] s) ⟨rfl⟩).same .latches (by decide))
@[simp] theorem setBit_seedLow (s : State) (b : Nat) (f : Fld) (v : Bool) : (setBit s b f v).seedLow = s.seedLow := ((setBit_moves s b f v (.refl [.regs] s) ⟨rfl⟩).same .seedLow (by decide))
@[simp] theorem setBit_hbm (s : State) (b : Nat) (f : Fld) (v : Bool) : (setBit s b f v).hbm = s.hbm := ((setBit_moves s b f v (.refl [.regs] s) ⟨rfl⟩).same .hbm (by decide))
@[simp] theorem setBit_tiles (s : State) (b : Nat) (f : Fld) (v : Bool) : (setBit s b f v).tiles = s.tiles := ((setBit_moves s b f v (.refl [.regs] s) ⟨rfl⟩).same .tiles (by decide))
@[simp] theorem setBit_mcs (s : State) (b : Nat) (f : Fld) (v : Bool) : (setBit s b f v).mcs = s.mcs := ((setBit_moves s b f v (.refl [.regs] s) ⟨rfl⟩).same .mcs (by decide))
@[simp] theorem setBit_launchAt (s : State) (b : Nat) (f : Fld) (v : Bool) : (setBit s b f v).launchAt = s.launchAt := ((setBit_moves s b f v (.refl [.regs] s) ⟨rfl⟩).same .launchAt (by decide))
@[simp] theorem setBit_sigs (s : State) (b : Nat) (f : Fld) (v : Bool) : (setBit s b f v).sigs = s.sigs := ((setBit_moves s b f v (.refl [.regs] s) ⟨rfl⟩).same .sigs (by decide))
@[simp] theorem setBit_lastGrant (s : State) (b : Nat) (f : Fld) (v : Bool) : (setBit s b f v).lastGrant = s.lastGrant := ((setBit_moves s b f v (.refl [.regs] s) ⟨rfl⟩).same .lastGrant (by decide))
@[simp] theorem setBit_grantRot (s : State) (b : Nat) (f : Fld) (v : Bool) : (setBit s b f v).grantRot = s.grantRot := ((setBit_moves s b f v (.refl [.regs] s) ⟨rfl⟩).same .grantRot (by decide))
@[simp] theorem setBit_owlFifo (s : State) (b : Nat) (f : Fld) (v : Bool) : (setBit s b f v).owlFifo = s.owlFifo := ((setBit_moves s b f v (.refl [.regs] s) ⟨rfl⟩).same .owlFifo (by decide))
@[simp] theorem setBit_taints (s : State) (b : Nat) (f : Fld) (v : Bool) : (setBit s b f v).taints = s.taints := ((setBit_moves s b f v (.refl [.regs] s) ⟨rfl⟩).same .taints (by decide))
@[simp] theorem setBit_taintFrom (s : State) (b : Nat) (f : Fld) (v : Bool) : (setBit s b f v).taintFrom = s.taintFrom := ((setBit_moves s b f v (.refl [.regs] s) ⟨rfl⟩).same .taintFrom (by decide))
@[simp] theorem setBit_suspects (s : State) (b : Nat) (f : Fld) (v : Bool) : (setBit s b f v).suspects = s.suspects := ((setBit_moves s b f v (.refl [.regs] s) ⟨rfl⟩).same .suspects (by decide))
@[simp] theorem setBit_cfg (s : State) (b : Nat) (f : Fld) (v : Bool) : (setBit s b f v).cfg = s.cfg := ((setBit_moves s b f v (.refl [.regs] s) ⟨rfl⟩).same .cfg (by decide))
@[simp] theorem setBit_staged (s : State) (b : Nat) (f : Fld) (v : Bool) : (setBit s b f v).staged = s.staged := ((setBit_moves s b f v (.refl [.regs] s) ⟨rfl⟩).same .staged (by decide))
@[simp] theorem setBit_prevTag (s : State) (b : Nat) (f : Fld) (v : Bool) : (setBit s b f v).prevTag = s.prevTag := ((setBit_moves s b f v (.refl [.regs] s) ⟨rfl⟩).same .prevTag (by decide))
@[simp] theorem setBit_actAt (s : State) (b : Nat) (f : Fld) (v : Bool) : (setBit s b f v).actAt = s.actAt := ((setBit_moves s b f v (.refl [.regs] s) ⟨rfl⟩).same .actAt (by decide))
@[simp] theorem setBit_hubAt (s : State) (b : Nat) (f : Fld) (v : Bool) : (setBit s b f v).hubAt = s.hubAt := ((setBit_moves s b f v (.refl [.regs] s) ⟨rfl⟩).same .hubAt (by decide))
@[simp] theorem setBit_obkts (s : State) (b : Nat) (f : Fld) (v : Bool) : (setBit s b f v).obkts = s.obkts := ((setBit_moves s b f v (.refl [.regs] s) ⟨rfl⟩).same .obkts (by decide))
@[simp] theorem setBit_rbkts (s : State) (b : Nat) (f : Fld) (v : Bool) : (setBit s b f v).rbkts = s.rbkts := ((setBit_moves s b f v (.refl [.regs] s) ⟨rfl⟩).same .rbkts (by decide))
@[simp] theorem setBit_accSent (s : State) (b : Nat) (f : Fld) (v : Bool) : (setBit s b f v).accSent = s.accSent := ((setBit_moves s b f v (.refl [.regs] s) ⟨rfl⟩).same .accSent (by decide))
@[simp] theorem setBit_localRx (s : State) (b : Nat) (f : Fld) (v : Bool) : (setBit s b f v).localRx = s.localRx := ((setBit_moves s b f v (.refl [.regs] s) ⟨rfl⟩).same .localRx (by decide))
@[simp] theorem setBit_passed (s : State) (b : Nat) (f : Fld) (v : Bool) : (setBit s b f v).passed = s.passed := ((setBit_moves s b f v (.refl [.regs] s) ⟨rfl⟩).same .passed (by decide))
@[simp] theorem setBit_doneV (s : State) (b : Nat) (f : Fld) (v : Bool) : (setBit s b f v).doneV = s.doneV := ((setBit_moves s b f v (.refl [.regs] s) ⟨rfl⟩).same .doneV (by decide))
@[simp] theorem setBit_csFails (s : State) (b : Nat) (f : Fld) (v : Bool) : (setBit s b f v).csFails = s.csFails := ((setBit_moves s b f v (.refl [.regs] s) ⟨rfl⟩).same .csFails (by decide))
@[simp] theorem setBit_failWins (s : State) (b : Nat) (f : Fld) (v : Bool) : (setBit s b f v).failWins = s.failWins := ((setBit_moves s b f v (.refl [.regs] s) ⟨rfl⟩).same .failWins (by decide))
@[simp] theorem setBit_ledger (s : State) (b : Nat) (f : Fld) (v : Bool) : (setBit s b f v).ledger = s.ledger := ((setBit_moves s b f v (.refl [.regs] s) ⟨rfl⟩).same .ledger (by decide))
@[simp] theorem setBit_ports (s : State) (b : Nat) (f : Fld) (v : Bool) : (setBit s b f v).ports = s.ports := ((setBit_moves s b f v (.refl [.regs] s) ⟨rfl⟩).same .ports (by decide))
@[simp] theorem setBit_fwEvents (s : State) (b : Nat) (f : Fld) (v : Bool) : (setBit s b f v).fwEvents = s.fwEvents := ((setBit_moves s b f v (.refl [.regs] s) ⟨rfl⟩).same .fwEvents (by decide))
@[simp] theorem setBit_out (s : State) (b : Nat) (f : Fld) (v : Bool) : (setBit s b f v).out = s.out := ((setBit_moves s b f v (.refl [.regs] s) ⟨rfl⟩).same .out (by decide))
@[simp] theorem setBit_hostResp (s : State) (b : Nat) (f : Fld) (v : Bool) : (setBit s b f v).hostResp = s.hostResp := ((setBit_moves s b f v (.refl [.regs] s) ⟨rfl⟩).same .hostResp (by decide))
@[simp] theorem setBit_mbx (s : State) (b : Nat) (f : Fld) (v : Bool) : (setBit s b f v).mbx = s.mbx := ((setBit_moves s b f v (.refl [.regs] s) ⟨rfl⟩).same .mbx (by decide))
@[simp] theorem setBit_mbxPosted (s : State) (b : Nat) (f : Fld) (v : Bool) : (setBit s b f v).mbxPosted = s.mbxPosted := ((setBit_moves s b f v (.refl [.regs] s) ⟨rfl⟩).same .mbxPosted (by decide))
@[simp] theorem setBit_mbxRun (s : State) (b : Nat) (f : Fld) (v : Bool) : (setBit s b f v).mbxRun = s.mbxRun := ((setBit_moves s b f v (.refl [.regs] s) ⟨rfl⟩).same .mbxRun (by decide))
@[simp] theorem setBit_evqs (s : State) (b : Nat) (f : Fld) (v : Bool) : (setBit s b f v).evqs = s.evqs := ((setBit_moves s b f v (.refl [.regs] s) ⟨rfl⟩).same .evqs (by decide))
@[simp] theorem setBit_msix (s : State) (b : Nat) (f : Fld) (v : Bool) : (setBit s b f v).msix = s.msix := ((setBit_moves s b f v (.refl [.regs] s) ⟨rfl⟩).same .msix (by decide))
@[simp] theorem setBit_msixPend (s : State) (b : Nat) (f : Fld) (v : Bool) : (setBit s b f v).msixPend = s.msixPend := ((setBit_moves s b f v (.refl [.regs] s) ⟨rfl⟩).same .msixPend (by decide))
@[simp] theorem setBit_fwRecs (s : State) (b : Nat) (f : Fld) (v : Bool) : (setBit s b f v).fwRecs = s.fwRecs := ((setBit_moves s b f v (.refl [.regs] s) ⟨rfl⟩).same .fwRecs (by decide))
@[simp] theorem setBit_fwNum (s : State) (b : Nat) (f : Fld) (v : Bool) : (setBit s b f v).fwNum = s.fwNum := ((setBit_moves s b f v (.refl [.regs] s) ⟨rfl⟩).same .fwNum (by decide))
@[simp] theorem setBit_fwNet (s : State) (b : Nat) (f : Fld) (v : Bool) : (setBit s b f v).fwNet = s.fwNet := ((setBit_moves s b f v (.refl [.regs] s) ⟨rfl⟩).same .fwNet (by decide))
@[simp] theorem setBit_owlNet (s : State) (b : Nat) (f : Fld) (v : Bool) : (setBit s b f v).owlNet = s.owlNet := ((setBit_moves s b f v (.refl [.regs] s) ⟨rfl⟩).same .owlNet (by decide))
@[simp] theorem setBit_fwRaw (s : State) (b : Nat) (f : Fld) (v : Bool) : (setBit s b f v).fwRaw = s.fwRaw := ((setBit_moves s b f v (.refl [.regs] s) ⟨rfl⟩).same .fwRaw (by decide))
@[simp] theorem setBit_mgmtDown (s : State) (b : Nat) (f : Fld) (v : Bool) : (setBit s b f v).mgmtDown = s.mgmtDown := ((setBit_moves s b f v (.refl [.regs] s) ⟨rfl⟩).same .mgmtDown (by decide))
@[simp] theorem setBit_flash (s : State) (b : Nat) (f : Fld) (v : Bool) : (setBit s b f v).flash = s.flash := ((setBit_moves s b f v (.refl [.regs] s) ⟨rfl⟩).same .flash (by decide))
@[simp] theorem setBit_sec (s : State) (b : Nat) (f : Fld) (v : Bool) : (setBit s b f v).sec = s.sec := ((setBit_moves s b f v (.refl [.regs] s) ⟨rfl⟩).same .sec (by decide))
@[simp] theorem setBit_cpy (s : State) (b : Nat) (f : Fld) (v : Bool) : (setBit s b f v).cpy = s.cpy := ((setBit_moves s b f v (.refl [.regs] s) ⟨rfl⟩).same .cpy (by decide))
@[simp] theorem setBit_mon (s : State) (b : Nat) (f : Fld) (v : Bool) : (setBit s b f v).mon = s.mon := ((setBit_moves s b f v (.refl [.regs] s) ⟨rfl⟩).same .mon (by decide))
@[simp] theorem setBit_beatAt (s : State) (b : Nat) (f : Fld) (v : Bool) : (setBit s b f v).beatAt = s.beatAt := ((setBit_moves s b f v (.refl [.regs] s) ⟨rfl⟩).same .beatAt (by decide))
@[simp] theorem setBit_stall (s : State) (b : Nat) (f : Fld) (v : Bool) : (setBit s b f v).stall = s.stall := ((setBit_moves s b f v (.refl [.regs] s) ⟨rfl⟩).same .stall (by decide))
@[simp] theorem setBit_tad (s : State) (b : Nat) (f : Fld) (v : Bool) : (setBit s b f v).tad = s.tad := ((setBit_moves s b f v (.refl [.regs] s) ⟨rfl⟩).same .tad (by decide))
@[simp] theorem setBit_bdg (s : State) (b : Nat) (f : Fld) (v : Bool) : (setBit s b f v).bdg = s.bdg := ((setBit_moves s b f v (.refl [.regs] s) ⟨rfl⟩).same .bdg (by decide))
@[simp] theorem setBit_bdgMem (s : State) (b : Nat) (f : Fld) (v : Bool) : (setBit s b f v).bdgMem = s.bdgMem := ((setBit_moves s b f v (.refl [.regs] s) ⟨rfl⟩).same .bdgMem (by decide))
@[simp] theorem setBit_bdgLast (s : State) (b : Nat) (f : Fld) (v : Bool) : (setBit s b f v).bdgLast = s.bdgLast := ((setBit_moves s b f v (.refl [.regs] s) ⟨rfl⟩).same .bdgLast (by decide))
@[simp] theorem setBit_den (s : State) (b : Nat) (f : Fld) (v : Bool) : (setBit s b f v).den = s.den := ((setBit_moves s b f v (.refl [.regs] s) ⟨rfl⟩).same .den (by decide))
@[simp] theorem setBit_scanned (s : State) (b : Nat) (f : Fld) (v : Bool) : (setBit s b f v).scanned = s.scanned := ((setBit_moves s b f v (.refl [.regs] s) ⟨rfl⟩).same .scanned (by decide))
@[simp] theorem setBit_retiring (s : State) (b : Nat) (f : Fld) (v : Bool) : (setBit s b f v).retiring = s.retiring := ((setBit_moves s b f v (.refl [.regs] s) ⟨rfl⟩).same .retiring (by decide))
@[simp] theorem setBit_pwr (s : State) (b : Nat) (f : Fld) (v : Bool) : (setBit s b f v).pwr = s.pwr := ((setBit_moves s b f v (.refl [.regs] s) ⟨rfl⟩).same .pwr (by decide))
@[simp] theorem setBit_hubUp (s : State) (b : Nat) (f : Fld) (v : Bool) : (setBit s b f v).hubUp = s.hubUp := ((setBit_moves s b f v (.refl [.regs] s) ⟨rfl⟩).same .hubUp (by decide))
@[simp] theorem setBit_d3hot (s : State) (b : Nat) (f : Fld) (v : Bool) : (setBit s b f v).d3hot = s.d3hot := ((setBit_moves s b f v (.refl [.regs] s) ⟨rfl⟩).same .d3hot (by decide))

@[simp] theorem count_pending (s : State) (b : Nat) (f : Fld) (v : Nat) : (count s b f v).pending = s.pending := ((count_moves s b f v (.refl [.regs] s) ⟨rfl⟩).same .pending (by decide))
@[simp] theorem count_now (s : State) (b : Nat) (f : Fld) (v : Nat) : (count s b f v).now = s.now := ((count_moves s b f v (.refl [.regs] s) ⟨rfl⟩).same .now (by decide))
@[simp] theorem count_freeCtr (s : State) (b : Nat) (f : Fld) (v : Nat) : (count s b f v).freeCtr = s.freeCtr := ((count_moves s b f v (.refl [.regs] s) ⟨rfl⟩).same .freeCtr (by decide))
@[simp] theorem count_fuses (s : State) (b : Nat) (f : Fld) (v : Nat) : (count s b f v).fuses = s.fuses := ((count_moves s b f v (.refl [.regs] s) ⟨rfl⟩).same .fuses (by decide))
@[simp] theorem count_flashTrims (s : State) (b : Nat) (f : Fld) (v : Nat) : (count s b f v).flashTrims = s.flashTrims := ((count_moves s b f v (.refl [.regs] s) ⟨rfl⟩).same .flashTrims (by decide))
@[simp] theorem count_trimWb (s : State) (b : Nat) (f : Fld) (v : Nat) : (count s b f v).trimWb = s.trimWb := ((count_moves s b f v (.refl [.regs] s) ⟨rfl⟩).same .trimWb (by decide))
@[simp] theorem count_latches (s : State) (b : Nat) (f : Fld) (v : Nat) : (count s b f v).latches = s.latches := ((count_moves s b f v (.refl [.regs] s) ⟨rfl⟩).same .latches (by decide))
@[simp] theorem count_seedLow (s : State) (b : Nat) (f : Fld) (v : Nat) : (count s b f v).seedLow = s.seedLow := ((count_moves s b f v (.refl [.regs] s) ⟨rfl⟩).same .seedLow (by decide))
@[simp] theorem count_hbm (s : State) (b : Nat) (f : Fld) (v : Nat) : (count s b f v).hbm = s.hbm := ((count_moves s b f v (.refl [.regs] s) ⟨rfl⟩).same .hbm (by decide))
@[simp] theorem count_tiles (s : State) (b : Nat) (f : Fld) (v : Nat) : (count s b f v).tiles = s.tiles := ((count_moves s b f v (.refl [.regs] s) ⟨rfl⟩).same .tiles (by decide))
@[simp] theorem count_mcs (s : State) (b : Nat) (f : Fld) (v : Nat) : (count s b f v).mcs = s.mcs := ((count_moves s b f v (.refl [.regs] s) ⟨rfl⟩).same .mcs (by decide))
@[simp] theorem count_launchAt (s : State) (b : Nat) (f : Fld) (v : Nat) : (count s b f v).launchAt = s.launchAt := ((count_moves s b f v (.refl [.regs] s) ⟨rfl⟩).same .launchAt (by decide))
@[simp] theorem count_sigs (s : State) (b : Nat) (f : Fld) (v : Nat) : (count s b f v).sigs = s.sigs := ((count_moves s b f v (.refl [.regs] s) ⟨rfl⟩).same .sigs (by decide))
@[simp] theorem count_lastGrant (s : State) (b : Nat) (f : Fld) (v : Nat) : (count s b f v).lastGrant = s.lastGrant := ((count_moves s b f v (.refl [.regs] s) ⟨rfl⟩).same .lastGrant (by decide))
@[simp] theorem count_grantRot (s : State) (b : Nat) (f : Fld) (v : Nat) : (count s b f v).grantRot = s.grantRot := ((count_moves s b f v (.refl [.regs] s) ⟨rfl⟩).same .grantRot (by decide))
@[simp] theorem count_owlFifo (s : State) (b : Nat) (f : Fld) (v : Nat) : (count s b f v).owlFifo = s.owlFifo := ((count_moves s b f v (.refl [.regs] s) ⟨rfl⟩).same .owlFifo (by decide))
@[simp] theorem count_taints (s : State) (b : Nat) (f : Fld) (v : Nat) : (count s b f v).taints = s.taints := ((count_moves s b f v (.refl [.regs] s) ⟨rfl⟩).same .taints (by decide))
@[simp] theorem count_taintFrom (s : State) (b : Nat) (f : Fld) (v : Nat) : (count s b f v).taintFrom = s.taintFrom := ((count_moves s b f v (.refl [.regs] s) ⟨rfl⟩).same .taintFrom (by decide))
@[simp] theorem count_suspects (s : State) (b : Nat) (f : Fld) (v : Nat) : (count s b f v).suspects = s.suspects := ((count_moves s b f v (.refl [.regs] s) ⟨rfl⟩).same .suspects (by decide))
@[simp] theorem count_cfg (s : State) (b : Nat) (f : Fld) (v : Nat) : (count s b f v).cfg = s.cfg := ((count_moves s b f v (.refl [.regs] s) ⟨rfl⟩).same .cfg (by decide))
@[simp] theorem count_staged (s : State) (b : Nat) (f : Fld) (v : Nat) : (count s b f v).staged = s.staged := ((count_moves s b f v (.refl [.regs] s) ⟨rfl⟩).same .staged (by decide))
@[simp] theorem count_prevTag (s : State) (b : Nat) (f : Fld) (v : Nat) : (count s b f v).prevTag = s.prevTag := ((count_moves s b f v (.refl [.regs] s) ⟨rfl⟩).same .prevTag (by decide))
@[simp] theorem count_actAt (s : State) (b : Nat) (f : Fld) (v : Nat) : (count s b f v).actAt = s.actAt := ((count_moves s b f v (.refl [.regs] s) ⟨rfl⟩).same .actAt (by decide))
@[simp] theorem count_hubAt (s : State) (b : Nat) (f : Fld) (v : Nat) : (count s b f v).hubAt = s.hubAt := ((count_moves s b f v (.refl [.regs] s) ⟨rfl⟩).same .hubAt (by decide))
@[simp] theorem count_obkts (s : State) (b : Nat) (f : Fld) (v : Nat) : (count s b f v).obkts = s.obkts := ((count_moves s b f v (.refl [.regs] s) ⟨rfl⟩).same .obkts (by decide))
@[simp] theorem count_rbkts (s : State) (b : Nat) (f : Fld) (v : Nat) : (count s b f v).rbkts = s.rbkts := ((count_moves s b f v (.refl [.regs] s) ⟨rfl⟩).same .rbkts (by decide))
@[simp] theorem count_accSent (s : State) (b : Nat) (f : Fld) (v : Nat) : (count s b f v).accSent = s.accSent := ((count_moves s b f v (.refl [.regs] s) ⟨rfl⟩).same .accSent (by decide))
@[simp] theorem count_localRx (s : State) (b : Nat) (f : Fld) (v : Nat) : (count s b f v).localRx = s.localRx := ((count_moves s b f v (.refl [.regs] s) ⟨rfl⟩).same .localRx (by decide))
@[simp] theorem count_passed (s : State) (b : Nat) (f : Fld) (v : Nat) : (count s b f v).passed = s.passed := ((count_moves s b f v (.refl [.regs] s) ⟨rfl⟩).same .passed (by decide))
@[simp] theorem count_doneV (s : State) (b : Nat) (f : Fld) (v : Nat) : (count s b f v).doneV = s.doneV := ((count_moves s b f v (.refl [.regs] s) ⟨rfl⟩).same .doneV (by decide))
@[simp] theorem count_csFails (s : State) (b : Nat) (f : Fld) (v : Nat) : (count s b f v).csFails = s.csFails := ((count_moves s b f v (.refl [.regs] s) ⟨rfl⟩).same .csFails (by decide))
@[simp] theorem count_failWins (s : State) (b : Nat) (f : Fld) (v : Nat) : (count s b f v).failWins = s.failWins := ((count_moves s b f v (.refl [.regs] s) ⟨rfl⟩).same .failWins (by decide))
@[simp] theorem count_ledger (s : State) (b : Nat) (f : Fld) (v : Nat) : (count s b f v).ledger = s.ledger := ((count_moves s b f v (.refl [.regs] s) ⟨rfl⟩).same .ledger (by decide))
@[simp] theorem count_ports (s : State) (b : Nat) (f : Fld) (v : Nat) : (count s b f v).ports = s.ports := ((count_moves s b f v (.refl [.regs] s) ⟨rfl⟩).same .ports (by decide))
@[simp] theorem count_fwEvents (s : State) (b : Nat) (f : Fld) (v : Nat) : (count s b f v).fwEvents = s.fwEvents := ((count_moves s b f v (.refl [.regs] s) ⟨rfl⟩).same .fwEvents (by decide))
@[simp] theorem count_out (s : State) (b : Nat) (f : Fld) (v : Nat) : (count s b f v).out = s.out := ((count_moves s b f v (.refl [.regs] s) ⟨rfl⟩).same .out (by decide))
@[simp] theorem count_hostResp (s : State) (b : Nat) (f : Fld) (v : Nat) : (count s b f v).hostResp = s.hostResp := ((count_moves s b f v (.refl [.regs] s) ⟨rfl⟩).same .hostResp (by decide))
@[simp] theorem count_mbx (s : State) (b : Nat) (f : Fld) (v : Nat) : (count s b f v).mbx = s.mbx := ((count_moves s b f v (.refl [.regs] s) ⟨rfl⟩).same .mbx (by decide))
@[simp] theorem count_mbxPosted (s : State) (b : Nat) (f : Fld) (v : Nat) : (count s b f v).mbxPosted = s.mbxPosted := ((count_moves s b f v (.refl [.regs] s) ⟨rfl⟩).same .mbxPosted (by decide))
@[simp] theorem count_mbxRun (s : State) (b : Nat) (f : Fld) (v : Nat) : (count s b f v).mbxRun = s.mbxRun := ((count_moves s b f v (.refl [.regs] s) ⟨rfl⟩).same .mbxRun (by decide))
@[simp] theorem count_evqs (s : State) (b : Nat) (f : Fld) (v : Nat) : (count s b f v).evqs = s.evqs := ((count_moves s b f v (.refl [.regs] s) ⟨rfl⟩).same .evqs (by decide))
@[simp] theorem count_msix (s : State) (b : Nat) (f : Fld) (v : Nat) : (count s b f v).msix = s.msix := ((count_moves s b f v (.refl [.regs] s) ⟨rfl⟩).same .msix (by decide))
@[simp] theorem count_msixPend (s : State) (b : Nat) (f : Fld) (v : Nat) : (count s b f v).msixPend = s.msixPend := ((count_moves s b f v (.refl [.regs] s) ⟨rfl⟩).same .msixPend (by decide))
@[simp] theorem count_fwRecs (s : State) (b : Nat) (f : Fld) (v : Nat) : (count s b f v).fwRecs = s.fwRecs := ((count_moves s b f v (.refl [.regs] s) ⟨rfl⟩).same .fwRecs (by decide))
@[simp] theorem count_fwNum (s : State) (b : Nat) (f : Fld) (v : Nat) : (count s b f v).fwNum = s.fwNum := ((count_moves s b f v (.refl [.regs] s) ⟨rfl⟩).same .fwNum (by decide))
@[simp] theorem count_fwNet (s : State) (b : Nat) (f : Fld) (v : Nat) : (count s b f v).fwNet = s.fwNet := ((count_moves s b f v (.refl [.regs] s) ⟨rfl⟩).same .fwNet (by decide))
@[simp] theorem count_owlNet (s : State) (b : Nat) (f : Fld) (v : Nat) : (count s b f v).owlNet = s.owlNet := ((count_moves s b f v (.refl [.regs] s) ⟨rfl⟩).same .owlNet (by decide))
@[simp] theorem count_fwRaw (s : State) (b : Nat) (f : Fld) (v : Nat) : (count s b f v).fwRaw = s.fwRaw := ((count_moves s b f v (.refl [.regs] s) ⟨rfl⟩).same .fwRaw (by decide))
@[simp] theorem count_mgmtDown (s : State) (b : Nat) (f : Fld) (v : Nat) : (count s b f v).mgmtDown = s.mgmtDown := ((count_moves s b f v (.refl [.regs] s) ⟨rfl⟩).same .mgmtDown (by decide))
@[simp] theorem count_flash (s : State) (b : Nat) (f : Fld) (v : Nat) : (count s b f v).flash = s.flash := ((count_moves s b f v (.refl [.regs] s) ⟨rfl⟩).same .flash (by decide))
@[simp] theorem count_sec (s : State) (b : Nat) (f : Fld) (v : Nat) : (count s b f v).sec = s.sec := ((count_moves s b f v (.refl [.regs] s) ⟨rfl⟩).same .sec (by decide))
@[simp] theorem count_cpy (s : State) (b : Nat) (f : Fld) (v : Nat) : (count s b f v).cpy = s.cpy := ((count_moves s b f v (.refl [.regs] s) ⟨rfl⟩).same .cpy (by decide))
@[simp] theorem count_mon (s : State) (b : Nat) (f : Fld) (v : Nat) : (count s b f v).mon = s.mon := ((count_moves s b f v (.refl [.regs] s) ⟨rfl⟩).same .mon (by decide))
@[simp] theorem count_beatAt (s : State) (b : Nat) (f : Fld) (v : Nat) : (count s b f v).beatAt = s.beatAt := ((count_moves s b f v (.refl [.regs] s) ⟨rfl⟩).same .beatAt (by decide))
@[simp] theorem count_stall (s : State) (b : Nat) (f : Fld) (v : Nat) : (count s b f v).stall = s.stall := ((count_moves s b f v (.refl [.regs] s) ⟨rfl⟩).same .stall (by decide))
@[simp] theorem count_tad (s : State) (b : Nat) (f : Fld) (v : Nat) : (count s b f v).tad = s.tad := ((count_moves s b f v (.refl [.regs] s) ⟨rfl⟩).same .tad (by decide))
@[simp] theorem count_bdg (s : State) (b : Nat) (f : Fld) (v : Nat) : (count s b f v).bdg = s.bdg := ((count_moves s b f v (.refl [.regs] s) ⟨rfl⟩).same .bdg (by decide))
@[simp] theorem count_bdgMem (s : State) (b : Nat) (f : Fld) (v : Nat) : (count s b f v).bdgMem = s.bdgMem := ((count_moves s b f v (.refl [.regs] s) ⟨rfl⟩).same .bdgMem (by decide))
@[simp] theorem count_bdgLast (s : State) (b : Nat) (f : Fld) (v : Nat) : (count s b f v).bdgLast = s.bdgLast := ((count_moves s b f v (.refl [.regs] s) ⟨rfl⟩).same .bdgLast (by decide))
@[simp] theorem count_den (s : State) (b : Nat) (f : Fld) (v : Nat) : (count s b f v).den = s.den := ((count_moves s b f v (.refl [.regs] s) ⟨rfl⟩).same .den (by decide))
@[simp] theorem count_scanned (s : State) (b : Nat) (f : Fld) (v : Nat) : (count s b f v).scanned = s.scanned := ((count_moves s b f v (.refl [.regs] s) ⟨rfl⟩).same .scanned (by decide))
@[simp] theorem count_retiring (s : State) (b : Nat) (f : Fld) (v : Nat) : (count s b f v).retiring = s.retiring := ((count_moves s b f v (.refl [.regs] s) ⟨rfl⟩).same .retiring (by decide))
@[simp] theorem count_pwr (s : State) (b : Nat) (f : Fld) (v : Nat) : (count s b f v).pwr = s.pwr := ((count_moves s b f v (.refl [.regs] s) ⟨rfl⟩).same .pwr (by decide))
@[simp] theorem count_hubUp (s : State) (b : Nat) (f : Fld) (v : Nat) : (count s b f v).hubUp = s.hubUp := ((count_moves s b f v (.refl [.regs] s) ⟨rfl⟩).same .hubUp (by decide))
@[simp] theorem count_d3hot (s : State) (b : Nat) (f : Fld) (v : Nat) : (count s b f v).d3hot = s.d3hot := ((count_moves s b f v (.refl [.regs] s) ⟨rfl⟩).same .d3hot (by decide))

@[simp] theorem raiseD_pending (s : State) (b : Nat) (f : Fld) (d : List Nat) : (raiseD s b f d).pending = s.pending := ((raiseD_moves s b f d (.refl [.regs, .owlFifo] s) ⟨rfl⟩).same .pending (by decide))
@[simp] theorem raiseD_now (s : State) (b : Nat) (f : Fld) (d : List Nat) : (raiseD s b f d).now = s.now := ((raiseD_moves s b f d (.refl [.regs, .owlFifo] s) ⟨rfl⟩).same .now (by decide))
@[simp] theorem raiseD_freeCtr (s : State) (b : Nat) (f : Fld) (d : List Nat) : (raiseD s b f d).freeCtr = s.freeCtr := ((raiseD_moves s b f d (.refl [.regs, .owlFifo] s) ⟨rfl⟩).same .freeCtr (by decide))
@[simp] theorem raiseD_fuses (s : State) (b : Nat) (f : Fld) (d : List Nat) : (raiseD s b f d).fuses = s.fuses := ((raiseD_moves s b f d (.refl [.regs, .owlFifo] s) ⟨rfl⟩).same .fuses (by decide))
@[simp] theorem raiseD_flashTrims (s : State) (b : Nat) (f : Fld) (d : List Nat) : (raiseD s b f d).flashTrims = s.flashTrims := ((raiseD_moves s b f d (.refl [.regs, .owlFifo] s) ⟨rfl⟩).same .flashTrims (by decide))
@[simp] theorem raiseD_trimWb (s : State) (b : Nat) (f : Fld) (d : List Nat) : (raiseD s b f d).trimWb = s.trimWb := ((raiseD_moves s b f d (.refl [.regs, .owlFifo] s) ⟨rfl⟩).same .trimWb (by decide))
@[simp] theorem raiseD_latches (s : State) (b : Nat) (f : Fld) (d : List Nat) : (raiseD s b f d).latches = s.latches := ((raiseD_moves s b f d (.refl [.regs, .owlFifo] s) ⟨rfl⟩).same .latches (by decide))
@[simp] theorem raiseD_seedLow (s : State) (b : Nat) (f : Fld) (d : List Nat) : (raiseD s b f d).seedLow = s.seedLow := ((raiseD_moves s b f d (.refl [.regs, .owlFifo] s) ⟨rfl⟩).same .seedLow (by decide))
@[simp] theorem raiseD_hbm (s : State) (b : Nat) (f : Fld) (d : List Nat) : (raiseD s b f d).hbm = s.hbm := ((raiseD_moves s b f d (.refl [.regs, .owlFifo] s) ⟨rfl⟩).same .hbm (by decide))
@[simp] theorem raiseD_tiles (s : State) (b : Nat) (f : Fld) (d : List Nat) : (raiseD s b f d).tiles = s.tiles := ((raiseD_moves s b f d (.refl [.regs, .owlFifo] s) ⟨rfl⟩).same .tiles (by decide))
@[simp] theorem raiseD_mcs (s : State) (b : Nat) (f : Fld) (d : List Nat) : (raiseD s b f d).mcs = s.mcs := ((raiseD_moves s b f d (.refl [.regs, .owlFifo] s) ⟨rfl⟩).same .mcs (by decide))
@[simp] theorem raiseD_launchAt (s : State) (b : Nat) (f : Fld) (d : List Nat) : (raiseD s b f d).launchAt = s.launchAt := ((raiseD_moves s b f d (.refl [.regs, .owlFifo] s) ⟨rfl⟩).same .launchAt (by decide))
@[simp] theorem raiseD_sigs (s : State) (b : Nat) (f : Fld) (d : List Nat) : (raiseD s b f d).sigs = s.sigs := ((raiseD_moves s b f d (.refl [.regs, .owlFifo] s) ⟨rfl⟩).same .sigs (by decide))
@[simp] theorem raiseD_lastGrant (s : State) (b : Nat) (f : Fld) (d : List Nat) : (raiseD s b f d).lastGrant = s.lastGrant := ((raiseD_moves s b f d (.refl [.regs, .owlFifo] s) ⟨rfl⟩).same .lastGrant (by decide))
@[simp] theorem raiseD_grantRot (s : State) (b : Nat) (f : Fld) (d : List Nat) : (raiseD s b f d).grantRot = s.grantRot := ((raiseD_moves s b f d (.refl [.regs, .owlFifo] s) ⟨rfl⟩).same .grantRot (by decide))
@[simp] theorem raiseD_taints (s : State) (b : Nat) (f : Fld) (d : List Nat) : (raiseD s b f d).taints = s.taints := ((raiseD_moves s b f d (.refl [.regs, .owlFifo] s) ⟨rfl⟩).same .taints (by decide))
@[simp] theorem raiseD_taintFrom (s : State) (b : Nat) (f : Fld) (d : List Nat) : (raiseD s b f d).taintFrom = s.taintFrom := ((raiseD_moves s b f d (.refl [.regs, .owlFifo] s) ⟨rfl⟩).same .taintFrom (by decide))
@[simp] theorem raiseD_suspects (s : State) (b : Nat) (f : Fld) (d : List Nat) : (raiseD s b f d).suspects = s.suspects := ((raiseD_moves s b f d (.refl [.regs, .owlFifo] s) ⟨rfl⟩).same .suspects (by decide))
@[simp] theorem raiseD_cfg (s : State) (b : Nat) (f : Fld) (d : List Nat) : (raiseD s b f d).cfg = s.cfg := ((raiseD_moves s b f d (.refl [.regs, .owlFifo] s) ⟨rfl⟩).same .cfg (by decide))
@[simp] theorem raiseD_staged (s : State) (b : Nat) (f : Fld) (d : List Nat) : (raiseD s b f d).staged = s.staged := ((raiseD_moves s b f d (.refl [.regs, .owlFifo] s) ⟨rfl⟩).same .staged (by decide))
@[simp] theorem raiseD_prevTag (s : State) (b : Nat) (f : Fld) (d : List Nat) : (raiseD s b f d).prevTag = s.prevTag := ((raiseD_moves s b f d (.refl [.regs, .owlFifo] s) ⟨rfl⟩).same .prevTag (by decide))
@[simp] theorem raiseD_actAt (s : State) (b : Nat) (f : Fld) (d : List Nat) : (raiseD s b f d).actAt = s.actAt := ((raiseD_moves s b f d (.refl [.regs, .owlFifo] s) ⟨rfl⟩).same .actAt (by decide))
@[simp] theorem raiseD_hubAt (s : State) (b : Nat) (f : Fld) (d : List Nat) : (raiseD s b f d).hubAt = s.hubAt := ((raiseD_moves s b f d (.refl [.regs, .owlFifo] s) ⟨rfl⟩).same .hubAt (by decide))
@[simp] theorem raiseD_obkts (s : State) (b : Nat) (f : Fld) (d : List Nat) : (raiseD s b f d).obkts = s.obkts := ((raiseD_moves s b f d (.refl [.regs, .owlFifo] s) ⟨rfl⟩).same .obkts (by decide))
@[simp] theorem raiseD_rbkts (s : State) (b : Nat) (f : Fld) (d : List Nat) : (raiseD s b f d).rbkts = s.rbkts := ((raiseD_moves s b f d (.refl [.regs, .owlFifo] s) ⟨rfl⟩).same .rbkts (by decide))
@[simp] theorem raiseD_accSent (s : State) (b : Nat) (f : Fld) (d : List Nat) : (raiseD s b f d).accSent = s.accSent := ((raiseD_moves s b f d (.refl [.regs, .owlFifo] s) ⟨rfl⟩).same .accSent (by decide))
@[simp] theorem raiseD_localRx (s : State) (b : Nat) (f : Fld) (d : List Nat) : (raiseD s b f d).localRx = s.localRx := ((raiseD_moves s b f d (.refl [.regs, .owlFifo] s) ⟨rfl⟩).same .localRx (by decide))
@[simp] theorem raiseD_passed (s : State) (b : Nat) (f : Fld) (d : List Nat) : (raiseD s b f d).passed = s.passed := ((raiseD_moves s b f d (.refl [.regs, .owlFifo] s) ⟨rfl⟩).same .passed (by decide))
@[simp] theorem raiseD_doneV (s : State) (b : Nat) (f : Fld) (d : List Nat) : (raiseD s b f d).doneV = s.doneV := ((raiseD_moves s b f d (.refl [.regs, .owlFifo] s) ⟨rfl⟩).same .doneV (by decide))
@[simp] theorem raiseD_csFails (s : State) (b : Nat) (f : Fld) (d : List Nat) : (raiseD s b f d).csFails = s.csFails := ((raiseD_moves s b f d (.refl [.regs, .owlFifo] s) ⟨rfl⟩).same .csFails (by decide))
@[simp] theorem raiseD_failWins (s : State) (b : Nat) (f : Fld) (d : List Nat) : (raiseD s b f d).failWins = s.failWins := ((raiseD_moves s b f d (.refl [.regs, .owlFifo] s) ⟨rfl⟩).same .failWins (by decide))
@[simp] theorem raiseD_ledger (s : State) (b : Nat) (f : Fld) (d : List Nat) : (raiseD s b f d).ledger = s.ledger := ((raiseD_moves s b f d (.refl [.regs, .owlFifo] s) ⟨rfl⟩).same .ledger (by decide))
@[simp] theorem raiseD_ports (s : State) (b : Nat) (f : Fld) (d : List Nat) : (raiseD s b f d).ports = s.ports := ((raiseD_moves s b f d (.refl [.regs, .owlFifo] s) ⟨rfl⟩).same .ports (by decide))
@[simp] theorem raiseD_fwEvents (s : State) (b : Nat) (f : Fld) (d : List Nat) : (raiseD s b f d).fwEvents = s.fwEvents := ((raiseD_moves s b f d (.refl [.regs, .owlFifo] s) ⟨rfl⟩).same .fwEvents (by decide))
@[simp] theorem raiseD_out (s : State) (b : Nat) (f : Fld) (d : List Nat) : (raiseD s b f d).out = s.out := ((raiseD_moves s b f d (.refl [.regs, .owlFifo] s) ⟨rfl⟩).same .out (by decide))
@[simp] theorem raiseD_hostResp (s : State) (b : Nat) (f : Fld) (d : List Nat) : (raiseD s b f d).hostResp = s.hostResp := ((raiseD_moves s b f d (.refl [.regs, .owlFifo] s) ⟨rfl⟩).same .hostResp (by decide))
@[simp] theorem raiseD_mbx (s : State) (b : Nat) (f : Fld) (d : List Nat) : (raiseD s b f d).mbx = s.mbx := ((raiseD_moves s b f d (.refl [.regs, .owlFifo] s) ⟨rfl⟩).same .mbx (by decide))
@[simp] theorem raiseD_mbxPosted (s : State) (b : Nat) (f : Fld) (d : List Nat) : (raiseD s b f d).mbxPosted = s.mbxPosted := ((raiseD_moves s b f d (.refl [.regs, .owlFifo] s) ⟨rfl⟩).same .mbxPosted (by decide))
@[simp] theorem raiseD_mbxRun (s : State) (b : Nat) (f : Fld) (d : List Nat) : (raiseD s b f d).mbxRun = s.mbxRun := ((raiseD_moves s b f d (.refl [.regs, .owlFifo] s) ⟨rfl⟩).same .mbxRun (by decide))
@[simp] theorem raiseD_evqs (s : State) (b : Nat) (f : Fld) (d : List Nat) : (raiseD s b f d).evqs = s.evqs := ((raiseD_moves s b f d (.refl [.regs, .owlFifo] s) ⟨rfl⟩).same .evqs (by decide))
@[simp] theorem raiseD_msix (s : State) (b : Nat) (f : Fld) (d : List Nat) : (raiseD s b f d).msix = s.msix := ((raiseD_moves s b f d (.refl [.regs, .owlFifo] s) ⟨rfl⟩).same .msix (by decide))
@[simp] theorem raiseD_msixPend (s : State) (b : Nat) (f : Fld) (d : List Nat) : (raiseD s b f d).msixPend = s.msixPend := ((raiseD_moves s b f d (.refl [.regs, .owlFifo] s) ⟨rfl⟩).same .msixPend (by decide))
@[simp] theorem raiseD_fwRecs (s : State) (b : Nat) (f : Fld) (d : List Nat) : (raiseD s b f d).fwRecs = s.fwRecs := ((raiseD_moves s b f d (.refl [.regs, .owlFifo] s) ⟨rfl⟩).same .fwRecs (by decide))
@[simp] theorem raiseD_fwNum (s : State) (b : Nat) (f : Fld) (d : List Nat) : (raiseD s b f d).fwNum = s.fwNum := ((raiseD_moves s b f d (.refl [.regs, .owlFifo] s) ⟨rfl⟩).same .fwNum (by decide))
@[simp] theorem raiseD_fwNet (s : State) (b : Nat) (f : Fld) (d : List Nat) : (raiseD s b f d).fwNet = s.fwNet := ((raiseD_moves s b f d (.refl [.regs, .owlFifo] s) ⟨rfl⟩).same .fwNet (by decide))
@[simp] theorem raiseD_owlNet (s : State) (b : Nat) (f : Fld) (d : List Nat) : (raiseD s b f d).owlNet = s.owlNet := ((raiseD_moves s b f d (.refl [.regs, .owlFifo] s) ⟨rfl⟩).same .owlNet (by decide))
@[simp] theorem raiseD_fwRaw (s : State) (b : Nat) (f : Fld) (d : List Nat) : (raiseD s b f d).fwRaw = s.fwRaw := ((raiseD_moves s b f d (.refl [.regs, .owlFifo] s) ⟨rfl⟩).same .fwRaw (by decide))
@[simp] theorem raiseD_mgmtDown (s : State) (b : Nat) (f : Fld) (d : List Nat) : (raiseD s b f d).mgmtDown = s.mgmtDown := ((raiseD_moves s b f d (.refl [.regs, .owlFifo] s) ⟨rfl⟩).same .mgmtDown (by decide))
@[simp] theorem raiseD_flash (s : State) (b : Nat) (f : Fld) (d : List Nat) : (raiseD s b f d).flash = s.flash := ((raiseD_moves s b f d (.refl [.regs, .owlFifo] s) ⟨rfl⟩).same .flash (by decide))
@[simp] theorem raiseD_sec (s : State) (b : Nat) (f : Fld) (d : List Nat) : (raiseD s b f d).sec = s.sec := ((raiseD_moves s b f d (.refl [.regs, .owlFifo] s) ⟨rfl⟩).same .sec (by decide))
@[simp] theorem raiseD_cpy (s : State) (b : Nat) (f : Fld) (d : List Nat) : (raiseD s b f d).cpy = s.cpy := ((raiseD_moves s b f d (.refl [.regs, .owlFifo] s) ⟨rfl⟩).same .cpy (by decide))
@[simp] theorem raiseD_mon (s : State) (b : Nat) (f : Fld) (d : List Nat) : (raiseD s b f d).mon = s.mon := ((raiseD_moves s b f d (.refl [.regs, .owlFifo] s) ⟨rfl⟩).same .mon (by decide))
@[simp] theorem raiseD_beatAt (s : State) (b : Nat) (f : Fld) (d : List Nat) : (raiseD s b f d).beatAt = s.beatAt := ((raiseD_moves s b f d (.refl [.regs, .owlFifo] s) ⟨rfl⟩).same .beatAt (by decide))
@[simp] theorem raiseD_stall (s : State) (b : Nat) (f : Fld) (d : List Nat) : (raiseD s b f d).stall = s.stall := ((raiseD_moves s b f d (.refl [.regs, .owlFifo] s) ⟨rfl⟩).same .stall (by decide))
@[simp] theorem raiseD_tad (s : State) (b : Nat) (f : Fld) (d : List Nat) : (raiseD s b f d).tad = s.tad := ((raiseD_moves s b f d (.refl [.regs, .owlFifo] s) ⟨rfl⟩).same .tad (by decide))
@[simp] theorem raiseD_bdg (s : State) (b : Nat) (f : Fld) (d : List Nat) : (raiseD s b f d).bdg = s.bdg := ((raiseD_moves s b f d (.refl [.regs, .owlFifo] s) ⟨rfl⟩).same .bdg (by decide))
@[simp] theorem raiseD_bdgMem (s : State) (b : Nat) (f : Fld) (d : List Nat) : (raiseD s b f d).bdgMem = s.bdgMem := ((raiseD_moves s b f d (.refl [.regs, .owlFifo] s) ⟨rfl⟩).same .bdgMem (by decide))
@[simp] theorem raiseD_bdgLast (s : State) (b : Nat) (f : Fld) (d : List Nat) : (raiseD s b f d).bdgLast = s.bdgLast := ((raiseD_moves s b f d (.refl [.regs, .owlFifo] s) ⟨rfl⟩).same .bdgLast (by decide))
@[simp] theorem raiseD_den (s : State) (b : Nat) (f : Fld) (d : List Nat) : (raiseD s b f d).den = s.den := ((raiseD_moves s b f d (.refl [.regs, .owlFifo] s) ⟨rfl⟩).same .den (by decide))
@[simp] theorem raiseD_scanned (s : State) (b : Nat) (f : Fld) (d : List Nat) : (raiseD s b f d).scanned = s.scanned := ((raiseD_moves s b f d (.refl [.regs, .owlFifo] s) ⟨rfl⟩).same .scanned (by decide))
@[simp] theorem raiseD_retiring (s : State) (b : Nat) (f : Fld) (d : List Nat) : (raiseD s b f d).retiring = s.retiring := ((raiseD_moves s b f d (.refl [.regs, .owlFifo] s) ⟨rfl⟩).same .retiring (by decide))
@[simp] theorem raiseD_pwr (s : State) (b : Nat) (f : Fld) (d : List Nat) : (raiseD s b f d).pwr = s.pwr := ((raiseD_moves s b f d (.refl [.regs, .owlFifo] s) ⟨rfl⟩).same .pwr (by decide))
@[simp] theorem raiseD_hubUp (s : State) (b : Nat) (f : Fld) (d : List Nat) : (raiseD s b f d).hubUp = s.hubUp := ((raiseD_moves s b f d (.refl [.regs, .owlFifo] s) ⟨rfl⟩).same .hubUp (by decide))
@[simp] theorem raiseD_d3hot (s : State) (b : Nat) (f : Fld) (d : List Nat) : (raiseD s b f d).d3hot = s.d3hot := ((raiseD_moves s b f d (.refl [.regs, .owlFifo] s) ⟨rfl⟩).same .d3hot (by decide))

@[simp] theorem raiseBit_pending (s : State) (b : Nat) (f : Fld) : (raiseBit s b f).pending = s.pending := ((raiseBit_moves s b f (.refl [.regs, .owlFifo] s) ⟨rfl⟩).same .pending (by decide))
@[simp] theorem raiseBit_now (s : State) (b : Nat) (f : Fld) : (raiseBit s b f).now = s.now := ((raiseBit_moves s b f (.refl [.regs, .owlFifo] s) ⟨rfl⟩).same .now (by decide))
@[simp] theorem raiseBit_freeCtr (s : State) (b : Nat) (f : Fld) : (raiseBit s b f).freeCtr = s.freeCtr := ((raiseBit_moves s b f (.refl [.regs, .owlFifo] s) ⟨rfl⟩).same .freeCtr (by decide))
@[simp] theorem raiseBit_fuses (s : State) (b : Nat) (f : Fld) : (raiseBit s b f).fuses = s.fuses := ((raiseBit_moves s b f (.refl [.regs, .owlFifo] s) ⟨rfl⟩).same .fuses (by decide))
@[simp] theorem raiseBit_flashTrims (s : State) (b : Nat) (f : Fld) : (raiseBit s b f).flashTrims = s.flashTrims := ((raiseBit_moves s b f (.refl [.regs, .owlFifo] s) ⟨rfl⟩).same .flashTrims (by decide))
@[simp] theorem raiseBit_trimWb (s : State) (b : Nat) (f : Fld) : (raiseBit s b f).trimWb = s.trimWb := ((raiseBit_moves s b f (.refl [.regs, .owlFifo] s) ⟨rfl⟩).same .trimWb (by decide))
@[simp] theorem raiseBit_latches (s : State) (b : Nat) (f : Fld) : (raiseBit s b f).latches = s.latches := ((raiseBit_moves s b f (.refl [.regs, .owlFifo] s) ⟨rfl⟩).same .latches (by decide))
@[simp] theorem raiseBit_seedLow (s : State) (b : Nat) (f : Fld) : (raiseBit s b f).seedLow = s.seedLow := ((raiseBit_moves s b f (.refl [.regs, .owlFifo] s) ⟨rfl⟩).same .seedLow (by decide))
@[simp] theorem raiseBit_hbm (s : State) (b : Nat) (f : Fld) : (raiseBit s b f).hbm = s.hbm := ((raiseBit_moves s b f (.refl [.regs, .owlFifo] s) ⟨rfl⟩).same .hbm (by decide))
@[simp] theorem raiseBit_tiles (s : State) (b : Nat) (f : Fld) : (raiseBit s b f).tiles = s.tiles := ((raiseBit_moves s b f (.refl [.regs, .owlFifo] s) ⟨rfl⟩).same .tiles (by decide))
@[simp] theorem raiseBit_mcs (s : State) (b : Nat) (f : Fld) : (raiseBit s b f).mcs = s.mcs := ((raiseBit_moves s b f (.refl [.regs, .owlFifo] s) ⟨rfl⟩).same .mcs (by decide))
@[simp] theorem raiseBit_launchAt (s : State) (b : Nat) (f : Fld) : (raiseBit s b f).launchAt = s.launchAt := ((raiseBit_moves s b f (.refl [.regs, .owlFifo] s) ⟨rfl⟩).same .launchAt (by decide))
@[simp] theorem raiseBit_sigs (s : State) (b : Nat) (f : Fld) : (raiseBit s b f).sigs = s.sigs := ((raiseBit_moves s b f (.refl [.regs, .owlFifo] s) ⟨rfl⟩).same .sigs (by decide))
@[simp] theorem raiseBit_lastGrant (s : State) (b : Nat) (f : Fld) : (raiseBit s b f).lastGrant = s.lastGrant := ((raiseBit_moves s b f (.refl [.regs, .owlFifo] s) ⟨rfl⟩).same .lastGrant (by decide))
@[simp] theorem raiseBit_grantRot (s : State) (b : Nat) (f : Fld) : (raiseBit s b f).grantRot = s.grantRot := ((raiseBit_moves s b f (.refl [.regs, .owlFifo] s) ⟨rfl⟩).same .grantRot (by decide))
@[simp] theorem raiseBit_taints (s : State) (b : Nat) (f : Fld) : (raiseBit s b f).taints = s.taints := ((raiseBit_moves s b f (.refl [.regs, .owlFifo] s) ⟨rfl⟩).same .taints (by decide))
@[simp] theorem raiseBit_taintFrom (s : State) (b : Nat) (f : Fld) : (raiseBit s b f).taintFrom = s.taintFrom := ((raiseBit_moves s b f (.refl [.regs, .owlFifo] s) ⟨rfl⟩).same .taintFrom (by decide))
@[simp] theorem raiseBit_suspects (s : State) (b : Nat) (f : Fld) : (raiseBit s b f).suspects = s.suspects := ((raiseBit_moves s b f (.refl [.regs, .owlFifo] s) ⟨rfl⟩).same .suspects (by decide))
@[simp] theorem raiseBit_cfg (s : State) (b : Nat) (f : Fld) : (raiseBit s b f).cfg = s.cfg := ((raiseBit_moves s b f (.refl [.regs, .owlFifo] s) ⟨rfl⟩).same .cfg (by decide))
@[simp] theorem raiseBit_staged (s : State) (b : Nat) (f : Fld) : (raiseBit s b f).staged = s.staged := ((raiseBit_moves s b f (.refl [.regs, .owlFifo] s) ⟨rfl⟩).same .staged (by decide))
@[simp] theorem raiseBit_prevTag (s : State) (b : Nat) (f : Fld) : (raiseBit s b f).prevTag = s.prevTag := ((raiseBit_moves s b f (.refl [.regs, .owlFifo] s) ⟨rfl⟩).same .prevTag (by decide))
@[simp] theorem raiseBit_actAt (s : State) (b : Nat) (f : Fld) : (raiseBit s b f).actAt = s.actAt := ((raiseBit_moves s b f (.refl [.regs, .owlFifo] s) ⟨rfl⟩).same .actAt (by decide))
@[simp] theorem raiseBit_hubAt (s : State) (b : Nat) (f : Fld) : (raiseBit s b f).hubAt = s.hubAt := ((raiseBit_moves s b f (.refl [.regs, .owlFifo] s) ⟨rfl⟩).same .hubAt (by decide))
@[simp] theorem raiseBit_obkts (s : State) (b : Nat) (f : Fld) : (raiseBit s b f).obkts = s.obkts := ((raiseBit_moves s b f (.refl [.regs, .owlFifo] s) ⟨rfl⟩).same .obkts (by decide))
@[simp] theorem raiseBit_rbkts (s : State) (b : Nat) (f : Fld) : (raiseBit s b f).rbkts = s.rbkts := ((raiseBit_moves s b f (.refl [.regs, .owlFifo] s) ⟨rfl⟩).same .rbkts (by decide))
@[simp] theorem raiseBit_accSent (s : State) (b : Nat) (f : Fld) : (raiseBit s b f).accSent = s.accSent := ((raiseBit_moves s b f (.refl [.regs, .owlFifo] s) ⟨rfl⟩).same .accSent (by decide))
@[simp] theorem raiseBit_localRx (s : State) (b : Nat) (f : Fld) : (raiseBit s b f).localRx = s.localRx := ((raiseBit_moves s b f (.refl [.regs, .owlFifo] s) ⟨rfl⟩).same .localRx (by decide))
@[simp] theorem raiseBit_passed (s : State) (b : Nat) (f : Fld) : (raiseBit s b f).passed = s.passed := ((raiseBit_moves s b f (.refl [.regs, .owlFifo] s) ⟨rfl⟩).same .passed (by decide))
@[simp] theorem raiseBit_doneV (s : State) (b : Nat) (f : Fld) : (raiseBit s b f).doneV = s.doneV := ((raiseBit_moves s b f (.refl [.regs, .owlFifo] s) ⟨rfl⟩).same .doneV (by decide))
@[simp] theorem raiseBit_csFails (s : State) (b : Nat) (f : Fld) : (raiseBit s b f).csFails = s.csFails := ((raiseBit_moves s b f (.refl [.regs, .owlFifo] s) ⟨rfl⟩).same .csFails (by decide))
@[simp] theorem raiseBit_failWins (s : State) (b : Nat) (f : Fld) : (raiseBit s b f).failWins = s.failWins := ((raiseBit_moves s b f (.refl [.regs, .owlFifo] s) ⟨rfl⟩).same .failWins (by decide))
@[simp] theorem raiseBit_ledger (s : State) (b : Nat) (f : Fld) : (raiseBit s b f).ledger = s.ledger := ((raiseBit_moves s b f (.refl [.regs, .owlFifo] s) ⟨rfl⟩).same .ledger (by decide))
@[simp] theorem raiseBit_ports (s : State) (b : Nat) (f : Fld) : (raiseBit s b f).ports = s.ports := ((raiseBit_moves s b f (.refl [.regs, .owlFifo] s) ⟨rfl⟩).same .ports (by decide))
@[simp] theorem raiseBit_fwEvents (s : State) (b : Nat) (f : Fld) : (raiseBit s b f).fwEvents = s.fwEvents := ((raiseBit_moves s b f (.refl [.regs, .owlFifo] s) ⟨rfl⟩).same .fwEvents (by decide))
@[simp] theorem raiseBit_out (s : State) (b : Nat) (f : Fld) : (raiseBit s b f).out = s.out := ((raiseBit_moves s b f (.refl [.regs, .owlFifo] s) ⟨rfl⟩).same .out (by decide))
@[simp] theorem raiseBit_hostResp (s : State) (b : Nat) (f : Fld) : (raiseBit s b f).hostResp = s.hostResp := ((raiseBit_moves s b f (.refl [.regs, .owlFifo] s) ⟨rfl⟩).same .hostResp (by decide))
@[simp] theorem raiseBit_mbx (s : State) (b : Nat) (f : Fld) : (raiseBit s b f).mbx = s.mbx := ((raiseBit_moves s b f (.refl [.regs, .owlFifo] s) ⟨rfl⟩).same .mbx (by decide))
@[simp] theorem raiseBit_mbxPosted (s : State) (b : Nat) (f : Fld) : (raiseBit s b f).mbxPosted = s.mbxPosted := ((raiseBit_moves s b f (.refl [.regs, .owlFifo] s) ⟨rfl⟩).same .mbxPosted (by decide))
@[simp] theorem raiseBit_mbxRun (s : State) (b : Nat) (f : Fld) : (raiseBit s b f).mbxRun = s.mbxRun := ((raiseBit_moves s b f (.refl [.regs, .owlFifo] s) ⟨rfl⟩).same .mbxRun (by decide))
@[simp] theorem raiseBit_evqs (s : State) (b : Nat) (f : Fld) : (raiseBit s b f).evqs = s.evqs := ((raiseBit_moves s b f (.refl [.regs, .owlFifo] s) ⟨rfl⟩).same .evqs (by decide))
@[simp] theorem raiseBit_msix (s : State) (b : Nat) (f : Fld) : (raiseBit s b f).msix = s.msix := ((raiseBit_moves s b f (.refl [.regs, .owlFifo] s) ⟨rfl⟩).same .msix (by decide))
@[simp] theorem raiseBit_msixPend (s : State) (b : Nat) (f : Fld) : (raiseBit s b f).msixPend = s.msixPend := ((raiseBit_moves s b f (.refl [.regs, .owlFifo] s) ⟨rfl⟩).same .msixPend (by decide))
@[simp] theorem raiseBit_fwRecs (s : State) (b : Nat) (f : Fld) : (raiseBit s b f).fwRecs = s.fwRecs := ((raiseBit_moves s b f (.refl [.regs, .owlFifo] s) ⟨rfl⟩).same .fwRecs (by decide))
@[simp] theorem raiseBit_fwNum (s : State) (b : Nat) (f : Fld) : (raiseBit s b f).fwNum = s.fwNum := ((raiseBit_moves s b f (.refl [.regs, .owlFifo] s) ⟨rfl⟩).same .fwNum (by decide))
@[simp] theorem raiseBit_fwNet (s : State) (b : Nat) (f : Fld) : (raiseBit s b f).fwNet = s.fwNet := ((raiseBit_moves s b f (.refl [.regs, .owlFifo] s) ⟨rfl⟩).same .fwNet (by decide))
@[simp] theorem raiseBit_owlNet (s : State) (b : Nat) (f : Fld) : (raiseBit s b f).owlNet = s.owlNet := ((raiseBit_moves s b f (.refl [.regs, .owlFifo] s) ⟨rfl⟩).same .owlNet (by decide))
@[simp] theorem raiseBit_fwRaw (s : State) (b : Nat) (f : Fld) : (raiseBit s b f).fwRaw = s.fwRaw := ((raiseBit_moves s b f (.refl [.regs, .owlFifo] s) ⟨rfl⟩).same .fwRaw (by decide))
@[simp] theorem raiseBit_mgmtDown (s : State) (b : Nat) (f : Fld) : (raiseBit s b f).mgmtDown = s.mgmtDown := ((raiseBit_moves s b f (.refl [.regs, .owlFifo] s) ⟨rfl⟩).same .mgmtDown (by decide))
@[simp] theorem raiseBit_flash (s : State) (b : Nat) (f : Fld) : (raiseBit s b f).flash = s.flash := ((raiseBit_moves s b f (.refl [.regs, .owlFifo] s) ⟨rfl⟩).same .flash (by decide))
@[simp] theorem raiseBit_sec (s : State) (b : Nat) (f : Fld) : (raiseBit s b f).sec = s.sec := ((raiseBit_moves s b f (.refl [.regs, .owlFifo] s) ⟨rfl⟩).same .sec (by decide))
@[simp] theorem raiseBit_cpy (s : State) (b : Nat) (f : Fld) : (raiseBit s b f).cpy = s.cpy := ((raiseBit_moves s b f (.refl [.regs, .owlFifo] s) ⟨rfl⟩).same .cpy (by decide))
@[simp] theorem raiseBit_mon (s : State) (b : Nat) (f : Fld) : (raiseBit s b f).mon = s.mon := ((raiseBit_moves s b f (.refl [.regs, .owlFifo] s) ⟨rfl⟩).same .mon (by decide))
@[simp] theorem raiseBit_beatAt (s : State) (b : Nat) (f : Fld) : (raiseBit s b f).beatAt = s.beatAt := ((raiseBit_moves s b f (.refl [.regs, .owlFifo] s) ⟨rfl⟩).same .beatAt (by decide))
@[simp] theorem raiseBit_stall (s : State) (b : Nat) (f : Fld) : (raiseBit s b f).stall = s.stall := ((raiseBit_moves s b f (.refl [.regs, .owlFifo] s) ⟨rfl⟩).same .stall (by decide))
@[simp] theorem raiseBit_tad (s : State) (b : Nat) (f : Fld) : (raiseBit s b f).tad = s.tad := ((raiseBit_moves s b f (.refl [.regs, .owlFifo] s) ⟨rfl⟩).same .tad (by decide))
@[simp] theorem raiseBit_bdg (s : State) (b : Nat) (f : Fld) : (raiseBit s b f).bdg = s.bdg := ((raiseBit_moves s b f (.refl [.regs, .owlFifo] s) ⟨rfl⟩).same .bdg (by decide))
@[simp] theorem raiseBit_bdgMem (s : State) (b : Nat) (f : Fld) : (raiseBit s b f).bdgMem = s.bdgMem := ((raiseBit_moves s b f (.refl [.regs, .owlFifo] s) ⟨rfl⟩).same .bdgMem (by decide))
@[simp] theorem raiseBit_bdgLast (s : State) (b : Nat) (f : Fld) : (raiseBit s b f).bdgLast = s.bdgLast := ((raiseBit_moves s b f (.refl [.regs, .owlFifo] s) ⟨rfl⟩).same .bdgLast (by decide))
@[simp] theorem raiseBit_den (s : State) (b : Nat) (f : Fld) : (raiseBit s b f).den = s.den := ((raiseBit_moves s b f (.refl [.regs, .owlFifo] s) ⟨rfl⟩).same .den (by decide))
@[simp] theorem raiseBit_scanned (s : State) (b : Nat) (f : Fld) : (raiseBit s b f).scanned = s.scanned := ((raiseBit_moves s b f (.refl [.regs, .owlFifo] s) ⟨rfl⟩).same .scanned (by decide))
@[simp] theorem raiseBit_retiring (s : State) (b : Nat) (f : Fld) : (raiseBit s b f).retiring = s.retiring := ((raiseBit_moves s b f (.refl [.regs, .owlFifo] s) ⟨rfl⟩).same .retiring (by decide))
@[simp] theorem raiseBit_pwr (s : State) (b : Nat) (f : Fld) : (raiseBit s b f).pwr = s.pwr := ((raiseBit_moves s b f (.refl [.regs, .owlFifo] s) ⟨rfl⟩).same .pwr (by decide))
@[simp] theorem raiseBit_hubUp (s : State) (b : Nat) (f : Fld) : (raiseBit s b f).hubUp = s.hubUp := ((raiseBit_moves s b f (.refl [.regs, .owlFifo] s) ⟨rfl⟩).same .hubUp (by decide))
@[simp] theorem raiseBit_d3hot (s : State) (b : Nat) (f : Fld) : (raiseBit s b f).d3hot = s.d3hot := ((raiseBit_moves s b f (.refl [.regs, .owlFifo] s) ⟨rfl⟩).same .d3hot (by decide))

@[simp] theorem setTile_pending (s : State) (n : Nat) (x : Tile) : (setTile s n x).pending = s.pending := rfl
@[simp] theorem setTile_now (s : State) (n : Nat) (x : Tile) : (setTile s n x).now = s.now := rfl
@[simp] theorem setTile_freeCtr (s : State) (n : Nat) (x : Tile) : (setTile s n x).freeCtr = s.freeCtr := rfl
@[simp] theorem setTile_regs (s : State) (n : Nat) (x : Tile) : (setTile s n x).regs = s.regs := rfl
@[simp] theorem setTile_fuses (s : State) (n : Nat) (x : Tile) : (setTile s n x).fuses = s.fuses := rfl
@[simp] theorem setTile_flashTrims (s : State) (n : Nat) (x : Tile) : (setTile s n x).flashTrims = s.flashTrims := rfl
@[simp] theorem setTile_trimWb (s : State) (n : Nat) (x : Tile) : (setTile s n x).trimWb = s.trimWb := rfl
@[simp] theorem setTile_latches (s : State) (n : Nat) (x : Tile) : (setTile s n x).latches = s.latches := rfl
@[simp] theorem setTile_seedLow (s : State) (n : Nat) (x : Tile) : (setTile s n x).seedLow = s.seedLow := rfl
@[simp] theorem setTile_hbm (s : State) (n : Nat) (x : Tile) : (setTile s n x).hbm = s.hbm := rfl
@[simp] theorem setTile_mcs (s : State) (n : Nat) (x : Tile) : (setTile s n x).mcs = s.mcs := rfl
@[simp] theorem setTile_launchAt (s : State) (n : Nat) (x : Tile) : (setTile s n x).launchAt = s.launchAt := rfl
@[simp] theorem setTile_sigs (s : State) (n : Nat) (x : Tile) : (setTile s n x).sigs = s.sigs := rfl
@[simp] theorem setTile_lastGrant (s : State) (n : Nat) (x : Tile) : (setTile s n x).lastGrant = s.lastGrant := rfl
@[simp] theorem setTile_grantRot (s : State) (n : Nat) (x : Tile) : (setTile s n x).grantRot = s.grantRot := rfl
@[simp] theorem setTile_owlFifo (s : State) (n : Nat) (x : Tile) : (setTile s n x).owlFifo = s.owlFifo := rfl
@[simp] theorem setTile_taints (s : State) (n : Nat) (x : Tile) : (setTile s n x).taints = s.taints := rfl
@[simp] theorem setTile_taintFrom (s : State) (n : Nat) (x : Tile) : (setTile s n x).taintFrom = s.taintFrom := rfl
@[simp] theorem setTile_suspects (s : State) (n : Nat) (x : Tile) : (setTile s n x).suspects = s.suspects := rfl
@[simp] theorem setTile_cfg (s : State) (n : Nat) (x : Tile) : (setTile s n x).cfg = s.cfg := rfl
@[simp] theorem setTile_staged (s : State) (n : Nat) (x : Tile) : (setTile s n x).staged = s.staged := rfl
@[simp] theorem setTile_prevTag (s : State) (n : Nat) (x : Tile) : (setTile s n x).prevTag = s.prevTag := rfl
@[simp] theorem setTile_actAt (s : State) (n : Nat) (x : Tile) : (setTile s n x).actAt = s.actAt := rfl
@[simp] theorem setTile_hubAt (s : State) (n : Nat) (x : Tile) : (setTile s n x).hubAt = s.hubAt := rfl
@[simp] theorem setTile_obkts (s : State) (n : Nat) (x : Tile) : (setTile s n x).obkts = s.obkts := rfl
@[simp] theorem setTile_rbkts (s : State) (n : Nat) (x : Tile) : (setTile s n x).rbkts = s.rbkts := rfl
@[simp] theorem setTile_accSent (s : State) (n : Nat) (x : Tile) : (setTile s n x).accSent = s.accSent := rfl
@[simp] theorem setTile_localRx (s : State) (n : Nat) (x : Tile) : (setTile s n x).localRx = s.localRx := rfl
@[simp] theorem setTile_passed (s : State) (n : Nat) (x : Tile) : (setTile s n x).passed = s.passed := rfl
@[simp] theorem setTile_doneV (s : State) (n : Nat) (x : Tile) : (setTile s n x).doneV = s.doneV := rfl
@[simp] theorem setTile_csFails (s : State) (n : Nat) (x : Tile) : (setTile s n x).csFails = s.csFails := rfl
@[simp] theorem setTile_failWins (s : State) (n : Nat) (x : Tile) : (setTile s n x).failWins = s.failWins := rfl
@[simp] theorem setTile_ledger (s : State) (n : Nat) (x : Tile) : (setTile s n x).ledger = s.ledger := rfl
@[simp] theorem setTile_ports (s : State) (n : Nat) (x : Tile) : (setTile s n x).ports = s.ports := rfl
@[simp] theorem setTile_fwEvents (s : State) (n : Nat) (x : Tile) : (setTile s n x).fwEvents = s.fwEvents := rfl
@[simp] theorem setTile_out (s : State) (n : Nat) (x : Tile) : (setTile s n x).out = s.out := rfl
@[simp] theorem setTile_hostResp (s : State) (n : Nat) (x : Tile) : (setTile s n x).hostResp = s.hostResp := rfl
@[simp] theorem setTile_mbx (s : State) (n : Nat) (x : Tile) : (setTile s n x).mbx = s.mbx := rfl
@[simp] theorem setTile_mbxPosted (s : State) (n : Nat) (x : Tile) : (setTile s n x).mbxPosted = s.mbxPosted := rfl
@[simp] theorem setTile_mbxRun (s : State) (n : Nat) (x : Tile) : (setTile s n x).mbxRun = s.mbxRun := rfl
@[simp] theorem setTile_evqs (s : State) (n : Nat) (x : Tile) : (setTile s n x).evqs = s.evqs := rfl
@[simp] theorem setTile_msix (s : State) (n : Nat) (x : Tile) : (setTile s n x).msix = s.msix := rfl
@[simp] theorem setTile_msixPend (s : State) (n : Nat) (x : Tile) : (setTile s n x).msixPend = s.msixPend := rfl
@[simp] theorem setTile_fwRecs (s : State) (n : Nat) (x : Tile) : (setTile s n x).fwRecs = s.fwRecs := rfl
@[simp] theorem setTile_fwNum (s : State) (n : Nat) (x : Tile) : (setTile s n x).fwNum = s.fwNum := rfl
@[simp] theorem setTile_fwNet (s : State) (n : Nat) (x : Tile) : (setTile s n x).fwNet = s.fwNet := rfl
@[simp] theorem setTile_owlNet (s : State) (n : Nat) (x : Tile) : (setTile s n x).owlNet = s.owlNet := rfl
@[simp] theorem setTile_fwRaw (s : State) (n : Nat) (x : Tile) : (setTile s n x).fwRaw = s.fwRaw := rfl
@[simp] theorem setTile_mgmtDown (s : State) (n : Nat) (x : Tile) : (setTile s n x).mgmtDown = s.mgmtDown := rfl
@[simp] theorem setTile_flash (s : State) (n : Nat) (x : Tile) : (setTile s n x).flash = s.flash := rfl
@[simp] theorem setTile_sec (s : State) (n : Nat) (x : Tile) : (setTile s n x).sec = s.sec := rfl
@[simp] theorem setTile_cpy (s : State) (n : Nat) (x : Tile) : (setTile s n x).cpy = s.cpy := rfl
@[simp] theorem setTile_mon (s : State) (n : Nat) (x : Tile) : (setTile s n x).mon = s.mon := rfl
@[simp] theorem setTile_beatAt (s : State) (n : Nat) (x : Tile) : (setTile s n x).beatAt = s.beatAt := rfl
@[simp] theorem setTile_stall (s : State) (n : Nat) (x : Tile) : (setTile s n x).stall = s.stall := rfl
@[simp] theorem setTile_tad (s : State) (n : Nat) (x : Tile) : (setTile s n x).tad = s.tad := rfl
@[simp] theorem setTile_bdg (s : State) (n : Nat) (x : Tile) : (setTile s n x).bdg = s.bdg := rfl
@[simp] theorem setTile_bdgMem (s : State) (n : Nat) (x : Tile) : (setTile s n x).bdgMem = s.bdgMem := rfl
@[simp] theorem setTile_bdgLast (s : State) (n : Nat) (x : Tile) : (setTile s n x).bdgLast = s.bdgLast := rfl
@[simp] theorem setTile_den (s : State) (n : Nat) (x : Tile) : (setTile s n x).den = s.den := rfl
@[simp] theorem setTile_scanned (s : State) (n : Nat) (x : Tile) : (setTile s n x).scanned = s.scanned := rfl
@[simp] theorem setTile_retiring (s : State) (n : Nat) (x : Tile) : (setTile s n x).retiring = s.retiring := rfl
@[simp] theorem setTile_pwr (s : State) (n : Nat) (x : Tile) : (setTile s n x).pwr = s.pwr := rfl
@[simp] theorem setTile_hubUp (s : State) (n : Nat) (x : Tile) : (setTile s n x).hubUp = s.hubUp := rfl
@[simp] theorem setTile_d3hot (s : State) (n : Nat) (x : Tile) : (setTile s n x).d3hot = s.d3hot := rfl

@[simp] theorem modTile_pending (s : State) (n : Nat) (f : Tile → Tile) : (modTile s n f).pending = s.pending := rfl
@[simp] theorem modTile_now (s : State) (n : Nat) (f : Tile → Tile) : (modTile s n f).now = s.now := rfl
@[simp] theorem modTile_freeCtr (s : State) (n : Nat) (f : Tile → Tile) : (modTile s n f).freeCtr = s.freeCtr := rfl
@[simp] theorem modTile_regs (s : State) (n : Nat) (f : Tile → Tile) : (modTile s n f).regs = s.regs := rfl
@[simp] theorem modTile_fuses (s : State) (n : Nat) (f : Tile → Tile) : (modTile s n f).fuses = s.fuses := rfl
@[simp] theorem modTile_flashTrims (s : State) (n : Nat) (f : Tile → Tile) : (modTile s n f).flashTrims = s.flashTrims := rfl
@[simp] theorem modTile_trimWb (s : State) (n : Nat) (f : Tile → Tile) : (modTile s n f).trimWb = s.trimWb := rfl
@[simp] theorem modTile_latches (s : State) (n : Nat) (f : Tile → Tile) : (modTile s n f).latches = s.latches := rfl
@[simp] theorem modTile_seedLow (s : State) (n : Nat) (f : Tile → Tile) : (modTile s n f).seedLow = s.seedLow := rfl
@[simp] theorem modTile_hbm (s : State) (n : Nat) (f : Tile → Tile) : (modTile s n f).hbm = s.hbm := rfl
@[simp] theorem modTile_mcs (s : State) (n : Nat) (f : Tile → Tile) : (modTile s n f).mcs = s.mcs := rfl
@[simp] theorem modTile_launchAt (s : State) (n : Nat) (f : Tile → Tile) : (modTile s n f).launchAt = s.launchAt := rfl
@[simp] theorem modTile_sigs (s : State) (n : Nat) (f : Tile → Tile) : (modTile s n f).sigs = s.sigs := rfl
@[simp] theorem modTile_lastGrant (s : State) (n : Nat) (f : Tile → Tile) : (modTile s n f).lastGrant = s.lastGrant := rfl
@[simp] theorem modTile_grantRot (s : State) (n : Nat) (f : Tile → Tile) : (modTile s n f).grantRot = s.grantRot := rfl
@[simp] theorem modTile_owlFifo (s : State) (n : Nat) (f : Tile → Tile) : (modTile s n f).owlFifo = s.owlFifo := rfl
@[simp] theorem modTile_taints (s : State) (n : Nat) (f : Tile → Tile) : (modTile s n f).taints = s.taints := rfl
@[simp] theorem modTile_taintFrom (s : State) (n : Nat) (f : Tile → Tile) : (modTile s n f).taintFrom = s.taintFrom := rfl
@[simp] theorem modTile_suspects (s : State) (n : Nat) (f : Tile → Tile) : (modTile s n f).suspects = s.suspects := rfl
@[simp] theorem modTile_cfg (s : State) (n : Nat) (f : Tile → Tile) : (modTile s n f).cfg = s.cfg := rfl
@[simp] theorem modTile_staged (s : State) (n : Nat) (f : Tile → Tile) : (modTile s n f).staged = s.staged := rfl
@[simp] theorem modTile_prevTag (s : State) (n : Nat) (f : Tile → Tile) : (modTile s n f).prevTag = s.prevTag := rfl
@[simp] theorem modTile_actAt (s : State) (n : Nat) (f : Tile → Tile) : (modTile s n f).actAt = s.actAt := rfl
@[simp] theorem modTile_hubAt (s : State) (n : Nat) (f : Tile → Tile) : (modTile s n f).hubAt = s.hubAt := rfl
@[simp] theorem modTile_obkts (s : State) (n : Nat) (f : Tile → Tile) : (modTile s n f).obkts = s.obkts := rfl
@[simp] theorem modTile_rbkts (s : State) (n : Nat) (f : Tile → Tile) : (modTile s n f).rbkts = s.rbkts := rfl
@[simp] theorem modTile_accSent (s : State) (n : Nat) (f : Tile → Tile) : (modTile s n f).accSent = s.accSent := rfl
@[simp] theorem modTile_localRx (s : State) (n : Nat) (f : Tile → Tile) : (modTile s n f).localRx = s.localRx := rfl
@[simp] theorem modTile_passed (s : State) (n : Nat) (f : Tile → Tile) : (modTile s n f).passed = s.passed := rfl
@[simp] theorem modTile_doneV (s : State) (n : Nat) (f : Tile → Tile) : (modTile s n f).doneV = s.doneV := rfl
@[simp] theorem modTile_csFails (s : State) (n : Nat) (f : Tile → Tile) : (modTile s n f).csFails = s.csFails := rfl
@[simp] theorem modTile_failWins (s : State) (n : Nat) (f : Tile → Tile) : (modTile s n f).failWins = s.failWins := rfl
@[simp] theorem modTile_ledger (s : State) (n : Nat) (f : Tile → Tile) : (modTile s n f).ledger = s.ledger := rfl
@[simp] theorem modTile_ports (s : State) (n : Nat) (f : Tile → Tile) : (modTile s n f).ports = s.ports := rfl
@[simp] theorem modTile_fwEvents (s : State) (n : Nat) (f : Tile → Tile) : (modTile s n f).fwEvents = s.fwEvents := rfl
@[simp] theorem modTile_out (s : State) (n : Nat) (f : Tile → Tile) : (modTile s n f).out = s.out := rfl
@[simp] theorem modTile_hostResp (s : State) (n : Nat) (f : Tile → Tile) : (modTile s n f).hostResp = s.hostResp := rfl
@[simp] theorem modTile_mbx (s : State) (n : Nat) (f : Tile → Tile) : (modTile s n f).mbx = s.mbx := rfl
@[simp] theorem modTile_mbxPosted (s : State) (n : Nat) (f : Tile → Tile) : (modTile s n f).mbxPosted = s.mbxPosted := rfl
@[simp] theorem modTile_mbxRun (s : State) (n : Nat) (f : Tile → Tile) : (modTile s n f).mbxRun = s.mbxRun := rfl
@[simp] theorem modTile_evqs (s : State) (n : Nat) (f : Tile → Tile) : (modTile s n f).evqs = s.evqs := rfl
@[simp] theorem modTile_msix (s : State) (n : Nat) (f : Tile → Tile) : (modTile s n f).msix = s.msix := rfl
@[simp] theorem modTile_msixPend (s : State) (n : Nat) (f : Tile → Tile) : (modTile s n f).msixPend = s.msixPend := rfl
@[simp] theorem modTile_fwRecs (s : State) (n : Nat) (f : Tile → Tile) : (modTile s n f).fwRecs = s.fwRecs := rfl
@[simp] theorem modTile_fwNum (s : State) (n : Nat) (f : Tile → Tile) : (modTile s n f).fwNum = s.fwNum := rfl
@[simp] theorem modTile_fwNet (s : State) (n : Nat) (f : Tile → Tile) : (modTile s n f).fwNet = s.fwNet := rfl
@[simp] theorem modTile_owlNet (s : State) (n : Nat) (f : Tile → Tile) : (modTile s n f).owlNet = s.owlNet := rfl
@[simp] theorem modTile_fwRaw (s : State) (n : Nat) (f : Tile → Tile) : (modTile s n f).fwRaw = s.fwRaw := rfl
@[simp] theorem modTile_mgmtDown (s : State) (n : Nat) (f : Tile → Tile) : (modTile s n f).mgmtDown = s.mgmtDown := rfl
@[simp] theorem modTile_flash (s : State) (n : Nat) (f : Tile → Tile) : (modTile s n f).flash = s.flash := rfl
@[simp] theorem modTile_sec (s : State) (n : Nat) (f : Tile → Tile) : (modTile s n f).sec = s.sec := rfl
@[simp] theorem modTile_cpy (s : State) (n : Nat) (f : Tile → Tile) : (modTile s n f).cpy = s.cpy := rfl
@[simp] theorem modTile_mon (s : State) (n : Nat) (f : Tile → Tile) : (modTile s n f).mon = s.mon := rfl
@[simp] theorem modTile_beatAt (s : State) (n : Nat) (f : Tile → Tile) : (modTile s n f).beatAt = s.beatAt := rfl
@[simp] theorem modTile_stall (s : State) (n : Nat) (f : Tile → Tile) : (modTile s n f).stall = s.stall := rfl
@[simp] theorem modTile_tad (s : State) (n : Nat) (f : Tile → Tile) : (modTile s n f).tad = s.tad := rfl
@[simp] theorem modTile_bdg (s : State) (n : Nat) (f : Tile → Tile) : (modTile s n f).bdg = s.bdg := rfl
@[simp] theorem modTile_bdgMem (s : State) (n : Nat) (f : Tile → Tile) : (modTile s n f).bdgMem = s.bdgMem := rfl
@[simp] theorem modTile_bdgLast (s : State) (n : Nat) (f : Tile → Tile) : (modTile s n f).bdgLast = s.bdgLast := rfl
@[simp] theorem modTile_den (s : State) (n : Nat) (f : Tile → Tile) : (modTile s n f).den = s.den := rfl
@[simp] theorem modTile_scanned (s : State) (n : Nat) (f : Tile → Tile) : (modTile s n f).scanned = s.scanned := rfl
@[simp] theorem modTile_retiring (s : State) (n : Nat) (f : Tile → Tile) : (modTile s n f).retiring = s.retiring := rfl
@[simp] theorem modTile_pwr (s : State) (n : Nat) (f : Tile → Tile) : (modTile s n f).pwr = s.pwr := rfl
@[simp] theorem modTile_hubUp (s : State) (n : Nat) (f : Tile → Tile) : (modTile s n f).hubUp = s.hubUp := rfl
@[simp] theorem modTile_d3hot (s : State) (n : Nat) (f : Tile → Tile) : (modTile s n f).d3hot = s.d3hot := rfl

@[simp] theorem hbmWrite_pending (s : State) (a : Nat) (x : List Byte) : (hbmWrite s a x).pending = s.pending := rfl
@[simp] theorem hbmWrite_now (s : State) (a : Nat) (x : List Byte) : (hbmWrite s a x).now = s.now := rfl
@[simp] theorem hbmWrite_freeCtr (s : State) (a : Nat) (x : List Byte) : (hbmWrite s a x).freeCtr = s.freeCtr := rfl
@[simp] theorem hbmWrite_regs (s : State) (a : Nat) (x : List Byte) : (hbmWrite s a x).regs = s.regs := rfl
@[simp] theorem hbmWrite_fuses (s : State) (a : Nat) (x : List Byte) : (hbmWrite s a x).fuses = s.fuses := rfl
@[simp] theorem hbmWrite_flashTrims (s : State) (a : Nat) (x : List Byte) : (hbmWrite s a x).flashTrims = s.flashTrims := rfl
@[simp] theorem hbmWrite_trimWb (s : State) (a : Nat) (x : List Byte) : (hbmWrite s a x).trimWb = s.trimWb := rfl
@[simp] theorem hbmWrite_latches (s : State) (a : Nat) (x : List Byte) : (hbmWrite s a x).latches = s.latches := rfl
@[simp] theorem hbmWrite_seedLow (s : State) (a : Nat) (x : List Byte) : (hbmWrite s a x).seedLow = s.seedLow := rfl
@[simp] theorem hbmWrite_tiles (s : State) (a : Nat) (x : List Byte) : (hbmWrite s a x).tiles = s.tiles := rfl
@[simp] theorem hbmWrite_mcs (s : State) (a : Nat) (x : List Byte) : (hbmWrite s a x).mcs = s.mcs := rfl
@[simp] theorem hbmWrite_launchAt (s : State) (a : Nat) (x : List Byte) : (hbmWrite s a x).launchAt = s.launchAt := rfl
@[simp] theorem hbmWrite_sigs (s : State) (a : Nat) (x : List Byte) : (hbmWrite s a x).sigs = s.sigs := rfl
@[simp] theorem hbmWrite_lastGrant (s : State) (a : Nat) (x : List Byte) : (hbmWrite s a x).lastGrant = s.lastGrant := rfl
@[simp] theorem hbmWrite_grantRot (s : State) (a : Nat) (x : List Byte) : (hbmWrite s a x).grantRot = s.grantRot := rfl
@[simp] theorem hbmWrite_owlFifo (s : State) (a : Nat) (x : List Byte) : (hbmWrite s a x).owlFifo = s.owlFifo := rfl
@[simp] theorem hbmWrite_taints (s : State) (a : Nat) (x : List Byte) : (hbmWrite s a x).taints = s.taints := rfl
@[simp] theorem hbmWrite_taintFrom (s : State) (a : Nat) (x : List Byte) : (hbmWrite s a x).taintFrom = s.taintFrom := rfl
@[simp] theorem hbmWrite_suspects (s : State) (a : Nat) (x : List Byte) : (hbmWrite s a x).suspects = s.suspects := rfl
@[simp] theorem hbmWrite_cfg (s : State) (a : Nat) (x : List Byte) : (hbmWrite s a x).cfg = s.cfg := rfl
@[simp] theorem hbmWrite_staged (s : State) (a : Nat) (x : List Byte) : (hbmWrite s a x).staged = s.staged := rfl
@[simp] theorem hbmWrite_prevTag (s : State) (a : Nat) (x : List Byte) : (hbmWrite s a x).prevTag = s.prevTag := rfl
@[simp] theorem hbmWrite_actAt (s : State) (a : Nat) (x : List Byte) : (hbmWrite s a x).actAt = s.actAt := rfl
@[simp] theorem hbmWrite_hubAt (s : State) (a : Nat) (x : List Byte) : (hbmWrite s a x).hubAt = s.hubAt := rfl
@[simp] theorem hbmWrite_obkts (s : State) (a : Nat) (x : List Byte) : (hbmWrite s a x).obkts = s.obkts := rfl
@[simp] theorem hbmWrite_rbkts (s : State) (a : Nat) (x : List Byte) : (hbmWrite s a x).rbkts = s.rbkts := rfl
@[simp] theorem hbmWrite_accSent (s : State) (a : Nat) (x : List Byte) : (hbmWrite s a x).accSent = s.accSent := rfl
@[simp] theorem hbmWrite_localRx (s : State) (a : Nat) (x : List Byte) : (hbmWrite s a x).localRx = s.localRx := rfl
@[simp] theorem hbmWrite_passed (s : State) (a : Nat) (x : List Byte) : (hbmWrite s a x).passed = s.passed := rfl
@[simp] theorem hbmWrite_doneV (s : State) (a : Nat) (x : List Byte) : (hbmWrite s a x).doneV = s.doneV := rfl
@[simp] theorem hbmWrite_csFails (s : State) (a : Nat) (x : List Byte) : (hbmWrite s a x).csFails = s.csFails := rfl
@[simp] theorem hbmWrite_failWins (s : State) (a : Nat) (x : List Byte) : (hbmWrite s a x).failWins = s.failWins := rfl
@[simp] theorem hbmWrite_ledger (s : State) (a : Nat) (x : List Byte) : (hbmWrite s a x).ledger = s.ledger := rfl
@[simp] theorem hbmWrite_ports (s : State) (a : Nat) (x : List Byte) : (hbmWrite s a x).ports = s.ports := rfl
@[simp] theorem hbmWrite_fwEvents (s : State) (a : Nat) (x : List Byte) : (hbmWrite s a x).fwEvents = s.fwEvents := rfl
@[simp] theorem hbmWrite_out (s : State) (a : Nat) (x : List Byte) : (hbmWrite s a x).out = s.out := rfl
@[simp] theorem hbmWrite_hostResp (s : State) (a : Nat) (x : List Byte) : (hbmWrite s a x).hostResp = s.hostResp := rfl
@[simp] theorem hbmWrite_mbx (s : State) (a : Nat) (x : List Byte) : (hbmWrite s a x).mbx = s.mbx := rfl
@[simp] theorem hbmWrite_mbxPosted (s : State) (a : Nat) (x : List Byte) : (hbmWrite s a x).mbxPosted = s.mbxPosted := rfl
@[simp] theorem hbmWrite_mbxRun (s : State) (a : Nat) (x : List Byte) : (hbmWrite s a x).mbxRun = s.mbxRun := rfl
@[simp] theorem hbmWrite_evqs (s : State) (a : Nat) (x : List Byte) : (hbmWrite s a x).evqs = s.evqs := rfl
@[simp] theorem hbmWrite_msix (s : State) (a : Nat) (x : List Byte) : (hbmWrite s a x).msix = s.msix := rfl
@[simp] theorem hbmWrite_msixPend (s : State) (a : Nat) (x : List Byte) : (hbmWrite s a x).msixPend = s.msixPend := rfl
@[simp] theorem hbmWrite_fwRecs (s : State) (a : Nat) (x : List Byte) : (hbmWrite s a x).fwRecs = s.fwRecs := rfl
@[simp] theorem hbmWrite_fwNum (s : State) (a : Nat) (x : List Byte) : (hbmWrite s a x).fwNum = s.fwNum := rfl
@[simp] theorem hbmWrite_fwNet (s : State) (a : Nat) (x : List Byte) : (hbmWrite s a x).fwNet = s.fwNet := rfl
@[simp] theorem hbmWrite_owlNet (s : State) (a : Nat) (x : List Byte) : (hbmWrite s a x).owlNet = s.owlNet := rfl
@[simp] theorem hbmWrite_fwRaw (s : State) (a : Nat) (x : List Byte) : (hbmWrite s a x).fwRaw = s.fwRaw := rfl
@[simp] theorem hbmWrite_mgmtDown (s : State) (a : Nat) (x : List Byte) : (hbmWrite s a x).mgmtDown = s.mgmtDown := rfl
@[simp] theorem hbmWrite_flash (s : State) (a : Nat) (x : List Byte) : (hbmWrite s a x).flash = s.flash := rfl
@[simp] theorem hbmWrite_sec (s : State) (a : Nat) (x : List Byte) : (hbmWrite s a x).sec = s.sec := rfl
@[simp] theorem hbmWrite_cpy (s : State) (a : Nat) (x : List Byte) : (hbmWrite s a x).cpy = s.cpy := rfl
@[simp] theorem hbmWrite_mon (s : State) (a : Nat) (x : List Byte) : (hbmWrite s a x).mon = s.mon := rfl
@[simp] theorem hbmWrite_beatAt (s : State) (a : Nat) (x : List Byte) : (hbmWrite s a x).beatAt = s.beatAt := rfl
@[simp] theorem hbmWrite_stall (s : State) (a : Nat) (x : List Byte) : (hbmWrite s a x).stall = s.stall := rfl
@[simp] theorem hbmWrite_tad (s : State) (a : Nat) (x : List Byte) : (hbmWrite s a x).tad = s.tad := rfl
@[simp] theorem hbmWrite_bdg (s : State) (a : Nat) (x : List Byte) : (hbmWrite s a x).bdg = s.bdg := rfl
@[simp] theorem hbmWrite_bdgMem (s : State) (a : Nat) (x : List Byte) : (hbmWrite s a x).bdgMem = s.bdgMem := rfl
@[simp] theorem hbmWrite_bdgLast (s : State) (a : Nat) (x : List Byte) : (hbmWrite s a x).bdgLast = s.bdgLast := rfl
@[simp] theorem hbmWrite_den (s : State) (a : Nat) (x : List Byte) : (hbmWrite s a x).den = s.den := rfl
@[simp] theorem hbmWrite_scanned (s : State) (a : Nat) (x : List Byte) : (hbmWrite s a x).scanned = s.scanned := rfl
@[simp] theorem hbmWrite_retiring (s : State) (a : Nat) (x : List Byte) : (hbmWrite s a x).retiring = s.retiring := rfl
@[simp] theorem hbmWrite_pwr (s : State) (a : Nat) (x : List Byte) : (hbmWrite s a x).pwr = s.pwr := rfl
@[simp] theorem hbmWrite_hubUp (s : State) (a : Nat) (x : List Byte) : (hbmWrite s a x).hubUp = s.hubUp := rfl
@[simp] theorem hbmWrite_d3hot (s : State) (a : Nat) (x : List Byte) : (hbmWrite s a x).d3hot = s.d3hot := rfl

@[simp] theorem modPort_pending (s : State) (p : Nat) (f : Port → Port) : (modPort s p f).pending = s.pending := rfl
@[simp] theorem modPort_now (s : State) (p : Nat) (f : Port → Port) : (modPort s p f).now = s.now := rfl
@[simp] theorem modPort_freeCtr (s : State) (p : Nat) (f : Port → Port) : (modPort s p f).freeCtr = s.freeCtr := rfl
@[simp] theorem modPort_regs (s : State) (p : Nat) (f : Port → Port) : (modPort s p f).regs = s.regs := rfl
@[simp] theorem modPort_fuses (s : State) (p : Nat) (f : Port → Port) : (modPort s p f).fuses = s.fuses := rfl
@[simp] theorem modPort_flashTrims (s : State) (p : Nat) (f : Port → Port) : (modPort s p f).flashTrims = s.flashTrims := rfl
@[simp] theorem modPort_trimWb (s : State) (p : Nat) (f : Port → Port) : (modPort s p f).trimWb = s.trimWb := rfl
@[simp] theorem modPort_latches (s : State) (p : Nat) (f : Port → Port) : (modPort s p f).latches = s.latches := rfl
@[simp] theorem modPort_seedLow (s : State) (p : Nat) (f : Port → Port) : (modPort s p f).seedLow = s.seedLow := rfl
@[simp] theorem modPort_hbm (s : State) (p : Nat) (f : Port → Port) : (modPort s p f).hbm = s.hbm := rfl
@[simp] theorem modPort_tiles (s : State) (p : Nat) (f : Port → Port) : (modPort s p f).tiles = s.tiles := rfl
@[simp] theorem modPort_mcs (s : State) (p : Nat) (f : Port → Port) : (modPort s p f).mcs = s.mcs := rfl
@[simp] theorem modPort_launchAt (s : State) (p : Nat) (f : Port → Port) : (modPort s p f).launchAt = s.launchAt := rfl
@[simp] theorem modPort_sigs (s : State) (p : Nat) (f : Port → Port) : (modPort s p f).sigs = s.sigs := rfl
@[simp] theorem modPort_lastGrant (s : State) (p : Nat) (f : Port → Port) : (modPort s p f).lastGrant = s.lastGrant := rfl
@[simp] theorem modPort_grantRot (s : State) (p : Nat) (f : Port → Port) : (modPort s p f).grantRot = s.grantRot := rfl
@[simp] theorem modPort_owlFifo (s : State) (p : Nat) (f : Port → Port) : (modPort s p f).owlFifo = s.owlFifo := rfl
@[simp] theorem modPort_taints (s : State) (p : Nat) (f : Port → Port) : (modPort s p f).taints = s.taints := rfl
@[simp] theorem modPort_taintFrom (s : State) (p : Nat) (f : Port → Port) : (modPort s p f).taintFrom = s.taintFrom := rfl
@[simp] theorem modPort_suspects (s : State) (p : Nat) (f : Port → Port) : (modPort s p f).suspects = s.suspects := rfl
@[simp] theorem modPort_cfg (s : State) (p : Nat) (f : Port → Port) : (modPort s p f).cfg = s.cfg := rfl
@[simp] theorem modPort_staged (s : State) (p : Nat) (f : Port → Port) : (modPort s p f).staged = s.staged := rfl
@[simp] theorem modPort_prevTag (s : State) (p : Nat) (f : Port → Port) : (modPort s p f).prevTag = s.prevTag := rfl
@[simp] theorem modPort_actAt (s : State) (p : Nat) (f : Port → Port) : (modPort s p f).actAt = s.actAt := rfl
@[simp] theorem modPort_hubAt (s : State) (p : Nat) (f : Port → Port) : (modPort s p f).hubAt = s.hubAt := rfl
@[simp] theorem modPort_obkts (s : State) (p : Nat) (f : Port → Port) : (modPort s p f).obkts = s.obkts := rfl
@[simp] theorem modPort_rbkts (s : State) (p : Nat) (f : Port → Port) : (modPort s p f).rbkts = s.rbkts := rfl
@[simp] theorem modPort_accSent (s : State) (p : Nat) (f : Port → Port) : (modPort s p f).accSent = s.accSent := rfl
@[simp] theorem modPort_localRx (s : State) (p : Nat) (f : Port → Port) : (modPort s p f).localRx = s.localRx := rfl
@[simp] theorem modPort_passed (s : State) (p : Nat) (f : Port → Port) : (modPort s p f).passed = s.passed := rfl
@[simp] theorem modPort_doneV (s : State) (p : Nat) (f : Port → Port) : (modPort s p f).doneV = s.doneV := rfl
@[simp] theorem modPort_csFails (s : State) (p : Nat) (f : Port → Port) : (modPort s p f).csFails = s.csFails := rfl
@[simp] theorem modPort_failWins (s : State) (p : Nat) (f : Port → Port) : (modPort s p f).failWins = s.failWins := rfl
@[simp] theorem modPort_ledger (s : State) (p : Nat) (f : Port → Port) : (modPort s p f).ledger = s.ledger := rfl
@[simp] theorem modPort_fwEvents (s : State) (p : Nat) (f : Port → Port) : (modPort s p f).fwEvents = s.fwEvents := rfl
@[simp] theorem modPort_out (s : State) (p : Nat) (f : Port → Port) : (modPort s p f).out = s.out := rfl
@[simp] theorem modPort_hostResp (s : State) (p : Nat) (f : Port → Port) : (modPort s p f).hostResp = s.hostResp := rfl
@[simp] theorem modPort_mbx (s : State) (p : Nat) (f : Port → Port) : (modPort s p f).mbx = s.mbx := rfl
@[simp] theorem modPort_mbxPosted (s : State) (p : Nat) (f : Port → Port) : (modPort s p f).mbxPosted = s.mbxPosted := rfl
@[simp] theorem modPort_mbxRun (s : State) (p : Nat) (f : Port → Port) : (modPort s p f).mbxRun = s.mbxRun := rfl
@[simp] theorem modPort_evqs (s : State) (p : Nat) (f : Port → Port) : (modPort s p f).evqs = s.evqs := rfl
@[simp] theorem modPort_msix (s : State) (p : Nat) (f : Port → Port) : (modPort s p f).msix = s.msix := rfl
@[simp] theorem modPort_msixPend (s : State) (p : Nat) (f : Port → Port) : (modPort s p f).msixPend = s.msixPend := rfl
@[simp] theorem modPort_fwRecs (s : State) (p : Nat) (f : Port → Port) : (modPort s p f).fwRecs = s.fwRecs := rfl
@[simp] theorem modPort_fwNum (s : State) (p : Nat) (f : Port → Port) : (modPort s p f).fwNum = s.fwNum := rfl
@[simp] theorem modPort_fwNet (s : State) (p : Nat) (f : Port → Port) : (modPort s p f).fwNet = s.fwNet := rfl
@[simp] theorem modPort_owlNet (s : State) (p : Nat) (f : Port → Port) : (modPort s p f).owlNet = s.owlNet := rfl
@[simp] theorem modPort_fwRaw (s : State) (p : Nat) (f : Port → Port) : (modPort s p f).fwRaw = s.fwRaw := rfl
@[simp] theorem modPort_mgmtDown (s : State) (p : Nat) (f : Port → Port) : (modPort s p f).mgmtDown = s.mgmtDown := rfl
@[simp] theorem modPort_flash (s : State) (p : Nat) (f : Port → Port) : (modPort s p f).flash = s.flash := rfl
@[simp] theorem modPort_sec (s : State) (p : Nat) (f : Port → Port) : (modPort s p f).sec = s.sec := rfl
@[simp] theorem modPort_cpy (s : State) (p : Nat) (f : Port → Port) : (modPort s p f).cpy = s.cpy := rfl
@[simp] theorem modPort_mon (s : State) (p : Nat) (f : Port → Port) : (modPort s p f).mon = s.mon := rfl
@[simp] theorem modPort_beatAt (s : State) (p : Nat) (f : Port → Port) : (modPort s p f).beatAt = s.beatAt := rfl
@[simp] theorem modPort_stall (s : State) (p : Nat) (f : Port → Port) : (modPort s p f).stall = s.stall := rfl
@[simp] theorem modPort_tad (s : State) (p : Nat) (f : Port → Port) : (modPort s p f).tad = s.tad := rfl
@[simp] theorem modPort_bdg (s : State) (p : Nat) (f : Port → Port) : (modPort s p f).bdg = s.bdg := rfl
@[simp] theorem modPort_bdgMem (s : State) (p : Nat) (f : Port → Port) : (modPort s p f).bdgMem = s.bdgMem := rfl
@[simp] theorem modPort_bdgLast (s : State) (p : Nat) (f : Port → Port) : (modPort s p f).bdgLast = s.bdgLast := rfl
@[simp] theorem modPort_den (s : State) (p : Nat) (f : Port → Port) : (modPort s p f).den = s.den := rfl
@[simp] theorem modPort_scanned (s : State) (p : Nat) (f : Port → Port) : (modPort s p f).scanned = s.scanned := rfl
@[simp] theorem modPort_retiring (s : State) (p : Nat) (f : Port → Port) : (modPort s p f).retiring = s.retiring := rfl
@[simp] theorem modPort_pwr (s : State) (p : Nat) (f : Port → Port) : (modPort s p f).pwr = s.pwr := rfl
@[simp] theorem modPort_hubUp (s : State) (p : Nat) (f : Port → Port) : (modPort s p f).hubUp = s.hubUp := rfl
@[simp] theorem modPort_d3hot (s : State) (p : Nat) (f : Port → Port) : (modPort s p f).d3hot = s.d3hot := rfl

@[simp] theorem mbxWrite_pending (s : State) (a : Nat) (x : List Byte) : (mbxWrite s a x).pending = s.pending := rfl
@[simp] theorem mbxWrite_now (s : State) (a : Nat) (x : List Byte) : (mbxWrite s a x).now = s.now := rfl
@[simp] theorem mbxWrite_freeCtr (s : State) (a : Nat) (x : List Byte) : (mbxWrite s a x).freeCtr = s.freeCtr := rfl
@[simp] theorem mbxWrite_regs (s : State) (a : Nat) (x : List Byte) : (mbxWrite s a x).regs = s.regs := rfl
@[simp] theorem mbxWrite_fuses (s : State) (a : Nat) (x : List Byte) : (mbxWrite s a x).fuses = s.fuses := rfl
@[simp] theorem mbxWrite_flashTrims (s : State) (a : Nat) (x : List Byte) : (mbxWrite s a x).flashTrims = s.flashTrims := rfl
@[simp] theorem mbxWrite_trimWb (s : State) (a : Nat) (x : List Byte) : (mbxWrite s a x).trimWb = s.trimWb := rfl
@[simp] theorem mbxWrite_latches (s : State) (a : Nat) (x : List Byte) : (mbxWrite s a x).latches = s.latches := rfl
@[simp] theorem mbxWrite_seedLow (s : State) (a : Nat) (x : List Byte) : (mbxWrite s a x).seedLow = s.seedLow := rfl
@[simp] theorem mbxWrite_hbm (s : State) (a : Nat) (x : List Byte) : (mbxWrite s a x).hbm = s.hbm := rfl
@[simp] theorem mbxWrite_tiles (s : State) (a : Nat) (x : List Byte) : (mbxWrite s a x).tiles = s.tiles := rfl
@[simp] theorem mbxWrite_mcs (s : State) (a : Nat) (x : List Byte) : (mbxWrite s a x).mcs = s.mcs := rfl
@[simp] theorem mbxWrite_launchAt (s : State) (a : Nat) (x : List Byte) : (mbxWrite s a x).launchAt = s.launchAt := rfl
@[simp] theorem mbxWrite_sigs (s : State) (a : Nat) (x : List Byte) : (mbxWrite s a x).sigs = s.sigs := rfl
@[simp] theorem mbxWrite_lastGrant (s : State) (a : Nat) (x : List Byte) : (mbxWrite s a x).lastGrant = s.lastGrant := rfl
@[simp] theorem mbxWrite_grantRot (s : State) (a : Nat) (x : List Byte) : (mbxWrite s a x).grantRot = s.grantRot := rfl
@[simp] theorem mbxWrite_owlFifo (s : State) (a : Nat) (x : List Byte) : (mbxWrite s a x).owlFifo = s.owlFifo := rfl
@[simp] theorem mbxWrite_taints (s : State) (a : Nat) (x : List Byte) : (mbxWrite s a x).taints = s.taints := rfl
@[simp] theorem mbxWrite_taintFrom (s : State) (a : Nat) (x : List Byte) : (mbxWrite s a x).taintFrom = s.taintFrom := rfl
@[simp] theorem mbxWrite_suspects (s : State) (a : Nat) (x : List Byte) : (mbxWrite s a x).suspects = s.suspects := rfl
@[simp] theorem mbxWrite_cfg (s : State) (a : Nat) (x : List Byte) : (mbxWrite s a x).cfg = s.cfg := rfl
@[simp] theorem mbxWrite_staged (s : State) (a : Nat) (x : List Byte) : (mbxWrite s a x).staged = s.staged := rfl
@[simp] theorem mbxWrite_prevTag (s : State) (a : Nat) (x : List Byte) : (mbxWrite s a x).prevTag = s.prevTag := rfl
@[simp] theorem mbxWrite_actAt (s : State) (a : Nat) (x : List Byte) : (mbxWrite s a x).actAt = s.actAt := rfl
@[simp] theorem mbxWrite_hubAt (s : State) (a : Nat) (x : List Byte) : (mbxWrite s a x).hubAt = s.hubAt := rfl
@[simp] theorem mbxWrite_obkts (s : State) (a : Nat) (x : List Byte) : (mbxWrite s a x).obkts = s.obkts := rfl
@[simp] theorem mbxWrite_rbkts (s : State) (a : Nat) (x : List Byte) : (mbxWrite s a x).rbkts = s.rbkts := rfl
@[simp] theorem mbxWrite_accSent (s : State) (a : Nat) (x : List Byte) : (mbxWrite s a x).accSent = s.accSent := rfl
@[simp] theorem mbxWrite_localRx (s : State) (a : Nat) (x : List Byte) : (mbxWrite s a x).localRx = s.localRx := rfl
@[simp] theorem mbxWrite_passed (s : State) (a : Nat) (x : List Byte) : (mbxWrite s a x).passed = s.passed := rfl
@[simp] theorem mbxWrite_doneV (s : State) (a : Nat) (x : List Byte) : (mbxWrite s a x).doneV = s.doneV := rfl
@[simp] theorem mbxWrite_csFails (s : State) (a : Nat) (x : List Byte) : (mbxWrite s a x).csFails = s.csFails := rfl
@[simp] theorem mbxWrite_failWins (s : State) (a : Nat) (x : List Byte) : (mbxWrite s a x).failWins = s.failWins := rfl
@[simp] theorem mbxWrite_ledger (s : State) (a : Nat) (x : List Byte) : (mbxWrite s a x).ledger = s.ledger := rfl
@[simp] theorem mbxWrite_ports (s : State) (a : Nat) (x : List Byte) : (mbxWrite s a x).ports = s.ports := rfl
@[simp] theorem mbxWrite_fwEvents (s : State) (a : Nat) (x : List Byte) : (mbxWrite s a x).fwEvents = s.fwEvents := rfl
@[simp] theorem mbxWrite_out (s : State) (a : Nat) (x : List Byte) : (mbxWrite s a x).out = s.out := rfl
@[simp] theorem mbxWrite_hostResp (s : State) (a : Nat) (x : List Byte) : (mbxWrite s a x).hostResp = s.hostResp := rfl
@[simp] theorem mbxWrite_mbxPosted (s : State) (a : Nat) (x : List Byte) : (mbxWrite s a x).mbxPosted = s.mbxPosted := rfl
@[simp] theorem mbxWrite_mbxRun (s : State) (a : Nat) (x : List Byte) : (mbxWrite s a x).mbxRun = s.mbxRun := rfl
@[simp] theorem mbxWrite_evqs (s : State) (a : Nat) (x : List Byte) : (mbxWrite s a x).evqs = s.evqs := rfl
@[simp] theorem mbxWrite_msix (s : State) (a : Nat) (x : List Byte) : (mbxWrite s a x).msix = s.msix := rfl
@[simp] theorem mbxWrite_msixPend (s : State) (a : Nat) (x : List Byte) : (mbxWrite s a x).msixPend = s.msixPend := rfl
@[simp] theorem mbxWrite_fwRecs (s : State) (a : Nat) (x : List Byte) : (mbxWrite s a x).fwRecs = s.fwRecs := rfl
@[simp] theorem mbxWrite_fwNum (s : State) (a : Nat) (x : List Byte) : (mbxWrite s a x).fwNum = s.fwNum := rfl
@[simp] theorem mbxWrite_fwNet (s : State) (a : Nat) (x : List Byte) : (mbxWrite s a x).fwNet = s.fwNet := rfl
@[simp] theorem mbxWrite_owlNet (s : State) (a : Nat) (x : List Byte) : (mbxWrite s a x).owlNet = s.owlNet := rfl
@[simp] theorem mbxWrite_fwRaw (s : State) (a : Nat) (x : List Byte) : (mbxWrite s a x).fwRaw = s.fwRaw := rfl
@[simp] theorem mbxWrite_mgmtDown (s : State) (a : Nat) (x : List Byte) : (mbxWrite s a x).mgmtDown = s.mgmtDown := rfl
@[simp] theorem mbxWrite_flash (s : State) (a : Nat) (x : List Byte) : (mbxWrite s a x).flash = s.flash := rfl
@[simp] theorem mbxWrite_sec (s : State) (a : Nat) (x : List Byte) : (mbxWrite s a x).sec = s.sec := rfl
@[simp] theorem mbxWrite_cpy (s : State) (a : Nat) (x : List Byte) : (mbxWrite s a x).cpy = s.cpy := rfl
@[simp] theorem mbxWrite_mon (s : State) (a : Nat) (x : List Byte) : (mbxWrite s a x).mon = s.mon := rfl
@[simp] theorem mbxWrite_beatAt (s : State) (a : Nat) (x : List Byte) : (mbxWrite s a x).beatAt = s.beatAt := rfl
@[simp] theorem mbxWrite_stall (s : State) (a : Nat) (x : List Byte) : (mbxWrite s a x).stall = s.stall := rfl
@[simp] theorem mbxWrite_tad (s : State) (a : Nat) (x : List Byte) : (mbxWrite s a x).tad = s.tad := rfl
@[simp] theorem mbxWrite_bdg (s : State) (a : Nat) (x : List Byte) : (mbxWrite s a x).bdg = s.bdg := rfl
@[simp] theorem mbxWrite_bdgMem (s : State) (a : Nat) (x : List Byte) : (mbxWrite s a x).bdgMem = s.bdgMem := rfl
@[simp] theorem mbxWrite_bdgLast (s : State) (a : Nat) (x : List Byte) : (mbxWrite s a x).bdgLast = s.bdgLast := rfl
@[simp] theorem mbxWrite_den (s : State) (a : Nat) (x : List Byte) : (mbxWrite s a x).den = s.den := rfl
@[simp] theorem mbxWrite_scanned (s : State) (a : Nat) (x : List Byte) : (mbxWrite s a x).scanned = s.scanned := rfl
@[simp] theorem mbxWrite_retiring (s : State) (a : Nat) (x : List Byte) : (mbxWrite s a x).retiring = s.retiring := rfl
@[simp] theorem mbxWrite_pwr (s : State) (a : Nat) (x : List Byte) : (mbxWrite s a x).pwr = s.pwr := rfl
@[simp] theorem mbxWrite_hubUp (s : State) (a : Nat) (x : List Byte) : (mbxWrite s a x).hubUp = s.hubUp := rfl
@[simp] theorem mbxWrite_d3hot (s : State) (a : Nat) (x : List Byte) : (mbxWrite s a x).d3hot = s.d3hot := rfl

@[simp] theorem modBdg_pending (s : State) (a : Nat) (x : BdgCh → BdgCh) : (modBdg s a x).pending = s.pending := rfl
@[simp] theorem modBdg_now (s : State) (a : Nat) (x : BdgCh → BdgCh) : (modBdg s a x).now = s.now := rfl
@[simp] theorem modBdg_freeCtr (s : State) (a : Nat) (x : BdgCh → BdgCh) : (modBdg s a x).freeCtr = s.freeCtr := rfl
@[simp] theorem modBdg_regs (s : State) (a : Nat) (x : BdgCh → BdgCh) : (modBdg s a x).regs = s.regs := rfl
@[simp] theorem modBdg_fuses (s : State) (a : Nat) (x : BdgCh → BdgCh) : (modBdg s a x).fuses = s.fuses := rfl
@[simp] theorem modBdg_flashTrims (s : State) (a : Nat) (x : BdgCh → BdgCh) : (modBdg s a x).flashTrims = s.flashTrims := rfl
@[simp] theorem modBdg_trimWb (s : State) (a : Nat) (x : BdgCh → BdgCh) : (modBdg s a x).trimWb = s.trimWb := rfl
@[simp] theorem modBdg_latches (s : State) (a : Nat) (x : BdgCh → BdgCh) : (modBdg s a x).latches = s.latches := rfl
@[simp] theorem modBdg_seedLow (s : State) (a : Nat) (x : BdgCh → BdgCh) : (modBdg s a x).seedLow = s.seedLow := rfl
@[simp] theorem modBdg_hbm (s : State) (a : Nat) (x : BdgCh → BdgCh) : (modBdg s a x).hbm = s.hbm := rfl
@[simp] theorem modBdg_tiles (s : State) (a : Nat) (x : BdgCh → BdgCh) : (modBdg s a x).tiles = s.tiles := rfl
@[simp] theorem modBdg_mcs (s : State) (a : Nat) (x : BdgCh → BdgCh) : (modBdg s a x).mcs = s.mcs := rfl
@[simp] theorem modBdg_launchAt (s : State) (a : Nat) (x : BdgCh → BdgCh) : (modBdg s a x).launchAt = s.launchAt := rfl
@[simp] theorem modBdg_sigs (s : State) (a : Nat) (x : BdgCh → BdgCh) : (modBdg s a x).sigs = s.sigs := rfl
@[simp] theorem modBdg_lastGrant (s : State) (a : Nat) (x : BdgCh → BdgCh) : (modBdg s a x).lastGrant = s.lastGrant := rfl
@[simp] theorem modBdg_grantRot (s : State) (a : Nat) (x : BdgCh → BdgCh) : (modBdg s a x).grantRot = s.grantRot := rfl
@[simp] theorem modBdg_owlFifo (s : State) (a : Nat) (x : BdgCh → BdgCh) : (modBdg s a x).owlFifo = s.owlFifo := rfl
@[simp] theorem modBdg_taints (s : State) (a : Nat) (x : BdgCh → BdgCh) : (modBdg s a x).taints = s.taints := rfl
@[simp] theorem modBdg_taintFrom (s : State) (a : Nat) (x : BdgCh → BdgCh) : (modBdg s a x).taintFrom = s.taintFrom := rfl
@[simp] theorem modBdg_suspects (s : State) (a : Nat) (x : BdgCh → BdgCh) : (modBdg s a x).suspects = s.suspects := rfl
@[simp] theorem modBdg_cfg (s : State) (a : Nat) (x : BdgCh → BdgCh) : (modBdg s a x).cfg = s.cfg := rfl
@[simp] theorem modBdg_staged (s : State) (a : Nat) (x : BdgCh → BdgCh) : (modBdg s a x).staged = s.staged := rfl
@[simp] theorem modBdg_prevTag (s : State) (a : Nat) (x : BdgCh → BdgCh) : (modBdg s a x).prevTag = s.prevTag := rfl
@[simp] theorem modBdg_actAt (s : State) (a : Nat) (x : BdgCh → BdgCh) : (modBdg s a x).actAt = s.actAt := rfl
@[simp] theorem modBdg_hubAt (s : State) (a : Nat) (x : BdgCh → BdgCh) : (modBdg s a x).hubAt = s.hubAt := rfl
@[simp] theorem modBdg_obkts (s : State) (a : Nat) (x : BdgCh → BdgCh) : (modBdg s a x).obkts = s.obkts := rfl
@[simp] theorem modBdg_rbkts (s : State) (a : Nat) (x : BdgCh → BdgCh) : (modBdg s a x).rbkts = s.rbkts := rfl
@[simp] theorem modBdg_accSent (s : State) (a : Nat) (x : BdgCh → BdgCh) : (modBdg s a x).accSent = s.accSent := rfl
@[simp] theorem modBdg_localRx (s : State) (a : Nat) (x : BdgCh → BdgCh) : (modBdg s a x).localRx = s.localRx := rfl
@[simp] theorem modBdg_passed (s : State) (a : Nat) (x : BdgCh → BdgCh) : (modBdg s a x).passed = s.passed := rfl
@[simp] theorem modBdg_doneV (s : State) (a : Nat) (x : BdgCh → BdgCh) : (modBdg s a x).doneV = s.doneV := rfl
@[simp] theorem modBdg_csFails (s : State) (a : Nat) (x : BdgCh → BdgCh) : (modBdg s a x).csFails = s.csFails := rfl
@[simp] theorem modBdg_failWins (s : State) (a : Nat) (x : BdgCh → BdgCh) : (modBdg s a x).failWins = s.failWins := rfl
@[simp] theorem modBdg_ledger (s : State) (a : Nat) (x : BdgCh → BdgCh) : (modBdg s a x).ledger = s.ledger := rfl
@[simp] theorem modBdg_ports (s : State) (a : Nat) (x : BdgCh → BdgCh) : (modBdg s a x).ports = s.ports := rfl
@[simp] theorem modBdg_fwEvents (s : State) (a : Nat) (x : BdgCh → BdgCh) : (modBdg s a x).fwEvents = s.fwEvents := rfl
@[simp] theorem modBdg_out (s : State) (a : Nat) (x : BdgCh → BdgCh) : (modBdg s a x).out = s.out := rfl
@[simp] theorem modBdg_hostResp (s : State) (a : Nat) (x : BdgCh → BdgCh) : (modBdg s a x).hostResp = s.hostResp := rfl
@[simp] theorem modBdg_mbx (s : State) (a : Nat) (x : BdgCh → BdgCh) : (modBdg s a x).mbx = s.mbx := rfl
@[simp] theorem modBdg_mbxPosted (s : State) (a : Nat) (x : BdgCh → BdgCh) : (modBdg s a x).mbxPosted = s.mbxPosted := rfl
@[simp] theorem modBdg_mbxRun (s : State) (a : Nat) (x : BdgCh → BdgCh) : (modBdg s a x).mbxRun = s.mbxRun := rfl
@[simp] theorem modBdg_evqs (s : State) (a : Nat) (x : BdgCh → BdgCh) : (modBdg s a x).evqs = s.evqs := rfl
@[simp] theorem modBdg_msix (s : State) (a : Nat) (x : BdgCh → BdgCh) : (modBdg s a x).msix = s.msix := rfl
@[simp] theorem modBdg_msixPend (s : State) (a : Nat) (x : BdgCh → BdgCh) : (modBdg s a x).msixPend = s.msixPend := rfl
@[simp] theorem modBdg_fwRecs (s : State) (a : Nat) (x : BdgCh → BdgCh) : (modBdg s a x).fwRecs = s.fwRecs := rfl
@[simp] theorem modBdg_fwNum (s : State) (a : Nat) (x : BdgCh → BdgCh) : (modBdg s a x).fwNum = s.fwNum := rfl
@[simp] theorem modBdg_fwNet (s : State) (a : Nat) (x : BdgCh → BdgCh) : (modBdg s a x).fwNet = s.fwNet := rfl
@[simp] theorem modBdg_owlNet (s : State) (a : Nat) (x : BdgCh → BdgCh) : (modBdg s a x).owlNet = s.owlNet := rfl
@[simp] theorem modBdg_fwRaw (s : State) (a : Nat) (x : BdgCh → BdgCh) : (modBdg s a x).fwRaw = s.fwRaw := rfl
@[simp] theorem modBdg_mgmtDown (s : State) (a : Nat) (x : BdgCh → BdgCh) : (modBdg s a x).mgmtDown = s.mgmtDown := rfl
@[simp] theorem modBdg_flash (s : State) (a : Nat) (x : BdgCh → BdgCh) : (modBdg s a x).flash = s.flash := rfl
@[simp] theorem modBdg_sec (s : State) (a : Nat) (x : BdgCh → BdgCh) : (modBdg s a x).sec = s.sec := rfl
@[simp] theorem modBdg_cpy (s : State) (a : Nat) (x : BdgCh → BdgCh) : (modBdg s a x).cpy = s.cpy := rfl
@[simp] theorem modBdg_mon (s : State) (a : Nat) (x : BdgCh → BdgCh) : (modBdg s a x).mon = s.mon := rfl
@[simp] theorem modBdg_beatAt (s : State) (a : Nat) (x : BdgCh → BdgCh) : (modBdg s a x).beatAt = s.beatAt := rfl
@[simp] theorem modBdg_stall (s : State) (a : Nat) (x : BdgCh → BdgCh) : (modBdg s a x).stall = s.stall := rfl
@[simp] theorem modBdg_tad (s : State) (a : Nat) (x : BdgCh → BdgCh) : (modBdg s a x).tad = s.tad := rfl
@[simp] theorem modBdg_bdgMem (s : State) (a : Nat) (x : BdgCh → BdgCh) : (modBdg s a x).bdgMem = s.bdgMem := rfl
@[simp] theorem modBdg_bdgLast (s : State) (a : Nat) (x : BdgCh → BdgCh) : (modBdg s a x).bdgLast = s.bdgLast := rfl
@[simp] theorem modBdg_den (s : State) (a : Nat) (x : BdgCh → BdgCh) : (modBdg s a x).den = s.den := rfl
@[simp] theorem modBdg_scanned (s : State) (a : Nat) (x : BdgCh → BdgCh) : (modBdg s a x).scanned = s.scanned := rfl
@[simp] theorem modBdg_retiring (s : State) (a : Nat) (x : BdgCh → BdgCh) : (modBdg s a x).retiring = s.retiring := rfl
@[simp] theorem modBdg_pwr (s : State) (a : Nat) (x : BdgCh → BdgCh) : (modBdg s a x).pwr = s.pwr := rfl
@[simp] theorem modBdg_hubUp (s : State) (a : Nat) (x : BdgCh → BdgCh) : (modBdg s a x).hubUp = s.hubUp := rfl
@[simp] theorem modBdg_d3hot (s : State) (a : Nat) (x : BdgCh → BdgCh) : (modBdg s a x).d3hot = s.d3hot := rfl

@[simp] theorem modEvq_pending (s : State) (a : Nat) (x : EvqState → EvqState) : (modEvq s a x).pending = s.pending := rfl
@[simp] theorem modEvq_now (s : State) (a : Nat) (x : EvqState → EvqState) : (modEvq s a x).now = s.now := rfl
@[simp] theorem modEvq_freeCtr (s : State) (a : Nat) (x : EvqState → EvqState) : (modEvq s a x).freeCtr = s.freeCtr := rfl
@[simp] theorem modEvq_regs (s : State) (a : Nat) (x : EvqState → EvqState) : (modEvq s a x).regs = s.regs := rfl
@[simp] theorem modEvq_fuses (s : State) (a : Nat) (x : EvqState → EvqState) : (modEvq s a x).fuses = s.fuses := rfl
@[simp] theorem modEvq_flashTrims (s : State) (a : Nat) (x : EvqState → EvqState) : (modEvq s a x).flashTrims = s.flashTrims := rfl
@[simp] theorem modEvq_trimWb (s : State) (a : Nat) (x : EvqState → EvqState) : (modEvq s a x).trimWb = s.trimWb := rfl
@[simp] theorem modEvq_latches (s : State) (a : Nat) (x : EvqState → EvqState) : (modEvq s a x).latches = s.latches := rfl
@[simp] theorem modEvq_seedLow (s : State) (a : Nat) (x : EvqState → EvqState) : (modEvq s a x).seedLow = s.seedLow := rfl
@[simp] theorem modEvq_hbm (s : State) (a : Nat) (x : EvqState → EvqState) : (modEvq s a x).hbm = s.hbm := rfl
@[simp] theorem modEvq_tiles (s : State) (a : Nat) (x : EvqState → EvqState) : (modEvq s a x).tiles = s.tiles := rfl
@[simp] theorem modEvq_mcs (s : State) (a : Nat) (x : EvqState → EvqState) : (modEvq s a x).mcs = s.mcs := rfl
@[simp] theorem modEvq_launchAt (s : State) (a : Nat) (x : EvqState → EvqState) : (modEvq s a x).launchAt = s.launchAt := rfl
@[simp] theorem modEvq_sigs (s : State) (a : Nat) (x : EvqState → EvqState) : (modEvq s a x).sigs = s.sigs := rfl
@[simp] theorem modEvq_lastGrant (s : State) (a : Nat) (x : EvqState → EvqState) : (modEvq s a x).lastGrant = s.lastGrant := rfl
@[simp] theorem modEvq_grantRot (s : State) (a : Nat) (x : EvqState → EvqState) : (modEvq s a x).grantRot = s.grantRot := rfl
@[simp] theorem modEvq_owlFifo (s : State) (a : Nat) (x : EvqState → EvqState) : (modEvq s a x).owlFifo = s.owlFifo := rfl
@[simp] theorem modEvq_taints (s : State) (a : Nat) (x : EvqState → EvqState) : (modEvq s a x).taints = s.taints := rfl
@[simp] theorem modEvq_taintFrom (s : State) (a : Nat) (x : EvqState → EvqState) : (modEvq s a x).taintFrom = s.taintFrom := rfl
@[simp] theorem modEvq_suspects (s : State) (a : Nat) (x : EvqState → EvqState) : (modEvq s a x).suspects = s.suspects := rfl
@[simp] theorem modEvq_cfg (s : State) (a : Nat) (x : EvqState → EvqState) : (modEvq s a x).cfg = s.cfg := rfl
@[simp] theorem modEvq_staged (s : State) (a : Nat) (x : EvqState → EvqState) : (modEvq s a x).staged = s.staged := rfl
@[simp] theorem modEvq_prevTag (s : State) (a : Nat) (x : EvqState → EvqState) : (modEvq s a x).prevTag = s.prevTag := rfl
@[simp] theorem modEvq_actAt (s : State) (a : Nat) (x : EvqState → EvqState) : (modEvq s a x).actAt = s.actAt := rfl
@[simp] theorem modEvq_hubAt (s : State) (a : Nat) (x : EvqState → EvqState) : (modEvq s a x).hubAt = s.hubAt := rfl
@[simp] theorem modEvq_obkts (s : State) (a : Nat) (x : EvqState → EvqState) : (modEvq s a x).obkts = s.obkts := rfl
@[simp] theorem modEvq_rbkts (s : State) (a : Nat) (x : EvqState → EvqState) : (modEvq s a x).rbkts = s.rbkts := rfl
@[simp] theorem modEvq_accSent (s : State) (a : Nat) (x : EvqState → EvqState) : (modEvq s a x).accSent = s.accSent := rfl
@[simp] theorem modEvq_localRx (s : State) (a : Nat) (x : EvqState → EvqState) : (modEvq s a x).localRx = s.localRx := rfl
@[simp] theorem modEvq_passed (s : State) (a : Nat) (x : EvqState → EvqState) : (modEvq s a x).passed = s.passed := rfl
@[simp] theorem modEvq_doneV (s : State) (a : Nat) (x : EvqState → EvqState) : (modEvq s a x).doneV = s.doneV := rfl
@[simp] theorem modEvq_csFails (s : State) (a : Nat) (x : EvqState → EvqState) : (modEvq s a x).csFails = s.csFails := rfl
@[simp] theorem modEvq_failWins (s : State) (a : Nat) (x : EvqState → EvqState) : (modEvq s a x).failWins = s.failWins := rfl
@[simp] theorem modEvq_ledger (s : State) (a : Nat) (x : EvqState → EvqState) : (modEvq s a x).ledger = s.ledger := rfl
@[simp] theorem modEvq_ports (s : State) (a : Nat) (x : EvqState → EvqState) : (modEvq s a x).ports = s.ports := rfl
@[simp] theorem modEvq_fwEvents (s : State) (a : Nat) (x : EvqState → EvqState) : (modEvq s a x).fwEvents = s.fwEvents := rfl
@[simp] theorem modEvq_out (s : State) (a : Nat) (x : EvqState → EvqState) : (modEvq s a x).out = s.out := rfl
@[simp] theorem modEvq_hostResp (s : State) (a : Nat) (x : EvqState → EvqState) : (modEvq s a x).hostResp = s.hostResp := rfl
@[simp] theorem modEvq_mbx (s : State) (a : Nat) (x : EvqState → EvqState) : (modEvq s a x).mbx = s.mbx := rfl
@[simp] theorem modEvq_mbxPosted (s : State) (a : Nat) (x : EvqState → EvqState) : (modEvq s a x).mbxPosted = s.mbxPosted := rfl
@[simp] theorem modEvq_mbxRun (s : State) (a : Nat) (x : EvqState → EvqState) : (modEvq s a x).mbxRun = s.mbxRun := rfl
@[simp] theorem modEvq_msix (s : State) (a : Nat) (x : EvqState → EvqState) : (modEvq s a x).msix = s.msix := rfl
@[simp] theorem modEvq_msixPend (s : State) (a : Nat) (x : EvqState → EvqState) : (modEvq s a x).msixPend = s.msixPend := rfl
@[simp] theorem modEvq_fwRecs (s : State) (a : Nat) (x : EvqState → EvqState) : (modEvq s a x).fwRecs = s.fwRecs := rfl
@[simp] theorem modEvq_fwNum (s : State) (a : Nat) (x : EvqState → EvqState) : (modEvq s a x).fwNum = s.fwNum := rfl
@[simp] theorem modEvq_fwNet (s : State) (a : Nat) (x : EvqState → EvqState) : (modEvq s a x).fwNet = s.fwNet := rfl
@[simp] theorem modEvq_owlNet (s : State) (a : Nat) (x : EvqState → EvqState) : (modEvq s a x).owlNet = s.owlNet := rfl
@[simp] theorem modEvq_fwRaw (s : State) (a : Nat) (x : EvqState → EvqState) : (modEvq s a x).fwRaw = s.fwRaw := rfl
@[simp] theorem modEvq_mgmtDown (s : State) (a : Nat) (x : EvqState → EvqState) : (modEvq s a x).mgmtDown = s.mgmtDown := rfl
@[simp] theorem modEvq_flash (s : State) (a : Nat) (x : EvqState → EvqState) : (modEvq s a x).flash = s.flash := rfl
@[simp] theorem modEvq_sec (s : State) (a : Nat) (x : EvqState → EvqState) : (modEvq s a x).sec = s.sec := rfl
@[simp] theorem modEvq_cpy (s : State) (a : Nat) (x : EvqState → EvqState) : (modEvq s a x).cpy = s.cpy := rfl
@[simp] theorem modEvq_mon (s : State) (a : Nat) (x : EvqState → EvqState) : (modEvq s a x).mon = s.mon := rfl
@[simp] theorem modEvq_beatAt (s : State) (a : Nat) (x : EvqState → EvqState) : (modEvq s a x).beatAt = s.beatAt := rfl
@[simp] theorem modEvq_stall (s : State) (a : Nat) (x : EvqState → EvqState) : (modEvq s a x).stall = s.stall := rfl
@[simp] theorem modEvq_tad (s : State) (a : Nat) (x : EvqState → EvqState) : (modEvq s a x).tad = s.tad := rfl
@[simp] theorem modEvq_bdg (s : State) (a : Nat) (x : EvqState → EvqState) : (modEvq s a x).bdg = s.bdg := rfl
@[simp] theorem modEvq_bdgMem (s : State) (a : Nat) (x : EvqState → EvqState) : (modEvq s a x).bdgMem = s.bdgMem := rfl
@[simp] theorem modEvq_bdgLast (s : State) (a : Nat) (x : EvqState → EvqState) : (modEvq s a x).bdgLast = s.bdgLast := rfl
@[simp] theorem modEvq_den (s : State) (a : Nat) (x : EvqState → EvqState) : (modEvq s a x).den = s.den := rfl
@[simp] theorem modEvq_scanned (s : State) (a : Nat) (x : EvqState → EvqState) : (modEvq s a x).scanned = s.scanned := rfl
@[simp] theorem modEvq_retiring (s : State) (a : Nat) (x : EvqState → EvqState) : (modEvq s a x).retiring = s.retiring := rfl
@[simp] theorem modEvq_pwr (s : State) (a : Nat) (x : EvqState → EvqState) : (modEvq s a x).pwr = s.pwr := rfl
@[simp] theorem modEvq_hubUp (s : State) (a : Nat) (x : EvqState → EvqState) : (modEvq s a x).hubUp = s.hubUp := rfl
@[simp] theorem modEvq_d3hot (s : State) (a : Nat) (x : EvqState → EvqState) : (modEvq s a x).d3hot = s.d3hot := rfl

end Sys2Proof.Machine
end

