-- ==== Sys2Proof/Laws/Regs.lean ====
section
/-! SUPPORT. The laws of register words and fields, of tiles, arrays and queues, and of the operations that statements compute with. -/

namespace Sys2Proof.Machine

theorem putBits_eq (w hi lo v : Nat) :
    putBits w hi lo v = 2 ^ lo * (2 ^ (hi - lo + 1) * (w / 2 ^ lo / 2 ^ (hi - lo + 1)) + v % 2 ^ (hi - lo + 1)) + w % 2 ^ lo := by
  unfold putBits
  dsimp only
  have h1 := Nat.div_add_mod w (2 ^ lo)
  have h2 := Nat.div_add_mod (w / 2 ^ lo) (2 ^ (hi - lo + 1))
  generalize w / 2 ^ lo = q at *
  generalize q / 2 ^ (hi - lo + 1) = a at *
  generalize q % 2 ^ (hi - lo + 1) = m at *
  generalize w % 2 ^ lo = r at *
  generalize v % 2 ^ (hi - lo + 1) = u
  generalize 2 ^ (hi - lo + 1) = n at *
  generalize 2 ^ lo = p at *
  subst h1 h2
  have : p * (n * a + m) + r - m * p = p * (n * a) + r := by
    rw [Nat.mul_add, Nat.mul_comm m p]; omega
  rw [this, Nat.mul_add, Nat.mul_comm u p]; omega

theorem testBit_putBits (w hi lo v i : Nat) (h : lo ≤ hi) :
    (putBits w hi lo v).testBit i = if lo ≤ i ∧ i ≤ hi then v.testBit (i - lo) else w.testBit i := by
  rw [putBits_eq w hi lo v, Nat.testBit_two_pow_mul_add _ (Nat.mod_lt _ (Nat.two_pow_pos _))]
  by_cases h1 : i < lo
  · simp [h1, Nat.testBit_mod_two_pow] <;> omega
  · rw [if_neg h1, Nat.testBit_two_pow_mul_add _ (Nat.mod_lt _ (Nat.two_pow_pos _))]
    by_cases h2 : i - lo < hi - lo + 1
    · rw [if_pos h2, if_pos (by omega), Nat.testBit_mod_two_pow]; simp [h2]
    · rw [if_neg h2, if_neg (by omega), Nat.testBit_div_two_pow, Nat.testBit_div_two_pow]
      congr 1; omega

theorem putBits_lt {w hi lo v N : Nat} (h : lo ≤ hi) (hN : hi < N) (hw : w < 2 ^ N) : putBits w hi lo v < 2 ^ N := by
  apply Nat.lt_pow_two_of_testBit
  intro i hi'
  rw [testBit_putBits _ _ _ _ _ h, if_neg (by omega)]
  exact Nat.testBit_lt_two_pow (Nat.lt_of_lt_of_le hw (Nat.pow_le_pow_right (by omega) hi'))

/-- A field of a number after a write of its bits. -/
theorem putBits_get (w hi lo v : Nat) (h : lo ≤ hi) : putBits w hi lo v / 2 ^ lo % 2 ^ (hi - lo + 1) = v % 2 ^ (hi - lo + 1) := by
  apply Nat.eq_of_testBit_eq
  intro i
  simp only [Nat.testBit_mod_two_pow, Nat.testBit_div_two_pow, testBit_putBits _ _ _ _ _ h]
  by_cases h1 : i < hi - lo + 1
  · rw [if_pos (by omega)]; simp
  · simp [h1]

/-- A field of a number after a write of other bits. -/
theorem putBits_get_other (w hi lo v hi' lo' : Nat) (h : lo ≤ hi) (h' : lo' ≤ hi') (ha : hi < lo' ∨ hi' < lo) :
    putBits w hi lo v / 2 ^ lo' % 2 ^ (hi' - lo' + 1) = w / 2 ^ lo' % 2 ^ (hi' - lo' + 1) := by
  apply Nat.eq_of_testBit_eq
  intro i
  simp only [Nat.testBit_mod_two_pow, Nat.testBit_div_two_pow, testBit_putBits _ _ _ _ _ h]
  by_cases h1 : i < hi' - lo' + 1
  · rw [if_neg (by omega)]
  · simp [h1]

/-- The register table is in its canonical form. -/
def regsOk (s : State) : Prop := swf resetWord s.regs = true

theorem regsOk_of_canon {s : State} (h : s.canon = true) : regsOk s := by
  unfold State.canon at h
  simp only [Bool.and_eq_true] at h
  exact h.1.1.1.1.1.1.1.1.1.1.1.1

@[simp] theorem regsOk_wrReg {s : State} (h : regsOk s) (k : Nat) (w : Word) : regsOk (wrReg s k w) := swf_sset _ h _ _

@[simp] theorem regsOk_setFld {s : State} (h : regsOk s) (b : Nat) (f : Fld) (v : Nat) : regsOk (setFld s b f v) := by
  unfold setFld; dsimp only; split
  · exact regsOk_wrReg h _ _
  · exact regsOk_wrReg (regsOk_wrReg h _ _) _ _

theorem rdReg_wrReg_same {s : State} (h : regsOk s) (k : Nat) (w : Word) : rdReg (wrReg s k w) k = w := sget_sset_same _ h _ _

theorem rdReg_wrReg_other (s : State) {j k : Nat} (h : j ≠ k) (w : Word) : rdReg (wrReg s k w) j = rdReg s j := sget_sset_other _ _ h _

/-- A field write leaves every word that it does not lie in. -/
theorem rdReg_setFld_other (s : State) (b : Nat) (f : Fld) (v j : Nat) (h : j ≠ b + f.off) (h' : f.hi < 32 ∨ j ≠ b + f.off + 4) :
    rdReg (setFld s b f v) j = rdReg s j := by
  unfold setFld; dsimp only
  split
  · exact rdReg_wrReg_other _ h _
  · rw [rdReg_wrReg_other _ (by omega), rdReg_wrReg_other _ h]

/-- A field is well placed: not empty and within its one or two words. -/
abbrev Fld.ok (f : Fld) : Prop := f.lo ≤ f.hi ∧ f.hi < 64

theorem rdReg_lt (s : State) (k : Nat) : (rdReg s k).toNat < 2 ^ 32 := (rdReg s k).isLt

/-- The number a field counts in: one word, or two. -/
def fldNum (s : State) (b : Nat) (f : Fld) : Nat :=
  if f.hi < 32 then (rdReg s (b + f.off)).toNat else (rdReg s (b + f.off)).toNat + (rdReg s (b + f.off + 4)).toNat * 2 ^ 32

theorem fld_eq (s : State) (b : Nat) (f : Fld) : fld s b f = fldNum s b f / 2 ^ f.lo % 2 ^ (f.hi - f.lo + 1) := rfl

theorem fldNum_lt (s : State) (b : Nat) (f : Fld) : fldNum s b f < 2 ^ 64 := by
  have h1 := rdReg_lt s (b + f.off); have h2 := rdReg_lt s (b + f.off + 4)
  unfold fldNum; split <;> omega

theorem fldNum_setFld {s : State} (h : regsOk s) (b : Nat) (f g : Fld) (v : Nat) (hf : f.ok) (ho : g.off = f.off) (hw : f.hi < 32 ↔ g.hi < 32) :
    fldNum (setFld s b f v) b g = putBits (fldNum s b f) f.hi f.lo v := by
  unfold setFld fldNum; dsimp only
  rw [ho]
  by_cases h1 : f.hi < 32
  · rw [if_pos h1, if_pos (hw.1 h1), if_pos h1, rdReg_wrReg_same h, BitVec.toNat_ofNat, Nat.mod_eq_of_lt]
    exact putBits_lt hf.1 h1 (rdReg_lt _ _)
  · rw [if_neg h1, if_neg (by omega), if_neg h1, rdReg_wrReg_other _ (by omega), rdReg_wrReg_same h, rdReg_wrReg_same (regsOk_wrReg h _ _),
      BitVec.toNat_ofNat, BitVec.toNat_ofNat]
    have hl := fldNum_lt s b f
    unfold fldNum at hl
    rw [if_neg h1] at hl
    have := putBits_lt (v := v) hf.1 hf.2 hl
    omega

/-- A field reads as what was written to it. -/
theorem fld_setFld_same {s : State} (h : regsOk s) (b : Nat) (f : Fld) (v : Nat) (hf : f.ok) :
    fld (setFld s b f v) b f = v % 2 ^ (f.hi - f.lo + 1) := by
  rw [fld_eq, fldNum_setFld h b f f v hf rfl .rfl, putBits_get _ _ _ _ hf.1]

/-- Other bits of the same register read as before. -/
theorem fld_setFld_bits {s : State} (h : regsOk s) (b : Nat) (f g : Fld) (v : Nat) (hf : f.ok) (hg : g.ok) (ho : g.off = f.off)
    (hw : f.hi < 32 ↔ g.hi < 32) (ha : f.hi < g.lo ∨ g.hi < f.lo) : fld (setFld s b f v) b g = fld s b g := by
  rw [fld_eq, fldNum_setFld h b f g v hf ho hw, putBits_get_other _ _ _ _ _ _ hf.1 hg.1 ha, fld_eq]
  congr 2
  unfold fldNum; rw [ho]
  by_cases h1 : f.hi < 32
  · rw [if_pos h1, if_pos (hw.1 h1)]
  · rw [if_neg h1, if_neg (by omega)]

/-- Fields of other words read as before. -/
theorem fld_setFld_words (s : State) (b c : Nat) (f g : Fld) (v : Nat)
    (h : b + f.off + 4 < c + g.off ∨ c + g.off + 4 < b + f.off ∨ (f.hi < 32 ∧ g.hi < 32 ∧ b + f.off ≠ c + g.off)
      ∨ (f.hi < 32 ∧ b + f.off < c + g.off) ∨ (g.hi < 32 ∧ c + g.off < b + f.off)) :
    fld (setFld s b f v) c g = fld s c g := by
  unfold fld
  dsimp only
  by_cases h1 : g.hi < 32
  · rw [if_pos h1, if_pos h1, rdReg_setFld_other _ _ _ _ _ (by omega) (by omega)]
  · rw [if_neg h1, if_neg h1, rdReg_setFld_other _ _ _ _ _ (by omega) (by omega), rdReg_setFld_other _ _ _ _ _ (by omega) (by omega)]


/-- Fields whose words lie eight bytes or more apart do not meet. -/
theorem fld_setFld_far (s : State) (b c : Nat) (f g : Fld) (v : Nat) (h : b + f.off + 8 ≤ c + g.off ∨ c + g.off + 8 ≤ b + f.off) :
    fld (setFld s b f v) c g = fld s c g := fld_setFld_words s b c f g v (by omega)

/-- A reading depends on the registers alone. -/
theorem fld_of_regs {s t : State} (h : t.regs = s.regs) (b : Nat) (g : Fld) : fld t b g = fld s b g := by
  unfold fld rdReg; rw [h]

theorem rdReg_of_regs {s t : State} (h : t.regs = s.regs) (k : Nat) : rdReg t k = rdReg s k := by unfold rdReg; rw [h]

theorem fld_lt (s : State) (b : Nat) (f : Fld) : fld s b f < 2 ^ (f.hi - f.lo + 1) := Nat.mod_lt _ (Nat.two_pow_pos _)

@[simp] theorem regsOk_setBit {s : State} (h : regsOk s) (b : Nat) (f : Fld) (v : Bool) : regsOk (setBit s b f v) := regsOk_setFld h _ _ _

@[simp] theorem regsOk_count {s : State} (h : regsOk s) (b : Nat) (f : Fld) (v : Nat) : regsOk (count s b f v) := regsOk_setFld h _ _ _

/-- A counter after it was counted: it saturates. -/
theorem fld_count_same {s : State} (h : regsOk s) (b : Nat) (f : Fld) (n : Nat) (hf : f.ok) :
    fld (count s b f n) b f = min (fld s b f + n) (2 ^ (f.hi - f.lo + 1) - 1) := by
  unfold count
  rw [fld_setFld_same h b f _ hf, Nat.mod_eq_of_lt]
  have := Nat.two_pow_pos (f.hi - f.lo + 1)
  omega

theorem fld_count_far (s : State) (b c : Nat) (f g : Fld) (v : Nat) (h : b + f.off + 8 ≤ c + g.off ∨ c + g.off + 8 ≤ b + f.off) :
    fld (count s b f v) c g = fld s c g := fld_setFld_far s b c f g _ h

theorem rdReg_count_other (s : State) (b : Nat) (f : Fld) (v j : Nat) (h : j ≠ b + f.off) (h' : f.hi < 32 ∨ j ≠ b + f.off + 4) :
    rdReg (count s b f v) j = rdReg s j := rdReg_setFld_other s b f _ j h h'

theorem rdReg_owlDrop (s : State) (k : Nat) (h : owlWord k = false) : rdReg (owlDrop s) k = rdReg s k := by
  simp [owlWord] at h
  unfold owlDrop
  dsimp only
  split
  · exact rdReg_count_other _ _ _ _ _ (by simp [R.OWL_DROP_FIFO]; omega) (.inl (by decide))
  · rw [rdReg_count_other _ _ _ _ _ (by simp [R.OWL_DROP_FIFO]; omega) (.inl (by decide)),
      rdReg_count_other _ _ _ _ _ (by simp [R.OWL_REC_CNT]; omega) (.inl (by decide)),
      rdReg_setFld_other _ _ _ _ _ (by simp [R.OWL_SEQ]; omega) (.inl (by decide)),
      rdReg_setFld_other _ _ _ _ _ (by simp [R.OWL_STATUS_DROP]; omega) (.inl (by decide)),
      rdReg_count_other _ _ _ _ _ (by simp [R.OWL_DROP_FIFO]; omega) (.inl (by decide))]

theorem rdReg_owlPut {s s1 : State} (r : RawRec) {k : Nat} (e1 : rdReg s1 k = rdReg s k) (e2 : ∀ s, rdReg (owlDrop s) k = rdReg s k) :
    rdReg (if s1.owlFifo.length < 256 then (if r.net || r.bdg then { s1 with owlFifo := s1.owlFifo ++ [r] } else s1) else owlDrop s1) k =
      rdReg s k := by
  split
  · split
    · exact (rdReg_of_regs rfl k).trans e1
    · exact e1
  · rw [e2]; exact e1

/-- Producing a record writes no other word. -/
theorem rdReg_owlRecord (s : State) (reg bit kind unit : Nat) (d : List Nat) (k : Nat) (h : owlWord k = false) :
    rdReg (owlRecord s reg bit kind unit d) k = rdReg s k := by
  have h' := h
  simp [owlWord] at h'
  unfold owlRecord
  extract_lets r s1
  have e1 : rdReg s1 k = rdReg s k := by
    rw [rdReg_count_other _ _ _ _ _ (by simp [R.OWL_REC_CNT]; omega) (.inl (by decide)),
      rdReg_setFld_other _ _ _ _ _ (by simp [R.OWL_SEQ]; omega) (.inl (by decide))]
  exact rdReg_owlPut r e1 fun x => rdReg_owlDrop x k h

/-- Setting a status bit writes its own word and the record's words. -/
theorem rdReg_raiseD (s : State) (b : Nat) (f : Fld) (d : List Nat) (k : Nat) (h : owlWord k = false) (h1 : k ≠ b + f.off)
    (h2 : f.hi < 32 ∨ k ≠ b + f.off + 4) : rdReg (raiseD s b f d) k = rdReg s k := by
  unfold raiseD
  dsimp only
  rw [rdReg_owlRecord _ _ _ _ _ _ _ h, rdReg_setFld_other _ _ _ _ _ h1 h2]

theorem fld_of_words {s t : State} {b : Nat} {f : Fld} (h1 : rdReg t (b + f.off) = rdReg s (b + f.off))
    (h2 : f.hi < 32 ∨ rdReg t (b + f.off + 4) = rdReg s (b + f.off + 4)) : fld t b f = fld s b f := by
  unfold fld; dsimp only
  by_cases h : f.hi < 32
  · rw [if_pos h, if_pos h, h1]
  · rw [if_neg h, if_neg h, h1, h2.resolve_left h]

/-- Fields outside Owl's block are unchanged by producing a record. -/
theorem fld_owlRecord (s : State) (reg bit kind unit : Nat) (d : List Nat) (b : Nat) (g : Fld) (h : b + g.off + 8 ≤ 0x90000 ∨ 0x91000 ≤ b + g.off) :
    fld (owlRecord s reg bit kind unit d) b g = fld s b g :=
  fld_of_words (rdReg_owlRecord _ _ _ _ _ _ _ (by simp [owlWord]; omega)) (.inr (rdReg_owlRecord _ _ _ _ _ _ _ (by simp [owlWord]; omega)))

/-- A status bit outside Owl's block stands after it was set. -/
theorem fld_raiseD_same {s : State} (h : regsOk s) (b : Nat) (f : Fld) (d : List Nat) (hf : f.ok) (ho : b + f.off + 8 ≤ 0x90000 ∨ 0x91000 ≤ b + f.off) :
    fld (raiseD s b f d) b f = 1 := by
  unfold raiseD
  dsimp only
  rw [fld_owlRecord _ _ _ _ _ _ _ _ ho, fld_setFld_same h b f 1 hf]
  exact Nat.mod_eq_of_lt (Nat.one_lt_two_pow (by omega))

theorem fld_raiseBit_same {s : State} (h : regsOk s) (b : Nat) (f : Fld) (hf : f.ok) (ho : b + f.off + 8 ≤ 0x90000 ∨ 0x91000 ≤ b + f.off) :
    fld (raiseBit s b f) b f = 1 := fld_raiseD_same h b f [] hf ho

/-- Setting a status bit leaves fields elsewhere as they were. -/
theorem fld_raiseD_far (s : State) (b c : Nat) (f g : Fld) (d : List Nat) (ho : c + g.off + 8 ≤ 0x90000 ∨ 0x91000 ≤ c + g.off)
    (h : b + f.off + 8 ≤ c + g.off ∨ c + g.off + 8 ≤ b + f.off) : fld (raiseD s b f d) c g = fld s c g := by
  unfold raiseD
  dsimp only
  rw [fld_owlRecord _ _ _ _ _ _ _ _ ho, fld_setFld_far _ _ _ _ _ _ h]

theorem fld_raiseBit_far (s : State) (b c : Nat) (f g : Fld) (ho : c + g.off + 8 ≤ 0x90000 ∨ 0x91000 ≤ c + g.off)
    (h : b + f.off + 8 ≤ c + g.off ∨ c + g.off + 8 ≤ b + f.off) : fld (raiseBit s b f) c g = fld s c g := fld_raiseD_far s b c f g [] ho h

/-- Setting a status bit leaves the other bits of its register as they were. -/
theorem fld_raiseD_bits {s : State} (hs : regsOk s) (b : Nat) (f g : Fld) (d : List Nat) (hf : f.ok) (hg : g.ok) (ho : g.off = f.off)
    (hw : f.hi < 32 ↔ g.hi < 32) (ha : f.hi < g.lo ∨ g.hi < f.lo) (hb : b + f.off + 8 ≤ 0x90000 ∨ 0x91000 ≤ b + f.off) :
    fld (raiseD s b f d) b g = fld s b g := by
  unfold raiseD
  dsimp only
  rw [fld_owlRecord _ _ _ _ _ _ _ _ (by omega), fld_setFld_bits hs b f g 1 hf hg ho hw ha]

/-! ### Tables -/

theorem canon_tiles {s : State} (h : s.canon = true) : swf (fun _ => ({} : Tile)) s.tiles = true := by
  unfold State.canon at h
  simp only [Bool.and_eq_true] at h
  exact h.1.1.1.1.1.1.1.1.2

theorem canon_hbm {s : State} (h : s.canon = true) : swf hbmDefault s.hbm = true := by
  unfold State.canon at h
  simp only [Bool.and_eq_true] at h
  exact h.1.1.1.1.1.1.1.1.1.2

/-- A tile reads as what was stored. -/
theorem tileAt_setTile {s : State} (h : swf (fun _ => ({} : Tile)) s.tiles = true) (n : Nat) (t : Tile) : tileAt (setTile s n t) n = t := sget_sset_same _ h _ _

theorem tileAt_modTile {s : State} (h : swf (fun _ => ({} : Tile)) s.tiles = true) (n : Nat) (f : Tile → Tile) : tileAt (modTile s n f) n = f (tileAt s n) :=
  sget_sset_same _ h _ _

theorem tileAt_modTile_other (s : State) {m n : Nat} (h : m ≠ n) (f : Tile → Tile) : tileAt (modTile s n f) m = tileAt s m := sget_sset_other _ _ h _

theorem tileAt_of_tiles {s t : State} (h : t.tiles = s.tiles) (n : Nat) : tileAt t n = tileAt s n := by unfold tileAt; rw [h]

end Sys2Proof.Machine
end

