-- ==== Sys2Proof/Laws/Vu.lean ====
section
/-! SUPPORT. What the bookkeeping around an instruction of the vector unit leaves as it was: the unit's registers and instruction memory. -/

namespace Sys2Proof.Machine

/-- The registers and the instruction memory of a tile's vector unit, and the tile's sett memory. -/
def vuRegs (s : State) (n : Nat) : (List (Nat × Word) × List (Nat × BitVec 1024) × List (Nat × Word) × List (Nat × BitVec 64)) × List (Nat × Byte) :=
  (((tileAt s n).vu.v, (tileAt s n).vu.p, (tileAt s n).vu.s, (tileAt s n).vu.imem), (tileAt s n).sett)

/-- From `s` to `t` the canonical form is kept and tile n's vector registers and sett memory stay. -/
structure VuKept (n : Nat) (s t : State) : Prop where
  canon : s.canon = true → t.canon = true
  regs : s.canon = true → vuRegs t n = vuRegs s n

theorem VuKept.refl (n : Nat) (s : State) : VuKept n s s := ⟨id, fun _ => rfl⟩

theorem VuKept.trans {n : Nat} {s t u : State} (h : VuKept n s t) (k : VuKept n t u) : VuKept n s u :=
  ⟨fun c => k.canon (h.canon c), fun c => (k.regs (h.canon c)).trans (h.regs c)⟩

theorem VuKept.of_moves {n : Nat} {l : List Part} {s0 s t : State} (h : Moves l s t) (hp : Part.tiles ∉ l) (k : VuKept n s0 s) : VuKept n s0 t :=
  k.trans ⟨h.canon, fun _ => by
    have : t.tiles = s.tiles := h.same .tiles hp
    unfold vuRegs tileAt; rw [this]⟩

/-- A change of a tile that leaves its vector unit's registers. -/
theorem kept_modTile {n : Nat} {s0 s : State} (m : Nat) (f : Tile → Tile) (k : VuKept n s0 s)
    (hf : ∀ x, (f x).vu.v = x.vu.v ∧ (f x).vu.p = x.vu.p ∧ (f x).vu.s = x.vu.s ∧ (f x).vu.imem = x.vu.imem ∧ (f x).sett = x.sett) : VuKept n s0 (modTile s m f) :=
  k.trans ⟨fun c => (modTile_moves s m f (.refl _ s) ⟨rfl⟩ : Moves [.tiles] s _).canon c, fun c => by
    unfold vuRegs
    by_cases h : n = m
    · subst h
      rw [tileAt_modTile (canon_tiles c)]
      simp [hf (tileAt s n)]
    · rw [tileAt_modTile_other s h]⟩

theorem VuKept.ite {n : Nat} {s t u : State} {c : Prop} [Decidable c] (h : VuKept n s t) (k : VuKept n s u) : VuKept n s (if c then t else u) := by
  split
  · exact h
  · exact k

theorem kept_setFld {n : Nat} {s0 s : State} (b : Nat) (f : Fld) (v : Nat) (k : VuKept n s0 s) : VuKept n s0 (setFld s b f v) :=
  .of_moves (setFld_moves s b f v (.refl [.regs] s) ⟨rfl⟩) (by decide) k

theorem kept_count {n : Nat} {s0 s : State} (b : Nat) (f : Fld) (v : Nat) (k : VuKept n s0 s) : VuKept n s0 (count s b f v) := kept_setFld _ _ _ k

theorem kept_raiseNamed {n : Nat} {s0 s : State} (b : Nat) (f : Fld) (raw : List Nat) (ty c v x y : Nat) (d : List Nat) (k : VuKept n s0 s) :
    VuKept n s0 (raiseNamed s b f raw ty c v x y d) :=
  .of_moves (raiseNamed_moves s b f raw ty c v x y d (.refl [.regs, .owlFifo, .fwEvents] s) ⟨rfl⟩) (by decide) k

theorem kept_raiseBit {n : Nat} {s0 s : State} (b : Nat) (f : Fld) (k : VuKept n s0 s) : VuKept n s0 (raiseBit s b f) :=
  .of_moves (raiseBit_moves s b f (.refl [.regs, .owlFifo] s) ⟨rfl⟩) (by decide) k

theorem kept_dropPrefetch {n : Nat} {s0 s : State} (m : Nat) (k : VuKept n s0 s) : VuKept n s0 (dropPrefetch s m) := by
  unfold dropPrefetch
  dsimp only
  refine kept_modTile _ _ (kept_setFld _ _ _ ?_) fun _ => ⟨rfl, rfl, rfl, rfl, rfl⟩
  split
  · exact k
  · exact kept_count _ _ _ k

theorem kept_haltSeq {n : Nat} {s0 s : State} (m st idx : Nat) (x : Bool) (k : VuKept n s0 s) : VuKept n s0 (haltSeq s m st idx x) := by
  unfold haltSeq
  extract_lets tb t next s1 s2 s3 s4 s5
  have h1 : VuKept n s0 s1 := .ite k (kept_setFld _ _ _ k)
  have h5 : VuKept n s0 s5 := kept_raiseNamed _ _ _ _ _ _ _ _ _ (kept_count _ _ _ (kept_setFld _ _ _ (kept_setFld _ _ _ (kept_setFld _ _ _ h1))))
  clear_value s5
  exact kept_dropPrefetch _ (kept_modTile _ _ h5 fun _ => ⟨rfl, rfl, rfl, rfl, rfl⟩)

theorem kept_failExec {n : Nat} {s0 s : State} (m no st : Nat) (k : VuKept n s0 s) : VuKept n s0 (failExec s m no st) := by
  unfold failExec
  split
  · exact k
  · exact kept_haltSeq _ _ _ _ (kept_modTile _ _ k fun _ => ⟨rfl, rfl, rfl, rfl, rfl⟩)

theorem kept_modVu {n : Nat} {s0 s : State} (m : Nat) (f : Vu → Vu) (k : VuKept n s0 s)
    (hf : ∀ x, (f x).v = x.v ∧ (f x).p = x.p ∧ (f x).s = x.s ∧ (f x).imem = x.imem) : VuKept n s0 (modVu s m f) := kept_modTile _ _ k fun x => ⟨(hf x.vu).1, (hf x.vu).2.1, (hf x.vu).2.2.1, (hf x.vu).2.2.2, rfl⟩

theorem kept_vuStop {n : Nat} {s0 s : State} (m : Nat) (k : VuKept n s0 s) : VuKept n s0 (vuStop s m) := by
  unfold vuStop
  extract_lets v s1
  have h1 : VuKept n s0 s1 := kept_count _ _ _ (kept_modVu _ _ k fun _ => ⟨rfl, rfl, rfl, rfl⟩)
  clear_value s1
  exact .ite (.of_moves (clearDraws_moves s1 m (.refl [.regs] s1) ⟨rfl⟩) (by decide) h1) h1

theorem kept_vuFault {n : Nat} {s0 s : State} (m c : Nat) (k : VuKept n s0 s) : VuKept n s0 (vuFault s m c) := by
  unfold vuFault
  exact kept_failExec _ _ _ (kept_vuStop _ (kept_raiseBit _ _ (kept_count _ _ _ (kept_setFld _ _ _ (kept_setFld _ _ _ k)))))

theorem loopEnds_regs (k : Nat) (v : Vu) : (loopEnds k v).v = v.v ∧ (loopEnds k v).p = v.p ∧ (loopEnds k v).s = v.s ∧ (loopEnds k v).imem = v.imem := by
  induction k generalizing v with
  | zero => exact ⟨rfl, rfl, rfl, rfl⟩
  | succ k ih =>
    unfold loopEnds
    split
    · split
      · split
        · exact ⟨rfl, rfl, rfl, rfl⟩
        · exact ih _
      · exact ⟨rfl, rfl, rfl, rfl⟩
    · exact ⟨rfl, rfl, rfl, rfl⟩

theorem kept_vuSettle {n : Nat} {s0 s : State} (m : Nat) (k : VuKept n s0 s) : VuKept n s0 (vuSettle s m) := by
  unfold vuSettle
  extract_lets s1 v
  have h1 : VuKept n s0 s1 := kept_modVu _ _ k (loopEnds_regs 5)
  clear_value s1
  exact .ite h1 (.ite (kept_vuFault _ _ h1) (.ite (kept_vuFault _ _ (kept_count _ _ _ h1)) h1))

theorem kept_ownWaitEnd {n : Nat} {s0 s : State} (m u : Nat) (k : VuKept n s0 s) : VuKept n s0 (ownWaitEnd s m u) := by
  unfold ownWaitEnd
  split
  · exact k
  · refine kept_modTile _ _ ?_ fun _ => ⟨rfl, rfl, rfl, rfl, rfl⟩
    split
    · exact kept_count _ _ _ (kept_count _ _ _ k)
    · exact kept_count _ _ _ k

theorem kept_parity {n : Nat} {s0 s : State} (b p a : Nat) (k : VuKept n s0 s) : VuKept n s0 (parity s b p a) :=
  .of_moves (parity_moves s b p a (.refl [.regs, .owlFifo] s) ⟨rfl⟩) (by decide) k

theorem kept_vuCnv {n : Nat} {s0 s : State} (m : Nat) (c : Cnv) (k : VuKept n s0 s) : VuKept n s0 (vuCnv s m c) :=
  .of_moves (vuCnv_moves s m c (.refl [.regs] s) ⟨rfl⟩) (by decide) k

/-- The registers after an instruction that goes on from `x`. -/
theorem vuIssue_done {s : State} (hc : s.canon = true) (t : Fin 64) (opc : Nat) (u : VuUse) (f : VuFields) (go : Nat → Vu → State → VuOut)
    (h : vuReady s t opc u f) (x : State)
    (hgo : go (phys s t) (tileAt s (phys s t)).vu (parity s f.fetchBad.val 6 (8 * (tileAt s (phys s t)).vu.pc)) = .done x)
    (hx : s.canon = true → x.canon = true) :
    vuRegs (vuIssue s t opc u f go) (phys s t) = vuRegs x (phys s t) := by
  obtain ⟨h1, h2, h3, h4⟩ := h
  unfold vuIssue
  rw [if_neg (by simp [h1, h2])]
  dsimp only
  rw [if_neg (by omega), if_neg (by simp [h4]), hgo]
  dsimp only
  have k : VuKept (phys s t) x _ := kept_vuSettle (phys s t) (kept_modVu (phys s t) (fun y => { y with pc := (tileAt s (phys s t)).vu.pc + 1 })
    (kept_count (tileBase (phys s t)) R.VU_INSN_CNT 1 (kept_ownWaitEnd (phys s t) 4 (.refl _ _))) fun _ => ⟨rfl, rfl, rfl, rfl⟩)
  exact k.regs (hx hc)

/-- The vector unit as an instruction finds it: counting a poisoned fetch leaves it. -/
theorem vuRegs_parity {s : State} (hc : s.canon = true) (n b p a : Nat) : vuRegs (parity s b p a) n = vuRegs s n :=
  (kept_parity b p a (.refl n s)).regs hc

end Sys2Proof.Machine
end

