-- ==== Sys2Proof/Tests/Slice0.lean ====
section
/-! SUPPORT. Named tests: what the well-formedness check refuses, words written out from the spec's encodings, and, for every statement with
hypotheses, concrete states and operands that meet them. -/

namespace Sys2Proof.Tests
open Sys2Proof.Machine
set_option Elab.async false

/-! ### States for the tests -/

/-- READY, with the hub up and a host link. -/
def up : State :=
  setFld { State.reset with hubUp := true, pwr := { stby := true, on := true, en := true, width := 16 } } 0 R.HIF_FW_STATE 2

/-- `up` with physical tile 0 as given. -/
def tl (t : Tile) : State := setTile up 0 t

/-- `tl` with tile 0's stream RUNNING, its ring of 8 entries filled to 4. -/
def run (t : Tile) : State :=
  setFld (setFld (setFld (setFld (tl t) (tileBase 0) R.TILE_SEQ_STATUS_STATE sqRunning) (tileBase 0) R.TILE_SEQ_CTRL_RUN 1)
    (tileBase 0) R.TILE_SEQ_LEN_LEN 8) (tileBase 0) R.TILE_SEQ_TAIL_TAIL 4

/-- An entry fetched without an error. -/
def ent (c : SeqCmd) : Fetched := { idx := 3, cmd := c, descs := [], status := 0 }

/-- A running tile whose head command is `c`. -/
def hd (c : SeqCmd) : State := run { fetched := [ent c] }

theorem test_up : up.canon = true ∧ hostUp up = true ∧ fwReady up = true ∧ monUp up = true := by decide

/-! ### Registers and windows -/

theorem test_w_StepRunsFrontCommand : State.reset.pending = [] ∧ State.reset.tad.cal = none ∧ State.reset.sec.hand = none := by decide
theorem test_w_EveryStepKeepsTables : step State.reset = .next { State.reset with now := 1 } ∧ State.reset.canon = true := ⟨rfl, by decide⟩
theorem test_w_AccessWidths : mayReach up false = true ∧ mayReach up true = true ∧ (3 ≠ 4 ∨ 2 % 4 ≠ 0) ∧ (barHalf up 0x0).1 ≠ 2 ∧
    (barHalf up (R.XCH_COMMITTED.off + 4)).1 = 2 := by decide
theorem test_w_RegisterWriteEffect : plainHub R.MGT_DST_IP.off = true ∧ R.MGT_DST_IP.off % 4 = 0 ∧ mayReach up true = true := by decide
theorem test_w_RegisterWriteEffect_port : barWrite up false (0x3000000 + R.PL_CTRL.off) 5 = regWrite up (portBase 0 + R.PL_CTRL.off) 5 := by decide +kernel
theorem test_w_RegisterReadEffect : (barHalf up R.XCH_COMMITTED.off).1 = 1 ∧ (barHalf up (R.XCH_COMMITTED.off + 4)).1 = 2 ∧ (barHalf up 0).1 = 0 ∧
    thrCounter up R.XCH_COMMITTED.off = false ∧ thrCounter up 0 = false ∧ R.XCH_COMMITTED.off % 4 = 0 := by decide
theorem test_w_HbmWindowAccess : [0xAA#8, 1] ≠ [] ∧ 0x1000000000 - 2 + 2 ≤ 2 ^ (36 + (0 : Fin 6).val) ∧
    bar2Base up 36 + (0x1000000000 - 2) + 2 ≤ hbmEnd ∧ inReserve (bar2Base up 36 + (0x1000000000 - 2)) 2 = false := by decide +kernel

/-! ### Sett memory -/

theorem test_w_AliasAccess : swf (fun _ => (0 : Byte)) (tileAt up (phys up (0 : Fin 64))).sett = true ∧ (∀ k < 3, settOwned up 0 1 (k * 2 ^ 24 + (settSize - 4)) 4 = true) ∧
    settSize - 4 + 4 ≤ settSize := by decide
theorem test_w_PortOwnersAfterReset : sget (fun _ => (0 : Word)) up.fuses (tileBase 67 + R.SETT_OWN.off + 4 * 47) = 0 ∧ 67 < 68 ∧ 47 < 48 := by decide
/-- A host write through the set alias ORs, and one through the clear alias clears. -/
theorem test_alias_set_clear :
    (match exec (.hostSettAccess 0 (2 ^ 24 + 4) 0 (some [0x0F, 0, 0, 0]) false) (tl { sett := [(4, 0xF0)] }) with
      | .next u => settByte (tileAt u 0) 4 | _ => 0) = 0xFF ∧
    (match exec (.hostSettAccess 0 (2 * 2 ^ 24 + 4) 0 (some [0x30, 0, 0, 0]) false) (tl { sett := [(4, 0xF0)] }) with
      | .next u => settByte (tileAt u 0) 4 | _ => 0) = 0xC0 := by decide
theorem test_w_SettPortEvents_owner : 6 < (0x700#32).toNat / 256 ^ 1 % 16 ∧ (0x602#32).toNat / 256 ^ 0 % 16 ≤ 6 ∧ (0x602#32).toNat / 256 ^ 1 % 16 ≤ 6 := by decide
theorem test_w_SettPortEvents_pend : fld (setFld up (tileBase 0) (pendFld 47 0) 1) (tileBase 0) (pendFld 47 0) ≠ 0 ∧
    fldOn (setFld up (tileBase 0) (pendFld 47 0) 1) (tileBase 0) R.CAL_STATUS_HOLD_WAIT = false ∧
    (setFld up (tileBase 0) (pendFld 47 0) 1).canon = true := by decide
theorem test_w_SettPortEvents_wait : (2, 0, false) ∈ (tileAt { tl { ownWait := [(2, 0, false)] } with now := 0xFFFF * tcUs } 0).ownWait ∧
    (0 : Nat) + max 1 (fld (tl { ownWait := [(2, 0, false)] }) (tileBase 0) R.SETT_CTRL_STALL_LIM) * tcUs ≤ 0xFFFF * tcUs := by decide
theorem test_w_SettPortEvents_host : settKind (2 ^ 25 % 2 ^ 26) ≠ 3 ∧ settOwned up 0 1 (2 ^ 25 % 2 ^ 26) 4 = true := by decide
theorem test_w_SettPortEvents_wgb : (tileAt (tl { wgbPend := [(1, 5, [1#32])] }) 0).wgbPend = (1, 5, [1#32]) :: [] ∧
    (tl { wgbPend := [(1, 5, [1#32])] }).canon = true := by decide
theorem test_w_ZeroGroupScale : fmtIsBlock .b4g512 = true ∧ ∀ v ∈ [FVal.zero true, FVal.zero false], ∃ neg, v = .zero neg :=
  by
  refine ⟨by decide, ?_⟩
  intro v h
  simp only [List.mem_cons, List.not_mem_nil, or_false] at h
  rcases h with rfl | rfl
  · exact ⟨true, rfl⟩
  · exact ⟨false, rfl⟩

/-! ### Streams -/

theorem test_w_StreamCommandsDecode : (SeqCmd.grpupd { group := 4095, reg := 10, vals := List.replicate 6 (0xFFFFFFFF#32) }).wf = true ∧
    (SeqCmd.wait { ctr := 15, value := 0xFFFFFFFF }).wf = true ∧ (SeqCmd.setver { committed := true, ver := 2 ^ 64 - 1 }).wf = true := by decide
theorem test_w_StreamDecodeRefuses : (List.replicate 32 (0xFF#8)).length = 32 ∧ decodeSeq (List.replicate 32 (0xFF#8)) = (stOpcode, .nop) ∧
    decodeSeq (List.replicate 32 (0#8)) = (0, .nop) ∧ decodeSeq ([0x00#8, 1] ++ List.replicate 30 (0#8)) = (stField, .nop) := by decide
theorem test_w_HeadCommandsAreJudged_hold : judgeHead up 0 .nop = .hold ∧ heldBack up 0 .nop = false := by decide
theorem test_w_HeadCommandsAreJudged_go : judgeHead (hd .nop) 0 .nop = .go (ent .nop) := by decide
theorem test_w_HeadCommandsAreJudged_fail : judgeHead (run { fetched := [ent .nop], launchSet := some { rel := false, count := 0 } }) 0 .nop = .fail stLaunch 3 := by decide
theorem test_w_HeadCommandsAreJudged_order : judgeHead (run { fetched := [ent (.tfire ⟨1, false, 0, 0, 1⟩)], micro := { nonRep := true } }) 0 (.tfire ⟨1, false, 0, 0, 1⟩) =
    .fail stOrder 3 := by decide
theorem test_w_HeadCommandsAreJudged_barrier : judgeHead (run { fetched := [ent (.mark ⟨1, false, 0, 0⟩)], micro := { fired := true } }) 0 (.mark ⟨1, false, 0, 0⟩) =
    .barrier := by decide
theorem test_w_HeadCommandsAreJudged_full : judgeHead (run { fetched := [ent (.missue 1)], issued := (List.range 32).map fun i => ⟨i, i, .missue 1, [], 0, 0, false, false, false⟩ }) 0 (.missue 1) = .hold := by decide
/-- A swap of array 0 waits on its STAGING plane. -/
def swapS (c : SeqCmd) : State :=
  setFld (run { fetched := [ent c], arrs := sset (fun _ => {}) [] 0 { ops := [.swap 0 none 0] } }) (arrBase 0 0) R.ARR_STATE_STATE_B psStaging
theorem test_w_HeadCommandsAreJudged_held : heldBack (swapS (.fire ⟨1, true, 0, 0, 1⟩)) 0 (.fire ⟨1, true, 0, 0, 1⟩) = true := by decide +kernel
/-- MISSUE of a bucket that this module does not own fails, and so does a swap of an EXPIRED plane. -/
theorem test_w_HeadCommandsAreJudged_issue : ownsBkt (hd (.missue 9)) 9 = false ∧ judgeHead (hd (.missue 9)) 0 (.missue 9) = .go (ent (.missue 9)) ∧
    heldBack (hd (.missue 9)) 0 (.missue 9) = false ∧
    swapFault (hd (.swap 1)) 0 1 = some (match swapFault (hd (.swap 1)) 0 1 with | some x => x | none => 0) ∧
    fireFault (hd (.fire ⟨1, false, 0, 0, 1⟩)) 0 1 = some (match fireFault (hd (.fire ⟨1, false, 0, 0, 1⟩)) 0 1 with | some x => x | none => 0) := by decide

/-! ### The sequencer's own commands and its events -/

theorem test_w_SequencerOwnCommands_nop : (hd .nop).canon = true ∧ issues (hd .nop) 0 .nop (ent .nop) := by unfold issues; decide
theorem test_w_SequencerOwnCommands_launch : issues (hd (.launch ⟨true, 5⟩)) 0 (.launch ⟨true, 5⟩) (ent (.launch ⟨true, 5⟩)) := by unfold issues; decide
/-- FENCE with nothing before it, and with a command of unit 0 before it. -/
theorem test_w_SequencerOwnCommands_fence : issues (hd (.fence 0x7F)) 0 (.fence 0x7F) (ent (.fence 0x7F)) ∧
    issues (run { fetched := [ent (.fence 1)], nextNo := 1, issued := [⟨0, 0, .swap 1, [], 0, 0, false, false, false⟩] }) 0 (.fence 1) (ent (.fence 1)) ∧
    ([(⟨0, 0, .swap 1, [], 0, 0, false, false, false⟩ : Issued)].any fun i => inUnits 1 i.cmd && decide (i.no < 1)) = true := by unfold issues; decide
/-- WAIT for a value that is reached, and for one that is not. -/
theorem test_w_SequencerOwnCommands_wait : (WaitOp.wf ⟨15, 0⟩ = true ∧ issues (hd (.wait ⟨15, 0⟩)) 0 (.wait ⟨15, 0⟩) (ent (.wait ⟨15, 0⟩)) ∧
    0 ≤ fld (hd (.wait ⟨15, 0⟩)) (tileBase 0) (fldAt R.TILE_SIG_COUNT 15)) ∧
    WaitOp.wf ⟨0, 2 ^ 32 - 1⟩ = true ∧ issues (hd (.wait ⟨0, 2 ^ 32 - 1⟩)) 0 (.wait ⟨0, 2 ^ 32 - 1⟩) (ent (.wait ⟨0, 2 ^ 32 - 1⟩)) ∧
    fld (hd (.wait ⟨0, 2 ^ 32 - 1⟩)) (tileBase 0) (fldAt R.TILE_SIG_COUNT 0) < 2 ^ 32 - 1 := by unfold issues; decide
theorem test_w_SequencerOwnCommands_signals : issues (hd (.signal ⟨63, 15, 1, 0⟩)) 0 (.signal ⟨63, 15, 1, 0⟩) (ent (.signal ⟨63, 15, 1, 0⟩)) ∧
    issues (hd (.sigclr 15)) 0 (.sigclr 15) (ent (.sigclr 15)) := by unfold issues; decide
theorem test_w_SequencerOwnCommands_setver : SetverOp.wf ⟨false, 2 ^ 64 - 1⟩ = true ∧
    issues (hd (.setver ⟨false, 2 ^ 64 - 1⟩)) 0 (.setver ⟨false, 2 ^ 64 - 1⟩) (ent (.setver ⟨false, 2 ^ 64 - 1⟩)) ∧
    (({} : Micro).setvers.find? fun p => decide (p.1 = 3)) = none ∧
    (({ setvers := [(3, 7)] } : Micro).setvers.find? fun p => decide (p.1 = 3)) = some (3, 7) ∧
    issues (run { fetched := [ent (.setver ⟨true, 0⟩)], micro := { setvers := [(3, 7)] } }) 0 (.setver ⟨true, 0⟩) (ent (.setver ⟨true, 0⟩)) := by unfold issues; decide
theorem test_w_SequencerOwnCommands_settown : SettownOp.wf ⟨47, 0, 6⟩ = true ∧ issues (hd (.settown ⟨47, 0, 6⟩)) 0 (.settown ⟨47, 0, 6⟩) (ent (.settown ⟨47, 0, 6⟩)) ∧
    SettownOp.wf ⟨3, 1, 7⟩ = true ∧ issues (hd (.settown ⟨3, 1, 7⟩)) 0 (.settown ⟨3, 1, 7⟩) (ent (.settown ⟨3, 1, 7⟩)) := by unfold issues; decide

/-- A command in the ring at index 0, and one with a bad CRC. -/
def ring (bs : List Byte) : State := { run {} with hbm := bs.zipIdx.filterMap fun p => if p.1 = 0 then none else some (p.2, p.1) }

theorem test_w_SequencerFlow_fetch : (ring (encodeSeq (.sigclr 5))).canon = true ∧ fld (ring (encodeSeq (.sigclr 5))) (tileBase 0) R.TILE_SEQ_CTRL_RUN = 1 ∧
    seqState (ring (encodeSeq (.sigclr 5))) 0 = sqRunning ∧ 2 ≤ fld (ring (encodeSeq (.sigclr 5))) (tileBase 0) R.TILE_SEQ_LEN_LEN ∧
    fld (ring (encodeSeq (.sigclr 5))) (tileBase 0) R.TILE_SEQ_PTR_PTR ≠ fld (ring (encodeSeq (.sigclr 5))) (tileBase 0) R.TILE_SEQ_TAIL_TAIL ∧
    hbmRead (ring (encodeSeq (.sigclr 5))) 0 32 = encodeSeq (.sigclr 5) ∧ fieldLe (encodeSeq (.sigclr 5)) 2 2 = cmdCrc (encodeSeq (.sigclr 5)) ∧
    (fetchEntry (ring (encodeSeq (.sigclr 5))) 0 0 (encodeSeq (.sigclr 5))).status = 0 := by decide +kernel
theorem test_w_SequencerFlow_crc : fieldLe (hbmRead (ring [1]) 0 32) 2 2 ≠ cmdCrc (hbmRead (ring [1]) 0 32) ∧ (ring [1]).canon = true ∧ (tileAt (ring [1]) 0).fetched = [] := by
  decide +kernel
theorem test_w_SequencerFlow_signal : ([⟨0, 15, 9⟩].find? fun (m : SigMsg) => decide (m.tile = (0 : Fin 64).val)) = some ⟨0, 15, 9⟩ ∧
    9 ≤ min (fld (setFld (tl { seqWait := some (.wait 15 9 0) }) (tileBase 0) R.TILE_SEQ_STATUS_STATE sqWaiting) (tileBase 0) (fldAt R.TILE_SIG_COUNT 15) + 9) (2 ^ 32 - 1) ∧
    seqState (setFld (tl { seqWait := some (.wait 15 9 0) }) (tileBase 0) R.TILE_SEQ_STATUS_STATE sqWaiting) 0 = sqWaiting := by decide
theorem test_w_SequencerFlow_barrier : (tileAt (run { micro := { fired := true, barrierFrom := some 0 } }) 0).micro.barrierFrom = some 0 ∧
    fld (run { micro := { fired := true, barrierFrom := some 0 } }) (tileBase 0) R.ACC_ESC_STATE_REWIND = 0 ∧
    ∀ p ∈ (tileAt (run { micro := { fired := true, barrierFrom := some 0 } }) 0).arrs, p.2.run = none := by decide
theorem test_w_SequencerFlow_run : seqState up 0 = sqStopped ∧ seqState (hd .nop) 0 ≠ sqHalted ∧
    seqState (setFld (hd .nop) (tileBase 0) R.TILE_SEQ_STATUS_STATE sqHalted) 0 = sqHalted ∧ hostUp (hd .nop) = true := by decide
theorem test_w_SequencerFlow_long : (tileAt (run { seqWait := some (.wait 0 1 0) }) 0).waitLong = false ∧
    0 + cmdLim (run { seqWait := some (.wait 0 1 0) }) 0 ≤ 0xFFFF * tcMs ∧
    (⟨0, 0, .swap 1, [], 0, 0, false, false, false⟩ : Issued) ∈ [(⟨0, 0, .swap 1, [], 0, 0, false, false, false⟩ : Issued)] := by decide
theorem test_w_MarkOpensMicroBatch : MarkOp.wf ⟨0xFFFF, true, 2 ^ 48 - 64, 2 ^ 32 - 1⟩ = true ∧
    issues (hd (.mark ⟨0xFFFF, true, 2 ^ 48 - 64, 2 ^ 32 - 1⟩)) 0 (.mark ⟨0xFFFF, true, 2 ^ 48 - 64, 2 ^ 32 - 1⟩) (ent (.mark ⟨0xFFFF, true, 2 ^ 48 - 64, 2 ^ 32 - 1⟩)) ∧
    fld (hd (.mark ⟨0xFFFF, true, 2 ^ 48 - 64, 2 ^ 32 - 1⟩)) (tileBase 0) R.ACC_ESC_STATE_WIDE_RUN = 0 ∧
    isHeld (hd (.mark ⟨0xFFFF, true, 2 ^ 48 - 64, 2 ^ 32 - 1⟩)) 0 0xFFFF = false := by unfold issues; decide

/-! ### Commands of the units -/

theorem test_w_UnitCommandsQueueAndEnd_queue : queued 0 (.xclose ⟨9, 4⟩) = some (.xclose 0 ⟨9, 4⟩) ∧ issues (hd (.xclose ⟨9, 4⟩)) 0 (.xclose ⟨9, 4⟩) (ent (.xclose ⟨9, 4⟩)) := by
  unfold issues; decide
/-- A DMEOP whose A operand comes from the feed queue. -/
def dfeed : DmeOp := { aFeed := true, bFeed := false, aImg := false, aT := false, bT := false, toWgb := false, mode := 0, m := 2, n := 1, k := 1, aDesc := 0, bDesc := 0, dDesc := 0, aAddr := 0, bAddr := 0, dAddr := 0 }
theorem test_w_UnitCommandsQueueAndEnd_feed : dmeFeed dfeed = 2 ∧ issues (hd (.dmeop dfeed)) 0 (.dmeop dfeed) (ent (.dmeop dfeed)) ∧ (tileAt (hd (.dmeop dfeed)) 0).feedQ = [] := by
  unfold issues; decide
/-- The oldest command of unit 5 (WGCLR), not begun, and the same ended. -/
def isd (c : SeqCmd) (b : Bool) : Issued := ⟨1, 0, c, [], 0, 0, b, b, false⟩
theorem test_w_UnitCommandsQueueAndEnd_wgclr : unitHead { issued := [isd (.wgclr ⟨0, 4⟩) false] } (5 : Fin 7) = some (isd (.wgclr ⟨0, 4⟩) false) ∧
    issuedOf { issued := [isd (.wgclr ⟨0, 4⟩) false] } 1 = some (isd (.wgclr ⟨0, 4⟩) false) ∧ addsDone { issued := [isd (.wgclr ⟨0, 4⟩) false] } 1 = true := by decide
theorem test_w_UnitCommandsQueueAndEnd_ended : unitHead { issued := [isd (.swap 1) true] } (0 : Fin 7) = some (isd (.swap 1) true) ∧
    issuedOf { issued := [isd (.swap 1) true] } 1 = some (isd (.swap 1) true) ∧ issuedDone { issued := [isd (.swap 1) true] } (isd (.swap 1) true) = true ∧
    issuedDone { issued := [{ isd (.fire ⟨1, true, 0, 0, 1⟩) false with ran := true }], jobs := [] } { isd (.fire ⟨1, true, 0, 0, 1⟩) false with ran := true } = false := by decide
/-- A kernel's first instruction is END, at the last address. -/
theorem test_w_UnitCommandsQueueAndEnd_vdisp : unitHead { issued := [isd (.vdisp ⟨8191, false, false, 0, 1, 2, 3, 4⟩) false] } (3 : Fin 7) =
      some (isd (.vdisp ⟨8191, false, false, 0, 1, 2, 3, 4⟩) false) ∧
    vuOpcodes.contains ((imemAt { imem := [(8191, 0x7F#64 <<< 57)] } 8191).toNat / 2 ^ 57) = true ∧ 8191 < 8192 := by decide +kernel
theorem test_w_StreamerCommandsQueue : issues (hd (.load ⟨false, true, 0, 0, 0xFFFF, 0, 0⟩)) 0 (.load ⟨false, true, 0, 0, 0xFFFF, 0, 0⟩) (ent (.load ⟨false, true, 0, 0, 0xFFFF, 0, 0⟩)) ∧
    issues (hd (.kload ⟨0, 8, 0, 0⟩)) 0 (.kload ⟨0, 8, 0, 0⟩) (ent (.kload ⟨0, 8, 0, 0⟩)) ∧
    issues (hd (.store ⟨false, false, 0, 0, 0, 0, 0⟩)) 0 (.store ⟨false, false, 0, 0, 0, 0, 0⟩) (ent (.store ⟨false, false, 0, 0, 0, 0, 0⟩)) := by unfold issues; decide
/-- PWRITE to the standby plane of an array with no job, and to one whose array is taken. -/
def pw : PwriteOp := ⟨15, true, 0, 0, false, 0, 0, 0, 0, false⟩
def pwS (x : Arr) : State := setFld (run { fetched := [ent (.pwrite pw)], arrs := sset (fun _ => {}) [] 15 x }) (arrBase 0 15) R.ARR_CTRL_ENABLE 1
def pjob : PlaneJob :=
  { jobId := 0, planeB := true, refresh := false, wide := false, no := none, src := ⟨0, 0, 0, 0, 0, 0⟩, ver := 0, cfa := none, oldState := 0, rows := false, content := {}, content2 := {}, stamp := 0 }
theorem test_w_StreamerCommandsQueue_pwrite : pw.wf = true ∧ issues (pwS {}) 0 (.pwrite pw) (ent (.pwrite pw)) ∧ swapWaits (pwS {}) 0 15 = false ∧ pwriteFault (pwS {}) 0 pw = none ∧
    (arrAt (tileAt (pwS {}) 0) 15).job = none ∧ arrWide (pwS {}) 0 15 = false ∧ planeState (pwS {}) 0 15 true ≠ psActive ∧
    pwriteFault (pwS { job := some pjob }) 0 pw = none ∧ (arrAt (tileAt (pwS { job := some pjob }) 0) 15).job.isSome = true := by unfold issues; decide

/-! ### The streamer and the memory controllers -/

/-- The bytes `bs` in HBM from address `a`. -/
def hb (a : Nat) (bs : List Byte) : List (Nat × Byte) := bs.zipIdx.filterMap fun p => if p.1 = 0 then none else some (a + p.2, p.1)

/-- A load of one block at HBM address 0, which waits to be issued. -/
def blk0 : BlkReq := newBlk 0 0 false 7 3 1 0
def ldJob (b : BlkReq) : StrJob := { id := 2, no := some 1, kind := .load ⟨false, true, 0, 0, 1, 0, 0⟩, write := false, ver := some 0, settDst := 0, blks := [b] }
def ldS (b : BlkReq) : State := tl { jobs := [ldJob b], nextJob := 3 }

theorem test_w_StreamerIssues_hbm : (ldS blk0).canon = true ∧ strPick (ldS blk0) 0 (strOrder (tileAt (ldS blk0) 0)) = .go (ldJob blk0) blk0 false ∧
    (((tileAt (ldS blk0) 0).jobs.flatMap (·.blks)).filter holdsSlot).length < 48 := by decide +kernel
/-- The same from the last block of bank 47, which SETT_OWN gives to the streamer. -/
def blkS : BlkReq := newBlk 0 (settSize - 9216) true 7 3 1 0
def ldO : State := setFld (ldS blkS) (tileBase 0) (ownerFld 47 0) 2
theorem test_w_StreamerIssues_sett : strPick ldO 0 (strOrder (tileAt ldO 0)) = .go (ldJob blkS) blkS false ∧ blkS.sett = true ∧ ldO.canon = true := by decide +kernel

/-- A block of format 1 for `blk0`; version `v`. -/
def goodBlk (v : Nat) : List Byte := restamp (List.replicate 9216 0) { crc := 0, version := v, tag := 0, tid := 7, block := 3, format := 1, flags := 0, summary := 0 }
theorem goodBlk_check (v : Nat) : blockCheck { tid := 7, blk := 3, fmt := 1, layout := 0 } false (goodBlk v) = 0 := by
  have h := blockCheck_restamp (List.replicate 9216 0) { crc := 0, version := v, tag := 0, tid := 7, block := 3, format := 1, flags := 0, summary := 0 }
    (Nat.le_trans (by decide) (Nat.le_of_eq List.length_replicate.symm)) (show 1 % 16 ≤ 10 by decide)
  generalize hx : restamp (List.replicate 9216 0) { crc := 0, version := v, tag := 0, tid := 7, block := 3, format := 1, flags := 0, summary := 0 } = x at h
  have hg : goodBlk v = x := hx
  rw [hg]
  simpa using h
theorem goodBlk_version (v : Nat) (h : v < 2 ^ 48) : (trailerOf (goodBlk v)).version = v := by
  unfold goodBlk restamp
  rw [trailerOf_append _ _ (by rw [List.length_take, List.length_replicate]; rfl)]
  exact Nat.mod_eq_of_lt h
/-- A served block, and one that a prefetch brought. -/
def sv (d : List Byte) (pf : Bool) : BlkReq := { blk0 with phase := .served, data := d, pf := pf, epochs := [(0, 1)] }
theorem test_w_StreamerBlocks_job : jobOf (tileAt (ldS (sv [] true)) 0) 2 = some (ldJob (sv [] true)) ∧
    ((ldJob (sv [] true)).blks.find? fun c => decide (c.k = 0)) = some (sv [] true) ∧ isHead (tileAt (ldS (sv [] false)) 0) 2 = true ∧
    returnCheck (ldJob (sv [] false)) (sv [] false) false ≠ 0 ∧ (sv [] false).att < 2 ∧ pfStale (ldS (sv [] true)) 0 (sv [] true) = true ∧
    pfStale (ldS { sv [] true with epochs := [] }) 0 { sv [] true with epochs := [] } = false := by decide +kernel
theorem test_w_StreamerBlocks_good : returnCheck (ldJob (sv (goodBlk 0) false)) (sv (goodBlk 0) false) false = 0 ∧
    versionWrong (ldJob (sv (goodBlk 0) false)) (sv (goodBlk 0) false) = false :=
  ⟨goodBlk_check 0, by simp [versionWrong, ldJob, sv, goodBlk_version 0 (by decide)]⟩
theorem test_w_StreamerBlocks_torn : returnCheck (ldJob (sv (goodBlk 5) false)) (sv (goodBlk 5) false) false = 0 ∧
    versionWrong (ldJob (sv (goodBlk 5) false)) (sv (goodBlk 5) false) = true ∧ (sv (goodBlk 5) false).torn < fld up 0 R.XCH_PARAM3_TORN_RETRIES :=
  ⟨goodBlk_check 5, by simp [versionWrong, ldJob, sv, goodBlk_version 5 (by decide)], by show 0 < fld up 0 R.XCH_PARAM3_TORN_RETRIES; decide⟩
theorem test_w_StreamerBlocks_reread : 0 + clampN 1 1000 (fld up 0 R.XCH_PARAM3_TORN_WAIT) * tcUs ≤ 1000 * tcUs := by decide
/-- A store of one block that is acknowledged last, and of two. -/
def stJob (bs : List BlkReq) : StrJob := { id := 2, no := some 1, kind := .store ⟨false, false, 0, 0, 1, 0, 0⟩, write := true, ver := some 0, settDst := 0, blks := bs }
theorem test_w_StreamerBlocks_write : up.ledger = 0 ∧ (∃ c ∈ (stJob [sv [] false, { sv [] false with k := 1 }]).blks, c.k ≠ 0 ∧ c.phase ≠ .done) ∧
    ∀ c ∈ (stJob [sv [] false]).blks, c.k = 0 ∨ c.phase = .done := by decide +kernel
theorem test_w_StreamerBlocks_head : ((tileAt (ldS blk0) 0).jobs.find? fun i => i.no.isSome) = some (ldJob blk0) := by decide +kernel

/-- MC 0 with the given queues. -/
def mc (x : Mc) : State := { up with mcs := sset (fun _ => {}) [] 0 x }
def rq (w : Bool) : McReq := { stamp := 1, at' := 0, src := 67, write := w, addr := 65536 - 64, len := 64, data := List.replicate 64 1, dests := [(0, 2, 0)] }
theorem test_w_MemoryControllerEvents_accept : nextSource { net := [rq true] } (mcRoom { net := [rq true] }) = some (rq true) ∧
    nextSource { net := [rq false] } (mcRoom { net := [rq false] }) = some (rq false) ∧ mergeWith { net := [rq false] } (rq false) = none ∧
    mergeWith { net := [rq false], rdq := [rq false] } (rq false) = some (rq false) ∧ fld (setFld up (mcBase 0) R.MC_CTRL_MERGE_EN 1) (mcBase 0) R.MC_CTRL_MERGE_EN = 1 ∧
    fld (setFld up (mcBase 0) R.MC_CTRL_MERGE_EN 0) (mcBase 0) R.MC_CTRL_MERGE_EN = 0 ∧ (mc { net := [rq true] }).canon = true := by decide +kernel
theorem test_w_MemoryControllerEvents_serve : mcChoose (mc { wrq := [rq true], draining := true }) 0 = some (rq true, 0) ∧
    (mcChoose (mc { rdq := [rq false] }) 0).map (·.1) = some (rq false) ∧ stackOf (rq true).addr = (0 : Fin 24).val := by decide +kernel

/-- A bucket table of one entry at MC 0, with a STATE word, a divisor and a version. -/
def entry (state div : Nat) : List Byte :=
  leBytes 4 9 ++ leBytes 2 0 ++ [1, 0, 0, 0, 0, 0] ++ leBytes 4 0x3F800000 ++ leBytes 4 5 ++ leBytes 4 0 ++ leBytes 4 6 ++ leBytes 4 0 ++ leBytes 4 8 ++ leBytes 4 0 ++
    leBytes 8 0x1000 ++ leBytes 8 0x800000 ++ List.replicate 136 0 ++ leBytes 4 state ++ leBytes 4 div ++ leBytes 8 1 ++ List.replicate 48 0
def bk (state div : Nat) (x : Mc) : State :=
  setFld (setFld { mc x with hbm := hb 0 (entry state div) } (mcBase 0) R.MRT_BKT_CNT_CNT 1) (mcBase 0) R.MRT_CTRL_ENABLE 1
def pk (step : Nat) : AccPkt := { bucket := 9, off := 0, bf16 := false, u := 0, ver := 0, data := [0x3F800000], area := false, step := step, since := 0 }
theorem test_w_MemoryControllerEvents_accumulate : (findEntry (bk 0 0 { accq := [pk 0] }) 0 9).isSome = true ∧ mustHold (bk 0 0 { accq := [pk 0] }) 0 (pk 0) = false ∧
    mustHold (bk 1 0 { accq := [pk 1] }) 0 (pk 1) = true ∧ findEntry (mc { accq := [pk 0] }) 0 9 = none ∧ (bk 1 0 { accq := [pk 1] }).canon = true := by decide +kernel

/-- An update of bucket 9 in its first visit; the armed program's word is `w`. -/
def vis : MVisit := { el := [[1], [2], [3]], rows := [], cols := [], sc := [], pc := 0, ended := false }
def upd (w : Word) (v : Option MVisit) : MUpd :=
  { bucket := 9, entry := 0, k := 0, d := 1, armed := some { bucket := 9, regs := [], prog := [w] }, sigma := 0, blk := 0, visit := v, full := [], cands := [], t0 := 0 }
theorem test_w_MartenEvents_operation : martenAt (bk 2 1 { upd := some (upd (opWord 4 31 1 2 3) (some vis)) }) 0 (upd (opWord 4 31 1 2 3) (some vis)) vis (opWord 4 31 1 2 3) ∧
    martenAt (bk 2 1 { upd := some (upd (opWord 9 0 1 0 0) (some vis)) }) 0 (upd (opWord 9 0 1 0 0) (some vis)) vis (opWord 9 0 1 0 0) ∧
    martenAt (bk 2 1 { upd := some (upd (opWord 19 12 1 0 0) (some vis)) }) 0 (upd (opWord 19 12 1 0 0) (some vis)) vis (opWord 19 12 1 0 0) ∧
    martenAt (bk 2 1 { upd := some (upd 0 (some vis)) }) 0 (upd 0 (some vis)) vis (opWord 0 0 0 0 0) := by unfold martenAt; decide +kernel
theorem test_w_MartenEvents_start : (match findEntry (bk 1 0 { mq := [(9, none)] }) 0 9 with
    | some e => entryOk e && decide (mcSlices e 0 ≠ []) && decide (e.div = 0) && !beforeClose (bk 1 0 { mq := [(9, none)] }) 0 9 e.vnew | none => false) = true ∧
    progOk 0 [opWord 0 0 0 0 0] = true := by decide +kernel
theorem test_w_MartenEvents_visit : (match findEntry (bk 2 1 { upd := some (upd 0 none) }) 0 9 with
      | some e => fullVisit (bk 2 1 { upd := some (upd 0 none) }) 0 { upd 0 none with d := 0 } e
      | none => true) = false ∧
    visitNan (runProg 0 [] [0#32] 32 (vis, bk 2 1 { upd := some (upd 0 (some vis)) })).1 = false := by decide +kernel
theorem test_w_MartenEvents_unreadable : (readChecked (bk 2 1 {}) 0 0x800000 { tid := 5, blk := 0, fmt := 5, layout := 1 } 3).2.1 = false := by
  unfold readChecked; simp

/-! ### Arrays -/

/-- Tile 0 running with array 15 enabled, its planes in the given states, and the head command. -/
def ar (c : SeqCmd) (x : Arr) (stA stB : Nat) : State :=
  setFld (setFld (setFld (run { fetched := [ent c], arrs := sset (fun _ => {}) [] 15 x }) (arrBase 0 15) R.ARR_CTRL_ENABLE 1) (arrBase 0 15) R.ARR_STATE_STATE_A stA)
    (arrBase 0 15) R.ARR_STATE_STATE_B stB
def fo (feed : Bool) : FireOp := ⟨0x8000, feed, 0, 4096, 9⟩
theorem test_w_ArrayCommandsIssue_fire : issues (ar (.fire (fo false)) {} psActive psReady) 0 (.fire (fo false)) (ent (.fire (fo false))) ∧
    heldBack (ar (.fire (fo false)) {} psActive psReady) 0 (.fire (fo false)) = false ∧ fireFault (ar (.fire (fo false)) {} psActive psReady) 0 0x8000 = none ∧
    imageBad (settRead (tileAt (ar (.fire (fo false)) {} psActive psReady) 0) 4096 576) = true ∧
    imageBad (settRead { sett := [(4096 + 528, 5)] } 4096 576) = false := by unfold issues; decide +kernel
theorem test_w_ArrayCommandsIssue_feed : issues (ar (.tfire (fo true)) {} psActive psReady) 0 (.tfire (fo true)) (ent (.tfire (fo true))) ∧ arraysOf 0x8000 = [15] ∧
    fireFault (ar (.tfire (fo true)) {} psActive psReady) 0 0x8000 = none ∧ heldBack (ar (.tfire (fo true)) {} psActive psReady) 0 (.tfire (fo true)) = false := by
  unfold issues; decide +kernel
/-- The first consumer with no image there, with a good one, and with a bad one. -/
def fdS (l : List (List Byte)) : State := run { feedQ := [{ no := 0, need := 1, arrs := [15] }, { no := 1, need := 2, arrs := [] }], feed := l.map fun b => { image := true, bytes := b } }
theorem test_w_ArrayCommandsIssue_consumer : (tileAt (fdS []) 0).feedQ = [{ no := 0, need := 1, arrs := [15] }, { no := 1, need := 2, arrs := [] }] ∧
    imageBad (List.replicate 528 0 ++ [5#8]) = false ∧ imageBad [] = true := by decide +kernel
/-- A firing that issued before its image came goes on when the image is there (R300). -/
theorem test_feed_waits : (arrAt (tileAt (feedGo (fdS [List.replicate 528 0 ++ [5#8]]) 0) 0) 15).ops = [] ∧
    (tileAt (feedGo (fdS [List.replicate 528 0 ++ [5#8], [7#8]]) 0) 0).taken = [[7#8]] ∧
    (tileAt (feedGo (fdS []) 0) 0).feedQ.length = 2 := by decide +kernel

theorem test_w_ArrayCommandsIssue_swap : issues (ar (.swap 0x8000) {} psActive psReady) 0 (.swap 0x8000) (ent (.swap 0x8000)) ∧
    heldBack (ar (.swap 0x8000) {} psActive psReady) 0 (.swap 0x8000) = false ∧ swapFault (ar (.swap 0x8000) {} psActive psReady) 0 0x8000 = none := by
  unfold issues; decide +kernel

/-- A plane job of plane B with its blocks staged, and one whose rows were written. -/
def st17 : List (Nat × List Byte) := (List.range 16).map fun k => (k, [])
theorem test_w_PlaneEventsAndFirings_staged : (arrAt (tileAt (ar .nop { job := some pjob, stage := st17 } psActive psStaging) 0) 15).job = some pjob ∧
    (if bitOn pjob.src.list 63 then 17 else 16) ≤ st17.length ∧ rowsWait (ar .nop { job := some pjob, stage := st17 } psActive psStaging) 0 15 pjob = false ∧
    (ar .nop { job := some pjob, stage := st17 } psActive psStaging).canon = true := by decide +kernel
theorem test_w_PlaneEventsAndFirings_written : fld (setFld (ar .nop { job := some { pjob with rows := true } } psActive psWriting) (arrBase 0 15) R.ARR_CTRL_WV_EN 0) (arrBase 0 15)
      R.ARR_CTRL_WV_EN = 0 ∧ 0 + 4 * 512 ≤ 2048 ∧ planeState (ar .nop { job := some { pjob with rows := true } } psActive psWriting) 0 15 true ≠ psActive := by decide +kernel
/-- A plane at the age of its interval, at one and a half, and at two. -/
def agedS (n : Nat) : State :=
  { setFld (ar .nop {} psActive psReady) (arrBase 0 15) R.ARR_STRIDE_A 9216 with now := n * rfshInterval (ar .nop {} psActive psReady) 0 15 / 2 }
theorem test_w_PlaneEventsAndFirings_age : ageReached (agedS 2) 0 15 false 2 = true ∧ hasSrc (srcOf (agedS 2) 0 15 false) = true ∧ refreshing (arrAt (tileAt (agedS 2) 0) 15) false = false ∧
    arrWide (agedS 2) 0 15 = false ∧ ageReached (agedS 3) 0 15 false 3 = true ∧ ageReached (agedS 4) 0 15 true 4 = true ∧ planeState (agedS 4) 0 15 true ≠ psExpired := by decide +kernel
theorem test_w_PlaneEventsAndFirings_wide : (arrAt (tileAt up 0) 15).run = none ∧ (arrAt (tileAt up 0) 15).job = none ∧ true ≠ (arrAt (tileAt up 0) 15).modeWide ∧
    false = (arrAt (tileAt up 0) 15).modeWide ∧ hostUp up = true := by decide
theorem test_w_PlaneEventsAndFirings_swap : (arrAt (tileAt (ar .nop { ops := [.swap 1 none 0] } psActive psReady) 0) 15).ops = .swap 1 none 0 :: [] ∧
    launchDue (ar .nop { ops := [.swap 1 none 0] } psActive psReady) none = true ∧ planeState (ar .nop { ops := [.swap 1 none 0] } psActive psReady) 0 15 (!actB up 0 15) = psReady ∧
    planeState (ar .nop { ops := [.swap 1 none 0] } psActive psExpired) 0 15 (!actB up 0 15) = psExpired ∧
    (ar .nop { ops := [.swap 1 none 0] } psActive psReady).canon = true := by decide +kernel
def firing (x : List Int) : Firing := { no := 1, seg := 15, tr := false, codes := x, scale := 127, launch := none, slice := none, t0 := 0, slipAc := none }
theorem test_w_PlaneEventsAndFirings_fire : (arrAt (tileAt (ar .nop { ops := [.fire (firing [1])] } psActive psReady) 0) 15).ops = .fire (firing [1]) :: [] ∧
    (passRanges (List.replicate 256 (3 : Int) ++ List.replicate 256 3 |>.map clip7)).length = 2 ∧ (passRanges (List.replicate 256 (7 : Int) |>.map clip7)).length = 4 ∧
    ({ up with launchAt := some 0 } : State).lastGrant ≠ some 0 := by decide +kernel
/-- A pass of row 0 with load 1 that ends at time 0. -/
def run1 : Running := { f := firing [1], x := [1], planeB := false, passes := [{ lo := 0, hi := 1, load := 1, k := 1, r := 0, endAt := 0 }], ver := 0 }
theorem test_w_ArrayWorkEnds_pass : (convertPass (ar .nop { run := some run1 } psActive psReady) 0 15).2.length = 512 ∧
    (arrAt (tileAt (ar .nop { run := some run1 } psActive psReady) 0) 15).run = some run1 ∧
    ((arraysOf 0x8000).foldl (fun (acc : State × List LaneEntry) a => ((convertPass acc.1 0 a).1, acc.2 ++ (convertPass acc.1 0 a).2))
      (ar .nop { run := some run1 } psActive psReady, [])).2.isEmpty = false := by decide +kernel
def fox1 : FoxJob := { no := 1, seg := 0, scale := 127, planeB := false, x := [], kept := [(511, 3)] }
theorem test_w_ArrayWorkEnds_fox : (arrAt (tileAt (ar .nop { fox := [fox1] } psActive psReady) 0) 15).fox = fox1 :: [] ∧ fld (setFld up (tileBase 0) R.FOX_CTRL_ENABLE 0)
      (tileBase 0) R.FOX_CTRL_ENABLE = 0 ∧ winW up 0 ≤ sget (fun _ => 0) [((255 : Fin 256).val, winW up 0)] (255 : Fin 256) ∧ foxWin up 0 ≤ foxWin up 0 := by decide +kernel

/-- A rewind of the third kind of cause that may start, after `k` replays; the mark is of a tile whose arrays stand as they were. -/
def mk : MarkRec := { idx := 1, op := ⟨7, false, 0, 0⟩, ver := 5, arrs := (List.range 16).map (arrMark (run {}) 0), rng := rngOf (run {}) 0 }
def rw (k : Nat) : State :=
  setFld (setFld (run { mark := some mk, micro := { pend := [3] } }) (tileBase 0) R.ACC_ESC_STATE_REWIND 1) (tileBase 0) R.ACC_ESC_STATE_REPLAYS k
theorem test_w_RewindRestarts : (∀ k ∈ [1, 2], (tileAt (rw k) 0).mark = some mk ∧ fld (rw k) (tileBase 0) R.ACC_ESC_STATE_REWIND = 1 ∧ rewindQuiet (rw k) 0 = true ∧
    seqState (rw k) 0 ≠ sqHalted ∧ fld (rw k) (tileBase 0) R.ACC_ESC_STATE_REPLAYS = k ∧ 2 ≤ fld (rw k) (tileBase 0) R.TILE_SEQ_LEN_LEN ∧
    mk.arrs = (List.range 16).map (arrMark (rw k) 0) ∧ (∀ a < 16, (arrAt (tileAt (rw k) 0) a).wideRun = false) ∧ topCause (tileAt (rw k) 0).micro.pend ≠ 0 ∧ (rw k).canon = true) ∧
    mk.op.areaLen = 0 := by decide +kernel

/-! ### Calibration -/

/-- Calibration enabled, array 15 alone enabled. -/
def cal (s : State) : State := setFld (setFld s (tileBase 0) R.CAL_CTRL_ENABLE 1) (arrBase 0 15) R.ARR_CTRL_ENABLE 1
def cal15 (s : State) : State := (List.range 15).foldl (fun s a => setFld s (arrBase 0 a) R.ARR_CTRL_ENABLE 0) (cal s)
def calOwn (s : State) : State := setFld s (tileBase 0) (ownerFld (holdBank s 0) 0) 5
theorem test_w_CalibrationSweeps : fld (cal15 up) (tileBase 0) R.CAL_CTRL_ENABLE = 1 ∧ sweeping (cal15 up) 0 = false ∧ (tileAt (cal15 up) 0).cal.fromSweep = false ∧ (tileAt (tl { cal := { fromSweep := true } }) 0).cal.fromSweep = true ∧
    enabledFrom (cal15 up) 0 0 = some 15 ∧ ownsBank (cal15 up) 0 5 (holdBank (cal15 up) 0) = false ∧ ownsBank (calOwn (cal15 up)) 0 5 (holdBank (calOwn (cal15 up)) 0) = true ∧
    sweeping (setFld (cal15 up) (tileBase 0) R.CAL_STATUS_BUSY 1) 0 = true ∧ (cal15 up).canon = true ∧
    max 1 (fld (setFld (setFld up (tileBase 0) R.CAL_AGE_UNITS 0) (tileBase 0) R.CAL_AGE_CNT_COUNT 1) (tileBase 0) R.CAL_AGE_UNITS) ≤
      fld (setFld (setFld up (tileBase 0) R.CAL_AGE_UNITS 0) (tileBase 0) R.CAL_AGE_CNT_COUNT 1) (tileBase 0) R.CAL_AGE_CNT_COUNT := by decide +kernel
/-- A sweep in progress. -/
def swp (c : CalUnit) : State := setFld (tl { cal := c }) (tileBase 0) R.CAL_STATUS_BUSY 1
def sub1 : CalSub := { tr := false, planeB := false, sumM := [], sumP := [], sumS := [], marks := [] }
theorem test_w_CalibrationCommands_sweep : sweeping (swp {}) 0 = true ∧ fld (swp {}) (tileBase 0) R.CAL_STATUS_PEND = 0 ∧ fld (swp {}) (tileBase 0) R.CAL_STATUS_HOLD_WAIT = 0 ∧
    calCap (swp { fwd := 4096 }) 0 ≤ 4096 ∧ (tileAt (swp { subs := [sub1] }) 0).cal.subs = sub1 :: [] ∧ (tileAt (swp { subs := [sub1] }) 0).jobs = [] ∧
    (swp { subs := [sub1] }).canon = true := by decide +kernel
theorem test_w_CalibrationCommands_commit : boundaryAfter { tl { cal := { cmtDue := some 0 } } with launchAt := some 0, now := 256 } 0 = true ∧
    (tileAt (tl { cal := { cmtDue := some 0 } }) 0).cal.cmtDue = some 0 ∧ (tileAt (tl { cal := { cmtDue := some 0 } }) 0).cal.fromSweep = false ∧
    fld up (tileBase 0) R.CAL_STATUS_PEND = 0 := by decide +kernel
theorem test_w_CalibrationCommands_remap : remapDup (setFld (setFld (setFld (setFld up (calBase 0 15) (fldAt R.CAL_REMAP_VALID 6) 1) (calBase 0 15) (fldAt R.CAL_REMAP_COL 6) 511)
    (calBase 0 15) (fldAt R.CAL_REMAP_VALID 7) 1) (calBase 0 15) (fldAt R.CAL_REMAP_COL 7) 511) 0 15 = true := by decide +kernel
theorem test_w_CalibrationCommands_end : 0 + max 1 (fld (swp {}) (tileBase 0) R.CAL_WIN_TIMEOUT) * tcMs ≤ 0xFFFF * tcMs ∧ (tileAt (swp {}) 0).cal.subs = [] ∧
    (∃ p : Nat × Tile, p ∈ (tl { cal := { wbDue := true } }).tiles ∧ p.2.cal.wbDue = true) ∧ (tl { cal := { wbDue := true } }).trimWb = none :=
  ⟨by decide +kernel, by decide +kernel, ⟨(0, { cal := { wbDue := true } }), by decide +kernel, rfl⟩, rfl⟩
/-- Eight points on a line of gain 1; eight equal points. -/
def line : List CalPoint := (List.range 8).map fun (i : Nat) => { m := 100 * (i : Int), x := 6400 * (i : Int), p := 1 }
def flat : List CalPoint := List.replicate 8 { m := 1, x := 64, p := 1 }
theorem test_w_CalibrationCommands_fit : line.length = 8 ∧ (flat.take 7).length < 8 ∧ (fitOf 1 flat).isNone = true ∧ (fitOf 1 line).isSome = true ∧
    (match fitOf 1 line with | some f => decide (fitReason 1 f = 0) && decide (f.g = 1) && decide (f.o = 0) | none => false) = true ∧
    (520 < 512 ∨ 520 = 520) ∧ (planeOf (arrAt (tileAt up 0) 15) false).remap = [] := by decide +kernel

/-! ### The vector unit -/

/-- Tile 0's VU runs and its next word is the instruction. -/
def vs (opc : Nat) (f : VuFields) (v : Vu) : State := tl { vu := { v with run := true, imem := sset (fun _ => 0) v.imem 0 (vuWord opc f) } }
/-- No field set; and every field at its largest value of a kind. -/
def f0 : VuFields := ⟨0, false, false, 0, 0, 0, 0, 0, 0⟩
def topOf (k : RegKind) : Fin 32 := match k with | .none => 0 | .vec => 31 | .even => 30 | .sc => 15 | .pr => 7 | .num => 31
def fTop (u : VuUse) : VuFields := ⟨if u.pred then 7 else 0, u.wide, false, topOf u.vd, topOf u.va, topOf u.vb, topOf u.vc, BitVec.ofNat 32 u.imm, 2⟩

/-- Each opcode of R209 with the fields it uses. -/
def uses : List (Nat × VuUse) := [(0x00, { wide := true }), (0x01, use2 true), (0x02, use2 true), (0x03, use2 true), (0x04, { use2 true with vc := .vec }), (0x05, use2 true),
  (0x06, use2 true), (0x07, use1), (0x08, use1), (0x09, { pred := true, wide := true, bs := true, vd := .vec, vb := .vec }), (0x0A, { pred := true, vd := .vec, imm := 0xFFFFFFFF }),
  (0x10, use1), (0x11, use1), (0x12, use1), (0x13, use1), (0x14, use1), (0x15, use1), (0x16, use1), (0x20, use2 false), (0x21, use2 false), (0x22, use2 false), (0x23, use2 false),
  (0x24, use2 false), (0x25, use2 false), (0x26, use2 false), (0x27, use2 false), (0x28, use2 false), (0x29, { pred := true, vd := .vec, imm := 0xFFFFFFFF }),
  (0x30, { pred := true, wide := true, bs := true, vd := .pr, va := .vec, vb := .vec, imm := 7 }), (0x31, { pred := true, bs := true, vd := .pr, va := .vec, vb := .vec, imm := 7 }),
  (0x32, { use2 true with vc := .pr }), (0x33, { wide := true, vd := .pr, va := .pr, vb := .pr }), (0x34, { wide := true, vd := .pr, va := .pr, vb := .pr }),
  (0x35, { wide := true, vd := .pr, va := .pr, vb := .pr }), (0x36, { wide := true, vd := .pr, va := .pr }), (0x37, { pred := true, wide := true, vd := .sc, va := .pr }),
  (0x40, { pred := true, vd := .vec, va := .vec, vc := .vec, imm := 0x7FFF }), (0x41, { va := .sc, vb := .vec, vc := .num, imm := 0x03FFFFFF }),
  (0x50, { pred := true, wide := true, vd := .vec, va := .sc, imm := 0xFFFFFFFF }), (0x51, { pred := true, wide := true, vd := .vec, va := .sc, imm := 0xFFFFFFFF }),
  (0x52, { pred := true, wide := true, vd := .vec, va := .sc, vc := .num, imm := 0xFFFFFFFF }), (0x53, { pred := true, wide := true, vd := .vec, va := .sc, vc := .num, imm := 0xFFFFFFFF }),
  (0x54, { pred := true, vd := .vec, va := .sc, vb := .vec, imm := 0xFFFFFFFF }), (0x55, { pred := true, vd := .vec, va := .sc, vb := .vec, imm := 0xFFFFFFFF }),
  (0x60, useR true), (0x61, useR true), (0x62, useR true), (0x63, useR true), (0x64, use1), (0x65, useR false), (0x68, { vd := .sc, imm := 0xFFFFFFFF }), (0x69, useS), (0x6A, useS),
  (0x6B, useS), (0x6C, useS), (0x6D, { vd := .sc, va := .vec, imm := 0x1FF }), (0x6E, { vd := .sc, va := .sc, imm := 0xFFFFFFFF }), (0x6F, { vd := .sc, va := .sc, imm := 0xFFFFFFFF }),
  (0x70, { vd := .even, va := .even, imm := 0x1FF }), (0x71, { vd := .even, va := .even, vb := .even }), (0x78, { pred := true, vd := .vec }), (0x79, { pred := true, vd := .vec }),
  (0x7A, { va := .sc, vb := .sc }), (0x7B, { va := .sc, imm := 0x1FFF }), (0x7C, { va := .sc, imm := 0xFFFFFFFF }), (0x7D, { va := .sc, imm := 0xFFFFFFFF }), (0x7F, {})]

theorem test_w_Vu_ready : ∀ p ∈ uses, vuReady (vs p.1 f0 {}) 0 p.1 p.2 f0 ∧ (vs p.1 f0 {}).canon = true ∧ vuReady (vs p.1 (fTop p.2) {}) 0 p.1 p.2 (fTop p.2) := by
  unfold vuReady; decide +kernel
/-- Every opcode of R209 is in the list. -/
theorem test_w_Vu_all : uses.map (·.1) = vuOpcodes := by decide
theorem test_w_VuIntegerResult_cond : decide ((6 : Word).toNat ≠ 7) = true ∧ decide ((5 : Word).toNat ≤ 5) = true := by decide
theorem test_w_VuScalarResult : decide (f0.vb.val = 0) = true ∧ decide (f0.imm = 0) = true := by decide
theorem test_w_VuScalarResult_active : activeVals (vuOf (vs 0x61 f0 {}) 0) f0 ≠ [] := by
  have h : (activeVals (vuOf (vs 0x61 f0 {}) 0) f0).isEmpty = false := by decide +kernel
  intro e
  rw [e] at h
  cases h
theorem test_w_VuScalarResult_key : (decide (bits (0x98#32).toNat 3 0 ≤ 8) && decide (bits (0x98#32).toNat 7 4 ≠ 0) && decide (bits (0x98#32).toNat 7 4 ≤ 9)) = true := by decide
/-- The VU owns port 0 of every bank. -/
def vuOwn (s : State) : State := (List.range 48).foldl (fun s b => setFld s (tileBase 0) (ownerFld b 0) 4) s
theorem test_w_VuMemoryResult : vuMay (vuOwn (vs 0x50 f0 {})) 0 (settSize - 2048) 2048 64 ∧ vuMay (vuOwn (vs 0x53 f0 {})) 0 (2 ^ 24 + 64) 2048 64 ∧
    vuMay (vuOwn (vs 0x6F f0 {})) 0 (settSize - 4) 4 4 ∧ vuReady (vuOwn (vs 0x50 f0 {})) 0 0x50 { pred := true, wide := true, vd := .vec, va := .sc, imm := 0xFFFFFFFF } f0 := by
  unfold vuMay vuReady; decide +kernel
/-- No lane is active under p0 = 0 … the predicate that PRED 1 names. -/
theorem test_w_VuMemoryResult_lanes : (∀ q ∈ laneAddrs (vuOf (vs 0x54 { f0 with pred := 1, imm := 4 } { p := [(1, 1)] }) 0) { f0 with pred := 1, imm := 4 }, q = (0, 4)) ∧
    settOwned (vuOwn (vs 0x54 f0 {})) 0 4 4 4 = true := by decide +kernel
theorem test_w_VuControlResult_next : vuNextOk (vs 0x7C { f0 with imm := 8191 } { imem := [(8191, vuWord 0x7F f0)] }) 0 8191 ∧ 0 ≤ ((0 : Int) + (8191 : Word).toInt) ∧
    ((0 : Int) + (8191 : Word).toInt) < 8192 ∧ vuNextOk (vs 0 f0 {}) 0 1 := by unfold vuNextOk; decide +kernel
theorem test_w_VuControlResult_loop : (8191 : Word).toNat % 8192 ≠ 0 ∧ sGet ({ s := [(1, 1)] } : Vu) 1 ≠ 0 ∧ sGet ({} : Vu) 1 = 0 := by decide +kernel
theorem test_w_VuControlResult_seed : (vuOf (vs 0x7A f0 {}) 0).seedHeld = none ∧ hostUp (vs 0x7A f0 {}) = true ∧ (vuOf (vs 0x7A f0 {}) 0).run = true ∧ (vuOf up 0).run = false := by decide +kernel
theorem test_w_VuControlResult_watchdog : 0 < (vuOf (vs 0 f0 {}) 0).tStart + max 1 (fld (vs 0 f0 {}) (tileBase 0) R.VU_CTRL_WDOG) * 1024 := by decide +kernel
/-- FP32 to B4/512, part 3, with a given scale; and E4M3 to FP32. -/
theorem test_w_VuConversions : fmtOfCode (bits 0x4C50 3 0) = some .fp32 ∧ fmtOfCode (bits 0x4C50 7 4) = some .b4g512 ∧ bits 0x4C50 9 8 ≠ 3 ∧ unpackedFmt .fp32 = true ∧
    fmtIsBlock .b4g512 = true ∧ bits 0x4C50 13 10 < cvtParts .b4g512 ∧ bitOn 0x4C50 14 = true ∧ fmtOfCode 3 = some .e4m3 ∧ unpackedFmt .e4m3 = false ∧ fmtIsBlock .e4m3 = false ∧
    0 < cvtParts .e4m3 := by decide +kernel
theorem test_w_VuConversions_image : (vuOf (vs 0x41 f0 { drive := true }) 0).drive = true ∧ fldOn (vs 0x41 f0 { drive := true }) (tileBase 0) R.ACC_ESC_STATE_WIDE_RUN = false ∧
    vuMay (vuOwn (vs 0x41 f0 { drive := true })) 0 (vuAddr (vuOf (vs 0x41 f0 { drive := true }) 0) 0 0) 576 64 := by unfold vuMay; decide +kernel

/-! ### Links and packets -/

/-- Module 0 with one peer, module 1, on port 47; a bucket 9 of one slice that module 0 owns, with module 0 as its contributor; routes by port 47, tree 0 of port 47. -/
def geo : Geom :=
  { retain := 0, ns := 0, bwd := 0, pairOfs := 0,
    mods := [{ id := 0, key := [], ports := (List.range 48).map fun p => if p = 47 then (1, 3, true) else (0, 0, false), route := (0, 0) }],
    bkts := [{ bucket := 9, owner := 0, tree := 0, nslice := 1, succ := 0, mcFirst := 0, group := 0, fmt := 0, outk := 0, pscale := 0x3F800000, ptid := 5, pblk0 := 0,
               ltid := 6, lblk0 := 0, mtid := 8, contribs := [0] }],
    places := [{ tid := 5, cnt := 16, base := 0x10000, stride := 9216 }], routes := [(0, { entries := List.replicate 1024 (0x80 + 47), trees := [(2 ^ 47 + 2 ^ 46, true)], overrides := [] })] }
def cset : CfgSet := { digest := [], fw := [], geom := geo, grp := [], progs := [], fmtPol := [], calPol := [], xch := [] }
/-- That set in force, the exchange enabled. -/
def net : State := { setFld up 0 R.XCH_CTRL_ENABLE 1 with cfg := some cset }
/-- Port 47 in a link state with ADMITTED. -/
def lk (st : Nat) (x : Port) : State :=
  setFld (setFld (setFld { net with ports := sset (fun _ => {}) [] 47 x } (portBase 47) R.PL_STATE_LINK st) (portBase 47) R.PL_STATE_ADMIT 1) (portBase 47) R.PL_CTRL_ENABLE 1

theorem test_w_LinkBringUp_up : mayBringUp (lk 0 {}) 47 = true ∧ linkOf (lk 2 {}) 47 = 2 ∧ linkOf (lk 3 {}) 47 = 3 ∧ linkOf (lk 4 {}) 47 = 4 ∧ (lk 0 {}).canon = true := by decide +kernel
def lane (i : Nat) : Nat × LaneInfo := (i, { ok := true, inv := false, logical := i, peer := 1, port := 3 })
theorem test_w_LinkBringUp_lanes : (goodLanes { lanes := [lane 0, lane 3] }).head?.map (·.2) = some (lane 0).2 ∧
    ((List.range 4).filter fun l => bitOn (8#4).toNat l && (goodLanes { lanes := [lane 0, lane 3] }).any fun g => decide (g.2.logical = l)) = [3] ∧
    ((List.range 4).filter fun l => bitOn (2#4).toNat l && (goodLanes { lanes := [lane 0, lane 3] }).any fun g => decide (g.2.logical = l)) = [] ∧
    (lane 0).2.peer = fld (setFld (lk 2 {}) (portBase 47) R.PL_PEER_MODULE 1) (portBase 47) R.PL_PEER_MODULE := by decide +kernel
theorem test_w_LinkBringUp_await : (portAt (lk 4 { await := some (5, 0) }) 47).await = some (5, 0) ∧ 0 + 10000 * tcMs ≤ 10000 * tcMs := by decide +kernel
def txf (n : Nat) : TxFlit := { typ := 1, vc := 3, sop := true, eop := true, abort := false, data := [1], sent := n }
theorem test_w_LinkRetrains : (∃ f ∈ [txf (replayMax (lk 4 {}) 47 + 1)], replayMax (lk 4 {}) 47 + 1 ≤ f.sent) ∧ 0 < retrainMax (lk 4 {}) 47 ∧
    retrainMax (lk 4 {}) 47 ≤ retrainMax (lk 4 {}) 47 ∧
    bitOn (fld (setFld (lk 4 {}) (portBase 47) R.PL_LANE 0xFFFFFFFF) (portBase 47) R.PL_LANE) (8 * (3 : Fin 4).val + 4) = true :=
  ⟨⟨txf (replayMax (lk 4 {}) 47 + 1), by simp, Nat.le_refl _⟩, by decide +kernel, Nat.le_refl _, by decide +kernel⟩
def tx : TxPkt := { vc := 3, flits := [txf 0], ended := true, from' := none }
theorem test_w_LinkFlits_send : (portAt (lk 4 { replay := [txf 1] }) 47).replay = txf 1 :: [] ∧ (txf 1).at' + ackTo (lk 4 {}) 47 ≤ 6400 * 16 ∧ (txf 1).sent < replayMax (lk 4 {}) 47 + 1 ∧
    512 ≤ (List.replicate 512 (txf 1)).length ∧ vcHead { txq := [tx] } 3 = some tx ∧ tx.flits = txf 0 :: [] ∧
    (((List.range 4).map fun i => (0 + i) % 4).find? fun v => vcReady { txq := [tx], crdHave := [0, 0, 0, 1] } v && decide (([0, 0, 0, 1] : List Nat).getD v 0 ≠ 0)) = some 3 ∧
    (((List.range 4).map fun i => (0 + i) % 4).find? fun v => vcReady { txq := [tx] } v && decide (([0, 0, 0, 0] : List Nat).getD v 0 ≠ 0)) = none := by decide +kernel
/-- A flit of 256 bytes whose CRC is right. -/
def flit (typ seq : Nat) : List Byte := let b := leBytes 12 (typ + 65536 * seq) ++ List.replicate 240 0; b ++ leBytes 4 (crc32c b)
theorem test_w_LinkFlits_receive (typ : Nat) : (flit typ 4095).length = 256 ∧ crc32c ((flit typ 4095).take 252) = fieldLe (flit typ 4095) 252 4 := by
  have hb : (leBytes 12 (typ + 65536 * 4095) ++ List.replicate 240 (0 : Byte)).length = 252 := by rw [List.length_append, leBytes_length, List.length_replicate]
  generalize hx : leBytes 12 (typ + 65536 * 4095) ++ List.replicate 240 (0 : Byte) = x at hb
  have hf : flit typ 4095 = x ++ (leBytes 4 (crc32c x) ++ []) := by rw [List.append_nil, ← hx]; rfl
  refine ⟨by rw [hf]; simp [hb], ?_⟩
  rw [hf, fieldLe_mid x [] 4 (crc32c x) 252 hb, List.take_left' hb]
  exact (Nat.mod_eq_of_lt (show crc32c x < 2 ^ (8 * 4) from BitVec.isLt _)).symm
theorem test_w_LinkFlits_header : ∀ typ ∈ [0, 1, 2], fieldLe (flit typ 4095) 0 12 % 16 = typ ∧ fieldLe (flit typ 4095) 0 12 / 2 ^ 16 % 4096 = 4095 := by decide +kernel
/-- A packet of a kind, class and destination from module 0, of a bucket and version; a unicast one to module 1 stands whole at port 46. -/
def pkt (dest kind cls bucket ver : Nat) (body : List Byte) : List Byte :=
  leBytes 3 (dest + 2 ^ 18 * kind + 2 ^ 22 * cls) ++ leBytes 3 0 ++ leBytes 10 0 ++ leBytes 4 bucket ++ leBytes 4 0 ++ leBytes 8 ver ++ leBytes 16 0 ++ body
def rxp (b : List Byte) : RxPkt := { bytes := b, n := 1, flits := 1, ended := true, abort := false, bad := false, route := none }
theorem test_w_LinkFlits_forward : rxOf (lk 4 { rx := [(1, [rxp (pkt 1 1 1 9 0 [])])] }) 47 1 = rxp (pkt 1 1 1 9 0 []) :: [] ∧ kindClass (hdrOf (pkt 1 1 1 9 0 [])).kind ≠ some 2 ∧
    (hdrOf (pkt 1 1 1 9 0 [])).dest ≠ myId (lk 4 {}) ∧ unicastPort (lk 4 {}) 46 (hdrOf (pkt 1 1 1 9 0 [])) = some (47, false) ∧
    unicastPort (lk 3 {}) 46 (hdrOf (pkt 1 1 1 9 0 [])) = none := by decide +kernel
theorem test_w_LinkFlits_tree : kindClass (hdrOf (pkt 1 3 2 9 1 [])).kind = some 2 ∧ treeMask net (hdrOf (pkt 1 3 2 9 1 [])).tree = some (2 ^ 47 + 2 ^ 46) ∧ bitOn (2 ^ 47 + 2 ^ 46) 46 = true ∧
    kindBad (hdrOf (pkt 1 3 2 9 1 [])) = false ∧ (∀ e ∈ maskPorts (2 ^ 47 + 2 ^ 46), e ≠ 46 → egressOk (lk 4 {}) e (hdrOf (pkt 1 3 2 9 1 [])) = true) ∧ treeMask up 0 = none := by decide +kernel

/-! ### The exchange -/

/-- A packet that the module sent to itself. -/
def loc (b : List Byte) : State := { net with localRx := [{ port := 48, bytes := b }] }
theorem test_w_comes (kind cls : Nat) (b : List Byte) (h : (hdrOf b).kind = kind ∧ (hdrOf b).cls = cls ∧ kindClass kind = some cls) (ver : Nat) :
    comes (loc b) 48 kind ver b { loc b with localRx := [] } := by
  refine ⟨?_, h.1, { loc b with localRx := [] }, ?_, rfl⟩
  · show xchOn net = true
    decide +kernel
  · rw [h.2.2]
    unfold takeLocal
    rw [if_neg (show ¬ (((48 : Fin 49) : Nat) < 48) by decide)]
    simp [loc, h.2.1]
theorem test_w_ContributionsClassified_packet : ∀ q ∈ [(1, 1), (2, 1), (3, 2), (4, 2), (5, 2), (6, 0), (7, 3)],
    (hdrOf (pkt 0 q.1 q.2 9 1 [])).kind = q.1 ∧ (hdrOf (pkt 0 q.1 q.2 9 1 [])).cls = q.2 ∧ kindClass q.1 = some q.2 ∧ pktVer (pkt 0 q.1 q.2 9 1 []) = 1 ∧
    pktBucket (pkt 0 q.1 q.2 9 1 []) = 9 := by decide +kernel
def ob (ver : Nat) : OBkt := { bucket := 9, ver := ver }
def own (o : OBkt) : State := { net with obkts := [o] }
theorem test_w_ContributionsClassified_versions : obkt (own (ob 1)) 9 = some (ob 1) ∧ (geomBkt (own (ob 1)) 9).isSome = true ∧ obkt net 9 = none ∧ holdFull net (pkt 0 1 1 9 1 []) = false ∧
    (1 ≤ 1 ∧ 1 ≤ 1) ∧ 1 < pktVer (pkt 0 1 1 9 2 []) ∧ pktVer (pkt 0 1 1 9 0 []) + 1 = (ob 1).ver ∧ pktVer (pkt 0 1 1 9 0 []) + 1 < (ob 2).ver ∧
    (contribOf { ob 1 with contribs := [⟨0, 1, 0, some 0, false⟩] } 0 1).close.isSome = true ∧ (contribOf (ob 1) 0 1).close.isSome = false ∧
    (hdrOf (pkt 0 1 1 9 0 [])).src ∈ [0] := by decide +kernel
theorem test_w_ContributionsClassified_carry : fld (setFld net 0 R.XCH_PARAM0_LATE_CARRY 0) 0 R.XCH_PARAM0_LATE_CARRY = 0 ∧
    fld (setFld net 0 R.XCH_PARAM0_LATE_CARRY 1) 0 R.XCH_PARAM0_LATE_CARRY = 1 := by decide +kernel
/-- Bucket 9 as it is received. -/
def rbk (vs : List RVer) : State := { net with rbkts := [{ bucket := 9, vers := vs }] }
def rv (got : List Nat) (full : Option Nat) (reqs : Nat) : RVer := { ver := 1, got := got, lastAt := 0, fullAt := full, reqs := reqs, reqAt := 0, gone := false, failed := false }
theorem test_w_BlocksAndNotices_receive : (rbkt (rbk []) 9).isSome = true ∧ (17 * 1 ≤ 17) ∧ (rver { bucket := 9, vers := [rv [] (some 0) 0] } 1).fullAt ≠ none ∧
    (rver { bucket := 9 } 1).fullAt = none ∧ placeAddr net { tid := 5, blk := 15, fmt := 5, layout := 1 } 1 = some (0x10000 + 15 * 9216) ∧
    recoverVer (0 + 1) 1 = 1 ∧ blockCheck { tid := 5, blk := 15, fmt := 5, layout := 1 } false [] ≠ 0 ∧ (rbk []).canon = true := by decide +kernel
theorem test_w_BlocksAndNotices_block (t : Trailer) (h : t = { crc := 0, version := 1, tag := 0, tid := 5, block := 15, format := 0x15, flags := 0, summary := 0 }) :
    blockCheck { tid := 5, blk := 15, fmt := 5, layout := 1 } false (restamp (List.replicate 9216 0) t) = 0 := by
  have h1 := blockCheck_restamp (List.replicate 9216 0) t (Nat.le_trans (by decide) (Nat.le_of_eq List.length_replicate.symm)) (by rw [h]; decide)
  generalize restamp (List.replicate 9216 0) t = x at h1 ⊢
  subst h
  simpa using h1
theorem test_w_BlocksAndNotices_resend : ∀ q ∈ [0, 2, 3],
    let s := { setFld (rbk [rv [0] none q]) 0 R.XCH_CTRL_RESEND_EN 1 with now := 2 ^ 60 }
    (rbkt s 9).isSome = true ∧ xchOn s = true ∧ fld s 0 R.XCH_CTRL_RESEND_EN = 1 ∧ s.doneV < 1 ∧ resendDue s { bucket := 9, vers := [rv [0] none q] } 1 = true ∧
      (rver { bucket := 9, vers := [rv [0] none q] } 1).failed = false ∧ s.canon = true := by decide +kernel
/-- A bucket whose one contributor has arrived, and one whose has not, in its first and second deadline. -/
def arr : OBkt := { bucket := 9, ver := 1, timing := true, contribs := [⟨0, 1, 0, some 0, true⟩] }
theorem test_w_OwnedBucketsAndSteps_close : oOpen arr = true ∧ arr.held = false ∧ arr.timing = true ∧ arrivedOf arr = 1 ∧ arrivedOf { arr with contribs := [] } ≠ 1 ∧
    quorum net { geo.bkts.headD ⟨0, 0, 0, 0, 0, 0, 0, 0, 0, 0, 0, 0, 0, 0, 0, []⟩ with contribs := [0] } ≤ 1 ∧ xchTimer net < 0 + 2 * deadlineUs net ∧
    0 + 2 * deadlineUs net ≤ xchTimer { net with now := 2 ^ 60 } ∧ 0 + deadlineUs net ≤ xchTimer { net with now := deadlineUs net * tcUs } := by decide +kernel
theorem test_w_OwnedBucketsAndSteps_retry : fwReady net = true ∧ 0 + tcMs ≤ tcMs ∧ covered { ob 5 with sup := some (5, 5) } 5 = true ∧ covered (ob 5) 5 = false ∧ windowsClear net 5 = true ∧
    (geo.bkts.all fun g => allOk g { ob 5 with published := false, res := (List.range 24).map fun m => (m, 0) }) = true ∧ (0 + 1 ≤ (if (ob 5).published then 5 else 4)) := by decide +kernel
theorem test_w_OwnedBucketsAndSteps_commit : (rbk [rv [] (some 0) 0]).rbkts ≠ [] ∧ (∀ r ∈ (rbk [rv [] (some 0) 0]).rbkts, (rver r (0 + 1)).fullAt ≠ none) ∧ net.passed = [] ∧
    net.staged = none ∧ (∃ r ∈ (rbk []).rbkts, (rver r (0 + 1)).fullAt = none) ∧ fwReady State.reset = false := by decide +kernel
theorem test_w_OwnedBucketsAndSteps_windows : winDue { n := 1, commits := 2 } = true ∧ 1 < 2 ^ minLog2 0x00000A0E ∧ winDue { n := 2 ^ 14 } = true ∧ 2 ^ minLog2 0x00000A0E ≤ 2 ^ 14 ∧
    winDue {} = false ∧ max 0x100 (0x01400080 / 65536) * 2 ^ 14 * 256 < 2 ^ 40 := by decide +kernel

/-! ### Escalation, queues and records -/

def sus (lv mode : Nat) (t : Tile) : State := { setFld (setFld (tl t) 0 (fldAt R.OWL_PTILE_ESC_LEVEL 0) lv) 0 R.OWL_ESC_GB_MODE mode with suspects := [(0, 3)] }
theorem test_w_EscalationAndTakeover_rise : fwReady (sus 0 0 {}) = true ∧ logicalOf (sus 0 0 {}) (0 : Fin 68) = some 0 ∧ (sus 0 0 {}).retiring.contains 0 = false ∧
    (sus 0 0 {}).suspects.find? (fun y => decide (y.1 = 0)) = some (0, 3) ∧ min 4 (fld (sus 2 0 {}) 0 (fldAt R.OWL_PTILE_ESC_LEVEL 0) + 1) < retireLevel (sus 2 0 {}) ∧
    min 4 (fld (sus 0 1 {}) 0 (fldAt R.OWL_PTILE_ESC_LEVEL 0) + 1) < retireLevel (sus 0 1 {}) ∧ gbMode (sus 0 1 {}) = 1 ∧ (sus 0 0 {}).canon = true := by decide +kernel
theorem test_w_EscalationAndTakeover_retire : retireLevel (sus 3 0 {}) ≤ min 4 (fld (sus 3 0 {}) 0 (fldAt R.OWL_PTILE_ESC_LEVEL 0) + 1) ∧ spareOf (sus 3 0 {}) 0 = some 16 ∧
    takeoverReady (sus 3 0 {}) 0 = true ∧ takeoverReady (sus 3 0 { issued := [isd (.swap 1) false] }) 0 = false ∧
    spareOf (setFld (sus 3 0 {}) 0 (fldAt R.MGT_PTILE_STATE_STATE 16) 2) 0 = none := by decide +kernel
theorem test_w_EscalationAndTakeover_write : fld (sus 4 0 {}) 0 (fldAt R.OWL_PTILE_ESC_LEVEL 0) ≤ (4 : Fin 8).val ∧ (3 : Fin 8).val < fld (sus 4 0 {}) 0 (fldAt R.OWL_PTILE_ESC_LEVEL 0) := by
  decide +kernel
theorem test_w_EscalationAndTakeover_scan : scanTile up = none ∧ ({ up with den := [67] } : State).den = 67 :: [] := by decide +kernel
theorem test_w_ScanEnds : scanTile (setFld up 0 (fldAt R.OWL_PTILE_ESC_SCAN 67) 1) = some 67 ∧ spareOf up 3 = some 67 ∧ (setFld up 0 (fldAt R.OWL_PTILE_ESC_SCAN 67) 1).canon = true := by
  decide +kernel

/-- Event queue 15 enabled, 64 records, one record written and not released, in the given queue state. -/
def eq (x : EvqState) : State :=
  setFld (setFld (setFld { up with evqs := sset (fun _ => {}) [] 15 x } 0 (fldAt R.EVQ_CFG_EN 15) 1) 0 (fldAt R.EVQ_CFG_SIZE_LOG2 15) 6) 0 (fldAt R.EVQ_TAIL_INDEX 15) 1
theorem test_w_EventQueues : evqOn up (15 : Fin 16) = false ∧ bitOn (0x80#32).toNat 7 = true ∧ evqOn (eq {}) (15 : Fin 16) = true ∧ evqSize (eq {}) 15 ≤ 64 ∧
    evqUsed (eq {}) 15 < (2 + evqSize (eq {}) 15 - evqHead (eq {}) 15) % evqSize (eq {}) 15 ∧ (1 + evqSize (eq {}) 15 - evqHead (eq {}) 15) % evqSize (eq {}) 15 ≤ evqUsed (eq {}) 15 ∧
    1 < evqSize (eq {}) 15 ∧ evqTail (eq {}) 15 = 1 ∧ (eq {}).canon = true := by decide +kernel
theorem test_w_EventQueues_time : (evqOf (eq { firstAt := some 0, armed := true }) (15 : Fin 16)).firstAt = some 0 ∧ (evqOf (eq { firstAt := some 0, armed := true }) (15 : Fin 16)).armed = true ∧
    0 + evqTime (eq {}) 15 * tcUs ≤ 0xFFFF * tcUs ∧ bitOn (sget msixReset [(7, 1#32)] (4 * 1 + 3)).toNat 0 = true ∧ bitOn (sget msixReset [(7, 0#32)] (4 * 1 + 3)).toNat 0 = false := by decide +kernel
theorem test_w_EventQueues_overflow : (evqOf (eq { drops := 1 }) (15 : Fin 16)).drops ≠ 0 ∧ evqFull (eq { drops := 1 }) (15 : Fin 16) = false ∧ (eq {}).d3hot = false := by decide +kernel

/-! ### Keys and signatures -/

/-- A modulus of 4,096 bits, made for the tests from two primes with a program outside the model; its signatures below were made with it by RSASSA-PSS. -/
def tN : Nat :=
  [0xb0931fe7e52d07e14daf1be3f63922d0a94e3c1b1ba39d65394e2f7f616978380341191e7145070d0d24a518aeadab9295b676a083f31e73f906d4c95fd2ed7f,
    0xbe2ee345c7d57137ac7566fd3d5b96e52fb44d7235a46f819f2e36fd1f9b3da5d90e50bafd478043844f1b97efb678137c408f42dc110004fd2e7aea51d97666,
    0x2e04f7023512a1de205a584bc99dd6fb5adab92d49b64be5a20f1cf5175303cd3bd0c36d4b272ade669dd034dbc7de9cfb3a598ced093eb803a0117e26a07610,
    0x007c2fbf874ecac145d1768ac1691441805a2a542390a973e30b7fbfa4a092f64f43ac265b35cf4660449d1efd5a5d0bdc245aed603dbff9500187a8a879e501,
    0x87f90e426fc0619d94a13203e5262f531721d3abf9de0e273d5de13506baf2aa2ed0aa1dcbacca1b93079aea1ce14ba6b06f2f740587558ee15aa6fca4826b58,
    0xdbf185c39b6036e8531ce5cf4f079b2631a0e116d9a93403fc724848273b19d4d524cda6bc7cf2adae2bd9052f4f2e186382f3b25d73f15d9aae8e8d5b61055c,
    0x881b975dc7d42de2338809cc34407b725d623fe8b30a5075490a5a86fb8cb3a01c1d69073af851d24de5113f2215b835c4b1a66043dc877a2707ce148b5de9b0,
    0xc1b54b6b4c701144d7a758d2853c954835eb91bf6a527a0d7004d69431d585024eaf23317573f64a9b2eec93de427a8280695fecc460da3c7bc838df868015df].foldl (fun a p => a * 2 ^ 512 + p) 0
/-- The signature of the modulus followed by a byte 1. -/
def tOwn : Nat :=
  [0x3efb52405c244fff8cb7d58038dee40fdfb777bd7c63314b3ac01c4d1267adad7bdd669a66c80f0e81e7fe9c0deb7bb0e57b92c3cc45bba7d992665bc76f5ad3,
    0xdd12d4ff35af140eeea4e5a54ee607c1c31064cb78b889f9ed189fab0fae4d137db80362956084f1e0587659be49f33678570d1362da57bf8d28924ecf1340cb,
    0x3c54fcfa038b8c3ba307c0949ce4165081554cdae30ec51f2c0256869b1d6275e90f2c20c5dfaf6afa76d46057408260dfcfc3e99957eea7a58cd1634890b893,
    0x4ba57abd59952565bd2a2f830c9d965152f0dd40dcaced21cd79256a3d029734ad933e8506efa65fa72c9da23cf4f7007bfac72b837a2d32459d91a3c98e01b5,
    0xc624aaf2a81aadace8028d2a500d445af70f6af9ef0c6ea75249bf260b4bdf481756d29df1d2cd8ddabcd1aaa8ad0451168f403bdff7e6610bdb303d35202590,
    0x8f6687667d38241e7d74e0f9f5ee7838ba78ca6e4ef6df85147593033292d73df92c5c127ab3148f584dac8600e738fdaada8d0f935b9899eb454e6031719bea,
    0x6d576f424b0987581ab47fe0ff6db0870fb32105875a773501eacbcae9edd125db6568fafe3978a7752535c5cf203c9facb3daaa895a32af3f0dd5a50bdabd5a,
    0xe83689b81bbf4c4a43f329abb1e083211c9b7b40d505a58387fc4728b2af3ba390894391258f14d333b9b39747ae16dda10c8711a0444ad0c0ce01b81cf8bc71].foldl (fun a p => a * 2 ^ 512 + p) 0
/-- The signature of the header `tHdr`. -/
def tImg : Nat :=
  [0x01bba429c93ed2eddef3df87302df7e6e7bb258a62418a6805a1d16b45cc7517f2c5a05a0a92da3c3045e6a52ec58e5d197260a2882ce57267d08a536e132c67,
    0xaf20cf9d91a01906d69531773be07a3e0a41809a0ccc1c97113696570ee2ebb745fd6a5d6ca4b96e5fba539c691a1e16827426bf037b816c2ef1ab1b657981e9,
    0x04927fa99dc841083f98b8adba93f14eb84ac761c1adcc803ec90557dd27abb251883212ff7d3a2a664cde58065a34593375c7dac9af983746a329e98cc435ab,
    0xbcc4a2d66473e7726a02ab03b94542b106dbeb064eff7532a7b43f558efb76ddcc54f6c66a1dc4fd5c8e9a63b2ca1d43a0db18606cbd2af3111657ae0a18441f,
    0x69119ccd8cc0fa149aa1ebef9f56d1ba9a2b78e741675b98b933e2001e007f256eaa1b7c7aa63431805f906c34e10d7631ab844d6a30d42f4c51cfacdf8429c2,
    0x17710b4f9b9b6f99ed3321cbe59f051eca1db1d59451d25c096be3b8a383f419cfdfa6177e7a25fe82a63cd35e9697b0aec4efe6b501662e0e8ebeb74dd8437f,
    0x62dd037d54cb10ae2de557c53c1ab336dc79f20167545a61c38d01569ec912dc0c382d0b17b43b411eb058dd56286b1338398ee8dc502b4aad1ef5172997f429,
    0xe8273bf5d94842e1d9fdc504d64c7357cd6eb35b4431a880f42194a83d0915e58fa3da00061717af50e0f0d0c3047ad3f6f864d32e0883adf39433c76cb9d45e].foldl (fun a p => a * 2 ^ 512 + p) 0
/-- The signature of the unlock message of a nonce of zeros. -/
def tAns : Nat :=
  [0xa8f1791aabfade84747c9d488809192f392bb8a9192b51b5990d2fbc418455b83d0e156e5ded5235104f0564ac60bc2e5983a7bcfa5ec9cce619da8c48ea876d,
    0x474d7441a1ffd110a08ea19bd4ce053834961cac8d5a25e6b8e85901b421c8db68fca1f32bc4729e27589ef8ae716bfadb9a71e31abd17c0af2bfdf0a75b71f1,
    0x6e31859502a2772b945a89a8b1ece93103ff530a366c7f873289ae72181fe044c8185f735caa6a352da75a1817540112959797859c32e64c11fb73904949abf5,
    0xb2ca8d261b19227e2c83c3863d1c0fc1f95585786f4e86a577840d8d690d0749617cea1eb91cc1226614780333fd42102415f004f946d0fc0dfddf7517fc514f,
    0xeef775c4a336f31b2aa9dad9a298d0d8785dd2d2016cc143e48f2668c2c8ad3b133f143c2a01c54c6149f955c18dcc6fc226582d3d69a89a0232499908ad6647,
    0x2653e13c3e459f12a62ad4d09a5eeb294eaf928e106a498cf60facb3178e7980e91e981a830b691be1968028a455ee4f2841ee93b5a798e82bfd37cec2cf591d,
    0x2b70c19a1b6683e5c53bf6a556230c98c9c6352f21f9447b5d54d38a2f446760dcb457cb5a7203c1abef974a0102c395906f654bbcece7449c9d7174a10604b5,
    0xc36cb09ec1a81549e69e1f5eeca7f2d0fd4d062b03ba4cea07490b92d48d103125d0f4e93e113a4ad7726b3e4f9f063fa98dfb119942ddb8627a124e140a1a0b].foldl (fun a p => a * 2 ^ 512 + p) 0
def be512 (x : Nat) : List Byte := (leBytes 512 x).reverse
/-- SHA-512 of the modulus, by 32-bit words. -/
def tDig : List Word := [0x19fedaf9, 0x486d8e80, 0xaca25757, 0xc08f87f8, 0xb1e0800e, 0x3e74a545, 0xb7417d20, 0xe0402b61, 0xeb1f8fcc, 0x63856ff0, 0xe7a655cd, 0x63763140, 0x89a9c417, 0xe9dd22e4, 0xbc4c2057, 0x9df779c3]
/-- The header of an image with security version 3, version 9 and a body of one byte 0xA5. -/
def tHdr : List Byte :=
  leBytes 4 0x464B4C47 ++ [1, 0, 1, 0] ++ leBytes 4 3 ++ leBytes 4 0 ++ leBytes 8 9 ++ leBytes 4 1 ++ leBytes 4 0 ++
    leBytes 64 0x3739616a63ed07ef5cb05f3f9c94af0783b406272dd9a6141fbcd87518f2ee3fa905e5b531dabeefe34a1f920b6f4a94ca8dbc93078e7d1c1d2f454860711589 ++ List.replicate 160 0
def tImage : List Byte := tHdr ++ be512 tN ++ be512 tImg ++ List.replicate 1024 0 ++ [0xA5]
/-- Fuses with the digest of the modulus at a register, and a value of the security fuses. -/
def fz (f : Fld) (sec : Nat) : List (Nat × Word) :=
  (if f.off < R.SEC_STATE.off then [] else [(R.SEC_STATE.off, BitVec.ofNat 32 sec)]) ++ (tDig.zipIdx.map fun p => (f.off + 4 * p.2, p.1)) ++
    (if f.off < R.SEC_STATE.off then [(R.SEC_STATE.off, BitVec.ofNat 32 sec)] else [])
theorem test_rsa_verifies : rsaVerify (be512 tN) (be512 tOwn) (be512 tN ++ [1]) = true := by decide +kernel
theorem test_rsa_refuses : rsaVerify (be512 tN) (be512 (tOwn + 1)) [1] = false := by decide +kernel
theorem test_image_accepted : imageFail { up with fuses := fz R.SEC_VKEY 0 } tImage = 0 := by decide +kernel
theorem test_image_refused : imageFail up (List.replicate 8 0) = 1 := by decide +kernel
theorem test_answer : answerOk { up with fuses := fz R.SEC_OKEY 4, sec := { okey := be512 tN }, mon := { nonce := some (List.replicate 32 0, 0), answer := be512 tAns } } = true := by decide +kernel
def raw : RawRec := { seq := 0, launch := 0, reg := 0x10, bit := 3, kind := 0, unit := 0, detail := [], net := true, bdg := true }
theorem test_w_RecordsLeave : ({ up with owlFifo := [raw] } : State).owlFifo.find? (fun r => r.net) = some raw ∧ (0 : Nat) < max 1 (fld up 0 R.OWL_CTRL_RATE) ∧
    max 1 (fld up 0 R.OWL_CTRL_RATE) ≤ ((List.replicate 65536 0).filter fun t => decide (0 < t + tcMs)).length ∧ fwComposes up = true ∧ namedBit raw.reg raw.bit = false ∧
    namedBit R.OWL_STATUS.off 7 = true ∧ (nextRaw { up with fwRaw := [raw] }).isSome = true := by
  refine ⟨by decide +kernel, by decide +kernel, ?_, by decide +kernel, by decide +kernel, by decide +kernel, by decide +kernel⟩
  have h : (List.replicate 65536 (0 : Nat)).filter (fun t => decide (0 < t + tcMs)) = List.replicate 65536 0 :=
    List.filter_eq_self.2 fun a ha => by rw [List.eq_of_mem_replicate ha]; decide
  rw [h, List.length_replicate]
  decide +kernel
/-- A raw record of SEQ_HALT with its named event, a bare event, and a dropped record that Badger was to take. -/
def evH : FwEvent := { typ := 0x10, cls := 1, ver := 0, kind := 1, unit := 0, op0 := 0, op1 := 0, detail := [3, 0], seq := 0 }
theorem test_w_RecordsLeave_named : ({ up with fwEvents := [evH] } : State).fwEvents.filter (fun e => decide (e.seq = raw.seq)) = [evH] ∧
    ([evH, { evH with seq := 0xFFFFFFFF }].find? fun e => decide (e.seq = 0xFFFFFFFF)) = some { evH with seq := 0xFFFFFFFF } := by decide
/-- A raw record that Badger does not take brings no named record (R436, R437). -/
theorem test_unforwarded_has_no_event : (pushNamed { up with owlFifo := [{ raw with bdg := false }] } 0 [evH]).fwEvents = [] ∧
    (pushNamed { up with owlFifo := [raw] } 0 [evH]).fwEvents = [evH] := by decide

/-! ### The mailbox -/

/-- A pair's command of an opcode with parameters, RUNNING since 0. -/
def page (op : Nat) (ps : List Byte) : List Byte := leBytes 2 op ++ List.replicate 62 0 ++ ps ++ List.replicate (4032 - ps.length) 0
def cmd (op : Nat) (ps : List Byte) : MbxCmd := { pair := 63, op := op, page := leBytes 2 op ++ ps, since := 0 }
def mb (s : State) (c : MbxCmd) : State := { s with mbxRun := [c] }
theorem test_w_MailboxPairs_states : pairState up 63 = 0 ∧ pairState (setFld up 0 (pairFld 63) 3) 63 = 3 ∧ pairState (setFld up 0 (pairFld 63) 1) 63 = 1 ∧
    pairState (setFld up 0 (pairFld 63) 2) 63 = 2 := by decide +kernel
/-- The request page of pair 63 holds GET_INFO, or an opcode that does not exist. -/
def posted (op : Nat) : State := { up with mbxPosted := [63], mbx := (leBytes 2 op).zipIdx.filterMap fun p => if p.1 = 0 then none else some (0x2000 * 63 + p.2, p.1) }
theorem test_w_MailboxPairs_take : ∀ op ∈ [1, 0x7FFF], (posted op).sec.hand = none ∧ takesPairs (posted op) = true ∧
    nextPair (posted op) ((posted op).mbxRun.flatMap fun c => opUnits c.page) (if inRecovery (posted op) then [] else (posted op).mbxPosted) = some 63 ∧ (posted op).canon = true := by decide +kernel
theorem test_w_MailboxPairs_fails : takeFails (posted 1) { pair := 63, op := 1, page := reqPage (posted 1) 63, since := 0 } 0 = none ∧
    (takeFails (posted 0x7FFF) { pair := 63, op := 0x7FFF, page := reqPage (posted 0x7FFF) 63, since := 0 } 0).isSome = true := by decide +kernel
theorem test_w_MailboxPairs_late : mailboxRow 63 (.getInfo 63) = some 1 ∧ (mb up (cmd 1 [])).mbxRun.find? (fun c => decide (c.pair = 63) && decide (c.op = 1)) = some (cmd 1 []) ∧
    (cmd 1 []).since + opBound (cmd 1 []) < tcMs + 1 ∧ (63 : Nat) < 64 := by decide +kernel
theorem test_w_MailboxPairs_finish (op : Nat) (ps : List Byte) (h : ps.length ≤ 4032) : (page op ps).length = 4096 := by
  simp only [page, List.length_append, List.length_replicate, leBytes_length]
  omega
/-- Every opcode's command runs. -/
theorem test_w_Mailbox_runs : ∀ op ∈ [1, 2, 3, 4, 5, 6, 7, 8, 9, 0xA, 0xB, 0xC, 0x40, 0x41, 0x42, 0x43, 0x44, 0x45, 0x46], mbxRuns (mb up (cmd op [])) 63 op (cmd op []) := by
  unfold mbxRuns; decide +kernel
/-- Memory that holds nothing carries version 0. -/
theorem zero_version (s : State) (hs : s.hbm = []) (a : Nat) : (trailerOf (hbmRead s a 9216)).version = 0 := by
  simp only [trailerOf, Machine.fieldLe, hbmRead, sgetList, hs]
  apply leNat_zeros
  intro b hb
  have h1 := List.mem_of_mem_drop (List.mem_of_mem_take hb)
  obtain ⟨i, -, hi⟩ := List.mem_map.1 h1
  exact hi.symm
theorem test_w_MailboxReports_snapshot : ((snapBlocks (page 5 [])).all fun b => decide ((trailerOf (hbmRead up (snapAddr up b.1 b.2 0) 9216)).version = low48 0)) = true ∧
    ([(0, 0)].all fun (b : Nat × Nat) => decide ((trailerOf (hbmRead up (snapAddr up b.1 b.2 1) 9216)).version = low48 1)) = false ∧
    1 < fld (setFld up 0 R.XCH_COMMITTED 2) 0 R.XCH_COMMITTED := by
  simp only [zero_version up rfl]
  decide +kernel
theorem test_w_MailboxReports_blocks : snapBlocks (page 5 (List.replicate 8 0 ++ [1, 0, 0, 0] ++ List.replicate 8 0 ++ [1, 0, 0, 0])) = [(0, 0)] := by decide +kernel
/-- An activation step that has passed is refused. -/
theorem test_w_MailboxWork_config : cfgRefusal up 0 (sub (page 2 []) 88 64) [] = 1 := if_pos (Nat.zero_le _)
theorem test_w_MailboxWork_streams : (∀ o ∈ (List.range (par (page 3 [1]) 0 4)).map (fun i => 32 + 32 * i), seqState up (phys up (par (page 3 [1]) o 1)) = sqStopped) ∧
    checkStreams (((List.range (par (page 3 [1]) 0 4)).map fun i => 32 + 32 * i).map fun o => (par (page 3 [1]) o 1, streamOps up (par (page 3 [1]) o 1) 0 0)) = none ∧
    (checkStreams [(0, [(0, 0, .wait 0 1), (0, 1, .signal 0 0 1)])]).isSome = true := by decide +kernel
theorem test_w_MailboxWork_tiles : ptileState up (phys up 63) = 0 ∧ up.retiring.contains 66 = false ∧ spareOf up (66 / 17) = some 67 ∧ takeoverReady up 66 = true ∧
    ptileState (setFld up 0 (fldAt R.MGT_PTILE_STATE_STATE 66) 3) 66 ≠ 0 ∧ spareOf (setFld up 0 (fldAt R.MGT_PTILE_STATE_STATE 67) 2) 3 = none := by decide +kernel
theorem test_w_MailboxWork_buckets : obkt up (par (page 7 [9]) 0 4) = none ∧ (obkt (own { ob 1 with failed := true }) (par (page 7 ([9, 0, 0, 0, 0, 0, 0, 0] ++ leBytes 8 1)) 0 4)).isSome = true ∧
    par (page 7 ([9, 0, 0, 0, 0, 0, 0, 0] ++ leBytes 8 1)) 8 8 = 1 ∧ par (page 8 ([9, 0, 0, 0, 0, 0, 0, 0] ++ leBytes 8 2 ++ leBytes 8 1)) 16 8 < par (page 8 ([9, 0, 0, 0, 0, 0, 0, 0] ++ leBytes 8 2 ++ leBytes 8 1)) 8 8 ∧
    par (page 8 ([9, 0, 0, 0, 0, 0, 0, 0] ++ leBytes 8 1 ++ leBytes 8 1)) 16 8 ≤ (if (ob 1).published then (ob 1).ver else (ob 1).ver - 1) ∧ par (page 0xA [9, 0, 0, 0, 1]) 4 1 = 1 ∧
    par (page 0xA [9]) 4 1 ≠ 1 := by decide +kernel
theorem test_w_MailboxWork_arrived : (geomBkt net (par (page 9 [9]) 0 4)).isSome = true ∧ (rbkt (rbk []) (par (page 9 [9]) 0 4)).isSome = true ∧
    (geo.bkts.all fun g => decide (17 * g.nslice = 17)) = true := by decide +kernel
theorem test_w_MailboxWork_missing (g : GBkt) (p : Nat) : arrivedOk net g 1 p = false := by
  unfold arrivedOk
  dsimp only
  split
  · rfl
  · rw [zero_version net rfl]
    exact Bool.and_eq_false_imp.2 fun _ => rfl
theorem test_w_MailboxFirmware_stage : inRecovery up = false ∧ bitOn (par (page 0x42 (leBytes 8 (2 ^ 63) ++ leBytes 4 2305)) 0 8) 63 = true ∧
    par (page 0x42 (leBytes 8 (2 ^ 63) ++ leBytes 4 2305)) 8 4 = 2305 := by decide +kernel
theorem test_w_MailboxFirmware_length : tImage.length = 2305 := by
  simp only [tImage, tHdr, be512, List.length_append, List.length_replicate, leBytes_length, List.length_reverse, List.length_cons, List.length_nil]
theorem test_w_MailboxFirmware_measure (ps : List Byte) (h : ps.length = 16) : measureOf tImage = sub (page 0x42 (ps ++ measureOf tImage)) 80 64 := by
  have hl : (measureOf tImage).length = 64 := sha512_length _
  generalize measureOf tImage = m at hl ⊢
  have e : page 0x42 (ps ++ m) = (leBytes 2 0x42 ++ List.replicate 62 0 ++ ps) ++ (m ++ List.replicate (4032 - (ps ++ m).length) 0) := by
    simp only [page, List.append_assoc]
  rw [e, sub, List.drop_left' (by simp [h]), List.take_left' hl]
theorem test_w_MailboxFirmware_owner : ownerArmed up = false ∧ ownerArmed { up with sec := { armAt := some 0 } } = true ∧ ownerSet up = false ∧
    ownerSet { up with fuses := fz R.SEC_OKEY 4 } = true := by decide +kernel
theorem test_w_MailboxFirmware_svn : leNat (slotRead up 0 8 4) ≤ fuseSvn up ∧ fuseSvn up < leNat (slotRead { up with flash := [(8, 1)] } 0 8 4) := by decide +kernel

/-! ### Copies, resets and the hub processor -/

/-- Engine 5 with a copy. -/
def cp (j : CpyJob) : State := { setFld up 0 (fldAt R.HIF_CPY_STAT_BUSY 5) 1 with cpy := [(5, j)] }
theorem test_w_HostCopiesAndResets_go : cpyMay up (5 : Fin 8) false ∧ cpyMay up (7 : Fin 8) true ∧ cpyBusy up (5 : Fin 8) = false ∧ cpyJob up (5 : Fin 8) = none ∧ 6 ≤ (6 : Fin 8).val := by
  unfold cpyMay; decide +kernel
theorem test_w_HostCopiesAndResets_done : cpyBusy (cp ⟨0, 0, 0x17F00000000 - 64, 1⟩) (5 : Fin 8) = true ∧ cpyJob (cp ⟨0, 0, 0x17F00000000 - 64, 1⟩) (5 : Fin 8) = some ⟨0, 0, 0x17F00000000 - 64, 1⟩ ∧
    (List.replicate 64 (0 : Byte)).length = 64 * 1 ∧ 0x17F00000000 - 64 + 64 * 1 ≤ 0x17F00000000 ∧ hbmEnd < hbmEnd + 64 ∧ 0x17F00000000 ≤ 0x17F00000000 ∧
    0x17F00000000 + 64 ≤ hbmEnd ∧ (cp ⟨1, 0, 0, 1⟩).canon = true := by decide +kernel
theorem test_w_HostCopiesAndResets_perst : up.hubUp = true ∧ (31 : Nat) < 32 ∧ 4 ≤ up.pwr.width := by decide
theorem test_w_HubProcessorAndNetwork_watchdog : ({ up with stall := some 0 } : State).stall = some 0 ∧ 1 ≤ fld up 0 R.HIF_FW_STATE ∧ fld up 0 R.HIF_FW_STATE ≤ 3 ∧ handing up = false ∧
    (99 * tcMs < 0 + 100 * tcMs ∧ 0 + 100 * tcMs ≤ 100 * tcMs) ∧ ∀ c ∈ (mb up (cmd 1 [])).mbxRun, c.pair < 64 := by decide +kernel
theorem test_w_HubProcessorAndNetwork_hand : ({ up with stall := some 0 } : State).stall.isSome = true ∧ (⟨0, 1, some 0⟩ : Handover).at' = some 0 ∧ 0 + 1000 * tcMs ≤ 1000 * tcMs := by decide
/-- A value of the opaque time of a hand-over is on one side or the other of 1 s. -/
theorem test_w_HubProcessorAndNetwork_time (t : Nat) : 1000 * tcMs < Config.handTime t ∨ Config.handTime t ≤ 1000 * tcMs := Nat.lt_or_ge _ _
theorem test_w_HubProcessorAndNetwork_frame : ({ up with mgmtDown := true } : State).mgmtDown = true ∧ up.mgmtDown = false ∧ icmpOf [] = none ∧ frameAnswer up [] = none := by decide +kernel
/-- An echo request to the module's link-local address: it is answered. -/
def echo : List Byte :=
  let me := srcIp up R.MGT_SRC_IP_ADDR
  let body : List Byte := [128, 0] ++ [0, 0] ++ [0, 0, 0, 1]
  let sum := icmpSum me me body
  List.replicate 12 0 ++ [0x86, 0xDD, 0x60, 0, 0, 0, 0, 8, 58, 64] ++ me ++ me ++ [128, 0] ++ [BitVec.ofNat 8 ((65535 - sum) / 256), BitVec.ofNat 8 (65535 - sum)] ++ [0, 0, 0, 1]
theorem test_w_HubProcessorAndNetwork_echo : (frameAnswer up echo).isSome = true ∧ (icmpOf echo).isSome = true := by decide +kernel
theorem test_w_HubProcessorAndNetwork_other : (match icmpOf (echo.set 54 129) with | some m => decide (m.take 2 ≠ [135#8, 0] ∧ m.take 2 ≠ [128#8, 0]) | none => true) = true := by decide +kernel

/-! ### The monitor -/

theorem test_w_Monitor : monUp up = true ∧ up.mon.stuck = false ∧ unlocked up = false ∧ unlocked (setFld up 0 R.MGT_MON_UNLOCKED 1) = true ∧ (∀ i < 64, monMay (0x40000 + 4 * i) = true) ∧
    monMay 0xF0000 = false ∧ monMay 0x10000000 = false ∧ (setFld up 0 R.MGT_MON_UNLOCKED 1).canon = true := by decide +kernel
theorem test_w_MonitorLocks : fld (setFld up 0 R.MGT_MON_LOCKOUT 1) 0 R.MGT_MON_LOCKOUT = 1 ∧ fld up 0 R.MGT_MON_LOCKOUT = 0 ∧
    ({ up with mon := { nonce := some ([], 0) } } : State).mon.nonce.isSome = true ∧ answerOk { up with mon := { nonce := some ([], 0) } } = false ∧
    [(0 : Word)] ≠ [] ∧ [(0 : Word)].length ≤ 8 := by decide +kernel
theorem test_w_MonitorReportsAndLine : baudCode 3000000 = some 4 ∧ baudCode 115200 = some 0 ∧ (List.replicate 254 (0 : Byte)).length < 255 ∧ 255 ≤ (List.replicate 255 (0 : Byte)).length ∧
    State.reset.pwr.stby = true ∧ State.reset.hubUp = false ∧ 0 < 0 + 900000 * tcMs ∧ 0 + 60000 * tcMs ≤ 60000 * tcMs := by decide +kernel

/-! ### The ADC and Badger -/

/-- The ADC enabled and settled, with a reference, a mode, and a state. -/
def ad (x : Tad) (refsel mode settled : Nat) : State :=
  setFld (setFld (setFld (setFld { up with tad := x } 0 R.TAD_CTRL_ENABLE 1) 0 R.TAD_CTRL_REFSEL refsel) 0 R.TAD_CTRL_MODE mode) 0 R.TAD_STAT_SETTLED settled
theorem test_w_AdcEvents_start : fldOn (ad {} 0 1 1) 0 R.TAD_CTRL_ENABLE = true ∧ fldOn (ad {} 0 1 1) 0 R.TAD_STAT_SETTLED = true ∧ tadMode (ad {} 0 1 1) ≠ 0 ∧
    fld (ad {} 0 1 1) 0 R.TAD_CTRL_START = 0 ∧ (1 : Fin 4).val % 3 ≠ tadRef (ad {} 0 1 1) ∧ (ad { seq := some ([], 0) } 0 2 1).tad.seq.isSome = true ∧ (ad {} 0 1 1).canon = true := by decide +kernel
theorem test_w_AdcEvents_reference : tadRef (ad { refAt := some 0 } 1 0 0) = 1 ∧ 0 + tadWait (ad { refAt := some 0 } 1 0 0) * tcUs ≤ 65535 * tcUs ∧ 2000 * 32768 ≤ (16384#16).toInt * 5000 ∧
    (16384#16).toInt * 5000 ≤ 3000 * 32768 ∧ (13000#16).toInt * 5000 < 2000 * 32768 ∧ 3000 * 32768 < (32767#16).toInt * 5000 := by decide +kernel
theorem test_w_AdcEvents_tick : tadMode (ad { run := true } 0 2 1) = 2 ∧ 0 + tadPeriod (ad { run := true } 0 2 1) * tcUs ≤ 2 ^ 32 * tcUs := by decide +kernel
theorem test_w_AdcEvents_end : ([0x02000000#32].map slotTime).foldl (· + ·) 0 ≤ 10 * tcUs ∧ [({ codes := [1], bias := 0 } : AdcSlot)].map (fun x => x.codes.length) = [0x02000000#32].map slotN ∧
    (0 : Nat) < ([0x02000000#32].map slotTime).foldl (· + ·) 0 := by decide +kernel
theorem test_w_AdcEvents_heat : (∃ k < 10, (clampN 80 110 (fld up 0 R.PWR_THERM_THR) : Int) * 16 ≤ hkCode (setFld up 0 (fldAt R.TAD_HK_CODE 9) 0x7FFF) k) ∧
    (∀ k < 10, hkCode up k < ((clampN 80 110 (fld up 0 R.PWR_THERM_THR) : Int) - 5) * 16) := ⟨⟨9, by decide +kernel⟩, by decide +kernel⟩
theorem test_w_AdcEvents_cal : fldOn (setFld up 0 R.TAD_CAL_STAT_BUSY 1) 0 R.TAD_CAL_STAT_BUSY = true ∧ fldOn up 0 R.TAD_CAL_STAT_BUSY = false ∧ (List.replicate 256 (0 : BitVec 16)).length = 256 ∧
    0 + 256 * (tcUs + 255 * 80) ≤ 2 ^ 40 ∧ (1024 : Int) ≤ 1024 ∧ meanCode (List.replicate 256 (1024 : BitVec 16)) = 1024 ∧ (List.replicate 256 (0x7FFF : BitVec 16)).any atRail = true ∧
    (List.replicate 256 (1024 : BitVec 16)).any atRail = false ∧ (16383 : Int) < 16384 ∧ tadOfs up 15 = 0 := by decide +kernel

/-- Channel 4 from buffer memory to buffer memory, LEN 2, BURST 1, triggered by REQ, in a state of its own. -/
def bd (req : Nat) (x : BdgCh) : State :=
  [(R.BDG_CFG_EN, 1), (R.BDG_CFG_REQ, req), (R.BDG_CFG_BURST, 1), (R.BDG_CFG_SRC_INC, 1), (R.BDG_CFG_DST_INC, 1), (R.BDG_LEN_LEN, 2), (R.BDG_DST_ADDR, 0x100000 - 8)].foldl
    (fun s p => setFld s 0 (fldAt p.1 4) p.2) { up with bdg := sset (fun _ => {}) [] 4 x }
theorem test_w_DmaChannels_enable : bdgOn up (4 : Fin 8) = false ∧ bdgCfgOk (regWrite (setFld (bd 7 {}) 0 (fldAt R.BDG_CFG_EN 4) 0) (R.BDG_CFG.off + 0x20 * 4) ((rdReg (bd 7 {}) (R.BDG_CFG.off + 0x20 * 4)) ||| 1#32)) 4 = true ∧
    bdgCfgOk (regWrite up (R.BDG_CFG.off + 0x20 * 4) ((0 : Word) ||| 1#32)) 4 = false ∧ 5 ≤ (5 : Fin 8).val := by decide +kernel
theorem test_w_DmaChannels_requests : bdgOn (bd 7 {}) (4 : Fin 8) = true ∧ bdgReq (bd 7 {}) (4 : Fin 8) = 7 ∧ bdgReq (bd 1 {}) (4 : Fin 8) = 1 ∧ (bdgOf (bd 1 {}) (4 : Fin 8)).line = false ∧
    (bdgOf (bd 1 { req := true }) (4 : Fin 8)).req = true ∧ bdgMinInt (bd 1 {}) (4 : Fin 8) = true ∧
    bdgMinInt (setFld (bd 1 { lastAt := some 0, held := true }) 0 (fldAt R.BDG_INT_MIN_INT 4) 1) (4 : Fin 8) = false ∧ bdgBlocked (bd 1 {}) (4 : Fin 8) = false ∧
    bdgBlocked (setFld (setFld (bd 1 {}) 0 (fldAt R.BDG_CFG_CIRC 4) 1) 0 (fldAt R.BDG_CFG_HOLD 4) 1) (4 : Fin 8) = true ∧ (bd 7 {}).canon = true := by decide +kernel
theorem test_w_DmaChannels_burst : (bdgOrder (bd 7 { req := true })).find? (fun c => (bdgOf (bd 7 { req := true }) c).req && bdgOn (bd 7 { req := true }) c) = some 4 ∧
    0 + 1 < fld (bd 7 {}) 0 (fldAt R.BDG_LEN_LEN 4) ∧ fld (bd 7 {}) 0 (fldAt R.BDG_SRC_ADDR 4) + 4 * 2 ≤ fld (bd 7 {}) 0 (fldAt R.BDG_DST_ADDR 4) ∧
    fld (bd 7 {}) 0 (fldAt R.BDG_DST_ADDR 4) + 4 * 2 ≤ 0x100000 := by decide +kernel

/-! ### Power -/

def envOk : StartEnv := { width := 16, flit := true, speed := 6, refclk := true, ppm := 0, badStacks := [] }
theorem test_w_PowerAndStart_off : up.pwr.on = true ∧ up.pwr.stby = true ∧ State.reset.pwr.why = .standby ∧ State.reset.pwr.on = false ∧
    (0 < 0 + 1000 * tcMs ∧ 0 + 1000 * tcMs ≤ 1000 * tcMs) := by decide
theorem test_w_PowerAndStart_recovery : ∀ slot < 2, imageFail State.reset (slotImage State.reset slot) ≠ 0 := by
  intro slot h
  have h2 : slot = 0 ∨ slot = 1 := by omega
  rcases h2 with rfl | rfl <;> decide +kernel
theorem test_w_PowerAndStart_start : State.reset.pwr.stby = true ∧ State.reset.pwr.inOk = true ∧ State.reset.pwr.rstN = false ∧ State.reset.pwr.en = false ∧ envOk.badStacks = [] ∧
    sget (fun _ => (0 : Word)) State.reset.fuses R.HIF_FW.off = 0 := by decide
theorem test_w_PowerAndStart_resets : up.pwr.rstN = false ∧ hostUp up = true ∧ (Instr.moduleReset envOk = .moduleReset envOk) := ⟨rfl, by decide +kernel, rfl⟩
theorem test_w_PartialResets : fld up 0 R.HIF_FW_STATE ≠ 0 ∧ fld up 0 R.HIF_FW_STATE ≠ 4 ∧ fld (setFld up 0 R.HIF_FW_STATE 4) 0 R.HIF_FW_STATE = 4 ∧
    (∃ m < 68, m / 17 = 0 ∧ ptileState (hd .nop) m = 0 ∧ seqRests (hd .nop) m = false) ∧ (∀ m < 68, m / 17 = 3 → ptileState (hd .nop) m ≠ 0 ∨ seqRests (hd .nop) m = true) ∧
    BitVec.ofNat 4 (2 ^ 3) = 8#4 ∧ 68 ≤ (127#7).toNat ∧ (67#7).toNat < 68 ∧ (0#7).toNat < 68 :=
  ⟨by decide +kernel, by decide +kernel, by decide +kernel, ⟨0, by decide +kernel⟩, by decide +kernel, by decide, by decide, by decide, by decide⟩
theorem test_w_LimitsFollowPower : fldOn up 0 R.PWR_THR_FILTERED = false ∧ fldOn (setFld up 0 R.PWR_THR_FILTERED 1) 0 R.PWR_THR_FILTERED = true ∧
    fldOn (setFld up 0 R.PWR_THR_PIN 1) 0 R.PWR_THR_PIN = true ∧ up.pwr.stuckRep = false ∧ 0 + max 10 (fld up 0 R.PWR_THR_STUCK_MS) * tcMs ≤ 0xFFFF * tcMs ∧ up.pwr.uv ≠ true ∧
    fldOn (setFld up 0 R.PWR_CTRL_CAP_EN 1) 0 R.PWR_CTRL_CAP_EN = true ∧ (capLimit up - 50) * 1 ≤ 2600 ∧ 0 < (capLimit up - 50) * 1 ∧ 0 < (capLimit up - capRelease up) * 1 ∧
    0 + 100 * tcUs ≤ 100 * tcUs := by decide +kernel
theorem test_w_PllLoss : up.canon = true ∧ up.pwr.on = true ∧ up.pwr.rstN = false := by decide

/-! ### What the well-formedness check refuses -/

/-- One ill-formed command for each check of the streams' operands. -/
theorem test_wf_stream_refused : ([.mark 0 ⟨0, false, 32, 0⟩, .launch 0 ⟨false, 2 ^ 48⟩, .fence 0 128, .signal 0 ⟨0, 0, 0, 0⟩, .wait 0 ⟨16, 0⟩,
    .sigclr 0 16, .setver 0 ⟨true, 2 ^ 64⟩, .settown 0 ⟨4, 1, 0⟩, .settown 0 ⟨48, 0, 0⟩, .pwrite 0 ⟨0, false, 0, 0, false, 0, 0, 0, 32, true⟩,
    .swap 0 65536, .fire 0 ⟨65536, false, 0, 0, 1⟩, .tfire 0 ⟨1, false, 0, 2 ^ 26, 1⟩, .flush 0 ⟨0, true, 0, 0, 0, 1048065⟩,
    .flush 0 ⟨0, false, 0, 0, 0, 2 ^ 26⟩] : List Instr).all (fun i => !i.wf) = true := by decide +kernel
theorem test_wf_unit_refused : ([.dmeop 0 ⟨0, false, false, false, false, false, false, 0, 0, 0, 0, 1, 1, 0, 0, 0⟩,
    .dmeop 0 ⟨0, true, false, false, false, false, false, 0, 0, 1048576, 1, 1, 1, 0, 0, 0⟩, .vdisp 0 ⟨8192, false, false, 0, 0, 0, 0, 0⟩,
    .kload 0 ⟨7, 2, 0, 0⟩, .kload 0 ⟨0, 0, 0, 0⟩, .load 0 ⟨false, false, 65536, 0, 1, 0, 0⟩, .store 0 ⟨false, false, 0, 0, 1, 2 ^ 26, 0⟩,
    .wgclr 0 ⟨1048575, 2⟩, .wgflush 0 ⟨0, false, false, 1, 0, 2 ^ 25, 0, 0⟩, .xclose 0 ⟨2 ^ 32, 0⟩, .missue 0 (2 ^ 32), .grpupd 0 ⟨0, 15, [0, 0]⟩,
    .grpupd 0 ⟨4096, 0, [0]⟩] : List Instr).all (fun i => !i.wf) = true := by decide +kernel
theorem test_wf_rest_refused : ([.passConvert 0 65536, .activationDigestRx 0 0 [], .flitRx 0 [] 0 0, .bucketRetry (2 ^ 32), .bucketDeadline (2 ^ 32),
    .publish (2 ^ 32), .resendTimeout 0 (2 ^ 64), .commitNoticeSend (2 ^ 32), .housekeeping []] : List Instr).all (fun i => !i.wf) = true := by decide +kernel

/-! ### Words written out from the spec's tables -/

/-- No row of the command table spells bits. -/
theorem test_no_words : decodeTableWord 32 0 = none ∧ up.withFetchWord 32 0 = up := ⟨rfl, rfl⟩

/-- The check values of R261 and of the CRC-32C. -/
theorem test_crc16 : crc16 [0x31, 0x32, 0x33, 0x34, 0x35, 0x36, 0x37, 0x38, 0x39] = 0x29B1 := by decide +kernel
theorem test_crc32c : crc32c [0x31, 0x32, 0x33, 0x34, 0x35, 0x36, 0x37, 0x38, 0x39] = 0xE3069283 := by decide +kernel
/-- SHA-512 of "abc", the standard's own example (first bytes). -/
theorem test_sha512 : (sha512 [0x61, 0x62, 0x63]).take 8 = [0xdd, 0xaf, 0x35, 0xa1, 0x93, 0x61, 0x7a, 0xba] := by decide +kernel

/-- Stored words of a command, low byte first. -/
def cmdBytes (ws : List Nat) : List Byte := ws.flatMap (leBytes 4)

/-- Commands of the worked example of chapter 09, laid out by the table of R266. -/
theorem test_seq_signal : decodeSeq (cmdBytes [0x04, 0x00010300, 0x40, 0, 0, 0, 0, 0]) = (0, .signal ⟨0, 3, 1, 64⟩) := by decide +kernel
theorem test_seq_wait : decodeSeq (cmdBytes [0x05, 3, 64, 0, 0, 0, 0, 0]) = (0, .wait ⟨3, 64⟩) := by decide +kernel
theorem test_seq_sigclr : decodeSeq (cmdBytes [0x06, 3, 0, 0, 0, 0, 0, 0]) = (0, .sigclr 3) := by decide +kernel
theorem test_seq_settown : decodeSeq (cmdBytes [0x08, 0x00060102, 0, 0, 0, 0, 0, 0]) = (0, .settown ⟨2, 1, 6⟩) := by decide +kernel
theorem test_seq_fire : decodeSeq (cmdBytes [0x12, 0x00000060, 0x76543210, 0xFEDCBA98, 0x00100000, 9, 0, 0]) =
    (0, .fire ⟨0x60, false, 0xFEDCBA9876543210, 0x100000, 9⟩) := by decide +kernel
theorem test_seq_grpupd : decodeSeq (cmdBytes [0x42, 0x00200011, 0x389D4952, 0x3DCCCCCD, 0, 0, 0, 0]) =
    (0, .grpupd ⟨17, 0, [0x389D4952, 0x3DCCCCCD]⟩) := by decide +kernel
/-- The vector unit's word of R205's example. -/
theorem test_vu_word : vuWord 0x04 ⟨2, false, false, 4, 1, 2, 3, 0, 0⟩ = 0x0882044300000000 := by decide +kernel
/-- An outlier entry of R113 as chapter 11 works it out. -/
theorem test_list_entry : entryWord { row := 40, col := 101, res := 14 } = 0x1419400E := by decide

/-! ### The spec's worked examples -/

/-- B4/32 codes 0xB, 0x9 and the reserved 0x8 at scale 2^−3 (chapter 02). -/
theorem test_b4_decode : (elemVal .b4g32 0x7C 0xB).1 = .num (-5 / 8) ∧ (elemVal .b4g32 0x7C 0x9).1 = .num (-7 / 8) ∧
    (elemVal .b4g32 0x7C 0x8).1 = .num (-7 / 8) := by decide +kernel
/-- Converting 2.6, −0.9, 0.24 and −3.3 to B4/32 (chapter 02). -/
theorem test_b4_encode : (encodeGroup .b4g32 none (List.replicate 4 .rne) [.num (26 / 10), .num (-9 / 10), .num (24 / 100), .num (-33 / 10)]).1 = 0x7E ∧
    packElems .b4g32 (encodeGroup .b4g32 none (List.replicate 4 .rne) [.num (26 / 10), .num (-9 / 10), .num (24 / 100), .num (-33 / 10)]).2.1 =
      [0xE5, 0x90] := by decide +kernel
/-- A small gradient in E4M3 under SR, biased by 2^16: 0x25 where the draw is below d = 10,713, else 0x24 (chapter 02). -/
theorem test_e4m3_sr : fpEncode fpE4m3 (fpRound fpE4m3 (.sr 10712) (.num (29 * 65536 / 10000000))).1 = 0x25 ∧
    fpEncode fpE4m3 (fpRound fpE4m3 (.sr 10713) (.num (29 * 65536 / 10000000))).1 = 0x24 := by decide +kernel

/-- 512 codes with quarter loads of the example of chapter 03: 310, 402, 288 and 350. -/
def exVec : List Int := List.replicate 44 7 ++ [2] ++ List.replicate 83 0 ++ List.replicate 57 7 ++ [3] ++ List.replicate 70 0 ++
  List.replicate 57 5 ++ [3] ++ List.replicate 70 0 ++ List.replicate 70 5 ++ List.replicate 58 0
/-- Its two passes: 12 and 10 ac, both with r = 2 (chapter 03). -/
theorem test_passes : (mkPasses exVec 2 0).map (fun p => (p.lo, p.hi, p.load, p.r, p.endAt)) = [(0, 256, 712, 2, 48), (256, 512, 638, 2, 88)] := by decide +kernel

/-- The MVM of chapter 04: 95 × 16 at E = −11, −37 × 16 at E = −9, a fox correction of −120, and one promotion. -/
theorem test_mvm : let l := (laneEnter 16 (laneEnter 16 {} (-11) 1520).1 (-9) (-592)).1
    l.n = -848 ∧ l.cnt = 2 ∧ l.eref = -11 ∧ (promote (laneFox l (-120) (-11))).wide = -968 / 2048 := by decide +kernel

/-- The points of the worked calibration of chapter 05. -/
def exPoints : List CalPoint := [⟨11914, 12000 * 64, 1000⟩, ⟨18117, 18500 * 64, 1000⟩, ⟨24410, 25000 * 64, 1000⟩, ⟨30653, 31500 * 64, 1000⟩,
  ⟨8988, 9000 * 64, 1000⟩, ⟨21544, 22000 * 64, 1000⟩, ⟨27276, 28000 * 64, 1000⟩, ⟨14780, 15000 * 64, 1000⟩]
/-- Its fit: GAIN_DEV −377, OFFSET +6, RESID 1, VALID, not failing; and the trims staged from a median gain of 0.958. -/
theorem test_calibration : (fitOf 32 exPoints).map (fitWord 0 · 0) = some (BitVec.ofNat 32 (2 ^ 31 + (4096 - 377) * 2 ^ 16 + 6 * 2 ^ 8 + 1)) ∧
    (fitOf 32 exPoints).map (fun f => (fitReason 32 f, (3 : Int) + rneInt (1000 * (958 / 1000 / f.g - 1)), (-2 : Int) + rneInt (-16 * f.o))) =
      some (0, -1, -8) ∧ (12 : Int) + rneInt (1000 * (1 / (958 / 1000) - 1)) = 56 := by decide +kernel

/-- Placing block 0 of the tensor at 0x0400_0000, and the split of block 7 (chapter 10). -/
theorem test_place : stackOf 0x4000000 = 10 ∧ localRegion 0x4000000 = 42 ∧ bankSetOf 0x4000000 = 42 ∧ rowOf 0x4000000 = 0 ∧
    stackOf (0x400FC00 + 1024) = 11 ∧ regionParts 0x400FC00 9216 = [(0x400FC00, 1024), (0x4010000, 8192)] := by decide +kernel

/-- K of chapter 11's example is 2^−16 / 129,024 rounded to FP32, and LR × C1-style products round as listed: the scale of a column. -/
theorem test_mrt_k : kOf 16 129024 = fp32Of (.num (1 / (65536 * 129024))) := by decide +kernel
/-- Projecting a column of magnitude 0.0814 with OUTK 0 gives scale byte 0x79, and 0.0197 gives 0x77 (chapter 11). -/
theorem test_proj_scale : chooseScale .b4g512 [.num (814 / 10000), .num (302 / 10000)] = 0x79 ∧ chooseScale .b4g512 [.num (197 / 10000)] = 0x77 ∧
    totalCode (.sr 23793) 0x79 (.num (2129815 / 100000000)) = 2 ∧ totalCode (.sr 23794) 0x79 (.num (2129815 / 100000000)) = 1 := by decide +kernel

/-- A correction of chapter 17: raw 13,000 with OFS −37 and GAIN 32,503 reads 12,932. -/
theorem test_adc_correct : corrected (setFld (setFld up 0 (fldAt R.TAD_OFS_OFS 3) (65536 - 37)) 0 (fldAt R.TAD_GAIN_GAIN 3) 32503) 3 13000 = (12932, false) := by decide +kernel
/-- Slot times of chapter 17: 34 µs, 4 µs and 64 µs. -/
theorem test_adc_times : [slotTime (BitVec.ofNat 32 (20 * 2 ^ 24 + 4 * 2 ^ 20 + 2 ^ 14)), slotTime (BitVec.ofNat 32 (2 * 2 ^ 20 + 2)),
    slotTime (BitVec.ofNat 32 (6 * 2 ^ 20 + 3))].map (· / tcUs) = [34, 4, 64] := by decide +kernel
end Sys2Proof.Tests
end

/-! Register accesses (R5–R9): what a write and a read of a BAR0 word give, and the statements O5, O6 and O7. -/

namespace Sys2Proof.Machine

/-! ### The three commands, by the requester's reach and the access's form -/

theorem exec_registerWrite_of_not_word (s : State) (hub : Bool) {off len : Nat} (v : Word) (h : len ≠ 4 ∨ off % 4 ≠ 0) :
    exec (.registerWrite hub off len v) s = .next s := by
  change execRegisterWrite hub off len v s = _
  rcases h with h | h <;> simp [execRegisterWrite, h]

theorem exec_registerWrite_of_word {s : State} {hub : Bool} {off : Nat} (v : Word) (hr : mayReach s hub = true) (ha : off % 4 = 0) :
    exec (.registerWrite hub off 4 v) s = .next (barWrite s hub off v) := by
  change execRegisterWrite hub off 4 v s = _
  simp [execRegisterWrite, hr, ha]

theorem exec_reg64LowRead_of_reach {s : State} {hub : Bool} {off : Nat} (len : Nat) (hr : mayReach s hub = true) (hh : (barHalf s off).1 ≠ 2) :
    exec (.reg64LowRead hub off len) s = .next (barReadBytes s hub off len) := by
  change execReg64LowRead hub off len s = _
  simp [execReg64LowRead, hr, hh]

theorem exec_reg64HighRead_of_reach {s : State} {hub : Bool} {off : Nat} (len : Nat) (hr : mayReach s hub = true) (hh : (barHalf s off).1 = 2) :
    exec (.reg64HighRead hub off len) s = .next (barReadBytes s hub off len) := by
  change execReg64HighRead hub off len s = _
  simp [execReg64HighRead, hr, hh]

theorem barReadBytes_of_not_word (s : State) (hub : Bool) {off len : Nat} (h : len ≠ 4 ∨ off % 4 ≠ 0) :
    barReadBytes s hub off len = { s with hostResp := List.replicate len 0xFF } :=
  if_neg (by omega)

theorem barReadBytes_of_word (s : State) (hub : Bool) {off : Nat} (ha : off % 4 = 0) :
    barReadBytes s hub off 4 = { (barRead s hub off).2 with hostResp := leBytes 4 (barRead s hub off).1.toNat } :=
  if_pos ⟨rfl, ha⟩

/-- Settles O5: of a command's two tests, reach and form, the second turns the access away before it meets a register. -/
theorem accessWidths : Obligations.AccessWidths := by
  intro s hub off len v hr hform
  refine ⟨exec_registerWrite_of_not_word s hub v hform, fun hh => ?_, fun hh => ?_⟩
  · rw [exec_reg64LowRead_of_reach len hr hh, barReadBytes_of_not_word s hub hform]
  · rw [exec_reg64HighRead_of_reach len hr hh, barReadBytes_of_not_word s hub hform]

/-! ### Writes -/

@[simp] theorem rdReg_dropLatch (s : State) (k j : Nat) : rdReg (dropLatch s k) j = rdReg s j := rfl

theorem regWrite_of_unassigned {s : State} {k : Nat} (v : Word) (h : regOfKey k = none) : regWrite s k v = s := by
  simp [regWrite, h]

/-- A write of an assigned word stores it by its access types; the latches it may drop are no registers. -/
theorem rdReg_regWrite_of_assigned {s : State} {k : Nat} {d : RegDesc} (v : Word) (h : regOfKey k = some d) (j : Nat) :
    rdReg (regWrite s k v) j = rdReg (wrReg s k (writtenWord d (rdReg s k) v)) j := by
  simp only [regWrite, h]
  split <;> simp

theorem onlyWords_regWrite (s : State) (k : Nat) (v : Word) : onlyWords [k] s (regWrite s k v) := by
  intro j hj _
  have hjk : j ≠ k := by simpa using hj
  cases hd : regOfKey k with
  | none => rw [regWrite_of_unassigned v hd]
  | some d => rw [rdReg_regWrite_of_assigned v hd, rdReg_wrReg_other s hjk]

/-- The word a plain write leaves at its key: by the access types of an assigned word, as it was at an unassigned key. -/
def wordAfter (s : State) (k : Nat) (v : Word) : Word :=
  match regOfKey k with
  | some d => writtenWord d (rdReg s k) v
  | none => rdReg s k

theorem rdReg_regWrite_same {s : State} (hs : regsOk s) (k : Nat) (v : Word) : rdReg (regWrite s k v) k = wordAfter s k v := by
  unfold wordAfter
  cases hd : regOfKey k with
  | none => rw [regWrite_of_unassigned v hd]
  | some d => rw [rdReg_regWrite_of_assigned v hd, rdReg_wrReg_same hs]

/-- A write that the dispatch sends to the plain write of a key changes that key's word alone. -/
theorem exec_registerWrite_of_regWrite {s : State} (hs : regsOk s) {hub : Bool} {off len : Nat} {v : Word} (k : Nat) (hr : mayReach s hub = true)
    (hlen : len = 4) (ha : off % 4 = 0) (hw : barWrite s hub off v = regWrite s k v) :
    ∃ u, exec (.registerWrite hub off len v) s = .next u ∧ onlyWords [k] s u ∧ rdReg u k = wordAfter s k v := by
  subst hlen
  refine ⟨regWrite s k v, ?_, onlyWords_regWrite s k v, rdReg_regWrite_same hs k v⟩
  rw [exec_registerWrite_of_word v hr ha, hw]

/-- Below the MSI-X table BAR0 reaches the hub's registers, each at its own key. -/
theorem barTarget_of_hub (s : State) {off : Nat} (h : off < 0xF0000) : barTarget s off = .hub off := if_pos h

/-- No arm of the dispatch of hub writes takes a plain register. -/
theorem hubWrite_of_plainHub (s : State) (hub : Bool) {o : Nat} (v : Word) (h : plainHub o = true) : hubWrite s hub o v = regWrite s o v := by
  simp only [plainHub, Bool.and_eq_true, Bool.or_eq_true, Bool.not_eq_true', Bool.and_eq_false_iff, decide_eq_true_eq, decide_eq_false_iff_not] at h
  obtain ⟨⟨⟨⟨⟨⟨⟨⟨⟨⟨⟨⟨⟨hcpy, -⟩, hring⟩, hack⟩, hevq⟩, hctrl⟩, hin⟩, hrst⟩, hthr⟩, htad⟩, hbdg⟩, howl⟩, hlevel⟩, hsec⟩ := h
  unfold hubWrite
  rw [if_neg (by omega), if_neg hring, if_neg hack, if_neg (by omega), if_neg hctrl, if_neg hin, if_neg hrst, if_neg hthr, if_neg htad, if_neg (by omega),
    if_neg howl, if_neg (by omega), if_neg hsec]

theorem barWrite_of_plainHub (s : State) (hub : Bool) {off : Nat} (v : Word) (h : plainHub off = true) : barWrite s hub off v = regWrite s off v := by
  have hlt : off < 0xF0000 := by
    simp only [plainHub, Bool.and_eq_true, decide_eq_true_eq] at h
    omega
  simp only [barWrite, barTarget_of_hub s hlt, hubWrite_of_plainHub s hub v h]

/-- Settles O6: a plain hub register is one whose write the dispatch sends to the plain write at its own key, so that both clauses on aligned
writes are the effect of `regWrite`. -/
theorem registerWriteEffect : Obligations.RegisterWriteEffect := by
  intro s hub off len v hcanon
  have hs := regsOk_of_canon hcanon
  exact ⟨exec_registerWrite_of_not_word s hub v,
    fun hr hlen ha hp => exec_registerWrite_of_regWrite hs off hr hlen ha (barWrite_of_plainHub s hub v hp),
    fun k hr hlen ha hw => exec_registerWrite_of_regWrite hs k hr hlen ha hw⟩

/-! ### Reads -/

/-- The first entry of a key is the one last put there, in a table in any order. -/
theorem find?_sput_same {α : Type} (k : Nat) (v : α) (l : List (Nat × α)) :
    (sput k v true l).find? (fun p => decide (p.1 = k)) = some (k, v) := by
  induction l with
  | nil => exact List.find?_cons_of_pos (decide_eq_true rfl)
  | cons p t ih =>
    obtain ⟨k', v'⟩ := p
    unfold sput
    split
    · next hlt =>
      have hne : ¬ k' = k := by omega
      rw [List.find?_cons_of_neg (by simp only [hne, decide_false, Bool.false_eq_true, not_false_eq_true]), ih]
    · split <;> exact List.find?_cons_of_pos (decide_eq_true rfl)

theorem find?_filter_ne {α : Type} (k : Nat) (l : List (Nat × α)) :
    (l.filter fun q => decide (q.1 ≠ k)).find? (fun p => decide (p.1 = k)) = none := by
  rw [List.find?_eq_none]
  intro p hp
  exact fun hk => of_decide_eq_true (List.mem_filter.1 hp).2 (of_decide_eq_true hk)

/-- The key of a requester's latch of the 64-bit register that a BAR0 offset reaches (R9). -/
def latchKey (s : State) (hub : Bool) (off : Nat) : Nat := 2 * (barHalf s off).2 + (if hub then 1 else 0)

/-- The latched high word of a requester, if one is held. -/
def latched (s : State) (key : Nat) : Option (Nat × Word) := s.latches.find? fun p => decide (p.1 = key)

/-- What a read of a high half gives: the latched word, or the live one where none is latched. -/
def highWord (s : State) (hub : Bool) (off : Nat) : Word :=
  match latched s (latchKey s hub off) with
  | some p => p.2
  | none => liveWord s off

section
variable {s : State} {hub : Bool} {off : Nat} (ht : thrCounter s off = false)
include ht

theorem barRead_of_not_high (hh : (barHalf s off).1 ≠ 2) :
    (barRead s hub off).1 = liveWord s off ∧ (barRead s hub off).2.regs = s.regs := by
  simp only [barRead, ht, Bool.false_eq_true, if_false, hh]
  split <;> exact ⟨rfl, rfl⟩

theorem latched_barRead_of_low (hh : (barHalf s off).1 = 1) :
    latched (barRead s hub off).2 (latchKey s hub off) = some (latchKey s hub off, liveWord s (off + 4)) := by
  simp only [barRead, ht, Bool.false_eq_true, if_false, hh, if_true]
  exact find?_sput_same _ _ _

/-- A held latch answers the read of a high half, which drops it. -/
theorem barRead_of_latched {p : Nat × Word} (hh : (barHalf s off).1 = 2) (hp : latched s (latchKey s hub off) = some p) :
    barRead s hub off = (p.2, { s with freeCtr := s.freeCtr + 1, latches := s.latches.filter fun q => decide (q.1 ≠ latchKey s hub off) }) := by
  have hne : ¬ (2 : Nat) = 1 := by decide
  unfold latched latchKey at hp
  simp only [barRead, ht, Bool.false_eq_true, if_false, hh, hne, if_true, hp]
  rfl

theorem barRead_of_not_latched (hh : (barHalf s off).1 = 2) (hp : latched s (latchKey s hub off) = none) :
    barRead s hub off = (liveWord s off, { s with freeCtr := s.freeCtr + 1 }) := by
  have hne : ¬ (2 : Nat) = 1 := by decide
  unfold latched latchKey at hp
  simp only [barRead, ht, Bool.false_eq_true, if_false, hh, hne, if_true, hp]

theorem barRead_of_high (hh : (barHalf s off).1 = 2) :
    (barRead s hub off).1 = highWord s hub off ∧ (barRead s hub off).2.regs = s.regs ∧
      latched (barRead s hub off).2 (latchKey s hub off) = none := by
  unfold highWord
  cases hp : latched s (latchKey s hub off) with
  | none =>
    rw [barRead_of_not_latched ht hh hp]
    exact ⟨rfl, rfl, hp⟩
  | some p =>
    rw [barRead_of_latched ht hh hp]
    exact ⟨rfl, rfl, find?_filter_ne _ _⟩

end

/-- Settles O7: the live word answers unless a latch of the requester is held; the latches are found and dropped by their key alone, so no order
of the table is needed. -/
theorem registerReadEffect : Obligations.RegisterReadEffect := by
  intro s hub off hr ha ht
  refine ⟨fun hh => ⟨_, exec_reg64LowRead_of_reach 4 hr hh, ?_⟩, fun hh => ⟨_, exec_reg64HighRead_of_reach 4 hr hh, ?_⟩⟩ <;>
    rw [barReadBytes_of_word s hub ha]
  · obtain ⟨hword, hregs⟩ := barRead_of_not_high (hub := hub) ht hh
    exact ⟨congrArg (fun w : Word => leBytes 4 w.toNat) hword, hregs, latched_barRead_of_low ht⟩
  · obtain ⟨hword, hregs, hdrop⟩ := barRead_of_high (hub := hub) ht hh
    exact ⟨hregs, congrArg (fun w : Word => leBytes 4 w.toNat) hword, hdrop⟩

end Sys2Proof.Machine

/-! A group of zeros in a block format (R48), and the statement O12. -/

namespace Sys2Proof.Machine

/-- Settles O12: values that are zeros of either sign hold no NaN and all have the rational 0, so the conversion takes its branch for a zero group. -/
theorem zeroGroupScale : Obligations.ZeroGroupScale := by
  intro f rs vals _ hz
  have hnan : vals.any fIsNan = false := by
    rw [List.any_eq_false]
    intro v hv
    obtain ⟨neg, rfl⟩ := hz v hv
    exact Bool.false_ne_true
  have hzero : (vals.all fun v => decide (fvalRat v = 0)) = true := by
    rw [List.all_eq_true]
    intro v hv
    obtain ⟨neg, rfl⟩ := hz v hv
    exact decide_eq_true rfl
  simp [encodeGroup, hnan, hzero, List.map_const']

end Sys2Proof.Machine

/-! What an instruction of the vector unit leaves (R205–R210): one rule for the state that an instruction answers, and the statements O29 and O30. -/

namespace Sys2Proof.Machine

/-! ### The state that an instruction finds -/

/-- The state that an instruction acts on: its fetch has been counted where it was poisoned (R407). -/
def vuFetched (s : State) (t : Fin 64) (f : VuFields) : State := parity s f.fetchBad.val 6 (8 * (vuOf s t).pc)

/-- The parts of the state that an instruction's counters, records and free values may change. -/
def vuMarks : List Part := [.regs, .owlFifo, .freeCtr]

theorem moves_vuFetched (s : State) (t : Fin 64) (f : VuFields) : Moves vuMarks s (vuFetched s t f) := parity_moves _ _ _ _ (.refl _ s) ⟨rfl⟩

/-- A poisoned fetch is counted in the hub's registers. -/
theorem rdReg_parity (s : State) (bad path addr : Nat) {k : Nat} (hk : 0x91000 ≤ k) : rdReg (parity s bad path addr) k = rdReg s k := by
  unfold parity
  extract_lets s1
  have hretry : rdReg s1 k = rdReg s k := by
    unfold s1
    split
    · rfl
    · exact rdReg_count_other _ _ _ _ _ (by simp [R.OWL_PAR_RETRY]; omega) (.inl (by decide))
  split
  · exact hretry
  · rw [rdReg_raiseD _ _ _ _ _ (by simp [owlWord]; omega) (by simp [R.OWL_STATUS_PAR_FAIL]; omega) (.inl (by decide)),
      rdReg_count_other _ _ _ _ _ (by simp [R.OWL_PAR_FAIL]; omega) (.inl (by decide)), hretry]

theorem fld_vuFetched (s : State) (t : Fin 64) (f : VuFields) (n : Nat) (g : Fld) :
    fld (vuFetched s t f) (tileBase n) g = fld s (tileBase n) g :=
  fld_of_words (rdReg_parity _ _ _ _ (by unfold tileBase; omega)) (.inr (rdReg_parity _ _ _ _ (by unfold tileBase; omega)))

theorem tileAt_vuFetched (s : State) (t : Fin 64) (f : VuFields) (n : Nat) : tileAt (vuFetched s t f) n = tileAt s n :=
  tileAt_of_tiles ((moves_vuFetched s t f).same .tiles (by decide)) n

theorem freeCtr_vuFetched (s : State) (t : Fin 64) (f : VuFields) : (vuFetched s t f).freeCtr = s.freeCtr :=
  (parity_moves _ _ _ _ (.refl [.regs, .owlFifo] s) ⟨rfl⟩ : Moves _ s (vuFetched s t f)).same .freeCtr (by decide)

/-! ### The state that an instruction leaves -/

theorem vuLeft_iff (s u : State) (t : Fin 64) (w : Vu) :
    vuLeft s u t w ↔ vuRegs u (phys s t) = ((w.v, w.p, w.s, w.imem), (tileAt s (phys s t)).sett) := by
  simp [vuLeft, vuRegs, and_assoc]

section
variable {s : State} (hc : s.canon = true) {t : Fin 64} {opc : Nat} {u : VuUse} {f : VuFields} (h : vuReady s t opc u f)
  {go : Nat → Vu → State → VuOut} {x : State}
include hc h

/-- An instruction that changes the VU by `g`, and the state besides by counters, records and free values only, leaves the VU as `g` makes it. -/
theorem vuLeft_of_vuDone (hx : Moves vuMarks s x) {g : Vu → Vu} (hgo : go (phys s t) (vuOf s t) (vuFetched s t f) = vuDone x (phys s t) g) :
    vuLeft s (vuIssue s t opc u f go) t (g (vuOf s t)) := by
  have hxc := hx.canon hc
  have htile : tileAt x (phys s t) = tileAt s (phys s t) := tileAt_of_tiles (hx.same .tiles (by decide)) _
  have hmod : tileAt (modVu x (phys s t) g) (phys s t) = { tileAt s (phys s t) with vu := g (vuOf s t) } := by
    rw [modVu, tileAt_modTile (canon_tiles hxc), htile]
    rfl
  rw [vuLeft_iff, vuIssue_done hc t opc u f go h _ hgo fun _ => (modVu_moves x _ g (.refl [.tiles] x) ⟨rfl⟩).canon hxc, vuRegs, hmod]

/-- An element-wise instruction leaves its new elements in vd's active lanes. -/
theorem vuLeft_of_vuBits (hx : Moves vuMarks s x) {l : List Nat} (hgo : go (phys s t) (vuOf s t) (vuFetched s t f) = vuBits x (phys s t) (vuOf s t) f l) :
    vuLeft s (vuIssue s t opc u f go) t (vuVec (vuOf s t) f l) :=
  vuLeft_of_vuDone hc h hx hgo

end

/-! ### Floating-point results -/

theorem vuFp_eq_vuBits (s : State) (n : Nat) (v : Vu) (f : VuFields) (ops : List (List Nat)) (g : List FVal → FVal) :
    ∃ c, vuFp s n v f ops g = vuBits (vuCnv s n c) n v f (vuFpElems f ops g) :=
  ⟨_, congrArg (vuBits (vuCnv s n _) n v f) (by simp only [vuFpElems, List.map_map, Function.comp_def])⟩

/-- The elements that a transcendental instruction gives: each with the free deviation that is its own (R211). -/
def vuTransElems (k : Nat) (v : Vu) (f : VuFields) (g : Nat → FVal → Word × Nat) : List Nat :=
  (List.range (elemCount f.w)).map fun i =>
    let r := (g (k + i) (fpElem f.w ((elemsOf f.w (vRow v f.va.val)).getD i 0)).1).1
    (if f.w then fpResult true (fp32Dec r) else (r.toNat, 0)).1

theorem vuTrans_eq_vuBits (s : State) (n : Nat) (v : Vu) (f : VuFields) (g : Nat → FVal → Word × Nat) :
    ∃ c, vuTrans s n v f g = vuBits (vuCnv { s with freeCtr := s.freeCtr + 1024 } n c) n v f (vuTransElems s.freeCtr v f g) :=
  ⟨_, congrArg (vuBits (vuCnv { s with freeCtr := s.freeCtr + 1024 } n _) n v f) List.map_map⟩

section
variable {s : State} (hc : s.canon = true) {t : Fin 64} {opc : Nat} {u : VuUse} {f : VuFields} (h : vuReady s t opc u f)
include hc h

theorem vuLeft_of_vuFp {go : Nat → Vu → State → VuOut} {ops : List (List Nat)} {g : List FVal → FVal}
    (hgo : go (phys s t) (vuOf s t) (vuFetched s t f) = vuFp (vuFetched s t f) (phys s t) (vuOf s t) f ops g) :
    vuLeft s (vuIssue s t opc u f go) t (vuVec (vuOf s t) f (vuFpElems f ops g)) := by
  obtain ⟨c, hfp⟩ := vuFp_eq_vuBits (vuFetched s t f) (phys s t) (vuOf s t) f ops g
  exact vuLeft_of_vuBits hc h (vuCnv_moves _ _ c (moves_vuFetched s t f) ⟨rfl⟩) (hgo.trans hfp)

end

theorem vuLeft_vuTr {s : State} (hc : s.canon = true) {t : Fin 64} {opc : Nat} {f : VuFields} (h : vuReady s t opc use1 f) (g : Nat → FVal → Word × Nat) :
    vuLeft s (vuTr s t opc f g) t (vuVec (vuOf s t) f (vuTransElems s.freeCtr (vuOf s t) f g)) := by
  obtain ⟨c, htr⟩ := vuTrans_eq_vuBits (vuFetched s t f) (phys s t) (vuOf s t) f g
  rw [freeCtr_vuFetched] at htr
  exact vuLeft_of_vuBits hc h (vuCnv_moves _ _ c ((moves_vuFetched s t f).set_freeCtr ⟨rfl⟩) ⟨rfl⟩) htr

/-- Settles O29: an FP instruction is an element-wise one with the rounded results and some counts, so the one rule of element-wise instructions
serves every row of both tables. -/
theorem vuFloatResult : Obligations.VuFloatResult := by
  refine ⟨fun s t f hc => ?_, fun s t f hc => ?_⟩ <;> dsimp only <;>
    simp only [List.forall_mem_cons, List.not_mem_nil, false_implies, implies_true, and_true]
  · and_intros <;> exact fun h => ⟨_, rfl, vuLeft_of_vuFp hc h rfl⟩
  · and_intros <;> exact fun h => ⟨_, rfl, vuLeft_vuTr hc h _⟩

/-! ### Integer, move, select, compare and predicate instructions -/

section
variable {s : State} (hc : s.canon = true) {t : Fin 64} {opc : Nat} {u : VuUse} {f : VuFields} (h : vuReady s t opc u f)
include hc h

/-- An instruction on bit patterns counts nothing. -/
theorem vuLeft_of_bits {go : Nat → Vu → State → VuOut} {l : List Nat}
    (hgo : go (phys s t) (vuOf s t) (vuFetched s t f) = vuBits (vuFetched s t f) (phys s t) (vuOf s t) f l) :
    vuLeft s (vuIssue s t opc u f go) t (vuVec (vuOf s t) f l) :=
  vuLeft_of_vuBits hc h (moves_vuFetched s t f) hgo

/-- An instruction that writes a predicate counts nothing. -/
theorem vuLeft_of_pPut {go : Nat → Vu → State → VuOut} {p : BitVec 1024}
    (hgo : go (phys s t) (vuOf s t) (vuFetched s t f) = vuDone (vuFetched s t f) (phys s t) fun x => pPut x f.vd.val p) :
    vuLeft s (vuIssue s t opc u f go) t (pPut (vuOf s t) f.vd.val p) :=
  vuLeft_of_vuDone hc h (moves_vuFetched s t f) hgo

end

/-- VCMP with a condition that exists (R44). -/
theorem vuLeft_execVcmp {s : State} (hc : s.canon = true) {t : Fin 64} {f : VuFields}
    (h : vuReady s t 0x30 { pred := true, wide := true, bs := true, vd := .pr, va := .vec, vb := .vec, imm := 7 } f) (hcond : f.imm.toNat ≠ 7) :
    ∃ u, execVcmp t f s = .next u ∧
      vuLeft s u t (pPut (vuOf s t) f.vd.val (pOf (((elemsOf f.w (vRow (vuOf s t) f.va.val)).zip (operandB (vuOf s t) f)).map fun q =>
        condFp f.imm.toNat (fpElem f.w q.1).1 (fpElem f.w q.2).1))) :=
  ⟨_, rfl, vuLeft_of_vuDone hc h (g := fun x => pPut x f.vd.val _) (vuCnv_moves _ _ _ (moves_vuFetched s t f) ⟨rfl⟩)
    ((if_neg hcond).trans (congrArg (vuCompare (vuCnv (vuFetched s t f) (phys s t) _) (phys s t) f) List.map_map))⟩

/-- VICMP with a condition of its table. -/
theorem vuLeft_execVicmp {s : State} (hc : s.canon = true) {t : Fin 64} {f : VuFields}
    (h : vuReady s t 0x31 { pred := true, bs := true, vd := .pr, va := .vec, vb := .vec, imm := 7 } f) (hcond : f.imm.toNat ≤ 5) :
    ∃ u, execVicmp t f s = .next u ∧
      vuLeft s u t (pPut (vuOf s t) f.vd.val (pOf (((elemsOf false (vRow (vuOf s t) f.va.val)).zip (operandB (vuOf s t) f)).map fun q =>
        condInt f.imm.toNat (sext 32 q.1) (sext 32 q.2)))) :=
  ⟨_, rfl, vuLeft_of_pPut hc h (if_neg (Nat.not_lt.2 hcond))⟩

/-- Settles O30: every row is an element-wise instruction or the write of a predicate, without a count (VCMP's infinities apart). -/
theorem vuIntegerResult : Obligations.VuIntegerResult := by
  refine ⟨fun s t f hc => ?_, fun s t f hc => ?_⟩ <;> dsimp only <;>
    simp only [List.forall_mem_cons, List.not_mem_nil, false_implies, implies_true, and_true, decide_eq_true_eq, forall_const]
  · and_intros <;> exact fun h => ⟨_, rfl, vuLeft_of_bits hc h rfl⟩
  · refine ⟨?_, ?_, ?_, ?_, fun h hcond => vuLeft_execVcmp hc h hcond, fun h hcond => vuLeft_execVicmp hc h hcond⟩ <;>
      exact fun h => ⟨_, rfl, vuLeft_of_pPut hc h rfl⟩

end Sys2Proof.Machine

/-! The conversions of the vector unit (R213–R219), and the statement O34. -/

namespace Sys2Proof.Machine

/-! ### What a conversion reads of the state -/

theorem fldOn_vuFetched (s : State) (t : Fin 64) (f : VuFields) (n : Nat) (g : Fld) :
    fldOn (vuFetched s t f) (tileBase n) g = fldOn s (tileBase n) g := by
  unfold fldOn
  rw [fld_vuFetched]

theorem rndOf_vuFetched (s : State) (t : Fin 64) (f : VuFields) (n c : Nat) (sr : Bool) : rndOf (vuFetched s t f) n c sr = rndOf s n c sr := by
  funext e
  simp only [rndOf, rngSeed, rngCtr, fld_vuFetched, tileAt_vuFetched]

theorem settOwned_vuFetched (s : State) (t : Fin 64) (f : VuFields) (n unit a len : Nat) :
    settOwned (vuFetched s t f) n unit a len = settOwned s n unit a len := by
  simp only [settOwned, ownsBank, ownsPort, fld_vuFetched]

/-! ### VCVT -/

/-- The packed side of a conversion, or the destination where neither side is packed. -/
abbrev cvtPacked (src dst : Fmt) : Fmt := if unpackedFmt src then dst else src

/-- The formats, the rounding, the part and the scale register that an instruction word of VCVT names are ones R213 to R215 allow: no fault. -/
structure CvtOk (f : VuFields) (src dst : Fmt) : Prop where
  srcCode : fmtOfCode (bits f.imm.toNat 3 0) = some src
  dstCode : fmtOfCode (bits f.imm.toNat 7 4) = some dst
  rounding : bits f.imm.toNat 9 8 ≠ 3
  differ : src ≠ dst
  unpacked : (unpackedFmt src || unpackedFmt dst) = true
  scales : fmtIsBlock (cvtPacked src dst) = true ∨ f.vc.val = 0
  part : bits f.imm.toNat 13 10 < cvtParts (cvtPacked src dst) ∨ (unpackedFmt src && unpackedFmt dst) = true

theorem CvtOk.not_fault2 {f : VuFields} {src dst : Fmt} (h : CvtOk f src dst) :
    ¬ (decide (bits f.imm.toNat 9 8 = 3) || !fmtIsBlock (cvtPacked src dst) && decide (f.vc.val ≠ 0)) = true := by
  rcases h.scales with hb | hv <;> simp [h.rounding, *]

theorem CvtOk.not_fault8 {f : VuFields} {src dst : Fmt} (h : CvtOk f src dst) :
    ¬ ((unpackedFmt src && unpackedFmt dst && decide (src = dst) || !unpackedFmt src && !unpackedFmt dst) ||
      !(unpackedFmt src && unpackedFmt dst) && decide (cvtParts (cvtPacked src dst) ≤ bits f.imm.toNat 13 10)) = true := by
  rcases h.part with hp | hboth
  · have hunp := h.unpacked
    simp only [h.differ, Nat.not_le.2 hp, decide_false, Bool.and_false, Bool.false_or, Bool.or_false]
    revert hunp
    cases unpackedFmt src <;> cases unpackedFmt dst <;> decide
  · rw [Bool.and_eq_true] at hboth
    simp [hboth, h.differ]

/-- Groups of a part: the number of its scale bytes. -/
def cvtGroups (src dst : Fmt) : Nat := 512 / (fmtGroup (cvtPacked src dst)).getD 512

/-- The scale bytes of the part, as vc holds them. -/
def cvtScales (v : Vu) (f : VuFields) (src dst : Fmt) : List Nat :=
  (List.range (cvtGroups src dst)).map fun q => ((vBytes (vRow v f.vc.val)).getD (bits f.imm.toNat 13 10 * cvtGroups src dst + q) 0).toNat

/-- The source's codes: the words of va, or the codes of its part. -/
def cvtCodes (v : Vu) (f : VuFields) (src : Fmt) : List Nat :=
  if unpackedFmt src then (vRow v f.va.val).map BitVec.toNat else partCodes src (vRow v f.va.val) (bits f.imm.toNat 13 10)

/-- The value of source element i, with its counts. -/
def cvtElem (v : Vu) (f : VuFields) (src dst : Fmt) (i : Nat) : FVal × Cnv :=
  match fmtGroup src with
  | some k => elemVal src ((cvtScales v f src dst).getD (i / k) 0) ((cvtCodes v f src).getD i 0)
  | none => decodeElem src ((cvtCodes v f src).getD i 0)

/-- The rounding of the instruction and the bias it applies. -/
def cvtRounding (s : State) (n : Nat) (v : Vu) (f : VuFields) : Bool × Int :=
  cvtMode v (fldOn s (tileBase n) R.VU_DESC_GRAD) (bits f.imm.toNat 9 8)

/-- The converted codes, the scales chosen, and the counts. -/
def cvtResult (s : State) (n : Nat) (v : Vu) (f : VuFields) (src dst : Fmt) : List Nat × List (Option Nat) × Cnv :=
  cvtPack dst (cvtRounding s n v f).2 (if bitOn f.imm.toNat 14 then some (cvtScales v f src dst) else none)
    (rndOf s n 1 (cvtRounding s n v f).1) (active v f)
    (((List.range 512).map (cvtElem v f src dst)).map (·.1))

/-- The destination's codes: the new ones in the active lanes, those of vd in the others. -/
def cvtNew (v : Vu) (f : VuFields) (dst : Fmt) (codes : List Nat) : List Nat :=
  (List.range 512).map fun i => if active v f i then codes.getD i 0
    else (if unpackedFmt dst then (vRow v f.vd.val).map BitVec.toNat else partCodes dst (vRow v f.vd.val) (bits f.imm.toNat 13 10)).getD i 0

/-- vd with a part replaced by packed codes. -/
def cvtPutPart (v : Vu) (f : VuFields) (bs : List Byte) (x : Vu) : Vu :=
  vPut x f.vd.val (putBytes (vRow v f.vd.val) (bits f.imm.toNat 13 10 * bs.length) bs)

/-- vc with the scales chosen for the groups of the part. -/
def cvtPutScales (f : VuFields) (src dst : Fmt) (scales : List (Option Nat)) (x : Vu) : Vu :=
  scales.zipIdx.foldl (fun x q => match q.1 with
    | some e => vPut x f.vc.val (putBytes (vRow x f.vc.val) (bits f.imm.toNat 13 10 * cvtGroups src dst + q.2) [BitVec.ofNat 8 e])
    | none => x) x

/-- The VU after the conversion. -/
def cvtVu (v : Vu) (f : VuFields) (src dst : Fmt) (c : List Nat × List (Option Nat) × Cnv) (x : Vu) : Vu :=
  if unpackedFmt dst then vPut x f.vd.val (ofElems false (cvtNew v f dst c.1))
  else
    let x1 := cvtPutPart v f (packElems dst (cvtNew v f dst c.1)) x
    if bitOn f.imm.toNat 14 then x1 else cvtPutScales f src dst c.2.1 x1

/-- The state with the draws that the conversion takes and its counts. -/
def cvtTaken (s : State) (n : Nat) (v : Vu) (f : VuFields) (src dst : Fmt) : State :=
  vuCnv (takeDraws s n 1 (drawsFor (cvtRounding s n v f).1 512)) n (cnvAdd (cvtResult s n v f src dst).2.2 (cnvSum ((List.range 512).map fun i =>
    if active v f i then (((List.range 512).map (cvtElem v f src dst)).getD i (.nan, {})).2 else {})))

/-- A VCVT that R213 to R215 allow takes its draws, counts, and writes what it converted. -/
theorem vcvt_of_cvtOk (s : State) (n : Nat) (v : Vu) {f : VuFields} {src dst : Fmt} (h : CvtOk f src dst) :
    vcvt s n v f = vuDone (cvtTaken s n v f src dst) n (cvtVu v f src dst (cvtResult s n v f src dst)) := by
  unfold vcvt
  extract_lets w given part rm m act
  rw [show fmtOfCode (bits w 3 0) = some src from h.srcCode, show fmtOfCode (bits w 7 4) = some dst from h.dstCode]
  dsimp -zeta only
  extract_lets us ud packed g sc codes xs c cnt s1 keep bs
  rw [if_neg h.not_fault2, if_neg h.not_fault8]
  have hxs : xs = (List.range 512).map (cvtElem v f src dst) := rfl
  have hc : c = cvtResult s n v f src dst := by
    unfold cvtResult
    rw [← hxs]
    rfl
  have hs1 : s1 = cvtTaken s n v f src dst := by
    unfold cvtTaken
    rw [← hxs, ← hc]
    rfl
  have hnew : ∀ old, old = (if unpackedFmt dst then (vRow v f.vd.val).map BitVec.toNat else partCodes dst (vRow v f.vd.val) part) →
      keep old = cvtNew v f dst c.1 := by
    rintro _ rfl
    rfl
  by_cases hd : unpackedFmt dst = true
  · rw [if_pos hd, hnew _ (if_pos hd).symm, hs1, hc]
    refine congrArg (vuDone _ n) (funext fun x => ?_)
    rw [cvtVu, if_pos hd]
  · unfold bs
    rw [if_neg hd, hnew _ (if_neg hd).symm, hs1, hc]
    refine congrArg (vuDone _ n) (funext fun x => ?_)
    rw [cvtVu, if_neg hd]
    rfl

/-- A format without groups gets no scales. -/
theorem cvtPack_scales_of_not_block {dst : Fmt} (h : fmtIsBlock dst = false) (u : Int) (given : Option (List Nat)) (rnd : Nat → Rnd) (act : Nat → Bool)
    (vals : List FVal) : (cvtPack dst u given rnd act vals).2.1 = [] := by
  have hg : fmtGroup dst = none := by simpa [fmtIsBlock] using h
  simp only [cvtPack, hg]

theorem cvtVu_of_unpacked {dst : Fmt} (h : unpackedFmt dst = true) (v : Vu) (f : VuFields) (src : Fmt) (c : List Nat × List (Option Nat) × Cnv) (x : Vu) :
    cvtVu v f src dst c x = vPut x f.vd.val (ofElems false (cvtNew v f dst c.1)) :=
  if_pos h

/-- A packed result without scales of its own: a part of vd alone. -/
theorem cvtVu_of_packed {dst : Fmt} (h : unpackedFmt dst = false) (s : State) (n : Nat) (v : Vu) (f : VuFields) (src : Fmt)
    (hs : bitOn f.imm.toNat 14 = true ∨ fmtIsBlock dst = false) (x : Vu) :
    cvtVu v f src dst (cvtResult s n v f src dst) x = cvtPutPart v f (packElems dst (cvtNew v f dst (cvtResult s n v f src dst).1)) x := by
  unfold cvtVu
  rw [if_neg (Bool.eq_false_iff.1 h)]
  rcases hs with hgiven | hblock
  · exact if_pos hgiven
  · rw [show (cvtResult s n v f src dst).2.1 = [] from cvtPack_scales_of_not_block hblock _ _ _ _ _]
    exact ite_self _

/-- A conversion reads the tile's own registers only, which no poisoned fetch changes. -/
theorem cvtResult_vuFetched (s : State) (t : Fin 64) (f : VuFields) (n : Nat) (v : Vu) (src dst : Fmt) :
    cvtResult (vuFetched s t f) n v f src dst = cvtResult s n v f src dst := by
  simp only [cvtResult, cvtRounding, fldOn_vuFetched, rndOf_vuFetched]

theorem vuLeft_execVcvt {s : State} (hc : s.canon = true) {t : Fin 64} {f : VuFields} {src dst : Fmt}
    (h : vuReady s t 0x40 { pred := true, vd := .vec, va := .vec, vc := .vec, imm := 0x7FFF } f) (hok : CvtOk f src dst) :
    ∃ u, exec (.vcvt t f) s = .next u ∧ vuLeft s u t (cvtVu (vuOf s t) f src dst (cvtResult s (phys s t) (vuOf s t) f src dst) (vuOf s t)) := by
  refine ⟨_, rfl, vuLeft_of_vuDone hc h ?_ ((vcvt_of_cvtOk _ _ _ hok).trans (by rw [cvtResult_vuFetched]))⟩
  exact vuCnv_moves _ _ _ (takeDraws_moves _ _ _ _ (moves_vuFetched s t f) ⟨rfl⟩) ⟨rfl⟩

/-! ### VDCVT -/

theorem settPutAll_vu (kind : Nat) (x : Tile) (o : Nat) (bs : List Byte) : (settPutAll kind x o bs).vu = x.vu := by
  induction bs generalizing x o with
  | nil => rfl
  | cons b bs ih =>
    rw [settPutAll, ih, settPut]
    split <;> rfl

theorem settPutTile_vu (x : Tile) (a : Nat) (bs : List Byte) : (settPutTile x a bs).vu = x.vu := by
  unfold settPutTile
  split
  · rfl
  · exact settPutAll_vu _ _ _ _

/-- A write to sett memory changes its tile as the bytes say; a refused one only counts and reports (R177). -/
theorem tileAt_settWrite {s : State} (hc : s.canon = true) (n a : Nat) (bs : List Byte) : tileAt (settWrite s n a bs) n = settPutTile (tileAt s n) a bs := by
  unfold settWrite settPutTile
  split
  · exact tileAt_of_tiles (by simp [aliasRefuse]) n
  · exact tileAt_modTile (canon_tiles hc) n _

/-- The mode of a drive conversion outside a wide run (R217): DMODE's, or the instruction's own. -/
def driveMode (s : State) (n : Nat) (f : VuFields) : Nat :=
  let dm := fld s (tileBase n) R.ACC_ESC_STATE_DMODE
  if dm = 1 then 0 else if dm = 2 then 1 else f.vc.val

/-- The image of a drive conversion outside a wide run, with its counts. -/
def driveResult (s : State) (n : Nat) (v : Vu) (f : VuFields) : List Byte × Cnv :=
  driveOf (driveMode s n f) (min 8 (fld s (tileBase n) R.ACC_CTRL_PCT_K)) ((elemsOf false (vRow v f.vb.val)).map fun c => (decodeElem .fp32 c).1)

theorem driveResult_vuFetched (s : State) (t : Fin 64) (f : VuFields) (n : Nat) (v : Vu) : driveResult (vuFetched s t f) n v f = driveResult s n v f := by
  simp only [driveResult, driveMode, fld_vuFetched]

/-- A VDCVT outside a wide run, with its access owned, counts and writes its image. -/
theorem vdcvt_of_owned {s : State} {n : Nat} {v : Vu} {f : VuFields} (hdrive : v.drive = true) (hrun : fldOn s (tileBase n) R.ACC_ESC_STATE_WIDE_RUN = false)
    (hmode : f.vc.val ≤ 1) (halign : vuAddr v f.va.val f.imm % 64 = 0) (hkind : settKind (vuAddr v f.va.val f.imm) ≠ 3)
    (hown : settOwned s n 4 (vuAddr v f.va.val f.imm) 576 = true) :
    ∃ c, vdcvt s n v f = .done (settWrite (vuCnv s n c) n (vuAddr v f.va.val f.imm) (driveResult s n v f).1) := by
  have hmode' : ¬ 1 < f.vc.val := Nat.not_lt.2 hmode
  simp only [vdcvt, hdrive, hrun, hmode', vuAccess, halign, hkind, hown, Bool.not_true, Bool.false_eq_true, if_false, ne_eq, not_true_eq_false,
    List.map_map]
  exact ⟨_, rfl⟩

theorem execVdcvt_of_owned {s : State} (hc : s.canon = true) {t : Fin 64} {f : VuFields}
    (h : vuReady s t 0x41 { va := .sc, vb := .vec, vc := .num, imm := 0x03FFFFFF } f) (hdrive : (vuOf s t).drive = true)
    (hrun : fldOn s (tileBase (phys s t)) R.ACC_ESC_STATE_WIDE_RUN = false) (hmode : f.vc.val ≤ 1)
    (hmay : vuMay s t (vuAddr (vuOf s t) f.va.val f.imm) 576 64) :
    ∃ u, exec (.vdcvt t f) s = .next u ∧ vuRegs u (phys s t) =
      (((vuOf s t).v, (vuOf s t).p, (vuOf s t).s, (vuOf s t).imem),
        (settPutTile (tileAt s (phys s t)) (vuAddr (vuOf s t) f.va.val f.imm) (driveResult s (phys s t) (vuOf s t) f).1).sett) := by
  obtain ⟨halign, hkind, hown⟩ := hmay
  obtain ⟨c, hgo⟩ := vdcvt_of_owned (s := vuFetched s t f) hdrive ((fldOn_vuFetched ..).trans hrun) hmode halign hkind ((settOwned_vuFetched ..).trans hown)
  rw [driveResult_vuFetched] at hgo
  have hx : Moves vuMarks s (vuCnv (vuFetched s t f) (phys s t) c) := vuCnv_moves _ _ c (moves_vuFetched s t f) ⟨rfl⟩
  have hxc := hx.canon hc
  refine ⟨_, rfl, (vuIssue_done hc t 0x41 _ f _ h _ hgo fun _ =>
    (settWrite_moves _ _ _ _ (.refl [.regs, .tiles, .owlFifo] _) ⟨rfl⟩ : Moves _ _ (settWrite _ _ _ _)).canon hxc).trans ?_⟩
  rw [vuRegs, tileAt_settWrite hxc, settPutTile_vu, tileAt_of_tiles (hx.same .tiles (by decide))]
  rfl

/-- Settles O34: the fields that the statement allows are those that VCVT and VDCVT do not fault on, so each goes on to its one write; the values that
the statement converts are the first components of the model's pairs of value and counts. -/
theorem vuConversions : Obligations.VuConversions := by
  intro s t f hc
  refine ⟨fun src dst h hsrc hdst hrm hne hunp hvc hpart => ?_, fun h hdrive hrun hmode hmay => ?_⟩
  · obtain ⟨u, hu, hleft⟩ := vuLeft_execVcvt hc h ⟨hsrc, hdst, hrm, hne, hunp, hvc, hpart⟩
    extract_lets g sc codes xs m c old new
    have hxs : ((List.range 512).map (cvtElem (vuOf s t) f src dst)).map (·.1) = xs := by
      rw [List.map_map]
      refine List.map_congr_left fun i _ => ?_
      simp only [Function.comp_apply, cvtElem]
      cases fmtGroup src <;> rfl
    have hres : cvtResult s (phys s t) (vuOf s t) f src dst = c := by
      rw [cvtResult, hxs]
      rfl
    refine ⟨u, hu, fun hd => ?_, fun hd hs => ?_⟩
    · rw [cvtVu_of_unpacked hd, hres] at hleft
      exact hleft
    · rw [cvtVu_of_packed hd _ _ _ _ _ hs, hres] at hleft
      exact hleft
  · obtain ⟨u, hu, hregs⟩ := execVdcvt_of_owned hc h hdrive hrun hmode hmay
    simp only [vuRegs, Prod.mk.injEq] at hregs
    obtain ⟨⟨hv, -, hs, -⟩, hsett⟩ := hregs
    exact ⟨u, hu, hsett, hv, hs⟩

end Sys2Proof.Machine

/-! Blocks that return to the streamer (R298, R308, R309, R395, R410), and the statement O22. -/

namespace Sys2Proof.Machine

/-! ### Counters, blocks and slots -/

/-- A 32-bit counter after one event: it saturates. -/
theorem fld_count_one {s : State} (hs : regsOk s) (b : Nat) {f : Fld} (hlo : f.lo = 0) (hhi : f.hi = 31) :
    fld (count s b f 1) b f = min (fld s b f + 1) (2 ^ 32 - 1) := by
  rw [fld_count_same hs b f 1 ⟨by omega, by omega⟩, hlo, hhi]

theorem fld_modBlk (s : State) (n id k : Nat) (f : BlkReq → BlkReq) (b : Nat) (g : Fld) : fld (modBlk s n id k f) b g = fld s b g :=
  fld_of_regs rfl b g

/-- A change of a block after steps that leave every tile as it was. -/
theorem blkChanged_modBlk {s x : State} (hx : Moves [.regs] s x) (hc : s.canon = true) (n id k : Nat) (f : BlkReq → BlkReq) :
    blkChanged s (modBlk x n id k f) n id k f := by
  rw [blkChanged, modBlk, tileAt_modTile (canon_tiles (hx.canon hc)), tileAt_of_tiles (hx.same .tiles (by decide)) n]

theorem tileAt_showSlots (s : State) (n m : Nat) : tileAt (showSlots s n) m = tileAt s m :=
  tileAt_of_tiles ((showSlots_moves s n (.refl [.regs] s) ⟨rfl⟩).same .tiles (by decide)) m

theorem canon_modBlk {s : State} (hc : s.canon = true) (n id k : Nat) (f : BlkReq → BlkReq) : (modBlk s n id k f).canon = true :=
  (modBlk_moves s n id k f (.refl [.tiles] s) ⟨rfl⟩).canon hc

theorem canon_showSlots {s : State} (hc : s.canon = true) (n : Nat) : (showSlots s n).canon = true :=
  (showSlots_moves s n (.refl [.regs] s) ⟨rfl⟩).canon hc

/-! ### A returned block of a read -/

/-- The largest latency of a read, shown with that of a block from HBM that returns now. -/
def latShown (s : State) (n : Nat) (b : BlkReq) : State :=
  let lat := min ((s.now - b.tIssue) / 2) 0xFFFF
  if !b.sett && decide (fld s (tileBase n) R.STR_LAT_MAX_MC_CLKS < lat) then setFld s (tileBase n) R.STR_LAT_MAX_MC_CLKS lat else s

theorem moves_latShown (s : State) (n : Nat) (b : BlkReq) : Moves [.regs] s (latShown s n b) :=
  .ite (fun _ => setFld_moves _ _ _ _ (.refl _ s) ⟨rfl⟩) fun _ => .refl _ s

/-- The latency is shown in the tile's registers, not in the hub's. -/
theorem fld_latShown (s : State) (n : Nat) (b : BlkReq) {g : Fld} (hg : g.off < 0x100000) : fld (latShown s n b) 0 g = fld s 0 g := by
  unfold latShown
  extract_lets lat
  split
  · exact fld_setFld_far _ _ _ _ _ _ (.inr (by unfold tileBase; omega))
  · rfl

/-- A block of a read that came for the head's job, was not prefetched, and is now to be checked for the first time. -/
structure Returned (s : State) (n : Nat) (j : StrJob) (b : BlkReq) : Prop where
  job : jobOf (tileAt s n) j.id = some j
  blk : (j.blks.find? fun c => decide (c.k = b.k)) = some b
  read : j.write = false
  served : b.phase = .served
  direct : b.pf = false
  head : isHead (tileAt s n) j.id = true
  fresh : b.checked = false
  clean : b.pois = false

theorem parity_zero (s : State) (path addr : Nat) : parity s 0 path addr = s := rfl

theorem blockReturn_of_prefetched {s : State} {n : Nat} {j : StrJob} {b : BlkReq} (hj : jobOf (tileAt s n) j.id = some j)
    (hb : (j.blks.find? fun c => decide (c.k = b.k)) = some b) (hw : j.write = false) (hp : b.phase = .served) (hpf : b.pf = true) (bad : Nat) :
    blockReturn s n j.id b.k bad = modBlk s n j.id b.k fun y => { y with phase := .held } := by
  simp only [blockReturn, hj, hb, hw, hp, hpf, Bool.not_true, Bool.or_self, Bool.false_eq_true, if_false, if_true]

section
variable {s : State} {n : Nat} {j : StrJob} {b : BlkReq} (h : Returned s n j b)
include h

theorem blockReturn_of_failed (hcheck : returnCheck j b false ≠ 0) (hatt : b.att < 2) :
    blockReturn s n j.id b.k 0 = modBlk (count (latShown s n b) 0 R.OWL_BLK_RETRY 1) n j.id b.k fun y => { y with phase := .wait, att := y.att + 1 } := by
  simp [blockReturn, h.job, h.blk, h.read, h.served, h.direct, h.head, h.fresh, h.clean, parity_zero, raiseIf, hcheck, hatt, latShown]

theorem blockReturn_of_torn (hcheck : returnCheck j b false = 0) (hver : versionWrong j b = true) (htorn : b.torn < fld s 0 R.XCH_PARAM3_TORN_RETRIES) :
    blockReturn s n j.id b.k 0 = modBlk (latShown s n b) n j.id b.k fun y => { y with phase := .torn, tTorn := s.now } := by
  rw [← fld_latShown s n b (g := R.XCH_PARAM3_TORN_RETRIES) (by decide)] at htorn
  simp only [blockReturn, h.job, h.blk, h.read, h.served, h.direct, h.head, h.fresh, h.clean, parity_zero, hcheck, hver, Bool.not_true, Bool.not_false,
    Bool.or_self, Bool.true_and, Bool.false_eq_true, if_false, if_true, ne_eq, not_true_eq_false, show ¬ 3 ≤ 0 by omega, decide_false]
  exact if_pos htorn

theorem blockReturn_of_good (hcheck : returnCheck j b false = 0) (hver : versionWrong j b = false) :
    blockReturn s n j.id b.k 0 = deliver (modBlk (latShown s n b) n j.id b.k fun y => { y with checked := true }) n
      { j with blks := j.blks.map fun y => if y.k = b.k then { b with checked := true } else y } { b with checked := true } := by
  simp [blockReturn, h.job, h.blk, h.read, h.served, h.direct, h.head, h.fresh, h.clean, parity_zero, hcheck, hver, latShown]

end

/-! ### A torn block -/

theorem tornReread_of_waited {s : State} {n : Nat} {j : StrJob} {b : BlkReq} (hj : jobOf (tileAt s n) j.id = some j)
    (hb : (j.blks.find? fun c => decide (c.k = b.k)) = some b) (hp : b.phase = .torn)
    (hwait : b.tTorn + clampN 1 1000 (fld s 0 R.XCH_PARAM3_TORN_WAIT) * tcUs ≤ s.now) :
    tornReread s n j.id b.k = modBlk (count s 0 R.XCH_TORN_RETRY 1) n j.id b.k fun y => { y with phase := .wait, torn := y.torn + 1 } := by
  simp only [tornReread, hj, hb, hp, Option.bind_some, Nat.not_lt.2 hwait, if_false]

/-! ### An acknowledged write -/

/-- An element found by one test is the first to pass it with a second one, where it passes that too. -/
theorem find?_and_of_find? {α : Type} {p : α → Bool} {q : α → Bool} {l : List α} {a : α} (h : l.find? p = some a) (hq : q a = true) :
    (l.find? fun c => p c && q c) = some a := by
  obtain ⟨hp, as, bs, rfl, has⟩ := List.find?_eq_some_iff_append.1 h
  refine List.find?_eq_some_iff_append.2 ⟨by simp [hp, hq], as, bs, rfl, fun c hc => ?_⟩
  have hpc : p c = false := by simpa using has c hc
  simp [hpc]

theorem writeAck_of_served {s : State} {n : Nat} {j : StrJob} {b : BlkReq} (hj : jobOf (tileAt s n) j.id = some j)
    (hb : (j.blks.find? fun c => decide (c.k = b.k)) = some b) (hw : j.write = true) (hp : b.phase = .served) (hl : s.ledger = 0) :
    writeAck s n j.id b.k = blkDone s n j.id b.k := by
  unfold writeAck
  simp only [hj]
  rw [find?_and_of_find? hb (by rw [hp])]
  simp only [hw, hl, Bool.not_true, Bool.false_eq_true, if_false, ne_eq, not_true_eq_false, false_and]

/-- A job with a block of its own done. -/
def jobWithDone (j : StrJob) (k : Nat) : StrJob := { j with blks := j.blks.map fun b => if b.k = k then { b with phase := .done } else b }

/-- The job of a changed block is found by its number as before, with the change. -/
theorem jobOf_modBlk {s : State} (hc : s.canon = true) {n : Nat} {j : StrJob} (hj : jobOf (tileAt s n) j.id = some j) (k : Nat) (f : BlkReq → BlkReq) :
    jobOf (tileAt (modBlk s n j.id k f) n) j.id = some { j with blks := j.blks.map fun b => if b.k = k then f b else b } := by
  unfold jobOf at hj ⊢
  have hid : ((fun i : StrJob => decide (i.id = j.id)) ∘ fun i : StrJob => if i.id = j.id then
      { i with blks := i.blks.map fun b => if b.k = k then f b else b } else i) = fun i => decide (i.id = j.id) := by
    funext i
    simp only [Function.comp_apply]
    split <;> rfl
  rw [modBlk, tileAt_modTile (canon_tiles hc), List.find?_map, hid, hj]
  exact congrArg some (if_pos rfl)

/-- The state after block k of a job is done, with the slots in use shown. -/
def slotFreed (s : State) (n id k : Nat) : State := showSlots (modBlk s n id k fun x => { x with phase := .done }) n

theorem canon_slotFreed {s : State} (hc : s.canon = true) (n id k : Nat) : (slotFreed s n id k).canon = true :=
  canon_showSlots (canon_modBlk hc _ _ _ _) _

theorem blkDone_eq_endJob {s : State} (hc : s.canon = true) {n : Nat} {j : StrJob} (hj : jobOf (tileAt s n) j.id = some j) (k : Nat) :
    blkDone s n j.id k = endJob (slotFreed s n j.id k) n (jobWithDone j k) := by
  unfold blkDone slotFreed
  dsimp only
  rw [tileAt_showSlots, jobOf_modBlk hc hj]
  rfl

/-- A job goes on while a block of it is not done. -/
theorem endJob_of_open {s : State} {n : Nat} {j : StrJob} {c : BlkReq} (hc : c ∈ j.blks) (hp : c.phase ≠ .done) : endJob s n j = s := by
  refine if_neg fun hall => ?_
  have hdone := List.all_eq_true.1 hall c hc
  split at hdone
  · exact hp ‹_›
  · exact Bool.false_ne_true hdone

/-- A STORE whose blocks are all done leaves the queue and completes its command. -/
theorem endJob_of_store {s : State} {n : Nat} {j : StrJob} {no : Nat} {o : StoreOp} (hall : ∀ c ∈ j.blks, c.phase = .done) (hno : j.no = some no)
    (hkind : j.kind = .store o) : endJob s n j = finCmd (dropJob s n j.id) n no := by
  unfold endJob
  rw [if_pos (List.all_eq_true.2 fun c hc => by rw [hall c hc])]
  simp only [hkind, hno]

theorem tileAt_dropJob {s : State} (hc : s.canon = true) (n id : Nat) :
    tileAt (dropJob s n id) n = { tileAt s n with jobs := (tileAt s n).jobs.filter fun j => decide (j.id ≠ id) } := by
  unfold dropJob
  extract_lets k s1
  have hs1 : Moves [.regs] s s1 := .ite (fun _ => .refl _ s) fun _ => count_moves _ _ _ _ (.refl _ s) ⟨rfl⟩
  rw [tileAt_showSlots, tileAt_modTile (canon_tiles (hs1.canon hc)), tileAt_of_tiles (hs1.same .tiles (by decide))]

theorem canon_dropJob {s : State} (hc : s.canon = true) (n id : Nat) : (dropJob s n id).canon = true :=
  (dropJob_moves s n id (.refl [.regs, .tiles] s) ⟨rfl⟩).canon hc

/-- A tile after a job left its streamer's queue and its command completed. -/
theorem tileAt_finCmd_dropJob {s : State} (hc : s.canon = true) (n id no : Nat) :
    tileAt (finCmd (dropJob s n id) n no) n =
      { tileAt s n with jobs := (tileAt s n).jobs.filter fun j => decide (j.id ≠ id),
                        issued := (tileAt s n).issued.map fun i => if i.no = no then { i with ran := true, fin := true } else i } := by
  rw [finCmd, tileAt_modTile (canon_tiles (canon_dropJob hc n id)), tileAt_dropJob hc]

theorem blkChanged_slotFreed {s : State} (hc : s.canon = true) (n id k : Nat) :
    blkChanged s (slotFreed s n id k) n id k fun y => { y with phase := .done } := by
  rw [blkChanged, slotFreed, tileAt_showSlots]
  exact blkChanged_modBlk (.refl _ s) hc n id k _

/-- An acknowledged block of a write with others still to come is done, and nothing else of the queue changes. -/
theorem blkChanged_blkDone {s : State} (hc : s.canon = true) {n : Nat} {j : StrJob} (hj : jobOf (tileAt s n) j.id = some j) {k : Nat}
    (hopen : ∃ c ∈ j.blks, c.k ≠ k ∧ c.phase ≠ .done) : blkChanged s (blkDone s n j.id k) n j.id k fun y => { y with phase := .done } := by
  obtain ⟨c, hmem, hk, hp⟩ := hopen
  have hstays : c ∈ (jobWithDone j k).blks := List.mem_map.2 ⟨c, hmem, if_neg hk⟩
  rw [blkDone_eq_endJob hc hj, endJob_of_open hstays hp]
  exact blkChanged_slotFreed hc n j.id k

/-- The last acknowledged block of a STORE ends its job and completes its command. -/
theorem blkDone_of_last {s : State} (hc : s.canon = true) {n : Nat} {j : StrJob} (hj : jobOf (tileAt s n) j.id = some j) {k no : Nat} {o : StoreOp}
    (hlast : ∀ c ∈ j.blks, c.k = k ∨ c.phase = .done) (hno : j.no = some no) (hkind : j.kind = .store o) :
    (∀ i ∈ (tileAt (blkDone s n j.id k) n).jobs, i.id ≠ j.id) ∧
      (tileAt (blkDone s n j.id k) n).issued = (tileAt s n).issued.map fun i => if i.no = no then { i with ran := true, fin := true } else i := by
  have hall : ∀ c ∈ (jobWithDone j k).blks, c.phase = .done := by
    intro c hmem
    obtain ⟨b, hb, rfl⟩ := List.mem_map.1 hmem
    split
    · rfl
    · exact (hlast b hb).resolve_left ‹_›
  rw [blkDone_eq_endJob hc hj, endJob_of_store hall hno hkind, tileAt_finCmd_dropJob (canon_slotFreed hc _ _ _)]
  refine ⟨fun i hi => of_decide_eq_true (List.mem_filter.1 hi).2, ?_⟩
  rw [slotFreed, tileAt_showSlots, modBlk, tileAt_modTile (canon_tiles hc)]

/-! ### The probe of a prefetched block -/

/-- The state with the probes of a block's regions counted by their MCs. -/
def probed (s : State) (b : BlkReq) : State :=
  (b.epochs.map (·.1)).foldl (fun s r => count s (mcBase (stackOf (r * 65536))) R.MC_PROBE_CNT 1) s

theorem moves_probed (s : State) (b : BlkReq) : Moves [.regs] s (probed s b) :=
  .foldl (.refl _ s) fun _ _ h => count_moves _ _ _ _ h ⟨rfl⟩

theorem stackOf_lt (a : Nat) : stackOf a < 24 := Nat.mod_lt _ (by decide)

/-- The probes are counted in the MCs' registers, not in a tile's. -/
theorem fld_probed (s : State) (b : BlkReq) (n : Nat) (g : Fld) : fld (probed s b) (tileBase n) g = fld s (tileBase n) g := by
  unfold probed
  generalize b.epochs.map (·.1) = l
  induction l generalizing s with
  | nil => rfl
  | cons r l ih =>
    have hr := stackOf_lt (r * 65536)
    exact (ih _).trans (fld_count_far _ _ _ _ _ _ (.inl (by simp only [mcBase, tileBase, R.MC_PROBE_CNT]; omega)))

theorem prefetchProbe_of_head {s : State} {n : Nat} {j : StrJob} (h : ((tileAt s n).jobs.find? fun i => i.no.isSome) = some j) :
    prefetchProbe s n = showSlots ((j.blks.filter (·.pf)).foldl (fun s c => probeBlk s n j.id c) s) n := by
  simp only [prefetchProbe, h]

theorem probeBlk_of_stale {s : State} {n : Nat} {b : BlkReq} (h : pfStale s n b = true) (job : Nat) :
    probeBlk s n job b =
      modBlk (count (probed s b) (tileBase n) R.STR_PF_STALE 1) n job b.k fun y => { y with phase := .wait, pf := false, epochs := [], parts := 0 } :=
  if_pos h

/-- A block used is counted beside a late one, in another word. -/
theorem fld_countAll_used {s : State} (hs : regsOk s) (n late : Nat) :
    fld (countAll s (tileBase n) [(R.STR_PF_USED, 1), (R.STR_PF_LATE, late)]) (tileBase n) R.STR_PF_USED =
      min (fld s (tileBase n) R.STR_PF_USED + 1) (2 ^ 32 - 1) := by
  have hused := fld_count_one hs (tileBase n) (f := R.STR_PF_USED) rfl rfl
  simp only [countAll, Nat.one_ne_zero, if_false]
  split
  · exact hused
  · have hwords : tileBase n + R.STR_PF_LATE.off ≠ tileBase n + R.STR_PF_USED.off := by simp [R.STR_PF_LATE, R.STR_PF_USED]
    exact (fld_setFld_words _ _ _ _ _ _ (.inr (.inr (.inl ⟨by decide, by decide, hwords⟩)))).trans hused

theorem fld_probeBlk_of_good {s : State} (hc : s.canon = true) {n : Nat} {b : BlkReq} (h : pfStale s n b = false) (job : Nat) :
    fld (probeBlk s n job b) (tileBase n) R.STR_PF_USED = min (fld s (tileBase n) R.STR_PF_USED + 1) (2 ^ 32 - 1) := by
  unfold probeBlk
  rw [if_neg (Bool.eq_false_iff.1 h), fld_modBlk]
  refine (fld_countAll_used (regsOk_of_canon ((moves_probed s b).canon hc)) n _).trans ?_
  rw [fld_probed]

/-! ### The statement -/

/-- Settles O22: each command is taken to the one update that its block's state picks; between the state and that update only registers change, so that
the block's change is seen against the state itself. -/
theorem streamerBlocks : Obligations.StreamerBlocks := by
  intro s t j b hc n tb x hj hb
  have hs := regsOk_of_canon hc
  refine ⟨fun hw hp => ⟨fun hpf => ?_, fun hpf hhead hfresh hclean => ?_⟩, fun hp hwait => ?_, fun hw hp hl => ?_,
    fun hfind => ⟨?_, fun hst => ?_, fun hst => ?_⟩⟩
  · exact ⟨_, congrArg Host.Outcome.next (blockReturn_of_prefetched hj hb hw hp hpf 0), rfl, blkChanged_modBlk (.refl _ s) hc n j.id b.k _⟩
  · have h : Returned s n j b := ⟨hj, hb, hw, hp, hpf, hhead, hfresh, hclean⟩
    have hlat := moves_latShown s n b
    refine ⟨fun hcheck hatt => ?_, fun hcheck hver htorn => ?_, fun hcheck hver => ?_⟩
    · refine ⟨_, congrArg Host.Outcome.next (blockReturn_of_failed h hcheck hatt),
        blkChanged_modBlk (count_moves _ _ _ _ hlat ⟨rfl⟩) hc n j.id b.k _, ?_⟩
      rw [fld_modBlk]
      exact (fld_count_one (regsOk_of_canon (hlat.canon hc)) 0 (f := R.OWL_BLK_RETRY) rfl rfl).trans (by rw [fld_latShown s n b (by decide)]; rfl)
    · exact ⟨_, congrArg Host.Outcome.next (blockReturn_of_torn h hcheck hver htorn), blkChanged_modBlk hlat hc n j.id b.k _⟩
    · exact congrArg Host.Outcome.next (blockReturn_of_good h hcheck hver)
  · refine ⟨_, congrArg Host.Outcome.next (tornReread_of_waited hj hb hp hwait),
      blkChanged_modBlk (count_moves _ _ _ _ (.refl _ s) ⟨rfl⟩) hc n j.id b.k _, ?_⟩
    rw [fld_modBlk]
    exact fld_count_one hs 0 (f := R.XCH_TORN_RETRY) rfl rfl
  · have hack : exec (.writeAck t j.id b.k) s = .next (blkDone s n j.id b.k) := congrArg Host.Outcome.next (writeAck_of_served hj hb hw hp hl)
    exact ⟨fun hopen => ⟨_, hack, blkChanged_blkDone hc hj hopen⟩, fun no o hlast hno hkind => ⟨_, hack, blkDone_of_last hc hj hlast hno hkind⟩⟩
  · exact congrArg Host.Outcome.next (prefetchProbe_of_head hfind)
  · rw [probeBlk_of_stale hst]
    refine ⟨blkChanged_modBlk (count_moves _ _ _ _ (moves_probed s b) ⟨rfl⟩) hc n j.id b.k _, ?_⟩
    rw [fld_modBlk]
    exact (fld_count_one (regsOk_of_canon ((moves_probed s b).canon hc)) tb (f := R.STR_PF_STALE) rfl rfl).trans (by rw [fld_probed]; rfl)
  · exact fld_probeBlk_of_good hc hst j.id

end Sys2Proof.Machine

/-! The scalar results, reductions, draws, scans and sort steps of the vector unit (R209, R212, R223–R225), and the statement O31. -/

namespace Sys2Proof.Machine

/-! ### Results in a scalar register -/

section
variable {s : State} (hc : s.canon = true) {t : Fin 64} {opc : Nat} {u : VuUse} {f : VuFields} (h : vuReady s t opc u f)
  {go : Nat → Vu → State → VuOut}
include hc h

theorem vuLeft_of_sPut {w : Word} (hgo : go (phys s t) (vuOf s t) (vuFetched s t f) = vuDone (vuFetched s t f) (phys s t) fun x => sPut x f.vd.val w) :
    vuLeft s (vuIssue s t opc u f go) t (sPut (vuOf s t) f.vd.val w) :=
  vuLeft_of_vuDone hc h (moves_vuFetched s t f) hgo

/-- An instruction that also counts events of its operands or its sums (R54). -/
theorem vuLeft_of_counted {c : Cnv} {g : Vu → Vu} {w : Vu}
    (hgo : go (phys s t) (vuOf s t) (vuFetched s t f) = vuDone (vuCnv (vuFetched s t f) (phys s t) c) (phys s t) g) (hw : g (vuOf s t) = w) :
    vuLeft s (vuIssue s t opc u f go) t w :=
  hw ▸ vuLeft_of_vuDone hc h (vuCnv_moves _ _ c (moves_vuFetched s t f) ⟨rfl⟩) hgo

end

/-- A scalar instruction whose second operand is given in one way only (R209). -/
theorem vuScalar_of_operand {f : VuFields} (hb : (if f.bs then decide (f.vb.val = 0) else decide (f.imm = 0)) = true) (s : State) (n : Nat) (v : Vu)
    (g : Word → Word → Word) :
    vuScalar s n v f g = vuDone s n fun x => sPut x f.vd.val (g (sGet v f.va.val) (if f.bs then f.imm else sGet v f.vb.val)) := by
  refine if_neg ?_
  cases hbs : f.bs <;> simpa [hbs] using hb

/-- With an active element the extreme is a result of the spec's, and no free value. -/
theorem vuRedMax_of_active {v : Vu} {f : VuFields} (ha : activeVals v f ≠ []) (s : State) (n : Nat) (g : FVal → FVal → FVal) :
    vuRedMax s n v f g = vuDone (vuCnv s n { inf := (redVals v f).2 }) n fun y =>
      sPut y f.vd.val (BitVec.ofNat 32 (fpEncode fpFp32 ((activeVals v f).foldl (fun x q => g x q.1) .nan))) := by
  unfold vuRedMax
  split
  · next hnil => exact absurd hnil ha
  · rfl

/-- VRARGMAX. -/
theorem vuLeft_execVrargmax {s : State} (hc : s.canon = true) {t : Fin 64} {f : VuFields} (h : vuReady s t 0x63 (useR true) f) :
    ∃ u, execVrargmax t f s = .next u ∧
      vuLeft s u t (sPut (vuOf s t) f.vd.val (((argMax (activeVals (vuOf s t) f) none).map fun q => BitVec.ofNat 32 q.2).getD 0xFFFFFFFF)) := by
  refine ⟨_, rfl, vuLeft_of_counted hc h rfl (congrArg (sPut (vuOf s t) f.vd.val) ?_)⟩
  cases argMax (activeVals (vuOf s t) f) none <;> rfl

/-! ### Draws and sorts -/

/-- A poisoned fetch leaves the generator: the draw is the next one of consumer 0. -/
theorem vuDraw_vuFetched (s : State) (t : Fin 64) (f : VuFields) (n : Nat) (v : Vu) (g : BitVec 64 → Nat) :
    vuDraw (vuFetched s t f) n v f g = vuBits (takeDraws (vuFetched s t f) n 0 1) n v f
      ((List.range 512).map fun i => g (drawLane (rngSeed s n) 0 (rngCtr s n 0) i)) := by
  simp only [vuDraw, rngSeed, rngCtr, fld_vuFetched, tileAt_vuFetched]

theorem vuLeft_of_vuDraw {s : State} (hc : s.canon = true) {t : Fin 64} {opc : Nat} {u : VuUse} {f : VuFields} (h : vuReady s t opc u f)
    (g : BitVec 64 → Nat) :
    vuLeft s (vuIssue s t opc u f fun n v s => vuDraw s n v f g) t
      (vuVec (vuOf s t) f ((List.range 512).map fun i => g (drawLane (rngSeed s (phys s t)) 0 (rngCtr s (phys s t) 0) i))) :=
  vuLeft_of_vuBits hc h (takeDraws_moves _ _ _ _ (moves_vuFetched s t f) ⟨rfl⟩) (vuDraw_vuFetched s t f _ _ g)

theorem not_vcxFault {J K : Nat} (hok : (decide (J ≤ 8) && decide (K ≠ 0) && decide (K ≤ 9)) = true) :
    ¬ (decide (8 < J) || decide (K = 0) || decide (9 < K)) = true := by
  simp only [Bool.and_eq_true, Bool.or_eq_true, decide_eq_true_eq] at hok ⊢
  omega

/-- Settles O31: every row writes once, a scalar register or vector lanes, after steps that only count or draw; the rows with a condition are the ones
that would fault, or give a free value, without it. -/
theorem vuScalarResult : Obligations.VuScalarResult := by
  refine ⟨fun s t f hc => ?_, fun s t f hc => ?_⟩ <;> dsimp only <;>
    simp only [List.forall_mem_cons, List.not_mem_nil, false_implies, implies_true, and_true, forall_const]
  · refine ⟨?smovi, ?sadd, ?ssub, ?smul, ?slt, ?vext, ?pcnt, ?vrsum, ?vrmax, ?vrmin, fun h => vuLeft_execVrargmax hc h, ?vrisum⟩
    case smovi | vext | pcnt | vrisum => exact fun h => ⟨_, rfl, vuLeft_of_sPut hc h rfl⟩
    case sadd | ssub | smul | slt => exact fun h hb => ⟨_, rfl, vuLeft_of_sPut hc h (vuScalar_of_operand hb _ _ _ _)⟩
    case vrsum => exact fun h => ⟨_, rfl, vuLeft_of_counted hc h rfl rfl⟩
    case vrmax | vrmin =>
      exact fun h ha => ⟨_, rfl, vuLeft_of_counted hc h (vuRedMax_of_active (of_decide_eq_true ha) _ _ _) rfl⟩
  · refine ⟨fun h => ⟨_, rfl, vuLeft_of_vuDraw hc h _⟩, fun h => ⟨_, rfl, vuLeft_of_vuDraw hc h _⟩, fun h => ⟨_, rfl, ?vscan⟩,
      fun h hk => ⟨_, rfl, ?vcx⟩, fun h => ⟨_, rfl, ?vcxr⟩⟩
    case vscan => exact vuLeft_of_counted hc h rfl rfl
    case vcx => exact vuLeft_of_counted hc h (if_neg (not_vcxFault hk)) rfl
    case vcxr => exact vuLeft_of_counted hc h rfl rfl

end Sys2Proof.Machine

/-! The control flow of the vector unit, its random generator's seed and its watchdog (R209, R226, R230–R232), and the statement O33. -/

namespace Sys2Proof.Machine

/-! ### Loop ends -/

theorem loopEnds_of_outside {v : Vu} (h : v.loops = []) (pc k : Nat) : loopEnds k { v with pc := pc } = { v with pc := pc } := by
  cases k with
  | zero => rfl
  | succ k => simp only [loopEnds, h]

theorem loopEnds_of_body {v : Vu} {l : VuLoop} {rest : List VuLoop} (h : v.loops = l :: rest) (hpc : v.pc ≠ l.last) (k : Nat) : loopEnds k v = v := by
  cases k with
  | zero => rfl
  | succ k => simp only [loopEnds, h, if_neg hpc]

/-! ### The vector unit of a tile -/

/-- In `u` tile t's VU is `w`, and its sett memory is as it was in `s`. -/
def vuNow (s u : State) (t : Fin 64) (w : Vu) : Prop :=
  (tileAt u (phys s t)).vu = w ∧ (tileAt u (phys s t)).sett = (tileAt s (phys s t)).sett

theorem vuNow_of_tiles {s u x : State} (h : u.tiles = x.tiles) {t : Fin 64} {w : Vu} (hx : vuNow s x t w) : vuNow s u t w := by
  rw [vuNow, tileAt_of_tiles h]
  exact hx

/-- A change of tile t that leaves its sett memory and does `g` to its VU. -/
theorem vuNow_modTile {s x : State} (hc : x.canon = true) {t : Fin 64} {w : Vu} {f : Tile → Tile} {g : Vu → Vu} (hx : vuNow s x t w)
    (hvu : ∀ y, (f y).vu = g y.vu) (hsett : ∀ y, (f y).sett = y.sett) : vuNow s (modTile x (phys s t) f) t (g w) := by
  obtain ⟨hw, hm⟩ := hx
  rw [vuNow, tileAt_modTile (canon_tiles hc), hvu, hsett, hw, hm]
  exact ⟨rfl, rfl⟩

theorem vuNow_modTile_same {s x : State} (hc : x.canon = true) {t : Fin 64} {w : Vu} {f : Tile → Tile} (hx : vuNow s x t w)
    (hvu : ∀ y, (f y).vu = y.vu) (hsett : ∀ y, (f y).sett = y.sett) : vuNow s (modTile x (phys s t) f) t w :=
  vuNow_modTile (g := id) hc hx hvu hsett

theorem vuNow_modVu {s x : State} (hc : x.canon = true) {t : Fin 64} {w : Vu} (hx : vuNow s x t w) (g : Vu → Vu) :
    vuNow s (modVu x (phys s t) g) t (g w) :=
  vuNow_modTile hc hx (fun _ => rfl) fun _ => rfl

theorem vuNow_vuFetched (s : State) (t : Fin 64) (f : VuFields) : vuNow s (vuFetched s t f) t (vuOf s t) := by
  rw [vuNow, tileAt_vuFetched]
  exact ⟨rfl, rfl⟩

theorem canon_vuFetched {s : State} (hc : s.canon = true) (t : Fin 64) (f : VuFields) : (vuFetched s t f).canon = true :=
  (moves_vuFetched s t f).canon hc

theorem canon_modTile {s : State} (hc : s.canon = true) (n : Nat) (f : Tile → Tile) : (modTile s n f).canon = true :=
  (modTile_moves s n f (.refl [.tiles] s) ⟨rfl⟩).canon hc

theorem canon_modVu {s : State} (hc : s.canon = true) (n : Nat) (g : Vu → Vu) : (modVu s n g).canon = true :=
  canon_modTile hc n _

theorem canon_count {s : State} (hc : s.canon = true) (b : Nat) (f : Fld) (k : Nat) : (count s b f k).canon = true :=
  (count_moves s b f k (.refl [.regs] s) ⟨rfl⟩).canon hc

theorem vuNow_count {s x : State} {t : Fin 64} {w : Vu} (hx : vuNow s x t w) (b : Nat) (f : Fld) (k : Nat) : vuNow s (count x b f k) t w :=
  vuNow_of_tiles (count_tiles x b f k) hx

theorem canon_ownWaitEnd {s : State} (hc : s.canon = true) (n unit : Nat) : (ownWaitEnd s n unit).canon = true :=
  (ownWaitEnd_moves s n unit (.refl [.regs, .tiles] s) ⟨rfl⟩).canon hc

/-- The end of a wait for a port is no change of the VU. -/
theorem vuNow_ownWaitEnd {s x : State} (hc : x.canon = true) {t : Fin 64} {w : Vu} (hx : vuNow s x t w) (unit : Nat) :
    vuNow s (ownWaitEnd x (phys s t) unit) t w := by
  unfold ownWaitEnd
  split
  · exact hx
  · extract_lets s1 s2
    have h1 : Moves [.regs] x s1 := count_moves _ _ _ _ (.refl _ x) ⟨rfl⟩
    have h2 : Moves [.regs] x s2 := .ite (fun _ => count_moves _ _ _ _ h1 ⟨rfl⟩) fun _ => h1
    exact vuNow_modTile_same (h2.canon hc) (vuNow_of_tiles (h2.same .tiles (by decide)) hx) (fun _ => rfl) fun _ => rfl

/-- A dispatch that has ended (R226, R229). -/
def vuStopped (v : Vu) : Vu := { v with run := false, loops := [], seedHeld := none }

theorem vuNow_vuStop {s x : State} (hc : x.canon = true) {t : Fin 64} {w : Vu} (hx : vuNow s x t w) : vuNow s (vuStop x (phys s t)) t (vuStopped w) := by
  unfold vuStop
  extract_lets v s1
  have h1 : vuNow s s1 t (vuStopped w) := vuNow_of_tiles (count_tiles _ _ _ _) (vuNow_modVu hc hx vuStopped)
  split
  · exact vuNow_of_tiles ((clearDraws_moves s1 _ (.refl [.regs] s1) ⟨rfl⟩).same .tiles (by decide)) h1
  · exact h1

theorem vuNow_finCmd {s x : State} (hc : x.canon = true) {t : Fin 64} {w : Vu} (hx : vuNow s x t w) (no : Nat) : vuNow s (finCmd x (phys s t) no) t w :=
  vuNow_modTile_same hc hx (fun _ => rfl) fun _ => rfl

/-- Where no loop ends at the program counter and the next opcode exists, nothing is left to settle. -/
theorem vuNow_vuSettle {s x : State} (hc : x.canon = true) {t : Fin 64} {w : Vu} (hx : vuNow s x t w) (hl : loopEnds 5 w = w) (hpc : w.pc < 8192)
    (hop : vuOpcodes.contains ((imemAt w w.pc).toNat / 2 ^ 57) = true) : vuNow s (vuSettle x (phys s t)) t w := by
  have h1 := vuNow_modVu hc hx (loopEnds 5)
  rw [hl] at h1
  have hw : (tileAt (modVu x (phys s t) (loopEnds 5)) (phys s t)).vu = w := h1.1
  unfold vuSettle
  simp only [hw, Nat.not_le.2 hpc, hop, Bool.not_true, Bool.false_eq_true, if_false, ite_self]
  exact h1

theorem vuLeft_of_vuNow {s u : State} {t : Fin 64} {w : Vu} (h : vuNow s u t w) : vuLeft s u t w := by
  obtain ⟨hw, hm⟩ := h
  rw [vuLeft_iff, vuRegs, hw, hm]

/-- Tile t's program counter stands at `pc`, its dispatch runs outside loops, and its registers and memory are as they were. -/
def vuMoved (s u : State) (t : Fin 64) (pc : Nat) : Prop :=
  vuLeft s u t (vuOf s t) ∧ (tileAt u (phys s t)).vu.pc = pc ∧ (tileAt u (phys s t)).vu.run = true ∧ (tileAt u (phys s t)).vu.loops = []

theorem vuMoved_of_vuNow {s u : State} {t : Fin 64} {pc : Nat} (hrun : (vuOf s t).run = true) (hl : (vuOf s t).loops = [])
    (h : vuNow s u t { vuOf s t with pc := pc }) : vuMoved s u t pc := by
  have hleft := vuLeft_of_vuNow h
  rw [vuMoved, h.1]
  exact ⟨hleft, rfl, hrun, hl⟩

/-! ### Control flow -/

/-- What an instruction's outcome makes of the state: waits and faults, a dispatch that fails or ends, and the program counter of one that goes on (R230, R231). -/
def vuAfter (s : State) (t : Fin 64) (f : VuFields) (o : VuOut) : State :=
  let n := phys s t
  let cnt := fun (x : State) => count x (tileBase n) R.VU_INSN_CNT 1
  match o with
  | .wait => ownWaitStart s n 4
  | .fault c => vuFault (cnt (vuFetched s t f)) n c
  | .fail st => failExec (vuStop (cnt (vuFetched s t f)) n) n (vuOf s t).no st
  | .done x => vuSettle (modVu (cnt (ownWaitEnd x n 4)) n fun y => { y with pc := (vuOf s t).pc + 1 }) n
  | .goto pc x => vuSettle (modVu (cnt x) n fun y => { y with pc := pc }) n
  | .finish x => finCmd (count (vuStop (cnt x) n) (tileBase n) R.VU_DISP_CNT 1) n (vuOf s t).no

section
variable {s : State} (hc : s.canon = true) {t : Fin 64} {opc : Nat} {u : VuUse} {f : VuFields} (h : vuReady s t opc u f)
  {go : Nat → Vu → State → VuOut} {x : State}
include h

/-- An instruction whose word is next, is fetched well and keeps R206 acts by its outcome. -/
theorem vuIssue_of_ready : vuIssue s t opc u f go = vuAfter s t f (go (phys s t) (vuOf s t) (vuFetched s t f)) := by
  obtain ⟨hrun, hword, hbad, huse⟩ := h
  simp only [vuIssue, hrun, hword, huse, Nat.not_le.2 hbad, decide_true, Bool.not_true, Bool.or_self, Bool.false_eq_true, if_false]
  rfl

theorem vuNow_of_goto {pc : Nat} {w : Vu} (hgo : go (phys s t) (vuOf s t) (vuFetched s t f) = .goto pc x) (hxc : x.canon = true) (hx : vuNow s x t w)
    (hl : loopEnds 5 { w with pc := pc } = { w with pc := pc }) (hpc : pc < 8192) (hop : vuOpcodes.contains ((imemAt w pc).toNat / 2 ^ 57) = true) :
    vuNow s (vuIssue s t opc u f go) t { w with pc := pc } := by
  rw [vuIssue_of_ready h, hgo]
  have hcount := canon_count hxc (tileBase (phys s t)) R.VU_INSN_CNT 1
  exact vuNow_vuSettle (canon_modVu hcount _ _) (vuNow_modVu hcount (vuNow_count hx _ _ _) fun y => { y with pc := pc }) hl hpc hop

include hc

/-- Outside loops a jump moves the program counter and changes nothing else. -/
theorem vuMoved_of_goto {pc : Nat} (hgo : go (phys s t) (vuOf s t) (vuFetched s t f) = .goto pc (vuFetched s t f)) (hn : vuNextOk s t pc) :
    vuMoved s (vuIssue s t opc u f go) t pc := by
  obtain ⟨hl, hpc, hop⟩ := hn
  exact vuMoved_of_vuNow h.1 hl (vuNow_of_goto h hgo (canon_vuFetched hc t f) (vuNow_vuFetched s t f) (loopEnds_of_outside hl _ 5) hpc hop)

/-- Outside loops an instruction without an effect goes on to the next one. -/
theorem vuMoved_of_done (hgo : go (phys s t) (vuOf s t) (vuFetched s t f) = .done (vuFetched s t f)) (hn : vuNextOk s t ((vuOf s t).pc + 1)) :
    vuMoved s (vuIssue s t opc u f go) t ((vuOf s t).pc + 1) := by
  obtain ⟨hl, hpc, hop⟩ := hn
  have hcount := canon_count (canon_ownWaitEnd (canon_vuFetched hc t f) (phys s t) 4) (tileBase (phys s t)) R.VU_INSN_CNT 1
  have hx := vuNow_count (vuNow_ownWaitEnd (canon_vuFetched hc t f) (vuNow_vuFetched s t f) 4) (tileBase (phys s t)) R.VU_INSN_CNT 1
  rw [vuIssue_of_ready h, hgo]
  exact vuMoved_of_vuNow h.1 hl (vuNow_vuSettle (canon_modVu hcount _ _) (vuNow_modVu hcount hx fun y => { y with pc := (vuOf s t).pc + 1 })
    (loopEnds_of_outside hl _ 5) hpc hop)

theorem vuMoved_of_vuBranch {take : Word → Bool} {pc : Nat} (hgo : go (phys s t) (vuOf s t) (vuFetched s t f) = vuBranch (vuFetched s t f) (vuOf s t) f take)
    (hok : (decide (0 ≤ ((vuOf s t).pc : Int) + f.imm.toInt) && decide (((vuOf s t).pc : Int) + f.imm.toInt < 8192)) = true)
    (hpc : pc = if take (sGet (vuOf s t) f.va.val) then (((vuOf s t).pc : Int) + f.imm.toInt).toNat else (vuOf s t).pc + 1) (hn : vuNextOk s t pc) :
    vuMoved s (vuIssue s t opc u f go) t pc := by
  refine vuMoved_of_goto hc h (hgo.trans ?_) hn
  subst hpc
  simp only [vuBranch, hn.1, hok, Bool.and_true, Bool.not_true, Bool.false_eq_true, if_false]
  split <;> rfl

theorem vuNow_of_finish (hgo : go (phys s t) (vuOf s t) (vuFetched s t f) = .finish (vuFetched s t f)) :
    vuNow s (vuIssue s t opc u f go) t (vuStopped (vuOf s t)) := by
  rw [vuIssue_of_ready h, hgo]
  have hcount := canon_count (canon_vuFetched hc t f) (tileBase (phys s t)) R.VU_INSN_CNT 1
  have hstop := vuNow_vuStop hcount (vuNow_count (vuNow_vuFetched s t f) _ _ _)
  exact vuNow_finCmd (canon_count ((vuStop_moves _ _ (.refl [.regs, .tiles] _) ⟨rfl⟩).canon hcount) _ _ _) (vuNow_count hstop _ _ _) _

end

/-- A LOOP of zero turns goes past its body (R230). -/
theorem vuMoved_execLoop {s : State} (hc : s.canon = true) {t : Fin 64} {f : VuFields} (h : vuReady s t 0x7B { va := .sc, imm := 0x1FFF } f)
    (hlen : f.imm.toNat % 8192 ≠ 0) (hk : sGet (vuOf s t) f.va.val = 0) (hn : vuNextOk s t ((vuOf s t).pc + 1 + f.imm.toNat % 8192)) :
    ∃ u, execLoop t f s = .next u ∧ vuMoved s u t ((vuOf s t).pc + 1 + f.imm.toNat % 8192) := by
  refine ⟨_, rfl, vuMoved_of_goto hc h ?_ hn⟩
  simp [hn.1, hlen, hk]

/-- The loop that a LOOP begins (R230). -/
def loopOf (v : Vu) (f : VuFields) : VuLoop :=
  { first := v.pc + 1, last := v.pc + 1 + f.imm.toNat % 8192, left := (sGet v f.va.val).toNat }

/-- A LOOP enters its body. -/
theorem vuNow_execLoop {s : State} (hc : s.canon = true) {t : Fin 64} {f : VuFields} (h : vuReady s t 0x7B { va := .sc, imm := 0x1FFF } f)
    (hlen : f.imm.toNat % 8192 ≠ 0) (hk : sGet (vuOf s t) f.va.val ≠ 0) (hn : vuNextOk s t ((vuOf s t).pc + 1)) :
    ∃ u, execLoop t f s = .next u ∧ vuNow s u t { vuOf s t with
      pc := (vuOf s t).pc + 1,
      loops := loopOf (vuOf s t) f :: (vuOf s t).loops } := by
  obtain ⟨hl, hpc, hop⟩ := hn
  have hf := canon_vuFetched hc t f
  have hturns : (sGet (vuOf s t) f.va.val).toNat ≠ 0 := fun e => hk (BitVec.eq_of_toNat_eq e)
  have hbody : (vuOf s t).pc + 1 ≠ (loopOf (vuOf s t) f).last := by
    simp only [loopOf]
    omega
  refine ⟨_, rfl, vuNow_of_goto h (w := { vuOf s t with loops := loopOf (vuOf s t) f :: (vuOf s t).loops }) ?_ (canon_modVu hf _ _)
    (vuNow_modVu hf (vuNow_vuFetched s t f) fun y => { y with loops := loopOf (vuOf s t) f :: y.loops }) (loopEnds_of_body rfl hbody 5) hpc hop⟩
  simp [hl, hlen, hturns, loopOf]

/-! ### Words that the end of a dispatch leaves -/

/-- A word of the block of tile n's VU. -/
def vuBlock (n k : Nat) : Prop := tileBase n + 0x34000 ≤ k ∧ k < tileBase n + 0x35000

/-- A word of tile n's draw counters. -/
def ctrWord (n k : Nat) : Prop := tileBase n + 0x34020 ≤ k ∧ k < tileBase n + 0x34048

theorem owlWord_of_vuBlock {n k : Nat} (hk : vuBlock n k) : owlWord k = false := by
  unfold vuBlock tileBase at hk
  simp only [owlWord, Bool.or_eq_false_iff, decide_eq_false_iff_not]
  omega

/-- A count in another block of the tile. -/
theorem rdReg_count_of_vuBlock (s : State) {n k : Nat} (hk : vuBlock n k) {f : Fld} (v : Nat) (hhi : f.hi < 32) (hoff : f.off < 0x34000 ∨ 0x35000 ≤ f.off) :
    rdReg (count s (tileBase n) f v) k = rdReg s k := by
  obtain ⟨hlo, hup⟩ := hk
  exact rdReg_count_other s _ f v k (by omega) (.inl hhi)

theorem rdReg_setFld_of_vuBlock (s : State) {n k : Nat} (hk : vuBlock n k) {f : Fld} (v : Nat) (hhi : f.hi < 32) (hoff : f.off < 0x34000 ∨ 0x35000 ≤ f.off) :
    rdReg (setFld s (tileBase n) f v) k = rdReg s k := by
  obtain ⟨hlo, hup⟩ := hk
  exact rdReg_setFld_other s _ f v k (by omega) (.inl hhi)

theorem rdReg_pushNamed (s : State) (q : Nat) (l : List FwEvent) (k : Nat) : rdReg (pushNamed s q l) k = rdReg s k := by
  unfold pushNamed
  split <;> rfl

theorem rdReg_dropPrefetch (s : State) {n k : Nat} (hk : vuBlock n k) : rdReg (dropPrefetch s n) k = rdReg s k := by
  unfold dropPrefetch
  extract_lets p s1 s2
  have h1 : rdReg s1 k = rdReg s k := by
    unfold s1
    split
    · rfl
    · exact rdReg_count_of_vuBlock s hk p (by decide) (by decide)
  exact (rdReg_setFld_of_vuBlock s1 hk 0 (by decide) (by decide)).trans h1

/-- A stream that halts shows it in the sequencer's and the streamer's words. -/
theorem rdReg_haltSeq (s : State) {n k : Nat} (hk : vuBlock n k) (st idx : Nat) (atExec : Bool) : rdReg (haltSeq s n st idx atExec) k = rdReg s k := by
  unfold haltSeq
  extract_lets tb x next s1 s2 s3 s4 s5
  have h1 : rdReg s1 k = rdReg s k := by
    unfold s1
    split
    · rfl
    · exact rdReg_setFld_of_vuBlock s hk _ (by decide) (by decide)
  have h3 : rdReg s3 k = rdReg s1 k :=
    (rdReg_setFld_of_vuBlock _ hk _ (by decide) (by decide)).trans ((rdReg_setFld_of_vuBlock _ hk _ (by decide) (by decide)).trans
      (rdReg_setFld_of_vuBlock s1 hk _ (by decide) (by decide)))
  have h4 : rdReg s4 k = rdReg s3 k := rdReg_count_of_vuBlock s3 hk 1 (by decide) (by decide)
  have h5 : rdReg s5 k = rdReg s4 k := by
    obtain ⟨hlo, hup⟩ := hk
    exact (rdReg_pushNamed _ _ _ k).trans (rdReg_raiseD _ _ _ _ _ (owlWord_of_vuBlock ⟨hlo, hup⟩) (by simp only [R.TILE_SEQ_STATUS_HALT]; omega) (.inl (by decide)))
  rw [rdReg_dropPrefetch _ hk, rdReg_of_regs (modTile_regs _ _ _), h5, h4, h3, h1]

theorem rdReg_failExec (s : State) {n k : Nat} (hk : vuBlock n k) (no st : Nat) : rdReg (failExec s n no st) k = rdReg s k := by
  unfold failExec
  split
  · rfl
  · rw [rdReg_haltSeq _ hk, rdReg_of_regs (modTile_regs _ _ _)]

theorem rdReg_ownWaitEnd (s : State) {n k : Nat} (hk : vuBlock n k) (unit : Nat) : rdReg (ownWaitEnd s n unit) k = rdReg s k := by
  unfold ownWaitEnd
  split
  · rfl
  · extract_lets s1 s2
    have h1 : rdReg s1 k = rdReg s k := rdReg_count_of_vuBlock s hk _ (by decide) (by decide)
    have h2 : rdReg s2 k = rdReg s1 k := by
      unfold s2
      split
      · exact rdReg_count_of_vuBlock s1 hk _ (by decide) (by decide)
      · rfl
    rw [rdReg_of_regs (modTile_regs _ _ _), h2, h1]

/-! ### The draw counters -/

theorem ctrWord_of_ctr {c : Nat} (hc : c < 5) (n : Nat) :
    ctrWord n (tileBase n + (fldAt R.VU_RNG_CTR_COUNT c).off) ∧ ctrWord n (tileBase n + (fldAt R.VU_RNG_CTR_COUNT c).off + 4) := by
  simp only [ctrWord, fldAt, R.VU_RNG_CTR_COUNT]
  omega

theorem rdReg_clearDraws (s : State) {n k : Nat} (hk : ¬ ctrWord n k) : rdReg (clearDraws s n) k = rdReg s k := by
  unfold clearDraws
  have hl : ∀ c ∈ List.range 5, c < 5 := fun c => List.mem_range.1
  generalize List.range 5 = l at hl
  induction l generalizing s with
  | nil => rfl
  | cons c l ih =>
    obtain ⟨hlow, hhigh⟩ := ctrWord_of_ctr (hl c List.mem_cons_self) n
    rw [List.foldl_cons, ih _ fun d hd => hl d (List.mem_cons_of_mem c hd)]
    exact rdReg_setFld_other s _ _ 0 k (fun e => hk (e ▸ hlow)) (.inr fun e => hk (e ▸ hhigh))

theorem rngCtr_setFld_zero {s : State} (hs : regsOk s) (n c d : Nat) :
    rngCtr (setFld s (tileBase n) (fldAt R.VU_RNG_CTR_COUNT d) 0) n c = if c = d then 0 else rngCtr s n c := by
  split
  · next e => exact e ▸ fld_setFld_same hs _ _ 0 ⟨Nat.zero_le _, (by decide : 47 < 64)⟩
  · next e => exact fld_setFld_far s _ _ _ _ 0 (by simp only [fldAt, R.VU_RNG_CTR_COUNT]; omega)

theorem rngCtr_clearDraws {s : State} (hs : regsOk s) (n : Nat) {c : Nat} (hc : c < 5) : rngCtr (clearDraws s n) n c = 0 := by
  have hmem : c ∈ List.range 5 ∨ rngCtr s n c = 0 := .inl (List.mem_range.2 hc)
  unfold clearDraws
  generalize List.range 5 = l at hmem
  induction l generalizing s with
  | nil => exact hmem.resolve_left List.not_mem_nil
  | cons d l ih =>
    refine ih (regsOk_setFld hs _ _ _) ?_
    rw [rngCtr_setFld_zero hs]
    split
    · exact .inr rfl
    · next e => exact hmem.imp_left fun h => (List.mem_cons.1 h).resolve_left e

/-! ### The generator after a seed -/

/-- Tile n's generator has this seed and no draw taken (R226). -/
structure Seeded (s : State) (n seed : Nat) : Prop where
  seed : fld s (tileBase n) R.VU_RNG_SEED_SEED = seed
  ctr : ∀ c < 5, rngCtr s n c = 0

/-- A word of tile n's seed register or draw counters. -/
def rngWord (n k : Nat) : Prop := tileBase n + 0x34018 ≤ k ∧ k < tileBase n + 0x34048

theorem vuBlock_of_rngWord {n k : Nat} (hk : rngWord n k) : vuBlock n k := by
  unfold rngWord at hk
  unfold vuBlock
  omega

theorem fld_seed_of_rngWord {s u : State} {n : Nat} (hw : ∀ k, rngWord n k → ¬ ctrWord n k → rdReg u k = rdReg s k) :
    fld u (tileBase n) R.VU_RNG_SEED_SEED = fld s (tileBase n) R.VU_RNG_SEED_SEED := by
  refine fld_of_words (hw _ ?_ ?_) (.inr (hw _ ?_ ?_)) <;> simp only [rngWord, ctrWord, R.VU_RNG_SEED_SEED] <;> omega

theorem rngCtr_of_rngWord {s u : State} {n c : Nat} (hc : c < 5) (hw : ∀ k, ctrWord n k → rdReg u k = rdReg s k) : rngCtr u n c = rngCtr s n c :=
  fld_of_words (hw _ (ctrWord_of_ctr hc n).1) (.inr (hw _ (ctrWord_of_ctr hc n).2))

theorem rngWord_of_ctrWord {n k : Nat} (hk : ctrWord n k) : rngWord n k := by
  unfold ctrWord at hk
  unfold rngWord
  omega

section
variable {s u : State} {n seed : Nat} (h : Seeded s n seed)
include h

theorem Seeded.of_words (hw : ∀ k, rngWord n k → rdReg u k = rdReg s k) : Seeded u n seed :=
  ⟨(fld_seed_of_rngWord fun k hk _ => hw k hk).trans h.seed, fun c hc => (rngCtr_of_rngWord hc fun k hk => hw k (rngWord_of_ctrWord hk)).trans (h.ctr c hc)⟩

theorem Seeded.modVu (g : Vu → Vu) : Seeded (modVu s n g) n seed := h.of_words fun k _ => rdReg_of_regs (modTile_regs s n _) k

theorem Seeded.count {f : Fld} (v : Nat) (hhi : f.hi < 32) (hoff : f.off < 0x34018 ∨ 0x34048 ≤ f.off) : Seeded (count s (tileBase n) f v) n seed :=
  h.of_words fun k hk => rdReg_count_other s _ f v k (by unfold rngWord at hk; omega) (.inl hhi)

theorem Seeded.failExec (no st : Nat) : Seeded (failExec s n no st) n seed := h.of_words fun _ hk => rdReg_failExec s (vuBlock_of_rngWord hk) no st

theorem Seeded.ownWaitEnd (unit : Nat) : Seeded (ownWaitEnd s n unit) n seed := h.of_words fun _ hk => rdReg_ownWaitEnd s (vuBlock_of_rngWord hk) unit

theorem Seeded.clearDraws (hs : regsOk s) : Seeded (clearDraws s n) n seed :=
  ⟨(fld_seed_of_rngWord fun _ _ hk => rdReg_clearDraws s hk).trans h.seed, fun _ => rngCtr_clearDraws hs n⟩

end

/-! ### Faults -/

/-- What a fault shows and counts, before its dispatch ends (R231). -/
def faultShown (s : State) (n cause : Nat) : State :=
  raiseBit (count (setFld (setFld s (tileBase n) R.VU_FAULT_CAUSE cause) (tileBase n) R.VU_FAULT_PC (tileAt s n).vu.pc) (tileBase n) R.VU_FAULT_CNT 1)
    (tileBase n) R.VU_STATUS_FAULT

theorem vuFault_eq (s : State) (n cause : Nat) : vuFault s n cause = failExec (vuStop (faultShown s n cause) n) n (tileAt s n).vu.no stVuFault := rfl

theorem moves_faultShown (s : State) (n cause : Nat) : Moves [.regs, .owlFifo] s (faultShown s n cause) :=
  raiseBit_moves _ _ _ (count_moves _ _ _ _ (setFld_moves _ _ _ _ (setFld_moves _ _ _ _ (.refl _ s) ⟨rfl⟩) ⟨rfl⟩) ⟨rfl⟩) ⟨rfl⟩

/-- A status bit of a tile's window is raised in its own word and in Owl's. -/
theorem rdReg_raiseBit_vu (s : State) {n k : Nat} (hk : vuBlock n k) (hne : k ≠ tileBase n + R.VU_STATUS_FAULT.off) :
    rdReg (raiseBit s (tileBase n) R.VU_STATUS_FAULT) k = rdReg s k :=
  rdReg_raiseD s _ _ [] k (owlWord_of_vuBlock hk) hne (.inl (by decide))

/-- The end of a dispatch writes VU_BUSY_TC and the draw counters. -/
theorem rdReg_vuStop (s : State) {n k : Nat} (hbusy : k ≠ tileBase n + R.VU_BUSY_TC.off) (hk : ¬ ctrWord n k) : rdReg (vuStop s n) k = rdReg s k := by
  unfold vuStop
  extract_lets v s1
  have h1 : rdReg s1 k = rdReg s k := rdReg_count_other _ _ _ _ _ hbusy (.inl (by decide))
  split
  · rw [rdReg_clearDraws s1 hk, h1]
  · exact h1

section
variable {s : State} (hc : s.canon = true) {n seed : Nat} (h : Seeded s n seed)
include hc h

theorem Seeded.vuStop : Seeded (vuStop s n) n seed := by
  unfold Machine.vuStop
  extract_lets v s1
  have h1 : Seeded s1 n seed := (h.modVu _).count _ (by decide) (by decide)
  split
  · exact h1.clearDraws (regsOk_of_canon (canon_count (canon_modVu hc n _) _ _ _))
  · exact h1

theorem Seeded.vuFault (cause : Nat) : Seeded (vuFault s n cause) n seed := by
  have hshown : Seeded (faultShown s n cause) n seed := by
    refine h.of_words fun k hk => ?_
    have hb := vuBlock_of_rngWord hk
    unfold rngWord at hk
    refine (rdReg_raiseBit_vu _ hb (by simp only [R.VU_STATUS_FAULT]; omega)).trans ?_
    rw [rdReg_count_other _ _ _ _ _ (by simp only [R.VU_FAULT_CNT]; omega) (.inl (by decide)),
      rdReg_setFld_other _ _ _ _ _ (by simp only [R.VU_FAULT_PC]; omega) (.inl (by decide)),
      rdReg_setFld_other _ _ _ _ _ (by simp only [R.VU_FAULT_CAUSE]; omega) (.inl (by decide))]
  exact (hshown.vuStop ((moves_faultShown s n cause).canon hc)).failExec _ _

theorem Seeded.vuSettle : Seeded (vuSettle s n) n seed := by
  unfold Machine.vuSettle
  extract_lets s1 v
  have hc1 : s1.canon = true := canon_modVu hc n _
  have h1 : Seeded s1 n seed := h.modVu _
  split
  · exact h1
  · split
    · exact h1.vuFault hc1 5
    · split
      · exact (h1.count 1 (by decide) (by decide)).vuFault (canon_count hc1 _ _ _) 1
      · exact h1

end

/-! ### Seeds -/

theorem fld_setFld_seed {s : State} (hs : regsOk s) (n : Nat) {seed : Nat} (hlt : seed < 2 ^ 64) :
    fld (setFld s (tileBase n) R.VU_RNG_SEED_SEED seed) (tileBase n) R.VU_RNG_SEED_SEED = seed :=
  (fld_setFld_same hs _ _ seed ⟨Nat.zero_le _, by decide⟩).trans (Nat.mod_eq_of_lt hlt)

theorem rngCtr_setFld_seed (s : State) (n seed : Nat) {c : Nat} (hc : c < 5) :
    rngCtr (setFld s (tileBase n) R.VU_RNG_SEED_SEED seed) n c = rngCtr s n c := by
  refine rngCtr_of_rngWord hc fun k hk => ?_
  unfold ctrWord at hk
  exact rdReg_setFld_other s _ _ seed k (by simp only [R.VU_RNG_SEED_SEED]; omega) (.inr (by simp only [R.VU_RNG_SEED_SEED]; omega))

theorem fld_modVu (s : State) (n : Nat) (g : Vu → Vu) (b : Nat) (f : Fld) : fld (modVu s n g) b f = fld s b f :=
  fld_of_regs (modTile_regs s n _) b f

theorem fld_clearDraws_seed (s : State) (n : Nat) : fld (clearDraws s n) (tileBase n) R.VU_RNG_SEED_SEED = fld s (tileBase n) R.VU_RNG_SEED_SEED :=
  fld_seed_of_rngWord fun _ _ hk => rdReg_clearDraws s hk

section
variable {s : State} {n seed : Nat} (hheld : (tileAt s n).vu.seedHeld = none)
include hheld

/-- RSEED where no seed of the host waits (R226). -/
theorem reseed_of_free : reseed s n seed = clearDraws (setFld s (tileBase n) R.VU_RNG_SEED_SEED seed) n := by
  simp only [reseed, hheld, Option.isSome_none, Bool.false_eq_true, if_false]

theorem moves_reseed_of_free : Moves [.regs] s (reseed s n seed) := by
  rw [reseed_of_free hheld]
  exact clearDraws_moves _ _ (setFld_moves _ _ _ _ (.refl _ s) ⟨rfl⟩) ⟨rfl⟩

theorem seeded_reseed (hs : regsOk s) (hlt : seed < 2 ^ 64) : Seeded (reseed s n seed) n seed := by
  rw [reseed_of_free hheld]
  exact ⟨(fld_clearDraws_seed _ n).trans (fld_setFld_seed hs n hlt), fun _ => rngCtr_clearDraws (regsOk_setFld hs _ _ _) n⟩

end

theorem seed_lt (lo hi : Word) : lo.toNat + 2 ^ 32 * hi.toNat < 2 ^ 64 := by
  have hlo := lo.isLt
  have hhi := hi.isLt
  omega

/-- The map of logical tiles is the hub's: a write of a tile's register leaves it. -/
theorem phys_setFld_tile (s : State) (n : Nat) (f : Fld) (v : Nat) (t : Fin 64) : phys (setFld s (tileBase n) f v) t = phys s t := by
  have hmap (g : Fld) (hg : g.off + 8 ≤ 0x10000000) : fld (setFld s (tileBase n) f v) 0 g = fld s 0 g :=
    fld_setFld_far s _ _ f g v (.inr (by unfold tileBase; omega))
  unfold phys
  rw [hmap, hmap] <;> simp only [fldAt, R.MGT_TILE_MAP_DIE, R.MGT_TILE_MAP_PHYS] <;> omega

/-- RSEED: whatever follows at the next instruction, a fault of that one included, leaves the seed and the counters. -/
theorem seeded_execRseed {s : State} (hc : s.canon = true) {t : Fin 64} {f : VuFields} (h : vuReady s t 0x7A { va := .sc, vb := .sc } f)
    (hheld : (vuOf s t).seedHeld = none) :
    ∃ u, execRseed t f s = .next u ∧
      Seeded u (phys s t) ((sGet (vuOf s t) f.va.val).toNat + 2 ^ 32 * (sGet (vuOf s t) f.vb.val).toNat) ∧ vuLeft s u t (vuOf s t) := by
  have hf := canon_vuFetched hc t f
  have hfree : (tileAt (vuFetched s t f) (phys s t)).vu.seedHeld = none := by rwa [tileAt_vuFetched]
  have hseed := seeded_reseed hfree (regsOk_of_canon hf) (seed_lt (sGet (vuOf s t) f.va.val) (sGet (vuOf s t) f.vb.val))
  have hx := moves_reseed_of_free hfree (seed := (sGet (vuOf s t) f.va.val).toNat + 2 ^ 32 * (sGet (vuOf s t) f.vb.val).toNat)
  refine ⟨_, rfl, ?_, ?_⟩
  · rw [vuIssue_of_ready h]
    exact (((hseed.ownWaitEnd 4).count 1 (by decide) (by decide)).modVu _).vuSettle
      (canon_modVu (canon_count (canon_ownWaitEnd (hx.canon hf) _ 4) _ _ _) _ _)
  · rw [vuLeft_iff, vuIssue_done hc t _ _ f _ h _ rfl fun _ => hx.canon hf, vuRegs, tileAt_of_tiles (hx.same .tiles (by decide)), tileAt_vuFetched]
    rfl

/-- While a dispatch runs, the seed in force is kept beside the one written (R226). -/
theorem writeSeed_of_run {s : State} {n : Nat} (hrun : (tileAt s n).vu.run = true) (seed : Nat) :
    writeSeed s n seed = modVu (setFld s (tileBase n) R.VU_RNG_SEED_SEED seed) n fun v => { v with seedHeld := some (rngSeed s n) } :=
  if_pos hrun

theorem writeSeed_of_idle {s : State} {n : Nat} (hrun : (tileAt s n).vu.run = false) (seed : Nat) :
    writeSeed s n seed = clearDraws (setFld s (tileBase n) R.VU_RNG_SEED_SEED seed) n :=
  if_neg (Bool.eq_false_iff.1 hrun)

section
variable {s : State} (hc : s.canon = true) (t : Fin 64) (seed : BitVec 64)
include hc

theorem fld_writeSeed (n : Nat) : fld (writeSeed s n seed.toNat) (tileBase n) R.VU_RNG_SEED_SEED = seed.toNat := by
  have hset := fld_setFld_seed (regsOk_of_canon hc) n seed.isLt
  cases hrun : (tileAt s n).vu.run with
  | true => rw [writeSeed_of_run hrun, fld_modVu, hset]
  | false => rw [writeSeed_of_idle hrun, fld_clearDraws_seed, hset]

theorem writeSeed_held (hrun : (vuOf s t).run = true) :
    (vuOf (writeSeed s (phys s t) seed.toNat) t).seedHeld = some (rngSeed s (phys s t)) ∧
      ∀ c < 5, rngCtr (writeSeed s (phys s t) seed.toNat) (phys s t) c = rngCtr s (phys s t) c := by
  have hset : Moves [.regs] s (setFld s (tileBase (phys s t)) R.VU_RNG_SEED_SEED seed.toNat) := setFld_moves _ _ _ _ (.refl _ s) ⟨rfl⟩
  have hphys : ∀ g, phys (modVu (setFld s (tileBase (phys s t)) R.VU_RNG_SEED_SEED seed.toNat) (phys s t) g) t = phys s t :=
    fun _ => phys_setFld_tile s _ _ _ t
  rw [writeSeed_of_run hrun]
  refine ⟨?_, fun c h5 => (fld_modVu _ _ _ _ _).trans (rngCtr_setFld_seed s _ _ h5)⟩
  rw [vuOf, hphys, modVu, tileAt_modTile (canon_tiles (hset.canon hc))]

theorem writeSeed_at_once (hrun : (vuOf s t).run = false) :
    (writeSeed s (phys s t) seed.toNat).tiles = s.tiles ∧ ∀ c < 5, rngCtr (writeSeed s (phys s t) seed.toNat) (phys s t) c = 0 := by
  have hset : Moves [.regs] s (setFld s (tileBase (phys s t)) R.VU_RNG_SEED_SEED seed.toNat) := setFld_moves _ _ _ _ (.refl _ s) ⟨rfl⟩
  rw [writeSeed_of_idle hrun]
  exact ⟨(clearDraws_moves _ _ hset ⟨rfl⟩).same .tiles (by decide), fun _ => rngCtr_clearDraws (regsOk_of_canon (hset.canon hc)) _⟩

end

/-! ### What a fault shows -/

section
variable {s : State} (hc : s.canon = true) (n cause : Nat)

/-- After its registers are written, a fault ends the dispatch and halts the stream, which write other words. -/
theorem fld_vuFault {g : Fld} (hhi : g.hi < 32) (hlo : 0x34000 ≤ g.off) (hup : g.off < 0x34020 ∨ (0x34110 ≤ g.off ∧ g.off < 0x35000)) :
    fld (vuFault s n cause) (tileBase n) g = fld (faultShown s n cause) (tileBase n) g := by
  refine fld_of_words ?_ (.inl hhi)
  rw [vuFault_eq, rdReg_failExec _ (by unfold vuBlock; omega),
    rdReg_vuStop _ (by simp only [R.VU_BUSY_TC]; omega) (by unfold ctrWord; omega)]

/-- VU_FAULT keeps what was written while the count and the status bit beside it change. -/
theorem fld_faultShown_fault {g : Fld} (hhi : g.hi < 32) (hoff : g.off = R.VU_FAULT.off) :
    fld (faultShown s n cause) (tileBase n) g =
      fld (setFld (setFld s (tileBase n) R.VU_FAULT_CAUSE cause) (tileBase n) R.VU_FAULT_PC (tileAt s n).vu.pc) (tileBase n) g := by
  refine fld_of_words ?_ (.inl hhi)
  simp only [R.VU_FAULT] at hoff
  rw [faultShown, rdReg_raiseBit_vu _ (by unfold vuBlock; omega) (by simp only [R.VU_STATUS_FAULT]; omega),
    rdReg_count_other _ _ _ _ _ (by simp only [R.VU_FAULT_CNT]; omega) (.inl (by decide))]

include hc

theorem fld_vuFault_status : fld (vuFault s n cause) (tileBase n) R.VU_STATUS_FAULT = 1 := by
  rw [fld_vuFault n cause (by decide) (by decide) (by decide)]
  exact fld_raiseBit_same (regsOk_count (regsOk_setFld (regsOk_setFld (regsOk_of_canon hc) _ _ _) _ _ _) _ _ _) _ _ (by decide)
    (.inr (by simp only [R.VU_STATUS_FAULT, tileBase]; omega))

theorem fld_vuFault_cnt : fld (vuFault s n cause) (tileBase n) R.VU_FAULT_CNT = min (fld s (tileBase n) R.VU_FAULT_CNT + 1) (2 ^ 32 - 1) := by
  rw [fld_vuFault n cause (by decide) (by decide) (by decide), faultShown,
    fld_raiseBit_far _ _ _ _ _ (.inr (by simp only [R.VU_FAULT_CNT, tileBase]; omega)) (.inl (by simp only [R.VU_FAULT_CNT, R.VU_STATUS_FAULT]; omega)),
    fld_count_one (regsOk_setFld (regsOk_setFld (regsOk_of_canon hc) _ _ _) _ _ _) _ rfl rfl,
    fld_setFld_far _ _ _ _ _ _ (.inl (by simp only [R.VU_FAULT_CNT, R.VU_FAULT_PC]; omega)),
    fld_setFld_far _ _ _ _ _ _ (.inl (by simp only [R.VU_FAULT_CNT, R.VU_FAULT_CAUSE]; omega))]

theorem fld_vuFault_cause (hlt : cause < 16) : fld (vuFault s n cause) (tileBase n) R.VU_FAULT_CAUSE = cause := by
  rw [fld_vuFault n cause (by decide) (by decide) (by decide), fld_faultShown_fault n cause (g := R.VU_FAULT_CAUSE) (by decide) rfl,
    fld_setFld_bits (regsOk_setFld (regsOk_of_canon hc) _ _ _) _ R.VU_FAULT_PC R.VU_FAULT_CAUSE _ (by decide) (by decide) rfl (by decide) (by decide),
    fld_setFld_same (regsOk_of_canon hc) _ _ _ (by decide)]
  exact Nat.mod_eq_of_lt hlt

theorem fld_vuFault_pc : fld (vuFault s n cause) (tileBase n) R.VU_FAULT_PC = (tileAt s n).vu.pc % 8192 := by
  rw [fld_vuFault n cause (by decide) (by decide) (by decide), fld_faultShown_fault n cause (g := R.VU_FAULT_PC) (by decide) rfl,
    fld_setFld_same (regsOk_setFld (regsOk_of_canon hc) _ _ _) _ _ _ (by decide)]
  rfl

end

/-! ### The vector unit after a fault -/

section
variable {s x : State} (hc : x.canon = true) {t : Fin 64} {w : Vu} (hx : vuNow s x t w)
include hc hx

theorem vuNow_dropPrefetch : vuNow s (dropPrefetch x (phys s t)) t w := by
  unfold dropPrefetch
  extract_lets k s1 s2
  have h1 : Moves [.regs] x s1 := .ite (fun _ => .refl _ x) fun _ => count_moves _ _ _ _ (.refl _ x) ⟨rfl⟩
  have h2 : Moves [.regs] x s2 := setFld_moves _ _ _ _ h1 ⟨rfl⟩
  exact vuNow_modTile_same (h2.canon hc) (vuNow_of_tiles (h2.same .tiles (by decide)) hx) (fun _ => rfl) fun _ => rfl

theorem vuNow_haltSeq (st idx : Nat) (atExec : Bool) : vuNow s (haltSeq x (phys s t) st idx atExec) t w := by
  unfold haltSeq
  extract_lets tb y next s1 s2 s3 s4 s5
  have h1 : Moves [.regs, .owlFifo, .fwEvents] x s1 := .ite (fun _ => .refl _ x) fun _ => setFld_moves _ _ _ _ (.refl _ x) ⟨rfl⟩
  have h4 : Moves [.regs, .owlFifo, .fwEvents] x s4 :=
    count_moves _ _ _ _ (setFld_moves _ _ _ _ (setFld_moves _ _ _ _ (setFld_moves _ _ _ _ h1 ⟨rfl⟩) ⟨rfl⟩) ⟨rfl⟩) ⟨rfl⟩
  clear_value s4
  have h5 : Moves [.regs, .owlFifo, .fwEvents] x s5 := raiseNamed_moves _ _ _ _ _ _ _ _ _ _ h4 ⟨rfl⟩
  clear_value s5
  have hc5 := h5.canon hc
  exact vuNow_dropPrefetch (canon_modTile hc5 _ _)
    (vuNow_modTile_same hc5 (vuNow_of_tiles (h5.same .tiles (by decide)) hx) (fun _ => rfl) fun _ => rfl)

theorem vuNow_failExec (no st : Nat) : vuNow s (failExec x (phys s t) no st) t w := by
  unfold failExec
  split
  · exact hx
  · refine vuNow_haltSeq (canon_modTile hc _ _) ?_ _ _ _
    exact vuNow_modTile_same hc hx (fun _ => rfl) fun _ => rfl

/-- A fault ends the dispatch (R231). -/
theorem vuNow_vuFault (cause : Nat) : vuNow s (vuFault x (phys s t) cause) t (vuStopped w) := by
  have hshown := moves_faultShown x (phys s t) cause
  have hcs := hshown.canon hc
  rw [vuFault_eq]
  exact vuNow_failExec ((vuStop_moves _ _ (.refl [.regs, .tiles] _) ⟨rfl⟩).canon hcs)
    (vuNow_vuStop hcs (vuNow_of_tiles (hshown.same .tiles (by decide)) hx)) _ _

end

/-! ### The statement -/

theorem execVuWatchdog_of_early {s : State} {t : Fin 64}
    (h : s.now < (vuOf s t).tStart + max 1 (fld s (tileBase (phys s t)) R.VU_CTRL_WDOG) * 1024) : execVuWatchdog t s = .next s := by
  unfold vuOf at h
  simp only [execVuWatchdog, Nat.not_le.2 h, decide_false, Bool.and_false, Bool.false_eq_true, if_false]

theorem execVuWatchdog_of_late {s : State} {t : Fin 64} (hrun : (vuOf s t).run = true)
    (h : (vuOf s t).tStart + max 1 (fld s (tileBase (phys s t)) R.VU_CTRL_WDOG) * 1024 ≤ s.now) :
    execVuWatchdog t s = .next (vuFault s (phys s t) 9) := by
  unfold vuOf at h hrun
  simp only [execVuWatchdog, hrun, h, decide_true, Bool.and_self, if_true]

theorem execVuRngSeedWrite_of_hostUp {s : State} (h : hostUp s = true) (t : Fin 64) (seed : BitVec 64) :
    execVuRngSeedWrite t seed s = .next (writeSeed s (phys s t) seed.toNat) :=
  congrArg Host.Outcome.next (if_pos h)

/-- Settles O33: an instruction of control flow only moves the program counter or ends the dispatch; a seed and a fault are followed through the end of
their dispatch, which writes other words than the ones they show. -/
theorem vuControlResult : Obligations.VuControlResult := by
  refine ⟨fun s t f hc => ?control, fun s t hc => ?seed⟩ <;> dsimp only
  case control =>
    refine ⟨?moves, fun h => ?ends, fun h hlen hk hn => ?enters⟩
    case moves =>
      simp only [List.forall_mem_cons, List.not_mem_nil, false_implies, implies_true, and_true, forall_const]
      refine ⟨fun h hn => ⟨_, rfl, vuMoved_of_done hc h rfl hn⟩, fun h hok hn => ⟨_, rfl, vuMoved_of_vuBranch hc h rfl hok ?bnz hn⟩,
        fun h hok hn => ⟨_, rfl, vuMoved_of_vuBranch hc h rfl hok ?bz hn⟩, fun h hok hn => ?loop⟩
      case bnz => simp only [decide_eq_true_eq]
      case bz => by_cases hz : sGet (vuOf s t) f.va.val = 0 <;> simp [hz]
      case loop =>
        obtain ⟨hlen, hk⟩ := Bool.and_eq_true_iff.1 hok
        exact vuMoved_execLoop hc h (of_decide_eq_true hlen) (of_decide_eq_true hk) hn
    case ends =>
      have hend : vuNow s _ t _ := vuNow_of_finish hc h (go := fun _ _ s => .finish s) rfl
      have hleft := vuLeft_of_vuNow hend
      refine ⟨_, rfl, hleft, ?_⟩
      rw [hend.1]
      exact ⟨rfl, rfl⟩
    case enters =>
      obtain ⟨u, hu, hvu, -⟩ := vuNow_execLoop hc h hlen hk hn
      refine ⟨u, hu, ?_⟩
      rw [hvu, hn.1]
      exact ⟨rfl, rfl⟩
  case seed =>
    refine ⟨fun f h hheld => ?rseed, fun seed hup => ?write, fun hrun => ⟨execVuWatchdog_of_early, fun hlate => ?watchdog⟩⟩
    case rseed =>
      obtain ⟨u, hu, ⟨hseed, hctr⟩, hleft⟩ := seeded_execRseed hc h hheld
      exact ⟨u, hu, hseed, hctr, hleft⟩
    case write =>
      exact ⟨_, execVuRngSeedWrite_of_hostUp hup t seed, fld_writeSeed hc seed _, writeSeed_held hc t seed, writeSeed_at_once hc t seed⟩
    case watchdog =>
      have hstop : vuNow s (vuFault s (phys s t) 9) t (vuStopped (vuOf s t)) := vuNow_vuFault hc ⟨rfl, rfl⟩ 9
      exact ⟨_, execVuWatchdog_of_late hrun hlate, fld_vuFault_cause hc _ 9 (by decide), fld_vuFault_pc hc _ 9, fld_vuFault_status hc _ 9,
        congrArg Vu.run hstop.1, fld_vuFault_cnt hc _ 9⟩

end Sys2Proof.Machine

/-! The streamer's read requests (R295, R298, R301, R306) and the memory controllers' service of them (R304, R307), and the statements O21 and O35. -/

namespace Sys2Proof.Machine

/-! ### Memory controllers -/

theorem canon_mcs {s : State} (h : s.canon = true) : swf (fun _ => ({} : Mc)) s.mcs = true := by
  unfold State.canon at h
  simp only [Bool.and_eq_true] at h
  obtain ⟨⟨⟨⟨⟨⟨⟨⟨-, hmcs⟩, -⟩, -⟩, -⟩, -⟩, -⟩, -⟩, -⟩ := h
  exact hmcs

theorem mcAt_of_mcs {s u : State} (h : u.mcs = s.mcs) (m : Nat) : mcAt u m = mcAt s m := by unfold mcAt; rw [h]

theorem mcs_setMc (s : State) (m : Nat) (x : Mc) : (setMc s m x).mcs = sset (fun _ => {}) s.mcs m x := by simp [setMc]

theorem mcAt_setMc_same {s : State} (hc : s.canon = true) (m : Nat) (x : Mc) : mcAt (setMc s m x) m = x := by
  rw [mcAt, mcs_setMc]
  exact sget_sset_same _ (canon_mcs hc) m x

theorem mcAt_setMc_other (s : State) {m i : Nat} (h : i ≠ m) (x : Mc) : mcAt (setMc s m x) i = mcAt s i := by
  rw [mcAt, mcs_setMc]
  exact sget_sset_other _ _ h x

/-- The queue lengths are shown in the MC's registers, not in a tile's. -/
theorem fld_setMc_tile (s : State) {m : Nat} (hm : m < 24) (x : Mc) (n : Nat) (g : Fld) : fld (setMc s m x) (tileBase n) g = fld s (tileBase n) g := by
  have hfar {f : Fld} (hf : f.off = 8) : mcBase m + f.off + 8 ≤ tileBase n + g.off := by simp only [mcBase, tileBase]; omega
  unfold setMc
  rw [fld_setFld_far _ _ _ _ _ _ (.inl (hfar rfl)), fld_setFld_far _ _ _ _ _ _ (.inl (hfar rfl))]
  exact fld_of_regs rfl _ _

/-! ### Counters of a tile -/

/-- A field of another 32-bit register of the same window keeps its value. -/
theorem fld_setFld_word (s : State) (b : Nat) {f g : Fld} (v : Nat) (hf : f.hi < 32) (hg : g.hi < 32) (h : f.off ≠ g.off) :
    fld (setFld s b f v) b g = fld s b g :=
  fld_setFld_words s b b f g v (.inr (.inr (.inl ⟨hf, hg, by omega⟩)))

theorem fld_count_word (s : State) (b : Nat) {f g : Fld} (k : Nat) (hf : f.hi < 32) (hg : g.hi < 32) (h : f.off ≠ g.off) :
    fld (count s b f k) b g = fld s b g := fld_setFld_word s b _ hf hg h

theorem fld_countAll_word (s : State) (b : Nat) {l : List (Fld × Nat)} {g : Fld} (hl : ∀ p ∈ l, p.1.hi < 32 ∧ p.1.off ≠ g.off) (hg : g.hi < 32) :
    fld (countAll s b l) b g = fld s b g := by
  induction l generalizing s with
  | nil => rfl
  | cons p l ih =>
    obtain ⟨⟨hhi, hoff⟩, hl⟩ := List.forall_mem_cons.1 hl
    rw [countAll, ih _ hl]
    split
    · rfl
    · exact fld_count_word s b _ hhi hg hoff

/-- The tc that a unit waited for a port count beside its read requests. -/
theorem fld_ownWaitEnd_reads (s : State) (n unit : Nat) :
    fld (ownWaitEnd s n unit) (tileBase n) R.STR_RD_REQ = fld s (tileBase n) R.STR_RD_REQ := by
  unfold ownWaitEnd
  split
  · rfl
  · have hown (x : State) (k : Nat) : fld (count x (tileBase n) R.SETT_OWN_STALL k) (tileBase n) R.STR_RD_REQ = fld x (tileBase n) R.STR_RD_REQ :=
      fld_count_word x _ k (by decide) (by decide) (by decide)
    have hstr (x : State) (k : Nat) : fld (count x (tileBase n) R.STR_STALL_OWN k) (tileBase n) R.STR_RD_REQ = fld x (tileBase n) R.STR_RD_REQ :=
      fld_count_word x _ k (by decide) (by decide) (by decide)
    rw [fld_of_regs (modTile_regs _ _ _)]
    split
    · rw [hstr, hown]
    · exact hown _ _

theorem jobs_ownWaitEnd {s : State} (hc : s.canon = true) (n unit : Nat) : (tileAt (ownWaitEnd s n unit) n).jobs = (tileAt s n).jobs := by
  unfold ownWaitEnd
  split
  · rfl
  · extract_lets s1 s2
    have h1 : Moves [.regs] s s1 := count_moves _ _ _ _ (.refl _ s) ⟨rfl⟩
    have h2 : Moves [.regs] s s2 := .ite (fun _ => count_moves _ _ _ _ h1 ⟨rfl⟩) fun _ => h1
    rw [tileAt_modTile (canon_tiles (h2.canon hc)), tileAt_of_tiles (h2.same .tiles (by decide))]

/-- A change of a block after steps that leave the streamer's queue as it was. -/
theorem blkChanged_of_jobs {s x : State} (hx : x.canon = true) {n : Nat} (hj : (tileAt x n).jobs = (tileAt s n).jobs) (id k : Nat) (f : BlkReq → BlkReq) :
    blkChanged s (modBlk x n id k f) n id k f := by
  rw [blkChanged, modBlk, tileAt_modTile (canon_tiles hx), hj]

/-! ### Read requests on their way to the controllers -/

/-- One part of block k of job `id`, an address and a length, sent as a read to the MC of its region. -/
def sendRead (n id k : Nat) (s : State) (p : Nat × Nat) : State :=
  setMc s (stackOf p.1) { mcAt s (stackOf p.1) with
    net := (mcAt s (stackOf p.1)).net ++ [{ stamp := 0, at' := s.now, src := n, write := false, addr := p.1, len := p.2, data := [], dests := [(n, id, k)] }] }

/-- A request that reads the part p for block k of job `id` of tile n. -/
def readsPart (n id k : Nat) (p : Nat × Nat) (r : McReq) : Prop :=
  r.addr = p.1 ∧ r.len = p.2 ∧ r.write = false ∧ r.src = n ∧ r.dests = [(n, id, k)]

section
variable {s : State} (n id k : Nat)

theorem moves_sendReads (ps : List (Nat × Nat)) : Moves [.regs, .mcs] s (ps.foldl (sendRead n id k) s) :=
  .foldl (.refl _ s) fun w p h => setMc_moves w (stackOf p.1) _ h ⟨rfl⟩

theorem fld_sendReads (ps : List (Nat × Nat)) (g : Fld) : fld (ps.foldl (sendRead n id k) s) (tileBase n) g = fld s (tileBase n) g := by
  induction ps generalizing s with
  | nil => rfl
  | cons p ps ih => exact ih.trans (fld_setMc_tile s (stackOf_lt p.1) _ n g)

/-- A request in the network stays there while others are sent. -/
theorem mem_net_sendRead (hc : s.canon = true) {m : Nat} {r : McReq} (h : r ∈ (mcAt s m).net) (p : Nat × Nat) : r ∈ (mcAt (sendRead n id k s p) m).net := by
  unfold sendRead
  by_cases hm : m = stackOf p.1
  · subst hm
    rw [mcAt_setMc_same hc]
    exact List.mem_append_left _ h
  · rwa [mcAt_setMc_other _ hm]

theorem mem_net_sendReads (hc : s.canon = true) {m : Nat} {r : McReq} (h : r ∈ (mcAt s m).net) (ps : List (Nat × Nat)) :
    r ∈ (mcAt (ps.foldl (sendRead n id k) s) m).net := by
  induction ps generalizing s with
  | nil => exact h
  | cons p ps ih => exact ih ((moves_sendReads n id k [p]).canon hc) (mem_net_sendRead n id k hc h p)

theorem exists_readsPart_sendRead (hc : s.canon = true) (p : Nat × Nat) : ∃ r ∈ (mcAt (sendRead n id k s p) (stackOf p.1)).net, readsPart n id k p r := by
  unfold sendRead
  rw [mcAt_setMc_same hc]
  exact ⟨_, List.mem_append_right _ (List.mem_singleton_self _), rfl, rfl, rfl, rfl, rfl⟩

theorem exists_readsPart_sendReads (hc : s.canon = true) {ps : List (Nat × Nat)} {p : Nat × Nat} (hp : p ∈ ps) :
    ∃ r ∈ (mcAt (ps.foldl (sendRead n id k) s) (stackOf p.1)).net, readsPart n id k p r := by
  induction ps generalizing s with
  | nil => exact absurd hp List.not_mem_nil
  | cons q ps ih =>
    have hq : (sendRead n id k s q).canon = true := (moves_sendReads n id k [q]).canon hc
    rcases List.mem_cons.1 hp with rfl | hp
    · obtain ⟨r, hr, hreads⟩ := exists_readsPart_sendRead n id k hc p
      exact ⟨r, mem_net_sendReads n id k hq hr ps, hreads⟩
    · exact ih hq hp

end

/-! ### The issue of a read -/

/-- Slots in use, and the largest number of them on any bank set of a block, shown in STR_STATE. -/
def showIssue (s : State) (n : Nat) (b : BlkReq) : State :=
  let s1 := showSlots s n
  let c := capMax (tileAt s1 n) b
  if fld s1 (tileBase n) R.STR_STATE_CAP_MAX < c then setFld s1 (tileBase n) R.STR_STATE_CAP_MAX c else s1

theorem moves_showIssue (s : State) (n : Nat) (b : BlkReq) : Moves [.regs] s (showIssue s n b) := by
  unfold showIssue
  extract_lets s1 c
  have h1 : Moves [.regs] s s1 := showSlots_moves s n (.refl _ s) ⟨rfl⟩
  exact .ite (fun _ => setFld_moves _ _ _ _ h1 ⟨rfl⟩) fun _ => h1

theorem fld_showIssue_reads (s : State) (n : Nat) (b : BlkReq) : fld (showIssue s n b) (tileBase n) R.STR_RD_REQ = fld s (tileBase n) R.STR_RD_REQ := by
  have hstate (x : State) {f : Fld} (v : Nat) (hhi : f.hi < 32) (hoff : f.off = R.STR_STATE.off) :
      fld (setFld x (tileBase n) f v) (tileBase n) R.STR_RD_REQ = fld x (tileBase n) R.STR_RD_REQ :=
    fld_setFld_word x _ v hhi (by decide) (by rw [hoff]; decide)
  have hslots : fld (showSlots s n) (tileBase n) R.STR_RD_REQ = fld s (tileBase n) R.STR_RD_REQ := by
    rw [showSlots, hstate _ _ (by decide) (by decide), hstate _ _ (by decide) (by decide)]
  unfold showIssue
  extract_lets s1 c
  split
  · rw [hstate _ _ (by decide) (by decide)]
    exact hslots
  · exact hslots

/-- The state in which a read of HBM leaves: a wait for a port is over, and the request, its split and its prefetch are counted. -/
def readCounted (s : State) (n parts : Nat) (pf : Bool) : State :=
  countAll (ownWaitEnd s n 2) (tileBase n) [(R.STR_RD_REQ, 1), (R.STR_SPLIT_CNT, parts - 1), (R.STR_PF_ISSUED, if pf then 1 else 0)]

/-- A block request that was sent now in so many parts. -/
def sentBlk (now parts len : Nat) (pf : Bool) (y : BlkReq) : BlkReq :=
  { y with phase := .flight, parts := parts, pf := pf, pois := false, epochs := [], tIssue := now, data := List.replicate len 0 }

/-- A block request of sett memory, served now with its bytes. -/
def servedBlk (now : Nat) (data : List Byte) (y : BlkReq) : BlkReq := { y with phase := .served, data := data, parts := 0, tIssue := now, tServe := now }

theorem moves_readCounted (s : State) (n parts : Nat) (pf : Bool) : Moves [.regs, .tiles] s (readCounted s n parts pf) :=
  countAll_moves _ _ _ (ownWaitEnd_moves s n 2 (.refl _ s) ⟨rfl⟩) ⟨rfl⟩

theorem jobs_readCounted {s : State} (hc : s.canon = true) (n parts : Nat) (pf : Bool) : (tileAt (readCounted s n parts pf) n).jobs = (tileAt s n).jobs := by
  rw [readCounted, tileAt_of_tiles ((countAll_moves _ _ _ (.refl [.regs] _) ⟨rfl⟩).same .tiles (by decide)), jobs_ownWaitEnd hc]

theorem fld_readCounted {s : State} (hc : s.canon = true) (n parts : Nat) (pf : Bool) :
    fld (readCounted s n parts pf) (tileBase n) R.STR_RD_REQ = min (fld s (tileBase n) R.STR_RD_REQ + 1) (2 ^ 32 - 1) := by
  rw [← fld_ownWaitEnd_reads s n 2, ← fld_count_one (regsOk_of_canon (canon_ownWaitEnd hc n 2)) (tileBase n) (f := R.STR_RD_REQ) rfl rfl]
  rw [readCounted, countAll, if_neg Nat.one_ne_zero]
  exact fld_countAll_word _ _ (by simp [R.STR_SPLIT_CNT, R.STR_PF_ISSUED, R.STR_RD_REQ]) (by decide)

/-- Block b of job `id` in flight, its read counted and none of its parts sent yet. -/
def inFlight (s : State) (n id : Nat) (b : BlkReq) (pf : Bool) : State :=
  modBlk (readCounted s n (regionParts b.addr b.len).length pf) n id b.k (sentBlk s.now (regionParts b.addr b.len).length b.len pf)

section
variable {s : State} (hc : s.canon = true) (n id : Nat) (b : BlkReq) (pf : Bool)
include hc

theorem canon_readCounted (parts : Nat) : (readCounted s n parts pf).canon = true := (moves_readCounted s n parts pf).canon hc

theorem canon_inFlight : (inFlight s n id b pf).canon = true := canon_modBlk (canon_readCounted hc n pf _) _ _ _ _

theorem blkChanged_inFlight : blkChanged s (inFlight s n id b pf) n id b.k (sentBlk s.now (regionParts b.addr b.len).length b.len pf) :=
  blkChanged_of_jobs (canon_readCounted hc n pf _) (jobs_readCounted hc n _ pf) id b.k _

theorem fld_inFlight : fld (inFlight s n id b pf) (tileBase n) R.STR_RD_REQ = min (fld s (tileBase n) R.STR_RD_REQ + 1) (2 ^ 32 - 1) :=
  (fld_modBlk _ n id b.k _ _ _).trans (fld_readCounted hc n _ pf)

end

section
variable {s : State} {n : Nat} {j : StrJob} {b : BlkReq} {pf : Bool} (hpick : strPick s n (strOrder (tileAt s n)) = .go j b pf) (hw : j.write = false)
include hpick hw

theorem streamerIssue_of_hbm (hb : b.sett = false) (hslots : (((tileAt s n).jobs.flatMap (·.blks)).filter holdsSlot).length < 48) :
    streamerIssue s n = showIssue ((regionParts b.addr b.len).foldl (sendRead n j.id b.k) (inFlight s n j.id b pf)) n b := by
  simp only [streamerIssue, hpick, hw, hb, Nat.not_le.2 hslots, Bool.false_eq_true, if_false]
  rfl

theorem streamerIssue_of_sett (hb : b.sett = true) :
    streamerIssue s n = modBlk (count (ownWaitEnd s n 2) (tileBase n) R.STR_RD_REQ 1) n j.id b.k
      (servedBlk s.now (settRead (tileAt (ownWaitEnd s n 2) n) b.addr b.len)) := by
  simp only [streamerIssue, hpick, hw, hb, Bool.false_eq_true, if_false, if_true]
  rfl

end

/-- Settles O21: the pick decides between the two ways to issue. A read of HBM is its count, the change of its block, a request for each part, which no
later one takes out of a controller's network again, and the slots shown; a read of sett memory is its count and the change of its block. -/
theorem streamerIssues : Obligations.StreamerIssues := by
  intro s t j b pf hc n tb x hpick hw
  refine ⟨fun hb hslots => ?hbm, fun hb => ?sett⟩
  case hbm =>
    have hsent := moves_sendReads (s := inFlight s n j.id b pf) n j.id b.k (regionParts b.addr b.len)
    have hshown := moves_showIssue ((regionParts b.addr b.len).foldl (sendRead n j.id b.k) (inFlight s n j.id b pf)) n b
    refine ⟨_, congrArg Host.Outcome.next (streamerIssue_of_hbm hpick hw hb hslots), ?_, ?_, fun p hp => ?_⟩
    · rw [blkChanged, tileAt_of_tiles (hshown.same .tiles (by decide)), tileAt_of_tiles (hsent.same .tiles (by decide))]
      exact blkChanged_inFlight hc n j.id b pf
    · exact (fld_showIssue_reads _ n b).trans ((fld_sendReads n j.id b.k _ _).trans (fld_inFlight hc n j.id b pf))
    · rw [mcAt_of_mcs (hshown.same .mcs (by decide))]
      exact exists_readsPart_sendReads n j.id b.k (canon_inFlight hc n j.id b pf) hp
  case sett =>
    have h0 := canon_ownWaitEnd hc n 2
    have hmoves : Moves [.regs, .tiles] s (streamerIssue s n) := by
      rw [streamerIssue_of_sett hpick hw hb]
      exact modBlk_moves _ _ _ _ _ (count_moves _ _ _ _ (ownWaitEnd_moves s n 2 (.refl _ s) ⟨rfl⟩) ⟨rfl⟩) ⟨rfl⟩
    refine ⟨_, rfl, hmoves.same .hbm (by decide), hmoves.same .mcs (by decide), ?_⟩
    rw [streamerIssue_of_sett hpick hw hb]
    constructor
    · refine blkChanged_of_jobs (canon_count h0 _ _ _) ?_ j.id b.k _
      rw [tileAt_of_tiles (count_tiles _ _ _ _), jobs_ownWaitEnd hc]
    · exact (fld_count_one (regsOk_of_canon h0) tb (f := R.STR_RD_REQ) rfl rfl).trans (by rw [fld_ownWaitEnd_reads]; rfl)

/-! ### A served write beyond the stacks -/

theorem hbmWrite_of_beyond (s : State) {a : Nat} (h : hbmEnd ≤ a) (bs : List Byte) : hbmWrite s a bs = s := by
  rw [hbmWrite, Nat.sub_eq_zero_of_le h]
  rfl

/-- A served write beyond the stacks (R293) leaves HBM as it was. -/
theorem hbm_mcServe_of_beyond {s : State} {m : Nat} {r : McReq} {why : Nat} (hr : mcChoose s m = some (r, why)) (hw : r.write = true)
    (ha : hbmEnd ≤ r.addr) (corr : Nat) (unc : Bool) : (mcServe s m corr unc).hbm = s.hbm := by
  simp only [mcServe, hr, hw, if_true, hbmWrite_of_beyond _ ha]
  refine (Moves.foldl (l := [.regs, .mcs, .tiles]) ?_ fun w d h => modBlk_moves w d.1 d.2.1 d.2.2 _ h ⟨rfl⟩).same .hbm (by decide)
  refine bumpEpoch_moves _ _ (count_moves _ _ _ _ (mcRemove_moves _ _ _ ?_ ⟨rfl⟩) ⟨rfl⟩) ⟨rfl⟩
  exact .ite (fun _ => count_moves _ _ _ _ (.refl _ s) ⟨rfl⟩) fun _ => .refl _ s

/-- A write of one byte to the first address beyond the stacks. -/
def beyondReq : McReq := { stamp := 0, at' := 0, src := 0, write := true, addr := hbmEnd, len := 1, data := [1], dests := [] }

/-- Controller 16, where that address would lie, drains a queue that holds this write alone. -/
def beyondState : State := { mcs := [(16, { wrq := [beyondReq], draining := true })] }

/-- Refutes O35: its clause on a served write has no bound on the request's address. Controller 16 of `beyondState` serves `beyondReq`, whose byte lies
beyond the stacks (R293), where a write reaches nothing: the byte reads 0 afterwards and not the 1 that was written. -/
theorem not_memoryControllerEvents : ¬ Obligations.MemoryControllerEvents := by
  intro h
  obtain ⟨-, hserve, -⟩ := h beyondState 16 (by decide)
  have hchoose : mcChoose beyondState (16 : Fin 24) = some (beyondReq, 0) := by decide
  obtain ⟨hwrite, -⟩ := hserve beyondReq 0 0 false hchoose (by decide)
  obtain ⟨u, hu, hread, -⟩ := hwrite rfl
  have hu : mcServe beyondState (16 : Fin 24) 0 false = u := Host.Outcome.next.inj hu
  have hhbm : u.hbm = beyondState.hbm := hu ▸ hbm_mcServe_of_beyond hchoose rfl (Nat.le_refl _) 0 false
  rw [hbmRead, hhbm] at hread
  exact absurd hread (by decide)

end Sys2Proof.Machine

/-! The Marten update unit (R328–R336, R345, R346): the operations of its programs, the start of an update, its visits and its seed, and the statement O36. -/

namespace Sys2Proof.Machine

/-! ### The fields of an operation word (R334) -/

theorem bits_opWord {op d a b c : Nat} (hop : op < 64) (hd : d < 32) (ha : a < 32) (hb : b < 32) (hc : c < 32) :
    bits (opWord op d a b c).toNat 31 26 = op ∧ bits (opWord op d a b c).toNat 25 21 = d ∧ bits (opWord op d a b c).toNat 20 16 = a ∧
      bits (opWord op d a b c).toNat 15 11 = b ∧ bits (opWord op d a b c).toNat 10 6 = c := by
  simp only [opWord, bits, BitVec.toNat_ofNat]
  omega

/-! ### Element-wise operations (R335) -/

theorem length_opMap (op free : Nat) (la lb lc : List Word) : (opMap op free la lb lc).1.length = min la.length (min lb.length lc.length) := by
  induction la generalizing free lb lc with
  | nil => simp [opMap]
  | cons a ta ih =>
    cases lb with
    | nil => simp [opMap]
    | cons b tb =>
      cases lc with
      | nil => simp [opMap]
      | cons c tc =>
        simp only [opMap, List.length_cons, ih]
        omega

/-- Each element is the operation on the elements at its place, with the free value of its place in the order. -/
theorem getD_opMap (op free : Nat) (la lb lc : List Word) {i : Nat} (hi : i < (opMap op free la lb lc).1.length) :
    (opMap op free la lb lc).1.getD i 0 = (opElem op (free + i) (fp32Dec (la.getD i 0)) (fp32Dec (lb.getD i 0)) (fp32Dec (lc.getD i 0))).1 := by
  induction la generalizing free lb lc i with
  | nil => exact absurd hi (by simp [length_opMap])
  | cons a ta ih =>
    cases lb with
    | nil => exact absurd hi (by simp [length_opMap])
    | cons b tb =>
      cases lc with
      | nil => exact absurd hi (by simp [length_opMap])
      | cons c tc =>
        cases i with
        | zero => rfl
        | succ i =>
          simp only [opMap, List.length_cons, Nat.add_lt_add_iff_right] at hi
          rw [Nat.add_comm i, ← Nat.add_assoc, Nat.add_comm 1]
          exact ih _ _ _ hi

/-- Elements that an operation with a destination of kind k gives. -/
def kindLen (k : Nat) : Nat := if k = 0 then 16384 else if k = 1 then 512 else if k = 2 then 32 else 1

/-- Source number j of an operation that uses n of them; zeros where it does not use it. -/
def opSrc (v : MVisit) (regs : List Word) (k n j c : Nat) : List Word := if j ≤ n then srcVals v regs k c else List.replicate (kindLen k) 0

/-- The code in an unused source's field is not looked at. -/
theorem opSrc_ite (v : MVisit) (regs : List Word) (k n j c : Nat) : opSrc v regs k n j (if j ≤ n then c else 0) = opSrc v regs k n j c := by
  unfold opSrc
  split <;> rfl

/-! ### One operation on the operand buffers -/

/-- The means that an operation of opcode `op` takes of a source's values, with their saturations (R336). -/
def meansOf (op : Nat) (src : List Word) : List (Word × Nat) :=
  if op = 16 then (rowsOf src).map (meanOf 5) else if op = 17 then (colsOf src).map (meanOf 9) else if op = 18 then [meanOf 14 src]
  else [meanOf (if src.length = 512 then 9 else 5) src]

section
variable (s : State) (m : Nat) (v : MVisit) (regs : List Word)

theorem runOp_of_end : runOp s m v regs (opWord 0 0 0 0 0) = ({ v with ended := true }, s) := rfl

variable {op d a b c : Nat} (hd : d < 32) (ha : a < 32) (hb : b < 32) (hc : c < 32)
include hd ha hb hc

theorem runOp_of_elem {n : Nat} (h0 : op ≠ 0) (h16 : op < 16) (hn : opSources op = some n) :
    (runOp s m v regs (opWord op d a b c)).1 = putOp { v with pc := v.pc + 1 } d
      (opMap op s.freeCtr (srcVals v regs (opKind d) a) (opSrc v regs (opKind d) n 2 b) (opSrc v regs (opKind d) n 3 c)).1 := by
  obtain ⟨wop, wd, wa, wb, wc⟩ := bits_opWord (op := op) (by omega) hd ha hb hc
  simp only [runOp, wop, wd, wa, wb, wc, h0, Nat.not_le.2 h16, if_false, hn, Option.getD_some]
  rfl

theorem runOp_of_mean (h16 : 16 ≤ op) (hop : op < 64) :
    (runOp s m v regs (opWord op d a b c)).1 = putOp { v with pc := v.pc + 1 } d ((meansOf op (opVals v regs a)).map (·.1)) := by
  obtain ⟨wop, wd, wa, -, -⟩ := bits_opWord hop hd ha hb hc
  have h0 : op ≠ 0 := by omega
  simp only [runOp, wop, wd, wa, h0, h16, if_false, if_true]
  rfl

end

/-! ### The operations' commands -/

/-- A command of an element-wise operation: its opcode, the sources that it uses, and its value of one element. -/
structure ElemCmd (m : Fin 24) (d a b c : Fin 32) (op : Nat) (cmd : Instr) (n : Nat) (value : Nat → FVal → FVal → FVal → Word) : Prop where
  ne_zero : op ≠ 0
  lt : op < 16
  sources : opSources op = some n
  exec : ∀ s, exec cmd s = mOp s m op d a (if 2 ≤ n then b.val else 0) (if 3 ≤ n then c.val else 0)
  value : ∀ free x y z, value free x y z = (opElem op free x y z).1

theorem elemCmd_of_mem {m : Fin 24} {d a b c : Fin 32} : ∀ p ∈ martenOps m d a b c, ElemCmd m d a b c p.1 p.2.1 p.2.2.1 p.2.2.2 := by
  simp only [martenOps, List.forall_mem_cons, List.not_mem_nil, false_implies, implies_true, and_true]
  and_intros <;> exact ⟨by decide, by decide, rfl, fun _ => rfl, fun _ _ _ _ => rfl⟩

/-- A command of a mean: its opcode, and the values that it gives of its source. -/
structure MeanCmd (m : Fin 24) (d a : Fin 32) (op : Nat) (cmd : Instr) (value : List Word → List Word) : Prop where
  le : 16 ≤ op
  lt : op < 64
  exec : ∀ s, exec cmd s = mOp s m op d a 0 0
  value : ∀ x, value x = (meansOf op x).map (·.1)

theorem meanCmd_of_mem {m : Fin 24} {d a : Fin 32} : ∀ p ∈ martenMeans m d a, MeanCmd m d a p.1 p.2.1 p.2.2 := by
  simp only [martenMeans, List.forall_mem_cons, List.not_mem_nil, false_implies, implies_true, and_true]
  refine ⟨⟨by decide, by decide, fun _ => rfl, fun x => ?_⟩, ⟨by decide, by decide, fun _ => rfl, fun x => ?_⟩,
    ⟨by decide, by decide, fun _ => rfl, fun _ => rfl⟩, ⟨by decide, by decide, fun _ => rfl, fun _ => rfl⟩⟩
  · exact (List.map_map ..).symm
  · exact (List.map_map ..).symm

/-! ### The update in progress -/

theorem mcs_setUpd (s : State) (m : Nat) (u : Option MUpd) : (setUpd s m u).mcs = (modMc s m fun x => { x with upd := u }).mcs := by
  cases u <;> simp [setUpd]

theorem mcAt_modMc_same {s : State} (hc : s.canon = true) (m : Nat) (f : Mc → Mc) : mcAt (modMc s m f) m = f (mcAt s m) :=
  sget_sset_same _ (canon_mcs hc) m _

theorem mcAt_setUpd {s : State} (hc : s.canon = true) (m : Nat) (u : Option MUpd) : mcAt (setUpd s m u) m = { mcAt s m with upd := u } := by
  rw [mcAt_of_mcs (mcs_setUpd s m u), mcAt_modMc_same hc]

theorem mq_setUpd {s : State} (hc : s.canon = true) (m : Nat) (u : Option MUpd) : (mcAt (setUpd s m u) m).mq = (mcAt s m).mq := by
  rw [mcAt_setUpd hc]

theorem upd_setUpd {s : State} (hc : s.canon = true) (m : Nat) (u : Option MUpd) : (mcAt (setUpd s m u) m).upd = u := by
  rw [mcAt_setUpd hc]

theorem hbm_setUpd (s : State) (m : Nat) (u : Option MUpd) : (setUpd s m u).hbm = s.hbm :=
  (setUpd_moves s m u (.refl [.regs, .mcs] s) ⟨rfl⟩).same .hbm (by decide)

/-- BUSY is set first, and the entry, slice and block shown after it lie in other bits of MRT_STATE. -/
theorem fld_setUpd_busy {s : State} (hc : s.canon = true) (m : Nat) (u : MUpd) : fld (setUpd s m (some u)) (mcBase m) R.MRT_STATE_BUSY = 1 := by
  have hkeep {x : State} (hx : regsOk x) (f : Fld) (v : Nat) (hf : f.ok) (hhi : f.hi < 31) (hoff : f.off = R.MRT_STATE_BUSY.off) :
      fld (setFld x (mcBase m) f v) (mcBase m) R.MRT_STATE_BUSY = fld x (mcBase m) R.MRT_STATE_BUSY :=
    fld_setFld_bits hx _ _ _ v hf (by decide) hoff.symm (iff_of_true (by omega) (by decide)) (.inl hhi)
  have h0 : regsOk (modMc s m fun x => { x with upd := some u }) := (regsOk_of_canon hc : regsOk s)
  have h1 := regsOk_setFld h0 (mcBase m) R.MRT_STATE_BUSY 1
  have h2 := regsOk_setFld h1 (mcBase m) R.MRT_STATE_ENTRY u.entry
  have h3 := regsOk_setFld h2 (mcBase m) R.MRT_STATE_SLICE u.sigma
  rw [setUpd, hkeep h3 R.MRT_STATE_BLOCK _ (by decide) (by decide) rfl, hkeep h2 R.MRT_STATE_SLICE _ (by decide) (by decide) rfl,
    hkeep h1 R.MRT_STATE_ENTRY _ (by decide) (by decide) rfl, fld_setFld_same h0 _ _ _ (by decide)]
  rfl

/-! ### One operation of the armed program -/

/-- The registers that an update's program reads: those of its armed copy. -/
def updRegs (u : MUpd) : List Word := (u.armed.getD { bucket := u.bucket, regs := [], prog := [] }).regs

section
variable {s : State} {m : Nat} {u : MUpd} {v : MVisit} {w : Word} (h : martenAt s m u v w)
include h

theorem opStep_of_martenAt :
    opStep s m w = setUpd (runOp s m v (updRegs u) w).2 m (some { u with visit := some (runOp s m v (updRegs u) w).1 }) := by
  obtain ⟨hupd, hentry, hvisit, hended, hpc, hw⟩ := h
  obtain ⟨e, he⟩ := Option.isSome_iff_exists.1 hentry
  simp only [opStep, hupd, he, hvisit, hended, Nat.not_le.2 hpc, hw, ne_eq, not_true, decide_false, Bool.or_false, Bool.false_eq_true, if_false]
  rfl

/-- The operation that is next leaves its buffers in the update, and HBM as it was. -/
theorem upd_opStep_of_martenAt (hc : s.canon = true) :
    (mcAt (opStep s m w) m).upd = some { u with visit := some (runOp s m v (updRegs u) w).1 } ∧ (opStep s m w).hbm = s.hbm := by
  have hrun := runOp_moves s m v (updRegs u) w (.refl [.freeCtr, .regs] s) ⟨rfl⟩
  rw [opStep_of_martenAt h, upd_setUpd (hrun.canon hc), hbm_setUpd]
  exact ⟨rfl, hrun.same .hbm (by decide)⟩

end

/-! ### Memory writes (R307) -/

theorem hbm_memWrite (s : State) (a : Nat) (bs : List Byte) : (memWrite s a bs).hbm = (hbmWrite s a bs).hbm :=
  (Moves.foldl (.refl [.regs, .mcs] _) fun w p h => bumpEpoch_moves _ p.1 (count_moves w _ _ 1 h ⟨rfl⟩) ⟨rfl⟩).same .hbm (by decide)

theorem hbm_memWrite_of_hbm {s t : State} (h : t.hbm = s.hbm) (a : Nat) (bs : List Byte) : (memWrite t a bs).hbm = (memWrite s a bs).hbm := by
  rw [hbm_memWrite, hbm_memWrite, hbmWrite, hbmWrite, h]

/-- What a local write leaves in HBM depends on HBM alone. -/
theorem hbm_localWrite_of_hbm {s t : State} (h : t.hbm = s.hbm) (m L : Nat) (bs : List Byte) : (localWrite t m L bs).hbm = (localWrite s m L bs).hbm := by
  unfold localWrite
  generalize allParts _ _ _ = parts
  induction parts generalizing s t with
  | nil => exact h
  | cons p parts ih => exact ih (hbm_memWrite_of_hbm h _ _)

theorem hbm_putPhase_of_same {s t : State} (hregs : t.regs = s.regs) (h : t.hbm = s.hbm) (m : Nat) (e : BktEntry) (phase : Nat) (armed : Bool) :
    (putPhase t m e phase armed).hbm = (putPhase s m e phase armed).hbm := by
  have haddr : bktAddr t m e.idx = bktAddr s m e.idx := by rw [bktAddr, bktAddr, fld_of_regs hregs]
  rw [putPhase, putState, haddr]
  exact hbm_localWrite_of_hbm h _ _ _

/-- The updates that wait at MC i stand through a sequence of steps that each leave them. -/
theorem mq_foldl {α : Type} {g : State → α → State} {i : Nat}
    (hg : ∀ w x, w.canon = true → (g w x).canon = true ∧ (mcAt (g w x) i).mq = (mcAt w i).mq) {s : State} (hc : s.canon = true) (xs : List α) :
    (mcAt (xs.foldl g s) i).mq = (mcAt s i).mq := by
  induction xs generalizing s with
  | nil => rfl
  | cons x xs ih =>
    obtain ⟨hcx, hmq⟩ := hg s x hc
    exact (ih hcx).trans hmq

theorem mq_bumpEpoch {s : State} (hc : s.canon = true) (a i : Nat) : (mcAt (bumpEpoch s a) i).mq = (mcAt s i).mq := by
  by_cases h : i = stackOf a
  · subst h
    exact (congrArg Mc.mq (sget_sset_same _ (canon_mcs hc) _ _ : mcAt (bumpEpoch s a) (stackOf a) = _)).trans rfl
  · exact congrArg Mc.mq (sget_sset_other _ _ h _)

section
variable {s : State} (hc : s.canon = true) (i : Nat)
include hc

theorem mq_memWrite (a : Nat) (bs : List Byte) : (mcAt (memWrite s a bs) i).mq = (mcAt s i).mq := by
  refine (mq_foldl (fun w p hw => ?_) ((hbmWrite_moves s a bs (.refl [.hbm] s) ⟨rfl⟩).canon hc) _).trans rfl
  have hcount := canon_count hw (mcBase (stackOf p.1)) R.MC_WR_CNT 1
  refine ⟨(bumpEpoch_moves _ p.1 (.refl [.mcs] _) ⟨rfl⟩).canon hcount, ?_⟩
  rw [mq_bumpEpoch hcount, mcAt_of_mcs (count_mcs _ _ _ _)]

theorem mq_localWrite (m L : Nat) (bs : List Byte) : (mcAt (localWrite s m L bs) i).mq = (mcAt s i).mq :=
  mq_foldl (fun w _ hw => ⟨(memWrite_moves w _ _ (.refl [.regs, .hbm, .mcs] w) ⟨rfl⟩).canon hw, mq_memWrite hw i _ _⟩) hc _

theorem mq_putPhase (m : Nat) (e : BktEntry) (phase : Nat) (armed : Bool) : (mcAt (putPhase s m e phase armed) i).mq = (mcAt s i).mq :=
  mq_localWrite hc i m _ _

end

/-! ### The start of an update (R328, R329) -/

/-- The update of a bucket that starts now at MC m. -/
def newUpd (s : State) (m bucket : Nat) (ar : Option Armed) (e : BktEntry) : MUpd :=
  { bucket := bucket, entry := e.idx, k := kOf (uaccOf e) e.div, d := e.div, armed := ar, sigma := (mcSlices e m).headD 0, blk := 0,
    visit := none, full := [], cands := [], t0 := s.now }

/-- A bucket has left MC m's queue, with no block of it visited. -/
def dequeued (s : State) (m bucket : Nat) (rest : List (Nat × Option Armed)) : State := modMc (clearVisited s m bucket) m fun x => { x with mq := rest }

theorem moves_dequeued (s : State) (m bucket : Nat) (rest : List (Nat × Option Armed)) : Moves [.mcs] s (dequeued s m bucket rest) :=
  modMc_moves _ _ _ (clearVisited_moves s m bucket (.refl _ s) ⟨rfl⟩) ⟨rfl⟩

/-- The bucket is UPDATING, and its update is in progress. -/
def started (s : State) (m bucket : Nat) (ar : Option Armed) (rest : List (Nat × Option Armed)) (e : BktEntry) : State :=
  setUpd (putPhase (dequeued s m bucket rest) m e 3 (armedOf e)) m (some (newUpd s m bucket ar e))

theorem martenStart_of_good {s : State} {m bucket : Nat} {ar : Option Armed} {rest : List (Nat × Option Armed)} {e : BktEntry}
    (hen : fld s (mcBase m) R.MRT_CTRL_ENABLE = 1) (hidle : (mcAt s m).upd = none) (hq : (mcAt s m).mq = (bucket, ar) :: rest)
    (he : findEntry s m bucket = some e) (hclose : beforeClose s m bucket e.vnew = false) (hok : entryOk e = true)
    (hprog : e.div = 0 ∨ ∃ q, ar = some q ∧ progOk e.fmt q.prog = true) (hslices : mcSlices e m ≠ []) :
    martenStart s m = started s m bucket ar rest e := by
  have hgo : (!fldOn s (mcBase m) R.MRT_CTRL_ENABLE || (mcAt s m).upd.isSome) = false := by simp [fldOn, hen, hidle]
  simp only [martenStart, hgo, hq, he, hclose, hok, hslices, Bool.not_true, Bool.false_eq_true, if_false]
  rw [if_neg]
  · rfl
  · rintro ⟨hdiv, hbad⟩
    obtain ⟨q, rfl, hgood⟩ := hprog.resolve_left hdiv
    simp [hgood] at hbad

section
variable {s : State} (hc : s.canon = true) (m bucket : Nat) (ar : Option Armed) (rest : List (Nat × Option Armed)) (e : BktEntry)
include hc

theorem canon_dequeued : (dequeued s m bucket rest).canon = true := (moves_dequeued s m bucket rest).canon hc

theorem canon_updating : (putPhase (dequeued s m bucket rest) m e 3 (armedOf e)).canon = true :=
  (putPhase_moves _ m e 3 _ (.refl [.regs, .hbm, .mcs] _) ⟨rfl⟩).canon (canon_dequeued hc m bucket rest)

theorem mq_dequeued : (mcAt (dequeued s m bucket rest) m).mq = rest := by
  rw [dequeued, mcAt_modMc_same ((clearVisited_moves s m bucket (.refl [.mcs] s) ⟨rfl⟩).canon hc)]

theorem mq_started : (mcAt (started s m bucket ar rest e) m).mq = rest :=
  calc (mcAt (started s m bucket ar rest e) m).mq
    _ = (mcAt (putPhase (dequeued s m bucket rest) m e 3 (armedOf e)) m).mq := mq_setUpd (canon_updating hc m bucket rest e) m _
    _ = (mcAt (dequeued s m bucket rest) m).mq := mq_putPhase (canon_dequeued hc m bucket rest) m m e 3 _
    _ = rest := mq_dequeued hc m bucket rest

theorem upd_started : (mcAt (started s m bucket ar rest e) m).upd = some (newUpd s m bucket ar e) :=
  upd_setUpd (canon_updating hc m bucket rest e) m _

theorem fld_started_busy : fld (started s m bucket ar rest e) (mcBase m) R.MRT_STATE_BUSY = 1 :=
  fld_setUpd_busy (canon_updating hc m bucket rest e) m _

omit hc in
theorem hbm_started : (started s m bucket ar rest e).hbm = (putPhase s m e 3 (armedOf e)).hbm := by
  have h := moves_dequeued s m bucket rest
  rw [started, hbm_setUpd]
  exact hbm_putPhase_of_same (h.same .regs (by decide)) (h.same .hbm (by decide)) m e 3 _

end

/-! ### Visits (R330–R332, R345) -/

section
variable {s : State} {m : Nat} {u : MUpd} {e : BktEntry} (hupd : (mcAt s m).upd = some u) (he : findEntry s m u.bucket = some e)
include hupd he

theorem blockVisit_of_visit {v : MVisit} (hv : u.visit = some v) (res bad listBad : Nat) :
    blockVisit s m res bad listBad = finishVisit s m u e v res bad listBad := by simp only [blockVisit, hupd, he, hv]

theorem blockVisit_of_not_full (hv : u.visit = none) (hen : fld s (mcBase m) R.MRT_CTRL_ENABLE = 1) (hfull : fullVisit s m u e = false)
    (res bad listBad : Nat) : blockVisit s m res bad listBad = restampBlock s m u e bad listBad := by
  simp [blockVisit, hupd, he, hv, fldOn, hen, hfull]

end

/-- A visit that leaves no NaN, on a run with no residue mismatch, is written and counted (R330, R344, R345). -/
theorem finishVisit_of_clean {s : State} {m : Nat} {u : MUpd} {e : BktEntry} {v : MVisit} {r : MVisit × State}
    (hr : runProg m (updRegs u) (u.armed.getD { bucket := u.bucket, regs := [], prog := [] }).prog 32 (v, s) = r) (hnan : visitNan r.1 = false)
    (bad listBad : Nat) :
    finishVisit s m u e v 0 bad listBad =
      blockDone (count (writeVisit (mcDraws r.2 m 0 32) m u e r.1 (projBlock r.2 m e u.blk (r.1.el.getD 0 []))) (mcBase m) R.MRT_BLK_CNT 1) m u e
        (some (projBlock r.2 m e u.blk (r.1.el.getD 0 []))) listBad := by
  unfold updRegs at hr
  simp [finishVisit, hr, hnan]

section
variable {s : State} {m : Nat} {u : MUpd} {e : BktEntry} {bad : Nat} (listBad : Nat)

theorem restampBlock_of_readable (h : (readChecked s m (projAddr e u.sigma u.blk) (projExpect e u.sigma u.blk) bad).2.1 = true) :
    let rd := readChecked s m (projAddr e u.sigma u.blk) (projExpect e u.sigma u.blk) bad
    restampBlock s m u e bad listBad = blockDone (count (localWrite rd.2.2 m (projAddr e u.sigma u.blk)
      (restamp rd.1 { trailerOf rd.1 with version := e.vnew % 2 ^ 48 })) (mcBase m) R.MRT_RESTAMP 1) m u e none listBad := by
  simp only [restampBlock, h, Bool.not_true, Bool.false_eq_true, if_false]

theorem restampBlock_of_unreadable (h : (readChecked s m (projAddr e u.sigma u.blk) (projExpect e u.sigma u.blk) bad).2.1 = false) :
    restampBlock s m u e bad listBad =
      failUpd (readChecked s m (projAddr e u.sigma u.blk) (projExpect e u.sigma u.blk) bad).2.2 m u 1 u.sigma u.blk false := by
  simp only [restampBlock, h, Bool.not_false, if_true]

end

/-! ### The seed (R346) -/

/-- The three counters are cleared one after another, beside the seed. -/
theorem fld_mrtSeed_seed {s : State} (hs : regsOk s) (m : Nat) {seed : Nat} (hlt : seed < 2 ^ 64) :
    fld (mrtSeed s m seed) (mcBase m) R.MRT_SEED_SEED = seed := by
  have hctr (x : State) (c : Nat) : fld (setFld x (mcBase m) (fldAt R.MRT_RNG_CTR_COUNT c) 0) (mcBase m) R.MRT_SEED_SEED = fld x (mcBase m) R.MRT_SEED_SEED :=
    fld_setFld_far _ _ _ _ _ _ (.inr (by simp only [fldAt, R.MRT_RNG_CTR_COUNT, R.MRT_SEED_SEED]; omega))
  calc fld (mrtSeed s m seed) (mcBase m) R.MRT_SEED_SEED
    _ = fld (setFld s (mcBase m) R.MRT_SEED_SEED seed) (mcBase m) R.MRT_SEED_SEED := ((hctr _ 2).trans (hctr _ 1)).trans (hctr _ 0)
    _ = seed := (fld_setFld_same hs _ _ seed (by decide)).trans (Nat.mod_eq_of_lt hlt)

theorem fld_clear_mrtCtr {s : State} (hs : regsOk s) (m c d : Nat) :
    fld (setFld s (mcBase m) (fldAt R.MRT_RNG_CTR_COUNT d) 0) (mcBase m) (fldAt R.MRT_RNG_CTR_COUNT c) =
      if c = d then 0 else fld s (mcBase m) (fldAt R.MRT_RNG_CTR_COUNT c) := by
  split
  · next e => exact e ▸ fld_setFld_same hs _ _ 0 ⟨Nat.zero_le _, (by decide : 47 < 64)⟩
  · next e => exact fld_setFld_far s _ _ _ _ 0 (by simp only [fldAt, R.MRT_RNG_CTR_COUNT]; omega)

theorem fld_mrtSeed_ctr {s : State} (hs : regsOk s) (m seed : Nat) {c : Nat} (hc : c < 3) :
    fld (mrtSeed s m seed) (mcBase m) (fldAt R.MRT_RNG_CTR_COUNT c) = 0 := by
  have hmem : c ∈ List.range 3 ∨ fld (setFld s (mcBase m) R.MRT_SEED_SEED seed) (mcBase m) (fldAt R.MRT_RNG_CTR_COUNT c) = 0 := .inl (List.mem_range.2 hc)
  replace hs := regsOk_setFld hs (mcBase m) R.MRT_SEED_SEED seed
  unfold mrtSeed
  generalize setFld s (mcBase m) R.MRT_SEED_SEED seed = x at hmem hs
  generalize List.range 3 = l at hmem
  induction l generalizing x with
  | nil => exact hmem.resolve_left List.not_mem_nil
  | cons d l ih =>
    refine ih _ (regsOk_setFld hs _ _ _) ?_
    rw [fld_clear_mrtCtr hs]
    split
    · exact .inr rfl
    · next e => exact hmem.imp_left fun h => (List.mem_cons.1 h).resolve_left e

/-! ### The statement -/

/-- Settles O36: every operation is the one step that `opStep_of_martenAt` gives, on the buffers that `runOp` gives by the kind of its opcode; the
start, the visits and the seed follow from the equation of the branch that each takes. -/
theorem martenEvents : Obligations.MartenEvents := by
  constructor
  case left =>
    intro s m u v d a b c hc p hp regs k n1 sa sb sc hat
    have hcmd := elemCmd_of_mem p hp
    obtain ⟨hupd, hhbm⟩ := upd_opStep_of_martenAt hat hc
    refine ⟨_, (opMap p.1 s.freeCtr sa sb sc).1, hcmd.exec s, ?_, hhbm, length_opMap _ _ _ _ _, fun i hi => ?_⟩
    · rw [hupd, runOp_of_elem s m v (updRegs u) d.isLt a.isLt (by split <;> omega) (by split <;> omega) hcmd.ne_zero hcmd.lt hcmd.sources, opSrc_ite, opSrc_ite]
      rfl
    · rw [getD_opMap _ _ _ _ _ hi, hcmd.value]
  case right =>
    intro s m hc mb
    refine ⟨fun u v d a p hp hat => ?mean, fun u v hat => ?finish, fun bucket ar rest e hen hidle hq he hclose hok hprog hslices => ?start,
      fun u e v bad listBad hupd he hv => ?visit, fun u e bad listBad hupd he hv hen hfull => ?restamp, fun seed hup => ?seed⟩
    case mean =>
      have hcmd := meanCmd_of_mem p hp
      obtain ⟨hupd, hhbm⟩ := upd_opStep_of_martenAt hat hc
      refine ⟨_, hcmd.exec s, hhbm, ?_⟩
      rw [hupd, runOp_of_mean s m v (updRegs u) d.isLt a.isLt (by decide) (by decide) hcmd.le hcmd.lt, ← hcmd.value]
      rfl
    case finish =>
      obtain ⟨hupd, hhbm⟩ := upd_opStep_of_martenAt hat hc
      rw [runOp_of_end] at hupd
      exact ⟨_, rfl, hhbm, hupd⟩
    case start =>
      exact ⟨_, congrArg Host.Outcome.next (martenStart_of_good hen hidle hq he hclose hok hprog hslices), mq_started hc _ _ _ _ _,
        fld_started_busy hc _ _ _ _ _, hbm_started _ _ _ _ _, upd_started hc _ _ _ _ _⟩
    case visit =>
      intro a r hnan
      exact congrArg Host.Outcome.next ((blockVisit_of_visit hupd he hv 0 bad listBad).trans (finishVisit_of_clean rfl hnan bad listBad))
    case restamp =>
      have hvisit := blockVisit_of_not_full hupd he hv hen hfull 0 bad listBad
      exact ⟨fun h => congrArg Host.Outcome.next (hvisit.trans (restampBlock_of_readable listBad h)),
        fun h => congrArg Host.Outcome.next (hvisit.trans (restampBlock_of_unreadable listBad h))⟩
    case seed =>
      have hs := regsOk_of_canon hc
      have hmoves := mrtSeed_moves s m seed.toNat (.refl [.regs] s) ⟨rfl⟩
      exact ⟨_, congrArg Host.Outcome.next (if_pos hup), fld_mrtSeed_seed hs m seed.isLt, fun c => fld_mrtSeed_ctr hs m _, hmoves.same .hbm (by decide),
        hmoves.same .mcs (by decide)⟩

end Sys2Proof.Machine
